-- ==== Sys2Proof/Word.lean ====
section
/-!
DEFINITION. The word types of the MK8128 model (R8, R9): bytes of records and memories, and the 32-bit words of the
register file. Times, indices, identifiers and counts are natural numbers; what the manual treats as bits is a bit vector.
-/
namespace Sys2Proof

/-- A byte of a record or a memory. -/
abbrev Byte := BitVec 8

/-- A register word (R9). -/
abbrev Word := BitVec 32

/-- A 64-bit register pair or bus address (R11). -/
abbrev Word64 := BitVec 64

/-- A sparse map: strictly rising keys, no entry equal to the value an unlisted key reads as. -/
abbrev SMap (V : Type) := List (Nat × V)

end Sys2Proof
end

