-- ==== Sys2Proof/Syntax.lean ====
section
/-!
DEFINITION. The commands of the MK8128: one constructor per row of the operation and event table, with the row's operands.
A host command carries its entry's fields (R284, R291–R300) and its header; a register command carries the value written and,
where it matters, the requester (R11); an event carries what happens outside the block when it occurs.
-/
namespace Sys2Proof

/-- Who accesses a register (R11): the host, or one of the control cores. -/
inductive Requester where
  | host
  | core (c : Nat)
deriving DecidableEq, Repr

/-- The header of a host command (R284, R285): the submission queue it came on, its CID, and how many of the device's internal
copies of it fail the host command checker (R477): none, one (it runs from the second copy), or both. -/
structure CmdHdr where
  sq  : Nat
  cid : BitVec 16
  badCopies : Nat := 0
deriving DecidableEq, Repr

/-- Bytes that the host stores at a bus address before a pass of the windlass. -/
structure HostStore where
  addr  : Nat
  bytes : List Byte
deriving DecidableEq, Repr

/-- QUEUE_CREATE (R296). -/
structure QueueCreateArgs where
  qid        : BitVec 18
  ty         : BitVec 4
  log2       : BitVec 5
  noSnoop    : Bool
  cqid       : BitVec 18
  base       : Word64
  vector     : BitVec 6
  vecEn      : Bool
  coalesceUs : BitVec 10
deriving DecidableEq, Repr

/-- TIME_CONTROL CLOCK (R402). -/
structure ClockArgs where
  domain : BitVec 8
  role : BitVec 2
  slaveOnly : Bool
  timeSource : BitVec 8
  priority1 : BitVec 8
  priority2 : BitVec 8
  classLocked : BitVec 8
  classHoldover : BitVec 8
  classFree : BitVec 8
  accuracy : BitVec 8
  variance : BitVec 16
  holdoverS : BitVec 32
deriving DecidableEq, Repr

/-- TIME_CONTROL PORT (R402). -/
structure PtpPortArgs where
  port : BitVec 3
  enable : Bool
  twoStep : Bool
  transport : BitVec 2
  hybrid : Bool
  vid : BitVec 12
  vlan : Bool
  pcp : BitVec 3
  dscp : BitVec 6
  logAnnounce : BitVec 8
  logSync : BitVec 8
  logDelayReq : BitVec 8
  announceTimeout : BitVec 8
  addr : BitVec 128
deriving DecidableEq, Repr

/-- TIME_CONTROL REFERENCE (R402). -/
structure ReferenceArgs where
  source : BitVec 2
  steer : Bool
  stepAny : Bool
  lockNs : BitVec 16
  unlockNs : BitVec 16
  stepNs : BitVec 32
  rateLimitPpm : BitVec 10
deriving DecidableEq, Repr

/-- The values of TIME_CONTROL TIMECODE (R402) and of a parent's metadata TLV (R403). -/
structure TimecodeArgs where
  localOffset : BitVec 32
  jumpSeconds : BitVec 32
  nextJump : BitVec 48
  nextJam : BitVec 48
  prevJamOffset : BitVec 32
  dst : Bool
  leapJump : Bool
  utcValid : Bool
  utcOffset : BitVec 16
deriving DecidableEq, Repr

/-- What firmware's protocol takes from a received PTP message (R399, R400, R403): the port in SLAVE after it, the
parentPortIdentity, and the metadata TLV when the message carried one; its messageType (0 Sync, 1 Delay_Req, 11 Announce); the port's
portState after it; offsetFromMaster and meanPathDelay in 0.25 ns where it gives them (R185); and what the parent's Announce says:
stepsRemoved, grandmaster class, accuracy and identity; and `demoted`, the state of a port that is SLAVE no longer. -/
structure PtpDecision where
  slave  : Option Nat
  parent : Nat
  tlv    : Option TimecodeArgs
  msg    : Nat := 0
  portState : Nat := 4
  demoted : Nat := 6
  offset : Option (Int × Nat) := none
  stepsRemoved : Nat := 0
  gmClass : Nat := 248
  gmAccuracy : Nat := 254
  gmIdentity : Nat := 0
deriving DecidableEq, Repr

/-- The PTP messages that firmware sends at their intervals (R399). -/
inductive PtpKind where
  | sync | announce | delayReq | metadataTlv
deriving DecidableEq, Repr

/-- One of the two wells. -/
inductive WellSel where
  | cell | page
deriving DecidableEq, Repr

/-- A well quota register (R328). -/
inductive QuotaReg where
  | cellQuota | pageReserve | pageLimit
deriving DecidableEq, Repr

/-- A fault message that a block outside the modelled steps detects (R481). -/
structure RaisedMsg where
  source  : BitVec 10
  kind    : BitVec 8
  address : BitVec 48
  detail  : BitVec 32
deriving DecidableEq, Repr

/-- An entry of the boot flash's directory (R520) with its container's bytes. -/
structure FlashEntry where
  target    : BitVec 3
  mask      : BitVec 8
  container : List Nat
deriving DecidableEq, Repr

/-- What self-test found (R519, R521). `failStep` is the first failing step; the image fields hold R521's codes. -/
structure SelfTestResult where
  failStep  : Option Nat
  hbmTrainFail : Option Nat
  durationUs : BitVec 32
  sramFail  : BitVec 32
  hbmFailCh : BitVec 16
  lanesRepaired : BitVec 8
  lbistFail : BitVec 8
  portFail  : BitVec 8
  twilanFail : BitVec 4
  vendorImg : BitVec 2
  openImg   : BitVec 2
  firmware  : BitVec 2
  controller : BitVec 2
  flash     : List FlashEntry := []
deriving DecidableEq, Repr

/-- A frame as the MAC of a port gives it (R357): the bytes from the destination address up to the end of the payload (R356), whether its FCS
was good, and its receive time in 0.25 ns at the SerDes; of the FEC codewords up to its end since the frame before it, those corrected and those
uncorrectable (R386), and whether the symbol error rate stands above the degrade threshold of Clause 91 (R383). -/
structure RxFrame where
  bytes : List Byte
  fcsOk : Bool
  rxTs  : Nat
  fecCorr : Nat := 0
  fecUncorr : Nat := 0
  hiSer : Bool := false
deriving DecidableEq, Repr

/-- A segment of an ST 2110-20 packet (R366): the line and first pixel its header names, and its samples as (luma, Cb, Cr). -/
structure RowSegment where
  row    : Nat
  offset : Nat
  luma   : List Nat
  cb     : List Nat
  cr     : List Nat
deriving DecidableEq, Repr

/-- An ST 2110-20 packet as its headers read (R365, R366). -/
structure VideoPacket where
  timestamp : Nat
  segments  : List RowSegment
  overrun   : Bool
  /-- The sample row data headers and the payload as they stand in the packet (R367); empty for a position that the peer gave. -/
  raw       : List Nat := []
deriving DecidableEq, Repr

/-- A request that an HBM requester port accepts (R429, R433). -/
structure HbmReqArgs where
  port  : Nat
  addr  : Nat
  write : Bool
  open_ : Bool
deriving DecidableEq, Repr

/-- What an HBM read serves (R438, R440): a pump or another requester without further effect; a block that a coding band of a
tambour reads, of a picture that is a reference or not; a block of an egress reader's band. -/
inductive HbmReader where
  | plain
  | encode (tambour : Nat) (reference : Option Nat)
  /-- The regions of the CTUs whose decoding reads the block. -/
  | decode (tambour : Nat) (regions : List Nat)
  /-- The raster index of the block's first pixel. -/
  | egress (channel pixel : Nat)
  /-- The last block of a verifying stream: channel, slot, ledger row, first block address, and the value accumulated. -/
  | verify (channel slot row : Nat) (first : Nat) (value : Nat)
deriving DecidableEq, Repr

/-- What a TIME or CONTROL frame says (R199–R201, R216, R217, R220); the manual gives those payloads no layout. `version` is that
of the frame's header. -/
inductive TwMsg where
  /-- A follower's request with T1, and a leader's response with T1, T2 and T3, in 0.25 ns (R200). -/
  | timeRequest (t1 : Nat)
  | timeResponse (t1 t2 t3 : Nat)
  /-- The 16 bytes of R217. -/
  | heartbeat (v : Nat)
  /-- Release records of 16 bytes (R209). -/
  | release (rs : List Nat)
  /-- The 208 bytes of R204. -/
  | ledger (v : Nat)
  | hello (version session : Nat) (ready leader : Bool)
  /-- The values R199 compares: PART, role, the digests of vendor microcode and open pricking of every enabled tambour, the firmware's. -/
  | check (version part : Nat) (leader : Bool) (vendor opened : List Nat) (firmware : Nat)
  | twinned
  | arm (ch digest startNs : Nat)
  | armWithdraw (ch : Nat)
  | diverge (ch pic tambour : Nat)
  | bye
  | resetPeer
  /-- The 24-byte head of R208 and the piece's bytes. -/
  | reconcile (head : Nat) (data : List Nat)
  /-- The 20-byte head of R214 and the piece's bytes. -/
  | mirror (head : Nat) (data : List Nat)
deriving DecidableEq, Repr

/-- A Twilan frame as received (R193): the 16-byte header, the payload, the trailer; and what the payload of a TIME or CONTROL
frame says, whose layouts the manual does not give. The payloads of the other classes are read from their bytes. -/
structure RxTwilan where
  hdr     : Nat
  payload : List Byte
  trailer : Nat
  text    : Option TwMsg
deriving DecidableEq, Repr

/-- A picture as its first slice header and its SEI read (R148, R152, R154, R160): slice type, output order count, whether later
pictures may refer to it, whether it is output, whether decoding can start at it, the pictures (by decode order) that the DPB holds
while it is decoded, PLAN_ID and PREV_FILLED of the vendor user data; that it begins a coded video sequence without being an IDR picture
(BLA); the CTB columns and rows at which its tiles after the first begin (R147). -/
structure PicNote where
  ptype  : Nat
  poc    : Int
  isRef  : Bool
  output : Bool
  starts : Bool
  held   : List Nat
  plan   : Nat := 0
  filled : Nat := 0
  begins : Bool := false
  tileX  : List Nat := []
  tileY  : List Nat := []
deriving DecidableEq, Repr

/-- The profile that a stream's SPS signals: one of R146's, an HEVC profile with its Intra variant, or another. -/
inductive StreamProfile where
  | main | main10 | main12 | main422x10 | main422x12 | main444 | main444x12
  | high | high10 | high422 | high422Intra
  | other
deriving DecidableEq, Repr

/-- How a stream codes its pictures: frames, single fields, or MBAFF frames (R147). -/
inductive StreamScan where
  | frames | fields | mbaff
deriving DecidableEq, Repr

/-- An SPS as it reads (R148): the NAL unit syntax is AVC's, the profile, ten times the level, the cropped output size of a coded picture (of
the frame, for AVC fields), the scan, chroma_format_idc, the bit depths, the decoded picture buffer size as R148 counts it, the CTB size
(16 for AVC). -/
structure SpsNote where
  avc     : Bool
  profile : StreamProfile
  level   : Nat
  width   : Nat
  height  : Nat
  scan    : StreamScan
  chroma  : Nat
  depthY  : Nat
  depthC  : Nat
  dpb     : Nat
  ctb     : Nat
deriving DecidableEq, Repr

/-- A slice segment whose first bytes stand in a packet (R153): the region number of its first CTU, its slice type (1 IDR, 2 I, 3 P, 4 B),
whether it is a dependent segment, and the bits of its NAL unit in the packet. -/
structure SegNote where
  first : Nat
  ptype : Nat
  dep   : Bool := false
  bits  : Nat := 0
deriving DecidableEq, Repr

/-- What the depacketizer reads in a packet's NAL units, or in an injected entry (R148, R153, R159): whether it begins with a later fragment
of a slice NAL unit, and the bits of the slice NAL unit that it carries on; the slice segments that begin in it; the bits of its other NAL
units; whether it holds the last bytes of a slice segment; an SPS; whether valid parameter sets are now complete; the picture; and a
decoded picture hash message (1 MD5, 2 CRC, 3 checksum, with its bytes). -/
structure StreamNote where
  frag    : Bool := false
  bits    : Nat := 0
  segs    : List SegNote := []
  nonVcl  : Nat := 0
  ends    : Bool := false
  sps     : Option SpsNote := none
  sets    : Bool := false
  pic     : Option PicNote := none
  hash    : Option (Nat × List Nat) := none
deriving DecidableEq, Repr

/-- What the stitches find for a block of a decode band: its samples; the QPs of its quantisation groups or macroblock, each with the 8 × 8
areas it covers; the classes of
its four 8 × 8 areas, or the one of all (0 skip, 1 merge, 2 other inter, 3 intra); the vector with the POC distance it spans; the regions of reference pictures and of the picture itself
that its predictions read (R160); a reference absent from the DPB. Of its CTU's parse (R158): the packet of its slice segment, counted from
the segment's first, that the parse has reached at the CTU's end; the one at which an entry point of WPP or tiles begins the CTU; a parse
error; and that the segment ends with the CTU. -/
structure DecBlock where
  luma       : List Nat
  cb         : List Nat
  cr         : List Nat
  qps        : List (Int × Nat)
  units      : List Nat
  mv         : Option (Int × Int × Int)
  refReads   : List (Nat × Nat)
  ownReads   : List Nat
  refMissing : Bool
  reads      : Nat
  entry      : Option Nat
  parseError : Bool
  segEnd     : Bool
deriving DecidableEq, Repr

/-- What a block slot works on: a band that is encoded, of which everything is known, or a block of a decode band. -/
inductive BlockWork where
  | enc
  | dec (b : DecBlock)
deriving DecidableEq, Repr

/-- What the sequencer of a tambour sees from outside itself as a word executes: the machine conditions that are true (R233). -/
structure SeqView where
  machine : List Nat
deriving DecidableEq, Repr

/-- What a preload that has ended was for (R46, R69): a tambour's bank, or the half of the hoop window that goes with it. -/
structure PreloadEnd where
  tambour : Nat
  window  : Bool
deriving DecidableEq, Repr

/-- What comes with a servo sample (R404–R406): the rate that the servo asks for, and REF10M_IN's error in 10^-9 where it has been measured. -/
structure ServoAsk where
  rate   : Int
  ref10m : Option Int := none
deriving DecidableEq, Repr

/-- The commands, in the order of the operation and event table; the rule that governs each stands in its comment. -/
inductive Instr where
  /-- NOP (R289). -/
  | nop (h : CmdHdr)
  /-- CHANNEL_CREATE (R291). -/
  | channelCreate (h : CmdHdr) (channel : BitVec 8) (decode : Bool) (ccrAddr : Word64) (evq : BitVec 18)
  /-- CHANNEL_CONFIGURE (R292). -/
  | channelConfigure (h : CmdHdr) (channel : BitVec 8) (ccrAddr : Word64)
  /-- CHANNEL_START (R295). -/
  | channelStart (h : CmdHdr) (channel : BitVec 8) (join : Bool) (sec : BitVec 48) (ns : BitVec 32)
  /-- CHANNEL_STOP (R295). -/
  | channelStop (h : CmdHdr) (channel : BitVec 8) (sec : BitVec 48) (ns : BitVec 32)
  /-- CHANNEL_DESTROY (R294). -/
  | channelDestroy (h : CmdHdr) (channel : BitVec 8)
  /-- FORCE_INTRA (R93). -/
  | forceIntra (h : CmdHdr) (channel : BitVec 8)
  /-- PICTURE_PLAN (R131). -/
  | picturePlan (h : CmdHdr) (channel : BitVec 8) (planAddr : Word64)
  /-- QUEUE_CREATE (R309). -/
  | queueCreate (h : CmdHdr) (q : QueueCreateArgs)
  /-- QUEUE_DESTROY (R310). -/
  | queueDestroy (h : CmdHdr) (qid : BitVec 18)
  /-- FLOW_BIND (R362). -/
  | flowBind (h : CmdHdr) (channel : BitVec 8) (flow : BitVec 11) (egress : Bool) (solo : Bool) (port : BitVec 3) (recAddr : Word64) (recLen : BitVec 24)
  /-- UNBIND (R362). -/
  | unbind (h : CmdHdr) (flow : BitVec 11) (egress : Bool)
  /-- GATE_LIST_LOAD (R376). -/
  | gateListLoad (h : CmdHdr) (port : BitVec 3) (count : BitVec 10) (listAddr : Word64) (baseSec : BitVec 48) (baseNs : BitVec 32) (cycleNs : BitVec 32)
  /-- SHAPER_SET (R372). -/
  | shaperSet (h : CmdHdr) (flow : BitVec 11) (k : BitVec 4) (rate : BitVec 40) (burst : BitVec 24)
  /-- STATS_SUBSCRIBE (R186). -/
  | statsSubscribe (h : CmdHdr) (qid : BitVec 18) (kind : BitVec 2) (source : BitVec 11) (classes : BitVec 3) (intervalMs : BitVec 14) (coalesceUs : BitVec 10)
  /-- STATS_UNSUBSCRIBE (R186). -/
  | statsUnsubscribe (h : CmdHdr) (qid : BitVec 18) (kind : BitVec 2) (source : BitVec 11)
  /-- PRICKING_LOAD (R251). -/
  | prickingLoad (h : CmdHdr) (mask : BitVec 8) (addr : Word64) (len : BitVec 24)
  /-- FIRMWARE_LOAD (R297). -/
  | firmwareLoad (h : CmdHdr) (customer : Bool) (addr : Word64) (len : BitVec 24)
  /-- TWIN_START (R198). -/
  | twinStart (h : CmdHdr)
  /-- TWIN_STOP (R198). -/
  | twinStop (h : CmdHdr)
  /-- YIELD (R220). -/
  | yield (h : CmdHdr)
  /-- REJOIN (R221). -/
  | rejoin (h : CmdHdr)
  /-- RESET_PEER (R220). -/
  | resetPeer (h : CmdHdr)
  /-- TIME_CONTROL_CLOCK (R402). -/
  | timeControlClock (h : CmdHdr) (p : ClockArgs)
  /-- TIME_CONTROL_PORT (R402). -/
  | timeControlPort (h : CmdHdr) (p : PtpPortArgs)
  /-- TIME_CONTROL_REFERENCE (R402). -/
  | timeControlReference (h : CmdHdr) (p : ReferenceArgs)
  /-- SET_TIME (R402). -/
  | setTime (h : CmdHdr) (relative : Bool) (force : Bool) (sec : BitVec 64) (ns : BitVec 32)
  /-- TIMECODE (R402). -/
  | timecode (h : CmdHdr) (p : TimecodeArgs)
  /-- QUERY (R299). -/
  | query (h : CmdHdr) (selector : BitVec 4) (object : BitVec 18) (bufAddr : Word64) (bufLen : BitVec 24)
  /-- RESET (R300). -/
  | reset (h : CmdHdr) (level : BitVec 2)
  /-- MAILBOX_PLAN (R130). -/
  | mailboxPlan (channel slot : Nat) (customer : Bool) (put : Option Nat)
  /-- RC_PLAN (R135). -/
  | rcPlan (channel : Nat)
  /-- HOST_ENABLE (R271). -/
  | hostEnable (epoch : Bool)
  /-- DEV_RESET (R270). -/
  | devReset (level : BitVec 8) (key : BitVec 24)
  /-- WINDLASS_PASS (R275). -/
  | windlassPass (stores : List HostStore) (bad : List (Nat × Nat))
  /-- WINDLASS_HALT (R278). -/
  | windlassHalt (atomic : Bool)
  /-- HELD_COMPLETION_WRITE (R288). -/
  | heldCompletionWrite (cq : Nat)
  /-- MSIX_MESSAGE (R287). -/
  | msixMessage (q : Nat)
  /-- MSIX_UNMASK (R463). -/
  | msixUnmask (v : Nat)
  /-- BAR_MISALIGNED (R9). -/
  | barMisaligned (addr : Nat)
  /-- REGISTER_WRITE (R12). -/
  | registerWrite (who : Requester) (addr : Nat) (v : Word)
  /-- RC_READ (R12). -/
  | rcRead (who : Requester) (addr : Nat)
  /-- CH_RUNNING (R294). -/
  | chRunning (channel : Nat)
  /-- STOP_TIME_REACHED (R294). -/
  | stopTimeReached (channel : Nat)
  /-- BAND_WINDOW_OPEN (R36). -/
  | bandWindowOpen (channel pic band : Nat)
  /-- BAND_INPUT_DEADLINE (R36). -/
  | bandInputDeadline (channel pic band : Nat)
  /-- INPUT_COMPLEXITY (R68). -/
  | inputComplexity (channel pic band : Nat)
  /-- CONTEXT_PRELOAD_DONE (R46). -/
  | contextPreloadDone (e : PreloadEnd)
  /-- BANK_WRITEBACK_DONE (R46). -/
  | bankWritebackDone (tambour : Nat)
  /-- SWITCH_COMPLETE (R47). -/
  | switchComplete (tambour : Nat)
  /-- MICROWORD_EXECUTE (R231). -/
  | microwordExecute (tambour : Nat) (view : SeqView)
  /-- BLOCK_SLOT (R65). -/
  | blockSlot (tambour : Nat) (work : BlockWork)
  /-- HOOK_OVERRUN (R243). -/
  | hookOverrun (tambour : Nat)
  /-- BAND_ABANDON (R50). -/
  | bandAbandon (channel pic band : Nat)
  /-- REPAIR_PASS_END (R164). -/
  | repairPassEnd (tambour : Nat)
  /-- PACKETIZER_DRAIN (R342). -/
  | packetizerDrain (tambour corrected : Nat) (uncorrectable : Bool)
  /-- BAND_RELEASE (R115). -/
  | bandRelease (channel pic band : Nat)
  /-- STATS_BAND_RECORD (R187). -/
  | statsBandRecord (channel pic band : Nat)
  /-- PICTURE_TIME (R111). -/
  | pictureTime (channel pic : Nat)
  /-- WAKE_START (R27). -/
  | wakeStart (hoop : Nat)
  /-- SLEW_GRANT (R516). -/
  | slewGrant
  /-- HOOP_CLOCK_GOOD (R27). -/
  | hoopClockGood (hoop : Nat)
  /-- WELL_ALLOCATE (R317). -/
  | wellAllocate (w : WellSel) (reqs : List Nat) (free : Option (Nat × Nat))
  /-- WELL_FREE (R321). -/
  | wellFree (w : WellSel) (addr : Nat) (owner : Nat)
  /-- CELL_REBUILD_END (R322). -/
  | cellRebuildEnd
  /-- PAGE_CACHE_REFILL (R316). -/
  | pageCacheRefill
  /-- PAGE_CACHE_SPILL (R316). -/
  | pageCacheSpill
  /-- PAGE_REBUILD_END (R322). -/
  | pageRebuildEnd
  /-- WEL_QUOTA_WRITE (R320). -/
  | welQuotaWrite (reg : QuotaReg) (owner : Nat) (v : Word)
  /-- PAGE_UNITS_WRITE (R324). -/
  | pageUnitsWrite (units : BitVec 8)
  /-- PUMP_DESCRIPTOR_START (R336). -/
  | pumpDescriptorStart (n : Nat) (put : Option Nat)
  /-- PUMP_DONE (R339). -/
  | pumpDone (n : Nat)
  /-- PUMP_ERROR (R340). -/
  | pumpError (n : Nat) (written : Nat) (host : Bool) (addr : Nat)
  /-- FRAME_RECEIVE (R357). -/
  | frameReceive (port : Nat) (f : RxFrame)
  /-- INGRESS_WRITE (R366): of the frame of a flow that begins in a cell. -/
  | ingressWrite (flow cell : Nat)
  /-- DEPACKETIZE (R153). -/
  | depacketize (flow : Nat) (note : StreamNote)
  /-- SEQUENCE_LOST (R151). -/
  | sequenceLost (channel seq : Nat)
  /-- INJECT_ENTRY (R122). -/
  | injectEntry (channel : Nat) (note : StreamNote)
  /-- OUTPUT_SLOT (R155). -/
  | outputSlot (channel : Nat)
  /-- EGRESS_BAND_START (R156). -/
  | egressBandStart (channel : Nat)
  /-- GATE_PICK (R378). -/
  | gatePick (port : Nat)
  /-- GATE_ENTRY_END (R376). -/
  | gateEntryEnd (port : Nat)
  /-- GATE_SWITCH (R380). -/
  | gateSwitch (port : Nat)
  /-- SHAPER_REFILL (R372). -/
  | shaperRefill (flow : Nat)
  /-- MEMBERSHIP_REPORT (R363). -/
  | membershipReport (flow : Nat)
  /-- NET_PORT_ENABLE (R382). -/
  | netPortEnable (port : Nat) (on : Bool)
  /-- LINK_UP (R391). -/
  | linkUp (port : Nat)
  /-- LINK_DOWN (R391). -/
  | linkDown (port : Nat)
  /-- AO_TICK (R392). -/
  | aoTick
  /-- TIME_INC_ADJ_WRITE (R393). -/
  | timeIncAdjWrite (who : Requester) (v : Word)
  /-- TIME_STEP_WRITE (R419). -/
  | timeStepWrite (who : Requester) (hi : Word)
  /-- TIME_LATCH (R395). -/
  | timeLatch
  /-- PTP_MESSAGE_RECEIVE (R399). -/
  | ptpMessageReceive (port : Nat) (d : PtpDecision)
  /-- PTP_MESSAGE_SEND (R399). -/
  | ptpMessageSend (port : Nat) (kind : PtpKind)
  /-- ANNOUNCE_RECEIPT_TIMEOUT (R404). -/
  | announceReceiptTimeout
  /-- SERVO_SAMPLE (R404). -/
  | servoSample (offset : Int) (ask : ServoAsk)
  /-- HOLDOVER_EXPIRE (R404). -/
  | holdoverExpire
  /-- PPS_IN_EDGE (R406). -/
  | ppsInEdge (falling : Bool) (ts : Nat)
  /-- REF_LOST (R410). -/
  | refLost (ref10m : Bool)
  /-- TLV_TIMEOUT (R403). -/
  | tlvTimeout
  /-- TIME_OSC_CODE (R407). -/
  | timeOscCode (who : Requester) (code : Word)
  /-- OSC_SPI_FRAME_END (R407). -/
  | oscSpiFrameEnd
  /-- TIME_TOUT_EN_WRITE (R413). -/
  | timeToutEnWrite (en : BitVec 8)
  /-- TIMING_OUTPUT_EDGE (R411). -/
  | timingOutputEdge (n : Nat)
  /-- STATS_INTERVAL_END (R183). -/
  | statsIntervalEnd (kind source : Nat)
  /-- TWILAN_LINK_UP (R199). -/
  | twilanLinkUp
  /-- TWILAN_FRAME_RECEIVE (R194). -/
  | twilanFrameReceive (f : RxTwilan)
  /-- TWILAN_LINK_FRAME (R195). -/
  | twilanLinkFrame
  /-- TWILAN_RETRANSMIT (R195). -/
  | twilanRetransmit (fseq : Nat)
  /-- HELLO (R199). -/
  | hello
  /-- CHECK (R199). -/
  | check
  /-- TIME_EXCHANGE (R200). -/
  | timeExchange
  /-- TIME (R200). -/
  | time
  /-- START_TIMEOUT (R201). -/
  | startTimeout
  /-- ARM (R191). -/
  | arm
  /-- LEDGER_POINT (R203). -/
  | ledgerPoint (channel pic : Nat)
  /-- LEDGER (R204). -/
  | ledger
  /-- TOKEN_DUE (R205). -/
  | tokenDue (channel pic : Nat)
  /-- RECONCILE_REQUEST (R206). -/
  | reconcileRequest
  /-- RECONCILE_DATA (R208). -/
  | reconcileData
  /-- RECONCILE_CLOSE (R207). -/
  | reconcileClose (channel pic band : Nat)
  /-- RELEASE (R212). -/
  | release
  /-- MIRROR_REQUEST (R214). -/
  | mirrorRequest
  /-- MIRROR_DATA (R215). -/
  | mirrorData
  /-- MIRROR_BUFFER_EXPIRE (R214). -/
  | mirrorBufferExpire
  /-- DIVERGE (R216). -/
  | diverge
  /-- HEARTBEAT_SEND (R217). -/
  | heartbeatSend
  /-- HEARTBEAT (R217). -/
  | heartbeat
  /-- HEARTBEAT_MISS (R217). -/
  | heartbeatMiss
  /-- BYE (R217). -/
  | bye
  /-- RESET_PEER_REQUEST (R220). -/
  | resetPeerRequest
  /-- TWIN_YIELD_N_INPUT (R217). -/
  | twinYieldNInput (asserted : Bool)
  /-- YIELD_COMPLETE (R220). -/
  | yieldComplete
  /-- TWN_CTRL_YIELD (R222). -/
  | twnCtrlYield
  /-- INTERRUPT_ASSERTION (R455). -/
  | interruptAssertion (src : Nat)
  /-- IRQ_CLAIM (R457). -/
  | irqClaim (core : Nat)
  /-- IRQ_COMPLETE (R458). -/
  | irqComplete (core : Nat) (v : Word)
  /-- IRQ_PENDING_CLEAR (R455). -/
  | irqPendingClear (src : Nat)
  /-- IRQ_SWI (R466). -/
  | irqSwi (mask : BitVec 4)
  /-- IRQ_EVQ_HEAD (R462). -/
  | irqEvqHead (core : Nat) (head : Word)
  /-- FAULT_MESSAGE (R486). -/
  | faultMessage (m : Option RaisedMsg)
  /-- CH_FAULTED (R560). -/
  | chFaulted (channel : Nat)
  /-- FLT_INJECT (R499). -/
  | fltInject (who : Requester) (kind : BitVec 8) (cls : BitVec 2) (key : BitVec 16)
  /-- FLT_LOG_CLR (R500). -/
  | fltLogClr (clr : Bool)
  /-- FLT_KIND_WRITE (R487). -/
  | fltKindWrite (kind : BitVec 8) (cls : BitVec 2)
  /-- POR (R503). -/
  | por (bad : Bool)
  /-- RST_N (R506). -/
  | rstN (low : Bool)
  /-- PERST_N (R506). -/
  | perstN (low : Bool)
  /-- PCIE_HOT_RESET (R503). -/
  | pcieHotReset
  /-- PCIE_LINK_DOWN (R503). -/
  | pcieLinkDown
  /-- WDOG_EXPIRE (R531). -/
  | wdogExpire (core : Nat)
  /-- WATCHDOG_HALF (R531). -/
  | watchdogHalf (core : Nat)
  /-- RST_WDOG_WRITE (R531). -/
  | rstWdogWrite (core : Nat) (us : BitVec 24)
  /-- RESET_RELEASE (R508). -/
  | resetRelease (cut : Bool) (role : Bool)
  /-- CLOCK_GOOD (R509). -/
  | clockGood (clk : Nat)
  /-- CLK_LOST (R509). -/
  | clkLost (clk : Nat)
  /-- SELF_TEST_END (R519). -/
  | selfTestEnd (r : SelfTestResult)
  /-- RST_BLOCK (R510). -/
  | rstBlock (who : Requester) (block : BitVec 10)
  /-- BLOCK_IDLE (R510). -/
  | blockIdle
  /-- IDLE_TIMEOUT (R510). -/
  | idleTimeout
  /-- BLOCK_RELEASE (R510). -/
  | blockRelease
  /-- RST_MAP_WRITE (R505). -/
  | rstMapWrite (hi : Bool) (v : Word)
  /-- FUSE_PROG_CMD (R512). -/
  | fuseProgCmd (word : BitVec 7) (key : BitVec 16)
  /-- FUSE_PULSE_END (R512). -/
  | fusePulseEnd
  /-- THERMAL_SAMPLE (R555). -/
  | thermalSample (n : Nat) (temp : Int) (valid : Bool)
  /-- HBM_COMMAND_ISSUE (R431). -/
  | hbmCommandIssue (pc : Nat) (arrivals : List HbmReqArgs)
  /-- HBM_READ_RETURN (R438). -/
  | hbmReadReturn (port : Nat) (addr : Nat) (latencyNs : Nat) (severity : BitVec 2) (reader : HbmReader)
  /-- HBM_REFRESH (R435). -/
  | hbmRefresh (pc : Nat) (bank : Nat)
  /-- HBM_TEMP_READ (R435). -/
  | hbmTempRead (t : Int)
  /-- SELF_REFRESH_ENTRY (R436). -/
  | selfRefreshEntry
  /-- SELF_REFRESH_EXIT (R436). -/
  | selfRefreshExit (wake : Bool)
  /-- WCK_RETRACK (R437). -/
  | wckRetrack (channel : Nat)
  /-- HBM_TRAIN (R437). -/
  | hbmTrain
  /-- HBM_PORT_CFG_WRITE (R432). -/
  | hbmPortCfgWrite (n : Nat) (v : Word)
  /-- CK_CFG_WRITE (R474). -/
  | ckCfgWrite (n : Nat) (v : Word)
  /-- CK_START (R478). -/
  | ckStart (n : Nat)
  /-- CK_DATA (R473). -/
  | ckData (n : Nat) (v : Word)
  /-- CK_VALUE_RESTORE (R475). -/
  | ckValueRestore (who : Requester) (n : Nat) (hi : Word)
  /-- CK_ALIVE (R476). -/
  | ckAlive (n : Nat) (slot : BitVec 5) (v : BitVec 8)
  /-- CK_ALIVE_CLR (R478). -/
  | ckAliveClr (n : Nat) (mask : Word)
  /-- TWILAN_LINK_DOWN (R223). -/
  | twilanLinkDown
  /-- TWINNED_NOTICE (R201). -/
  | twinnedNotice
  /-- PRICKING_LOAD_WRITE_END (R251). -/
  | prickingLoadWriteEnd
  /-- FIRMWARE_LOAD_END (R297). -/
  | firmwareLoadEnd
  /-- HBM_TRAINING_END (R437). -/
  | hbmTrainingEnd (failed : Option Nat) (lanes : BitVec 8)
  /-- FILTERED_LINE_FALL (R452). -/
  | filteredLineFall (src : Nat)
  /-- OPEN_ROW_IDLE_CLOSE (R433). -/
  | openRowIdleClose (pc : Nat) (bank : Nat)
deriving DecidableEq, Repr

end Sys2Proof
end

