-- ==== Sys2Proof/Decode.lean ====
section
/-!
DEFINITION. The commands that words spell. The operation and event table gives no row any bits: a command is an entry on a
ring, a register access or an event, and its fields stand in the rule that governs it. So no word spells a command.
-/
namespace Sys2Proof

/-- The command that the bits of `w` spell: none, since no row of the table has bits. -/
def decodeTableWord (_nbits _w : Nat) : Option Instr := none

end Sys2Proof
end

