-- ==== Sys2Proof/Machine/Bits.lean ====
section
/-!
DEFINITION. Bit fields and little-endian records (R8, R13): a record is the number its bytes spell, least significant
byte first; fields are cut out of it and packed into it by their lowest bit and width.
-/
namespace Sys2Proof

/-- Bits [lo + w − 1 : lo] of `v` (R8). -/
def bitsAt (v lo w : Nat) : Nat := v / 2 ^ lo % 2 ^ w

/-- Bit `i` of `v`. -/
def bitAt (v i : Nat) : Bool := bitsAt v i 1 = 1

/-- 1 for true, 0 for false. -/
def b2n (b : Bool) : Nat := if b then 1 else 0

/-- Packs fields (width, value), the first at bit 0; each value is cut to its width. -/
def packFields (fs : List (Nat × Nat)) : Nat :=
  fs.foldr (fun f rest => f.2 % 2 ^ f.1 + 2 ^ f.1 * rest) 0

/-- The number that `n` little-endian bytes of `f` from address `a` on spell. -/
def leNat (f : Nat → Byte) (a n : Nat) : Nat :=
  match n with
  | 0 => 0
  | k + 1 => (f a).toNat + 256 * leNat f (a + 1) k

/-- Byte `i` of the record `v`. -/
def byteOf (v i : Nat) : Byte := BitVec.ofNat 8 (v / 256 ^ i)

/-- The first `n` bytes of the record `v`. -/
def bytesOf (v n : Nat) : List Byte := (List.range n).map (byteOf v)

/-- The number that a list of bytes spells, least significant first. -/
def natOfBytes (bs : List Byte) : Nat := bs.foldr (fun b r => b.toNat + 256 * r) 0

/-- Adds 1 and stays at the top of a counter of `w` bits (saturating counters). -/
def satInc (w v : Nat) : Nat := min (v + 1) (2 ^ w - 1)

/-- Adds `n` with saturation at `w` bits. -/
def satAdd (w v n : Nat) : Nat := min (v + n) (2 ^ w - 1)

/-- Two's complement of `w` bits read as an integer. -/
def toSigned (w v : Nat) : Int := if v % 2 ^ w < 2 ^ (w - 1) then (v % 2 ^ w : Nat) else (v % 2 ^ w : Nat) - (2 ^ w : Nat)

/-- An integer cut to `w` bits, two's complement. -/
def ofSigned (w : Nat) (x : Int) : Nat := (x % (2 ^ w : Nat)).toNat

/-- Entry `i` of a list of flags or values, `d` beyond its end. -/
def nth {α : Type} (l : List α) (i : Nat) (d : α) : α := l.getD i d

/-- The list with entry `i` replaced by `f` of it. -/
def modNth {α : Type} (l : List α) (i : Nat) (f : α → α) : List α := l.modify i f

end Sys2Proof
end

