-- ==== Sys2Proof/Machine/Crc.lean ====
section
/-!
DEFINITION. The CRC model of the check units (R470) and its presets (R471). Every CRC that a record, a link word or a digest
of the manual holds is one of these.
-/
namespace Sys2Proof

/-- The parameters of a CRC (R470). -/
structure CrcModel where
  width  : Nat
  poly   : Nat
  init   : Nat
  xorout : Nat
  refin  : Bool
  refout : Bool
deriving DecidableEq, Repr

/-- Reverses the low `w` bits of `v` (R470 reflect). -/
def reflectBits (w v : Nat) : Nat :=
  match w with
  | 0 => 0
  | k + 1 => 2 ^ k * (v % 2) + reflectBits k (v / 2)

/-- One bit of the running value's step (R470). -/
def crcBit (w poly reg bit : Nat) : Nat :=
  let top := (reg / 2 ^ (w - 1)) % 2 ^^^ bit
  let sh := (2 * reg) % 2 ^ w
  if top = 1 then sh ^^^ poly else sh

/-- One byte of the running value's step: its bits from the highest down, reflected first with REFIN (R470). -/
def crcByte (w poly : Nat) (refin : Bool) (reg b : Nat) : Nat :=
  let b := if refin then reflectBits 8 b else b
  [7, 6, 5, 4, 3, 2, 1, 0].foldl (fun r i => crcBit w poly r (b / 2 ^ i % 2)) reg

/-- Feeds bytes into a running value (R470, R473). -/
def crcFeed (m : CrcModel) (reg : Nat) (bs : List Nat) : Nat :=
  bs.foldl (crcByte m.width m.poly m.refin) reg

/-- The result for a running value (R470 out). -/
def crcOut (m : CrcModel) (reg : Nat) : Nat :=
  (if m.refout then reflectBits m.width reg else reg) ^^^ m.xorout

/-- The CRC of a byte string. -/
def crcOf (m : CrcModel) (bs : List Nat) : Nat := crcOut m (crcFeed m m.init bs)

/-- The presets (R471), by PRESET; a number without a preset gives none. -/
def crcPreset (n : Nat) : Option CrcModel :=
  match n with
  | 1 => some ⟨32, 0x1EDC6F41, 0xFFFFFFFF, 0xFFFFFFFF, true, true⟩
  | 2 => some ⟨32, 0x04C11DB7, 0xFFFFFFFF, 0xFFFFFFFF, true, true⟩
  | 3 => some ⟨16, 0x1021, 0xFFFF, 0, false, false⟩
  | 4 => some ⟨8, 0x2F, 0xFF, 0xFF, false, false⟩
  | 5 => some ⟨64, 0x42F0E1EBA9EA3693, 0, 0, false, false⟩
  | _ => none

/-- The little-endian bytes of a record, as numbers. -/
def recBytes (v n : Nat) : List Nat := (List.range n).map (fun i => v / 256 ^ i % 256)

/-- CRC-32C (preset 1) of the first `n` bytes of a record. -/
def crc32c (v n : Nat) : Nat := crcOf ⟨32, 0x1EDC6F41, 0xFFFFFFFF, 0xFFFFFFFF, true, true⟩ (recBytes v n)

/-- CRC-16/CCITT (preset 3) of the first `n` bytes of a record. -/
def crc16 (v n : Nat) : Nat := crcOf ⟨16, 0x1021, 0xFFFF, 0, false, false⟩ (recBytes v n)

/-- CRC-8 (preset 4) of the first `n` bytes of a record. -/
def crc8 (v n : Nat) : Nat := crcOf ⟨8, 0x2F, 0xFF, 0xFF, false, false⟩ (recBytes v n)

/-- CRC-64/ECMA (preset 5) of the first `n` bytes of a record. -/
def crc64 (v n : Nat) : Nat := crcOf ⟨64, 0x42F0E1EBA9EA3693, 0, 0, false, false⟩ (recBytes v n)

end Sys2Proof
end

