-- ==== Sys2Proof/Machine/Regs.lean ====
section
/-!
DEFINITION. The register file (R9–R12, R264): for each BAR0 register that is held as a word, which bits a plain write sets
(RW, RWS), which bits a written 1 clears (W1C), which bits a read clears (RC), the reset value, and whether level 1 and 2
resets keep it (RWS). A register whose write has a behaviour of its own has no plain-write bits here: its own command writes
it. Registers that only show other state of the machine are not words of this file.
-/
namespace Sys2Proof

/-- A row of registers: `count` registers from `base` on, `stride` apart. -/
structure RegRow where
  base   : Nat
  stride : Nat := 4
  count  : Nat := 1
  rw     : Nat := 0
  w1c    : Nat := 0
  rc     : Nat := 0
  kept   : Bool := false
  /-- The low word of a 64-bit pair (R11). -/
  lo     : Bool := false
  /-- The high word of a 64-bit pair. -/
  hi     : Bool := false
deriving DecidableEq, Repr

/-- Addresses of the registers that meanings name. -/
abbrev Reg.devReset := 0x0010
abbrev Reg.rstMap0 := 0x1010
abbrev Reg.rstMap1 := 0x1014
abbrev Reg.rstIdleTimeout := 0x1028
abbrev Reg.rstWdog := 0x1030
abbrev Reg.rstSelftestCfg := 0x1040
abbrev Reg.pwrSlew := 0x1100
abbrev Reg.pwrGrantMax := 0x1108
abbrev Reg.pwrWakeLate := 0x110C
abbrev Reg.pwrTempMax := 0x1184
abbrev Reg.clkLostCnt := 0x1204
abbrev Reg.fuseStatus := 0x2000
abbrev Reg.fuseProgData := 0x2010
abbrev Reg.fuseOptIdx := 0x2018
abbrev Reg.fltCfg := 0x3000
abbrev Reg.fltStatus := 0x3004
abbrev Reg.fltLogIdx := 0x3018
abbrev Reg.fltCnt := 0x3800
abbrev Reg.irqCnt := 0x4800
abbrev Reg.ck := 0x5000
abbrev Reg.timeCfg := 0x6000
abbrev Reg.timeLFrac := 0x6008
abbrev Reg.timeLNs := 0x600C
abbrev Reg.timeLSecLo := 0x6010
abbrev Reg.timeLSecHi := 0x6014
abbrev Reg.timeIncAdj := 0x6018
abbrev Reg.timeStepLo := 0x6020
abbrev Reg.timeSteps := 0x602C
abbrev Reg.timePpsCfg := 0x6038
abbrev Reg.timeOscCfg := 0x6040
abbrev Reg.timePortLat := 0x6050
abbrev Reg.timeToutEn := 0x6080
abbrev Reg.timeTout := 0x6100
abbrev Reg.hstCtrl := 0x8004
abbrev Reg.hstAsq := 0x8008
abbrev Reg.hstAcq := 0x8010
abbrev Reg.hstAeq := 0x8018
abbrev Reg.hstAdminCfg := 0x8020
abbrev Reg.hstDb := 0x8028
abbrev Reg.wswPoll := 0x8100
abbrev Reg.wswPasses := 0x8108
abbrev Reg.wswDbInvalid := 0x810C
abbrev Reg.welCfg := 0x20000
abbrev Reg.welStatus := 0x20004
abbrev Reg.welEmptyCnt := 0x20020
abbrev Reg.welQuotaCnt := 0x20024
abbrev Reg.welFreeRej := 0x20028
abbrev Reg.welCquota := 0x20100
abbrev Reg.welPres := 0x20200
abbrev Reg.welPlim := 0x20300
abbrev Reg.pmpRejects := 0x24008
abbrev Reg.sptEccCorr := 0x28004
abbrev Reg.netPortCfg := 0x30000
abbrev Reg.netLaneCfg := 0x30008
abbrev Reg.netMac := 0x30010
abbrev Reg.netRxFrames := 0x30040
abbrev Reg.netRxFcsErr := 0x30044
abbrev Reg.netRxSizeErr := 0x30048
abbrev Reg.netRxPause := 0x3004C
abbrev Reg.netRxCsumErr := 0x30050
abbrev Reg.netRxNoFlow := 0x30054
abbrev Reg.netRxNoCell := 0x30058
abbrev Reg.netTxFrames := 0x3005C
abbrev Reg.netTxLinkDown := 0x30060
abbrev Reg.gatOversize := 0x38020
abbrev Reg.gatGuardHold := 0x38024
abbrev Reg.twn := 0x40000
abbrev Reg.tmb := 0x50000
abbrev Reg.prk := 0x60000
abbrev Reg.hbmCfg := 0x70000
abbrev Reg.hbmStatus := 0x70004
abbrev Reg.hbmPortCfg := 0x70100
abbrev Reg.hbmPortLate := 0x70140
abbrev Reg.hbmPortMaxlat := 0x70180
abbrev Reg.hbmEccCorr := 0x70200
abbrev Reg.hbmEccUncorr := 0x70240
abbrev Reg.hbmLedgerBad := 0x70280

/-- All ones of a register. -/
abbrev allBits := 0xFFFFFFFF

/-- The rows of the register file. -/
def regRows : List RegRow :=
  [ -- RST, PWR, CLK, FUSE (R526–R535, R557)
    { base := Reg.rstMap0, count := 2, kept := true }, { base := Reg.rstIdleTimeout, rw := 0xFFFF },
    { base := Reg.rstWdog, count := 4 }, { base := Reg.rstSelftestCfg, rw := 1, kept := true },
    { base := Reg.pwrSlew, rw := 0xF }, { base := Reg.pwrGrantMax, count := 2, rc := allBits },
    { base := Reg.pwrTempMax, rc := 0x000F07FF }, { base := Reg.clkLostCnt, rc := 0xFFFF },
    { base := Reg.fuseStatus, w1c := 0x20000 }, { base := Reg.fuseProgData, rw := allBits },
    { base := Reg.fuseOptIdx, rw := 0x7F } ] ++
  [ -- FLT (R496–R501), IRQ counters (R465), check units (R478)
    { base := Reg.fltCfg, rw := 7, kept := true }, { base := Reg.fltStatus, w1c := 0x30 },
    { base := Reg.fltLogIdx, rw := 0xFF }, { base := Reg.fltCnt, count := 256, rc := 0xFFFF },
    { base := Reg.irqCnt + 4, count := 511, rc := 0xFF },
    { base := Reg.ck, stride := 0x100, count := 16 }, { base := Reg.ck + 0x44, stride := 0x100, count := 16 },
    { base := Reg.ck + 0x4C, stride := 0x100, count := 16, rc := 0xFFFF },
    { base := Reg.ck + 0x50, stride := 0x100, count := 16, rc := 0xFFFF } ] ++
  [ -- CK pairs (R478); VALUE has a command of its own (CK_VALUE_RESTORE)
    { base := Reg.ck + 0x10, stride := 0x100, count := 16, rw := allBits, lo := true },
    { base := Reg.ck + 0x14, stride := 0x100, count := 16, rw := allBits, hi := true },
    { base := Reg.ck + 0x18, stride := 0x100, count := 16, rw := allBits, lo := true },
    { base := Reg.ck + 0x1C, stride := 0x100, count := 16, rw := allBits, hi := true },
    { base := Reg.ck + 0x20, stride := 0x100, count := 16, rw := allBits, lo := true },
    { base := Reg.ck + 0x24, stride := 0x100, count := 16, rw := allBits, hi := true },
    { base := Reg.ck + 0x28, stride := 0x100, count := 16, rw := allBits, lo := true },
    { base := Reg.ck + 0x2C, stride := 0x100, count := 16 } ] ++
  [ -- TIME (R416–R426)
    { base := Reg.timeCfg, rw := 1, kept := true }, { base := Reg.timeLFrac, count := 4 },
    { base := Reg.timeIncAdj, kept := true }, { base := Reg.timeStepLo, rw := allBits, lo := true },
    { base := Reg.timeSteps, rc := 0xFFFF }, { base := Reg.timePpsCfg, rw := 0xFFFFFF01, kept := true },
    { base := Reg.timeOscCfg, rw := 0xFFF, kept := true }, { base := Reg.timePortLat, count := 8, rw := allBits, kept := true },
    { base := Reg.timeToutEn }, { base := Reg.timeTout, stride := 0x20, count := 8, rw := 0x1FFFF, kept := true },
    { base := Reg.timeTout + 4, stride := 0x20, count := 8, rw := 0xFFFFFF, kept := true },
    { base := Reg.timeTout + 8, stride := 0x20, count := 8, rw := allBits, kept := true },
    { base := Reg.timeTout + 12, stride := 0x20, count := 8, rw := allBits, kept := true },
    { base := Reg.timeTout + 16, stride := 0x20, count := 8, rw := allBits, kept := true } ] ++
  [ -- HST and WSW (R266–R281)
    { base := Reg.hstCtrl, rw := 2 }, { base := Reg.hstAsq, stride := 8, count := 3, rw := 0xFFFFF000, lo := true },
    { base := Reg.hstAsq + 4, stride := 8, count := 3, rw := allBits, hi := true },
    { base := Reg.hstAdminCfg, rw := 0x07FFFFFF }, { base := Reg.hstDb, rw := 0xFFFFF000, lo := true },
    { base := Reg.hstDb + 4, rw := allBits, hi := true }, { base := Reg.wswPoll, rw := 0xFFFF },
    { base := Reg.wswPasses, count := 2, rc := allBits } ] ++
  [ -- WEL (R324–R328), PMP and SPT (R350, R352)
    { base := Reg.welCfg, rw := 0xFF }, { base := Reg.welStatus, w1c := 4 }, { base := Reg.welEmptyCnt, count := 3, rc := allBits },
    { base := Reg.welCquota, count := 64 }, { base := Reg.welPres, count := 64 }, { base := Reg.welPlim, count := 64 },
    { base := Reg.pmpRejects, stride := 0x10, count := 16, rc := allBits },
    { base := Reg.sptEccCorr, stride := 0x10, count := 8, rc := 0xFFFF } ] ++
  [ -- NET and GAT (R382–R389)
    { base := Reg.netPortCfg, stride := 0x1000, count := 8, rw := 0x3E },
    { base := Reg.netLaneCfg, stride := 0x1000, count := 8, rw := 0x1F },
    { base := Reg.netMac, stride := 0x1000, count := 8, rw := allBits, lo := true },
    { base := Reg.netMac + 4, stride := 0x1000, count := 8, rw := 0xFFFF, hi := true },
    { base := Reg.netRxFrames, stride := 0x1000, count := 8, rc := allBits }, { base := Reg.netRxFcsErr, stride := 0x1000, count := 8, rc := allBits },
    { base := Reg.netRxSizeErr, stride := 0x1000, count := 8, rc := allBits }, { base := Reg.netRxPause, stride := 0x1000, count := 8, rc := allBits },
    { base := Reg.netRxCsumErr, stride := 0x1000, count := 8, rc := allBits }, { base := Reg.netRxNoFlow, stride := 0x1000, count := 8, rc := allBits },
    { base := Reg.netRxNoCell, stride := 0x1000, count := 8, rc := allBits }, { base := Reg.netTxFrames, stride := 0x1000, count := 8, rc := allBits },
    { base := Reg.netTxLinkDown, stride := 0x1000, count := 8, rc := allBits }, { base := 0x30064, stride := 0x1000, count := 8, rc := allBits },
    { base := 0x30068, stride := 0x1000, count := 8, rc := allBits },
    { base := Reg.gatOversize, stride := 0x800, count := 8, rc := allBits }, { base := Reg.gatGuardHold, stride := 0x800, count := 8, rc := allBits } ] ++
  [ -- TWN (R222–R226), TMB (R60, R61), PRK (R257, R258)
    { base := Reg.twn, rw := 0xF }, { base := Reg.twn + 8, rw := 0xFF0F }, { base := Reg.twn + 0x20, count := 6, rc := 0xFFFF },
    { base := Reg.tmb + 0x0C, stride := 0x2000, count := 8, rw := 0xFF01 }, { base := Reg.tmb + 0x10, stride := 0x2000, count := 8, rc := 0xFFFF },
    { base := Reg.tmb + 0x14, stride := 0x2000, count := 8, rc := 0xFFFF }, { base := Reg.tmb + 0x18, stride := 0x2000, count := 8, rc := 0xFFFF },
    { base := Reg.tmb + 0x1C, stride := 0x2000, count := 8 }, { base := Reg.prk + 0x10, stride := 0x100, count := 8, rc := 0xFFFF },
    { base := Reg.prk + 0x14, stride := 0x100, count := 8, rw := 0x1FFF } ] ++
  [ -- HBM (R442–R447)
    { base := Reg.hbmCfg, rw := 0xFFFF }, { base := Reg.hbmStatus, w1c := 0x60 }, { base := Reg.hbmPortCfg, count := 8 },
    { base := Reg.hbmPortLate, count := 8, rc := allBits }, { base := Reg.hbmPortMaxlat, count := 8, rc := allBits },
    { base := Reg.hbmEccCorr, count := 16, rc := allBits }, { base := Reg.hbmEccUncorr, count := 16, rc := allBits },
    { base := Reg.hbmLedgerBad, rc := allBits } ]

/-- The row of address `a`. -/
def regRow (a : Nat) : Option RegRow :=
  regRows.find? fun r => decide (r.base ≤ a) && decide ((a - r.base) % r.stride = 0) && decide ((a - r.base) / r.stride < r.count)

/-- Reset reserves and limits of the cell quotas and of the page quotas (R311). -/
def cellQuotaReset (o : Nat) : Nat × Nat :=
  if o < 8 then (768, 3072) else if o < 16 then (256, 1536) else if o = 16 then (1024, 4096)
  else if o = 18 then (256, 1024) else if o = 19 then (128, 512) else if o = 20 then (512, 2048) else (0, 0)

/-- Reset reserves and limits of the page quotas (R311). -/
def pageQuotaReset (o : Nat) : Nat × Nat :=
  if o = 17 then (32768, 131072) else if o = 21 then (8192, 32768) else (0, 0)

/-- Reset value of HBM_PORTn_CFG: target and reservation (R429). -/
def hbmPortReset (n : Nat) : Nat :=
  let r := if n < 4 then (1000, 32) else if n = 4 then (2000, 16) else if n = 5 then (800, 6) else if n = 6 then (4000, 2) else (1500, 1)
  r.1 + 65536 * r.2

/-- `a` lies `count` registers from `base` on, `stride` apart. -/
def inRegs (a base stride count : Nat) : Bool :=
  decide (base ≤ a) && decide ((a - base) % stride = 0) && decide ((a - base) / stride < count)

/-- The reset value of the register at `a` (the Reset columns of the chapters' tables). The map of RST_MAP, the MAC addresses
and the identity come from the fuses; here stand their values with blank words (R505). -/
def regResetNat (a : Nat) : Nat :=
  if a = Reg.rstMap0 then 0x22211110 else if a = Reg.rstMap1 then 0x00021222
  else if a = Reg.rstIdleTimeout then 100 else if a = Reg.pwrSlew then 3
  else if a = Reg.fltCfg then 2
  else if inRegs a Reg.ck 0x100 16 then 0x20DF
  else if inRegs a (Reg.ck + 0x10) 0x100 16 then 0x1EDC6F41
  else if inRegs a (Reg.ck + 0x18) 0x100 16 || inRegs a (Reg.ck + 0x20) 0x100 16 || inRegs a (Reg.ck + 0x28) 0x100 16 then 0xFFFFFFFF
  else if a = Reg.timeOscCfg then 0x180
  else if inRegs a Reg.timeTout 0x20 8 then 0x270
  else if inRegs a (Reg.timeTout + 4) 0x20 8 then 1000
  else if a = Reg.hstAdminCfg then 6 + 32 * 6 + 1024 * 8 + 0x200000
  else if a = Reg.wswPoll then 1000
  else if a = Reg.welCfg then 32 + 256 * 128
  else if inRegs a Reg.welCquota 4 64 then
    (cellQuotaReset ((a - Reg.welCquota) / 4)).1 + 65536 * (cellQuotaReset ((a - Reg.welCquota) / 4)).2
  else if inRegs a Reg.welPres 4 64 then (pageQuotaReset ((a - Reg.welPres) / 4)).1
  else if inRegs a Reg.welPlim 4 64 then (pageQuotaReset ((a - Reg.welPlim) / 4)).2
  else if inRegs a Reg.netPortCfg 0x1000 8 then (if a < 0x34000 then 0x20 else 0x28)
  else if a = Reg.twn + 8 then 3 + 256 * 100
  else if inRegs a (Reg.tmb + 0x0C) 0x2000 8 then 0x6400
  else if a = Reg.hbmCfg then 10 + 256 * 25
  else if inRegs a Reg.hbmPortCfg 4 8 then hbmPortReset ((a - Reg.hbmPortCfg) / 4)
  else 0

/-- The reset value as a word. -/
def regReset (a : Nat) : Word := BitVec.ofNat 32 (regResetNat a)

/-- The register keeps its value across level 1 and level 2 resets (R12 RWS). -/
def regKept (a : Nat) : Bool := match regRow a with | some r => r.kept | none => false

end Sys2Proof
end

