-- ==== Sys2Proof/Machine/CodeTypes.lean ====
section
/-!
DEFINITION. What a coded picture is made of (R64, R78–R90): vectors, prediction units, transform blocks, coding units and macroblocks, the
coding tree, SAO parameters, and what the standards' own processes take from a channel's configuration.
-/
namespace Sys2Proof.Machine

/-- What the standards' processes take from a channel and its picture: codec, CHROMA, bit depth, coded size, CTB, smallest CU, largest TU, the TU
depths, AVC_8X8, MERGE_CANDS, TMVP, SDH, TSKIP, SCALING with its lists, chroma QP offsets, DEBLOCK with its offsets, filtering across bands; the
SAO, CU_QP_DELTA, WPP, DEP_SEG, field coding, the picture's type (1 IDR, 2 I, 3 P, 4 B), the parity of a field, the active references of each list, the band
QP, the band height, and the first luma lines of the slices so far, at which filtering stops with LOOP_ACROSS_BANDS = 0. -/
structure CodeFmt where
  codec : Nat
  chroma : Nat
  depth : Nat
  width : Nat
  height : Nat
  ctb : Nat
  minCu : Nat
  maxTu : Nat
  depthIntra : Nat
  depthInter : Nat
  t8x8 : Nat
  mergeCands : Nat
  tmvp : Nat
  sdh : Nat
  tskip : Nat
  scaling : Nat
  lists : List Nat
  cbOff : Int
  crOff : Int
  deblock : Nat
  betaOff : Int
  tcOff : Int
  across : Nat
  sao : Nat
  cuQpDelta : Nat
  wpp : Nat
  depSeg : Nat
  fields : Bool
  ptype : Nat
  parity : Nat
  active0 : Nat
  active1 : Nat
  qp : Int
  bandLines : Nat
  tops : List Nat
deriving DecidableEq, Repr

/-- A vector in quarter luma samples, with its reference index. -/
structure MvRef where
  ref : Nat
  x   : Int
  y   : Int
deriving DecidableEq, Repr

/-- The motion of a prediction unit: its list 0 and its list 1 vector. -/
structure Motion where
  l0 : Option MvRef
  l1 : Option MvRef
deriving DecidableEq, Repr

/-- A prediction unit: its luma area and its motion. -/
structure Part where
  x : Nat
  y : Nat
  w : Nat
  h : Nat
  motion : Motion
deriving DecidableEq, Repr

/-- A transform block: component (0 Y, 1 Cb, 2 Cr), place in the component's plane, size, `tall`: twice as high as wide (the chroma of an AVC 4:2:2
macroblock, whose DC levels are transformed together), transform skip, and its levels in scan order. -/
structure TBlock where
  comp : Nat
  x : Nat
  y : Nat
  n : Nat
  tall : Bool := false
  skip : Bool := false
  levels : List Int := []
deriving DecidableEq, Repr

/-- The lines of a transform block. -/
def TBlock.h (t : TBlock) : Nat := if t.tall then 2 * t.n else t.n

/-- The transform of a block (R85): AVC's own; of HEVC none at a transform skip, the DST on 4 × 4 intra luma, the DCT elsewhere. -/
inductive Kernel where
  | avc | none | dst | dct
deriving DecidableEq, Repr

/-- The transform that a block takes; `intra`: it is predicted from its own picture. -/
def TBlock.kernel (t : TBlock) (codec : Nat) (intra : Bool) : Kernel :=
  if codec = 1 then .avc else if t.skip then .none else if intra = true ∧ t.comp = 0 ∧ t.n = 4 then .dst else .dct

/-- The transform tree of a unit (R79); the chroma blocks of four 4 × 4 luma blocks stand at their parent. -/
inductive TuTree where
  | leaf (l : List TBlock)
  | split (a b c d : TuTree) (chroma : List TBlock)
deriving DecidableEq, Repr

/-- A coding unit or macroblock: its luma area, its class (0 skip, 1 merge or B_Direct, 2 other inter, 3 intra), its form by its number in R78, the
merge index, its prediction units, its luma and chroma intra modes (a chroma mode for each luma block of a divided 4:4:4 unit, else one), its QP and its
transform tree. -/
structure CodedUnit where
  x : Nat
  y : Nat
  size : Nat
  cls : Nat
  form : Nat
  merge : Option Nat := none
  parts : List Part := []
  modes : List Nat := []
  chromaModes : List Nat := []
  qp : Int := 0
  tree : TuTree := .leaf []
deriving DecidableEq, Repr

/-- The coding tree of a CTU (R78): a unit, a split, or an area outside the picture. -/
inductive CuTree where
  | leaf (u : CodedUnit)
  | split (a b c d : CuTree)
  | outside
deriving DecidableEq, Repr

/-- SAO of a component of a CTB (R88): 0 none, 1 band offset from a band on, 2 edge offset of a class; the four offsets. -/
structure SaoComp where
  kind : Nat := 0
  cls : Nat := 0
  offsets : List Int := []
deriving DecidableEq, Repr

/-- SAO of a CTB: merged with the left (1) or upper (2) CTB or coded (0), and what its components take. -/
structure SaoParam where
  merge : Nat := 0
  luma : SaoComp := {}
  cb : SaoComp := {}
  cr : SaoComp := {}
deriving DecidableEq, Repr

/-- A coded CTU or macroblock: its place, its SAO parameters, its tree. -/
structure CtuCode where
  x : Nat
  y : Nat
  sao : SaoParam := {}
  tree : CuTree := .outside
deriving DecidableEq, Repr

/-- What E0's bin engines code: a CTU, with the flag that ends the slice segment, or the end of a CTU row of WPP (R89). -/
inductive EntropyItem where
  | ctu (c : CtuCode) (endOfSlice : Bool)
  | rowEnd
deriving DecidableEq, Repr

/-- What a rate is estimated for (R77): a unit, split_cu_flag at a node, a transform tree of a unit, a block's levels with its intra mode, SAO parameters with
whether a left and an upper CTB may be merged with. -/
inductive RateItem where
  | unit (u : CodedUnit)
  | splitCu (x y size : Nat) (on : Bool)
  | tu (u : CodedUnit) (t : TuTree)
  | levels (t : TBlock) (mode : Option Nat)
  | sao (p : SaoParam) (left up : Bool)
deriving DecidableEq, Repr

/-- What the standards' derivations read around a unit: output order counts of the picture and of its references, the units of the slice that have been
coded, and of the collocated picture its own count, those of its references, and its units. -/
structure MotionCtx where
  poc : Int := 0
  pocs0 : List Int := []
  pocs1 : List Int := []
  units : List CodedUnit := []
  colPoc : Int := 0
  colPocs0 : List Int := []
  colPocs1 : List Int := []
  col : List CodedUnit := []
deriving DecidableEq, Repr

/-- A CTU that M1 has decided and E0 has not yet written (R138): the CTU, the last one of its band or not, its bin bound, in floor form or not. -/
structure CtuDue where
  code : CtuCode
  last : Bool
  bound : Nat
  floor : Bool
deriving DecidableEq, Repr

end Sys2Proof.Machine
end

