-- ==== Sys2Proof/Config.lean ====
section
/-!
DEFINITION. What the manual leaves open: opaque constants without a body, so that nothing can be proved of their values. Each
is named in the assumption log.
-/
namespace Sys2Proof.Config

open Sys2Proof.Machine

/-- A value the manual leaves open, by the count of such values taken (State.freeCount). -/
opaque freeValue : Nat → Nat

/-- Base (in 4,096-byte pages of the shared window) of a queue that firmware creates at boot (R307). -/
opaque fwQueuePage : Nat → Nat

/-- log2 of the size of a queue that firmware creates at boot, taken mod 13 and added to 4 (R307). -/
opaque fwQueueLog2 : Nat → Nat

/-- Firmware has created internal work queue `q` of 32–8,191 or 12,288–65,535 (R304): which ones is firmware's. -/
opaque fwQueueValid : Nat → Bool

/-- The payload bytes of a TIME or CONTROL message, whose layouts R200 and R196 do not give: byte `k`. -/
opaque twByte : TwMsg → Nat → Byte

/-- Bits that the entry point fields of the slice segment header of a band that is no floor band take with WPP (R107), where the band has more than one CTU
row: their sizes are those of the coded rows, which are not known when the header's size is first needed (R137). By the band's CTU rows. -/
opaque entryPointBits : Nat → Nat

/-- CMAX, VRX_FULL, and the drain spacing in τ of the network compatibility model (R184): what ST 2110-21 derives from the sender type and
the format, as packets of a frame, τ of a frame, active lines and total lines. -/
opaque cmaxOf : Nat → List Nat → Nat
opaque vrxFullOf : Nat → List Nat → Nat
opaque drainOf : Nat → List Nat → Nat

/-- The RTP clock in Hz of a flow of other RTP (R184): the manual gives no field for it. -/
opaque rtpClock : Nat → Nat

/-- A reference sample at a fractional vector, by the standard's interpolation (R82, R162): codec, CHROMA, bit depth, component, the fractions in the
component's units, and the 8 × 8 samples around it. -/
opaque fracSample : Nat → Nat → Nat → Nat → Nat → Nat → List Nat → Nat

/-- The term of the reference row check ledger (R439) for the 64 B blocks that hold a 16 × 16 block's samples: the XOR of the CRC-32C
of each block's HBM address and bytes. The layout of HBM and so the addresses are firmware's own (R428). Position, then samples. -/
opaque ledgerTerm : Nat → List Nat → Nat

/-! ## The standards' own processes

The manual names these processes of H.264 and H.265 and does not restate them (R64, R77–R89): they are functions of what they read, and nothing
else is known of them. -/

/-- Intra prediction (R80, R81): component, width and height of the block, mode, and the neighbouring samples from the lowest on the left over the corner to
the rightmost above, none where one is not available. -/
opaque intraPred : CodeFmt → Nat → Nat → Nat → Nat → List (Option Nat) → List Nat

/-- The most probable modes of a luma block (R80): the slice's units so far, the block's place and size. -/
opaque intraMpm : CodeFmt → List CodedUnit → Nat → Nat → Nat → List Nat

/-- The mode mapping of 4:2:2 chroma (R80). -/
opaque chroma422 : Nat → Nat

/-- A bi-predicted sample (R82): codec, CHROMA, bit depth, component, the four fractions, the 8 × 8 samples around each of the two places. -/
opaque biSample : Nat → Nat → Nat → Nat → List Nat → List Nat → List Nat → Nat

/-- The vertical displacement of a chroma vector between fields, in quarter chroma samples: codec, parity of the field, of its reference. -/
opaque fieldShift : Nat → Nat → Nat → Int

/-- Merge candidates in list order (R84), or of AVC the motion of P_Skip, B_Skip and B_Direct_16x16: each as its prediction units; for an area. -/
opaque mergeCands : CodeFmt → MotionCtx → Nat → Nat → Nat → Nat → List (List Part)

/-- The AMVP predictors of a prediction unit, or the median predictor (R82): list, reference index, area. -/
opaque mvPredictors : CodeFmt → MotionCtx → Nat → Nat → List Nat → List (Int × Int)

/-- The bits of a vector difference in quarter samples (R82): the manual does not say how they are counted. -/
opaque mvBits : Nat → Int → Int → Nat

/-- QP_C of a chroma component (R77): the standard's mapping and the chroma QP offsets. -/
opaque chromaQp : CodeFmt → Nat → Int → Int

/-- The transform of a residual (R85), in 1/512 of a quantisation step, in scan order: the transform, the block's intra mode, the block, its QP, the
residual. -/
opaque forward : CodeFmt → Kernel → Option Nat → TBlock → Int → List Int → List Int

/-- Scaling and inverse transform of a block's levels (R85): the transform, the block's intra mode, the block, its QP. -/
opaque inverse : CodeFmt → Kernel → Option Nat → TBlock → Int → List Int

/-- The bits of an item, estimated from the context states at the start of the band (R77) and from what stands around it. -/
opaque rate : CodeFmt → List Nat → MotionCtx → RateItem → Nat

/-- The context states and bin engine at the start of an independent slice segment. -/
opaque ctxInit : CodeFmt → List Nat

/-- The context-coded, bypass and terminating bins of a CTU's syntax (R138). -/
opaque bins : CodeFmt → MotionCtx → CtuCode → Nat × Nat × Nat

/-- What coding an item does to the context states and bin engine, and the bytes it puts out (R64, R89). -/
opaque entropy : CodeFmt → MotionCtx → List Nat → EntropyItem → List Nat × List Nat

/-- A deblocked sample (R88), filtered across the edges of slices or not: the picture's units, the component's samples before deblocking, component, column, line. -/
opaque deblocked : CodeFmt → List CodedUnit → (Nat → Nat → Nat) → Nat → Nat → Nat → Nat

/-- The offsets that a kind and class of SAO is tried with (R88), which the manual does not give: component, kind, class, and the pairs of source and
deblocked sample of the CTB. -/
opaque saoOffsets : CodeFmt → Nat → Nat → Nat → List (Nat × Nat) → List Int

/-- A sample with SAO (R88): the parameters, the component's deblocked samples, component, column, line. -/
opaque saoSample : CodeFmt → SaoComp → (Nat → Nat → Nat) → Nat → Nat → Nat → Nat

end Sys2Proof.Config
end

