-- ==== Sys2Proof/Machine/SMap.lean ====
section
/-!
DEFINITION. Sparse maps in one canonical form: the entries' keys rise strictly, and no entry holds the value that its key
reads as when it is not listed. Memories, the register file and the numbered tables of the blocks are all held so, so that
equal contents are equal data.
-/
namespace Sys2Proof

/-- What key `k` holds: its entry, or `d k` where it is not listed. -/
def SMap.get {V : Type} (d : Nat → V) (m : SMap V) (k : Nat) : V :=
  match m with
  | [] => d k
  | (j, v) :: t => if j = k then v else SMap.get d t k

/-- Puts `v` at key `k`: an entry equal to the unlisted value is removed. -/
def SMap.set {V : Type} [DecidableEq V] (d : Nat → V) (m : SMap V) (k : Nat) (v : V) : SMap V :=
  match m with
  | [] => if v = d k then [] else [(k, v)]
  | (j, w) :: t =>
    if k < j then (if v = d k then (j, w) :: t else (k, v) :: (j, w) :: t)
    else if k = j then (if v = d k then t else (k, v) :: t)
    else (j, w) :: SMap.set d t k v

/-- Every key of `m` is above `b`, the keys rise strictly, and no entry equals its unlisted value. -/
def SMap.wfAbove {V : Type} [DecidableEq V] (d : Nat → V) (b : Option Nat) (m : SMap V) : Bool :=
  match m with
  | [] => true
  | (j, v) :: t =>
    (match b with | none => true | some a => decide (a < j)) && decide (v ≠ d j) && SMap.wfAbove d (some j) t

/-- The canonical form. -/
def SMap.wf {V : Type} [DecidableEq V] (d : Nat → V) (m : SMap V) : Bool := SMap.wfAbove d none m

/-- The map without the entries whose key fails `p`: those keys read as unlisted again. -/
def SMap.keep {V : Type} (p : Nat → Bool) (m : SMap V) : SMap V := m.filter (fun e => p e.1)

/-- Changes the value at key `k` by `f`. -/
def SMap.modify {V : Type} [DecidableEq V] (d : Nat → V) (m : SMap V) (k : Nat) (f : V → V) : SMap V :=
  SMap.set d m k (f (SMap.get d m k))

end Sys2Proof
end

