-- ==== Sys2Proof/Machine/StateTime.lean ====
section
/-!
DEFINITION. State of the time base, PTP, the servo and the timing outputs (R392–R426) and of the HBM controller (R427–R448).
-/
namespace Sys2Proof.Machine

/-- The servo's states, in the order of TIME_STATUS.SERVO (R404, R420). -/
inductive Servo where
  | freeRunning | acquiring | locked | holdover | following
deriving DecidableEq, Repr

/-- A step that waits for the next tick (R394): by signed ns, or to an absolute time in ns from the epoch. -/
inductive StepReq where
  | by (ns : Int)
  | to (ns : Nat)
deriving DecidableEq, Repr

/-- TIME_CONTROL CLOCK (R402). -/
structure ClockCfg where
  domain : Nat := 127
  role : Nat := 1
  slaveOnly : Bool := false
  timeSource : Nat := 0xA0
  priority1 : Nat := 128
  priority2 : Nat := 128
  classLocked : Nat := 6
  classHoldover : Nat := 7
  classFree : Nat := 248
  accuracy : Nat := 0xFE
  variance : Nat := 0xFFFF
  holdoverS : Nat := 3600
deriving DecidableEq, Repr

/-- TIME_CONTROL PORT (R402); the intervals are two's complement logarithms. -/
structure PtpPortCfg where
  enable : Bool := false
  twoStep : Bool := false
  transport : Nat := 0
  hybrid : Bool := false
  vid : Nat := 0
  vlan : Bool := false
  pcp : Nat := 0
  dscp : Nat := 46
  logAnnounce : Int := -2
  logSync : Int := -3
  logDelayReq : Int := -3
  announceTimeout : Nat := 3
  addr : Nat := 0
deriving DecidableEq, Repr

/-- TIME_CONTROL REFERENCE (R402). -/
structure RefCfg where
  source : Nat := 1
  steer : Bool := false
  stepAny : Bool := false
  lockNs : Nat := 100
  unlockNs : Nat := 1000
  stepNs : Nat := 10000
  rateLimitPpm : Nat := 100
deriving DecidableEq, Repr

/-- TIME_CONTROL TIMECODE (R402), and the same values as a parent's metadata TLV carries them (R403). -/
structure TimeCodeCfg where
  localOffset : Int := 0
  jumpSeconds : Int := 0
  nextJump : Nat := 0
  nextJam : Nat := 0
  prevJamOffset : Int := 0
  dst : Bool := false
  leapJump : Bool := false
  utcValid : Bool := false
  utcOffset : Nat := 37
deriving DecidableEq, Repr

/-- A timing output's generator (R411–R413): the configuration it read at its enable, the PTP time (ns) from which edges
count, and its level and edge in progress; edge times count 0.25 ns from the epoch. -/
structure Tout where
  running  : Bool := false
  cfg      : Nat := 0
  width    : Nat := 0
  phase    : Int := 0
  perNs    : Nat := 0
  perFrac  : Nat := 0
  /-- No edge before this time (0.25 ns). -/
  notBefore : Nat := 0
  /-- Index k of the active edge that comes next. -/
  nextK    : Int := 0
  /-- A pulse is active and returns at this time (0.25 ns). -/
  returnAt : Option Nat := none
  /-- The output's level. -/
  level    : Bool := false
deriving DecidableEq, Repr

/-- What a port's PTP instance shows (R185): portState, and its parent's Announce. -/
structure PtpLive where
  portState : Nat := 3
  stepsRemoved : Nat := 0
  gmClass : Nat := 248
  gmAccuracy : Nat := 254
  gmIdentity : Nat := 0
deriving DecidableEq, Repr

/-- The time base, PTP and the servo. -/
structure TimeSt where
  sec       : Nat := 0
  ns        : Nat := 0
  frac      : Nat := 0
  /-- AO ticks since level 0 reset (R481). -/
  tick      : Nat := 0
  step      : Option StepReq := none
  valid     : Bool := false
  servo     : Servo := .freeRunning
  clock     : ClockCfg := {}
  ports     : SMap PtpPortCfg := []
  ptp       : SMap PtpLive := []
  ref       : RefCfg := {}
  hostTc    : TimeCodeCfg := {}
  tlvTc     : Option TimeCodeCfg := none
  /-- Seconds-and-ns time (ns) of the latest TLV from the parent. -/
  tlvAt     : Nat := 0
  slavePort : Option Nat := none
  parent    : Nat := 0
  /-- Consecutive offsets within LOCK_NS, and beyond UNLOCK_NS (R404). -/
  lockRun   : Nat := 0
  unlockRun : Nat := 0
  /-- The rate held at entry to ACQUIRING or LOCKING (R405, R409). -/
  entryRate : Int := 0
  /-- Rates in force while LOCKED or FOLLOWING: (tick from which, rate), newest first (R404). -/
  rateLog   : List (Nat × Int) := []
  /-- PTP time (ns) at which HOLDOVER was entered. -/
  holdFrom  : Nat := 0
  ppsAt     : Option Nat := none
  ppsTs     : Nat := 0
  ref10mOk  : Bool := false
  ref10mPpb : Nat := 0x80000000
  /-- A frame is on OSC_SPI, the code held behind it, and the codes sent, newest first (R407). -/
  oscBusy   : Option Nat := none
  oscHeld   : Option Nat := none
  touts     : SMap Tout := []
  /-- TIME_STATUS.FOLLOWER (R409). -/
  follower  : Bool := false
  /-- PTP messages that firmware has sent: (port, kind), newest first. -/
  ptpSent   : List (Nat × Nat) := []
deriving DecidableEq, Repr

/-- A request that waits at the HBM controller (R429–R434): its port, block address, direction, page hint, and the time (ns)
of its acceptance. -/
structure HbmReq where
  port   : Nat
  addr   : Nat
  write  : Bool
  open_  : Bool
  at_    : Nat
deriving DecidableEq, Repr

/-- A bank's open row, with the time (ns) of its last access; refresh postponements and the time its next refresh is due. -/
structure HbmBank where
  row       : Option Nat := none
  lastUse   : Nat := 0
  postponed : Nat := 0
  refDue    : Nat := 0
deriving DecidableEq, Repr

/-- The HBM controller. -/
structure HbmSt where
  trained     : Bool := false
  training    : Bool := false
  selfRefresh : Bool := false
  /-- A request or a wake has asked for the exit from self-refresh (R436). -/
  exiting     : Bool := false
  tempRange   : Nat := 0
  temp        : Int := 0
  lanesRepaired : Nat := 0
  reqs        : List HbmReq := []
  /-- Reads issued to the DRAM whose data has not come (R429). -/
  reads       : List HbmReq := []
  banks       : SMap HbmBank := []
  /-- The port last served on each pseudo-channel (R431). -/
  lastPort    : SMap Nat := []
  /-- Blocks moved lately: (time in ns, port), newest first (R431). -/
  moved       : List (Nat × Nat) := []
  /-- PTP time (ns) of the last moment at which some port was not empty (R436). -/
  idleSince   : Nat := 0
  /-- WCK phase re-trackings done on each channel (R437). -/
  retracks    : SMap Nat := []
  /-- Check values of the reference row check ledger (R439), by ((channel × 32 + slot) × 128 + row). -/
  ledger      : SMap Nat := []
  /-- HBM_LEDGER_LAST (R448). -/
  lastBad     : Option (Nat × Nat × Nat) := none
deriving DecidableEq, Repr

end Sys2Proof.Machine
end

