-- ==== Sys2Proof/Machine/StateCodec.lean ====
section
/-!
DEFINITION. State of the coding side: channels with their configuration (R292), life (R294), pictures and bands (R36, R55), the
tambours with their banks and sequencers (R46–R63, R230–R260), the merge and depacketizer of a decode channel (R150–R155), and
the statistics subscriptions (R186). Times called τ count 1/27,000 ns from the PTP epoch: every band time of R36 is a whole
number of them.
-/
namespace Sys2Proof.Machine

/-- The states of a channel, in the order of QUERY's STATE (R294, R299). -/
inductive ChState where
  | idle | configured | armed | running | draining | stopped | faulted
deriving DecidableEq, Repr

/-- The state of a channel against its twin (R202), in the order of QUERY's TWIN_STATE. -/
inductive ChTwin where
  | inStep | diverged | joining | solo
deriving DecidableEq, Repr

/-- The parameters of a channel configuration record (R292), in the record's order. -/
structure ChannelCfg where
  codec : Nat := 0
  profile : Nat := 0
  tier : Nat := 1
  level : Nat := 0
  format : Nat := 1
  rate : Nat := 7
  chroma : Nat := 2
  bitDepth : Nat := 2
  fieldOrder : Nat := 0
  ctb : Nat := 1
  minCu : Nat := 0
  maxTu : Nat := 0
  tuDepthIntra : Nat := 1
  tuDepthInter : Nat := 1
  avc8x8 : Nat := 1
  gop : Nat := 1
  nb : Nat := 3
  refs : Nat := 0
  mergeCands : Nat := 5
  tmvp : Nat := 1
  searchH : Nat := 0
  searchV : Nat := 0
  rdoq : Nat := 1
  sdh : Nat := 1
  tskip : Nat := 0
  scaling : Nat := 0
  cuQpDelta : Nat := 0
  aqStrength : Nat := 0
  deblock : Nat := 1
  loopAcross : Nat := 1
  sao : Nat := 1
  wpp : Nat := 0
  irPeriod : Nat := 0
  depSeg : Nat := 0
  lambdaScale : Nat := 16
  irapPeriod : Nat := 60
  deadzoneIntra : Nat := 171
  deadzoneInter : Nat := 85
  cbQpOffset : Nat := 0
  crQpOffset : Nat := 0
  betaOff : Nat := 0
  tcOff : Nat := 0
  aud : Nat := 0
  tcSei : Nat := 1
  hash : Nat := 0
  vsei : Nat := 0
  fullRange : Nat := 0
  pt : Nat := 96
  rtpMax : Nat := 1460
  colourPrim : Nat := 1
  transfer : Nat := 1
  matrix : Nat := 1
  scalingAddr : Nat := 0
  ssrc : Nat := 0
  captureQid : Nat := 0
  injectQid : Nat := 0
  bitrate : Nat := 100000000
  rcSource : Nat := 0
  qpInit : Nat := 32
  qpMin : Nat := 0
  qpMax : Nat := 51
  iRatio : Nat := 32
  bRatio : Nat := 12
  rcvAddr : Nat := 0
  bandH : Nat := 1
  budget : Nat := 3
  pin : Nat := 255
  readyWindow : Nat := 625
  alignOffset : Nat := 0
  decSlip : Nat := 0
  outDelay : Nat := 0
  dpbPics : Nat := 6
  mergeSkew : Nat := 1000
  taintExt : Nat := 0
  taintExtId : Nat := 1
  /-- The stream's SPS codes MBAFF frames (R147): no field of the record. -/
  mbaff : Bool := false
  /-- CTB size of a decoded stream's SPS (R35, R147); 0 before the first: no field of the record. -/
  streamCtb : Nat := 0
deriving DecidableEq, Repr

/-- A picture plan (R128); an unlisted weight is 0. -/
structure Plan where
  id      : Nat := 0
  ptype   : Nat := 0
  equal   : Bool := true
  picture : Nat := 0
  budget  : Nat := 0
  baseQp  : Int := 0
  qpMin   : Int := 0
  qpMax   : Int := 0
  w       : List Nat := []
deriving DecidableEq, Repr

/-- What a ledger token gives a picture (R204). -/
structure Token where
  plan    : Plan
  carried : Bool := false
  resync  : Bool := false
  join    : Bool := false
  idrCount : Nat := 0
  seqFirst : Nat := 0
deriving DecidableEq, Repr

/-- A mirrored slice on its way (R214): SLICE_CRC and SLICE_LEN of the holder's record, and the pieces that have come. -/
structure MirrorGet where
  crc    : Nat
  len    : Nat
  pieces : List (Nat × List Nat) := []
deriving DecidableEq, Repr

/-- The states of a band (R55). -/
inductive BandState where
  | arriving | ready | named | coding | coded | sent | abandoned | skipped | discarded | retired
deriving DecidableEq, Repr

/-- A packet that the packetizer or the egress reader has formed: its first cell, cells, bytes, M, and the flows that have still to
send or drop it. -/
structure PktRec where
  cell   : Nat
  cells  : Nat
  len    : Nat
  marker : Bool
  left   : Nat := 0
deriving DecidableEq, Repr

/-- A band of a picture. -/
structure Band where
  state    : BandState := .arriving
  /-- τ of its input's completion. -/
  complete : Option Nat := none
  ready    : Nat := 0
  cplx     : Option Nat := none
  pre      : Bool := false
  qp       : Int := 0
  qpLo     : Int := 51
  qpHi     : Int := -24
  qpSum    : Int := 0
  qpUnits  : Nat := 0
  floor    : Bool := false
  guard    : Bool := false
  normal   : Bool := false
  /-- Bytes of the slice segment NAL unit that E0 has written. -/
  bytes    : Nat := 0
  sliceBits : Nat := 0
  sseY     : Nat := 0
  sseCb    : Nat := 0
  sseCr    : Nat := 0
  simSum   : Int := 0
  simN     : Nat := 0
  skipUnits : Nat := 0
  intraUnits : Nat := 0
  filled   : Nat := 0
  recon    : Nat := 0
  repeats  : Nat := 0
  /-- The slice's bytes that the packetizer has drained. -/
  nal      : List Nat := []
  packets  : List PktRec := []
  /-- Cells granted to the packets that the drained words of an unfinished slice fill (R348). -/
  cells    : List Nat := []
  /-- Blocks written when the band ended. -/
  blocks   : Nat := 0
  /-- It reached CODED. -/
  coded    : Bool := false
  drained  : Bool := false
  damaged  : Bool := false
  corrupt  : Bool := false
  seqFirst : Nat := 0
  released : Bool := false
  /-- Packets (times flows) still to be sent or dropped (R55). -/
  unsent   : Nat := 0
  /-- Decode, with no active egress flow: τ of the ELIGIBLE time of the band's last output packet (R55). -/
  sentAt   : Option Nat := none
  start    : Option Nat := none
  runNs    : Nat := 0
  tambour  : Nat := 0
  wakeLate : Bool := false
  switchWait : Bool := false
  mirrored : Bool := false
  /-- SENT, ABANDONED or SKIPPED at retirement: 0, 1, 2. -/
  outcome  : Nat := 0
  /-- Decode: losses, findings (bits 24–28 of R180), damage, merge counts. -/
  lostPkts : Nat := 0
  findings : Nat := 0
  concealed : Nat := 0
  tainted  : Nat := 0
  mergeLate : Nat := 0
  dupDiff  : Nat := 0
  /-- Regions whose decoding reads a poisoned block (R438). -/
  poisoned : List Nat := []
  /-- Added statistics words of open pricking (R244). -/
  openStats : Nat := 0
  /-- Reconcile is open (R206, R207): positions asked and not yet answered, positions taken from the peer, pieces that have
  come: (position, total, offset, bytes). -/
  reconOpen : Bool := false
  asked     : List Nat := []
  fromPeer  : List Nat := []
  toPeer    : List Nat := []
  pieces    : List (Nat × Nat × Nat × List Nat) := []
  /-- The snapshot of the arrival bitmap has been taken at the input deadline, and the positions that it holds (R206). -/
  snapped   : Bool := false
  held      : List Nat := []
  /-- The own release record and the peer's (R209, R210), whether the pair has been acted on, whether the packets may leave. -/
  ownRec    : Option Nat := none
  peerRec   : Option Nat := none
  judged    : Bool := false
  mayLeave  : Bool := false
  lateTold  : Bool := false
  /-- BAND_LATE has been raised for the band. -/
  bandLate  : Bool := false
  mirror    : Option MirrorGet := none
  /-- Sequence numbers that the band uses up although it sends nothing: its holder's packets (R215, R218). -/
  seqSkip   : Nat := 0
  sliceCrc  : Nat := 0
deriving DecidableEq, Repr

/-- A slice segment that the depacketizer has identified in an access unit (R153): the region number of its first CTU, the number of
its first packet, its slice type (1 IDR, 2 I, 3 P, 4 B), and the bits of its NAL unit so far. -/
structure SliceSeg where
  first  : Nat
  seq0   : Nat
  ptype  : Nat := 0
  bits   : Nat := 0
  /-- A dependent slice segment. -/
  dep    : Bool := false
deriving DecidableEq, Repr

/-- The parse of a slice segment in one tile (R158), by the region number of the segment's first CTU: the packet from which its bytes must be
intact; the places in decoding order from which a loss and a parse error damage it; and the place of the CTU with which it ended. -/
structure SegRun where
  first : Nat
  tile  : Nat := 0
  from_ : Nat := 0
  loss  : Option Nat := none
  parse : Option Nat := none
  done  : Option Nat := none
deriving DecidableEq, Repr

/-- A picture: of an encode channel by its source picture count p, of a decode channel by its access unit's number in decode
order. -/
structure Pic where
  named    : Bool := false
  plan     : Plan := {}
  carried  : Bool := false
  /-- Coded type: 1 IDR, 2 I, 3 P, 4 B. -/
  ptype    : Nat := 0
  refs0    : List Nat := []
  refs1    : List Nat := []
  /-- The pictures that its RPS names: its references, and what a later picture still needs (R108). -/
  kept     : List Nat := []
  uncommitted : Bool := false
  floorState : Bool := false
  /-- A follower's picture whose later bands become SKIPPED although the leader's decide whether it is committed (R213). -/
  skipLater : Bool := false
  /-- A mirror of the picture has failed: its later bands are not sent (R214). -/
  mirrorFailed : Option Nat := none
  raised   : Bool := false
  guardBand : Nat := 0xFF
  /-- Display index n (R108), refresh cycle index k (R90), picture buffer slot (R439). -/
  poc      : Int := 0
  cycleK   : Nat := 0
  slot     : Nat := 0
  /-- The picture removed from the DPB as uncommitted before this one (R109). -/
  dropped  : List Nat := []
  frameNum : Nat := 0
  idrId    : Nat := 0
  nonVcl   : Nat := 0
  /-- The NAL units around the slices, as the packets of the first and the last band took them (R97, R121). -/
  lead     : List (List Nat) := []
  tail     : List (List Nat) := []
  doneHdr  : Bool := false
  recorded : Bool := false
  /-- Samples by (line · 3 + component) · 4096 + column; the positions that have arrived, with the first copy (R365, R367). -/
  samples  : SMap Nat := []
  /-- Encode: the decimated plane (R67), the reconstruction as F0 writes it (R171), in the same keys; the samples before in-loop filtering, the units
  coded so far, the newest first, and the SAO parameters of the CTUs (R88). -/
  decim    : SMap Nat := []
  rebuilt  : SMap Nat := []
  plain    : SMap (Option Nat) := []
  units    : List CodedUnit := []
  sao      : List CtuCode := []
  arrived  : SMap (Option VideoPacket) := []
  bands    : SMap Band := []
  hist     : SMap Nat := []
  histN    : Nat := 0
  /-- TIMECODE values kept at t_pic (R111). -/
  tc       : Option TimeCodeCfg := none
  /-- Decode: RTP timestamp, t_pic and t_sched in τ, segments, extended sequence numbers, end. -/
  rtpTs    : Nat := 0
  tPic     : Nat := 0
  tSched   : Nat := 0
  segs     : List SliceSeg := []
  /-- Numbers of the packets that hold the last bytes of a slice segment. -/
  segEnds  : List Nat := []
  seqFirst : Nat := 0
  seqLast  : Option Nat := none
  closed   : Bool := false
  lostAll  : Bool := false
  startsDec : Bool := false
  decoded  : Bool := false
  output   : Bool := true
  isRef    : Bool := true
  /-- Damage plane: 0 clean, 1 concealed, 2 tainted, by region number (R161). -/
  damage   : SMap Nat := []
  /-- Vector of each inter-coded region, list 0 or list 1, with the POC distance it spans (R162). -/
  vectors  : SMap (Option (Int × Int × Int)) := []
  seiPlan  : Nat := 0
  seiFilled : Nat := 0
  /-- The segments in parsing; the packets that begin with a later fragment of a slice NAL unit, with its bits (R153); the shift of luma and chroma samples
  on output (R148); the hash message; the picture that stands for an absent reference (R165); it has its record although it was lost. -/
  runs     : List SegRun := []
  frags    : List (Nat × Nat) := []
  shiftY   : Nat := 0
  shiftC   : Nat := 0
  hash     : Option (Nat × List Nat) := none
  substitute : Option Nat := none
  /-- The access unit's pages, by index, and its bytes in them (R153); it has been an output picture (R155, R157). -/
  pages    : List Nat := []
  pageFill : Nat := 0
  shown    : Bool := false
  /-- MBAFF coding and CTB size of the SPS that the unit is decoded under (R35, R147, R148), once its slice header has come; where its tiles after
  the first begin, in CTBs; it begins a coded video sequence (R162); the resync that it came after, counted (R154). -/
  geo      : Option (Bool × Nat) := none
  tileX    : List Nat := []
  tileY    : List Nat := []
  begins   : Bool := false
  epoch    : Nat := 0
  /-- Its pages were refused past its first band's input deadline, after it had started: nothing more of it is taken (R319). -/
  givenUp  : Bool := false
deriving DecidableEq, Repr

/-- An output slot whose picture the egress reader sends (R155, R156): τ of the slot, its picture and whether that is a repeat once they
are known, the next band to start, the next packet of the picture, whether a band sent so far is damaged (R168), and the samples that the
packets of the band in progress may still take: the picture's raster up to this band. -/
structure OutSlot where
  slotT    : Nat
  pic      : Option Nat := none
  chosen   : Bool := false
  isRepeat : Bool := false
  nextBand : Nat := 0
  nextPkt  : Nat := 0
  damaged  : Bool := false
  soloOk   : Bool := false
  /-- The slot sends the second field of its MBAFF frame. -/
  second   : Bool := false
deriving DecidableEq, Repr

/-- The output of a decode channel (R155, R156, R166, R375). -/
structure DecOut where
  /-- τ of the next slot; none before the first access unit. -/
  nextSlot : Option Nat := none
  /-- A slot has had an output picture. -/
  begun    : Bool := false
  /-- The second field of the MBAFF frame sent last has still to be sent. -/
  fieldDue : Bool := false
  /-- Slots that have come and whose bands have not all been sent, in order. -/
  active   : List OutSlot := []
  lastPic  : Option Nat := none
  /-- Packets formed since channel start. -/
  seq      : Nat := 0
  /-- e(k) of the latest packet, as a number of τ over `lastDen` (R374). -/
  lastE    : Nat := 0
  lastDen  : Nat := 1
  /-- The raster index of the first pixel of a poisoned block of the band that starts next (R438). -/
  poison   : Option Nat := none
deriving DecidableEq, Repr

/-- The merge and depacketizer of a decode channel (R150–R154). -/
structure MergeSt where
  ssrc     : Option Nat := none
  /-- The first and the highest extended sequence number since the channel start or the latest resync. -/
  base     : Nat := 0
  highest  : Nat := 0
  /-- First copies received, by extended sequence number: the packet's payload, with a byte 1 after it, and its arrival time in ns. -/
  got      : SMap (Option (Nat × Nat)) := []
  lost     : SMap Bool := []
  resync   : Bool := true
  /-- The latest SPS was rejected; no IRAP picture has been decoded with an acceptable one since (R148). -/
  rejected : Bool := false
  awaitIrap : Bool := false
  /-- An SPS has come since the channel start; the latest one that has not yet taken effect at an IRAP picture (R148). -/
  spsSeen  : Bool := false
  nextSps  : Option SpsNote := none
  /-- Bit depths of the accepted SPS; 0 before the first. -/
  depthY   : Nat := 0
  depthC   : Nat := 0
  haveSets : Bool := false
  nextUnit : Nat := 0
  openUnit : Option Nat := none
  lastSched : Option Nat := none
  /-- Resyncs since the channel start; the RTP timestamp of an access unit that arrived before the start time (R295). -/
  epoch    : Nat := 0
  preTs    : Option Nat := none
  /-- The access unit decoded last (R162). -/
  lastDecoded : Option Nat := none
deriving DecidableEq, Repr

/-- The state of channels' rate control (R133, R135, R136). -/
structure RcSt where
  pending  : List Plan := []
  last     : Option Plan := none
  /-- Pictures that pending force intra commands aim at (R93). -/
  force    : List Nat := []
  fill     : Int := 0
  /-- Latest DONE picture, and the latest DONE committed picture of the I class and of the P/B class. -/
  lastDone : Option Nat := none
  seq      : Nat := 0
  /-- The vendor controller has planned from the latest DONE picture. -/
  planned  : Bool := true
deriving DecidableEq, Repr

/-- A channel (R294, R299). -/
structure Channel where
  state     : ChState := .idle
  decode    : Bool := false
  cfg       : ChannelCfg := {}
  /-- The custom list record of SCALING 2 (R85), as its CRC-32C, and the list bytes. -/
  listCrc   : Nat := 0
  lists     : List Nat := []
  evq       : Nat := 2
  tambour   : Nat := 0
  /-- What the channel holds on its tambour from admission on (R43): its cost, its band rate in 1/1,001,000 band per second (R40), s_k and
  its effective budget in τ (R41), and whether that is below one band period. -/
  costQ     : Nat := 0
  bandRate  : Nat := 0
  serviceT  : Nat := 0
  budgetHeld : Nat := 0
  short     : Bool := false
  faultKind : Nat := 0
  startNs   : Nat := 0
  stopNs    : Option Nat := none
  twinState : ChTwin := .inStep
  digest    : Nat := 0
  /-- Index, since the epoch, of source picture 0 (R295). -/
  index0    : Nat := 0
  pics      : SMap Pic := []
  /-- Reference pictures held, the most recently named first (R52, R91). -/
  dpb       : List Nat := []
  /-- Uncommitted pictures that the next picture sent still has to remove (R109). -/
  dropNext  : List Nat := []
  lastNamed : Option Nat := none
  lastIdr   : Option Nat := none
  idrCount  : Nat := 0
  refreshBroken : Bool := false
  /-- GOP 3: groups whose anchor is settled as an IDR picture, and whose anchor is settled as none (R93). -/
  idrGroups : List Nat := []
  plainGroups : List Nat := []
  rc        : RcSt := {}
  /-- Packets sent since channel start (R115). -/
  sentPkts  : Nat := 0
  captureGap : Bool := false
  merge     : MergeSt := {}
  out       : DecOut := {}
  /-- Clean-source map: the picture that names each region's latest clean source (R161). -/
  clean     : SMap (Option Nat) := []
  /-- Twin: ledger tokens made or received, by picture (R203, R204); pictures whose token is judged missing (R205). -/
  tokens    : SMap (Option Token) := []
  tokenLate : List Nat := []
  /-- On a surviving follower, τ of the peer's loss: pictures whose ledger point had passed by then take no plan (R218). -/
  ledgerCut : Option Nat := none
  /-- JOIN of the start (R221). -/
  join      : Bool := false
  /-- The first picture that both devices code after a JOIN (R221). -/
  joinPic   : Nat := 0
  recordSeq : Nat := 0
  /-- The channel words U44–U47 of open pricking (R244). -/
  words     : List Nat := []
  /-- The context states that a dependent slice segment continues (R89). -/
  segCtx    : List Nat := []
deriving DecidableEq, Repr

/-- A band by channel, picture and number. -/
structure BandId where
  ch  : Nat
  pic : Nat
  b   : Nat
deriving DecidableEq, Repr

/-- What a context bank does (R46). -/
inductive BankPhase where
  | empty | loading | loaded | active | writing
deriving DecidableEq, Repr

/-- A context bank. -/
structure Bank where
  phase : BankPhase := .empty
  band  : Option BandId := none
deriving DecidableEq, Repr

/-- A call of open pricking in progress (R240–R243): which hook, the block, and the tclk left. -/
structure HookCall where
  hook : Nat
  left : Nat
deriving DecidableEq, Repr

/-- The sequencer of a tambour (R230–R245). -/
structure Sequencer where
  addr    : Nat := 0
  ret     : Nat := 0
  u       : SMap Nat := []
  z       : Bool := false
  n       : Bool := false
  c       : Bool := false
  lc      : SMap Nat := []
  /-- U56–U60 as HOOK_PRE_BAND returned them for the band, and as HOOK_CTU_COST did for each block (R242). -/
  pre     : List Nat := []
  cost    : SMap (Option (List Nat)) := []
  hook    : Option HookCall := none
  running : Bool := false
  /-- The word at `addr` has taken effect and holds on its condition (R231). -/
  held    : Bool := false
  /-- The local store (R28, R234), and the open region's window of it (R235). -/
  lstore  : SMap Nat := []
  lopen   : SMap Nat := []
deriving DecidableEq, Repr

/-- A window in a half of the search-window cache (R69): of a reference's luma or of its decimated plane; its samples across, its first line and its
lines. Its samples are those of the reference's plane at those places (DEDUCED, log 48). -/
structure WindowItem where
  ref       : Nat
  decimated : Bool
  width     : Nat
  top       : Int
  height    : Nat
deriving DecidableEq, Repr

/-- A half of a tambour's search-window cache (R69): which of the two it is, the band that it serves, the windows that it holds, and whether its
prefetch has ended. -/
structure HoopWindow where
  half  : Nat
  band  : BandId
  items : List WindowItem
  ready : Bool
deriving DecidableEq, Repr

/-- The stitches of a tambour while it codes an encode band (R64, R65): the blocks in the search stitches S0–S3 and M0, in the decision and transform
stitches M1 and X0–X3, and in F0 and E0; the CTUs decided and not yet written (R138); F0's measures of each block for HOOK_STATS (R241: SSE of Y, Cb, Cr,
sum of s, QP, class) and the calls of that hook; the context states at the band's start, now, and as saved for WPP (R77, R89); the rows of a band
with several rows of WPP, whose sizes the header takes, and the zero bytes that E0's data ends in; and what E0 has written and the spout has not taken:
bytes, the bytes of the spout word in formation, whether the slice ends with them, and whether it has ended; and whether HOOK_POST_BAND has returned. -/
structure Coder where
  search : Option Nat := none
  mode   : Option Nat := none
  out    : Option Nat := none
  ctus   : List CtuDue := []
  stats  : List (List Nat) := []
  statsN : Nat := 0
  ctx0   : List Nat := []
  ctx    : List Nat := []
  ctxWpp : List Nat := []
  rows   : List (List Nat) := []
  zeros  : Nat := 0
  queue  : List Nat := []
  part   : List Nat := []
  closes : Bool := false
  ended  : Bool := false
  postDone : Bool := false
deriving DecidableEq, Repr

/-- A tambour's schedule (R46–R58). -/
structure Tamb where
  bankA   : Bank := {}
  bankB   : Bank := {}
  active  : Nat := 0
  coding  : Option BandId := none
  /-- The next band of the channel in CODING, named to continue in the active bank (R47). -/
  cont    : Option BandId := none
  /-- Abandoned decode bands whose repair pass runs (R164). -/
  repairs : List BandId := []
  /-- The banks whose preload runs or waits for the context pump, in order (R46). -/
  loads   : List Nat := []
  /-- τ from which the 96 ns switch counts; a band has ended and no switch has followed; the switch waited for its preload (R61). -/
  freeAt  : Nat := 0
  due     : Bool := false
  waited  : Bool := false
  blocks  : Nat := 0
  lastCh  : Nat := 0
  /-- Time (ns) for which the wake in progress is needed, until the tambour is clocked; time from which a granted clock counts as good. -/
  wakeAt  : Option Nat := none
  clkFrom : Nat := 0
  seqr    : Sequencer := {}
  coder   : Coder := {}
  /-- The halves of the hoop window in use (R69): of the band in CODING, and of the band that comes next. -/
  windows : List HoopWindow := []
deriving DecidableEq, Repr

/-- Measurements of an ingress flow (R183, R184) or a port (R185) in an interval, by field. -/
structure Measure where
  packets : Nat := 0
  drops   : Nat := 0
  octets  : Nat := 0
  gaps    : Nat := 0
  cinst   : Nat := 0
  vrx     : Nat := 0
  cViol   : Nat := 0
  vViol   : Nat := 0
  jitMin  : Option Int := none
  jitMax  : Option Int := none
  jitSum  : Int := 0
  jitN    : Nat := 0
  jitLast : Int := 0
  frames  : Nat := 0
  ofsSum  : Int := 0
  ofsMin  : Option Int := none
  ofsMax  : Option Int := none
  ofsN    : Nat := 0
  mpdSum  : Nat := 0
  syncRx  : Nat := 0
  delayReq : Nat := 0
  annRx   : Nat := 0
deriving DecidableEq, Repr

/-- The running measures of an ingress flow's path (R184), whatever the intervals: the SSRC, the frame's RTP timestamp, the last packet's transit time in RTP
units, 16 J of RFC 3550, the bucket of the network compatibility model and the τ from which its next drain counts, the occupancy of the virtual
receiver buffer and the τ up to which its drain instants have been taken. -/
structure FlowMeter where
  ssrc    : Option Nat := none
  lastTs  : Option Nat := none
  transit : Option Int := none
  jit     : Nat := 0
  bucket  : Nat := 0
  leakAt  : Nat := 0
  vrx     : Nat := 0
  vrxAt   : Option Nat := none
deriving DecidableEq, Repr

/-- A statistics subscription (R186). -/
structure Sub where
  kind     : Nat
  source   : Nat
  qid      : Nat
  classes  : Nat := 0
  interval : Nat := 0
  coalesce : Nat := 0
  /-- PTP time (ns) at which the present interval began, and whether it counts as PARTIAL. -/
  since    : Nat := 0
  isPartial : Bool := true
  meas     : Measure := {}
deriving DecidableEq, Repr

/-- The coding side of the device. -/
structure CodecSt where
  channels : SMap Channel := []
  tambs    : SMap Tamb := []
  subs     : List Sub := []
  /-- The latest RTP sequence number of each ingress flow on its path (R183). -/
  lastSeq  : SMap (Option Nat) := []
  meters   : SMap FlowMeter := []
deriving DecidableEq, Repr

end Sys2Proof.Machine
end

