-- ==== Sys2Proof/Machine/StateHost.lean ====
section
/-!
DEFINITION. State of the shared blocks the host meets: the Cistern queues and the wells (R304–R328), the host rings and the
windlass (R262–R302), the interrupt controller (R451–R468), the fault collector and its retained log (R481–R501). The value
after each field is its value at reset; where the manual gives none, the assumption log names it.
-/
namespace Sys2Proof.Machine

/-- The queue types, in the order of their codes (R305). -/
inductive QType where
  | hsq | hcq | heq | hsr | hbr | iwq | pwq | ifq | efq
deriving DecidableEq, Repr

/-- The memory space a ring lies in (R307 SPACE). -/
inductive Space where
  | host | hbm | sram
deriving DecidableEq, Repr

/-- The state of one queue (R307), with the counters of its records (R286, R179, R460) and of its MSI-X signal (R287).
`head` and `tail` are the 32-bit indices of R273; R307 stores them mod 2^17. -/
structure Queue where
  valid      : Bool := false
  base       : Nat := 0
  space      : Space := .host
  ty         : QType := .hsq
  log2       : Nat := 0
  head       : Nat := 0
  tail       : Nat := 0
  owner      : Nat := 0
  cqid       : Nat := 0
  vector     : Nat := 0
  vecEn      : Bool := false
  noSnoop    : Bool := false
  coalesceUs : Nat := 0
  /-- ESEQ or RSEQ: entries due on this queue, written or dropped. -/
  seq        : Nat := 0
  /-- An entry due on this queue was dropped since the last one written. -/
  afterLoss  : Bool := false
  /-- PTP time (ns) of the last MSI-X message sent for the queue. -/
  lastMsi    : Option Nat := none
  /-- An entry was written and its message waits for COALESCE_US. -/
  msiDue     : Bool := false
  /-- The spacing in µs that the waiting message keeps (R186, R287). -/
  dueUs      : Nat := 0
deriving DecidableEq, Repr

/-- The states of the windlass (R278), in the order of WSW_STATUS.STATE (R280). -/
inductive WswState where
  | disabled | waiting | summary | scan | halted
deriving DecidableEq, Repr

/-- A submission entry that the windlass has fetched and whose command has not started (R275, R290), and when (ns) it was fetched (R289, R295). -/
structure Fetched where
  sq   : Nat
  idx  : Nat
  bits : Nat
  at_  : Nat := 0
deriving DecidableEq, Repr

/-- The attributes of an access to host memory (R337). -/
structure HostAttr where
  write   : Bool
  addr    : Nat
  noSnoop : Bool
  relaxed : Bool
deriving DecidableEq, Repr

/-- What an outstanding deferred command waits for (R289, R290). -/
inductive DeferredOp where
  | channelStart (ch : Nat) (join : Bool)
  | prickingLoad (mask : Nat)
  | firmwareLoad (customer : Bool)
  | twinStart
  | twinRejoin
  | twinYield
deriving DecidableEq, Repr

/-- An outstanding deferred command: its queue, its CID, the index after it, what it waits for, and the PTP time (ns) at which it
became outstanding. -/
structure Deferred where
  sq   : Nat
  cid  : Nat
  idx  : Nat
  op   : DeferredOp
  since : Nat := 0
deriving DecidableEq, Repr

/-- A completion that found its HCQ full (R288): the queue, and the 32 bytes without PHASE. -/
structure HeldCpl where
  sq   : Nat
  cq   : Nat
  bits : Nat
deriving DecidableEq, Repr

/-- The host interface (R262–R288). -/
structure HostSt where
  /-- HST_STATUS.READY: self-test has ended. -/
  ready      : Bool := false
  enabled    : Bool := false
  errCause   : Nat := 0
  wsw        : WswState := .disabled
  epochMode  : Bool := false
  lastEpoch  : Nat := 0
  lastGe     : SMap Nat := []
  /-- The next tick of the poll interval, in ns of the AO tick's count (R277, R279). -/
  nextPoll   : Nat := 0
  /-- Bits of the function's configuration space that the rings depend on (R271, R463). -/
  busMaster  : Bool := false
  atomicReq  : Bool := false
  msixEnable : Bool := false
  funcMask   : Bool := false
  /-- Vectors whose mask bit is clear, their pending bits, and the messages sent on each (R463). -/
  unmasked   : SMap Bool := []
  /-- Message address and data words of the MSI-X table, by word offset (R263), and the other items of configuration space, by word (R262). -/
  msixTable  : SMap Nat := []
  config     : SMap Nat := []
  /-- Attributes of the pumps' accesses to host memory, latest first (R337): a write or a read, its address, No Snoop, Relaxed Ordering. -/
  attrs      : List HostAttr := []
  /-- The poll tick after which the held completions of a queue are next tried (R288). -/
  heldTry    : SMap Nat := []
  vecPend    : SMap Bool := []
  msiSent    : SMap Nat := []
  fetched    : List Fetched := []
  deferred   : List Deferred := []
  held       : List HeldCpl := []
deriving DecidableEq, Repr

/-- One interrupt source (R454, R455, R464); its counter is IRQ_CNTn in the register file. -/
structure IrqSrc where
  route     : Nat := 0
  level     : Bool := false
  filter    : Nat := 0
  invert    : Bool := false
  pending   : Bool := false
  inService : Bool := false
  owner     : Nat := 0
  line      : Bool := false
deriving DecidableEq, Repr

/-- A fault message (R481), with the PTP time of its detection (R286, R460). -/
structure FaultMsg where
  source  : Nat := 0
  kind    : Nat := 0
  cls     : Nat := 0
  address : Nat := 0
  detail  : Nat := 0
  tick    : Nat := 0
  seq     : Nat := 0
  timeNs  : Nat := 0
deriving DecidableEq, Repr

/-- A reaction in progress (R488): the message that started it, its class, what was merged into it, and the channels it has
taken in that have not yet reached FAULTED, each with the kind that named it. -/
structure Reaction where
  first     : FaultMsg
  cls       : Nat
  secondary : Nat := 0
  merged    : Nat := 0
  channels  : List (Nat × Nat) := []
deriving DecidableEq, Repr

/-- The fault collector (R483–R501). -/
structure FaultSt where
  /-- Messages detected and not yet accepted (R483), oldest first. -/
  inFlight  : List FaultMsg := []
  /-- Messages sent by each source, mod 16 (R481 SEQ). -/
  seqs      : SMap Nat := []
  /-- FLT_KINDk.CLASS of the kinds whose class differs from the default. -/
  classes   : SMap Nat := []
  log       : SMap Nat := []
  logNext   : Nat := 0
  logTotal  : Nat := 0
  reaction  : Option Reaction := none
  /-- FLT_REACT (R498). -/
  lastKind  : Nat := 0
  lastSec   : Nat := 0
  lastMrg   : Nat := 0
  lastCls   : Nat := 0
  lastValid : Bool := false
  /-- The pins are as in the safe state: from a class 3 message, or a reset of level 0, 1 or 2, until READY (R490, R491, R508). -/
  safe      : Bool := true
  /-- The reset that ended a class 3 reaction is in progress: its messages are merged (R488). -/
  mergeRst  : Bool := false
deriving DecidableEq, Repr

/-- One of the two wells (R312, R315). -/
inductive Well where
  | cell | page
deriving DecidableEq, Repr

/-- A well (R312–R322): who owns each allocated buffer (the side table), the requests that wait for the arbiter, the last
owner it took, and a rebuild in progress. The cell well's free list is threaded through the cells in SRAM from `head` on
(R313); the page well's free pages are its cache, a stack, and its ring in HBM (R316). -/
structure WellSt where
  owners    : SMap (Option Nat) := []
  waiting   : List Nat := []
  lastTaken : Nat := 63
  rebuild   : Bool := false
  /-- The cell that heads the free list, 0xFFFF when none is free. -/
  head      : Nat := 0
  cache     : List Nat := []
  ringHead  : Nat := 0
  ringCount : Nat := 0
  /-- Frees that wait for room in the page cache (R316). -/
  freeWait  : List Nat := []
  /-- When the scan of a cell rebuild began, in ns of the AO tick's count, and the cells freed since behind it, oldest first (R322). -/
  scanFrom  : Nat := 0
  late      : List Nat := []
  /-- Buffers granted and not yet taken by their owner: (owner, buffer); and the statuses that firmware has received for its refused requests:
  (owner, status) (R318, R319). -/
  granted   : List (Nat × Nat) := []
  answers   : List (Nat × Nat) := []
deriving DecidableEq, Repr

/-- The alive slots of a check unit (R476): the last accepted value of each set slot. -/
structure CheckUnit where
  slots : SMap (Option Nat) := []
deriving DecidableEq, Repr

end Sys2Proof.Machine
end

