-- ==== Sys2Proof/Machine/StateNet.lean ====
section
/-!
DEFINITION. State of the pumps and spouts (R331–R352) and of the network: flows, policers, shapers, pacers, gate lists,
memberships and ports (R354–R391).
-/
namespace Sys2Proof.Machine

/-- A pump descriptor (R332), its counts as stored and its steps as signed numbers. -/
structure PumpDesc where
  srcAddr : Nat := 0
  srcSpace : Nat := 0
  dstAddr : Nat := 0
  dstSpace : Nat := 0
  elem : Nat := 0
  evtLine : Nat := 0
  staged : Bool := false
  noSnoop : Bool := false
  relaxed : Bool := false
  count0 : Nat := 0
  count1 : Nat := 0
  count2 : Nat := 0
  owner : Nat := 0
  srcStep0 : Int := 0
  dstStep0 : Int := 0
  srcStep1 : Int := 0
  dstStep1 : Int := 0
  srcStep2 : Int := 0
  dstStep2 : Int := 0
  tag : Nat := 0
deriving DecidableEq, Repr

/-- A pump (R331, R349, R350): the descriptor that runs, whether it is staged, and the status of the latest that ended. -/
structure Pump where
  running    : Option PumpDesc := none
  staging    : Bool := false
  /-- Until when (ns) the read phase of a staged descriptor lasts. -/
  readTill   : Nat := 0
  lastStatus : Nat := 0
  done       : Nat := 0
deriving DecidableEq, Repr

/-- A pulse on the event fabric (R339): its line, TAG and ERR. -/
structure EvtPulse where
  line : Nat
  tag  : Nat
  err  : Bool
deriving DecidableEq, Repr

/-- A spout word (R343): 64 bytes as a number, and its tag. -/
structure SpoutWord where
  data    : Nat := 0
  valid   : Nat := 64
  first   : Bool := false
  last    : Bool := false
  abandon : Bool := false
  /-- The band whose slice the word belongs to: channel, picture, band. -/
  ch      : Nat := 0
  pic     : Nat := 0
  band    : Nat := 0
deriving DecidableEq, Repr

/-- A mirrored slice, or what is left of it, that a pump fills into drained banks (R348). -/
structure MirrorFill where
  ch    : Nat
  pic   : Nat
  band  : Nat
  begun : Bool
  left  : List Nat
deriving DecidableEq, Repr

/-- A spout (R342): the words of its two banks not yet drained, oldest first, which banks are closed, the bank that E0 fills,
and the closed banks in the order in which they closed; and the mirrored slices that wait for a drained bank. -/
structure Spout where
  words   : List (Nat × SpoutWord) := []
  closed  : List Nat := []
  fill    : Nat := 0
  /-- Words written into the fill bank since it was last empty. -/
  filled  : Nat := 0
  /-- Words drained from each bank since it closed: the index of the next. -/
  drained : SMap Nat := []
  mirrors : List MirrorFill := []
deriving DecidableEq, Repr

/-- An ingress flow entry (R360), its policer (R361), and its measurement (R183, R184). -/
structure IFlow where
  bound     : Bool := false
  channel   : Option Nat := none
  port      : Nat := 0
  kind      : Nat := 0
  ipv6      : Bool := false
  srcAny    : Bool := false
  vlanAny   : Bool := false
  join      : Bool := false
  sender    : Nat := 0
  vid       : Nat := 0
  dstPort   : Nat := 0
  rate      : Nat := 0
  burst     : Nat := 0
  pktPixels : Nat := 0
  trOffset  : Nat := 0
  pathDelay : Nat := 0
  passFlow  : Nat := 0
  pass      : Bool := false
  dstAddr   : Nat := 0
  srcAddr   : Nat := 0
  /-- Bucket in units of 1/8,000,000,000 byte, so that each tick's gain RATE × 40 is exact (R361). -/
  bucket    : Nat := 0
  /-- POLICER_DROP count of the flow. -/
  drops     : Nat := 0
deriving DecidableEq, Repr

/-- A SHAPER_SET that waits for its refill boundary (R373). -/
structure ShaperSet where
  k     : Nat
  rate  : Nat
  burst : Nat
deriving DecidableEq, Repr

/-- An egress flow entry (R369) with its shaper (R372). -/
structure EFlow where
  bound    : Bool := false
  channel  : Option Nat := none
  port     : Nat := 0
  solo     : Bool := false
  kind     : Nat := 0
  ipv6     : Bool := false
  vlan     : Bool := false
  pcp      : Nat := 0
  vid      : Nat := 0
  cls      : Nat := 8
  sender   : Nat := 0
  dscp     : Nat := 0
  ttl      : Nat := 0
  srcPort  : Nat := 0
  dstPort  : Nat := 0
  pgroups  : Nat := 0
  ssrc     : Nat := 0
  pt       : Nat := 0
  dmac     : Nat := 0
  smac     : Nat := 0
  dstAddr  : Nat := 0
  srcAddr  : Nat := 0
  /-- Shaper: 0 is off. Tokens are bits; `carry` is the remainder of a refill in units of 1/1,000,000,000 bit. -/
  rate     : Nat := 0
  k        : Nat := 0
  burst    : Nat := 0
  tokens   : Nat := 0
  carry    : Nat := 0
  pendSet  : Option ShaperSet := none
  /-- Ticks (multiples of 40 ns since the epoch) of the last boundary taken, so that each is taken once. -/
  lastRef  : Nat := 0
deriving DecidableEq, Repr

/-- One gate list (R376): entries (GATES, INTERVAL_NS), base time in ns, cycle in ns. -/
structure GateList where
  entries : List (Nat × Nat) := []
  base    : Nat := 0
  cycle   : Nat := 0
deriving DecidableEq, Repr

/-- The gate scheduler of a port (R377–R389). -/
structure Gate where
  oper    : Option GateList := none
  pending : Option (GateList × Nat) := none
  /-- A list that waits for the pending one to switch (R380). -/
  entry   : Nat := 0
  gates   : Nat := 0xFF
  /-- Time (ns) at which the list in force took effect. -/
  since   : Nat := 0
  /-- Longest window of each class in ns; none when unbounded (R379). -/
  windows : List (Option Nat) := List.replicate 8 none
  /-- A pending list that a load met less than 2 µs before its switch, and the list behind it. -/
  next    : Option (GateList × Nat) := none
  /-- The frame on the wire ends (with its gap) at this time, in hundredths of a ns. -/
  freeAt  : Nat := 0
  /-- Frames that a guard band holds and that GAT_GUARD_HOLD has counted: flow and queue index. -/
  held    : List (Nat × Nat) := []
deriving DecidableEq, Repr

/-- A port's link (R383). -/
structure PortSt where
  linkUp : Bool := false
  anDone : Bool := false
  hiSer  : Bool := false
deriving DecidableEq, Repr

/-- A frame that has left a port: its flow, its bytes without FCS, its length with FCS, its transmit timestamp in 0.25 ns, and
whether it was cut short (R490). Kept newest first as what the wire saw. -/
structure SentFrame where
  port  : Nat
  flow  : Nat
  bytes : List Byte
  len   : Nat
  ts    : Nat
  cut   : Bool := false
deriving DecidableEq, Repr

/-- A multicast membership of a port (R363): group and source address (0: any), and whether the report is due or sent. -/
structure Member where
  port   : Nat
  ipv6   : Bool
  group  : Nat
  source : Nat
  flow   : Nat
  /-- A join (true) or a leave (false) that firmware has still to send. -/
  due    : Option Bool
  /-- The report that is due answers a query. -/
  answer : Bool := false
deriving DecidableEq, Repr

/-- The network blocks. -/
structure NetSt where
  iflows  : SMap IFlow := []
  eflows  : SMap EFlow := []
  ports   : SMap PortSt := []
  gates   : SMap Gate := []
  members : List Member := []
  /-- Flows that still hold a shared cell chain, by its first cell (R369, R371). -/
  shares  : SMap Nat := []
  /-- EFQ entries whose producer waits for room in the queue (R371): flow and entry, oldest first. -/
  efqWait : List (Nat × Nat) := []
  /-- Pass-through frames that wait for cells of owner 20 (R319): target flow, and the entry of the chain they arrived in. -/
  passWait : List (Nat × Nat) := []
  /-- PTP frames that have reached firmware (R359, R397) and wait there: port and entry, oldest first. -/
  fwRx    : List (Nat × Nat) := []
  /-- Transmit timestamp records (R397), newest first. -/
  txTs    : List Nat := []
  /-- Frames the wire has seen, newest first. -/
  sent    : List SentFrame := []
  /-- Membership reports sent: (port, group, join), newest first. -/
  reports : List (Nat × Nat × Bool) := []
deriving DecidableEq, Repr

end Sys2Proof.Machine
end

