-- ==== Sys2Proof/Machine/StateReset.lean ====
section
/-!
DEFINITION. State of the AO domain beside the time base: the reset controller (R503–R511, R524–R527), the fuse array and its
shadow (R512–R514, R534), self-test (R519–R522), the power sequencer and the slew governor (R515, R516, R532), the clock
monitors (R533), and the temperature sensors (R554–R557).
-/
namespace Sys2Proof.Machine

/-- The states of the reset controller, in the order of RST_STATUS.STATE (R511, R524). -/
inductive RstState where
  | held | releasing | selfTest | running | diagHold
deriving DecidableEq, Repr

/-- The block reset in progress and RST_BLK_STATUS (R510, R527). -/
structure BlockReset where
  block      : Nat := 0
  busy       : Bool := false
  timeout    : Bool := false
  rej        : Bool := false
  pendingClk : Bool := false
  /-- The AO tick of the idle request. -/
  askedAt    : Nat := 0
  /-- The block is held and cleared, since this AO tick. -/
  heldAt     : Option Nat := none
deriving DecidableEq, Repr

/-- A watchdog that counts (R531): its period in µs, the AO tick of the write that started it, and whether its half is behind it. -/
structure Wdog where
  period : Nat := 0
  start  : Nat := 0
  half   : Bool := false
deriving DecidableEq, Repr

/-- The reset controller. -/
structure ResetSt where
  state      : RstState := .held
  /-- Bit s: source s is asserted (R503). Level 0 reset ends when source 0 is released. -/
  asserted   : BitVec 16 := 0
  /-- Ticks left of the 16-tick pulse sources. -/
  pulses     : SMap Nat := []
  /-- Level named by the latest DEV_RESET or RESET (R505). -/
  swLevel    : Nat := 2
  /-- Deepest level asserted during the episode (R507). -/
  deepest    : Nat := 0
  /-- RST_STATUS.LEVEL: level of the latest episode. -/
  level      : Nat := 0
  /-- RST_CAUSE (R525). -/
  seen       : BitVec 16 := 1
  first      : Nat := 0
  causeLevel : Nat := 0
  optRestart : Bool := false
  fuseWait   : Bool := false
  episodes   : Nat := 0
  blk        : BlockReset := {}
  /-- The self-test record (R521), 64 bytes. -/
  selfTest   : Nat := 0
  /-- The latest TWIN_ROLE sample (R189). -/
  twinRole   : Bool := false
  /-- Blocks held again after their clock was lost (R509). -/
  clkHeld    : List Nat := []
  /-- The watchdogs of CORE0–CORE3 (R531). -/
  wdogs      : SMap Wdog := []
deriving DecidableEq, Repr

/-- The fuse rows of the modelled part as it is delivered: words 0 and 1 spell an MK8128 of stepping A0 (R5, R6), the vendor key
digest in words 4–11 is zeros, each in three copies with its CRC-8 (R513); every other word is blank. -/
def factoryFuses : SMap Nat :=
  [(0, 0x44FF008128), (1, 0x9300181080), (4, 0x1200000000), (5, 0x1200000000), (6, 0x1200000000), (7, 0x1200000000), (8, 0x1200000000), (9, 0x1200000000), (10, 0x1200000000), (11, 0x1200000000)] ++
  [(128, 0x44FF008128), (129, 0x9300181080), (132, 0x1200000000), (133, 0x1200000000), (134, 0x1200000000), (135, 0x1200000000), (136, 0x1200000000), (137, 0x1200000000), (138, 0x1200000000), (139, 0x1200000000)] ++
  [(256, 0x44FF008128), (257, 0x9300181080), (260, 0x1200000000), (261, 0x1200000000), (262, 0x1200000000), (263, 0x1200000000), (264, 0x1200000000), (265, 0x1200000000), (266, 0x1200000000), (267, 0x1200000000)]

/-- The fuse array and its shadow (R512–R514). A row holds 40 bits: data and CRC-8; an unlisted row is blank. -/
structure FuseSt where
  rows     : SMap Nat := factoryFuses
  shadow   : SMap Nat := []
  openKey  : Bool := false
  loaded   : Bool := false
  single   : Nat := 0
  failWord : Nat := 0
  /-- The word being programmed, its 40-bit copy, and the copies still to pulse; the first is in its pulse when `inPulse`. -/
  progWord : Nat := 0
  progCopy : Nat := 0
  toPulse  : List Nat := []
  inPulse  : Bool := false
deriving DecidableEq, Repr

/-- A clocked block that sleeps and wakes through the governor (R515). -/
inductive PwrBlock where
  | hoop (h : Nat) | tambour (n : Nat) | core (c : Nat) | corePll | fclkBlock (id : Nat) | pump (n : Nat) | hbm
deriving DecidableEq, Repr

/-- A step that waits for the governor (R516): times in ns. -/
structure SlewReq where
  block  : PwrBlock
  wake   : Bool
  needed : Nat
  asked  : Nat
deriving DecidableEq, Repr

/-- The power sequencer, the slew governor and the clock monitors. -/
structure PowerSt where
  hoopPll   : BitVec 4 := 0
  tambClk   : BitVec 8 := 0
  coreClk   : BitVec 4 := 0
  /-- Other blocks (core PLL, fclk blocks, pumps, HBM) that are awake. -/
  awake     : List PwrBlock := []
  queue     : List SlewReq := []
  /-- Time (in thousandths of a ns) from which the governor may grant again. -/
  nextFree  : Nat := 0
  /-- CLK_GOOD (R533): bit 11, XTAL, is 1. -/
  clkGood   : BitVec 12 := 0x800
  /-- Clocks whose fabric and core PLL enable the release sequence has issued (R508). -/
  pllOn     : Bool := false
deriving DecidableEq, Repr

/-- One temperature sensor (R555, R556): reading in quarter degrees. -/
structure Sensor where
  temp   : Int := 0
  valid  : Bool := false
  read   : Bool := false
  warn   : Bool := false
  /-- The failed check has been reported since the sensor was last valid. -/
  failed : Bool := false
deriving DecidableEq, Repr

end Sys2Proof.Machine
end

