-- ==== Sys2Proof/Machine/StateTwin.lean ====
section
/-!
DEFINITION. State of the Twilan link (R192–R197), the twin (R189–R228), the pricking stores (R229–R259) and the firmware images
(R297).
-/
namespace Sys2Proof.Machine

/-- The twin states, in the order of TWN_STATUS.STATE (R201, R223). -/
inductive TwinPhase where
  | disabled | linking | checking | locking | twinned | survivor | refused | yielded
deriving DecidableEq, Repr

/-- A frame in the retransmission buffer (R195): its FSEQ, its message, and the time (ns) of its latest sending. -/
structure TwFrame where
  fseq   : Nat
  msg    : TwMsg
  sentAt : Nat
deriving DecidableEq, Repr

/-- What has left on the link, newest first: FSEQ, RETX, NAK, ACK, SESSION, the message (none on a LINK frame), and the frame's bytes (R193). -/
structure TwSent where
  fseq    : Nat
  retx    : Bool
  nak     : Bool
  ack     : Nat
  session : Nat
  msg     : Option TwMsg
  frame   : List Nat
deriving DecidableEq, Repr

/-- A message accepted and not yet acted on by its class: the cells that hold its frame's payload (R312), and the time of its arrival in
0.25 ns (R396). -/
structure TwDelivered where
  msg   : TwMsg
  cells : List Nat := []
  at_   : Nat := 0
deriving DecidableEq, Repr

/-- The Twilan link (R192–R197). -/
structure TwilanSt where
  up          : Bool := false
  nextFseq    : Nat := 0
  outstanding : List TwFrame := []
  /-- Messages that wait for the window. -/
  waiting     : List TwMsg := []
  /-- The lowest FSEQ not yet accepted, and accepted ones above it. -/
  expect      : Nat := 0
  above       : List Nat := []
  /-- Times (ns) of the latest NAK for each missing number. -/
  nakAt       : SMap (Option Nat) := []
  lastTx      : Nat := 0
  wire        : List TwSent := []
  /-- Messages accepted and not yet acted on by their class, oldest first. -/
  delivered   : List TwDelivered := []
  /-- Alive counters (R197): channels' release records 0–127, ledgers 128–255, heartbeats 256. -/
  aliveTx     : SMap Nat := []
  aliveRx     : SMap (Option Nat) := []
deriving DecidableEq, Repr

/-- A slice in the mirror buffer (R214): its band, NAL bytes, packets, and the time (ns) until which it is held. -/
structure MirrorEntry where
  ch    : Nat
  pic   : Nat
  band  : Nat
  nal   : List Nat
  until_ : Nat
deriving DecidableEq, Repr

/-- A reconcile request that waits for the input deadline of its band (R206): its 24-byte head. -/
abbrev ReconWait := Nat

/-- The twin. -/
structure TwinSt where
  phase      : TwinPhase := .disabled
  /-- The acting role: follower, or else leader (R189, R223). -/
  follower   : Bool := false
  /-- The present start is a REJOIN (R221); of a returning device, or of the survivor. -/
  rejoin     : Bool := false
  link       : TwilanSt := {}
  session    : Nat := 0
  /-- The peer's HELLO has arrived: its SESSION and READY. -/
  peerHello  : Option (Nat × Bool) := none
  startedAt  : Nat := 0
  peerReady  : Bool := false
  peerTwinned : Bool := false
  yieldIn    : Bool := false
  /-- A yield has been accepted and has not ended (R220). -/
  yielding   : Bool := false
  timeLocked : Bool := false
  refuse     : Nat := 0
  timeOfs    : Int := 0
  /-- The latest exchange's path delay in 0.25 ns, and the time (ns) of the follower's latest request (R200). -/
  timeDelay  : Int := 0
  timeSent   : Option Nat := none
  lockRun    : Nat := 0
  skewRun    : Nat := 0
  /-- Due times (ns) of heartbeats accepted within 6 µs of them, newest first; the latest due time judged; consecutive misses; the due time of
  the latest heartbeat sent (R217). -/
  hbSeen     : List Nat := []
  hbSent     : Option Nat := none
  hbJudged   : Nat := 0
  hbMissed   : Nat := 0
  /-- Own ARM messages and the peer's, by channel: digest and start time. -/
  ownArm     : SMap (Option (Nat × Nat)) := []
  peerArm    : SMap (Option (Nat × Nat)) := []
  /-- Channels whose next token takes RESYNC, and JOIN (R216, R221). -/
  resyncDue  : List Nat := []
  joinDue    : List Nat := []
  mirror     : List MirrorEntry := []
  reconWait  : List ReconWait := []
  /-- TWN_DIV_LAST (R226). -/
  divLast    : Nat := 0
  /-- Time (ns) of the peer's loss (R219). -/
  lostAt     : Nat := 0
deriving DecidableEq, Repr

/-- The pricking store of a tambour (R229, R250, R255, R256). A word that is not listed is 0 in the vendor region and the trap
word in the open region (R246). -/
structure Store where
  words    : SMap Nat := []
  vState   : Nat := 0
  oState   : Nat := 0
  hookMask : Nat := 0
  verV     : Nat := 0
  verO     : Nat := 0
  patchesV : Nat := 0
  patchesO : Nat := 0
  digestV  : Nat := 0
  digestO  : Nat := 0
  lastStatus : Nat := 0
deriving DecidableEq, Repr

/-- A load whose write step runs (R251 step 8): the tambours, the region, whether it is a patch, the words, and the header
fields shown after it. -/
structure PrkLoad where
  mask    : Nat
  opened  : Bool
  patch   : Bool
  words   : List (Nat × Nat)
  hooks   : Nat
  version : Nat
deriving DecidableEq, Repr

/-- The firmware images (R297): SHA-256 and IMAGE_VERSION of the vendor body and of the customer controller's. -/
structure FwSt where
  vendorSha : Nat := 0
  vendorVer : Nat := 0
  ctrlSha   : Nat := 0
  ctrlVer   : Nat := 0
  ctrlLoaded : Bool := false
  /-- The loads in progress, oldest first: customer, body bytes, version. -/
  load      : List (Bool × List Nat × Nat) := []
  /-- Times that CORE0–CORE3 have restarted from a loaded image. -/
  restarts  : SMap Nat := []
deriving DecidableEq, Repr

end Sys2Proof.Machine
end

