-- ==== Sys2Proof/Machine/State.lean ====
section
/-!
DEFINITION. The state of the MK8128, its faults and refusals, and the state right after a level 0 reset. All of it is plain
data; the value after each field is the value at reset.
-/
namespace Sys2Proof.Machine

/-- The whole device. -/
structure State where
  /-- The commands that wait, first in, first out. -/
  pending  : List Instr := []
  /-- The register file (R9–R12). -/
  regs     : SMap Word := []
  /-- Low words held, and high words latched, for each requester and pair (R11). -/
  heldLow  : SMap (Option Word) := []
  latchedHi : SMap (Option Word) := []
  /-- The value that the latest RC_READ or IRQ_CLAIM returned. -/
  lastRead : Word := 0
  /-- Host memory as the device reaches it, and the address ranges whose reads complete with an error. -/
  hostMem  : List Host.Cell := []
  hostBad  : List (Nat × Nat) := []
  /-- HBM, SRAM from offset 0, the control-core shared window, and the stream context store (R28, R334). -/
  hbmMem   : List Host.Cell := []
  sram     : List Host.Cell := []
  shw      : List Host.Cell := []
  ctx      : List Host.Cell := []
  host     : HostSt := {}
  queues   : SMap Queue := []
  irq      : SMap IrqSrc := []
  flt      : FaultSt := {}
  cellWell : WellSt := {}
  pageWell : WellSt := { cache := List.range 512, ringHead := 512, ringCount := 130560 }
  rst      : ResetSt := { asserted := 1, deepest := 0 }
  fuse     : FuseSt := {}
  pwr      : PowerSt := {}
  sensors  : SMap Sensor := []
  time     : TimeSt := {}
  hbm      : HbmSt := {}
  pumps    : SMap Pump := []
  /-- Pulses that the event fabric has carried, newest first (R339). -/
  pulses   : List EvtPulse := []
  spouts   : SMap Spout := []
  net      : NetSt := {}
  ck       : SMap CheckUnit := []
  codec    : CodecSt := {}
  twin     : TwinSt := {}
  prk      : SMap Store := []
  prkLoad  : List PrkLoad := []
  fw       : FwSt := {}
  /-- The pins FAULT_N and TWIN_YIELD_N are driven low (R490, R493). -/
  faultN   : Bool := true
  yieldN   : Bool := true
  /-- The model's own counter of open values taken (Config.freeValue). -/
  freeCount : Nat := 0
deriving DecidableEq, Repr

/-- Why a command stops. -/
inductive Fault where
  /-- A command names a unit that the device does not have (a seventeenth pump, a ninth port): no such event can occur.
  Raised by every meaning whose operand is a unit number. Safe: the hardware has no such command. -/
  | noSuchUnit
deriving DecidableEq, Repr

/-- Why a command is refused. -/
inductive Refusal where
  /-- The command has no meaning yet. Raised by Dispatch.lean only. Safe. -/
  | notModelled (mnemonic : String)
deriving DecidableEq, Repr

/-- The machine right after a level 0 reset: RESET_HELD, every register at its reset value. -/
def State.reset : State := {}

end Sys2Proof.Machine
end

