-- ==== Sys2Proof/Machine/Ops.lean ====
section
/-!
DEFINITION. The named operations that meanings share: the register file, the memories, PTP time, the numbered tables, raising
a fault message, asserting an interrupt source, and the records that the device writes on its queues.
-/
namespace Sys2Proof.Machine

/-! ## The register file (R9–R12) -/

/-- The word at BAR0 offset `a`. -/
def State.reg (s : State) (a : Nat) : Word := SMap.get regReset s.regs a

/-- The word at `a` as a number. -/
def State.regN (s : State) (a : Nat) : Nat := (s.reg a).toNat

/-- Puts a word at `a`. -/
def State.setReg (s : State) (a : Nat) (v : Word) : State := { s with regs := SMap.set regReset s.regs a v }

/-- Puts a number, cut to 32 bits, at `a`. -/
def State.setRegN (s : State) (a v : Nat) : State := s.setReg a (BitVec.ofNat 32 v)

/-- Field [lo + w − 1 : lo] of the word at `a`. -/
def State.field (s : State) (a lo w : Nat) : Nat := bitsAt (s.regN a) lo w

/-- Sets the bits of `m` in the word at `a`. -/
def State.setBits (s : State) (a : Nat) (m : Word) : State := s.setReg a (s.reg a ||| m)

/-- A counter of `w` bits at `a` adds `n` and saturates. -/
def State.count (s : State) (a w n : Nat) : State := s.setRegN a (satAdd w (s.regN a) n)

/-- The committed value of a 64-bit pair (R11). -/
def State.pair (s : State) (a : Nat) : Nat := s.regN a + 2 ^ 32 * s.regN (a + 4)

/-- A requester's key in the tables of held and latched words. -/
def reqKey (r : Requester) (a : Nat) : Nat :=
  match r with
  | .host => a
  | .core c => 2 ^ 20 * (c + 1) + a

/-- Holds the low word that `r` wrote to the pair at `a` (R11). -/
def State.holdLow (s : State) (r : Requester) (a : Nat) (v : Word) : State :=
  { s with heldLow := SMap.set (fun _ => none) s.heldLow (reqKey r a) (some v) }

/-- The low word that a write of the high word commits: the held one, or the present committed one (R11). -/
def State.lowToCommit (s : State) (r : Requester) (a : Nat) : Word :=
  match SMap.get (fun _ => none) s.heldLow (reqKey r a) with
  | some v => v
  | none => s.reg a

/-- Commits the pair at `a` with high word `hi` (R11): the requester's held low word is cleared. -/
def State.commitPair (s : State) (r : Requester) (a : Nat) (hi : Word) : State :=
  let lo := s.lowToCommit r a
  let s := { s with heldLow := SMap.set (fun _ => none) s.heldLow (reqKey r a) none }
  (s.setReg a lo).setReg (a + 4) hi

/-! ## Memories -/

/-- The link word of a free cell (R313): NEXT, CHECK over the index, NEXT and the reserved bytes. -/
def linkWord (i next : Nat) : Nat :=
  packFields [(16, next), (16, crc16 (packFields [(16, i), (16, next), (32, 0)]) 8), (32, 0)]

/-- Cells of the cell well (R312). -/
abbrev cellCount : Nat := 12288

/-- What an unlisted byte of SRAM reads as: the link words of the empty cell well in index order, and zeros. -/
def sramDefault (a : Nat) : Byte :=
  if a < 0x1800000 ∧ a % 0x800 < 8 then
    let i := a / 0x800
    byteOf (linkWord i (if i + 1 < cellCount then i + 1 else 0xFFFF)) (a % 0x800)
  else 0

/-- Where the page well's free ring lies (R306). -/
abbrev pageRingBase : Nat := 0x1F0000000

/-- What an unlisted byte of HBM reads as: entry j of the page well's free ring names page j, and zeros elsewhere. -/
def hbmDefault (a : Nat) : Byte :=
  if pageRingBase ≤ a ∧ a < 0x80000 + pageRingBase then byteOf ((a - pageRingBase) / 4) ((a - pageRingBase) % 4) else 0

/-- What an unlisted byte of the other memories reads as. -/
def zeroDefault (_ : Nat) : Byte := 0

/-- Byte `a` of a memory whose unlisted bytes read as `d`. -/
def Memory.read (d : Nat → Byte) (m : List Host.Cell) (a : Nat) : Byte := SMap.get d m a

/-- Writes one byte. -/
def Memory.write (d : Nat → Byte) (m : List Host.Cell) (a : Nat) (v : Byte) : List Host.Cell := SMap.set d m a v

/-- Writes bytes from address `a` on. -/
def Memory.writeBytes (d : Nat → Byte) (m : List Host.Cell) (a : Nat) (bs : List Byte) : List Host.Cell :=
  match bs with
  | [] => m
  | b :: t => Memory.writeBytes d (Memory.write d m a b) (a + 1) t

/-- The canonical form of a memory. -/
def Memory.wf (d : Nat → Byte) (m : List Host.Cell) : Bool := SMap.wf d m

/-- The number that `n` bytes from `a` on spell. -/
def Memory.load (d : Nat → Byte) (m : List Host.Cell) (a n : Nat) : Nat := leNat (Memory.read d m) a n

/-- Host memory: `n` bytes from `a`, or none where a read there completes with an error. -/
def State.hostRead (s : State) (a n : Nat) : Option Nat :=
  if s.hostBad.any (fun r => decide (a < r.1 + r.2) && decide (r.1 < a + n)) then none
  else some (Memory.load zeroDefault s.hostMem a n)

/-- Writes the low `n` bytes of `v` to host memory. -/
def State.hostWrite (s : State) (a n v : Nat) : State :=
  { s with hostMem := Memory.writeBytes zeroDefault s.hostMem a (bytesOf v n) }

/-- `n` bytes of SRAM from offset `a`. -/
def State.sramRead (s : State) (a n : Nat) : Nat := Memory.load sramDefault s.sram a n

/-- Writes the low `n` bytes of `v` to SRAM. -/
def State.sramWrite (s : State) (a n v : Nat) : State :=
  { s with sram := Memory.writeBytes sramDefault s.sram a (bytesOf v n) }

/-- `n` bytes of HBM from address `a`. -/
def State.hbmRead (s : State) (a n : Nat) : Nat := Memory.load hbmDefault s.hbmMem a n

/-- Writes the low `n` bytes of `v` to HBM. -/
def State.hbmWrite (s : State) (a n v : Nat) : State :=
  { s with hbmMem := Memory.writeBytes hbmDefault s.hbmMem a (bytesOf v n) }

/-- `n` bytes of the shared window from offset `a`. -/
def State.shwRead (s : State) (a n : Nat) : Nat := Memory.load zeroDefault s.shw a n

/-- Writes the low `n` bytes of `v` to the shared window. -/
def State.shwWrite (s : State) (a n v : Nat) : State :=
  { s with shw := Memory.writeBytes zeroDefault s.shw a (bytesOf v n) }

/-! ## Numbered tables -/

/-- A queue that firmware creates at boot in the shared window (R304, R307): base and size are firmware's. -/
def fwQueue (q : Nat) (t : QType) : Queue :=
  { valid := true, base := 4096 * (Config.fwQueuePage q % 2048), space := .sram, ty := t, log2 := 4 + Config.fwQueueLog2 q % 13, owner := 32 }

/-- The QIDs of firmware's own internal work queues (R304). -/
def fwIwq (q : Nat) : Bool := decide (32 ≤ q ∧ q < 8192) || decide (12288 ≤ q ∧ q < 65536)

/-- A queue that nothing has created or changed: an internal work queue of firmware's where it has one, else none (R304). When firmware creates it
is left open; the model has it from reset on (DESIGN CHOICE, log 143). -/
def queueReset (q : Nat) : Queue := if fwIwq q && Config.fwQueueValid q then fwQueue q .iwq else {}

/-- Queue `q`. -/
def State.queue (s : State) (q : Nat) : Queue := SMap.get queueReset s.queues q

/-- Changes queue `q`. -/
def State.modQueue (s : State) (q : Nat) (f : Queue → Queue) : State :=
  { s with queues := SMap.modify queueReset s.queues q f }

/-- Channel `c`. -/
def State.channel (s : State) (c : Nat) : Channel := SMap.get (fun _ => {}) s.codec.channels c

/-- Changes channel `c`. -/
def State.modChannel (s : State) (c : Nat) (f : Channel → Channel) : State :=
  { s with codec := { s.codec with channels := SMap.modify (fun _ => {}) s.codec.channels c f } }

/-- Ingress flow entry `f`. -/
def State.iflow (s : State) (f : Nat) : IFlow := SMap.get (fun _ => {}) s.net.iflows f

/-- Changes ingress flow entry `f`. -/
def State.modIflow (s : State) (f : Nat) (g : IFlow → IFlow) : State :=
  { s with net := { s.net with iflows := SMap.modify (fun _ => {}) s.net.iflows f g } }

/-- Egress flow entry `f`. -/
def State.eflow (s : State) (f : Nat) : EFlow := SMap.get (fun _ => {}) s.net.eflows f

/-- Changes egress flow entry `f`. -/
def State.modEflow (s : State) (f : Nat) (g : EFlow → EFlow) : State :=
  { s with net := { s.net with eflows := SMap.modify (fun _ => {}) s.net.eflows f g } }

/-- Bytes of an egress flow's Ethernet, IP and UDP headers (R369, R371). -/
def EFlow.header (f : EFlow) : Nat := 14 + 4 * b2n f.vlan + (if f.ipv6 then 40 else 20) + 8

/-- The gate scheduler of port `n`. -/
def State.gate (s : State) (n : Nat) : Gate := SMap.get (fun _ => {}) s.net.gates n

/-- Changes the gate scheduler of port `n`. -/
def State.modGate (s : State) (n : Nat) (f : Gate → Gate) : State :=
  { s with net := { s.net with gates := SMap.modify (fun _ => {}) s.net.gates n f } }

/-- The link of port `n`. -/
def State.port (s : State) (n : Nat) : PortSt := SMap.get (fun _ => {}) s.net.ports n

/-- Changes the link of port `n`. -/
def State.modPort (s : State) (n : Nat) (f : PortSt → PortSt) : State :=
  { s with net := { s.net with ports := SMap.modify (fun _ => {}) s.net.ports n f } }

/-- Pump `n`. -/
def State.pump (s : State) (n : Nat) : Pump := SMap.get (fun _ => {}) s.pumps n

/-- Changes pump `n`. -/
def State.modPump (s : State) (n : Nat) (f : Pump → Pump) : State :=
  { s with pumps := SMap.modify (fun _ => {}) s.pumps n f }

/-- Spout `n`. -/
def State.spout (s : State) (n : Nat) : Spout := SMap.get (fun _ => {}) s.spouts n

/-- Changes spout `n`. -/
def State.modSpout (s : State) (n : Nat) (f : Spout → Spout) : State :=
  { s with spouts := SMap.modify (fun _ => {}) s.spouts n f }

/-- A value the manual leaves open: the next free value. -/
def State.takeFree (s : State) : Nat × State :=
  (Config.freeValue s.freeCount, { s with freeCount := s.freeCount + 1 })

/-! ## Time (R16, R392) -/

/-- PTP time in whole nanoseconds from the epoch. -/
def State.now (s : State) : Nat := 1000000000 * s.time.sec + s.time.ns

/-- PTP time in units of 0.25 ns (R396): the fraction's two top bits below the nanoseconds. -/
def State.nowQ (s : State) : Nat := 4 * s.now + s.time.frac / 2 ^ 30

/-- A channel that has been armed and has not stopped: ARMED, RUNNING or DRAINING. -/
def ChState.live (c : ChState) : Bool :=
  match c with
  | .armed => true
  | .running => true
  | .draining => true
  | _ => false

/-- Some channel is ARMED, RUNNING or DRAINING (R402, R405, R437). -/
def State.anyLive (s : State) : Bool := s.codec.channels.any (fun e => e.2.state.live)

/-! ## Fault kinds (R485) and the raising of a message (R481, R483) -/

/-- How a kind's ADDRESS is formed (R484). -/
inductive AddrForm where
  | a | p | c | none
deriving DecidableEq, Repr

/-- A row of the master table: default class, form, and the core whose fallback queue its messages go to (R461). -/
structure KindInfo where
  cls  : Nat
  form : AddrForm
  core : Nat
deriving DecidableEq, Repr

/-- The master table of kinds (R485). Codes it does not list give none; REACTION_END, 0xFE, has no class of its own. -/
def kindInfo (k : Nat) : Option KindInfo :=
  if k = 0x01 then some ⟨0, .a, 0⟩ else if k = 0x02 then some ⟨1, .a, 0⟩
  else if k = 0x03 then some ⟨3, .none, 0⟩ else if k = 0x04 then some ⟨1, .none, 0⟩
  else if k = 0x05 ∨ k = 0x06 then some ⟨3, .none, 0⟩
  else if k = 0x07 then some ⟨1, .none, 0⟩ else if k = 0x08 then some ⟨3, .none, 0⟩
  else if k = 0x09 then some ⟨3, .none, 0⟩
  else if k = 0x0A then some ⟨3, .none, 0⟩ else if k = 0x0B then some ⟨1, .none, 0⟩
  else if k = 0x0C then some ⟨0, .none, 0⟩ else if k = 0x0D then some ⟨1, .a, 0⟩
  else if k = 0x10 ∨ k = 0x11 then some ⟨0, .a, 0⟩ else if k = 0x12 ∨ k = 0x13 then some ⟨1, .a, 0⟩
  else if k = 0x14 then some ⟨0, .a, 0⟩
  else if 0x18 ≤ k ∧ k ≤ 0x1A then some ⟨0, .a, 0⟩ else if 0x1B ≤ k ∧ k ≤ 0x1E then some ⟨1, .a, 0⟩
  else if 0x20 ≤ k ∧ k ≤ 0x22 then some ⟨1, .c, 2⟩
  else if 0x23 ≤ k ∧ k ≤ 0x25 then some ⟨1, .p, 2⟩ else if k = 0x26 then some ⟨0, .p, 2⟩
  else if k = 0x27 then some ⟨2, .c, 2⟩
  else if 0x28 ≤ k ∧ k ≤ 0x2E then some ⟨0, .p, 2⟩ else if k = 0x2F ∨ k = 0x30 then some ⟨1, .c, 2⟩
  else if 0x38 ≤ k ∧ k ≤ 0x3E then some ⟨0, .none, 1⟩ else if k = 0x3F ∨ k = 0x40 then some ⟨1, .none, 1⟩
  else if 0x48 ≤ k ∧ k ≤ 0x4B then some ⟨1, .none, 1⟩
  else if 0x50 ≤ k ∧ k ≤ 0x53 then some ⟨0, .none, 3⟩
  else if k = 0x54 then some ⟨1, .p, 3⟩ else if 0x55 ≤ k ∧ k ≤ 0x57 then some ⟨0, .p, 3⟩
  else if k = 0x58 then some ⟨1, .p, 3⟩ else if k = 0x59 ∨ k = 0x5A then some ⟨1, .none, 3⟩
  else none

/-- Status codes (R301). -/
abbrev St.ok := 0x00
abbrev St.badOpcode := 0x01
abbrev St.badChannel := 0x02
abbrev St.badState := 0x03
abbrev St.badFormat := 0x04
abbrev St.noCapacity := 0x05
abbrev St.noQueue := 0x06
abbrev St.quotaExceeded := 0x07
abbrev St.wellEmpty := 0x08
abbrev St.lenZero := 0x09
abbrev St.lenOverBuffer := 0x0A
abbrev St.overlapRejected := 0x0B
abbrev St.signatureFail := 0x0C
abbrev St.twinRefused := 0x0D
abbrev St.busy := 0x0E
abbrev St.timeout := 0x0F
abbrev St.dmaError := 0x10
abbrev St.aborted := 0x11

/-- The codes of the kinds that meanings raise (R485). -/
abbrev Kind.eccCorr := 0x01
abbrev Kind.eccUncorr := 0x02
abbrev Kind.clkLost := 0x03
abbrev Kind.idleTimeout := 0x04
abbrev Kind.optionFail := 0x05
abbrev Kind.selftestFail := 0x06
abbrev Kind.thermWarn := 0x07
abbrev Kind.thermTrip := 0x08
abbrev Kind.wdogExpire := 0x09
abbrev Kind.hbmTrainFail := 0x0A
abbrev Kind.hbmTempHigh := 0x0B
abbrev Kind.hbmPortLate := 0x0C
abbrev Kind.rowCheckBad := 0x0D
abbrev Kind.barMisaligned := 0x10
abbrev Kind.dbInvalid := 0x11
abbrev Kind.hostDmaErr := 0x12
abbrev Kind.cmdCheckBad := 0x13
abbrev Kind.irqBadComplete := 0x14
abbrev Kind.wellDoubleFree := 0x18
abbrev Kind.wellForeignFree := 0x19
abbrev Kind.wellBadFree := 0x1A
abbrev Kind.wellLinkBad := 0x1B
abbrev Kind.wellRingBad := 0x1C
abbrev Kind.pumpReject := 0x1D
abbrev Kind.cellChainBad := 0x1E
abbrev Kind.chRunning := 0x20
abbrev Kind.chStopped := 0x21
abbrev Kind.chFaulted := 0x22
abbrev Kind.bandLate := 0x23
abbrev Kind.planLate := 0x24
abbrev Kind.wakeLate := 0x25
abbrev Kind.hookOverrun := 0x26
abbrev Kind.ctxFail := 0x27
abbrev Kind.decLoss := 0x28
abbrev Kind.decParse := 0x29
abbrev Kind.decRefMissing := 0x2A
abbrev Kind.decHashMismatch := 0x2B
abbrev Kind.decOutEarly := 0x2C
abbrev Kind.mergeLate := 0x2D
abbrev Kind.mergeDupDiff := 0x2E
abbrev Kind.decMismatch := 0x2F
abbrev Kind.decResync := 0x30
abbrev Kind.policerDrop := 0x38
abbrev Kind.oversizeForGate := 0x39
abbrev Kind.ingressEarly := 0x3A
abbrev Kind.ingressLate := 0x3B
abbrev Kind.ingressMalformed := 0x3C
abbrev Kind.ingressDupDiff := 0x3D
abbrev Kind.gateSwitch := 0x3E
abbrev Kind.linkUp := 0x3F
abbrev Kind.linkDown := 0x40
abbrev Kind.timeStepped := 0x48
abbrev Kind.servoChange := 0x49
abbrev Kind.refLost := 0x4A
abbrev Kind.ptpParentChange := 0x4B
abbrev Kind.hdrDamaged := 0x50
abbrev Kind.payloadDamaged := 0x51
abbrev Kind.repeat_ := 0x52
abbrev Kind.gap := 0x53
abbrev Kind.twinDiverge := 0x54
abbrev Kind.twinPeerAbandon := 0x55
abbrev Kind.twinRecordLate := 0x56
abbrev Kind.twinReconLate := 0x57
abbrev Kind.twinMirrorFail := 0x58
abbrev Kind.twinTimeSkew := 0x59
abbrev Kind.twinLost := 0x5A
abbrev Kind.reactionEnd := 0xFE

/-- Source IDs (R482). -/
abbrev Src.collector := 0x000
abbrev Src.reset := 0x001
abbrev Src.fuse := 0x002
abbrev Src.tambour := 0x008
abbrev Src.spout := 0x010
abbrev Src.pump := 0x018
abbrev Src.port := 0x028
abbrev Src.gate := 0x030
abbrev Src.ingress := 0x038
abbrev Src.egress := 0x039
abbrev Src.packetizer := 0x03A
abbrev Src.depacketizer := 0x03B
abbrev Src.cistern := 0x040
abbrev Src.cellWell := 0x041
abbrev Src.pageWell := 0x042
abbrev Src.hbm := 0x048
abbrev Src.hbmChannel := 0x050
abbrev Src.time := 0x060
abbrev Src.twilan := 0x061
abbrev Src.twin := 0x062
abbrev Src.hostIf := 0x068
abbrev Src.cmdCheck := 0x069
abbrev Src.checkUnit := 0x070
abbrev Src.firmware := 0x080
abbrev Src.irq := 0x088
abbrev Src.sensor := 0x090
abbrev Src.hostInject := 0x3FF

/-- ADDRESS in form P (R484): channel, picture, band (0xFF: the whole picture). -/
def addrP (ch pic band : Nat) : Nat := 2 ^ 47 + 2 ^ 40 * (ch % 128) + 2 ^ 8 * (pic % 2 ^ 32) + band % 256

/-- ADDRESS in form C (R484). -/
def addrC (ch : Nat) : Nat := 2 ^ 47 + 2 ^ 40 * (ch % 128)

/-- The default class of a kind (R485). -/
def kindDefault (k : Nat) : Nat := match kindInfo k with | some i => i.cls | none => 0

/-- The class a message of kind `k` gets (R486, R487): FLT_KINDk.CLASS. -/
def State.kindClass (s : State) (k : Nat) : Nat :=
  SMap.get kindDefault s.flt.classes k

/-- A block detects a fault: its message, with the tick, the time and the source's sequence number, is on its way to the
collector (R481, R483). FAULT_MESSAGE is its acceptance. -/
def State.raise (s : State) (source kind address detail : Nat) : State :=
  let n := SMap.get (fun _ => 0) s.flt.seqs source
  let m : FaultMsg :=
    { source := source, kind := kind, cls := kindDefault kind,
      address := address % 2 ^ 48, detail := detail % 2 ^ 32, tick := s.time.tick % 2 ^ 24, seq := n, timeNs := s.now }
  { s with flt := { s.flt with inFlight := s.flt.inFlight ++ [m], seqs := SMap.set (fun _ => 0) s.flt.seqs source ((n + 1) % 16) } }

/-! ## MSI-X (R287, R463) -/

/-- Sends the message of vector `v`, or holds it while a mask is set (R463). -/
def State.msixSend (s : State) (v : Nat) : State :=
  let h := s.host
  if h.msixEnable = false then s
  else if h.funcMask || !SMap.get (fun _ => false) h.unmasked v then
    { s with host := { h with vecPend := SMap.set (fun _ => false) h.vecPend v true } }
  else { s with host := { h with msiSent := SMap.modify (fun _ => 0) h.msiSent v (· + 1) } }

/-- Signals host queue `q` after an entry is written (R287): at once, or when `us` microseconds have passed since the last message.
Internal queues signal by an interrupt source (`putSignal`). -/
def State.signalWith (s : State) (q us : Nat) : State :=
  let u := s.queue q
  if u.vecEn = false || decide (u.space ≠ .host) then s
  else match u.lastMsi with
    | some t =>
      if s.now < t + 1000 * us then s.modQueue q fun u => { u with msiDue := true, dueUs := us }
      else (s.modQueue q fun u => { u with lastMsi := some s.now, msiDue := false }).msixSend u.vector
    | none => (s.modQueue q fun u => { u with lastMsi := some s.now, msiDue := false }).msixSend u.vector

/-- Signals a queue with its own COALESCE_US (R287). -/
def State.signal (s : State) (q : Nat) : State := s.signalWith q (s.queue q).coalesceUs

/-! ## Queues (R305–R308) -/

/-- Bytes of an entry of a queue type (R305). -/
def QType.entryBytes (t : QType) : Nat :=
  match t with
  | .hcq => 32
  | .heq => 32
  | .ifq => 16
  | .efq => 16
  | _ => 64

/-- The code of a queue type (R305). -/
def QType.code (t : QType) : Nat :=
  match t with
  | .hsq => 0 | .hcq => 1 | .heq => 2 | .hsr => 3 | .hbr => 4 | .iwq => 5 | .pwq => 6 | .ifq => 7 | .efq => 8

/-- The code of a ring's space (R307). -/
def Space.code (t : Space) : Nat := match t with | .host => 0 | .hbm => 1 | .sram => 2

/-- Indices count mod 2^32 (R273). -/
def idxSub (a b : Nat) : Nat := (2 ^ 32 + a - b) % 2 ^ 32

/-- Entries between the indices of a queue. -/
def Queue.fill (u : Queue) : Nat := idxSub u.tail u.head

/-- A queue is full when its entries are its size (R308). -/
def Queue.full (u : Queue) : Bool := decide (2 ^ u.log2 ≤ u.fill)

/-- Address of the entry of index `i` (R308). -/
def Queue.slot (u : Queue) (i : Nat) : Nat := u.base + i % 2 ^ u.log2 * u.ty.entryBytes

/-- The PHASE written into the entry of index `i` (R308). -/
def Queue.phase (u : Queue) (i : Nat) : Nat := 1 - i / 2 ^ u.log2 % 2

/-- The 16 bytes of a queue's state (R307); an invalid queue reads as zeros. -/
def Queue.image (u : Queue) : Nat :=
  if u.valid = false then 0
  else packFields
    ([(52, u.base / 4096), (2, u.space.code), (4, u.ty.code), (5, u.log2), (1, 1), (17, u.head), (17, u.tail), (6, u.owner)] ++
      (if u.ty = .hsq then [(18, u.cqid)] else [(8, u.vector), (1, b2n u.vecEn), (1, b2n u.noSnoop), (10, u.coalesceUs)]))

/-- Writes `n` bytes at an address of a space. -/
def State.spaceWrite (s : State) (sp : Space) (a n v : Nat) : State :=
  match sp with
  | .host => s.hostWrite a n v
  | .hbm => s.hbmWrite a n v
  | .sram => s.shwWrite a n v

/-- Reads `n` bytes at an address of a space; host reads that fail read as 0 here. -/
def State.spaceRead (s : State) (sp : Space) (a n : Nat) : Nat :=
  match sp with
  | .host => (s.hostRead a n).getD 0
  | .hbm => s.hbmRead a n
  | .sram => s.shwRead a n

/-- The doorbell area (R272), and the record of queue `q` in it (R273). -/
def State.dbArea (s : State) : Nat := s.pair Reg.hstDb

/-- Address of the doorbell record of queue `q` (R272). -/
def State.dbRecord (s : State) (q : Nat) : Nat := 0x10000 + s.dbArea + 8 * q

/-- Writes the next entry of a device-written queue, advances its TAIL and signals it. -/
def State.putEntry (s : State) (q : Nat) (v : Nat) : State :=
  let u := s.queue q
  let s := s.spaceWrite u.space (u.slot u.tail) u.ty.entryBytes v
  (s.modQueue q fun u => { u with tail := (u.tail + 1) % 2 ^ 32 }).signal q

/-- The entry at the head of a queue. -/
def State.headEntry (s : State) (q : Nat) : Nat :=
  let u := s.queue q
  s.spaceRead u.space (u.slot u.head) u.ty.entryBytes

/-- Takes the entry at the head of a queue. -/
def State.popEntry (s : State) (q : Nat) : State := s.modQueue q fun u => { u with head := (u.head + 1) % 2 ^ 32 }

/-- A queue is empty (R308). -/
def Queue.isEmpty (u : Queue) : Bool := decide (u.head = u.tail)

/-- Takes a consumer index for a device-written queue (R283): one that lies between HEAD and TAIL, else nothing changes. -/
def State.takeConsumer (s : State) (q idx : Nat) : Option State :=
  let u := s.queue q
  if idxSub idx u.head ≤ u.fill then some (s.modQueue q fun u => { u with head := idx % 2 ^ 32 }) else none

/-- Ignores a doorbell record (R302): DB_INVALID is counted and raised. -/
def State.dbInvalid (s : State) (q : Nat) : State :=
  (s.count Reg.wswDbInvalid 32 1).raise Src.hostIf Kind.dbInvalid (s.dbRecord q) q

/-! ## Interrupt sources (R451–R461) -/

/-- A source at reset: routes 0, and LEVEL as R451 gives it. -/
def irqReset (n : Nat) : IrqSrc :=
  { level := decide (8 ≤ n ∧ n ≤ 11) || decide (16 ≤ n ∧ n ≤ 31) || decide (n = 51) || decide (n = 52) }

/-- Interrupt source `n`. -/
def State.src (s : State) (n : Nat) : IrqSrc := SMap.get irqReset s.irq n

/-- Changes interrupt source `n`. -/
def State.modSrc (s : State) (n : Nat) (f : IrqSrc → IrqSrc) : State := { s with irq := SMap.modify irqReset s.irq n f }

/-- The route of a source to core `c` (R454). -/
def IrqSrc.routeTo (i : IrqSrc) (c : Nat) : Nat := bitsAt i.route (2 * c) 2

/-- The source takes part in core `c`'s request line and claims: route 1, and 3 acts as 1 (R454). -/
def IrqSrc.claimRoute (i : IrqSrc) (c : Nat) : Bool := decide (i.routeTo c = 1) || decide (i.routeTo c = 3)

/-- A level source whose line is high and which is not in service is pending (R455). -/
def IrqSrc.sample (i : IrqSrc) : IrqSrc :=
  if i.level && i.line && !i.inService then { i with pending := true } else i

/-- A source leaves in service (R455): an edge source keeps what became pending meanwhile, a level source samples its line. -/
def IrqSrc.complete (i : IrqSrc) : IrqSrc :=
  if i.level then { i with inService := false, pending := i.line } else { i with inService := false }

/-- QID of core `c`'s fallback event queue (R304). -/
abbrev fbQueue (c : Nat) : Nat := 4 + c

/-- The TYPE 1 record of an assertion of source `n` (R460), without PHASE, AFTER_LOSS and ESEQ. -/
def srcRecord (n cnt now : Nat) : Nat :=
  packFields [(12, 0), (2, 1), (18, 0), (10, n), (8, 0xFF), (14, 0), (64, now), (64, 0), (64, 0), (64, 0), (8, cnt)]

/-- Puts a record, without PHASE, AFTER_LOSS and ESEQ, on a core's fallback queue (R460, R461): when the queue is full the
record is dropped; ESEQ counts either way. A queue that does not exist takes nothing. The queue's level source 8 + c is high
while it is not empty (R462), or with INVERT low (R452); its own rise is an assertion, which is recorded where it is routed so (`fuel` bounds the depth:
a line that is high does not rise again, and there are four). -/
def State.putFallback (fuel : Nat) (s : State) (c : Nat) (v : Nat) : State :=
  match fuel with
  | 0 => s
  | k + 1 =>
    let q := fbQueue c
    let u := s.queue q
    if u.valid = false then s
    else if u.full then s.modQueue q fun u => { u with seq := (u.seq + 1) % 2 ^ 16, afterLoss := true }
    else
      let s := s.putEntry q (v + 2 ^ 10 * u.phase u.tail + 2 ^ 11 * b2n u.afterLoss + 2 ^ 16 * u.seq)
      let s := s.modQueue q fun u => { u with seq := (u.seq + 1) % 2 ^ 16, afterLoss := false }
      if (s.src (8 + c)).invert then s.modSrc (8 + c) fun i => { i with line := false }
      else if (s.src (8 + c)).line then s
      else
        let s := s.count (Reg.irqCnt + 4 * (8 + c)) 8 1
        let s := s.modSrc (8 + c) fun i => { i with line := true }.sample
        [0, 1, 2, 3].foldl (fun t d =>
          if (s.src (8 + c)).routeTo d = 2 then State.putFallback k t d (srcRecord (8 + c) (s.regN (Reg.irqCnt + 4 * (8 + c))) s.now)
          else t) s

/-- Writes the record of an assertion to every core whose route is 2 (R454, R461). -/
def State.recordAssertion (s : State) (n : Nat) : State :=
  [0, 1, 2, 3].foldl (fun t c =>
    if (s.src n).routeTo c = 2 then State.putFallback 5 t c (srcRecord n (s.regN (Reg.irqCnt + 4 * n)) s.now) else t) s

/-- An assertion of source `n`: the counter adds 1, the source becomes pending, and records are written (R453–R455, R461).
A level source's line is set high by its raiser. -/
def State.assertIrq (s : State) (n : Nat) : State :=
  let s := s.count (Reg.irqCnt + 4 * n) 8 1
  let s := s.modSrc n fun i => if i.level then i.sample else { i with pending := true }
  s.recordAssertion n

/-- A level source's filtered line rises: an assertion (R452, R455). No effect when it is high already. -/
def State.raiseLine (s : State) (n : Nat) : State :=
  if (s.src n).line then s else (s.modSrc n fun i => { i with line := true }).assertIrq n

/-- A level source's filtered line falls (R452, R455): pending holds. -/
def State.dropLine (s : State) (n : Nat) : State := s.modSrc n fun i => { i with line := false }

/-- The raw line of source `n` takes a level; with INVERT the filtered line takes the other one (R452). -/
def State.rawLine (s : State) (n : Nat) (high : Bool) : State := if high = (s.src n).invert then s.dropLine n else s.raiseLine n

/-- A timing output goes to its IDLE level at once, and its generator is disabled (R413, R490). -/
def Tout.idled (o : Tout) : Tout := { o with running := false, returnAt := none, level := bitAt o.cfg 3 }

/-- The windlass halts (R278): HST_ERR.CAUSE, HOST_DMA_ERR, and interrupt source 52. -/
def State.haltWindlass (s : State) (cause : Nat) : State :=
  let s := { s with host := { s.host with wsw := .halted, errCause := cause } }
  (s.raise Src.hostIf Kind.hostDmaErr 0 cause).rawLine 52 true

/-- While Bus Master Enable is 0 the function makes no write: HST_ERR.CAUSE says that an entry could not be written (R269; DEDUCED, log 143). -/
def State.noteNoWrite (s : State) : State := if s.host.busMaster then s else { s with host := { s.host with errCause := 7 } }

/-- Room on a host ring (R283): when the cached index shows none, the doorbell record is read again at once; a read
that fails halts the windlass (R269, R278). -/
def State.refreshRoom (s : State) (q : Nat) : State :=
  let u := s.queue q
  if u.full && decide (u.space = .host) then
    match s.hostRead (s.dbRecord q) 4 with
    | some i => match s.takeConsumer q i with
      | some t => t
      | none => s.dbInvalid q
    | none => s.haltWindlass 5
  else s

/-- Writes the next entry of a device-written queue; an internal queue with VEC_EN raises source 256 + VECTOR (R451). -/
def State.putSignal (s : State) (q v : Nat) : State :=
  let t := s.putEntry q v
  if (s.queue q).vecEn && decide ((s.queue q).space ≠ .host) then t.assertIrq (256 + (s.queue q).vector) else t

/-! ## Host events (R286, R288) -/

/-- The event's queue: the channel's EVQ, or QID 2 when no channel is named (R286). -/
def State.eventQueue (s : State) (ch : Nat) : Nat :=
  if ch < 128 ∧ (s.channel ch).state ≠ .idle then (if (s.channel ch).evq = 0 then 2 else (s.channel ch).evq) else 2

/-- The channel and picture of a message (R484). -/
def msgChannel (m : FaultMsg) : Nat :=
  match kindInfo m.kind with
  | some i =>
    if i.form = .p ∨ i.form = .c then (if bitAt m.address 47 then bitsAt m.address 40 7 else 0xFF)
    else if m.kind = Kind.rowCheckBad then bitsAt m.detail 0 7 else 0xFF
  | none => 0xFF

/-- The picture of a message (R484): form P only. -/
def msgPicture (m : FaultMsg) : Nat :=
  match kindInfo m.kind with
  | some i => if i.form = .p then bitsAt m.address 8 32 else 0
  | none => 0

/-- The 32 bytes of an event entry (R286), without PHASE, AFTER_LOSS and ESEQ. -/
def eventEntry (m : FaultMsg) (cls : Nat) : Nat :=
  packFields [(8, m.kind), (2, cls), (22, 0), (10, m.source), (8, msgChannel m), (14, 0), (64, m.timeNs), (48, m.address),
    (16, 0), (32, m.detail), (32, msgPicture m)]

/-- Writes an event to its HEQ (R286, R288): when the queue is full the event is dropped, and ESEQ still advances. -/
def State.postEvent (s : State) (m : FaultMsg) (cls : Nat) : State :=
  let q := s.eventQueue (msgChannel m)
  if (s.queue q).valid = false then s
  else
    let s := (s.refreshRoom q).noteNoWrite
    let u := s.queue q
    if u.full || !s.host.busMaster then s.modQueue q fun u => { u with seq := (u.seq + 1) % 2 ^ 16, afterLoss := true }
    else
      let s := s.putEntry q (eventEntry m cls + 2 ^ 10 * u.phase u.tail + 2 ^ 11 * b2n u.afterLoss + 2 ^ 16 * u.seq)
      s.modQueue q fun u => { u with seq := (u.seq + 1) % 2 ^ 16, afterLoss := false }

/-! ## Clocks and the governor's queue (R25, R26, R516) -/

/-- Puts a step in the governor's queue, unless the same step waits there. -/
def State.askPower (s : State) (b : PwrBlock) (wake : Bool) (needed : Nat) : State :=
  if s.pwr.queue.any (fun r => decide (r.block = b) && (r.wake == wake)) then s
  else { s with pwr := { s.pwr with queue := s.pwr.queue ++ [{ block := b, wake := wake, needed := needed, asked := s.now }] } }

/-- Takes a waiting sleep step out of the governor's queue: its block has work again. -/
def State.keepAwake (s : State) (b : PwrBlock) : State :=
  { s with pwr := { s.pwr with queue := s.pwr.queue.filter fun r => !(decide (r.block = b) && !r.wake) } }

/-- A block is clocked. -/
def PowerSt.on (p : PowerSt) (b : PwrBlock) : Bool :=
  match b with
  | .core c => bitAt p.coreClk.toNat c
  | b => p.awake.contains b

/-- The fclk block of source ID `id` has its clock gated (R25, R26): work for it is held where it waits until the block has woken. -/
def State.asleep (s : State) (id : Nat) : Bool := !s.pwr.on (.fclkBlock id)

/-- Work comes to a block that keeps none waiting: it asks for its wake where its clock is gated, and a sleep that waits is withdrawn (R26). The work
is done in the same step, and the wake latency is not seen (DESIGN CHOICE, log 145). -/
def State.wakeBlock (s : State) (id : Nat) : State :=
  if s.asleep id then s.askPower (.fclkBlock id) true (s.now + 100) else s.keepAwake (.fclkBlock id)

/-- The part names: T4–T7, H2–H3 and SP4–SP7 are enabled when TAMB_EN says so (R1, R5). -/
def State.tambEnabled (s : State) (n : Nat) : Bool := bitAt (SMap.get (fun _ => 0) s.fuse.shadow 0) (24 + n)

/-- The level of reset source `i` (R505). -/
def State.sourceLevel (s : State) (i : Nat) : Nat :=
  let f := if i < 8 then s.field Reg.rstMap0 (4 * i) 4 else s.field Reg.rstMap1 (4 * (i - 8)) 4
  let v := if f ≤ 3 then f else 0
  let v := if v = 3 then 2 else v
  if i = 0 then 0
  else if i = 2 ∨ i = 3 ∨ i = 4 then (if v = 2 then 1 else v)
  else if i = 5 then min v s.rst.swLevel
  else v

end Sys2Proof.Machine
end

