-- ==== Sys2Proof/Machine/Entry.lean ====
section
/-!
DEFINITION. The submission entry of each host command (R284, R291, R296–R299, R300, R402): its opcode, and where each operand stands in the 64 bytes.
-/
namespace Sys2Proof.Machine

/-- A field of a submission entry: its first bit, its width and its value. -/
structure EntryField where
  at_   : Nat
  width : Nat
  value : Nat
deriving DecidableEq, Repr

/-- A field at bit `b` of byte offset `o`. -/
abbrev ef (o b w v : Nat) : EntryField := ⟨8 * o + b, w, v⟩

/-- The channel commands (R291): CHANNEL beside the rest. -/
def chanFields (c : BitVec 8) (l : List EntryField) : List EntryField := ef 0x04 0 8 c.toNat :: l

/-- PORT of TIME_CONTROL (R402). -/
def ptpPortFields (p : PtpPortArgs) : List EntryField :=
  [ef 0x0C 0 3 p.port.toNat, ef 0x0C 3 1 (b2n p.enable), ef 0x0C 4 1 (b2n p.twoStep), ef 0x0C 5 2 p.transport.toNat, ef 0x0C 7 1 (b2n p.hybrid),
   ef 0x0C 8 12 p.vid.toNat, ef 0x0C 20 1 (b2n p.vlan), ef 0x0C 21 3 p.pcp.toNat, ef 0x0C 24 6 p.dscp.toNat, ef 0x10 0 8 p.logAnnounce.toNat,
   ef 0x10 8 8 p.logSync.toNat, ef 0x10 16 8 p.logDelayReq.toNat, ef 0x10 24 8 p.announceTimeout.toNat, ef 0x20 0 128 p.addr.toNat]

/-- CLOCK of TIME_CONTROL (R402). -/
def clockFields (p : ClockArgs) : List EntryField :=
  [ef 0x0C 0 8 p.domain.toNat, ef 0x0C 8 2 p.role.toNat, ef 0x0C 10 1 (b2n p.slaveOnly), ef 0x0C 24 8 p.timeSource.toNat,
   ef 0x10 0 8 p.priority1.toNat, ef 0x10 8 8 p.priority2.toNat, ef 0x10 16 8 p.classLocked.toNat, ef 0x10 24 8 p.classHoldover.toNat,
   ef 0x14 0 8 p.classFree.toNat, ef 0x14 8 8 p.accuracy.toNat, ef 0x14 16 16 p.variance.toNat, ef 0x18 0 32 p.holdoverS.toNat]

/-- REFERENCE of TIME_CONTROL (R402). -/
def referenceFields (p : ReferenceArgs) : List EntryField :=
  [ef 0x0C 0 2 p.source.toNat, ef 0x0C 2 1 (b2n p.steer), ef 0x0C 3 1 (b2n p.stepAny), ef 0x10 0 16 p.lockNs.toNat, ef 0x10 16 16 p.unlockNs.toNat,
   ef 0x14 0 32 p.stepNs.toNat, ef 0x18 0 10 p.rateLimitPpm.toNat]

/-- TIMECODE of TIME_CONTROL (R402). -/
def timecodeFields (p : TimecodeArgs) : List EntryField :=
  [ef 0x0C 0 32 p.localOffset.toNat, ef 0x10 0 32 p.jumpSeconds.toNat, ef 0x14 0 48 p.nextJump.toNat, ef 0x1C 0 48 p.nextJam.toNat,
   ef 0x24 0 32 p.prevJamOffset.toNat, ef 0x28 0 1 (b2n p.dst), ef 0x28 1 1 (b2n p.leapJump), ef 0x28 2 1 (b2n p.utcValid), ef 0x28 16 16 p.utcOffset.toNat]

/-- QUEUE_CREATE (R296). -/
def queueCreateFields (q : QueueCreateArgs) : List EntryField :=
  [ef 0x04 0 18 q.qid.toNat, ef 0x08 0 4 q.ty.toNat, ef 0x08 4 5 q.log2.toNat, ef 0x08 9 1 (b2n q.noSnoop), ef 0x0C 0 18 q.cqid.toNat,
   ef 0x10 0 64 q.base.toNat, ef 0x18 0 6 q.vector.toNat, ef 0x18 6 1 (b2n q.vecEn), ef 0x18 7 10 q.coalesceUs.toNat]

/-- OPCODE (R289) and the fields of the entry of a host command, by the layouts of R291, R296–R300 and R402; the reserved bits are not among them
(R284). `none`: no host command. -/
def entryOf (c : Instr) : Option (Nat × List EntryField) :=
  match c with
  | .nop _ => some (0x00, [])
  | .channelCreate _ ch decode ccr evq => some (0x01, chanFields ch [ef 0x04 8 1 (b2n decode), ef 0x08 0 64 ccr.toNat, ef 0x10 0 18 evq.toNat])
  | .channelConfigure _ ch ccr => some (0x02, chanFields ch [ef 0x08 0 64 ccr.toNat])
  | .channelStart _ ch join sec ns => some (0x03, chanFields ch [ef 0x04 9 1 (b2n join), ef 0x08 0 48 sec.toNat, ef 0x10 0 32 ns.toNat])
  | .channelStop _ ch sec ns => some (0x04, chanFields ch [ef 0x08 0 48 sec.toNat, ef 0x10 0 32 ns.toNat])
  | .channelDestroy _ ch => some (0x05, chanFields ch [])
  | .forceIntra _ ch => some (0x06, chanFields ch [])
  | .picturePlan _ ch addr => some (0x07, chanFields ch [ef 0x08 0 64 addr.toNat])
  | .queueCreate _ q => some (0x10, queueCreateFields q)
  | .queueDestroy _ qid => some (0x11, [ef 0x04 0 18 qid.toNat])
  | .flowBind _ ch flow egress solo port addr len =>
    some (0x12, chanFields ch [ef 0x08 0 11 flow.toNat, ef 0x08 11 1 (b2n egress), ef 0x08 12 1 0, ef 0x08 13 1 (b2n solo), ef 0x08 16 3 port.toNat,
      ef 0x10 0 64 addr.toNat, ef 0x18 0 24 len.toNat])
  | .unbind _ flow egress => some (0x12, [ef 0x08 0 11 flow.toNat, ef 0x08 11 1 (b2n egress), ef 0x08 12 1 1])
  | .gateListLoad _ port count addr sec ns cycle =>
    some (0x13, [ef 0x08 0 3 port.toNat, ef 0x08 16 10 count.toNat, ef 0x10 0 64 addr.toNat, ef 0x18 0 48 sec.toNat, ef 0x20 0 32 ns.toNat,
      ef 0x24 0 32 cycle.toNat])
  | .shaperSet _ flow k rate burst => some (0x14, [ef 0x08 0 11 flow.toNat, ef 0x08 16 4 k.toNat, ef 0x10 0 40 rate.toNat, ef 0x18 0 24 burst.toNat])
  | .statsSubscribe _ qid kind source classes interval coalesce =>
    some (0x18, [ef 0x08 0 18 qid.toNat, ef 0x08 18 1 0, ef 0x08 19 2 kind.toNat, ef 0x0C 0 11 source.toNat, ef 0x0C 11 3 classes.toNat,
      ef 0x10 0 14 interval.toNat, ef 0x10 16 10 coalesce.toNat])
  | .statsUnsubscribe _ qid kind source => some (0x18, [ef 0x08 0 18 qid.toNat, ef 0x08 18 1 1, ef 0x08 19 2 kind.toNat, ef 0x0C 0 11 source.toNat])
  | .prickingLoad _ mask addr len => some (0x20, [ef 0x08 0 8 mask.toNat, ef 0x10 0 64 addr.toNat, ef 0x18 0 24 len.toNat])
  | .firmwareLoad _ customer addr len => some (0x21, [ef 0x08 0 1 (b2n customer), ef 0x10 0 64 addr.toNat, ef 0x18 0 24 len.toNat])
  | .twinStart _ => some (0x28, [ef 0x08 0 3 0])
  | .twinStop _ => some (0x28, [ef 0x08 0 3 1])
  | .yield _ => some (0x28, [ef 0x08 0 3 2])
  | .rejoin _ => some (0x28, [ef 0x08 0 3 3])
  | .resetPeer _ => some (0x28, [ef 0x08 0 3 4])
  | .timeControlClock _ p => some (0x29, ef 0x08 0 8 0 :: clockFields p)
  | .timeControlPort _ p => some (0x29, ef 0x08 0 8 1 :: ptpPortFields p)
  | .timeControlReference _ p => some (0x29, ef 0x08 0 8 2 :: referenceFields p)
  | .setTime _ relative force sec ns =>
    some (0x29, [ef 0x08 0 8 3, ef 0x0C 0 1 (b2n relative), ef 0x0C 1 1 (b2n force),
      (if relative then ef 0x10 0 64 sec.toNat else ef 0x10 0 48 (sec.toNat % 2 ^ 48))] ++ (if relative then [] else [ef 0x18 0 32 ns.toNat]))
  | .timecode _ p => some (0x29, ef 0x08 0 8 4 :: timecodeFields p)
  | .query _ selector object addr len =>
    some (0x30, [ef 0x08 0 4 selector.toNat, ef 0x0C 0 18 object.toNat, ef 0x10 0 64 addr.toNat, ef 0x18 0 24 len.toNat])
  | .reset _ level => some (0x3F, [ef 0x08 0 2 level.toNat])
  | _ => none

/-- The 512 bits of an entry spell command `c` with CID `cid` (R284). -/
def entrySpells (c : Instr) (cid bits : Nat) : Bool :=
  match entryOf c with
  | none => false
  | some (op, fs) => decide (bits % 256 = op) && decide (bitsAt bits 16 16 = cid) && fs.all fun f => decide (bitsAt bits f.at_ f.width = f.value)

/-- The entry of command `c` with CID `cid`, its reserved bits 0 (R13, R284). -/
def entryBits (c : Instr) (cid : Nat) : Nat :=
  match entryOf c with
  | none => 0
  | some (op, fs) => op + 2 ^ 16 * cid + (fs.map fun f => f.value * 2 ^ f.at_).sum

/-- The first fetched entry of queue `sq` that has not started. -/
def State.firstFetched (s : State) (sq : Nat) : Option Fetched := s.host.fetched.find? (fun f => f.sq = sq)

/-- The next entry of the command's queue has been fetched and is this command (R275, R284). -/
def State.entryIs (s : State) (c : Instr) (h : CmdHdr) : Bool :=
  match s.firstFetched h.sq with
  | some f => entrySpells c h.cid.toNat f.bits
  | none => false

end Sys2Proof.Machine
end

