-- ==== Sys2Proof/Machine/Wells.lean ====
section
/-!
DEFINITION. The buffer wells (R311–R329): quotas and the arbiter, the cell well's linked list, the page well's cache and ring,
frees and their checks, rebuilds, and the quota registers.
-/
namespace Sys2Proof.Machine

/-- Well `w`. -/
def State.well (s : State) (w : WellSel) : WellSt := match w with | .cell => s.cellWell | .page => s.pageWell

/-- Changes well `w`. -/
def State.modWell (s : State) (w : WellSel) (f : WellSt → WellSt) : State :=
  match w with | .cell => { s with cellWell := f s.cellWell } | .page => { s with pageWell := f s.pageWell }

/-- Pages of the page well (R315, R324): PAGE_UNITS of 1,024; 0 acts as 1, values above 128 as 128. -/
def pageUnits (u : Nat) : Nat := if u = 0 then 1 else if 128 < u then 128 else u

/-- The number of buffers of a well (R312, R315). -/
def State.wellSize (s : State) (w : WellSel) : Nat :=
  match w with | .cell => cellCount | .page => 1024 * pageUnits (s.field Reg.welCfg 8 8)

/-- Reserve of owner `o` (R311, R328). -/
def State.reserve (s : State) (w : WellSel) (o : Nat) : Nat :=
  match w with | .cell => s.field (Reg.welCquota + 4 * o) 0 14 | .page => s.field (Reg.welPres + 4 * o) 0 18

/-- Limit of owner `o` (R311, R328). -/
def State.limit (s : State) (w : WellSel) (o : Nat) : Nat :=
  match w with | .cell => s.field (Reg.welCquota + 4 * o) 16 14 | .page => s.field (Reg.welPlim + 4 * o) 0 18

/-- The owner of buffer `i`, none when it is free: the side table. -/
def WellSt.owner (w : WellSt) (i : Nat) : Option Nat := SMap.get (fun _ => none) w.owners i

/-- Buffers whose owner tag is `o` (R317 used). -/
def WellSt.used (w : WellSt) (o : Nat) : Nat := (w.owners.filter (fun e => e.2 = some o)).length

/-- Free buffers (R326). -/
def State.wellFree (s : State) (w : WellSel) : Nat := s.wellSize w - (s.well w).owners.length

/-- Buffers that reserves still call for (R317 unmet). -/
def State.unmet (s : State) (w : WellSel) : Nat :=
  ((List.range 64).map fun k => s.reserve w k - (s.well w).used k).sum

/-- What the allocation rule answers (R317). -/
inductive Grant where
  | grant | quotaExceeded | wellEmpty
deriving DecidableEq, Repr

/-- The allocation rule (R317). Owners 22–31 are refused always (R311): their limits are 0. -/
def State.allocRule (s : State) (w : WellSel) (o : Nat) : Grant :=
  if s.limit w o ≤ (s.well w).used o then .quotaExceeded
  else if (s.well w).used o < s.reserve w o ∨ s.unmet w < s.wellFree w then .grant
  else .wellEmpty

/-- The owner the arbiter takes (R318): the first that waits, in ID order from the one after the last taken. -/
def nextOwner (waiting : List Nat) (last : Nat) : Option Nat :=
  ((List.range 64).map (fun k => (last + 1 + k) % 64)).find? (fun o => waiting.contains o)

/-- The free list's head is unusable (R314): its link word fails CHECK, NEXT is no cell, or the side table shows it allocated. -/
def State.linkBad (s : State) (i : Nat) : Bool :=
  let v := s.sramRead (0x800 * i) 8
  let next := v % 2 ^ 16
  decide (bitsAt v 16 16 ≠ crc16 (packFields [(16, i), (16, next), (32, v / 2 ^ 32)]) 8) ||
    !(decide (next = 0xFFFF) || decide (next < cellCount)) || (s.cellWell.owner i).isSome

/-- A cell goes on the free list as its head, with its link word (R314). -/
def State.pushCell (s : State) (i : Nat) : State :=
  let s := s.sramWrite (0x800 * i) 8 (linkWord i s.cellWell.head)
  { s with cellWell := { s.cellWell with head := i } }

/-- The owner is granted buffer `i` (R317): state bit and owner tag. -/
def State.giveBuffer (s : State) (w : WellSel) (i o : Nat) : State :=
  s.modWell w fun x => { x with owners := SMap.set (fun _ => none) x.owners i (some o), granted := x.granted ++ [(o, i)] }

/-- A refusal is counted (R327). -/
def State.refuseAlloc (s : State) (g : Grant) : State :=
  match g with
  | .quotaExceeded => s.count Reg.welQuotaCnt 32 1
  | _ => s.count Reg.welEmptyCnt 32 1

/-- A rebuild of the cell well begins (R322): the scan of the side table starts at cell 0. -/
def State.startScan (s : State) : State :=
  { s with cellWell := { s.cellWell with rebuild := true, scanFrom := 40 * s.time.tick, late := [] } }

/-- Takes a cell from the free list for owner `o` (R314): a failed check starts a rebuild and the request is refused. -/
def State.takeCell (s : State) (o : Nat) : State :=
  let i := s.cellWell.head
  if i = 0xFFFF then s.refuseAlloc .wellEmpty
  else if s.linkBad i then
    (s.startScan.raise Src.cellWell Kind.wellLinkBad (0x800 * i) o).refuseAlloc .wellEmpty
  else
    let next := s.sramRead (0x800 * i) 2
    { s with cellWell := { s.cellWell with head := next } }.giveBuffer .cell i o

/-- Address of entry `j` of the page ring (R316). -/
def ringAddr (j : Nat) : Nat := pageRingBase + 4 * (j % 131072)

/-- Appends a page to the free ring (R316). -/
def State.ringPush (s : State) (i : Nat) : State :=
  let s := s.hbmWrite (ringAddr (s.pageWell.ringHead + s.pageWell.ringCount)) 4 i
  { s with pageWell := { s.pageWell with ringCount := s.pageWell.ringCount + 1 } }

/-- Moves one entry from the ring to the cache, checked on arrival (R316); a failed one is discarded and starts a rebuild. -/
def State.refillOne (s : State) : State :=
  let a := ringAddr s.pageWell.ringHead
  let v := s.hbmRead a 4
  let s := { s with pageWell := { s.pageWell with ringHead := (s.pageWell.ringHead + 1) % 131072, ringCount := s.pageWell.ringCount - 1 } }
  if s.wellSize .page ≤ v ∨ (s.pageWell.owner v).isSome then
    { s with pageWell := { s.pageWell with rebuild := true } }.raise Src.pageWell Kind.wellRingBad a 0
  else { s with pageWell := { s.pageWell with cache := s.pageWell.cache ++ [v] } }

/-- `n` entries of a refill; it stops at a rebuild. -/
def State.refill (n : Nat) (s : State) : State :=
  match n with
  | 0 => s
  | k + 1 => if s.pageWell.ringCount = 0 ∨ s.pageWell.rebuild = true then s else State.refill k s.refillOne

/-- Takes a page from the cache for owner `o` (R316): the page freed most recently. An empty cache is filled first, as it is whenever
it holds fewer than 256 entries; only a rebuild keeps it from that (R317, R322). -/
def State.takePage (s : State) (o : Nat) : State :=
  let t := if s.pageWell.cache = [] then s.refill 256 else s
  match t.pageWell.cache with
  | i :: rest => { t with pageWell := { t.pageWell with cache := rest } }.giveBuffer .page i o
  | [] => t.refuseAlloc .wellEmpty

/-- The request of owner `o` is taken (R317, R322): granted from the free store, or refused; during a rebuild of the cell
well every request is refused. -/
def State.serveAlloc (s : State) (w : WellSel) (o : Nat) : State :=
  if w = .cell ∧ s.cellWell.rebuild = true then s.refuseAlloc .wellEmpty
  else match s.allocRule w o with
    | .grant => (match w with | .cell => s.takeCell o | .page => s.takePage o)
    | g => s.refuseAlloc g

/-- The kind that a free's first failed check raises, none when it passes (R321). -/
def State.freeCheck (s : State) (w : WellSel) (addr owner : Nat) : Option Nat :=
  let base := match w with | .cell => 0 | .page => 0x200000000
  let unit := match w with | .cell => 0x800 | .page => 0x10000
  if addr < base ∨ base + unit * s.wellSize w ≤ addr ∨ (addr - base) % unit ≠ 0 then some Kind.wellBadFree
  else match (s.well w).owner ((addr - base) / unit) with
    | none => some Kind.wellDoubleFree
    | some o => if o = owner then none else some Kind.wellForeignFree

/-- The index of a buffer by its address (R321). -/
def bufferIndex (w : WellSel) (addr : Nat) : Nat := match w with | .cell => addr / 0x800 | .page => (addr - 0x200000000) / 0x10000

/-- A freed page goes on the cache (R316); with 1,024 entries there it waits for a spill. -/
def State.pushPage (s : State) (i : Nat) : State :=
  if 1024 ≤ s.pageWell.cache.length then { s with pageWell := { s.pageWell with freeWait := s.pageWell.freeWait ++ [i] } }
  else { s with pageWell := { s.pageWell with cache := i :: s.pageWell.cache } }

/-- A free (R321): rejected and counted at its first failed check; otherwise the state bit is cleared and the buffer goes to
the free store. During a cell rebuild the side table takes it, and a cell that the scan, one cell per fclk, has passed is kept for the
rebuild's end (R322). -/
def State.freeBuffer (s : State) (w : WellSel) (addr owner : Nat) : State :=
  match s.freeCheck w addr owner with
  | some k => (s.count Reg.welFreeRej 32 1).raise (match w with | .cell => Src.cellWell | .page => Src.pageWell) k addr owner
  | none =>
    let i := bufferIndex w addr
    let s := s.modWell w fun x => { x with owners := SMap.set (fun _ => none) x.owners i none }
    match w with
    | .cell =>
      if s.cellWell.rebuild = false then s.pushCell i
      else if i < 40 * s.time.tick - s.cellWell.scanFrom then { s with cellWell := { s.cellWell with late := s.cellWell.late ++ [i] } }
      else s
    | .page => s.pushPage i

/-- An allocation and a free of one fclk (R314, R329): the freed cell goes straight to the owner that the arbiter takes; a
freed page is pushed before the allocation pops. -/
def State.allocWithFree (s : State) (w : WellSel) (o addr owner : Nat) : State :=
  match w with
  | .page => (s.freeBuffer .page addr owner).serveAlloc .page o
  | .cell =>
    match s.freeCheck .cell addr owner with
    | some _ => (s.freeBuffer .cell addr owner).serveAlloc .cell o
    | none =>
      if s.cellWell.rebuild then (s.freeBuffer .cell addr owner).serveAlloc .cell o
      else
        let i := addr / 0x800
        let t := s.modWell .cell fun x => { x with owners := SMap.set (fun _ => none) x.owners i none }
        match t.allocRule .cell o with
        | .grant => t.giveBuffer .cell i o
        | g => (t.pushCell i).refuseAlloc g

/-- The status of a refused request of owner `o` (R317): every request is WELL_EMPTY during a rebuild of the cell well (R322). -/
def State.refusalStatus (t : State) (w : WellSel) (o : Nat) : Nat :=
  if (w = .page ∨ t.cellWell.rebuild = false) ∧ t.allocRule w o = .quotaExceeded then St.quotaExceeded else St.wellEmpty

/-- Firmware receives the status of a request of its own that was taken and refused (R318, R319): its network traffic, and the owners that it assigns. -/
def State.tellFirmware (t : State) (w : WellSel) (o granted : Nat) : State :=
  if (o = 19 ∨ 32 ≤ o) ∧ (t.well w).granted.length = granted then
    t.modWell w fun x => { x with answers := x.answers ++ [(o, t.refusalStatus w o)] }
  else t

/-- The waiting request of owner `o` leaves the queue: the arbiter has taken it (R318). -/
def State.takeRequest (s : State) (w : WellSel) (o : Nat) : State := s.modWell w fun x => { x with waiting := x.waiting.erase o, lastTaken := o }

/-- WELL_ALLOCATE (R317, R318): the requests join those that wait; the arbiter takes one. -/
def execWellAllocate (w : WellSel) (reqs : List Nat) (free : Option (Nat × Nat)) (s : State) : Host.Outcome State Fault Refusal :=
  if reqs.all (fun o => decide (o < 64)) then
    let t := s.modWell w fun x => { x with waiting := x.waiting ++ reqs }
    match nextOwner (t.well w).waiting (t.well w).lastTaken with
    | some o =>
      let t := t.takeRequest w o
      .next ((match free with
        | some f => t.allocWithFree w o f.1 f.2
        | none => t.serveAlloc w o).tellFirmware w o (t.well w).granted.length)
    | none =>
      match free with
      | some f => .next (t.freeBuffer w f.1 f.2)
      | none => .next t
  else .fault .noSuchUnit

/-- WELL_FREE (R321). -/
def execWellFree (w : WellSel) (addr : Nat) (owner : Nat) (s : State) : Host.Outcome State Fault Refusal :=
  if owner < 64 then .next (s.freeBuffer w addr owner) else .fault .noSuchUnit

/-- CELL_REBUILD_END (R322): every cell that the side table shows free is linked, in index order from the head on, but for those freed
after the scan had passed them, which are pushed at the head; allocation resumes. -/
def execCellRebuildEnd (s : State) : Host.Outcome State Fault Refusal :=
  if s.cellWell.rebuild then
    let t := { s with cellWell := { s.cellWell with head := 0xFFFF, rebuild := false, late := [] } }
    let t := (List.range cellCount).foldr (fun i t => if (t.cellWell.owner i).isSome || s.cellWell.late.contains i then t else t.pushCell i) t
    .next (s.cellWell.late.foldl State.pushCell t)
  else .next s

/-- PAGE_CACHE_REFILL (R316): below 256 entries, 256 entries, or all the ring holds, move to the cache. A rebuild makes the
refill wait (R322). -/
def execPageCacheRefill (s : State) : Host.Outcome State Fault Refusal :=
  if s.pageWell.cache.length < 256 ∧ s.pageWell.rebuild = false then .next (s.refill 256) else .next s

/-- Frees that waited for room go on the cache (R316). -/
def State.drainFreeWait (n : Nat) (s : State) : State :=
  match n, s.pageWell.freeWait with
  | k + 1, i :: rest =>
    if 1024 ≤ s.pageWell.cache.length then s
    else State.drainFreeWait k { s with pageWell := { s.pageWell with cache := i :: s.pageWell.cache, freeWait := rest } }
  | _, _ => s

/-- PAGE_CACHE_SPILL (R316): above 768 entries, 256 entries, the longest held, move to the ring; waiting frees take the room. -/
def execPageCacheSpill (s : State) : Host.Outcome State Fault Refusal :=
  if 768 < s.pageWell.cache.length ∧ s.pageWell.rebuild = false then
    let keep := s.pageWell.cache.length - 256
    let out := s.pageWell.cache.drop keep
    let t := { s with pageWell := { s.pageWell with cache := s.pageWell.cache.take keep } }
    .next ((out.foldl State.ringPush t).drainFreeWait s.pageWell.freeWait.length)
  else .next s

/-- PAGE_REBUILD_END (R322): the ring is rewritten in index order with every free page that is not in the cache (nor waiting
for it). -/
def execPageRebuildEnd (s : State) : Host.Outcome State Fault Refusal :=
  if s.pageWell.rebuild then
    let t := { s with pageWell := { s.pageWell with ringHead := 0, ringCount := 0, rebuild := false } }
    .next ((List.range (s.wellSize .page)).foldl (fun t i =>
      if (s.pageWell.owner i).isSome || s.pageWell.cache.contains i || s.pageWell.freeWait.contains i then t else t.ringPush i) t)
  else .next s

/-- The sum of reserves with owner `o`'s replaced (R320). -/
def State.reserveSum (s : State) (w : WellSel) (o new : Nat) : Nat :=
  ((List.range 64).map fun k => if k = o then new else s.reserve w k).sum

/-- A quota write keeps the rules of R320 for a well: reserve ≤ limit ≤ size, the sum of reserves within the well, and a raise
of the reserve within shared_free. -/
def State.quotaOk (s : State) (w : WellSel) (o reserve limit : Nat) : Bool :=
  decide (reserve ≤ limit) && decide (limit ≤ s.wellSize w) && decide (s.reserveSum w o reserve ≤ s.wellSize w) &&
    decide (reserve - s.reserve w o ≤ s.wellFree w - s.unmet w) && !decide (22 ≤ o ∧ o ≤ 31)

/-- WEL_QUOTA_WRITE (R320, R328): a write that breaks a rule has no effect and sets QUOTA_REJ. -/
def execWelQuotaWrite (reg : QuotaReg) (owner : Nat) (v : Word) (s : State) : Host.Outcome State Fault Refusal :=
  if owner < 64 then
    match reg with
    | .cellQuota =>
      if s.quotaOk .cell owner (bitsAt v.toNat 0 14) (bitsAt v.toNat 16 14) then
        .next (s.setRegN (Reg.welCquota + 4 * owner) (packFields [(14, v.toNat), (2, 0), (14, bitsAt v.toNat 16 14)]))
      else .next (s.setBits Reg.welStatus 4)
    | .pageReserve =>
      if s.quotaOk .page owner (bitsAt v.toNat 0 18) (s.limit .page owner) then .next (s.setRegN (Reg.welPres + 4 * owner) (bitsAt v.toNat 0 18))
      else .next (s.setBits Reg.welStatus 4)
    | .pageLimit =>
      if s.quotaOk .page owner (s.reserve .page owner) (bitsAt v.toNat 0 18) then .next (s.setRegN (Reg.welPlim + 4 * owner) (bitsAt v.toNat 0 18))
      else .next (s.setBits Reg.welStatus 4)
  else .fault .noSuchUnit

/-- The empty page well at a page count (R315, R316): the first 512 pages in the cache, the others on the ring in order. -/
def pageWellEmpty (w : WellSt) (n : Nat) : WellSt :=
  { w with cache := List.range (min 512 n), ringHead := 512, ringCount := n - 512, freeWait := [] }

/-- PAGE_UNITS_WRITE (R324): applied only with no page allocated and at least the sum of page reserves; otherwise QUOTA_REJ.
The free store then names the pages of the new count. -/
def execPageUnitsWrite (units : BitVec 8) (s : State) : Host.Outcome State Fault Refusal :=
  if s.pageWell.owners = [] ∧ s.reserveSum .page 64 0 ≤ 1024 * pageUnits units.toNat then
    let t := s.setRegN Reg.welCfg (s.field Reg.welCfg 0 8 + 256 * units.toNat)
    let t := { t with hbmMem := t.hbmMem.filter (fun e => decide (e.1 < pageRingBase) || decide (pageRingBase + 0x80000 ≤ e.1)) }
    .next { t with pageWell := pageWellEmpty t.pageWell (1024 * pageUnits units.toNat) }
  else .next (s.setBits Reg.welStatus 4)

end Sys2Proof.Machine
end

