-- ==== Sys2Proof/Machine/HostCmd.lean ====
section
/-!
DEFINITION. How a host command is taken and completed (R284–R290, R301, R477), and the windlass (R271–R281, R302).
-/
namespace Sys2Proof.Machine

/-- What a completion reports (R285): STATUS, DETAIL and the 20 bytes of RESULT from offset 0x0C. -/
structure Reply where
  status : Nat
  detail : Nat := 0xFFFF
  result : Nat := 0
deriving DecidableEq, Repr

/-- A refusal that names the entry's field at a byte offset (R285 DETAIL). -/
def Reply.field (status ofs : Nat) : Reply := { status := status, detail := ofs }

/-- A refusal that names a field of the record that the entry names (R285 DETAIL bit 12). -/
def Reply.recField (status ofs : Nat) : Reply := { status := status, detail := 4096 + ofs }

/-- The completion queue of a submission queue (R304, R307): QID 1 for QID 0. -/
def State.cqOf (s : State) (sq : Nat) : Nat := if sq = 0 then 1 else (s.queue sq).cqid

/-- The 32 bytes of a completion without PHASE (R285). -/
def completionBits (sq cid idx : Nat) (r : Reply) : Nat :=
  packFields [(16, cid), (8, r.status), (8, 0), (18, sq), (14, 0), (16, idx), (16, r.detail), (160, r.result)]

/-- Writes a completion to its HCQ, or holds it when the HCQ is full, an earlier one is held, or no write can be made (R269, R288). -/
def State.postCompletion (s : State) (sq cid idx : Nat) (r : Reply) : State :=
  let cq := s.cqOf sq
  if (s.queue cq).valid = false then s
  else
    let v := completionBits sq cid idx r
    let s := (s.refreshRoom cq).noteNoWrite
    if (s.queue cq).full || s.host.held.any (fun x => x.cq = cq) || !s.host.busMaster then
      { s with host := { s.host with held := s.host.held ++ [{ sq := sq, cq := cq, bits := v }] } }
    else s.putEntry cq (v + 2 ^ 24 * (s.queue cq).phase (s.queue cq).tail)

/-- A listed opcode (R289). -/
def opcodeListed (o : Nat) : Bool :=
  decide (o ≤ 7) || decide (0x10 ≤ o ∧ o ≤ 0x14) || [0x18, 0x20, 0x21, 0x28, 0x29, 0x30, 0x3F].contains o

/-- An opcode accepted only on QID 0 (R289). -/
def opcodeAdmin (o : Nat) : Bool := [0x10, 0x11, 0x13, 0x20, 0x21, 0x28, 0x29, 0x3F].contains o

/-- Takes the first fetched entry of queue `sq` off the list. -/
def State.dropFetched (s : State) (sq : Nat) : State :=
  { s with host := { s.host with fetched := s.host.fetched.eraseP (fun f => f.sq = sq) } }

/-- SQ_HEAD of a completion of queue `sq` (R285): the index of the next entry that the device will fetch. -/
def State.indexAfter (s : State) (sq : Nat) : Nat := (s.queue sq).head % 2 ^ 16

/-- When the entry of the next command of queue `sq` was fetched (R289, R295). -/
def State.fetchTime (s : State) (sq : Nat) : Nat := match s.firstFetched sq with | some f => f.at_ | none => s.now

/-- An HCQ has no room for a completion now (R283, R288). -/
def State.noRoom (s : State) (cq : Nat) : Bool := ((s.refreshRoom cq).queue cq).full || s.host.held.any fun x => decide (x.cq = cq)

/-- The slot of the entry of the next command of queue `sq`. -/
def State.entrySlot (s : State) (sq : Nat) : Nat :=
  (s.queue sq).slot (match s.firstFetched sq with | some f => f.idx | none => 2 ^ 32 - 1 + (s.queue sq).head)

/-- A completion of the queue is held, so that its next command does not start (R288, R290). -/
def State.heldFor (s : State) (sq : Nat) : Bool := s.host.held.any (fun x => x.sq = sq)

/-- The reply to an entry that is no command of the table: an unlisted opcode, an admin opcode on another queue (R289); an OP of TWIN_CONTROL or
TIME_CONTROL that is refused (R198, R402). In diagnostic hold every opcode but QUERY and RESET has BAD_STATE (R290). -/
def State.refusedEntry (s : State) (sq v : Nat) : Option Reply :=
  let o := v % 256
  if s.rst.state = .diagHold ∧ opcodeListed o = false then some { status := St.badState }
  else if opcodeListed o = false ∨ (opcodeAdmin o = true ∧ sq ≠ 0) then some (Reply.field St.badOpcode 0)
  else if (o = 0x28 ∧ 5 ≤ bitsAt v 64 3) ∨ (o = 0x29 ∧ 5 ≤ bitsAt v 64 8) then
    some (if s.rst.state = .diagHold then { status := St.badState } else Reply.field St.badFormat 8)
  else none

/-- Entries of queue `sq` at the front that are no command of the table complete (R198, R289, R402). -/
def State.flushBadOpcodes (n : Nat) (s : State) (sq : Nat) : State :=
  match n with
  | 0 => s
  | k + 1 =>
    match s.firstFetched sq with
    | some f =>
      if s.heldFor sq then s
      else match s.refusedEntry sq f.bits with
        | some r => State.flushBadOpcodes k ((s.dropFetched sq).postCompletion sq (bitsAt f.bits 16 16) (s.indexAfter sq) r) sq
        | none => s
    | none => s

/-- The channel that a submission entry names, by its opcode (R291, R296, R298, R299); an UNBIND names its flow alone. -/
def entryChannel (v : Nat) : Option Nat :=
  let o := v % 256
  if 1 ≤ o ∧ o ≤ 7 then some (bitsAt v 32 8)
  else if o = 0x12 ∧ bitAt v 76 = false then some (bitsAt v 32 8)
  else if o = 0x18 ∧ bitsAt v 83 2 = 0 then some (bitsAt v 96 11)
  else if o = 0x30 ∧ (bitsAt v 64 4 = 1 ∨ bitsAt v 64 4 = 3) then some (bitsAt v 96 18)
  else none

/-- A command of another queue that names channel `c` was fetched before the next command of queue `sq`, and has not started:
commands that name one channel run in the order of their fetch (R290). -/
def State.fetchedBefore (s : State) (sq c : Nat) : Bool :=
  decide (c < 128) && (s.host.fetched.takeWhile fun f => decide (f.sq ≠ sq)).any fun f => decide (entryChannel f.bits = some c)

/-- A command of queue `sq` may start (R271, R288, R290): the rings run, the queue is a submission queue, no completion of it
is held. -/
def State.cmdReady (s : State) (sq : Nat) : Bool :=
  s.host.enabled && (s.queue sq).valid && decide ((s.queue sq).ty = .hsq) && !s.heldFor sq

/-- Command `c` is the next one of its queue, and may start. -/
def State.canTake (s : State) (c : Instr) (h : CmdHdr) : Bool := s.cmdReady h.sq && s.entryIs c h

/-- Runs host command `c` (R284, R289, R290, R477), once the next entry of its queue spells it: it takes its entry; in diagnostic hold only QUERY and RESET run; an admin opcode on
another queue is refused; a copy that fails its check is fetched again, and a second failure completes with DMA_ERROR. The body
gives the effect, and the reply unless the command is deferred. `waits`: it waits for an outstanding deferred command, and
nothing happens yet. -/
def hostCmd (c : Instr) (h : CmdHdr) (admin inHold waits : Bool) (body : Nat → State → State × Option Reply) (s : State) : State :=
  if s.canTake c h = false ∨ waits = true then s
  else
    let idx := s.indexAfter h.sq
    let slot := s.entrySlot h.sq
    let s := s.dropFetched h.sq
    let s := if 1 ≤ h.badCopies then s.raise Src.cmdCheck Kind.cmdCheckBad slot h.sq else s
    let s := if 2 ≤ h.badCopies then s.raise Src.cmdCheck Kind.cmdCheckBad slot h.sq else s
    let out : State × Option Reply :=
      if s.rst.state = .diagHold ∧ inHold = false then (s, some { status := St.badState })
      else if admin = true ∧ h.sq ≠ 0 then (s, some (Reply.field St.badOpcode 0))
      else if 2 ≤ h.badCopies then (s, some { status := St.dmaError })
      else body idx s
    let t := match out.2 with
      | some r => out.1.postCompletion h.sq h.cid.toNat idx r
      | none => out.1
    t.flushBadOpcodes s.host.fetched.length h.sq

/-- A host command whose body always replies and that waits for nothing. -/
def plainCmd (c : Instr) (h : CmdHdr) (admin : Bool) (body : State → State × Reply) (s : State) : State :=
  hostCmd c h admin false false (fun _ t => ((body t).1, some (body t).2)) s

/-- Ends an outstanding deferred command with a reply (R290). -/
def State.endDeferred (s : State) (d : Deferred) (r : Reply) : State :=
  { s with host := { s.host with deferred := s.host.deferred.erase d } }.postCompletion d.sq d.cid (s.indexAfter d.sq) r

/-- The outstanding deferred command with operation `op`. -/
def State.findDeferred (s : State) (p : DeferredOp → Bool) : Option Deferred := s.host.deferred.find? (fun d => p d.op)

/-- Adds an outstanding deferred command, at most 16 (R290). -/
def State.addDeferred (s : State) (d : Deferred) : State := { s with host := { s.host with deferred := s.host.deferred ++ [d] } }

/-! ## Configuration space (R262) -/

/-- The items of configuration space that the host sets beside those that the rings depend on, with their bits (R262): maximum payload and read request
sizes as log2 of their multiple of 128 B, Relaxed Ordering enable, and the power state. -/
def pciMask (a : Nat) : Nat := match a with | 0x200010 => 3 | 0x200014 => 7 | 0x200018 => 1 | 0x20001C => 3 | _ => 0

/-- An item of configuration space as it stands. -/
def State.pciItem (s : State) (a : Nat) : Nat := SMap.get (fun _ => 0) s.host.config a

/-! ## The windlass -/

/-- The time of the windlass's poll ticks, in ns: the AO tick counts on through every step of the time base. -/
def State.pollTime (s : State) : Nat := 40 * s.time.tick

/-- The poll interval in force (R279): below 250 acts as 250, above 64,000 as 64,000. -/
def State.pollEvery (s : State) : Nat := max 250 (min 64000 (s.field Reg.wswPoll 0 16))

/-- The poll tick that is due: the latest that has come, or the next one. -/
def State.dueTick (s : State) : Nat := s.host.nextPoll + (s.pollTime - s.host.nextPoll) / s.pollEvery * s.pollEvery

/-- A poll tick has come at which no pass has started yet (R277). -/
def State.pollDue (s : State) : Bool := decide (s.host.nextPoll ≤ s.pollTime)

/-- The due poll tick is taken: the next one comes an interval later. -/
def State.takeTick (s : State) : State := { s with host := { s.host with nextPoll := s.dueTick + s.pollEvery } }

/-- Fetches entries of HSQ `q` from its HEAD to its TAIL (R275, R308), unless its HCQ has no room (R288). -/
def State.fetch (n : Nat) (s : State) (q : Nat) : State :=
  match n with
  | 0 => s
  | k + 1 =>
    let u := s.queue q
    if u.isEmpty then s
    else match s.hostRead (u.slot u.head) 64 with
      | none => s.haltWindlass 5
      | some v =>
        let s := { s with host := { s.host with fetched := s.host.fetched ++ [(⟨q, u.head, v, s.now⟩ : Fetched)] } }
        State.fetch k (s.popEntry q) q

/-- Fetching from an HSQ pauses while its HCQ is full (R288). -/
def State.fetchAll (s : State) (q : Nat) : State :=
  let s := s.refreshRoom (s.cqOf q)
  if (s.queue (s.cqOf q)).full then s
  else
    let s := State.fetch (s.queue q).fill s q
    s.flushBadOpcodes s.host.fetched.length q

/-- Acts on the doorbell record of queue `q` (R273, R302, R308). -/
def State.actOnRecord (s : State) (q : Nat) : State :=
  if s.rst.state = .diagHold ∧ 1 < q then s
  else match s.hostRead (s.dbRecord q) 4 with
    | none => s.haltWindlass 5
    | some i =>
      let u := s.queue q
      if u.valid = false ∨ 5 ≤ u.ty.code then s.dbInvalid q
      else match u.ty with
        | .hsq =>
          if i = u.tail then s
          else if 2 ^ u.log2 < idxSub i u.head then s.dbInvalid q
          else (s.modQueue q fun u => { u with tail := i }).fetchAll q
        | .hbr => if 2 ^ u.log2 < idxSub i u.head then s.dbInvalid q else s.modQueue q fun u => { u with tail := i }
        | _ => match s.takeConsumer q i with
          | some t => t
          | none => s.dbInvalid q

/-- Set bits of a 64-bit summary word. -/
def setBitsOf (v : Nat) : List Nat := (List.range 64).filter (bitAt v)

/-- Swaps a summary word with 0 (R275): its old value, none where the AtomicOp completes with an error. -/
def State.swapZero (s : State) (a : Nat) : Option Nat × State :=
  match s.hostRead a 8 with
  | some v => (some v, s.hostWrite a 8 0)
  | none => (none, s)

/-- Runs `f` unless the windlass has halted. -/
def State.unlessHalted (s : State) (f : State → State) : State := if s.host.wsw = .halted then s else f s

/-- A pass in swap mode below a level-1 word: the level-0 words its bits name, and their records (R275). -/
def State.swapGroup (s : State) (j : Nat) : State :=
  match s.swapZero (s.dbArea + 0x40 + 8 * j) with
  | (none, t) => t.haltWindlass 6
  | (some m1, t) =>
    (setBitsOf m1).foldl (fun t k => t.unlessHalted fun t =>
      match t.swapZero (t.dbArea + 0x1000 + 8 * (64 * j + k)) with
      | (none, t) => t.haltWindlass 6
      | (some m0, t) => (setBitsOf m0).foldl (fun t b => t.unlessHalted fun t => t.actOnRecord (4096 * j + 64 * k + b)) t) t

/-- The end of a pass: WAITING again, unless halted (R278). -/
def State.passEnd (s : State) : State := s.unlessHalted fun t => { t with host := { t.host with wsw := .waiting } }

/-- A pass in swap mode (R275). -/
def State.swapPass (s : State) : State :=
  match s.swapZero s.dbArea with
  | (none, t) => t.haltWindlass 6
  | (some m2, t) =>
    if m2 = 0 then t
    else
      let t := t.setRegN Reg.wswPasses (t.regN Reg.wswPasses + 1)
      ((setBitsOf m2).foldl (fun t j => t.unlessHalted fun t => t.swapGroup j) t).passEnd

/-- A pass below a group in epoch mode: plain reads (R276). -/
def State.epochGroup (s : State) (j : Nat) : State :=
  match s.hostRead (s.dbArea + 0x40 + 8 * j) 8 with
  | none => s.haltWindlass 5
  | some m1 =>
    (setBitsOf m1).foldl (fun t k => t.unlessHalted fun t =>
      match t.hostRead (t.dbArea + 0x1000 + 8 * (64 * j + k)) 8 with
      | none => t.haltWindlass 5
      | some m0 => (setBitsOf m0).foldl (fun t b => t.unlessHalted fun t => t.actOnRecord (4096 * j + 64 * k + b)) t) s

/-- A pass in epoch mode (R276). -/
def State.epochPass (s : State) : State :=
  match s.hostRead (s.dbArea + 8) 8 with
  | none => s.haltWindlass 5
  | some e =>
    if e = s.host.lastEpoch then s
    else
      let s := s.setRegN Reg.wswPasses (s.regN Reg.wswPasses + 1)
      match s.hostRead (s.dbArea + 0x240) 512 with
      | none => s.haltWindlass 5
      | some g =>
        let old := s.host.lastGe
        let s := (List.range 64).foldl (fun t j =>
          if bitsAt g (64 * j) 64 = SMap.get (fun _ => 0) old j then t else t.unlessHalted fun t => t.epochGroup j) s
        let ge := (List.range 64).foldl (fun m j => SMap.set (fun _ => 0) m j (bitsAt g (64 * j) 64)) old
        { s with host := { s.host with lastEpoch := e, lastGe := ge } }.passEnd

/-- WINDLASS_PASS (R275–R279): in WAITING, once a poll tick has come. `stores` are the host's stores that have become visible; reads of the
ranges `bad` complete with an error. -/
def execWindlassPass (stores : List HostStore) (bad : List (Nat × Nat)) (s : State) : Host.Outcome State Fault Refusal :=
  let t := { s with hostBad := bad, hostMem := stores.foldl (fun m w => Memory.writeBytes zeroDefault m w.addr w.bytes) s.hostMem }
  if t.host.wsw = .waiting ∧ t.pollDue = true then .next (if t.host.epochMode then t.takeTick.epochPass else t.takeTick.swapPass) else .next t

/-- WINDLASS_HALT (R278): a pass that a poll tick starts (SUMMARY) meets a read (5) or an AtomicOp (6) of the doorbell area that completes with an
error. Between the passes, and disabled or halted, the windlass makes no access. -/
def execWindlassHalt (atomic : Bool) (s : State) : Host.Outcome State Fault Refusal :=
  if s.host.wsw = .waiting ∧ s.pollDue = true then .next (s.takeTick.haltWindlass (if atomic then 6 else 5)) else .next s

/-- The latest poll tick that has come (R277). -/
def State.lastTick (s : State) : Nat := if s.pollDue then s.dueTick else s.host.nextPoll - s.pollEvery

/-- Writes held completions of HCQ `cq` in order while there is room (R288). -/
def State.writeHeld (n : Nat) (s : State) (cq : Nat) : State :=
  match n with
  | 0 => s
  | k + 1 =>
    match s.host.held.find? (fun x => x.cq = cq) with
    | some x =>
      if (s.queue cq).full || !(s.queue cq).valid || !s.host.busMaster then s
      else
        let s := { s with host := { s.host with held := s.host.held.erase x } }
        State.writeHeld k (s.putEntry cq (x.bits + 2 ^ 24 * (s.queue cq).phase (s.queue cq).tail)) cq
    | none => s

/-- HELD_COMPLETION_WRITE (R283, R288): at each poll tick the HCQ's record is read again; held completions are written once there is room, and
the HSQs bound to it are fetched again. -/
def execHeldCompletionWrite (cq : Nat) (s : State) : Host.Outcome State Fault Refusal :=
  if cq < 262144 then
    if s.lastTick < SMap.get (fun _ => 0) s.host.heldTry cq then .next s
    else
    let t := { s with host := { s.host with heldTry := SMap.set (fun _ => 0) s.host.heldTry cq (s.lastTick + 1) } }
    let t := t.refreshRoom cq
    let t := State.writeHeld t.host.held.length t cq
    let sqs := (t.queues.filter (fun e => e.2.valid && decide (e.2.ty = .hsq))).map Prod.fst
    .next (sqs.foldl (fun t q => if t.cqOf q = cq then t.unlessHalted fun t => t.fetchAll q else t) t)
  else .fault .noSuchUnit

/-- Why an enable fails (R269, R271), 0 when it does not: the first of the causes in the order of their codes. -/
def State.enableCause (s : State) (epoch : Bool) : Nat :=
  let bad := [0, 5, 10].any (fun b => let l := s.field Reg.hstAdminCfg b 5; decide (l < 4) || decide (16 < l))
  if bad then 1
  else if [Reg.hstAsq, Reg.hstAcq, Reg.hstAeq, Reg.hstDb].any (fun a => s.pair a = 0) then 2
  else if epoch = false ∧ s.host.atomicReq = false then 3
  else if s.host.busMaster = false then 4
  else 0

/-- The admin rings as the registers set them (R267, R268, R304). -/
def State.adminRings (s : State) : State :=
  let q0 : Queue := { valid := true, base := s.pair Reg.hstAsq, ty := .hsq, log2 := s.field Reg.hstAdminCfg 0 5, cqid := 1 }
  let q1 : Queue := { valid := true, base := s.pair Reg.hstAcq, ty := .hcq, log2 := s.field Reg.hstAdminCfg 5 5, vector := s.field Reg.hstAdminCfg 15 6, vecEn := true }
  let q2 : Queue := { valid := true, base := s.pair Reg.hstAeq, ty := .heq, log2 := s.field Reg.hstAdminCfg 10 5, vector := s.field Reg.hstAdminCfg 21 6, vecEn := true }
  ((s.modQueue 0 fun _ => q0).modQueue 1 fun _ => q1).modQueue 2 fun _ => q2

/-- HOST_ENABLE: a write of HST_CTRL with ENABLE = 1 (R266, R271). Once ENABLED, and before READY, it has no effect. -/
def execHostEnable (epoch : Bool) (s : State) : Host.Outcome State Fault Refusal :=
  if s.host.enabled = true ∨ s.host.ready = false then .next s
  else
    let c := s.enableCause epoch
    let s := s.setRegN Reg.hstCtrl (1 + 2 * b2n epoch)
    if c ≠ 0 then .next { s with host := { s.host with errCause := c } }
    else
      let t := s.adminRings
      .next { t with host := { t.host with enabled := true, errCause := 0, epochMode := epoch, wsw := .waiting, lastEpoch := 0, lastGe := [], nextPoll := t.pollTime } }

/-! ## Plain commands and queues -/

/-- NOP (R289). -/
def execNop (h : CmdHdr) (s : State) : Host.Outcome State Fault Refusal :=
  .next (plainCmd (.nop h) h false (fun t => (t, { status := St.ok })) s)

/-- The lowest free host QID (R309 check 5). -/
def State.freeHostQid (s : State) : Option Nat :=
  let used := (s.queues.filter (fun e => e.2.valid && decide (65536 ≤ e.1))).map Prod.fst
  ((List.range (used.length + 1)).map (· + 65536)).find? (fun q => decide (q < 262144) && !used.contains q)

/-- A host queue type by its code (R305). -/
def hostType (c : Nat) : Option QType :=
  match c with | 0 => some .hsq | 1 => some .hcq | 2 => some .heq | 3 => some .hsr | 4 => some .hbr | _ => none

/-- QUEUE_CREATE's checks in order (R309): a refusal, or the type and the QID. -/
def State.checkQueueCreate (s : State) (q : QueueCreateArgs) : Reply ⊕ (QType × Nat) :=
  match hostType q.ty.toNat with
  | none => .inl (Reply.field St.badFormat 8)
  | some t =>
    if q.log2.toNat < 4 ∨ 16 < q.log2.toNat then .inl (Reply.field St.badFormat 8)
    else if q.base.toNat = 0 ∨ q.base.toNat % 4096 ≠ 0 then .inl (Reply.field St.badFormat 0x10)
    else if q.qid.toNat ≠ 0 ∧ (q.qid.toNat < 65536 ∨ (s.queue q.qid.toNat).valid = true) then .inl (Reply.field St.badState 4)
    else
      match (if q.qid.toNat = 0 then s.freeHostQid else some q.qid.toNat) with
      | none => .inl (Reply.field St.noQueue 4)
      | some n =>
        if t = .hsq ∧ ((s.queue q.cqid.toNat).valid = false ∨ (s.queue q.cqid.toNat).ty ≠ .hcq) then .inl (Reply.field St.noQueue 0x0C)
        else .inr (t, n)

/-- The queue that QUEUE_CREATE makes (R296, R307, R309). -/
def createdQueue (q : QueueCreateArgs) (t : QType) : Queue :=
  if t = .hsq then { valid := true, base := q.base.toNat, ty := t, log2 := q.log2.toNat, cqid := q.cqid.toNat }
  else { valid := true, base := q.base.toNat, ty := t, log2 := q.log2.toNat, vector := q.vector.toNat, vecEn := q.vecEn, noSnoop := q.noSnoop,
         coalesceUs := q.coalesceUs.toNat }

/-- QUEUE_CREATE (R296, R309). -/
def execQueueCreate (h : CmdHdr) (q : QueueCreateArgs) (s : State) : Host.Outcome State Fault Refusal :=
  .next (plainCmd (.queueCreate h q) h true (fun t =>
    match t.checkQueueCreate q with
    | .inl r => (t, r)
    | .inr (ty, n) => (t.modQueue n fun _ => createdQueue q ty, { status := St.ok, result := n })) s)

end Sys2Proof.Machine
end

