-- ==== Sys2Proof/Machine/Digest.lean ====
section
/-!
DEFINITION. The digests and the signature check that the spec names by their standards: SHA-256 (R199, R249, R250, R297), Ed25519 (R249, RFC 8032), and the
picture hashes of H.265 (R110, R113, R158). The spec does not restate them: they follow FIPS 180-4, RFC 8032, RFC 1321 and H.265 (PRESUMED, log 148).
-/
namespace Sys2Proof.Machine

/-- The number that bytes spell, the most significant first. -/
def beNat (l : List Nat) : Nat := l.foldl (fun v b => 256 * v + b) 0

/-- The number that bytes spell, the least significant first. -/
def leValue (l : List Nat) : Nat := l.foldr (fun b v => b + 256 * v) 0

/-- A word of `w` bits rotated right by `n`. -/
def rotr (w v n : Nat) : Nat := v / 2 ^ n + v % 2 ^ n * 2 ^ (w - n)

/-- The whole `k`-th root of `n`, which has at most `bits` bits. -/
def wholeRoot (k bits n : Nat) : Nat :=
  (List.range bits).foldl (fun r i => let t := r + 2 ^ (bits - 1 - i); if t ^ k ≤ n then t else r) 0

/-- The first primes: 80 of them. -/
def shaPrimes : List Nat := (List.range 410).filter fun n => decide (2 ≤ n) && (List.range n).all fun d => decide (d < 2) || decide (n % d ≠ 0)

/-- One member of the SHA-2 family: the word's width, the rounds, and the rotations of its four functions; the last of `s0` and of `s1` is a shift. -/
structure ShaForm where
  word   : Nat
  rounds : Nat
  s0     : Nat × Nat × Nat
  s1     : Nat × Nat × Nat
  big0   : Nat × Nat × Nat
  big1   : Nat × Nat × Nat
deriving DecidableEq, Repr

/-- SHA-256 and SHA-512. -/
def sha256Form : ShaForm := ⟨32, 64, (7, 18, 3), (17, 19, 10), (2, 13, 22), (6, 11, 25)⟩
def sha512Form : ShaForm := ⟨64, 80, (1, 8, 7), (19, 61, 6), (28, 34, 39), (14, 18, 41)⟩

/-- The functions of the message schedule and of the rounds. -/
def ShaForm.small (f : ShaForm) (r : Nat × Nat × Nat) (v : Nat) : Nat := rotr f.word v r.1 ^^^ rotr f.word v r.2.1 ^^^ v / 2 ^ r.2.2
def ShaForm.big (f : ShaForm) (r : Nat × Nat × Nat) (v : Nat) : Nat := rotr f.word v r.1 ^^^ rotr f.word v r.2.1 ^^^ rotr f.word v r.2.2

/-- The round constants and the first hash value: fractions of the cube and square roots of the primes. -/
def ShaForm.constants (f : ShaForm) : List Nat := (shaPrimes.take f.rounds).map fun p => wholeRoot 3 (f.word + 3) (p * 2 ^ (3 * f.word)) % 2 ^ f.word
def ShaForm.start (f : ShaForm) : List Nat := (shaPrimes.take 8).map fun p => wholeRoot 2 (f.word + 3) (p * 2 ^ (2 * f.word)) % 2 ^ f.word

/-- The message schedule of a block of 16 words, the latest word first. -/
def ShaForm.schedule (f : ShaForm) (block : List Nat) : List Nat :=
  (List.range (f.rounds - 16)).foldl (fun l _ =>
    (f.small f.s1 (l.getD 1 0) + l.getD 6 0 + f.small f.s0 (l.getD 14 0) + l.getD 15 0) % 2 ^ f.word :: l) block.reverse

/-- One round, on the words a to h. -/
def ShaForm.round (f : ShaForm) (v : List Nat) (kw : Nat) : List Nat :=
  match v with
  | [a, b, c, d, e, g, h, i] =>
    let t1 := i + f.big f.big1 e + ((e &&& g) ^^^ ((2 ^ f.word - 1 - e) &&& h)) + kw
    let t2 := f.big f.big0 a + ((a &&& b) ^^^ (a &&& c) ^^^ (b &&& c))
    [(t1 + t2) % 2 ^ f.word, a, b, c, (d + t1) % 2 ^ f.word, e, g, h]
  | _ => v

/-- One block of the message. -/
def ShaForm.block (f : ShaForm) (ks hash words : List Nat) : List Nat :=
  let v := ((ks.zip (f.schedule words).reverse).map fun e => e.1 + e.2).foldl f.round hash
  (hash.zip v).map fun e => (e.1 + e.2) % 2 ^ f.word

/-- The message with its padding, as words. -/
def ShaForm.padded (f : ShaForm) (m : List Nat) : List Nat :=
  let n := f.word / 8
  let l := m ++ [0x80] ++ List.replicate ((32 * n - 1 - (m.length + 2 * n) % (16 * n)) % (16 * n)) 0 ++
    (List.range (2 * n)).map fun i => 8 * m.length / 256 ^ (2 * n - 1 - i) % 256
  (List.range (l.length / n)).map fun i => beNat ((l.drop (n * i)).take n)

/-- The digest, as bytes. -/
def ShaForm.digest (f : ShaForm) (m : List Nat) : List Nat :=
  let ws := f.padded m
  let ks := f.constants
  ((List.range (ws.length / 16)).foldl (fun h i => f.block ks h ((ws.drop (16 * i)).take 16)) f.start).flatMap fun v =>
    (List.range (f.word / 8)).map fun i => v / 256 ^ (f.word / 8 - 1 - i) % 256

/-- SHA-256 of a byte string, as a 256-bit number whose least significant byte is the digest's first. -/
def sha256 (m : List Nat) : Nat := leValue (sha256Form.digest m)

/-! ## Ed25519 (RFC 8032) -/

/-- The prime of the field, the order of the base point, and the inverse by Fermat's theorem. -/
def edP : Nat := 2 ^ 255 - 19
def edL : Nat := 2 ^ 252 + 27742317777372353535851937790883648493
def powMod (b e m : Nat) : Nat := (List.range 256).foldl (fun r i => let s := r * r % m; if e / 2 ^ (255 - i) % 2 = 1 then s * b % m else s) 1
def edInv (v : Nat) : Nat := powMod v (edP - 2) edP

/-- The curve's constant d = −121665 / 121666. -/
def edD : Nat := (edP - 121665) * edInv 121666 % edP

/-- A point in extended coordinates. -/
structure EdPoint where
  x : Nat
  y : Nat
  z : Nat
  t : Nat
deriving DecidableEq, Repr

/-- The sum of two points. -/
def EdPoint.add (p q : EdPoint) : EdPoint :=
  let a := (p.y + edP - p.x) * (q.y + edP - q.x) % edP
  let b := (p.y + p.x) * (q.y + q.x) % edP
  let c := 2 * p.t * q.t * edD % edP
  let d := 2 * p.z * q.z % edP
  let e := b + edP - a
  let f := d + edP - c
  let g := d + c
  let h := b + a
  ⟨e * f % edP, g * h % edP, f * g % edP, e * h % edP⟩

/-- A point taken `k` times. -/
def EdPoint.mul (p : EdPoint) (k : Nat) : EdPoint :=
  (List.range 256).foldl (fun q i => let q := q.add q; if k / 2 ^ (255 - i) % 2 = 1 then q.add p else q) ⟨0, 1, 1, 0⟩

/-- Two points are the same. -/
def EdPoint.same (p q : EdPoint) : Bool := decide (p.x * q.z % edP = q.x * p.z % edP) && decide (p.y * q.z % edP = q.y * p.z % edP)

/-- The point that 32 bytes encode, as the number they spell. -/
def edPoint (v : Nat) : Option EdPoint :=
  let y := v % 2 ^ 255
  let sign := v / 2 ^ 255 % 2
  let x2 := (y * y + edP - 1) * edInv (edD * y * y % edP + 1) % edP
  let r := powMod x2 ((edP + 3) / 8) edP
  let x := if r * r % edP = x2 then r else r * powMod 2 ((edP - 1) / 4) edP % edP
  if edP ≤ y ∨ x * x % edP ≠ x2 ∨ (x = 0 ∧ sign = 1) then none
  else
    let x := if x % 2 = sign then x else edP - x
    some ⟨x, y, 1, x * y % edP⟩

/-- The base point: y = 4/5, x even. -/
def edBase : Option EdPoint := edPoint (4 * edInv 5 % edP)

/-- The check of a signature (R249): key, signed bytes, signature; with the group equation as RFC 8032 states it, the factor 8 on both sides. -/
def ed25519Ok (key : Nat) (m : List Nat) (sig : Nat) : Bool :=
  let r := sig % 2 ^ 256
  let k := sig / 2 ^ 256
  match edPoint key, edPoint r, edBase with
  | some a, some p, some b =>
    let h := leValue (sha512Form.digest (((List.range 32).map fun i => r / 256 ^ i % 256) ++ ((List.range 32).map fun i => key / 256 ^ i % 256) ++ m)) % edL
    decide (k < edL) && ((b.mul k).mul 8).same ((p.add (a.mul h)).mul 8)
  | _, _, _ => false

/-! ## Picture hashes (H.265, RFC 1321) -/

/-- The constants of MD5: 2³² times the sine of the step. -/
def md5Constants : List Nat :=
  [0xd76aa478, 0xe8c7b756, 0x242070db, 0xc1bdceee, 0xf57c0faf, 0x4787c62a, 0xa8304613, 0xfd469501,
   0x698098d8, 0x8b44f7af, 0xffff5bb1, 0x895cd7be, 0x6b901122, 0xfd987193, 0xa679438e, 0x49b40821] ++
  [0xf61e2562, 0xc040b340, 0x265e5a51, 0xe9b6c7aa, 0xd62f105d, 0x02441453, 0xd8a1e681, 0xe7d3fbc8,
   0x21e1cde6, 0xc33707d6, 0xf4d50d87, 0x455a14ed, 0xa9e3e905, 0xfcefa3f8, 0x676f02d9, 0x8d2a4c8a] ++
  [0xfffa3942, 0x8771f681, 0x6d9d6122, 0xfde5380c, 0xa4beea44, 0x4bdecfa9, 0xf6bb4b60, 0xbebfbc70,
   0x289b7ec6, 0xeaa127fa, 0xd4ef3085, 0x04881d05, 0xd9d4d039, 0xe6db99e5, 0x1fa27cf8, 0xc4ac5665] ++
  [0xf4292244, 0x432aff97, 0xab9423a7, 0xfc93a039, 0x655b59c3, 0x8f0ccc92, 0xffeff47d, 0x85845dd1,
   0x6fa87e4f, 0xfe2ce6e0, 0xa3014314, 0x4e0811a1, 0xf7537e82, 0xbd3af235, 0x2ad7d2bb, 0xeb86d391]

/-- The rotations of MD5's four rounds. -/
def md5Shift (i : Nat) : Nat := ([[7, 12, 17, 22], [5, 9, 14, 20], [4, 11, 16, 23], [6, 10, 15, 21]].getD (i / 16) []).getD (i % 4) 0

/-- One step of MD5 on the words a to d, with the block's 16 words. -/
def md5Step (ws v : List Nat) (i : Nat) : List Nat :=
  match v with
  | [a, b, c, d] =>
    let n (x : Nat) : Nat := 2 ^ 32 - 1 - x
    let f := match i / 16 with | 0 => (b &&& c) ||| (n b &&& d) | 1 => (d &&& b) ||| (n d &&& c) | 2 => b ^^^ c ^^^ d | _ => c ^^^ (b ||| n d)
    let g := match i / 16 with | 0 => i | 1 => (5 * i + 1) % 16 | 2 => (3 * i + 5) % 16 | _ => 7 * i % 16
    let t := (a + f + md5Constants.getD i 0 + ws.getD g 0) % 2 ^ 32
    [d, (b + rotr 32 t (32 - md5Shift i)) % 2 ^ 32, b, c]
  | _ => v

/-- MD5 of a byte string. -/
def md5 (m : List Nat) : List Nat :=
  let l := m ++ [0x80] ++ List.replicate ((63 - (m.length + 8) % 64) % 64) 0 ++ (List.range 8).map fun i => 8 * m.length / 256 ^ i % 256
  let ws := (List.range (l.length / 4)).map fun i => leValue ((l.drop (4 * i)).take 4)
  ((List.range (ws.length / 16)).foldl (fun h k =>
    (h.zip ((List.range 64).foldl (md5Step ((ws.drop (16 * k)).take 16)) h)).map fun e => (e.1 + e.2) % 2 ^ 32)
    [0x67452301, 0xefcdab89, 0x98badcfe, 0x10325476]).flatMap fun v => (List.range 4).map fun i => v / 256 ^ i % 256

/-- The picture CRC: 16 bits, the message followed by two bytes of 0. -/
def pictureCrc (l : List Nat) : Nat :=
  (l ++ [0, 0]).foldl (fun c b => [7, 6, 5, 4, 3, 2, 1, 0].foldl (fun c i =>
    ((2 * c + b / 2 ^ i % 2) % 2 ^ 16) ^^^ (if c / 2 ^ 15 = 1 then 0x1021 else 0)) c) 0xFFFF

/-- The picture checksum of a component `width` samples wide, of `per` bytes each. -/
def pictureSum (width per : Nat) (l : List Nat) : Nat :=
  ((List.range l.length).zip l).foldl (fun s e =>
    let x := e.1 / per % width
    let y := e.1 / per / width
    (s + (e.2 ^^^ (x % 256) ^^^ (y % 256) ^^^ (x / 256) ^^^ (y / 256))) % 2 ^ 32) 0

/-- The decoded picture hash (R110) of a component: 1 MD5, 2 CRC, 3 checksum; its samples as `per` bytes each, `width` samples a line. -/
def pictureHash (kind width per : Nat) (l : List Nat) : List Nat :=
  if kind = 1 then md5 l
  else if kind = 2 then let v := pictureCrc l; [v / 256, v % 256]
  else let v := pictureSum width per l; [v / 2 ^ 24, v / 2 ^ 16 % 256, v / 256 % 256, v % 256]

end Sys2Proof.Machine
end

