-- ==== Sys2Proof/Machine/ResetOps.lean ====
section
/-!
DEFINITION. What the other families need of the fault log and of the reset controller: writing a log entry and ending a
reaction (R489, R494), what a reset keeps (R504, R415), and the assertion of a reset source (R503–R507).
-/
namespace Sys2Proof.Machine

/-- The 128 bits of a message with the class applied (R481, R494). -/
def FaultMsg.entry (m : FaultMsg) (cls : Nat) : Nat :=
  packFields [(10, m.source), (8, m.kind), (2, cls), (48, m.address), (32, m.detail), (24, m.tick), (4, m.seq)]

/-- Writes an entry to the retained log (R494): the oldest gives way when it is full. -/
def FaultSt.logWrite (f : FaultSt) (v : Nat) : FaultSt :=
  { f with log := SMap.set (fun _ => 0) f.log f.logNext v, logNext := (f.logNext + 1) % 256, logTotal := satInc 24 f.logTotal }

/-- FLT_REACT as a reaction stands (R498). -/
def FaultSt.showReaction (f : FaultSt) (r : Reaction) : FaultSt :=
  { f with lastKind := r.first.kind, lastSec := r.secondary, lastMrg := min r.merged 255, lastCls := r.cls, lastValid := true }

/-- The REACTION_END entry (R489): SOURCE, ADDRESS, DETAIL and SEQ of the message that started the reaction, with SECONDARY
and MERGED in ADDRESS [15:0], the class and the tick of the end. -/
def Reaction.endEntry (r : Reaction) (tick : Nat) : Nat :=
  { r.first with kind := Kind.reactionEnd, tick := tick % 2 ^ 24, address := r.first.address / 2 ^ 16 * 2 ^ 16 + 256 * min r.merged 255 + r.secondary }.entry r.cls

/-- A reaction ends (R489): counted and logged; the reaction is over. -/
def State.endReactionLog (s : State) (r : Reaction) : State :=
  let s := s.count (Reg.fltCnt + 4 * Kind.reactionEnd) 16 1
  { s with flt := ({ s.flt with reaction := none }.showReaction r).logWrite (r.endEntry s.time.tick) }

/-- The steering that level 1 and 2 resets leave (R415): the time base runs on; firmware restarts in HOLDOVER when it was
LOCKED or FOLLOWING; the TIME_CONTROL settings return to their defaults and the outputs to IDLE. -/
def TimeSt.afterReset (t : TimeSt) (now : Nat) : TimeSt :=
  { t with servo := (if t.servo = .locked ∨ t.servo = .following then .holdover else t.servo), holdFrom := now, clock := {}, ports := [],
           ref := {}, hostTc := {}, tlvTc := none, slavePort := none, parent := 0, lockRun := 0, unlockRun := 0, touts := t.touts.map (fun (e : Nat × Tout) => (e.1, e.2.idled)), ptp := [],
           follower := false, ptpSent := [], oscHeld := none }

/-- The fault collector across a level 1 or 2 reset (R491, R494, R504): the log, the classes and FLT_REACT stay, messages on
their way are still accepted, and the outputs stay in the safe state. -/
def FaultSt.afterReset (f : FaultSt) (cls3 : Bool) : FaultSt := { f with reaction := none, safe := true, mergeRst := cls3 }

/-- The MAC addresses that the option words give (R385, R513): words 20–35. -/
def State.loadMacs (s : State) : State :=
  (List.range 8).foldl (fun t n =>
    (t.setRegN (Reg.netMac + 0x1000 * n) (SMap.get (fun _ => 0) s.fuse.shadow (20 + 2 * n))).setRegN
      (Reg.netMac + 0x1000 * n + 4) (SMap.get (fun _ => 0) s.fuse.shadow (21 + 2 * n) % 2 ^ 16)) s

/-- The stores that a reset leaves (R252): empty until self-test loads them; the regions of a load that it cuts read as failed. -/
def storesAfterReset (l : List PrkLoad) : SMap Store :=
  l.foldl (fun m l => ((List.range 8).filter (bitAt l.mask)).foldl (fun m n =>
    SMap.set (fun _ => {}) m n (if l.opened then { oState := 3 } else { vState := 3 })) m) []

/-- Everything within a reset's reach is held at its reset value (R504, R506). Levels 1 and 2 keep the time base, the log,
the RWS registers, the fuse shadow and the sensors; level 2 also keeps the PCIe configuration and the MSI-X table; level 0
keeps only the fuse array. Host memory is the host's. A reaction in progress ends as the reset begins (R489). -/
def State.enterReset (s : State) (level : Nat) : State :=
  let cls3 := match s.flt.reaction with | some r => decide (r.cls = 3) | none => s.flt.mergeRst
  let s := match s.flt.reaction with | some r => s.endReactionLog r | none => s
  let z := State.reset
  let base : State :=
    { z with pending := s.pending, hostMem := s.hostMem, hostBad := s.hostBad, lastRead := s.lastRead, freeCount := s.freeCount,
             prk := storesAfterReset s.prkLoad }
  if level = 0 then
    { base with rst := s.rst, fuse := { z.fuse with rows := s.fuse.rows, inPulse := s.fuse.inPulse, toPulse := s.fuse.toPulse.take (if s.fuse.inPulse then 1 else 0),
                                                    progWord := s.fuse.progWord, progCopy := s.fuse.progCopy },
                flt := { z.flt with safe := true } }
  else
    let h : HostSt := if level = 1 then { z.host with msiSent := s.host.msiSent } else
      { z.host with busMaster := s.host.busMaster, atomicReq := s.host.atomicReq, msixEnable := s.host.msixEnable, funcMask := s.host.funcMask,
                    unmasked := s.host.unmasked, msixTable := s.host.msixTable, config := s.host.config, vecPend := s.host.vecPend, msiSent := s.host.msiSent }
    let t : State :=
      { base with regs := SMap.keep regKept s.regs, host := h, rst := s.rst,
                  fuse := { s.fuse with toPulse := s.fuse.toPulse.take (if s.fuse.inPulse then 1 else 0) },
                  flt := s.flt.afterReset cls3, time := s.time.afterReset s.now, sensors := s.sensors }
    t.loadMacs

/-- Sources that assert for 16 ticks (R503). -/
def pulseSource (i : Nat) : Bool := decide (3 ≤ i ∧ i ≤ 10) || decide (i = 12)

/-- Asserts reset source `i` (R503–R507): in RUNNING, SELF_TEST or DIAG_HOLD an episode begins; in RELEASING the sequence
stops; the blocks within the level's reach are held, and the pins are in the safe state. The level of the episode is the
deepest asserted in it. -/
def State.assertSource (s : State) (i : Nat) : State :=
  let lvl := s.sourceLevel i
  let bit : BitVec 16 := BitVec.ofNat 16 (2 ^ i)
  let fresh := decide (s.rst.state = .running) || decide (s.rst.state = .selfTest) || decide (s.rst.state = .diagHold)
  let deep := if fresh then lvl else min lvl s.rst.deepest
  let r := s.rst
  let r := if fresh then { r with seen := bit, first := i, optRestart := false, fuseWait := false, episodes := satInc 16 r.episodes }
           else { r with seen := r.seen ||| bit }
  let r := { r with state := .held, asserted := r.asserted ||| bit, deepest := deep, blk := {}, level := deep, causeLevel := deep,
                    pulses := (if pulseSource i then SMap.set (fun _ => 0) r.pulses i 16 else r.pulses) }
  let r := if lvl = 0 then { r with seen := r.seen ||| 1, episodes := 0, twinRole := false, clkHeld := [], selfTest := 0, wdogs := [] } else r
  let needs := fresh || decide (s.rst.state = .releasing) || decide (lvl < s.rst.deepest)
  let s := { s with rst := r }
  let s := if needs then s.enterReset deep else s
  { s with faultN := true, yieldN := true, flt := { s.flt with safe := true } }

/-- Releases reset source `i` (R503). -/
def State.releaseSource (s : State) (i : Nat) : State :=
  { s with rst := { s.rst with asserted := s.rst.asserted &&& ~~~(BitVec.ofNat 16 (2 ^ i)), pulses := SMap.set (fun _ => 0) s.rst.pulses i 0 } }

/-- One tick of the pulse sources (R503): a pulse that has lasted 16 ticks ends. -/
def State.pulseTick (s : State) : State :=
  s.rst.pulses.foldl (fun t e =>
    if e.2 ≤ 1 then t.releaseSource e.1
    else { t with rst := { t.rst with pulses := SMap.set (fun _ => 0) t.rst.pulses e.1 (e.2 - 1) } }) s

/-- VDD_CORE step of a block in mA, and its wake latency in ns (R515). -/
def PwrBlock.step (b : PwrBlock) : Nat × Nat :=
  match b with
  | .hoop _ => (2000, 20000)
  | .tambour _ => (6000, 500)
  | .core _ => (800, 200)
  | .corePll => (500, 20000)
  | .fclkBlock _ => (1000, 100)
  | .pump _ => (300, 100)
  | .hbm => (4000, 1200)

end Sys2Proof.Machine
end

