-- ==== Sys2Proof/Machine/BandTimes.lean ====
section
/-!
DEFINITION. Geometry, rates and times of a channel's bands (R20, R33–R41, R74, R141, R154), as functions of its configuration.
Times are in τ, 1/27,000 ns.
-/
namespace Sys2Proof.Machine

/-- τ in a nanosecond, and in a second. -/
abbrev tauNs : Nat := 27000
abbrev tauSec : Nat := 27000000000000

/-- τ of a tclk (1.2 GHz). -/
abbrev tauTclk : Nat := 22500

/-- PTP time in τ, rounded down: a moment of the schedule has been reached when it is no later than this. -/
def State.nowT (s : State) : Nat := s.now * tauNs + s.time.frac * tauNs / 2 ^ 32

/-- The frame rate n/d of a RATE code (R104). -/
def rateND (r : Nat) : Nat × Nat :=
  [(24000, 1001), (24000, 1000), (25000, 1000), (30000, 1001), (30000, 1000), (50000, 1000), (60000, 1001), (60000, 1000), (100000, 1000), (120000, 1001), (120000, 1000)].getD r (60000, 1000)

/-- Field coding (R75). -/
def ChannelCfg.fields (c : ChannelCfg) : Bool := decide (c.format = 2)

/-- Active width, active lines per frame, and per coded picture (R34, R73): a frame, for an MBAFF stream (R147). -/
def ChannelCfg.width (c : ChannelCfg) : Nat := if c.format = 0 then 1280 else if c.format = 3 then 3840 else 1920
def ChannelCfg.frameLines (c : ChannelCfg) : Nat := if c.format = 0 then 720 else if c.format = 3 then 2160 else 1080
def ChannelCfg.lines (c : ChannelCfg) : Nat := if c.fields && !c.mbaff then 540 else c.frameLines

/-- Total lines per frame of the source format (R20). -/
def ChannelCfg.totalLines (c : ChannelCfg) : Nat := if c.format = 0 then 750 else if c.format = 3 then 2250 else 1125

/-- Coded height (R74). -/
def ChannelCfg.codedLines (c : ChannelCfg) : Nat := (c.lines + 15) / 16 * 16

/-- Band height in lines (R33); with MBAFF and BAND_H of 16 lines, 32 (R147); a CTU row of a decoded stream whose CTBs are higher (R35). -/
def ChannelCfg.bandLines (c : ChannelCfg) : Nat := max (if c.mbaff ∧ c.bandH = 0 then 32 else 16 * 2 ^ c.bandH) c.streamCtb

/-- CTB size, of the decoded stream where its SPS has come; an AVC macroblock is 16. -/
def ChannelCfg.ctbSize (c : ChannelCfg) : Nat := if c.codec = 1 then 16 else if c.streamCtb = 0 then 16 * 2 ^ c.ctb else c.streamCtb

/-- Bands per coded picture (R34). -/
def ChannelCfg.bandCount (c : ChannelCfg) : Nat := (c.lines + c.bandLines - 1) / c.bandLines

/-- cf of R38. -/
def ChannelCfg.cf (c : ChannelCfg) : Nat := if c.chroma = 1 then 3 else if c.chroma = 2 then 4 else 6

/-- Bit depth. -/
def ChannelCfg.depth (c : ChannelCfg) : Nat := 8 + c.bitDepth

/-- τ of a frame, and of a picture (a field for FORMAT 2). -/
def ChannelCfg.frameT (c : ChannelCfg) : Nat := (rateND c.rate).2 * tauSec / (rateND c.rate).1
def ChannelCfg.periodT (c : ChannelCfg) : Nat := if c.fields then c.frameT / 2 else c.frameT

/-- τ of a line and of a band (R20, R36). -/
def ChannelCfg.lineT (c : ChannelCfg) : Nat := c.frameT / c.totalLines
def ChannelCfg.bandT (c : ChannelCfg) : Nat := c.lineT * c.bandLines

/-- τ of the budget (R37): quarter band periods, minus one. -/
def ChannelCfg.budgetT (c : ChannelCfg) : Nat := (c.budget + 1) * c.bandT / 4

/-- τ of the ready window (R37): 0 means one band period, and so does a value above it. -/
def ChannelCfg.windowT (c : ChannelCfg) : Nat :=
  if c.readyWindow = 0 then c.bandT else min (c.readyWindow * 40 * tauNs) c.bandT

/-- First line of band `b`, the line after its active lines, and its coded lines (R74). -/
def ChannelCfg.bandTop (c : ChannelCfg) (b : Nat) : Nat := b * c.bandLines
def ChannelCfg.bandEnd (c : ChannelCfg) (b : Nat) : Nat := min ((b + 1) * c.bandLines) c.lines
def ChannelCfg.bandCoded (c : ChannelCfg) (b : Nat) : Nat := min c.bandLines (c.codedLines - b * c.bandLines)

/-- 16 × 16 blocks of band `b` (R65). -/
def ChannelCfg.bandBlocks (c : ChannelCfg) (b : Nat) : Nat := c.width / 16 * (c.bandCoded b / 16)

/-- Cost in quarter capacity units (R38). -/
def ChannelCfg.costQ (c : ChannelCfg) : Nat :=
  let n := (rateND c.rate).1
  let d := (rateND c.rate).2
  (c.width * c.frameLines * n * c.cf + d * 124416000 - 1) / (d * 124416000)

/-- Service time in tclk (R39), and s_k of R41 in τ. -/
def ChannelCfg.serviceTclk (c : ChannelCfg) : Nat :=
  let wc := (c.width + c.ctbSize - 1) / c.ctbSize * c.ctbSize
  (wc * c.bandLines * c.cf + 7) / 8 + 1200
def ChannelCfg.serviceT (c : ChannelCfg) : Nat := c.serviceTclk * tauTclk + 96 * tauNs

/-- Band rate in 1/1,001,000 band per second (R40). -/
def ChannelCfg.bandRate (c : ChannelCfg) : Nat :=
  let n := (rateND c.rate).1 * (if c.fields then 2 else 1)
  c.bandCount * n * (1001000 / (rateND c.rate).2)

/-- Repair time in τ (R164). -/
def ChannelCfg.repairT (c : ChannelCfg) : Nat := (c.width / 16) * (c.bandLines / 16) * (32 + 8 * c.cf) * tauTclk

/-- Effective budget in τ (R41). -/
def effBudget (decode : Bool) (c : ChannelCfg) : Nat := if decode then c.budgetT - c.repairT else c.budgetT

/-- QpBdOffsetY (R124). -/
def ChannelCfg.qpBd (c : ChannelCfg) : Int := 6 * (c.bitDepth : Int)

/-! ## Admission (R41, R44) -/

/-- A channel's demand on its tambour: cost, band rate, s_k in τ, its effective budget, and whether that is below one band
period. -/
structure Demand where
  cost : Nat
  rate : Nat
  sk   : Nat
  eb   : Nat
  short : Bool
deriving DecidableEq, Repr

/-- The demand of a configuration. -/
def demandOf (decode : Bool) (c : ChannelCfg) : Demand :=
  { cost := c.costQ, rate := c.bandRate, sk := c.serviceT, eb := effBudget decode c, short := decide (effBudget decode c < c.bandT) }

/-- What a channel holds on its tambour from admission until it is destroyed (R43). -/
def Channel.demand (x : Channel) : Demand := { cost := x.costQ, rate := x.bandRate, sk := x.serviceT, eb := x.budgetHeld, short := x.short }

/-- The channels admitted to tambour `t`, but for channel `skip` (R43). -/
def State.residents (s : State) (t skip : Nat) : List Demand :=
  (s.codec.channels.filter (fun (e : Nat × Channel) => decide (e.1 ≠ skip) && decide (e.2.state ≠ .idle) && decide (e.2.tambour = t))).map
    fun (e : Nat × Channel) => e.2.demand

/-- The tests of R41 on a set of demands. -/
def admits (ds : List Demand) : Bool :=
  let sum := (ds.map Demand.sk).sum
  let top := (ds.map Demand.sk).foldl max 0
  decide ((ds.map Demand.cost).sum ≤ 64) && decide ((ds.map Demand.rate).sum ≤ 80000 * 1001000) &&
    ds.all (fun d => !d.short || decide (top + sum ≤ d.eb))

/-- Tambour `t` admits the demand of channel `c` (R41). -/
def State.admitted (s : State) (t c : Nat) (d : Demand) : Bool := s.tambEnabled t && admits (d :: s.residents t c)

/-- Tambour `a` is preferred to tambour `b` by automatic pinning (R44): fewer quarters, then a lower band-rate sum. -/
def State.pinBefore (s : State) (skip a b : Nat) : Bool :=
  let ca := ((s.residents a skip).map Demand.cost).sum
  let cb := ((s.residents b skip).map Demand.cost).sum
  decide (ca < cb) || (decide (ca = cb) && decide (((s.residents a skip).map Demand.rate).sum < ((s.residents b skip).map Demand.rate).sum))

/-- TMB_SCHED_CFG.NO_AUTO of tambour `t` (R60). -/
def State.noAuto (s : State) (t : Nat) : Bool := decide (s.field (Reg.tmb + 0x2000 * t + 0x0C) 0 1 = 1)

/-- Automatic pinning of channel `c` (R44). -/
def State.autoPin (s : State) (c : Nat) (d : Demand) : Option Nat :=
  ((List.range 8).filter (fun t => s.admitted t c d && !s.noAuto t)).foldl
    (fun best t => match best with | none => some t | some b => if s.pinBefore c t b then some t else some b) none

/-- The tambour for channel `c` with PIN `pin` (R44): a named one when it admits; with 0xFF the present one while it passes,
else the one that automatic pinning chooses. -/
def State.place (s : State) (c pin : Nat) (present : Option Nat) (d : Demand) : Option Nat :=
  if pin ≠ 0xFF then (if s.admitted pin c d then some pin else none)
  else match present with
    | some t => if s.admitted t c d then some t else s.autoPin c d
    | none => s.autoPin c d

/-- Picture `p` of a channel, and a band of it. -/
def Channel.pic (x : Channel) (p : Nat) : Pic := SMap.get (fun _ => {}) x.pics p
def Pic.band (y : Pic) (b : Nat) : Band := SMap.get (fun _ => {}) y.bands b

/-- The configuration by which picture `p` is cut into bands: a decoded one by the SPS that it is decoded under (R35, R147, R148). -/
def Channel.cfgOf (x : Channel) (p : Nat) : ChannelCfg :=
  match x.decode, (x.pic p).geo with
  | true, some g => { x.cfg with mbaff := g.1, streamCtb := g.2 }
  | _, _ => x.cfg

/-! ## Coding order (R91–R93) -/

/-- Pictures of a GOP 3 group (R91). -/
def ChannelCfg.groupLen (c : ChannelCfg) : Nat := c.nb + 1

/-- The group of picture `p` ≥ 1: its anchor is picture (g + 1) × (NB + 1). -/
def ChannelCfg.groupOf (c : ChannelCfg) (p : Nat) : Nat := (p - 1) / c.groupLen

/-- The anchor of group `g`. -/
def ChannelCfg.anchor (c : ChannelCfg) (g : Nat) : Nat := (g + 1) * c.groupLen

/-- The coding order of a group after its first position, as offsets of pictures from the previous anchor (R91): the anchor,
then the B pictures; with an IDR anchor, display order. -/
def ChannelCfg.groupOrder (c : ChannelCfg) (idr : Bool) : List Nat :=
  if idr then (List.range c.groupLen).map (· + 1)
  else if c.nb = 1 then [2, 1]
  else if c.nb = 2 then [3, 1, 2]
  else [4, 2, 1, 3]

/-- The IDR period makes an IDR picture due at or before picture `p` (R93). -/
def Channel.irapDue (x : Channel) (p : Nat) : Bool :=
  decide (x.cfg.irapPeriod ≠ 0) && (match x.lastIdr with | some q => decide (q + x.cfg.irapPeriod ≤ p) | none => true)

/-- A plan of TYPE 1 for picture `p` is pending. -/
def Channel.planIdr (x : Channel) (p : Nat) : Bool := x.rc.pending.any (fun l => decide (l.picture = p % 2 ^ 32) && decide (l.ptype = 1))

/-- The anchor of group `g` is an IDR picture (R93): as settled, or as it would be settled now. A pending plan of TYPE 1 for a B
position of an earlier group acts like a force intra. -/
def Channel.anchorIdr (x : Channel) (g : Nat) : Bool :=
  if x.idrGroups.contains g then true
  else if x.plainGroups.contains g then false
  else x.irapDue (x.cfg.anchor g) || x.rc.force.any (fun f => decide (f ≤ x.cfg.anchor g)) || x.planIdr (x.cfg.anchor g)

/-- The coding position of picture `p` (R91); of an access unit its place in decode order, by its first sequence number (R153). -/
def Channel.posOf (x : Channel) (p : Nat) : Nat :=
  if x.decode then (x.pic p).seqFirst
  else if x.cfg.gop ≠ 3 ∨ p = 0 then p
  else
    let g := x.cfg.groupOf p
    let base := g * x.cfg.groupLen
    base + 1 + (x.cfg.groupOrder (x.anchorIdr g)).idxOf (p - base)

/-- The picture at coding position `c`. -/
def Channel.picAt (x : Channel) (c : Nat) : Nat :=
  if x.cfg.gop ≠ 3 ∨ c = 0 then c
  else
    let g := (c - 1) / x.cfg.groupLen
    g * x.cfg.groupLen + (x.cfg.groupOrder (x.anchorIdr g)).getD ((c - 1) % x.cfg.groupLen) 1

/-! ## The times of a band (R36, R92, R154) -/

/-- τ of the aligned time of source picture `p` (R36, R115). -/
def Channel.tPic (x : Channel) (p : Nat) : Nat := (x.index0 + p) * x.cfg.periodT

/-- τ from which the bands of picture `p` are placed: its t_pic, the time of its coding position in GOP 3 (R92), or t_sched of
the access unit (R154). -/
def Channel.tSlot (x : Channel) (p : Nat) : Nat :=
  if x.decode then (x.pic p).tSched
  else if x.cfg.gop = 3 then x.tPic (x.posOf p) + x.cfg.nb * x.cfg.periodT
  else x.tPic p

/-- R36 from a slot time: input deadline, window opening and release time. -/
def ChannelCfg.deadlineAt (c : ChannelCfg) (t b : Nat) : Nat := t + c.alignOffset * tauNs + c.bandEnd b * c.lineT
def Channel.inputDeadline (x : Channel) (p b : Nat) : Nat := (x.cfgOf p).deadlineAt (x.tSlot p) b
def Channel.windowOpen (x : Channel) (p b : Nat) : Nat := x.inputDeadline p b - (x.cfgOf p).windowT
def Channel.releaseAt (x : Channel) (p b : Nat) : Nat := x.inputDeadline p b + (x.cfgOf p).budgetT + 8000 * tauNs

/-- The ready time for an input complete at `done` (R36). -/
def Channel.readyAt (x : Channel) (p b done : Nat) : Nat :=
  max (max (x.windowOpen p b) (min done (x.inputDeadline p b))) (x.startNs * tauNs)

/-- The deadline of a ready band, and its abandon point (R50). -/
def Channel.deadline (x : Channel) (p b : Nat) : Nat := ((x.pic p).band b).ready + (x.cfgOf p).budgetT
def Channel.abandonAt (x : Channel) (p b : Nat) : Nat :=
  if x.decode then x.deadline p b - (x.cfgOf p).repairT else x.deadline p b

end Sys2Proof.Machine
end

