-- ==== Sys2Proof/Machine/Raster.lean ====
section
/-!
DEFINITION. Rasters and what is measured on them: positions (R365), line repeat (R368), decimation and input complexity (R67,
R68), the adaptive QP measure (R87), SSE (R172), the structural index (R174), the motion histogram's bins (R176).
-/
namespace Sys2Proof.Machine

/-- Key of the sample of component `comp` (0 Y, 1 Cb, 2 Cr) at line `y`, column `x` of its own plane. -/
def sampleKey (comp x y : Nat) : Nat := (y * 3 + comp) * 4096 + x

/-- A sample of a picture. -/
def Pic.sample (p : Pic) (comp x y : Nat) : Nat := SMap.get (fun _ => 0) p.samples (sampleKey comp x y)

/-- Puts a sample. -/
def Pic.setSample (p : Pic) (comp x y v : Nat) : Pic := { p with samples := SMap.set (fun _ => 0) p.samples (sampleKey comp x y) v }

/-- Changes a band of a picture. -/
def Pic.modBand (y : Pic) (b : Nat) (f : Band → Band) : Pic := { y with bands := SMap.modify (fun _ => {}) y.bands b f }

/-- Changes a picture of channel `c`, and a band of it. -/
def State.modPic (s : State) (c p : Nat) (f : Pic → Pic) : State :=
  s.modChannel c fun x => { x with pics := SMap.modify (fun _ => {}) x.pics p f }
def State.modBand (s : State) (i : BandId) (f : Band → Band) : State := s.modPic i.ch i.pic fun y => y.modBand i.b f
def State.band (s : State) (i : BandId) : Band := ((s.channel i.ch).pic i.pic).band i.b

/-- Horizontal and vertical chroma subsampling (R76 CHROMA). -/
def ChannelCfg.subH (c : ChannelCfg) : Nat := if c.chroma = 3 then 1 else 2
def ChannelCfg.subV (c : ChannelCfg) : Nat := if c.chroma = 1 then 2 else 1

/-! ## Positions (R365) and line repeat (R368) -/

/-- PKT_PIXELS of the ST 2110-20 ingress flows bound to channel `c`; with none bound, one line (no position then arrives). -/
def State.pktPixels (s : State) (c : Nat) : Nat :=
  match s.net.iflows.find? (fun (e : Nat × IFlow) => e.2.bound && decide (e.2.channel = some c) && decide (e.2.kind = 0)) with
  | some e => max 1 e.2.pktPixels
  | none => (s.channel c).cfg.width

/-- Positions of a picture. -/
def ChannelCfg.positions (c : ChannelCfg) (pp : Nat) : Nat := (c.width * c.lines + pp - 1) / pp

/-- The positions whose pixels touch band `b`. -/
def ChannelCfg.bandPositions (c : ChannelCfg) (pp b : Nat) : List Nat :=
  let lo := c.bandTop b * c.width / pp
  let hi := (c.bandEnd b * c.width + pp - 1) / pp
  (List.range (hi - lo)).map (· + lo)

/-- The bit of position `k`. -/
def Pic.hasPos (p : Pic) (k : Nat) : Bool := (SMap.get (fun _ => none) p.arrived k).isSome

/-- Band `b` is complete (R365): every one of its positions has its bit set. -/
def Pic.bandComplete (p : Pic) (c : ChannelCfg) (pp b : Nat) : Bool := (c.bandPositions pp b).all p.hasPos

/-- The value a missing sample takes (R368): that of the line above, or in the top line black and mid-grey. -/
def Pic.repeatOf (p : Pic) (c : ChannelCfg) (comp x y : Nat) : Nat :=
  match y with
  | 0 => if comp = 0 then 16 * 2 ^ (c.depth - 8) else 2 ^ (c.depth - 1)
  | k + 1 => p.sample comp x k

/-- Fills the samples of pixel `i` (raster order): luma, and chroma where the pixel carries it. -/
def Pic.fillPixel (p : Pic) (c : ChannelCfg) (i : Nat) : Pic :=
  let x := i % c.width
  let y := i / c.width
  let p := p.setSample 0 x y (p.repeatOf c 0 x y)
  if x % c.subH = 0 ∧ y % c.subV = 0 then
    let u := x / c.subH
    let v := y / c.subV
    let p := p.setSample 1 u v (p.repeatOf c 1 u v)
    p.setSample 2 u v (p.repeatOf c 2 u v)
  else p

/-- Pixels of position `k` that lie in lines [lo, hi). -/
def ChannelCfg.posPixels (c : ChannelCfg) (pp k lo hi : Nat) : List Nat :=
  let a := max (k * pp) (lo * c.width)
  let z := min ((k + 1) * pp) (hi * c.width)
  (List.range (z - a)).map (· + a)

/-- Position `k` counts as arrived for band `b`: in a twin once the snapshot has been taken, by the snapshot (R206); else by the bitmap. -/
def Pic.heldFor (p : Pic) (b k : Nat) : Bool := if (p.band b).snapped then (p.band b).held.contains k else p.hasPos k

/-- The positions of band `b` that are missing: absent from the bitmap, or from the snapshot and not had from the peer. -/
def Pic.missing (p : Pic) (c : ChannelCfg) (pp b : Nat) : List Nat :=
  (c.bandPositions pp b).filter (fun k => !(p.heldFor b k || (p.band b).fromPeer.contains k))

/-- Line repeat of band `b` (R368): samples filled top first; FILLED_PKTS counts the missing positions whose first pixel lies in
the band, LINE_REPEATS the lines with a filled sample. -/
def Pic.lineRepeat (p : Pic) (c : ChannelCfg) (pp b : Nat) : Pic :=
  let ks := p.missing c pp b
  let px := ks.flatMap fun k => c.posPixels pp k (c.bandTop b) (c.bandEnd b)
  let n := (ks.filter fun k => decide (c.bandTop b * c.width ≤ k * pp)).length
  let rows := (px.map (· / c.width)).eraseDups.length
  (px.foldl (fun q i => q.fillPixel c i) p).modBand b fun u => { u with filled := satAdd 16 u.filled n, repeats := rows }

/-! ## Decimation and input complexity (R67, R68) -/

/-- Luma at (x, y) of a coded line: lines below the active height repeat the last active one (R74). -/
def Pic.lumaCoded (p : Pic) (c : ChannelCfg) (x y : Nat) : Nat := p.sample 0 x (min y (c.lines - 1))

/-- The decimated sample (R67). -/
def decimate (luma : Nat → Nat → Nat) (x y : Nat) : Nat :=
  (((List.range 16).map fun k => luma (4 * x + k % 4) (4 * y + k / 4)).sum + 8) / 16

/-- Writes row `v` of the decimated plane (R67). -/
def Pic.decimateRow (p : Pic) (c : ChannelCfg) (v : Nat) : Pic :=
  { p with decim := (List.range (c.width / 4)).foldl (fun m u => SMap.set (fun _ => 0) m (sampleKey 0 u v) (decimate (p.lumaCoded c) u v)) p.decim }

/-- The decimated rows of a band, from the raster as it stands at readiness (R67). -/
def Pic.decimateBand (p : Pic) (c : ChannelCfg) (b : Nat) : Pic :=
  (List.range (c.bandCoded b / 4)).foldl (fun q k => q.decimateRow c (c.bandTop b / 4 + k)) p

/-- The decimated rows whose four source lines are complete as position `k` lands (R67). -/
def Pic.decimateLanded (p : Pic) (c : ChannelCfg) (pp k : Nat) : Pic :=
  let lo := k * pp / c.width / 4
  let hi := ((k + 1) * pp - 1) / c.width / 4
  ((List.range (hi + 1 - lo)).map fun j => lo + j).foldl (fun q v =>
    let a := 4 * v * c.width / pp
    let z := ((4 * v + 4) * c.width + pp - 1) / pp
    if decide (4 * v + 4 ≤ c.lines) && (List.range (z - a)).all (fun j => q.hasPos (a + j)) then q.decimateRow c v else q) p

/-- Number of one bits in the low four bits of `i AND j`: the sign of a Walsh–Hadamard entry. -/
def walshOdd (i j : Nat) : Bool := ((List.range 4).filter (fun k => bitAt i k && bitAt j k)).length % 2 = 1

/-- SATD of an 8 × hd block of decimated samples without its mean (R68). -/
def satdBlock (hd : Nat) (v : Nat → Nat → Nat) : Nat :=
  let idx := List.range (8 * hd)
  let n := 8 * hd
  let mean := ((idx.map fun k => v (k % 8) (k / 8)).sum + n / 2) / n
  let coef (u : Nat) : Int :=
    (idx.map fun k =>
      let r := (v (k % 8) (k / 8) : Int) - mean
      if walshOdd (u % 8) (k % 8) == walshOdd (u / 8) (k / 8) then r else -r).sum
  ((idx.map fun u => (coef u).natAbs).sum + 2) / 4

/-- Input complexity of band `b` over its rows of the decimated plane (R68). The last 2160-line band of BAND_H 64 has 48 coded lines, so 12 decimated rows, which R68 does not list:
one row of 8 × 8 blocks counts and the last 4 decimated rows do not (DESIGN CHOICE, log 128). -/
def Pic.complexity (p : Pic) (c : ChannelCfg) (b : Nat) : Nat :=
  let rows := c.bandCoded b / 4
  let hd := min 8 rows
  let top := c.bandTop b / 4
  let cols := c.width / 4 / 8
  ((List.range (cols * (rows / hd))).map fun k =>
    satdBlock hd fun x y => SMap.get (fun _ => 0) p.decim (sampleKey 0 (8 * (k % cols) + x) (top + hd * (k / cols) + y))).sum

/-! ## Adaptive QP (R87) -/

/-- floor_log2. -/
def floorLog2 (v : Nat) : Nat := Nat.log2 v

/-- The measure a of the 16 × 16 group at block column `u`, block row `v` (R87). The block mean inside it is the exact rational, as R87 states no rounding for it (DESIGN CHOICE,
log 128). -/
def Pic.activity (p : Pic) (c : ChannelCfg) (u v : Nat) : Nat :=
  let ys := (List.range 256).map fun k => p.lumaCoded c (16 * u + k % 16) (16 * v + k / 16)
  -- 256 times the sum of squared differences from the mean is 256·Σy² − (Σy)².
  let var := (256 * (ys.map fun y => y * y).sum - ys.sum * ys.sum) / 256
  floorLog2 (var / 256 + 1)

/-- The mean measure over a band's groups (R87). -/
def Pic.activityMean (p : Pic) (c : ChannelCfg) (b : Nat) : Nat :=
  let cols := c.width / 16
  let n := c.bandBlocks b
  ((List.range n).map fun k => p.activity c (k % cols) (c.bandTop b / 16 + k / cols)).sum / n

/-- Clip to a range. -/
def clip (x lo hi : Int) : Int := max lo (min hi x)

/-- The QP of a group (R87): with CU_QP_DELTA = 0, and in a floor band, the band QP alone. -/
def blockQp (c : ChannelCfg) (bandQp : Int) (floor : Bool) (a m : Nat) (hook : Int) : Int :=
  if c.cuQpDelta = 0 ∨ floor = true then bandQp
  else
    let aq := clip (((c.aqStrength : Int) * ((a : Int) - m) + 4) / 8) (-6) 6
    clip (bandQp + clip (aq + hook) (-12) 12) (-c.qpBd) 51

/-! ## SSE and the structural index (R172, R174) -/

/-- Sum of squared differences. -/
def sseOf (src rec : List Nat) : Nat := ((src.zip rec).map fun e => (((e.1 : Int) - e.2) * ((e.1 : Int) - e.2)).natAbs).sum

/-- The index of one 8 × 8 block (R174); the division rounds toward zero. -/
def structIndex (depth : Nat) (xs ys : List Nat) : Int :=
  let l : Int := 2 ^ depth - 1
  let k1 := (4096 * l * l + 5000) / 10000
  let k2 := (36864 * l * l + 5000) / 10000
  let sx : Int := (xs.sum : Nat)
  let sy : Int := (ys.sum : Nat)
  let sxx : Int := ((xs.map fun x => x * x).sum : Nat)
  let syy : Int := ((ys.map fun x => x * x).sum : Nat)
  let sxy : Int := (((xs.zip ys).map fun e => e.1 * e.2).sum : Nat)
  let num := (2 * sx * sy + k1) * (2 * (64 * sxy - sx * sy) + k2)
  let den := (sx * sx + sy * sy + k1) * (64 * sxx - sx * sx + 64 * syy - sy * sy + k2)
  Int.tdiv (16384 * num) den

/-- A band's or a picture's index (R174). -/
def meanIndex (sum : Int) (n : Nat) : Int := if n = 0 then 0 else Int.tdiv sum n

/-! ## The motion histogram (R176) -/

/-- The bin of a vector component in quarter samples. -/
def mvBin (v : Int) : Nat :=
  let m := v.natAbs / 4
  let c := if m = 0 then 0 else min 7 (floorLog2 m + 1)
  if 0 ≤ v then 8 + c else 7 - c

/-- The counter of a vector. -/
def mvCounter (mv : Int × Int) : Nat := 16 * mvBin mv.2 + mvBin mv.1

end Sys2Proof.Machine
end

