-- ==== Sys2Proof/Machine/Bitstream.lean ====
section
/-!
DEFINITION. The bits the encoder writes outside the coded blocks (R97–R113): parameter sets, slice segment headers, SEI messages,
as NAL units. Element orders and level tables are those of the H.265 and H.264 texts that R17 names.
-/
namespace Sys2Proof.Machine

/-- Bit fields in writing order, each a width and a value; the first bit written is the most significant. -/
abbrev BitFields := List (Nat × Nat)

/-- u(w). -/
def uf (w v : Nat) : Nat × Nat := (w, v % 2 ^ w)

/-- One bit. -/
def flag (b : Bool) : Nat × Nat := (1, b2n b)

/-- ue(v). -/
def ue (v : Nat) : Nat × Nat := (2 * Nat.log2 (v + 1) + 1, v + 1)

/-- se(v). -/
def se (x : Int) : Nat × Nat := ue (if 0 < x then 2 * x.toNat - 1 else 2 * (-x).toNat)

/-- Bits written. -/
def bitCount (b : BitFields) : Nat := (b.map Prod.fst).sum

/-- The number that the bits spell. -/
def bitValue (b : BitFields) : Nat := b.foldl (fun a f => a * 2 ^ f.1 + f.2) 0

/-- The bytes of a run of bits, its last byte filled with zero bits. -/
def bitBytes (b : BitFields) : List Nat :=
  let n := (bitCount b + 7) / 8
  let v := bitValue b * 2 ^ (8 * n - bitCount b)
  (List.range n).map fun i => v / 256 ^ (n - 1 - i) % 256

/-- Emulation prevention: a byte 3 after two zero bytes that a byte up to 3 would follow. -/
def preventEmulation (zeros : Nat) (l : List Nat) : List Nat :=
  match l with
  | [] => []
  | b :: t =>
    if 2 ≤ zeros ∧ b ≤ 3 then 3 :: b :: preventEmulation (if b = 0 then 1 else 0) t
    else b :: preventEmulation (if b = 0 then zeros + 1 else 0) t

/-- A NAL unit: header bytes, then the payload bits with their trailing bits. -/
def nalUnit (hdr : List Nat) (b : BitFields) : List Nat := hdr ++ preventEmulation 0 (bitBytes (b ++ [(1, 1)]))

/-- NAL headers (R98). -/
def hevcNal (t : Nat) : List Nat := [2 * t, 1]
def avcNal (refIdc t : Nat) : List Nat := [32 * refIdc + t]

/-! ## Profiles and levels (R70–R72) -/

/-- A profile accepts a chroma format and a depth (R70, R71). -/
def profileAccepts (codec profile chroma depth : Nat) : Bool :=
  if codec = 0 then
    let p := if 8 ≤ profile then profile - 8 else profile
    if p = 1 then decide (chroma = 1) && decide (depth = 8)
    else if p = 2 then decide (chroma = 1) && decide (depth ≤ 10)
    else if p = 3 then decide (chroma = 1)
    else if p = 4 then decide (chroma ≤ 2) && decide (depth ≤ 10)
    else if p = 5 then decide (chroma ≤ 2)
    else if p = 6 then decide (depth = 8)
    else if p = 7 then true
    else false
  else if profile = 1 then decide (chroma = 1) && decide (depth = 8)
  else if profile = 2 then decide (chroma = 1) && decide (depth ≤ 10)
  else (decide (profile = 3) || decide (profile = 4)) && decide (chroma ≤ 2) && decide (depth ≤ 10)

/-- An Intra profile (R70, R71). -/
def intraProfile (codec profile : Nat) : Bool := if codec = 0 then decide (8 ≤ profile) else decide (profile = 4)

/-- The lowest-numbered non-Intra profile that accepts the channel's samples (R72). -/
def ChannelCfg.lowestProfile (c : ChannelCfg) : Option Nat :=
  ((List.range 8).filter fun p => decide (p ≠ 0) && !intraProfile c.codec p && profileAccepts c.codec p c.chroma c.depth).head?

/-- The profile in force (R70–R72): PROFILE 0 takes the lowest-numbered non-Intra profile that accepts the channel's samples;
HEVC code 8, 8 above code 0, takes the Intra variant of that profile (DEDUCED). -/
def ChannelCfg.profileOf (c : ChannelCfg) : Option Nat :=
  if c.profile = 0 then c.lowestProfile
  else if c.codec = 0 ∧ c.profile = 8 then c.lowestProfile.map (8 + ·)
  else if profileAccepts c.codec c.profile c.chroma c.depth then some c.profile else none

/-- Active references n_ref. -/
def ChannelCfg.nRef (c : ChannelCfg) : Nat := c.refs + 1

/-- R103: buffered pictures minus one (HEVC) or reference frames (AVC); frame buffering (AVC); reordering. -/
def ChannelCfg.dpbValues (c : ChannelCfg) : Nat × Nat × Nat :=
  if c.gop = 0 then (0, 1, 0)
  else if c.gop ≠ 3 then (c.nRef, c.nRef, 0)
  else if c.nb = 1 then (2, 2, 1)
  else if c.nb = 2 then (3, 3, 1)
  else (3, 3, 2)

/-- A level: its number, picture size, rate, bit rate in kb/s at Main and High tier (AVC: one), and DPB size (AVC, in
macroblocks). -/
structure LevelRow where
  idc : Nat
  size : Nat
  rate : Nat
  brMain : Nat
  brHigh : Nat
  dpb : Nat
deriving DecidableEq, Repr

/-- HEVC levels up to 5.1: luma picture size and luma sample rate. -/
def hevcLevels : List LevelRow :=
  [⟨30, 36864, 552960, 128, 0, 0⟩, ⟨60, 122880, 3686400, 1500, 0, 0⟩, ⟨63, 245760, 7372800, 3000, 0, 0⟩, ⟨90, 552960, 16588800, 6000, 0, 0⟩, ⟨93, 983040, 33177600, 10000, 0, 0⟩] ++
  [⟨120, 2228224, 66846720, 12000, 30000, 0⟩, ⟨123, 2228224, 133693440, 20000, 50000, 0⟩, ⟨150, 8912896, 267386880, 25000, 100000, 0⟩, ⟨153, 8912896, 534773760, 40000, 160000, 0⟩]

/-- AVC levels up to 5.2: frame size and rate in macroblocks. -/
def avcLevels : List LevelRow :=
  [⟨10, 99, 1485, 64, 64, 396⟩, ⟨11, 396, 3000, 192, 192, 900⟩, ⟨12, 396, 6000, 384, 384, 2376⟩, ⟨13, 396, 11880, 768, 768, 2376⟩, ⟨20, 396, 11880, 2000, 2000, 2376⟩, ⟨21, 792, 19800, 4000, 4000, 4752⟩] ++
  [⟨22, 1620, 20250, 4000, 4000, 8100⟩, ⟨30, 1620, 40500, 10000, 10000, 8100⟩, ⟨31, 3600, 108000, 14000, 14000, 18000⟩, ⟨32, 5120, 216000, 20000, 20000, 20480⟩, ⟨40, 8192, 245760, 20000, 20000, 32768⟩] ++
  [⟨41, 8192, 245760, 50000, 50000, 32768⟩, ⟨42, 8704, 522240, 50000, 50000, 34816⟩, ⟨50, 22080, 589824, 135000, 135000, 110400⟩, ⟨51, 36864, 983040, 240000, 240000, 184320⟩, ⟨52, 36864, 2073600, 240000, 240000, 184320⟩]

/-- Bits per second that one kb/s of the level table stands for in a profile. -/
def brFactor (codec profile : Nat) : Nat :=
  if codec = 0 then
    let p := if 8 ≤ profile then profile - 8 else profile
    [1000, 1000, 1000, 1500, 1667, 2000, 2000, 3000].getD p 1000
  else [1250, 1250, 3000, 4000, 4000].getD profile 1250

/-- A level row meets R72's limits for the configuration and profile. A level that the standard's table gives no High tier is not one of High tier. -/
def ChannelCfg.levelOk (c : ChannelCfg) (profile : Nat) (r : LevelRow) : Bool :=
  let nd := rateND c.rate
  let br := if c.codec = 0 ∧ c.tier = 1 then r.brHigh else r.brMain
  let brOk := decide (br ≠ 0) && decide (c.bitrate ≤ br * brFactor c.codec profile)
  if c.codec = 0 then
    let sz := c.width * c.codedLines
    let pics := nd.1 * (if c.fields then 2 else 1)
    let buf := if 4 * sz ≤ r.size then 16 else if 2 * sz ≤ r.size then 12 else if 4 * sz ≤ 3 * r.size then 8 else 6
    decide (sz ≤ r.size) && decide (sz * pics ≤ r.rate * nd.2) && brOk && decide (c.dpbValues.1 + 1 ≤ buf)
  else
    let mbs := c.width / 16 * (if c.fields then 2 * (c.codedLines / 16) else c.codedLines / 16)
    decide (mbs ≤ r.size) && decide (mbs * nd.1 ≤ r.rate * nd.2) && brOk && decide (c.dpbValues.2.1 ≤ min 16 (r.dpb / mbs))

/-- The level in force (R72). -/
def ChannelCfg.levelOf (c : ChannelCfg) (profile : Nat) : Option Nat :=
  let rows := if c.codec = 0 then hevcLevels else avcLevels
  ((rows.filter fun r => (decide (c.level = 0) || decide (r.idc = c.level)) && c.levelOk profile r).map LevelRow.idc).head?

/-! ## Parameter sets (R99–R106) -/

/-- Constraint flags of profile_idc 4: 12, 10 and 8 bits, 4:2:2, 4:2:0, monochrome, intra, one picture, lower bit rate. -/
def rextFlags (profile : Nat) : List Nat :=
  let p := if 8 ≤ profile then profile - 8 else profile
  let base := [[1, 1, 1, 1, 1], [1, 1, 1, 1, 1], [1, 1, 0, 1, 1], [1, 0, 0, 1, 1], [1, 1, 0, 1, 0], [1, 0, 0, 1, 0], [1, 1, 1, 0, 0], [1, 0, 0, 0, 0]].getD p [1, 1, 1, 1, 1]
  base ++ [0, b2n (decide (8 ≤ profile)), 0, 1]

/-- general_profile_idc (R70). -/
def hevcProfileIdc (profile : Nat) : Nat := if profile = 1 then 1 else if profile = 2 then 2 else 4

/-- profile_tier_level (R101). -/
def ChannelCfg.ptl (c : ChannelCfg) : BitFields :=
  let p := c.profileOf.getD 1
  let idc := hevcProfileIdc p
  [uf 2 0, uf 1 c.tier, uf 5 idc] ++
  ((List.range 32).map fun j => flag (decide (j = idc) || (decide (idc = 1) && decide (j = 2)))) ++
  [flag (!c.fields), flag c.fields, (1, 1), flag (!c.fields)] ++
  (if idc = 4 then (rextFlags p).map (fun v => uf 1 v) ++ [(34, 0)] else [(43, 0)]) ++
  [(1, 0), uf 8 ((c.levelOf p).getD 0)]

/-- num_units_in_tick and time_scale (R104). -/
def ChannelCfg.timing (c : ChannelCfg) : BitFields :=
  let nd := rateND c.rate
  [(32, nd.2), uf 32 (if c.codec = 1 ∨ c.fields = true then 2 * nd.1 else nd.1)]

/-- sps_max_dec_pic_buffering_minus1, sps_max_num_reorder_pics and the latency element. -/
def ChannelCfg.ordering (c : ChannelCfg) : BitFields := [ue c.dpbValues.1, ue c.dpbValues.2.2, ue 0]

/-- The VPS (R101). -/
def ChannelCfg.vps (c : ChannelCfg) : List Nat :=
  nalUnit (hevcNal 32) ([uf 4 0, (1, 1), (1, 1), (6, 0), (3, 0), (1, 1), (16, 0xFFFF)] ++ c.ptl ++ [(1, 0)] ++ c.ordering ++
    [(6, 0), ue 0, (1, 1)] ++ c.timing ++ [(1, 0), ue 0, (1, 0)])

/-- Coefficients of a scaling list as signed differences mod 256. -/
def listDeltas (last : Nat) (l : List Nat) : BitFields :=
  match l with
  | [] => []
  | v :: t => se (toSigned 8 ((v + 256 - last) % 256)) :: listDeltas v t

/-- An HEVC list: pred_mode_flag 1, the DC element of the larger sizes, the coefficients. -/
def hevcList (dc : Bool) (l : List Nat) : BitFields :=
  if dc then [(1, 1), se ((l.getD 0 16 : Int) - 8)] ++ listDeltas (l.getD 0 16) (l.drop 1) else (1, 1) :: listDeltas 8 l

/-- scaling_list_data of HEVC from the record of R85. -/
def hevcScaling (r : List Nat) : BitFields :=
  ((List.range 6).flatMap fun i => hevcList false ((r.drop (16 * i)).take 16)) ++
  ((List.range 6).flatMap fun i => hevcList false ((r.drop (96 + 64 * i)).take 64)) ++
  ((List.range 8).flatMap fun i => hevcList true ((r.drop (480 + 65 * i)).take 65))

/-- The eight lists of AVC from the record of R85. -/
def avcScaling (r : List Nat) : BitFields :=
  ((List.range 6).flatMap fun i => (1, 1) :: listDeltas 8 ((r.drop (16 * i)).take 16)) ++
  ((List.range 2).flatMap fun i => (1, 1) :: listDeltas 8 ((r.drop (96 + 64 * i)).take 64))

/-- The bottom crop of R105 in its units. -/
def ChannelCfg.cropUnits (c : ChannelCfg) : Nat :=
  let cut := c.codedLines - c.lines
  if c.chroma = 1 then cut / 2 else cut

/-- Signal type and colour description (R101). -/
def ChannelCfg.signal (c : ChannelCfg) : BitFields :=
  [(1, 1), (8, 1), (1, 0), (1, 1), (3, 5), uf 1 c.fullRange, (1, 1), uf 8 c.colourPrim, uf 8 c.transfer, uf 8 c.matrix, (1, 0)]

/-- The SPS of HEVC (R101). -/
def ChannelCfg.hevcSps (c : ChannelCfg) (lists : List Nat) : List Nat :=
  nalUnit (hevcNal 33) ([uf 4 0, (3, 0), (1, 1)] ++ c.ptl ++ [ue 0, ue c.chroma] ++ (if c.chroma = 3 then [(1, 0)] else []) ++
    [ue c.width, ue c.codedLines] ++ (if c.cropUnits = 0 then [(1, 0)] else [(1, 1), ue 0, ue 0, ue 0, ue c.cropUnits]) ++
    [ue c.bitDepth, ue c.bitDepth, ue 4, (1, 0)] ++ c.ordering ++
    [ue c.minCu, ue (Nat.log2 c.ctbSize - 3 - c.minCu), ue 0, ue (3 - c.maxTu), ue c.tuDepthInter, ue c.tuDepthIntra] ++
    (if c.scaling = 0 then [(1, 0)] else if c.scaling = 1 then [(1, 1), (1, 0)] else [(1, 1), (1, 1)] ++ hevcScaling lists) ++
    [(1, 0), uf 1 c.sao, (1, 0), ue 0, (1, 0), uf 1 c.tmvp, (1, 1), (1, 1)] ++ c.signal ++
    [(1, 0), flag c.fields, flag c.fields, (1, 0), (1, 1)] ++ c.timing ++ [(1, 0), (1, 0), (1, 0), (1, 0)])

/-- num_ref_idx defaults (R102, R106). -/
def ChannelCfg.refDefault (c : ChannelCfg) : Nat := if c.gop = 3 then 0 else c.nRef - 1

/-- Two's complement fields of the configuration. -/
def ChannelCfg.cbOff (c : ChannelCfg) : Int := toSigned 5 c.cbQpOffset
def ChannelCfg.crOff (c : ChannelCfg) : Int := toSigned 5 c.crQpOffset
def ChannelCfg.betaOfs (c : ChannelCfg) : Int := toSigned 4 c.betaOff
def ChannelCfg.tcOfs (c : ChannelCfg) : Int := toSigned 4 c.tcOff

/-- The PPS of HEVC (R102). -/
def ChannelCfg.hevcPps (c : ChannelCfg) : List Nat :=
  nalUnit (hevcNal 34) ([ue 0, ue 0, uf 1 c.depSeg, (1, 0), (3, 0), uf 1 c.sdh, (1, 0), ue c.refDefault, ue c.refDefault, se 0, (1, 0), uf 1 c.tskip] ++
    (if c.cuQpDelta = 0 then [(1, 0)] else [(1, 1), ue (Nat.log2 c.ctbSize - 4)]) ++
    [se c.cbOff, se c.crOff, (1, 0), (1, 0), (1, 0), (1, 0), (1, 0), uf 1 c.wpp, uf 1 c.loopAcross, (1, 1), (1, 0), uf 1 (1 - c.deblock)] ++
    (if c.deblock = 0 then [] else [se c.betaOfs, se c.tcOfs]) ++ [(1, 0), (1, 0), ue 0, (1, 0), (1, 0)])

/-- pic_struct_present_flag (R106). -/
def ChannelCfg.picStruct (c : ChannelCfg) : Bool := decide (c.tcSei = 1) || c.fields

/-- The SPS of AVC (R106). -/
def ChannelCfg.avcSps (c : ChannelCfg) (lists : List Nat) : List Nat :=
  let p := c.profileOf.getD 1
  let d := c.dpbValues
  nalUnit (avcNal 3 7) ([uf 8 ([100, 100, 110, 122, 122].getD p 100), uf 8 (if p = 4 then 0x10 else 0), uf 8 ((c.levelOf p).getD 0), ue 0, ue c.chroma,
      ue c.bitDepth, ue c.bitDepth, (1, 0)] ++
    (if c.scaling = 0 then [(1, 0)] else if c.scaling = 1 then [(1, 1), (8, 0)] else (1, 1) :: avcScaling lists) ++
    [ue 4, ue 0, ue 4, ue d.1, (1, 1), ue (c.width / 16 - 1), ue (c.codedLines / 16 - 1)] ++
    (if c.fields then [(1, 0), (1, 0)] else [(1, 1)]) ++ [(1, 1)] ++
    (if c.cropUnits = 0 then [(1, 0)] else [(1, 1), ue 0, ue 0, ue 0, ue c.cropUnits]) ++
    [(1, 1)] ++ c.signal ++ [(1, 1)] ++ c.timing ++
    [(1, 1), (1, 0), (1, 0), flag c.picStruct, (1, 1), (1, 1), ue 0, ue 0, ue 11, ue 10, ue d.2.2, ue d.2.1])

/-- The PPS of AVC (R106). -/
def ChannelCfg.avcPps (c : ChannelCfg) : List Nat :=
  nalUnit (avcNal 3 8) [ue 0, ue 0, (1, 1), (1, 0), ue 0, ue c.refDefault, ue c.refDefault, (1, 0), (2, 0), se 0, se 0, se c.cbOff, (1, 1), (1, 0), (1, 0),
    uf 1 c.avc8x8, (1, 0), se c.crOff]

/-- The parameter sets in order (R97, R99). -/
def Channel.paramSets (x : Channel) : List (List Nat) :=
  if x.cfg.codec = 0 then [x.cfg.vps, x.cfg.hevcSps x.lists, x.cfg.hevcPps] else [x.cfg.avcSps x.lists, x.cfg.avcPps]

/-! ## Slice segment headers (R107–R109, R140) -/

/-- The reference picture set of picture `p` as coded in the header (R108): its references, flagged as used, and every picture that a later one
still needs. -/
def Channel.rps (x : Channel) (p : Nat) : BitFields :=
  let y := x.pic p
  let used := y.refs0 ++ y.refs1
  let neg := (y.kept.filter (· < p)).insertionSort (fun a b => b ≤ a)
  let pos := (y.kept.filter (p < ·)).insertionSort (fun a b => a ≤ b)
  let code (from_ : Nat) (l : List Nat) : BitFields :=
    (l.foldl (fun (a : BitFields × Nat) q => (a.1 ++ [ue ((max a.2 q - min a.2 q) - 1), flag (used.contains q)], q)) ([], from_)).1
  [ue neg.length, ue pos.length] ++ code p neg ++ code p pos

/-- slice_type (R107). -/
def sliceType (codec ptype : Nat) : Nat :=
  let t := if ptype ≤ 2 then 2 else if ptype = 3 then 1 else 0
  if codec = 0 then t else [6, 5, 7].getD t 7

/-- Bits that hold a value below `n`. -/
def bitsFor (n : Nat) : Nat := if n ≤ 1 then 0 else Nat.log2 (n - 1) + 1

/-- CTU rows of a band. -/
def ChannelCfg.ctuRows (c : ChannelCfg) (b : Nat) : Nat := (c.bandCoded b + c.ctbSize - 1) / c.ctbSize

/-- The entry point fields of a band (R89, R107): with WPP = 1 one offset for each CTU row after the first, each the bytes of the row before it, in the
smallest length that holds the largest. While the rows' bytes are not known they take the bits of Config; those of a floor band are fixed in advance
(R140). -/
def ChannelCfg.entryFields (c : ChannelCfg) (b : Nat) (rows : List Nat) : BitFields :=
  if c.wpp = 0 then []
  else if c.ctuRows b ≤ 1 then [ue 0]
  else if rows = [] then [(Config.entryPointBits (c.ctuRows b), 0)]
  else
    let offs := (rows.take (c.ctuRows b - 1)).map fun v => v - 1
    let n := max 1 (bitsFor (offs.foldl max 0 + 1))
    [ue (c.ctuRows b - 1), ue (n - 1)] ++ offs.map (uf n)

/-- The HEVC slice segment header of band `b` of picture `p` at a QP (R107), with the bytes of its CTU rows where they are known; a floor band's has SAO
off and is independent (R140). -/
def Channel.hevcHeader (x : Channel) (p b : Nat) (qp : Int) (floor : Bool) (rows : List Nat) : BitFields :=
  let c := x.cfg
  let y := x.pic p
  let ctbs := c.width / c.ctbSize * ((c.codedLines + c.ctbSize - 1) / c.ctbSize)
  let dep := decide (c.depSeg = 1) && decide (0 < b) && !floor
  let inter := decide (3 ≤ y.ptype)
  let ovr := inter && (decide (y.refs0.length ≠ c.refDefault + 1) || (decide (y.ptype = 4) && decide (y.refs1.length ≠ c.refDefault + 1)))
  let sao := decide (c.sao = 1) && !floor
  [flag (decide (b = 0))] ++ (if y.ptype = 1 then [(1, 0)] else []) ++ [ue 0] ++
  (if b = 0 then [] else (if c.depSeg = 1 then [flag dep] else []) ++ [uf (bitsFor ctbs) (b * (c.bandLines / c.ctbSize) * (c.width / c.ctbSize))]) ++
  (if dep then [] else
    [ue (sliceType 0 y.ptype)] ++
    (if y.ptype = 1 then [] else [uf 8 y.poc.toNat, (1, 0)] ++ x.rps p ++ (if c.tmvp = 1 then [(1, 1)] else [])) ++
    (if c.sao = 1 then [flag sao, flag sao] else []) ++
    (if inter then
      (if ovr then [(1, 1), ue (y.refs0.length - 1)] ++ (if y.ptype = 4 then [ue (y.refs1.length - 1)] else []) else [(1, 0)]) ++
      (if y.ptype = 4 then [(1, 0)] else []) ++
      (if c.tmvp = 1 then (if y.ptype = 4 then [(1, 1)] else []) ++ (if 1 < y.refs0.length then [ue 0] else []) else []) ++
      [ue (5 - c.mergeCands)]
    else []) ++
    [se (qp - 26)] ++ (if c.loopAcross = 1 ∧ (sao = true ∨ c.deblock = 1) then [(1, 1)] else [])) ++
  c.entryFields b rows

/-- CurrPicNum of picture `p` less picNum of reference `q`, below the largest (H.264): frame numbers of frames; of fields, twice the frame
number, and one more for the parity of `p`. -/
def Channel.picNumDiff (x : Channel) (p a q : Nat) : Nat :=
  let num (r : Nat) : Nat := if x.cfg.fields then 2 * (x.pic r).frameNum + (if r % 2 = p % 2 then 1 else 0) else (x.pic r).frameNum
  let m := if x.cfg.fields then 512 else 256
  (num a + m - num q) % m

/-- Reference list modification and marking after an uncommitted picture (R109): each list names its references by their
difference in picture number, and operation 1 removes each uncommitted reference. -/
def Channel.avcModify (x : Channel) (p : Nat) (refs : List Nat) : BitFields :=
  let y := x.pic p
  if y.dropped = [] then [(1, 0)]
  else
    let code := (refs.foldl (fun (a : BitFields × Nat) q =>
      (a.1 ++ [ue 0, ue (x.picNumDiff p a.2 q - 1)], q)) ([], p)).1
    [(1, 1)] ++ code ++ [ue 3]

/-- The AVC slice header of band `b` (R107). -/
def Channel.avcHeader (x : Channel) (p b : Nat) (qp : Int) : BitFields :=
  let c := x.cfg
  let y := x.pic p
  let ovr := decide (3 ≤ y.ptype) && (decide (y.refs0.length ≠ c.refDefault + 1) || (decide (y.ptype = 4) && decide (y.refs1.length ≠ c.refDefault + 1)))
  [ue (b * (c.bandLines / 16) * (c.width / 16)), ue (sliceType 1 y.ptype), ue 0, uf 8 y.frameNum] ++
  (if c.fields then [(1, 1), flag (decide (p % 2 ≠ c.fieldOrder))] else []) ++
  (if y.ptype = 1 then [ue (y.idrId % 65536)] else []) ++ [uf 8 y.poc.toNat] ++
  (if y.ptype = 4 then [(1, 1)] else []) ++
  (if 3 ≤ y.ptype then
    (if ovr then [(1, 1), ue (y.refs0.length - 1)] ++ (if y.ptype = 4 then [ue (y.refs1.length - 1)] else []) else [(1, 0)]) ++
    x.avcModify p y.refs0 ++ (if y.ptype = 4 then x.avcModify p y.refs1 else [])
  else []) ++
  (if y.ptype = 1 then [(2, 0)]
   else if y.isRef then
    (if y.dropped = [] then [(1, 0)] else [(1, 1)] ++ (y.dropped.flatMap fun q => [ue 1, ue (x.picNumDiff p p q - 1)]) ++ [ue 0])
   else []) ++
  (if 3 ≤ y.ptype then [ue 0] else []) ++ [se (qp - 26)] ++
  (if c.deblock = 0 then [ue 1] else [ue (if c.loopAcross = 1 then 0 else 2), se c.tcOfs, se c.betaOfs])

/-! ## SEI (R110–R113) and the access unit's other NAL units (R97) -/

/-- An SEI message: type, size, payload bytes. -/
def seiMessage (t : Nat) (payload : List Nat) : List Nat := [t, payload.length] ++ payload

/-- Payload bits closed to whole bytes: a one bit and zeros where they do not end on a byte. -/
def seiPayload (b : BitFields) : List Nat := if bitCount b % 8 = 0 then bitBytes b else bitBytes (b ++ [(1, 1)])

/-- The local offset in force at a time (ns) (R111). -/
def TimeCodeCfg.offsetAt (t : TimeCodeCfg) (ns : Nat) : Int :=
  if t.nextJump ≠ 0 ∧ 1000000000 * t.nextJump ≤ ns then t.localOffset + t.jumpSeconds else t.localOffset

/-- Drop-frame rates (R111). -/
def dropRate (r : Nat) : Bool := decide (r = 3) || decide (r = 6) || decide (r = 9)

/-- Frames in a second as they are counted, and numbers dropped at the start of a minute (R111). -/
def countRate (r : Nat) : Nat := ((rateND r).1 + (rateND r).2 - 1) / (rateND r).2
def dropCount (r : Nat) : Nat := if r = 3 then 2 else if r = 6 then 4 else if r = 9 then 8 else 0

/-- The count of frames from midnight that a second of the day begins with, the dropped numbers left out. -/
def frameCount (r sec : Nat) : Nat := countRate r * sec - dropCount r * (sec / 60 - sec / 600)

/-- Hours, minutes, seconds and frames of a count of frames from midnight, as 2^24·h + 2^18·m + 2^12·s + f: drop-frame labels pass over the
first numbers of each minute that is no multiple of ten. -/
def frameAddress (r n : Nat) : Nat :=
  let f := countRate r
  let d := dropCount r
  let n := n % frameCount r 86400
  let ten := frameCount r 600
  let k := n % ten
  let lost := 9 * d * (n / ten) + (if k < 60 * f then 0 else d * ((k - 60 * f) / (60 * f - d) + 1))
  let v := n + lost
  let s := v / f
  2 ^ 24 * (s / 3600) + 2 ^ 18 * (s / 60 % 60) + 2 ^ 12 * (s % 60) + v % f

/-- The latest daily jam (s) at or before ns `ns`, and the local offset of its address (R111): the day of NEXT_JAM, with PREV_JAM_OFFSET before
it has come; with no NEXT_JAM, local midnight. How ST 2059-1 uses the two values is PRESUMED (log 132). -/
def TimeCodeCfg.jamAt (t : TimeCodeCfg) (ns : Nat) : Int × Int :=
  let s : Int := (ns / 1000000000 : Nat)
  if t.nextJam = 0 then
    let o := t.offsetAt ns - (t.utcOffset : Int)
    ((s + o) / 86400 * 86400 - o, t.offsetAt ns)
  else
    let j : Int := (t.nextJam : Int) + (s - (t.nextJam : Int)) / 86400 * 86400
    (j, if j < (t.nextJam : Int) then t.prevJamOffset else t.offsetAt (1000000000 * j.toNat))

/-- The time address at t_pic, in τ (R111). At a rate of whole frames a second it is the local time of day; at the others the frames are
counted on from the daily jam. -/
def TimeCodeCfg.address (t : TimeCodeCfg) (rate tau : Nat) : Nat :=
  let nd := rateND rate
  let ns := tau / tauNs
  let f := countRate rate
  if nd.2 = 1000 ∨ nd.2 = 1 then
    let l := (ns : Int) / 1000000000 - (t.utcOffset : Int) + t.offsetAt ns
    frameAddress rate (f * (l % 86400).toNat + tau % tauSec * f / tauSec)
  else
    let j := t.jamAt ns
    let first := (j.1.toNat * nd.1 + nd.2 - 1) / nd.2
    frameAddress rate (frameCount rate ((j.1 - (t.utcOffset : Int) + j.2) % 86400).toNat + ((tau * nd.1 / nd.2 + tauSec / 2) / tauSec - first))

/-- The clock timestamp's fields from counting_type on (R111); `w` is the width of n_frames. For FORMAT 2 both fields carry the
frame's address. -/
def Channel.clockTs (x : Channel) (p w : Nat) : BitFields :=
  let y := x.pic p
  let t := y.tc.getD {}
  let q := if x.cfg.fields then p / 2 * 2 else p
  let v := t.address x.cfg.rate (x.tPic q)
  [flag x.cfg.fields, (5, if dropRate x.cfg.rate then 4 else 0), (1, 1), (1, 0), flag (dropRate x.cfg.rate), uf w v,
   uf 6 (v / 2 ^ 12), uf 6 (v / 2 ^ 18), uf 5 (v / 2 ^ 24)]

/-- pic_struct: 0 frame, 1 top field, 2 bottom field (R110). -/
def Channel.picStructOf (x : Channel) (p : Nat) : Nat :=
  if x.cfg.fields = false then 0 else if p % 2 = x.cfg.fieldOrder then 1 else 2

/-- Sweep length S of the refresh column (R90). -/
def ChannelCfg.sweep (c : ChannelCfg) : Nat :=
  let cols := c.width / c.ctbSize
  let w := (cols + c.irPeriod - 1) / c.irPeriod
  (cols + w - 1) / w

/-- Picture `p` is the first of an intra refresh cycle (R90, R112). -/
def Channel.cycleStart (x : Channel) (p : Nat) : Bool :=
  decide (2 ≤ x.cfg.irPeriod) && decide ((x.pic p).cycleK = 0) && decide ((x.pic p).ptype ≠ 1)

/-- The samples of a component as the hash's bytes: one byte a sample at 8 bits, two above. -/
def Channel.planeBytes (x : Channel) (p comp : Nat) : List Nat :=
  let c := x.cfg
  let w := if comp = 0 then c.width else c.width / c.subH
  let h := if comp = 0 then c.codedLines else c.codedLines / c.subV
  (List.range (w * h)).flatMap fun i =>
    let v := SMap.get (fun _ => 0) (x.pic p).rebuilt (sampleKey comp (i % w) (i / w))
    if c.depth = 8 then [v % 256] else [v % 256, v / 256]

/-- The hash of every component of picture `p` (R110, R113). -/
def Channel.hashBytes (x : Channel) (p : Nat) : List Nat :=
  [0, 1, 2].flatMap fun k => pictureHash x.cfg.hash x.cfg.width 1 (x.planeBytes p k)

/-- Big-endian bytes. -/
def beBytes (n v : Nat) : List Nat := (List.range n).map fun i => v / 256 ^ (n - 1 - i) % 256

/-- The vendor user data of picture `p` (R113): `prev` is the previous picture in coding order. -/
def Channel.vendorSei (x : Channel) (p : Nat) (prev : Option Nat) : List Nat :=
  let c := x.cfg
  let ok := match prev with | some q => !(x.pic q).uncommitted | none => false
  let kind := if c.codec = 0 then 0 else c.hash
  let bands := match prev with | some q => (List.range 136).map (fun b => decide (((x.pic q).band b).filled ≠ 0)) | none => List.replicate 136 false
  let filled := match prev with | some q => ((x.pic q).bands.map (fun (e : Nat × Band) => e.2.filled)).sum | none => 0
  [0x6d, 0x4b, 0x38, 0x31, 0x32, 0x38, 0x47, 0x79, 0x9f, 0x6e, 0x6f, 0x2d, 0x55, 0x44, 0x41, 0x31] ++
  [1, b2n prev.isSome + 2 * b2n ok + 4 * kind] ++ beBytes 4 (x.pic p).plan.id ++ beBytes 4 (prev.getD 0) ++ beBytes 4 filled ++
  bitBytes (bands.map flag) ++ (if kind ≠ 0 ∧ ok = true then x.hashBytes (prev.getD 0) else [])

/-- The SEI messages before the slices (R110). -/
def Channel.seiBefore (x : Channel) (p : Nat) (prev : Option Nat) : List Nat :=
  let c := x.cfg
  (if c.codec = 0 ∧ c.fields = true then seiMessage 1 (seiPayload [uf 4 (x.picStructOf p), (2, 0), (1, 0)]) else []) ++
  (if c.codec = 1 ∧ c.picStruct = true then
    seiMessage 1 (seiPayload ([uf 4 (x.picStructOf p)] ++ (if c.tcSei = 1 then [(1, 1), (2, 0)] ++ x.clockTs p 8 else [(1, 0)]))) else []) ++
  (if x.cycleStart p then seiMessage 6 (seiPayload (if c.codec = 0 then [se (c.sweep - 1), (1, 1), (1, 0)] else [ue (if c.fields then (c.sweep - 1 + p % 2) / 2 else c.sweep - 1), (1, 1), (1, 0), (2, 0)])) else []) ++
  (if c.codec = 0 ∧ c.tcSei = 1 then seiMessage 136 (seiPayload ([(2, 1), (1, 1)] ++ x.clockTs p 9 ++ [(5, 0)])) else []) ++
  (if c.vsei = 1 then seiMessage 5 (x.vendorSei p prev) else [])

/-- The NAL units before band 0 of picture `p` (R97, positions 1–5). -/
def Channel.unitsBefore (x : Channel) (p : Nat) (prev : Option Nat) : List (List Nat) :=
  let c := x.cfg
  let y := x.pic p
  let kind := if y.ptype ≤ 2 then 0 else if y.ptype = 3 then 1 else 2
  let sei := x.seiBefore p prev
  (if c.aud = 1 then [nalUnit (if c.codec = 0 then hevcNal 35 else avcNal 0 9) [(3, kind)]] else []) ++
  (if y.ptype = 1 ∨ x.cycleStart p = true then x.paramSets else []) ++
  (if sei = [] then [] else [nalUnit (if c.codec = 0 then hevcNal 39 else avcNal 0 6) (sei.map fun v => (8, v))])

/-- The NAL units after the last band (R97, position 7): the decoded picture hash of HEVC. -/
def Channel.unitsAfter (x : Channel) (p : Nat) : List (List Nat) :=
  if x.cfg.codec = 0 ∧ x.cfg.hash ≠ 0 then
    [nalUnit (hevcNal 40) ((seiMessage 132 ([x.cfg.hash - 1] ++ x.hashBytes p)).map fun v => (8, v))]
  else []

/-- Bits of the non-VCL NAL units of picture `p` (R123, R133). -/
def Channel.nonVclBits (x : Channel) (p : Nat) (prev : Option Nat) : Nat :=
  8 * (((x.unitsBefore p prev) ++ (x.unitsAfter p)).map List.length).sum

end Sys2Proof.Machine
end

