-- ==== Sys2Proof/Machine/FloorForm.lean ====
section
/-!
DEFINITION. What the standards' processes take from a band; the floor form of an HEVC band (R140), whose coded size is fixed in advance, and the size of a slice
segment header (R137, R141).
-/
namespace Sys2Proof.Machine

/-- The first luma lines of the slices of a picture up to band `b` (R89, R140): with DEP_SEG = 1 a slice goes on over bands, and a floor band begins one.
`floor`: band `b` is a floor band. -/
def Channel.sliceTops (x : Channel) (p b : Nat) (floor : Bool) : List Nat :=
  ((List.range (b + 1)).filter fun k => decide (k = 0) || decide (x.cfg.depSeg = 0) || decide (x.cfg.codec = 1) ||
    (if k = b then floor else ((x.pic p).band k).floor)).map x.cfg.bandTop

/-- What the standards' processes take from band `b` of picture `p`, coded at a QP, as a floor band or not. -/
def Channel.codeFmtAs (x : Channel) (p b : Nat) (qp : Int) (floor : Bool) : CodeFmt :=
  let c := x.cfg
  let y := x.pic p
  { codec := c.codec, chroma := c.chroma, depth := c.depth, width := c.width, height := c.codedLines, ctb := c.ctbSize, minCu := c.minCu, maxTu := c.maxTu,
    depthIntra := c.tuDepthIntra, depthInter := c.tuDepthInter, t8x8 := c.avc8x8, mergeCands := c.mergeCands, tmvp := c.tmvp, sdh := c.sdh,
    tskip := c.tskip, scaling := c.scaling, lists := x.lists, cbOff := c.cbOff, crOff := c.crOff, deblock := c.deblock, betaOff := c.betaOfs, tcOff := c.tcOfs,
    across := c.loopAcross, sao := if floor then 0 else c.sao, cuQpDelta := c.cuQpDelta, wpp := c.wpp, depSeg := c.depSeg, fields := c.fields, ptype := y.ptype,
    parity := p % 2, active0 := y.refs0.length, active1 := y.refs1.length, qp := qp, bandLines := c.bandLines, tops := x.sliceTops p b floor }

/-- What the standards' processes take from band `b` of picture `p`. -/
def Channel.codeFmt (x : Channel) (p b : Nat) : CodeFmt := x.codeFmtAs p b ((x.pic p).band b).qp ((x.pic p).band b).floor

/-! ## Coding a CTU (R64, R89) -/

/-- The zero bytes a run of bytes ends in, after `z` zero bytes before it. -/
def trailingZeros (z : Nat) (l : List Nat) : Nat := l.foldl (fun n b => if b = 0 then n + 1 else 0) z

/-- What E0's bin engines carry from CTU to CTU: the context states, and those saved for WPP. -/
structure BinState where
  ctx    : List Nat
  ctxWpp : List Nat

/-- E0's bin engines code a CTU of band `b` (R64, R89): a CTU row of WPP after the first begins with the states saved after the second CTU of the row above.
Answers the states, the bytes, and whether a row of WPP has ended. -/
def ChannelCfg.codeCtu (c : ChannelCfg) (f : CodeFmt) (m : MotionCtx) (b : Nat) (z : BinState) (code : CtuCode) (last : Bool) : BinState × List Nat × Bool :=
  let col := code.x / c.ctbSize
  let wpp := decide (c.codec = 0) && decide (c.wpp = 1)
  let from_ := if wpp && decide (col = 0) && decide (c.bandTop b < code.y) then z.ctxWpp else z.ctx
  let r := Config.entropy f m from_ (.ctu code last)
  let rowEnd := wpp && decide (col + 1 = c.width / c.ctbSize) && !last
  let e := if rowEnd then Config.entropy f m r.1 .rowEnd else (r.1, [])
  ({ ctx := e.1, ctxWpp := if wpp && decide (col = 1) then r.1 else z.ctxWpp }, r.2 ++ e.2, rowEnd)

/-! ## The floor form of an HEVC band (R140) -/

/-- The chroma blocks of a luma area of `n` samples: in 4:2:2 of HEVC two squares, one above the other; of AVC one block of twice its width
in height. -/
def ChannelCfg.chromaBlocks (c : ChannelCfg) (x y n : Nat) : List TBlock :=
  let m := n / c.subH
  [1, 2].flatMap fun k =>
    let t : TBlock := { comp := k, x := x / c.subH, y := y / c.subV, n := m }
    if c.chroma = 2 then (if c.codec = 1 then [{ t with tall := true }] else [t, { t with y := t.y + m }]) else [t]

/-- The blocks of a leaf: luma, then chroma, which a 4 × 4 leaf has in 4:4:4 alone. -/
def ChannelCfg.leafBlocks (c : ChannelCfg) (x y n : Nat) : List TBlock :=
  { comp := 0, x := x, y := y, n := n } :: (if n = 4 ∧ c.chroma ≠ 3 then [] else c.chromaBlocks x y n)

/-- The transform tree of a floor unit: split where it is larger than MAX_TU. -/
def ChannelCfg.floorTree (c : ChannelCfg) (k x y n : Nat) : TuTree :=
  match k with
  | 0 => .leaf (c.leafBlocks x y n)
  | j + 1 =>
    if n ≤ (if c.maxTu = 0 then 32 else 16) then .leaf (c.leafBlocks x y n)
    else
      let h := n / 2
      .split (ChannelCfg.floorTree c j x y h) (ChannelCfg.floorTree c j (x + h) y h) (ChannelCfg.floorTree c j x (y + h) h) (ChannelCfg.floorTree c j (x + h) (y + h) h) []

/-- A CU of a floor band, without the motion that it derives: skip with merge index 0; of an I slice luma DC, chroma 4, no residual. -/
def ChannelCfg.floorCu (c : ChannelCfg) (intra : Bool) (x y n : Nat) : CodedUnit :=
  if intra then { x := x, y := y, size := n, cls := 3, form := 6, modes := [1], chromaModes := [4], qp := 51, tree := c.floorTree 2 x y n }
  else { x := x, y := y, size := n, cls := 0, form := 1, merge := some 0, qp := 51 }

/-- The coding tree of a CTU of a floor band: the CTB whole, or the CUs of the inferred split where the picture's bottom cuts it. -/
def ChannelCfg.floorCuTree (c : ChannelCfg) (intra : Bool) (k x y n : Nat) : CuTree :=
  if c.codedLines ≤ y then .outside
  else match k with
    | 0 => .leaf (c.floorCu intra x y n)
    | j + 1 =>
      if y + n ≤ c.codedLines then .leaf (c.floorCu intra x y n)
      else
        let h := n / 2
        .split (ChannelCfg.floorCuTree c intra j x y h) (ChannelCfg.floorCuTree c intra j (x + h) y h) (ChannelCfg.floorCuTree c intra j x (y + h) h)
          (ChannelCfg.floorCuTree c intra j (x + h) (y + h) h)

/-- The CTUs of a floor band. -/
def Channel.floorCtus (x : Channel) (p b : Nat) : List CtuCode :=
  let c := x.cfg
  let cols := c.width / c.ctbSize
  (List.range (cols * c.ctuRows b)).map fun k =>
    let at_ := (k % cols * c.ctbSize, c.bandTop b + k / cols * c.ctbSize)
    { x := at_.1, y := at_.2, tree := c.floorCuTree (decide ((x.pic p).ptype ≤ 2)) 3 at_.1 at_.2 c.ctbSize }

/-- The units of a tree. -/
def CuTree.units (t : CuTree) : List CodedUnit :=
  match t with
  | .outside => []
  | .leaf u => [u]
  | .split a b c d => a.units ++ b.units ++ c.units ++ d.units

/-- What stands around the CUs of a floor band: they write no vector, and their neighbours lie in the band. -/
def Channel.floorCtx (x : Channel) (p b : Nat) : MotionCtx := { units := (x.floorCtus p b).flatMap fun k => k.tree.units }

/-- The bytes of each CTU row of a floor band with WPP = 1, emulation prevention included. -/
def Channel.floorRows (x : Channel) (p b : Nat) : List Nat :=
  let f := x.codeFmtAs p b 51 true
  let ctx := Config.ctxInit f
  let l := x.floorCtus p b
  let r := (List.range l.length).foldl (fun (r : BinState × Nat × List (List Nat)) k =>
    let o := x.cfg.codeCtu f (x.floorCtx p b) b r.1 (l.getD k { x := 0, y := 0 }) (decide (k + 1 = l.length))
    let bs := preventEmulation r.2.1 o.2.1
    let rows := r.2.2.dropLast ++ [r.2.2.getLast?.getD [] ++ bs]
    (o.1, trailingZeros r.2.1 bs, if o.2.2 then rows ++ [[]] else rows)) (({ ctx := ctx, ctxWpp := ctx } : BinState), 0, [])
  r.2.2.map List.length

/-! ## The size of a slice segment header (R137, R141) -/

/-- A band whose header waits for the sizes of its CTU rows (R89, R107). -/
def ChannelCfg.holdsRows (c : ChannelCfg) (b : Nat) : Bool := decide (c.codec = 0) && decide (c.wpp = 1) && decide (1 < c.ctuRows b)

/-- Bytes of a slice segment header with its alignment (R137, R141): that of a floor band has the sizes of its rows, which are fixed in advance. -/
def Channel.headerBytes (x : Channel) (p b : Nat) (qp : Int) (floor : Bool) : Nat :=
  let rows := if floor = true ∧ x.cfg.holdsRows b = true then x.floorRows p b else []
  if x.cfg.codec = 0 then (bitCount (x.hevcHeader p b qp floor rows) + 8) / 8 else (bitCount (x.avcHeader p b qp) + 7) / 8

end Sys2Proof.Machine
end

