-- ==== Sys2Proof/Machine/RateCtl.lean ====
section
/-!
DEFINITION. Rate control: the rate-control vector (R125, R126), plans (R128–R134), the vendor controller (R135), the in-picture
rule (R136, R137), the guard (R138) and floor costs (R140–R142).
-/
namespace Sys2Proof.Machine

/-- The shared-window offset of channel `c`'s rate-control vector (R125) and of its plan mailbox (R130). -/
def rcvBase (c : Nat) : Nat := 0x400000 + 0x1000 * c
def mailboxBase (c : Nat) : Nat := 0x480000 + 0x400 * c

/-- Writes to the vector and to its host copy (R125, R126). -/
def State.rcvWrite (s : State) (c ofs n v : Nat) : State :=
  let s := s.shwWrite (rcvBase c + ofs) n v
  let a := (s.channel c).cfg.rcvAddr
  if a = 0 then s else s.hostWrite (a + ofs) n v

/-- A band's entry (R125). QP of a SKIPPED band, and of one abandoned before its pre-analysis, has no value in the manual: 0 is written (DESIGN
CHOICE, log 131). -/
def Band.rcvEntry (u : Band) (p : Nat) : Nat :=
  packFields [(32, p), (32, u.cplx.getD 0), (32, if u.coded then u.sliceBits else 0), (7, if u.coded ∨ u.state = .abandoned then ofSigned 7 u.qp else 0), (1, 0),
    (1, b2n u.coded), (1, b2n (u.coded && u.floor)), (1, b2n u.guard), (1, b2n (u.state = .abandoned)), (1, b2n (u.state = .skipped))]

/-- Writes a band's whole entry, at readiness (R126). -/
def State.rcvReady (s : State) (i : BandId) : State :=
  s.rcvWrite i.ch (0x40 + 16 * i.b) 16 ((s.band i).rcvEntry i.pic)

/-- Writes +0x08 to +0x0F of a band's entry, at its outcome (R126). -/
def State.rcvOutcome (s : State) (i : BandId) : State :=
  s.rcvWrite i.ch (0x48 + 16 * i.b) 8 ((s.band i).rcvEntry i.pic / 2 ^ 64)

/-- A band has an outcome: CODED, ABANDONED or SKIPPED. -/
def Band.hasOutcome (u : Band) : Bool :=
  match u.state with
  | .coded => true
  | .sent => true
  | .abandoned => true
  | .skipped => true
  | .retired => true
  | _ => false

/-- The bands of a picture, and a sum over them. -/
def Channel.bandsOf (x : Channel) (p : Nat) : List Band := (List.range (x.cfgOf p).bandCount).map (x.pic p).band
def Channel.sumBands (x : Channel) (p : Nat) (f : Band → Nat) : Nat := ((x.bandsOf p).map f).sum

/-- Slice bits, complexity and MEAN_QP of a picture (R125). -/
def Channel.picBits (x : Channel) (p : Nat) : Nat := x.sumBands p fun u => if u.coded then u.sliceBits else 0
def Channel.picCplx (x : Channel) (p : Nat) : Nat := x.sumBands p fun u => u.cplx.getD 0
def Channel.meanQp (x : Channel) (p : Nat) : Int :=
  let l := (x.bandsOf p).filter fun u => u.coded && !u.floor
  let m : Int := (l.length : Nat)
  if l = [] then 51 else ((l.map Band.qp).sum + m / 2) / m

/-- Class of a type: IDR and I on one side, P and B on the other (R135). -/
def intraClass (t : Nat) : Bool := decide (t ≤ 2)

/-- The picture before `p` in coding order: in GOP 3 too it is `the previous picture of the channel` of R136, which names no order (DESIGN CHOICE,
log 131). -/
def Channel.prevOf (x : Channel) (p : Nat) : Option Nat :=
  match x.posOf p with | 0 => none | k + 1 => some (x.picAt k)

/-- The NAL units of picture `p` around its slices: as they were packed, else as they stand. -/
def Channel.leadUnits (x : Channel) (p : Nat) : List (List Nat) := if (x.pic p).lead = [] then x.unitsBefore p (x.prevOf p) else (x.pic p).lead
def Channel.tailUnits (x : Channel) (p : Nat) : List (List Nat) := if (x.pic p).tail = [] then x.unitsAfter p else (x.pic p).tail

/-- Bits of the non-VCL units of a picture (R125): those packed, or before that those that its naming fixed (R133). -/
def Channel.nonVclOf (x : Channel) (p : Nat) : Nat :=
  if (x.pic p).lead = [] ∧ (x.pic p).tail = [] then (x.pic p).nonVcl else 8 * ((x.leadUnits p ++ x.tailUnits p).map List.length).sum

/-- The latest DONE committed picture of a class (R135). -/
def Channel.lastOfClass (x : Channel) (intra : Bool) : Option Nat :=
  ((x.pics.filter fun (e : Nat × Pic) => e.2.doneHdr && !e.2.uncommitted && (intraClass e.2.ptype == intra)).map Prod.fst).foldl
    (fun best q => match best with | none => some q | some b => if x.posOf b < x.posOf q then some q else some b) none

/-- The latest picture before `p` in coding order that has the property. -/
def Channel.lastBefore (x : Channel) (p : Nat) (f : Nat → Bool) : Option Nat :=
  ((List.range (x.posOf p)).reverse.map x.picAt).find? f

/-! ## Floor costs (R140, R141) -/

/-- Floor units of a CTU that the picture bottom cuts (R141), by the lines of it that lie inside. -/
def cutUnits (ctb rem : Nat) : Nat := if rem = 0 then 1 else if 4 * rem = ctb then 4 else if 2 * rem = ctb then 2 else 6

/-- u(b) (R141). -/
def ChannelCfg.floorUnits (c : ChannelCfg) (b : Nat) : Nat :=
  let cols := c.width / c.ctbSize
  let h := c.bandCoded b
  cols * (h / c.ctbSize + (if h % c.ctbSize = 0 then 0 else cutUnits c.ctbSize (h % c.ctbSize)))

/-- sa, pu and g of a slice kind (R141). -/
def floorRates (codec : Nat) (intra : Bool) : Nat × Nat × Nat :=
  if codec = 0 then (if intra then (24, 4, 72) else (16, 1, 25)) else (if intra then (24, 3, 62) else (12, 1, 13))

/-- nh (R137). -/
def nalBytes (codec : Nat) : Nat := if codec = 0 then 2 else 1

/-- f(b), in bits (R141). -/
def Channel.floorCost (x : Channel) (p b : Nat) : Nat :=
  let r := floorRates x.cfg.codec (intraClass (x.pic p).ptype)
  8 * (nalBytes x.cfg.codec + x.headerBytes p b 51 true + r.1 + (x.cfg.floorUnits b * r.2.1 + 7) / 8)

/-- Sum of f(k) over bands [lo, hi). -/
def Channel.floorSum (x : Channel) (p lo hi : Nat) : Nat := ((List.range (hi - lo)).map fun k => x.floorCost p (lo + k)).sum

/-- gfl(b) (R137). -/
def Channel.guardFloor (x : Channel) (p b : Nat) (qp : Int) : Nat :=
  let r := floorRates x.cfg.codec (intraClass (x.pic p).ptype)
  8 * (nalBytes x.cfg.codec + x.headerBytes p b qp false + (3 * ((r.2.2 * x.cfg.floorUnits b + 32 + 7) / 8) + 1) / 2)

/-! ## The in-picture rule (R136, R137) -/

/-- x · s(d) (R136): the scale's table entry shifted by floor(d / 6). -/
def scaleQp (d : Int) : Nat :=
  let t := [65536, 73562, 82570, 92682, 104032, 116772].getD (d % 6).toNat 65536
  let k := d / 6
  if 0 ≤ k then t * 2 ^ k.toNat else t / 2 ^ (-k).toNat

/-- beff (R136). -/
def Channel.beff (x : Channel) (p : Nat) : Nat := max (x.pic p).plan.budget (x.floorSum p 0 x.cfg.bandCount)

/-- cap of band `b` (R136); a signed quantity. -/
def Channel.cap (x : Channel) (p b : Nat) : Int :=
  let spent := (((List.range b).map fun k => let u := (x.pic p).band k; if u.coded then u.sliceBits else 0).sum : Nat)
  (x.beff p : Int) - spent - (x.floorSum p (b + 1) x.cfg.bandCount : Nat)

/-- w(k) (R136). -/
def Plan.weight (l : Plan) (k : Nat) : Nat := if l.equal then 16 else l.w.getD k 0

/-- What pre-analysis decides for a band: its QP, and whether it is coded in floor mode by rule 1, 2 or 3 of R137. -/
structure PreAnalysis where
  qp     : Int
  floor  : Bool
  enters : Bool
  target : Int
  est    : Nat
deriving DecidableEq, Repr

/-- A floor band or a guard trip in picture `p` breaks the refresh of its cycle (R142). An IDR picture, which begins a cycle and is clean by itself,
breaks none (DESIGN CHOICE, log 146). -/
def Channel.breaksRefresh (x : Channel) (p : Nat) : Bool :=
  decide (2 ≤ x.cfg.irPeriod) && decide ((x.pic p).ptype ≠ 1) && decide ((x.pic p).cycleK + 1 ≤ x.cfg.sweep)

/-- R136 and R137 for band `b` of picture `p`. A band with w(b) = 0 is floored alone, also where condition 3 of R137 holds for it: floor state is
not entered (DESIGN CHOICE, log 131). -/
def Channel.preAnalysis (x : Channel) (p b : Nat) : PreAnalysis :=
  let y := x.pic p
  let n := x.cfg.bandCount
  let c (k : Nat) : Nat := (y.band k).cplx.getD 0
  let prev := x.prevOf p
  let cref (k : Nat) : Nat := match prev with | some q => ((x.pic q).band k).cplx.getD 0 | none => c b
  let cap := x.cap p b
  let fb := x.floorCost p b
  let e (k : Nat) : Nat := y.plan.weight k * (if k = b then c b else cref k)
  let esum := ((List.range (n - b)).map fun k => e (b + k)).sum
  let target : Int := fb + (if esum = 0 then 0 else (cap - fb) * e b / esum)
  let j := ((List.range b).reverse.find? fun k => (y.band k).normal)
  let q := x.lastBefore p fun r => (x.pic r).doneHdr && !(x.pic r).uncommitted && decide (intraClass (x.pic r).ptype = intraClass y.ptype) &&
    (x.bandsOf r).any (fun u => u.coded && !u.floor)
  let kqk : Nat × Int :=
    match j with
    | some k => ((y.band k).sliceBits * 65536 / max (c k) 1, (y.band k).qp)
    | none => match q with
      | some r => (x.picBits r * 65536 / max (x.picCplx r) 1, x.meanQp r)
      | none => (if intraClass y.ptype then 0x8000 else 0x2000, y.plan.baseQp)
  let base := c b * kqk.1 / 65536
  let est (v : Int) : Nat := base * scaleQp (kqk.2 - v) / 65536
  let qprev := match j with | some k => (y.band k).qp | none => y.plan.baseQp
  let lo := max y.plan.qpMin (qprev - 3)
  let hi := min y.plan.qpMax (qprev + 3)
  let qp := (((List.range (hi - lo + 1).toNat).map fun i => lo + (i : Int)).find? fun v => decide ((est v : Int) ≤ target)).getD hi
  let over3 := decide (cap < (max (est qp) (x.guardFloor p b qp) : Nat))
  let w0 := decide (y.plan.weight b = 0)
  if y.floorState then { qp := 51, floor := true, enters := false, target := target, est := est qp }
  else if w0 then { qp := 51, floor := true, enters := false, target := target, est := est qp }
  else if over3 then { qp := 51, floor := true, enters := true, target := target, est := est qp }
  else { qp := qp, floor := false, enters := false, target := target, est := est qp }

/-- The guard's evaluation at a CTU (R138): bytes emitted, the bin bound in flight, and the floor units of the later CTUs. -/
def Channel.guardTrips (x : Channel) (p b emitted inflight unitsAfter : Nat) : Bool :=
  let g := (floorRates x.cfg.codec (intraClass (x.pic p).ptype)).2.2
  let need := emitted + (3 * ((inflight + g * unitsAfter + 32 + 7) / 8) + 1) / 2
  decide (x.cap p b < (8 * need : Nat))

/-! ## Plans (R128–R133) -/

/-- A plan from its 192 bytes (R128). -/
def planOf (v : Nat) : Plan :=
  { id := bitsAt v 0 32, ptype := bitsAt v 40 3, equal := bitAt v 43, picture := bitsAt v 64 32, budget := bitsAt v 96 32,
    baseQp := toSigned 7 (bitsAt v 128 7), qpMin := toSigned 7 (bitsAt v 136 7), qpMax := toSigned 7 (bitsAt v 144 7),
    w := (List.range 135).map fun b => bitsAt v (8 * (0x30 + b)) 8 }

/-- CHANNEL of a plan record. -/
def planChannel (v : Nat) : Nat := bitsAt v 32 7

/-- A QP within −QpBdOffsetY to 51. -/
def ChannelCfg.qpIn (c : ChannelCfg) (q : Int) : Bool := decide (-c.qpBd ≤ q) && decide (q ≤ 51)

/-- τ of a picture's ledger point and of its token's due time (R203); in GOP 3 a further NB picture periods earlier. -/
def Channel.ledgerAt (x : Channel) (p : Nat) : Nat :=
  x.windowOpen p 0 - 24000 * tauNs - (if x.cfg.gop = 3 then x.cfg.nb * x.cfg.periodT else 0)
def Channel.tokenDueAt (x : Channel) (p : Nat) : Nat := x.ledgerAt p + 4000 * tauNs

/-- The ledger point of a picture had passed when a follower lost its leader (R218). -/
def Channel.cutOff (x : Channel) (p : Nat) : Bool := match x.ledgerCut with | some t => decide (x.ledgerAt p ≤ t) | none => false

/-- The next picture (R132, R203, R218): the lowest whose band 0 has not been named and, in a twin, whose ledger point has not passed. -/
def Channel.nextPicture (x : Channel) : Nat :=
  let top := (x.tokens.map fun (e : Nat × Option Token) => e.1).foldl max (x.lastNamed.getD 0)
  ((List.range (top + 16)).find? fun p => !(x.pic p).named && (SMap.get (fun _ => none) x.tokens p).isNone && !x.cutOff p).getD (top + 16)

/-- The status of a received plan (R129, R132) as a code of R301; `bad` codes are BAD_CHANNEL 2, BAD_STATE 3, BAD_FORMAT 4,
BUSY 0x0E, TIMEOUT 0x0F. `source`: the sender is the one RC_SOURCE names, and the device is no follower. -/
def Channel.planStatus (x : Channel) (c v : Nat) (source : Bool) : Nat :=
  let l := planOf v
  if planChannel v ≠ c ∨ x.decode = true then 2
  else if 5 ≤ l.ptype then 4
  else if !(x.cfg.qpIn l.baseQp && x.cfg.qpIn l.qpMin && x.cfg.qpIn l.qpMax) then 4
  else if l.baseQp < l.qpMin ∨ l.qpMax < l.baseQp then 4
  else if x.state ≠ .armed ∧ x.state ≠ .running then 3
  else if source = false then 3
  else if 2 ^ 31 ≤ (2 ^ 32 + l.picture - x.nextPicture % 2 ^ 32) % 2 ^ 32 then 0x0F
  else if x.rc.pending.any (fun o => decide (o.picture = l.picture)) then 3
  else if 4 ≤ x.rc.pending.length then 0x0E
  else 0

/-- Enters a plan (R132). -/
def Channel.enterPlan (x : Channel) (l : Plan) : Channel := { x with rc := { x.rc with pending := x.rc.pending ++ [l] } }

/-- The initial plan (R133). -/
def ChannelCfg.initialPlan (c : ChannelCfg) : Plan :=
  { baseQp := toSigned 7 c.qpInit, qpMin := toSigned 7 c.qpMin, qpMax := toSigned 7 c.qpMax }

/-- floor(bitrate · dp / np) (R133): the average bits of a picture. -/
def ChannelCfg.avgBits (c : ChannelCfg) : Nat :=
  let nd := rateND c.rate
  c.bitrate * nd.2 / (nd.1 * (if c.fields then 2 else 1))

/-- The plan that is carried to picture `p` (R133). -/
def Channel.carriedPlan (x : Channel) (nonvcl : Nat) : Plan :=
  { x.rc.last.getD x.cfg.initialPlan with ptype := 0, budget := x.cfg.avgBits - nonvcl }

/-! ## Types and references (R91–R93, R96, R52) -/

/-- The type of picture `p` by its position (R91, R93), before plan and outcomes. -/
def Channel.posType (x : Channel) (p : Nat) : Nat :=
  if p = 0 then 1
  else if x.cfg.gop = 3 then
    let g := x.cfg.groupOf p
    if p = x.cfg.anchor g then (if x.anchorIdr g then 1 else 3) else (if x.anchorIdr g then 3 else 4)
  else if x.irapDue p then 1
  else if x.cfg.gop = 0 then 2 else if x.cfg.gop = 1 then 3 else 4

/-- A plan's TYPE within R96: IDR always; on GOP 0 P and B become I, on GOP 1 B becomes P; in GOP 3 TYPE 2–4 are ignored and 1
acts at the anchors through `anchorIdr`. -/
def Channel.planType (x : Channel) (p : Nat) (t : Nat) : Nat :=
  let pt := x.posType p
  if x.cfg.gop = 3 ∨ t = 0 then pt
  else if t = 1 ∨ pt = 1 then 1
  else if x.cfg.gop = 0 then 2
  else if x.cfg.gop = 1 ∧ t = 4 then 3
  else t

/-- Committed pictures of the DPB, the most recent first (R52): those not uncommitted. -/
def Channel.committed (x : Channel) : List Nat := x.dpb.filter fun q => !(x.pic q).uncommitted

/-- The references R91 gives picture `p` at its naming, as (list 0, list 1), from the committed pictures. -/
def Channel.refsFor (x : Channel) (p : Nat) : List Nat × List Nat :=
  let d := x.committed
  if x.cfg.gop = 0 then ([], [])
  else if x.cfg.gop = 1 then (d.take x.cfg.nRef, [])
  else if x.cfg.gop = 2 then (d.take x.cfg.nRef, d.take x.cfg.nRef)
  else
    let g := x.cfg.groupOf p
    let a0 := g * x.cfg.groupLen
    let a1 := x.cfg.anchor g
    let o := p - a0
    if p = a1 ∨ x.anchorIdr g = true then
      -- An anchor, or a picture of the run before an IDR anchor: the previous anchors, else the most recent committed picture.
      let anchors := d.filter fun q => decide (q % x.cfg.groupLen = 0) && decide (q ≤ a0)
      -- The first of that run may itself have been coded as an IDR picture (R52): the later ones predict from it.
      let first := d.filter fun q => decide (a0 < q) && decide ((x.pic q).ptype = 1)
      let l := if p = a1 ∧ x.anchorIdr g = false then anchors.take x.cfg.nRef else (if first ≠ [] then first.take 1 else if d.contains a0 then [a0] else d.take 1)
      (if l = [] then d.take 1 else l, [])
    else if x.cfg.nb = 1 then ([a0], [a1])
    else if x.cfg.nb = 2 then (if o = 1 then ([a0], [a1]) else ([a0 + 1], [a1]))
    else if o = 2 then ([a0], [a1])
    else if o = 1 then ([a0], [a0 + 2])
    else ([a0 + 2], [a1])

/-- A picture is a reference (R91): none in GOP 0; in GOP 3 the anchors, the run before an IDR anchor, and B1 of NB 2 or B2 of
NB 3. The run of P pictures before an IDR anchor counts as reference pictures, and so is written TRAIL_R with nal_ref_idc 2, although no picture
reads the last of them: R98 lists as TRAIL_N only GOP 0 I and unreferenced GOP 3 B pictures (DESIGN CHOICE, log 129). -/
def Channel.isReference (x : Channel) (p : Nat) : Bool :=
  if x.cfg.gop = 0 then false
  else if x.cfg.gop ≠ 3 ∨ p = 0 then true
  else
    let g := x.cfg.groupOf p
    let o := p - g * x.cfg.groupLen
    decide (p = x.cfg.anchor g) || x.anchorIdr g || (decide (x.cfg.nb = 2) && decide (o = 1)) || (decide (x.cfg.nb = 3) && decide (o = 2))

/-! ## The vendor controller (R135) -/

/-- Signed clip of R135. -/
def rcClip (x lo hi : Int) : Int := max lo (min hi x)

/-- dq of R135. -/
def rcStep (r : Nat) : Int :=
  if 406 ≤ r then 3 else if 323 ≤ r then 2 else if 287 ≤ r then 1 else if r < 161 then -3 else if r < 203 then -2 else if r < 228 then -1 else 0

/-- The plan of R135 for picture `p`; the fill already counts the latest DONE picture. -/
def Channel.vendorPlan (x : Channel) (p : Nat) : Plan :=
  let a : Int := (x.cfg.avgBits : Nat)
  let nv : Int := match x.rc.lastDone with | some q => (x.nonVclOf q : Nat) | none => 0
  let avg := a - nv
  let t := if x.rc.force.any (fun f => decide (f ≤ p)) && decide (x.cfg.gop ≠ 3) then 1 else x.posType p
  let ratio : Int := if x.cfg.gop = 0 then 16 else if t ≤ 2 then (x.cfg.iRatio : Nat) else if t = 4 then (x.cfg.bRatio : Nat) else 16
  let budget : Int := if avg ≤ 0 then 0 else rcClip (avg * ratio / 16 - x.rc.fill / 4) (avg / 4) (4 * avg)
  let lc := x.lastOfClass (intraClass t)
  let base : Int := match lc with
    | some q => clip (x.meanQp q + rcStep (x.picBits q * 256 / max (x.pic q).plan.budget 1)) (toSigned 7 x.cfg.qpMin) (toSigned 7 x.cfg.qpMax)
    | none => toSigned 7 x.cfg.qpInit
  { id := p % 2 ^ 32, ptype := 0, equal := true, picture := p % 2 ^ 32, budget := budget.toNat, baseQp := base, qpMin := toSigned 7 x.cfg.qpMin, qpMax := toSigned 7 x.cfg.qpMax }

end Sys2Proof.Machine
end

