-- ==== Sys2Proof/Machine/Capture.lean ====
section
/-!
DEFINITION. The entries of a capture ring (R120, R121): what the device writes into them, and the ABANDON entries.
-/
namespace Sys2Proof.Machine

/-- ts(p) (R115). -/
def Channel.rtpTsOf (x : Channel) (p : Nat) : Nat := x.tPic p / 300000000 % 2 ^ 32

/-- The fields of a capture entry that the device writes. -/
structure CaptureInfo where
  pic : Nat
  band : Nat
  ch : Nat
  idr : Bool
  ts : Nat
  seq : Nat
  packets : Nat
  releaseNs : Nat

/-- The 64 bytes of a returned capture entry (R120), from the entry `v` as the host wrote it; its reserved bits are 0 (R13). -/
def captureEntry (v : Nat) (c : CaptureInfo) (len status : Nat) (first last cont abandon gap : Bool) (crc : Nat) : Nat :=
  packFields [(64, bitsAt v 0 64), (24, bitsAt v 64 24), (8, 0), (24, len), (8, status), (32, c.pic), (8, c.band), (7, c.ch), (1, 0), (1, b2n first), (1, b2n last),
    (1, b2n cont), (1, b2n c.idr), (1, b2n abandon), (1, b2n gap), (10, 0), (32, c.ts), (16, c.seq), (16, c.packets), (64, c.releaseNs), (32, crc),
    (160, 0)]

/-- The device-owned entry at the head of an HBR (R120). -/
def State.ownedEntry (s : State) (q : Nat) : Option Nat :=
  if (s.queue q).isEmpty then none
  else
    let v := s.headEntry q
    if bitAt v 480 then some v else none

/-- Returns the entry at the head: OWN = 0 is written with it. -/
def State.returnEntry (s : State) (q v : Nat) : State :=
  let u := s.queue q
  ((s.spaceWrite u.space (u.slot u.head) 64 v).popEntry q).signal q

/-- What the capture entries of a band say. -/
def State.captureInfo (s : State) (i : BandId) : CaptureInfo :=
  let x := s.channel i.ch
  let u := x.pic i.pic |>.band i.b
  { pic := i.pic, band := i.b, ch := i.ch, idr := decide ((x.pic i.pic).ptype = 1), ts := x.rtpTsOf i.pic, seq := u.seqFirst, packets := u.packets.length,
    releaseNs := x.releaseAt i.pic i.b / tauNs }

/-- The ABANDON entry of a band whose OUTCOME is ABANDONED (R121). -/
def State.captureAbandon (s : State) (i : BandId) : State :=
  let x := s.channel i.ch
  let q := x.cfg.captureQid
  if q = 0 ∨ (s.queue q).valid = false then s
  else match s.ownedEntry q with
    | none => s.modChannel i.ch fun x => { x with captureGap := true }
    | some v =>
      (s.returnEntry q (captureEntry v { s.captureInfo i with packets := 0 } 0 St.ok false false false true x.captureGap 0)).modChannel i.ch
        fun x => { x with captureGap := false }

end Sys2Proof.Machine
end

