-- ==== Sys2Proof/Machine/Cells.lean ====
section
/-!
DEFINITION. The cells that carry frames: allocation, chains and their check words (R312, R356).
-/
namespace Sys2Proof.Machine

/-- The arbiter takes the requests that wait, in its order, until it has taken one of owner `o` (R318): what `o` is granted. -/
def State.arbitrate (n : Nat) (s : State) (w : WellSel) (o : Nat) : State × Option Nat :=
  match n, nextOwner (s.well w).waiting (s.well w).lastTaken with
  | k + 1, some q =>
    let s := s.takeRequest w q
    let t := s.serveAlloc w q
    if q ≠ o then State.arbitrate k (t.tellFirmware w q (s.well w).granted.length) w o
    else if (s.well w).granted.length < (t.well w).granted.length then
      (t.modWell w fun x => { x with granted := x.granted.dropLast }, ((t.well w).granted.getLast?).map Prod.snd)
    else (t, none)
  | _, _ => (s, none)

/-- Owner `o` asks well `w` for one buffer and takes it (R317, R318): none where it is refused. -/
def State.alloc (s : State) (w : WellSel) (o : Nat) : State × Option Nat :=
  State.arbitrate ((s.well w).waiting.length + 1) (s.modWell w fun x => { x with waiting := x.waiting ++ [o] }) w o

/-- Cells that a frame of `l` stored bytes takes (R356). -/
def chainLen (l : Nat) : Nat := if l ≤ 2048 then 1 else (l - 2048 + 2039) / 2040 + 1

/-- Frees the cells `l` under owner `o`. -/
def State.freeCells (s : State) (l : List Nat) (o : Nat) : State := l.foldl (fun t i => t.freeBuffer .cell (0x800 * i) o) s

/-- `n` cells for owner `o`, all or none (R357 check 7). -/
def State.allocCells (n : Nat) (s : State) (o : Nat) (got : List Nat) : State × Option (List Nat) :=
  match n with
  | 0 => (s, some got)
  | k + 1 =>
    match s.alloc .cell o with
    | (t, some i) => State.allocCells k t o (got ++ [i])
    | (t, none) => (t.freeCells got o, none)

/-- The chain word of cell `i` (R356). -/
def chainWord (i next : Nat) : Nat := packFields [(16, next), (16, crc16 (packFields [(16, i), (16, next)]) 4), (32, 0)]

/-- Stores a frame's bytes in a chain of cells, with its chain words (R356). -/
def State.storeFrame (s : State) (cells : List Nat) (bytes : List Byte) : State :=
  match cells with
  | [] => s
  | [i] => { s with sram := Memory.writeBytes sramDefault s.sram (0x800 * i) (bytes.take 2048) }
  | i :: j :: rest =>
    let s := { s with sram := Memory.writeBytes sramDefault s.sram (0x800 * i) (bytes.take 2040) }
    State.storeFrame (s.sramWrite (0x800 * i + 0x7F8) 8 (chainWord i j)) (j :: rest) (bytes.drop 2040)

/-- The cells of a chain of `n` from cell `i` on, and whether every chain word passes its check (R356). -/
def State.chainCells (n : Nat) (s : State) (i : Nat) : List Nat × Bool :=
  match n with
  | 0 => ([], true)
  | 1 => ([i], true)
  | k + 2 =>
    let v := s.sramRead (0x800 * i + 0x7F8) 4
    if bitsAt v 16 16 = crc16 (packFields [(16, i), (16, v % 2 ^ 16)]) 4 then
      let r := State.chainCells (k + 1) s (v % 2 ^ 16)
      (i :: r.1, r.2)
    else ([i], false)

/-- The `l` bytes of a frame in a chain. -/
def State.loadFrame (s : State) (cells : List Nat) (l : Nat) : List Byte :=
  (match cells with
    | [] => []
    | _ :: _ =>
      let full := cells.dropLast.flatMap fun i => (List.range 2040).map fun k => Memory.read sramDefault s.sram (0x800 * i + k)
      let last := (cells.getLast?.toList).flatMap fun i => (List.range 2048).map fun k => Memory.read sramDefault s.sram (0x800 * i + k)
      full ++ last).take l

end Sys2Proof.Machine
end

