-- ==== Sys2Proof/Machine/Efq.lean ====
section
/-!
DEFINITION. The queues of egress flows (R371): their entries, and the entries whose packets have been discarded.
-/
namespace Sys2Proof.Machine

/-- An EFQ entry (R371). -/
def efqEntry (cell n len : Nat) (hdr : Bool) (owner share eligible : Nat) (hold : Bool) : Nat :=
  packFields [(14, cell), (3, n), (14, len), (1, b2n hdr), (6, owner), (3, share), (23, 0), (40, eligible), (1, b2n hold), (23, 0)]

/-- QID of an egress flow's queue (R304). -/
def efqId (f : Nat) : Nat := 10240 + f

/-- Bound egress flows of a channel. -/
def State.egressOf (s : State) (ch : Nat) : List (Nat × EFlow) :=
  s.net.eflows.filter fun (e : Nat × EFlow) => e.2.bound && decide (e.2.channel = some ch)

/-- An EFQ entry whose frame has been discarded: no cells are left to it (DESIGN CHOICE, log 137). -/
def efqVoid (v : Nat) : Bool := decide (bitsAt v 14 3 = 0)

/-- An EFQ entry of a frame that stands in one of `cells`. -/
def ofPackets (cells : List Nat) (v : Nat) : Bool := cells.contains (bitsAt v 0 14) && !efqVoid v

/-- Changes the entries of a flow's EFQ, those that wait for room included. -/
def State.mapEfq (s : State) (flow : Nat) (g : Nat → Nat) : State :=
  let u := s.queue (efqId flow)
  let s := (List.range u.fill).foldl (fun t k =>
    let a := u.slot (u.head + k)
    t.spaceWrite u.space a u.ty.entryBytes (g (t.spaceRead u.space a u.ty.entryBytes))) s
  { s with net := { s.net with efqWait := s.net.efqWait.map fun e => if e.1 = flow then (e.1, g e.2) else e } }

/-- The entries of a flow's EFQ in order, those that wait for room included. -/
def State.efqEntries (s : State) (flow : Nat) : List Nat :=
  let u := s.queue (efqId flow)
  ((List.range u.fill).map fun k => s.spaceRead u.space (u.slot (u.head + k)) u.ty.entryBytes) ++
    (s.net.efqWait.filter fun e => decide (e.1 = flow)).map Prod.snd

/-- A flow's EFQ holds the packet of chain `cell`. -/
def State.flowHolds (s : State) (cell flow : Nat) : Bool := (s.efqEntries flow).any (ofPackets [cell])

/-- The entries of the packets in `cells` become void in a flow's EFQ. -/
def State.voidPackets (s : State) (cells : List Nat) (flow : Nat) : State :=
  s.mapEfq flow fun v => if ofPackets cells v then v - bitsAt v 14 3 * 2 ^ 14 else v

/-- Puts the entries `l` into a flow's EFQ as its entries, in order: the queue's slots first, then those that wait for room. -/
def State.setEfq (s : State) (flow : Nat) (l : List Nat) : State :=
  let u := s.queue (efqId flow)
  let s := (List.range u.fill).foldl (fun t k => t.spaceWrite u.space (u.slot (u.head + k)) u.ty.entryBytes (l.getD k 0)) s
  { s with net := { s.net with efqWait := (s.net.efqWait.filter fun e => decide (e.1 ≠ flow)) ++ (l.drop u.fill).map fun v => (flow, v) } }

end Sys2Proof.Machine
end

