-- ==== Sys2Proof/Machine/CheckUnits.lean ====
section
/-!
DEFINITION. The general check units CK0–CK15 (R470–R479): CRC over DATA writes, presets, save and restore, alive counters.
-/
namespace Sys2Proof.Machine

/-- Base of unit `n`'s registers (R472). -/
abbrev ckBase (n : Nat) : Nat := Reg.ck + 0x100 * n

/-- Width of unit `n` in bits: CFG.WIDTH is minus one (R478). -/
def State.ckWidth (s : State) (n : Nat) : Nat := s.field (ckBase n) 0 6 + 1

/-- The CRC model that unit `n` is set to (R470, R478). -/
def State.ckModel (s : State) (n : Nat) : CrcModel :=
  { width := s.ckWidth n, poly := s.pair (ckBase n + 0x10), init := s.pair (ckBase n + 0x18), xorout := s.pair (ckBase n + 0x20),
    refin := decide (s.field (ckBase n) 6 1 = 1), refout := decide (s.field (ckBase n) 7 1 = 1) }

/-- Puts a 64-bit value in the pair at `a`, cut to `w` bits (R478). -/
def State.setPair (s : State) (a w v : Nat) : State :=
  (s.setRegN a (v % 2 ^ w % 2 ^ 32)).setRegN (a + 4) (v % 2 ^ w / 2 ^ 32)

/-- The running value of unit `n` (R475). -/
def State.ckValue (s : State) (n : Nat) : Nat := s.pair (ckBase n + 0x28)

/-- The result of unit `n` for the bytes so far (R470, R478 RESULT). -/
def State.ckResult (s : State) (n : Nat) : Nat := crcOut (s.ckModel n) (s.ckValue n)

/-- A change of WIDTH clears the bits at and above the new width (R474). -/
def State.ckTruncate (s : State) (n w : Nat) : State :=
  [0x10, 0x18, 0x20, 0x28].foldl (fun t o => t.setPair (ckBase n + o) w (t.pair (ckBase n + o))) s

/-- A write of CFG (R474, R478): PRESET 1–5 loads its parameters and starts; PRESET 0, 6 or 7 takes the fields as written.
PRESET reads 0. -/
def State.ckConfigure (s : State) (n : Nat) (v : Nat) : State :=
  match crcPreset (bitsAt v 8 3) with
  | some m =>
    let s := s.setRegN (ckBase n) (packFields [(6, m.width - 1), (1, b2n m.refin), (1, b2n m.refout), (3, 0), (3, bitsAt v 11 3)])
    (((s.setPair (ckBase n + 0x10) m.width m.poly).setPair (ckBase n + 0x18) m.width m.init).setPair (ckBase n + 0x20) m.width m.xorout).setPair
      (ckBase n + 0x28) m.width m.init
  | none =>
    let s := s.setRegN (ckBase n) (packFields [(8, v), (3, 0), (3, bitsAt v 11 3)])
    s.ckTruncate n (bitsAt v 0 6 + 1)

/-- CK_CFG_WRITE (R474). -/
def execCkCfgWrite (n : Nat) (v : Word) (s : State) : Host.Outcome State Fault Refusal :=
  if n < 16 then .next (s.ckConfigure n v.toNat) else .fault .noSuchUnit

/-- CK_START (R478): the running value becomes INIT. -/
def execCkStart (n : Nat) (s : State) : Host.Outcome State Fault Refusal :=
  if n < 16 then .next (s.setPair (ckBase n + 0x28) (s.ckWidth n) (s.pair (ckBase n + 0x18))) else .fault .noSuchUnit

/-- BYTES of unit `n` (R478): 0 and 5–7 act as 4. -/
def State.ckBytes (s : State) (n : Nat) : Nat :=
  let b := s.field (ckBase n) 11 3
  if b = 0 ∨ 4 < b then 4 else b

/-- CK_DATA (R470, R473): BYTES bytes of the value, from bits [7:0] upward, are fed. -/
def execCkData (n : Nat) (v : Word) (s : State) : Host.Outcome State Fault Refusal :=
  if n < 16 then
    .next ((s.setPair (ckBase n + 0x28) (s.ckWidth n) (crcFeed (s.ckModel n) (s.ckValue n) (recBytes v.toNat (s.ckBytes n)))).wakeBlock (Src.checkUnit + n))
  else .fault .noSuchUnit

/-- CK_VALUE_RESTORE (R11, R475): the write of VALUE_HI commits both words, cut to the width. -/
def execCkValueRestore (who : Requester) (n : Nat) (hi : Word) (s : State) : Host.Outcome State Fault Refusal :=
  if n < 16 then
    let t := s.commitPair who (ckBase n + 0x28) hi
    .next (t.setPair (ckBase n + 0x28) (t.ckWidth n) (t.pair (ckBase n + 0x28)))
  else .fault .noSuchUnit

/-- A judgement of the alive-counter checker (R476). -/
inductive Judgement where
  | first | ok | repeated | gap (missing : Nat)
deriving DecidableEq, Repr

/-- The judgement of value `v` for a slot that holds `l` (R476). -/
def judge (l : Option Nat) (v : Nat) : Judgement :=
  match l with
  | none => .first
  | some l => if v = (l + 1) % 256 then .ok else if v = l then .repeated else .gap ((v + 511 - l) % 256)

/-- The code of ALIVE_STAT.RESULT and MISSING (R478). -/
def Judgement.code (j : Judgement) : Nat × Nat :=
  match j with | .ok => (0, 0) | .first => (1, 0) | .repeated => (2, 0) | .gap m => (3, m)

/-- Alive slot `k` of unit `n`: its last accepted value, none when unset. -/
def State.aliveSlot (s : State) (n k : Nat) : Option Nat := SMap.get (fun _ => none) (SMap.get (fun _ => {}) s.ck n).slots k

/-- Puts alive slot `k` of unit `n`. -/
def State.setAlive (s : State) (n k : Nat) (v : Option Nat) : State :=
  { s with ck := SMap.modify (fun _ => {}) s.ck n fun u => { u with slots := SMap.set (fun _ => none) u.slots k v } }

/-- A write to an alive slot (R476): the slot, ALIVE_STAT, and REPEAT or GAP counted and raised. -/
def State.alive (s : State) (n k v : Nat) : State :=
  let j := judge (s.aliveSlot n k) v
  let s := s.setRegN (ckBase n + 0x44) (packFields [(2, j.code.1), (5, k), (1, 0), (8, j.code.2)])
  match j with
  | .first => s.setAlive n k (some v)
  | .ok => s.setAlive n k (some v)
  | .repeated => (s.count (ckBase n + 0x4C) 16 1).raise (Src.checkUnit + n) Kind.repeat_ 0 k
  | .gap m => ((s.setAlive n k (some v)).count (ckBase n + 0x50) 16 1).raise (Src.checkUnit + n) Kind.gap 0 m

/-- CK_ALIVE (R476). -/
def execCkAlive (n : Nat) (slot : BitVec 5) (v : BitVec 8) (s : State) : Host.Outcome State Fault Refusal :=
  if n < 16 then .next ((s.alive n slot.toNat v.toNat).wakeBlock (Src.checkUnit + n)) else .fault .noSuchUnit

/-- CK_ALIVE_CLR (R478): bit k sets slot k unset. -/
def execCkAliveClr (n : Nat) (mask : Word) (s : State) : Host.Outcome State Fault Refusal :=
  if n < 16 then
    .next ((List.range 32).foldl (fun t k => if bitAt mask.toNat k then t.setAlive n k none else t) s)
  else .fault .noSuchUnit

end Sys2Proof.Machine
end

