-- ==== Sys2Proof/Machine/TwinSend.lean ====
section
/-!
DEFINITION. The sending side of the Twilan link (R193–R197): classes, priorities, the window, alive counters; the codes of release
records (R209).
-/
namespace Sys2Proof.Machine

/-- CLASS of a message (R193). -/
def twClass (m : TwMsg) : Nat :=
  match m with
  | .timeRequest _ => 6
  | .timeResponse _ _ _ => 6
  | .heartbeat _ => 5
  | .release _ => 3
  | .ledger _ => 1
  | .reconcile _ _ => 2
  | .mirror _ _ => 4
  | .hello _ _ _ _ => 7
  | .check _ _ _ _ _ _ => 7
  | .twinned => 7
  | .arm _ _ _ => 7
  | .armWithdraw _ => 7
  | .diverge _ _ _ => 7
  | .bye => 7
  | .resetPeer => 7

/-- Priority of a message (R196); 1 goes first. -/
def twPrio (m : TwMsg) : Nat :=
  match twClass m with | 6 => 1 | 5 => 2 | 3 => 3 | 1 => 4 | 7 => 5 | 2 => 6 | _ => 7

/-- Payload bytes of a message (R196); LEN is a multiple of 4, so that a shorter piece is filled up (R193). -/
def twBytes (m : TwMsg) : Nat :=
  match m with
  | .timeRequest _ => 32
  | .timeResponse _ _ _ => 32
  | .heartbeat _ => 16
  | .release rs => 16 * rs.length
  | .ledger _ => 208
  | .reconcile _ d => 24 + (d.length + 3) / 4 * 4
  | .mirror _ d => 20 + (d.length + 3) / 4 * 4
  | _ => 64

/-- The payload of a message (R200, R204, R208, R209, R214, R217): the bytes that fill a piece up to a multiple of 4 are 0 (DESIGN CHOICE, log 133). -/
def twPayload (m : TwMsg) : List Nat :=
  let pad (l : List Nat) : List Nat := l ++ List.replicate (twBytes m - l.length) 0
  match m with
  | .heartbeat v => recBytes v 16
  | .release rs => rs.flatMap fun v => recBytes v 16
  | .ledger v => recBytes v 208
  | .reconcile h d => pad (recBytes h 24 ++ d)
  | .mirror h d => pad (recBytes h 20 ++ d)
  | m => (List.range (twBytes m)).map fun k => (Config.twByte m k).toNat

/-- HCRC of a header and a trailer (R193): over header bytes 0x00–0x0E and the trailer. -/
def twHcrc (hdr trailer : Nat) : Nat := crcOf ⟨8, 0x2F, 0xFF, 0xFF, false, false⟩ (recBytes hdr 15 ++ recBytes trailer 4)

/-- PCRC of a payload (R193). -/
def twPcrc (p : List Nat) : Nat := if p = [] then 0 else crcOf ⟨32, 0x1EDC6F41, 0xFFFFFFFF, 0xFFFFFFFF, true, true⟩ p

/-- A frame as it leaves (R193); a LINK frame without a message. -/
def twSent (fseq : Nat) (retx nak : Bool) (ack session : Nat) (msg : Option TwMsg) : TwSent :=
  let p := match msg with | some m => twPayload m | none => []
  let cls := match msg with | some m => twClass m | none => 0
  let h := packFields [(4, cls), (4, 1), (1, b2n retx), (1, b2n nak), (6, 0), (16, fseq), (16, ack), (13, p.length), (3, 0), (32, session), (24, 0)]
  let t := twPcrc p
  { fseq := fseq, retx := retx, nak := nak, ack := ack, session := session, msg := msg,
    frame := recBytes h 15 ++ [twHcrc h t] ++ p ++ recBytes t 4 }

/-- The window has room for a message: 8,192 frames and 1 MiB outstanding (R195). -/
def TwilanSt.room (l : TwilanSt) (m : TwMsg) : Bool :=
  decide (l.outstanding.length < 8192) && decide ((l.outstanding.map fun f => 20 + twBytes f.msg).sum + 20 + twBytes m ≤ 2 ^ 20)

/-- A new frame leaves (R195): it takes the next FSEQ and is kept until it is acknowledged. -/
def State.twTransmit (s : State) (m : TwMsg) : State :=
  let l := s.twin.link
  let f : TwFrame := { fseq := l.nextFseq, msg := m, sentAt := s.now }
  let w := twSent l.nextFseq false false l.expect s.twin.session (some m)
  { s with twin := { s.twin with link := { l with nextFseq := (l.nextFseq + 1) % 65536, outstanding := l.outstanding ++ [f], lastTx := s.now, wire := w :: l.wire } } }

/-- Puts a message among those that wait for the window, by priority (R196). -/
def waitFor (l : List TwMsg) (m : TwMsg) : List TwMsg := l.filter (fun o => decide (twPrio o ≤ twPrio m)) ++ [m] ++ l.filter (fun o => decide (twPrio m < twPrio o))

/-- Sends a message over the link; with the link down nothing is sent, and in the safe state only heartbeats are (R490). -/
def State.twSend (s : State) (m : TwMsg) : State :=
  let l := s.twin.link
  if l.up = false ∨ (s.flt.safe = true ∧ twClass m ≠ 5) then s
  else if l.waiting = [] ∧ l.room m = true then s.twTransmit m
  else { s with twin := { s.twin with link := { l with waiting := waitFor l.waiting m } } }

/-- Sends what waits while the window has room (R195, R196). -/
def State.twPump (n : Nat) (s : State) : State :=
  match n, s.twin.link.waiting with
  | k + 1, m :: rest =>
    if s.twin.link.room m then State.twPump k ({ s with twin := { s.twin with link := { s.twin.link with waiting := rest } } }.twTransmit m) else s
  | _, _ => s

/-- The next value of alive counter `k` for what this device sends (R197). -/
def State.nextAlive (s : State) (k : Nat) : State × Nat :=
  let v := SMap.get (fun _ => 0) s.twin.link.aliveTx k
  ({ s with twin := { s.twin with link := { s.twin.link with aliveTx := SMap.set (fun _ => 0) s.twin.link.aliveTx k ((v + 1) % 256) } } }, v)

/-- Judges a received alive value (R197): whether the message is acted on; REPEAT and GAP are raised. -/
def State.judgeAlive (s : State) (k v : Nat) : State × Bool :=
  let j := judge (SMap.get (fun _ => none) s.twin.link.aliveRx k) v
  let put (s : State) : State :=
    { s with twin := { s.twin with link := { s.twin.link with aliveRx := SMap.set (fun _ => none) s.twin.link.aliveRx k (some v) } } }
  match j with
  | .first => (put s, true)
  | .ok => (put s, true)
  | .repeated => (s.raise Src.twilan Kind.repeat_ 0 k, false)
  | .gap m => ((put s).raise Src.twilan Kind.gap 0 m, true)

/-- A release record (R209) without ALIVE: OUTCOME is 0 INTACT, 1 DAMAGED, 2 ABANDONED, 3 SKIPPED. -/
def releaseRecord (ch pic band outcome crc len : Nat) (diverged : Bool) : Nat :=
  packFields [(32, if outcome = 0 then crc else 0), (32, pic), (24, if outcome = 0 then len else 0), (8, 0), (7, ch), (1, 0), (8, band), (2, outcome),
    (1, b2n diverged), (13, 0)]

/-- Fields of a release record. -/
def recCrc (v : Nat) : Nat := bitsAt v 0 32
def recPic (v : Nat) : Nat := bitsAt v 32 32
def recLen (v : Nat) : Nat := bitsAt v 64 24
def recAlive (v : Nat) : Nat := bitsAt v 88 8
def recCh (v : Nat) : Nat := bitsAt v 96 7
def recBand (v : Nat) : Nat := bitsAt v 104 8
def recOutcome (v : Nat) : Nat := bitsAt v 112 2
def recDiverged (v : Nat) : Bool := bitAt v 114

/-- A twin channel whose bands are compared with the peer's (R190, R201, R202): the device is TWINNED and the channel is neither
SOLO nor still joining. -/
def State.paired (s : State) (c : Nat) : Bool :=
  decide (s.twin.phase = .twinned) && !(s.channel c).decode && decide ((s.channel c).twinState ≠ .solo) && decide ((s.channel c).twinState ≠ .joining)

/-- Band `i` is compared with the peer's: its channel is paired, and its picture does not precede the one that a returning device codes
first (R221). -/
def State.pairedBand (s : State) (i : BandId) : Bool := s.paired i.ch && decide ((s.channel i.ch).joinPic ≤ i.pic)

/-- Keeps the device's own release record of a band and sends it (R209). -/
def State.sendRecord (s : State) (c v : Nat) : State :=
  let a := s.nextAlive c
  a.1.twSend (.release [v + 2 ^ 88 * a.2])

end Sys2Proof.Machine
end

