-- ==== Sys2Proof/Machine/BandOps.lean ====
section
/-!
DEFINITION. Shared operations over bands and pictures: naming and its plan (R48, R133, R559), readiness (R55), the tambours' banks
(R46, R47), abandoning and withholding (R50–R52, R345, R346, R560), and the picture header of the rate-control vector (R126).
-/
namespace Sys2Proof.Machine

/-- Tambour `t`. -/
def State.tamb (s : State) (t : Nat) : Tamb := SMap.get (fun _ => {}) s.codec.tambs t

/-- Changes tambour `t`. -/
def State.modTamb (s : State) (t : Nat) (f : Tamb → Tamb) : State :=
  { s with codec := { s.codec with tambs := SMap.modify (fun _ => {}) s.codec.tambs t f } }

/-- A bank of a tambour: 0 is A, 1 is B. -/
def Tamb.bank (x : Tamb) (k : Nat) : Bank := if k = 0 then x.bankA else x.bankB
def Tamb.setBank (x : Tamb) (k : Nat) (b : Bank) : Tamb := if k = 0 then { x with bankA := b } else { x with bankB := b }

/-- A bank that holds a named band: loading or loaded. -/
def Bank.named (b : Bank) : Option BandId :=
  match b.phase with
  | .loading => b.band
  | .loaded => b.band
  | _ => none

/-- The band of tambour `t` whose bank is loaded or written back. -/
def Tamb.moving (x : Tamb) : Option BandId :=
  if x.loads ≠ [] then (x.bank (x.loads.headD 0)).band
  else if x.bankA.phase = .loading ∨ x.bankA.phase = .writing then x.bankA.band
  else if x.bankB.phase = .loading ∨ x.bankB.phase = .writing then x.bankB.band
  else none

/-- The bands that a tambour has named. -/
def Tamb.namedBands (x : Tamb) : List BandId := x.bankA.named.toList ++ x.bankB.named.toList ++ x.cont.toList

/-- Deadline of a ready band. -/
def State.deadlineOf (s : State) (i : BandId) : Nat := (s.channel i.ch).deadline i.pic i.b

/-- `i` goes before `j` (R32, R48): earlier deadline, then lower channel, then band order. -/
def State.bandBefore (s : State) (i j : BandId) : Bool :=
  let di := s.deadlineOf i
  let dj := s.deadlineOf j
  if di ≠ dj then decide (di < dj)
  else if i.ch ≠ j.ch then decide (i.ch < j.ch)
  else
    let x := s.channel i.ch
    if x.posOf i.pic ≠ x.posOf j.pic then decide (x.posOf i.pic < x.posOf j.pic) else decide (i.b < j.b)

/-- The first of a list of bands by that order. -/
def State.firstBand (s : State) (l : List BandId) : Option BandId :=
  l.foldl (fun best i => match best with | none => some i | some j => if s.bandBefore i j then some i else some j) none

/-- The bands of a channel in a state that passes `f`. -/
def Channel.bandsWhere (x : Channel) (c : Nat) (f : Band → Bool) : List BandId :=
  x.pics.flatMap fun (e : Nat × Pic) => (e.2.bands.filter fun (u : Nat × Band) => f u.2).map fun (u : Nat × Band) => ⟨c, e.1, u.1⟩

/-- The READY bands of the channels pinned to tambour `t`. -/
def State.readyBands (s : State) (t : Nat) : List BandId :=
  s.codec.channels.flatMap fun (e : Nat × Channel) =>
    if e.2.tambour = t then e.2.bandsWhere e.1 (fun u => decide (u.state = .ready)) else []

/-! ## Plans, types and references at the naming of band 0 (R133, R559) -/

/-- Where a plan comes from at a naming: the channel's own pending plans, or a ledger token (R134, R203, R204); none: the token
is missing and the plan is carried (R205). -/
inductive PlanFrom where
  | own
  | token (l : Option Token)
deriving DecidableEq, Repr

/-- GOP 3 settles at the first naming of a group whether its anchor is an IDR picture (R93). -/
def Channel.settleGroup (x : Channel) (p : Nat) : Channel :=
  if x.cfg.gop ≠ 3 ∨ p = 0 then x
  else
    let g := x.cfg.groupOf p
    if x.idrGroups.contains g ∨ x.plainGroups.contains g then x
    else if x.anchorIdr g then { x with idrGroups := g :: x.idrGroups, rc := { x.rc with force := x.rc.force.filter (fun f => decide (x.cfg.anchor g < f)) } }
    else { x with plainGroups := g :: x.plainGroups }

/-- A picture's POC (R108). -/
def Channel.pocOf (x : Channel) (p : Nat) (idr : Bool) : Nat :=
  if idr then 0
  else
    let n := p - x.lastIdr.getD 0
    if x.cfg.codec = 1 ∧ x.cfg.fields = false then 2 * n else n

/-- frame_num (R107, R109): 0 at an IDR picture, else one more than the previous reference picture's; the second field of a
frame keeps its first field's, unless that field is an uncommitted reference, whose number stays consumed. -/
def Channel.frameNumOf (x : Channel) (p : Nat) (idr : Bool) : Nat :=
  match x.prevOf p with
  | some q =>
    if idr then 0
    else if x.cfg.fields && decide (p % 2 = 1) && decide (q + 1 = p) && !((x.pic q).isRef && (x.pic q).uncommitted) then (x.pic q).frameNum
    else if (x.pic q).isRef then ((x.pic q).frameNum + 1) % 256 else (x.pic q).frameNum
  | none => 0

/-- The refresh cycle index (R90). -/
def Channel.cycleOf (x : Channel) (p : Nat) (idr : Bool) : Nat :=
  if x.cfg.irPeriod < 2 ∨ idr = true then 0
  else match x.prevOf p with
    | some q => if (x.pic q).ptype = 1 then 0 else ((x.pic q).cycleK + 1) % x.cfg.irPeriod
    | none => 0

/-- The DPB while picture `p` of a decode channel is decoded: the pictures that its slice header leaves there, of those that are decoded, and the
decoded ones that still wait for output. -/
def Channel.dpbPics (x : Channel) (p : Nat) : List Nat :=
  ((x.pic p).refs0.filter fun q => (x.pic q).startsDec) ++ (x.pics.filter fun (e : Nat × Pic) => e.2.decoded && e.2.output && !e.2.shown && decide (e.1 ≠ p) && !(x.pic p).refs0.contains e.1).map Prod.fst

/-- The lowest picture buffer slot that no picture of the DPB holds (R439): of the encoder's 4, of DPB_PICS (R145) on a decode channel. Where pictures
that wait for output hold every one, the manual does not say which a picture takes: the lowest (DESIGN CHOICE, log 144). -/
def Channel.freeSlot (x : Channel) (d : List Nat) : Nat :=
  let used := d.map fun q => (x.pic q).slot
  ((List.range (if x.decode then x.cfg.dpbPics else 4)).find? fun k => !used.contains k).getD 0

/-- The references that the pictures of a GOP 3 group after `p` still read (R91): the rest of a run before an IDR anchor reads one picture; the
B pictures after `p` in coding order read the anchors and the group's B1 or B2. -/
def Channel.groupNeeds (x : Channel) (p : Nat) (d : List Nat) : List Nat :=
  let g := if p = 0 then 0 else x.cfg.groupOf p
  let a0 := g * x.cfg.groupLen
  let a1 := x.cfg.anchor g
  let o := p - a0
  if p = 0 then []
  else if x.anchorIdr g then
    if a1 ≤ p + 1 then []
    else match d.filter fun q => decide (a0 < q) && decide ((x.pic q).ptype = 1 ∨ (q = p ∧ d.length = 1)) with
      | q :: _ => [q]
      | [] => if d.contains a0 then [a0] else (d.filter fun q => decide (q ≠ p)).take 1
  else if p = a1 then [a0, a1]
  else if x.cfg.nb = 2 ∧ o = 1 then [p, a1]
  else if x.cfg.nb = 3 ∧ o = 2 then [a0, p, a1]
  else if x.cfg.nb = 3 ∧ o = 1 then [a0 + 2, a1]
  else []

/-- The pictures the DPB holds after picture `p` is named (R52, R91, R108): those that a later picture still needs. An IDR picture empties it;
uncommitted pictures are gone; GOP 0 needs none; GOP 3 needs the anchors that the next anchor reads, and what its group still reads. -/
def Channel.dpbAfter (x : Channel) (p : Nat) (idr ref : Bool) : List Nat :=
  let d := if idr then [] else x.committed
  let d := if ref then p :: d else d
  if x.cfg.gop = 0 then []
  else if x.cfg.gop = 3 then
    let anchors := (d.filter fun q => decide (q % x.cfg.groupLen = 0)).take x.cfg.nRef
    d.filter fun q => anchors.contains q || (x.groupNeeds p d).contains q
  else d.take x.cfg.nRef

/-- Uncommitted reference pictures that the next picture coded has still to remove (R109): those of the DPB, and those that no picture has removed
whose first slice was coded, or is still to be coded. -/
def Channel.toDrop (x : Channel) : List Nat :=
  if x.cfg.gop = 0 then []
  else
    let took (q : Nat) : Bool := x.pics.any fun (e : Nat × Pic) => e.2.named && !e.2.uncommitted && e.2.dropped.contains q
    (x.dpb.filter fun q => (x.pic q).uncommitted) ++ x.dropNext.filter fun q => !x.dpb.contains q && !took q

/-- The naming of band 0 of picture `p` of an encode channel (R133, R559): plan, type, references; whether a plan was carried. No committed
picture left in the DPB makes an inter or an I picture an IDR picture (R52). A plan of TYPE 1 for a B position takes effect at the moment the plan is
taken: at the B picture's naming, or in a twin with its token (DESIGN CHOICE, log 142). -/
def Channel.namePicture (x : Channel) (p : Nat) (src : PlanFrom) : Channel × Bool :=
  let x := x.settleGroup p
  let own := x.rc.pending.find? fun l => decide (l.picture = p % 2 ^ 32)
  let got := match src with | .own => own | .token l => l.map Token.plan
  let carried := match src with | .own => got.isNone | .token l => (match l with | some k => k.carried | none => true)
  let forced := decide (src = .own) && x.rc.force.any (fun f => decide (f ≤ p)) && decide (x.cfg.gop ≠ 3)
  let t0 := x.planType p (if forced then 1 else match got with | some l => l.ptype | none => 0)
  let later := decide (x.cfg.gop = 3) && (match got with | some l => decide (l.ptype = 1) | none => false) && decide (src = .own) && decide (p ≠ 0) && decide (p ≠ x.cfg.anchor (x.cfg.groupOf p))
  let dropped := x.toDrop
  let t0 := if x.refreshBroken then 1 else t0
  let refs := if t0 ≤ 2 then ([], []) else x.refsFor p
  let bare := (decide (3 ≤ t0) && decide (refs.1 = [])) || (decide (t0 = 2) && decide (x.cfg.gop ≠ 0) && decide (x.committed = []))
  let t := if bare then 1 else t0
  let idr := decide (t = 1)
  let refs := if idr then ([], []) else refs
  let lostRef := decide (t = 4) && decide (x.cfg.gop = 3) && (refs.1 ++ refs.2).any fun q => (x.pic q).uncommitted
  let ref := x.isReference p || idr
  let slot := x.freeSlot (if idr then [] else x.committed)
  let y0 := x.pic p
  let y : Pic :=
    { y0 with named := true, ptype := t, refs0 := refs.1, refs1 := refs.2, uncommitted := y0.uncommitted || lostRef, carried := carried,
              poc := x.pocOf p idr, cycleK := x.cycleOf p idr, slot := slot, dropped := (if idr then [] else dropped),
              frameNum := x.frameNumOf p idr, idrId := x.idrCount, isRef := ref }
  let put (x : Channel) (y : Pic) : Channel := { x with pics := SMap.set (fun _ => {}) x.pics p y }
  let y := { y with plan := match got with | some l => l | none => x.carriedPlan 0 }
  let x := put { x with idrCount := if idr then x.idrCount + 1 else x.idrCount } y
  let nv := x.nonVclBits p (x.prevOf p)
  let plan := match got with | some l => l | none => x.carriedPlan nv
  let plan := if forced then { plan with ptype := 1 } else plan
  let y := { y with plan := plan, nonVcl := nv }
  let d := (put x y).dpbAfter p idr ref
  let y := { y with kept := ((refs.1 ++ refs.2).eraseDups ++ d.filter fun q => decide (q ≠ p) && !(refs.1 ++ refs.2).contains q) }
  let x := put x y
  let y := { y with raised := decide (plan.budget < x.floorSum p 0 x.cfg.bandCount) }
  let x := put { x with dpb := d, dropNext := (if idr then [] else dropped), lastNamed := some (max p (x.lastNamed.getD 0)), lastIdr := (if idr then some p else x.lastIdr), refreshBroken := false,
                        rc := { x.rc with pending := x.rc.pending.filter (fun l => decide (l.picture ≠ p % 2 ^ 32)), last := some plan, force := (if forced then x.rc.force.filter (fun f => decide (p < f)) else if later then p :: x.rc.force else x.rc.force) } } y
  (x, carried)

/-- A picture buffer is allocated to a picture: its ledger rows are set to 0 (R440). -/
def State.clearLedger (s : State) (ch k : Nat) : State :=
  { s with hbm := { s.hbm with ledger := SMap.keep (fun e => !(decide (e / 128 = ch * 32 + k))) s.hbm.ledger } }

/-- An encode channel of a device whose twin state is not DISABLED is a twin channel (R190). -/
def State.twinChannel (s : State) (c : Nat) : Bool := decide (s.twin.phase ≠ .disabled) && !(s.channel c).decode

/-- The plan source of picture `p` (R134, R203): with a token held, the token; a follower in a twin without one carries (R205);
every other channel its own pending plans. -/
def State.planFrom (s : State) (c p : Nat) : PlanFrom :=
  let x := s.channel c
  if s.twinChannel c then
    match SMap.get (fun _ => none) x.tokens p with
    | some k => .token (some k)
    | none => if s.twin.phase = .twinned ∧ s.twin.follower then .token none else .own
  else .own

/-- The decoding of a picture begins (R154, R161, R439, R440): the DPB holds the pictures that its slice header leaves there and those that wait for
output; it takes a buffer, whose ledger rows are 0; the clean-source map loses the buffers that the DPB has released. -/
def State.beginDecode (s : State) (c p : Nat) : State :=
  let held := (s.channel c).dpbPics p
  let slot := (s.channel c).freeSlot held
  (s.modChannel c fun x =>
    { x with dpb := held, clean := x.clean.filter (fun (e : Nat × Option Nat) => match e.2 with | some q => held.contains q | none => false),
             pics := SMap.modify (fun _ => {}) x.pics p fun y => { y with named := true, slot := slot } }).clearLedger c slot

/-- The access unit's pages go back to the page well: those of the depacketizer, or of host injection (R153, R311). -/
def State.freePages (s : State) (c p : Nat) : State :=
  let x := s.channel c
  ((x.pic p).pages.foldl (fun t i => t.freeBuffer .page (0x200000000 + 0x10000 * i) (if x.cfg.injectQid = 0 then 17 else 21)) s).modPic c p
    fun y => { y with pages := [] }

/-- The pages of every access unit of a channel that passes `f` are freed. -/
def State.freeUnits (s : State) (c : Nat) (f : Pic → Bool) : State :=
  (((s.channel c).pics.filter fun (e : Nat × Pic) => f e.2 && decide (e.2.pages ≠ [])).map fun (e : Nat × Pic) => e.1).foldl (fun t p => t.freePages c p) s

/-- Band 0 of a picture counts as named (R48, R133): the first time, its plan is taken or carried; PLAN_LATE on a carry. A
follower in step follows its leader's decision and raises nothing. -/
def State.namePic (s : State) (c p : Nat) : State :=
  let x := s.channel c
  if (x.pic p).named then s
  else if x.decode then s.beginDecode c p
  else
    let src := s.planFrom c p
    let r := x.namePicture p src
    let s := (s.modChannel c fun _ => r.1).clearLedger c (r.1.pic p).slot
    if r.2 && decide (src = .own) then s.raise (Src.tambour + x.tambour) Kind.planLate (addrP c p 0xFF) x.tambour else s

/-! ## The picture header (R125, R126) -/

/-- Every band of picture `p` has an outcome. -/
def Channel.allDone (x : Channel) (p : Nat) : Bool := (x.bandsOf p).all Band.hasOutcome

/-- The 64 bytes of the vector's header for picture `p` (R125). -/
def Channel.rcvHeader (x : Channel) (p : Nat) : Nat :=
  let y := x.pic p
  let floors := ((x.bandsOf p).filter fun u => u.coded && u.floor).length
  packFields [(32, p), (32, x.picBits p), (32, x.nonVclOf p), (32, y.plan.id), (1, b2n !y.uncommitted), (1, b2n y.carried), (1, b2n y.raised), (3, y.ptype),
    (2, 0), (8, floors), (8, y.guardBand), (8, 0), (7, ofSigned 7 (x.meanQp p)), (25, 0), (288, 0), (32, x.rc.seq + 1)]

/-- When the last band of a picture has an outcome, the header is written, SEQ last (R126), which interrupt source 64 + c tells (R451), and the
controller has a new DONE picture (R127, R135). -/
def State.pictureDone (s : State) (c p : Nat) : State :=
  let x := s.channel c
  if x.decode || (x.pic p).doneHdr || !x.allDone p then s
  else
    let s := (s.rcvWrite c 0 64 (x.rcvHeader p)).assertIrq (64 + c)
    s.modChannel c fun x =>
      let x := { x with pics := SMap.modify (fun _ => {}) x.pics p fun y => { y with doneHdr := true } }
      { x with rc := { x.rc with seq := (x.rc.seq + 1) % 2 ^ 32, lastDone := some p, planned := false,
                                 fill := x.rc.fill + (x.picBits p : Nat) + (x.nonVclOf p : Nat) - (x.cfg.avgBits : Nat) } }

/-- In a twin the device's own record of a band is kept and sent (R209), the first time. -/
def State.ownRecord (s : State) (i : BandId) (outcome crc len : Nat) : State :=
  if s.pairedBand i && (s.band i).ownRec.isNone then
    let v := releaseRecord i.ch i.pic i.b outcome crc len (decide ((s.channel i.ch).twinState = .diverged))
    (s.modBand i fun u => { u with ownRec := some v }).sendRecord i.ch v
  else s

/-- The input complexity of a band of an encode channel, and the band's whole entry of the vector (R68, R123, R126): once. -/
def State.measureBand (s : State) (i : BandId) : State :=
  let x := s.channel i.ch
  if !x.decode && (s.band i).cplx.isNone && decide (i.b < x.cfg.bandCount) then
    (s.modBand i fun u => { u with cplx := some ((x.pic i.pic).complexity x.cfg i.b) }).rcvReady i
  else s

/-- S0 measures the input of a band that has become READY (R68, R123). -/
def State.measureInput (s : State) (i : BandId) : State :=
  let live := match (s.band i).state with | .ready => true | .named => true | .coding => true | _ => false
  if live then s.measureBand i else s

/-- A band reaches an outcome without being coded: ABANDONED or SKIPPED. Band 0 counts as named (R133). It has its readiness entry first (R126): a
band that is SKIPPED while still ARRIVING is measured, of the raster as it stands, at that moment (DESIGN CHOICE, log 142). -/
def State.bandOutcome (s : State) (i : BandId) (st : BandState) : State :=
  let s := s.measureBand i
  let s := s.modBand i fun u => { u with state := st, outcome := (if st = .abandoned then 1 else 2) }
  let s := s.ownRecord i (if st = .abandoned then 2 else 3) 0 0
  let s := if i.b = 0 then s.namePic i.ch i.pic else s
  if (s.channel i.ch).decode then s else (s.rcvOutcome i).pictureDone i.ch i.pic

/-! ## Leaving the tambour -/

/-- The spout discards the undrained words of a band and takes its ABANDON word (R346). -/
def Spout.abandonBand (x : Spout) (i : BandId) : Spout :=
  let ws := x.words.filter fun (e : Nat × SpoutWord) => !(decide (e.2.ch = i.ch) && decide (e.2.pic = i.pic) && decide (e.2.band = i.b))
  let closed := x.closed.filter fun k => ws.any fun (e : Nat × SpoutWord) => decide (e.1 = k)
  let drained := SMap.keep (fun k => closed.contains k) x.drained
  let k := if closed.contains x.fill then 1 - x.fill else x.fill
  { x with words := ws ++ [(k, { last := true, abandon := true, ch := i.ch, pic := i.pic, band := i.b })], closed := closed ++ [k],
           drained := drained, fill := 1 - k, filled := 0 }

/-- The sequencer goes to the start and waits (R239): the return address, the flags and the open region's state are gone. -/
def Sequencer.discard (q : Sequencer) : Sequencer :=
  { q with addr := 0, ret := 0, z := false, n := false, c := false, u := SMap.keep (fun k => decide (k < 40)) q.u, lc := SMap.keep (fun k => decide (k < 2)) q.lc,
           pre := [], cost := [], hook := none, running := false, held := false, lopen := [] }

/-- Takes a band out of the banks of its tambour: a named one's preload stops; the active bank of the band in CODING is not
written back (R50). `next`: the switch that is due was due to the withdrawn band; it counts from now, and no longer waits for that band (R47, R61). -/
def Tamb.withdraw (x : Tamb) (i : BandId) (now : Nat) (next : Bool) : Tamb :=
  let x := if x.bankA.named = some i then { x with bankA := {}, loads := x.loads.filter (· ≠ 0) } else x
  let x := if x.bankB.named = some i then { x with bankB := {}, loads := x.loads.filter (· ≠ 1) } else x
  let x := if x.cont = some i then { x with cont := none } else x
  let x := if next then { x with freeAt := max x.freeAt now, waited := false } else x
  if x.coding = some i then
    { x.setBank x.active {} with coding := none, freeAt := now, due := true, lastCh := i.ch, seqr := x.seqr.discard, coder := {} }
  else x

/-- A band named to continue in the bank of a band that was withdrawn (R50): it returns to READY, or on an encode channel, in
the same picture, becomes SKIPPED. -/
def State.displaceCont (s : State) (t : Nat) (i : BandId) : State :=
  match (s.tamb t).cont with
  | none => s
  | some j =>
    let s := s.modTamb t fun x => { x with cont := none }
    if (s.channel i.ch).decode = false ∧ j.pic = i.pic then s.bandOutcome j .skipped
    else s.modBand j fun u => { u with state := .ready }

/-- The owner of the cells of a channel's packets (R313): the packetizer of its tambour, or the egress reader. -/
def Channel.packetOwner (x : Channel) : Nat := if x.decode then 16 else 8 + x.tambour

/-- The cells granted to the packets of a slice that still drains go back. -/
def State.giveCells (s : State) (i : BandId) : State :=
  if (s.band i).cells = [] then s else (s.freeCells (s.band i).cells (s.channel i.ch).packetOwner).modBand i fun u => { u with cells := [] }

/-- Takes a READY, NAMED or CODING band off its tambour with an outcome. The words of an encode band leave the spout; a decode
band is left to the repair pass (R50, R164). -/
def State.takeOff (s : State) (i : BandId) (st : BandState) : State :=
  let x := s.channel i.ch
  let t := x.tambour
  let was := (s.band i).state
  let s := if was = .coding then s.modBand i fun u => { u with blocks := (s.tamb t).blocks, runNs := (s.nowT - u.start.getD s.nowT) / tauNs } else s
  let next := (s.tamb t).coding.isNone && decide (s.firstBand (s.tamb t).namedBands = some i)
  let s := s.modTamb t fun y => y.withdraw i s.nowT next
  let s := if was = .coding ∧ x.decode = false then (s.giveCells i).modSpout t fun p => p.abandonBand i else s
  let s := s.bandOutcome i st
  let s := if x.decode ∧ st = .abandoned then s.modTamb t fun y => { y with repairs := y.repairs ++ [i] } else s
  if was = .coding then s.displaceCont t i else s

/-- Discards the packets formed for a band (R346): their entries become void in the flows' queues, and the chains that a flow still holds, or
that entered none, are freed. -/
def State.discardPackets (s : State) (i : BandId) : State :=
  let s := s.giveCells i
  let ps := (s.band i).packets
  let flows := (s.egressOf i.ch).map Prod.fst
  let held := ps.filter fun k => decide (k.left = 0) || flows.any (s.flowHolds k.cell)
  let s := flows.foldl (fun t f => t.voidPackets (ps.map PktRec.cell) f) s
  let s := held.foldl (fun (t : State) (k : PktRec) =>
    { t with net := { t.net with shares := SMap.set (fun _ => 0) t.net.shares k.cell 0 } }.freeCells (t.chainCells k.cells k.cell).1 (s.channel i.ch).packetOwner) s
  s.modBand i fun u => { u with packets := [], unsent := 0 }

/-- A band that is CODED and not yet released is withheld (R345, R559): its packets are never sent. -/
def State.withhold (s : State) (i : BandId) (st : BandState) : State :=
  (s.discardPackets i).bandOutcome i st

/-- Bands of picture `p` from band `from_` on that are not yet released: SKIPPED, one in CODING too (R345, R559); those still ARRIVING only where
`arriving` (R212), else as they become ready (R51). -/
def State.skipFrom (s : State) (c p from_ : Nat) (arriving : Bool) : State :=
  (List.range ((s.channel c).cfg.bandCount - from_)).foldl (fun t k =>
    let i : BandId := ⟨c, p, from_ + k⟩
    match (t.band i).state with
    | .ready => t.takeOff i .skipped
    | .named => t.takeOff i .skipped
    | .coding => t.takeOff i .skipped
    | .coded => if (t.band i).released then t else t.withhold i .skipped
    | .arriving => if arriving then t.bandOutcome i .skipped else t
    | _ => t) s

/-- Pictures already named that reference picture `p`, directly or through another such picture (R559). -/
def Channel.dependents (x : Channel) (fuel : Nat) (ps : List Nat) : List Nat :=
  match fuel with
  | 0 => ps
  | k + 1 =>
    let more := (x.pics.filter fun (e : Nat × Pic) => e.2.named && !ps.contains e.1 && (e.2.refs0 ++ e.2.refs1).any fun q => ps.contains q).map
      fun (e : Nat × Pic) => e.1
    if more = [] then ps else Channel.dependents x k (ps ++ more)

/-- Picture `p` is uncommitted (R51, R559): its later bands from `from_` on are not sent; the pictures already named that
reference it are uncommitted too, and none of their unreleased bands is sent. -/
def State.uncommit (s : State) (c p from_ : Nat) : State :=
  let deps := ((s.channel c).dependents (s.channel c).pics.length [p]).filter (· ≠ p)
  let s := s.modPic c p fun y => { y with uncommitted := true }
  let s := s.skipFrom c p from_ false
  deps.foldl (fun t q => (t.modPic c q fun y => { y with uncommitted := true }).skipFrom c q 0 false) s

/-- BAND_LATE and TMB_BAND_LATE (R50, R61), once for a band. -/
def State.reportLate (s : State) (i : BandId) : State :=
  let t := (s.channel i.ch).tambour
  if (s.band i).bandLate then s
  else ((s.modBand i fun u => { u with bandLate := true }).count (Reg.tmb + 0x2000 * t + 0x10) 16 1).raise (Src.tambour + t) Kind.bandLate (addrP i.ch i.pic i.b) t

/-- Abandons a READY, NAMED or CODING band (R50–R53, R451). On a follower the leader's records decide whether the picture is committed;
its later bands become SKIPPED in coding (R213). -/
def State.abandon (s : State) (i : BandId) : State :=
  let s := ((s.takeOff i .abandoned).reportLate i).assertIrq (40 + (s.channel i.ch).tambour)
  if (s.channel i.ch).decode then s
  else if s.pairedBand i && s.twin.follower then
    (s.modPic i.ch i.pic fun y => { y with skipLater := true }).skipFrom i.ch i.pic (i.b + 1) false
  else s.uncommit i.ch i.pic (i.b + 1)

/-- A band becomes READY at the time R36 gives for an input complete at `done` (R55); a band of an uncommitted picture becomes
SKIPPED (R51). The decimated rows of an encode band are those of its raster now (R67). -/
def State.makeReady (s : State) (i : BandId) (done : Nat) : State :=
  let x := s.channel i.ch
  let s := if x.decode then s else s.modPic i.ch i.pic fun y => y.decimateBand x.cfg i.b
  let s := s.modBand i fun u => { u with ready := x.readyAt i.pic i.b done, state := .ready }
  if x.decode = false ∧ ((x.pic i.pic).uncommitted || (x.pic i.pic).skipLater) = true then s.bandOutcome i .skipped else s

/-! ## Clocks and the governor's queue (R27, R516) -/

/-- Tambour `t` is clocked: its gate is open, since its wake latency, and its hoop's clock is good. -/
def State.clocked (s : State) (t : Nat) : Bool :=
  bitAt s.pwr.tambClk.toNat t && bitAt s.pwr.clkGood.toNat (1 + t / 2) && decide ((s.tamb t).clkFrom ≤ s.now)

/-- Tambour `t` is needed from time `need` (ns) on: what it lacks of its gate and its hoop's PLL is asked for; the earliest time stands. -/
def State.needTambour (s : State) (t need : Nat) : State :=
  let h := t / 2
  let s := if bitAt s.pwr.hoopPll.toNat h then s.keepAwake (.hoop h) else s.askPower (.hoop h) true need
  let s := if bitAt s.pwr.tambClk.toNat t then s.keepAwake (.tambour t) else s.askPower (.tambour t) true need
  if s.clocked t then s.modTamb t fun x => { x with wakeAt := none }
  else s.modTamb t fun x => { x with wakeAt := some (match x.wakeAt with | some w => min w need | none => need) }

/-- A band whose wake came late starts late (R27): WAKE_LATE, counted, once for the band. -/
def State.wakeLateFor (s : State) (t : Nat) (i : BandId) : State :=
  if (s.band i).wakeLate then s
  else ((s.modBand i fun u => { u with wakeLate := true }).count (Reg.tmb + 0x2000 * t + 0x14) 16 1).raise (Src.tambour + t) Kind.wakeLate (addrP i.ch i.pic i.b) t

/-- The gate of tambour `t` is open and its hoop's clock is good: its clock counts as good at a known time, be it still to come (R515). -/
def State.clockSure (s : State) (t : Nat) : Bool := bitAt s.pwr.tambClk.toNat t && bitAt s.pwr.clkGood.toNat (1 + t / 2)

/-- A wake that ends later than it was needed delays the bands that wait for the clock (R27). -/
def State.tellWakeLate (s : State) (t : Nat) : State :=
  let x := s.tamb t
  match x.wakeAt with
  | some w => if s.clockSure t && decide (w < max s.now x.clkFrom) then (s.readyBands t ++ x.namedBands).foldl (fun s i => s.wakeLateFor t i) s else s
  | none => s

/-- The gate of tambour `t` has opened or its hoop's clock has become good: once both are so, the bands that wait are told of a late wake; the wake is
over once its latency has passed (R27). -/
def State.clockArrives (s : State) (t : Nat) : State :=
  if s.clockSure t then (s.tellWakeLate t).modTamb t fun x => { x with wakeAt := if x.clkFrom ≤ s.now then none else x.wakeAt } else s

/-- A band whose abandon point comes before the clock that it waits for is late by the wake too (R27, R31). -/
def State.wakeMissed (s : State) (i : BandId) : State :=
  let t := (s.channel i.ch).tambour
  let waits := match (s.band i).state with | .ready => true | .named => true | _ => false
  match (s.tamb t).wakeAt with
  | some w => if waits && !s.clocked t && decide (w ≤ s.now) then s.wakeLateFor t i else s
  | none => s

/-- A tambour with READY or named bands is needed now (R26, R32): a gated one wakes, as R27 has it, and a band that comes before a clock granted
late waits for it too. -/
def State.wakeForWork (s : State) (t : Nat) : State :=
  if s.flt.safe || (decide (s.readyBands t = []) && decide ((s.tamb t).namedBands = [])) then s else (s.needTambour t s.now).tellWakeLate t

/-! ## Naming (R48) -/

/-- No earlier band of band `i`'s picture has still to be named: bands of one channel are named in band order (R48). -/
def Channel.inOrder (x : Channel) (i : BandId) : Bool :=
  (List.range i.b).all fun b => match ((x.pic i.pic).band b).state with | .arriving => false | .ready => false | _ => true

/-- A READY band may be named on tambour `t` now: it is its channel's next, and no band of its channel is named there or in a bank that is
written back. -/
def State.mayName (s : State) (t : Nat) (i : BandId) : Bool :=
  let x := s.tamb t
  let busy (b : Bank) : Bool := decide (b.phase = .writing) && (match b.band with | some j => decide (j.ch = i.ch) | none => false)
  !(x.namedBands.any fun j => decide (j.ch = i.ch)) && !busy x.bankA && !busy x.bankB && (s.channel i.ch).inOrder i

/-- Names band `i` into bank `k`: its preload starts (R46). -/
def State.nameInto (s : State) (t k : Nat) (i : BandId) : State :=
  let s := s.modTamb t fun x => { x.setBank k { phase := .loading, band := some i } with loads := x.loads.filter (· ≠ k) ++ [k] }
  s.modBand i fun u => { u with state := .named, tambour := t }

/-- Band `i` displaces band `v` from bank `k` (R48), where its deadline is earlier. -/
def State.displace (s : State) (t k : Nat) (i v : BandId) : State :=
  if s.deadlineOf i < s.deadlineOf v then (s.modBand v fun u => { u with state := .ready }).nameInto t k i else s

/-- Where band `i` goes (R48): to continue where its channel is in CODING, into a free bank, or into the bank of a named band with a later
deadline, which is displaced. -/
def State.nameBand (s : State) (t : Nat) (i : BandId) : State :=
  let x := s.tamb t
  match x.coding with
  | some j =>
    if j.ch = i.ch then (s.modTamb t fun x => { x with cont := some i }).modBand i fun u => { u with state := .named, tambour := t }
    else
      let k := 1 - x.active
      match (x.bank k).phase with
      | .empty => s.nameInto t k i
      | _ => match (x.bank k).named with | some v => s.displace t k i v | none => s
  | none =>
    if x.bankA.phase = .empty then s.nameInto t 0 i
    else if x.bankB.phase = .empty then s.nameInto t 1 i
    else
      -- Of the named bands, the one with the latest deadline gives way to an earlier one.
      match x.bankA.named, x.bankB.named with
      | some a, some b => if s.deadlineOf a < s.deadlineOf b then s.displace t 1 i b else s.displace t 0 i a
      | some a, none => s.displace t 0 i a
      | none, some b => s.displace t 1 i b
      | none, none => s

/-- The first naming of band 0 fixes its picture's plan, type and references (R133, R559). A B picture of GOP 3 whose references are not all
committed is itself uncommitted: it is not sent, nor coded, and its bands become SKIPPED as they are ready (R51, R52). -/
def State.fixPicture (s : State) (i : BandId) : State :=
  let s := s.namePic i.ch i.pic
  if (s.channel i.ch).decode = false ∧ ((s.channel i.ch).pic i.pic).uncommitted = true ∧ (s.band i).state = .named then
    s.skipFrom i.ch i.pic 0 false else s

/-- The abandon point of a band has been reached (R50). -/
def State.overAt (s : State) (i : BandId) : Bool := decide ((s.channel i.ch).abandonAt i.pic i.b ≤ s.nowT)

/-- One naming on tambour `t` (R48): the ready band with the earliest deadline. A band at its abandon point is abandoned instead (R55). -/
def State.nameOnce (s : State) (t : Nat) : State :=
  if s.flt.safe then s
  else match s.firstBand ((s.readyBands t).filter fun i => s.mayName t i && !s.overAt i) with
    | none => s
    | some i =>
      let s := s.nameBand t i
      if i.b = 0 ∧ (s.band i).state = .named then s.fixPicture i else s

/-- Names up to `n` times. -/
def State.nameTimes (n : Nat) (s : State) (t : Nat) : State :=
  match n with
  | 0 => s
  | k + 1 => State.nameTimes k (s.nameOnce t) t

/-- The reference pictures of a band. -/
def State.refsOf (s : State) (i : BandId) : List Nat :=
  let y := (s.channel i.ch).pic i.pic
  (y.refs0 ++ y.refs1).eraseDups

/-- What a half of the hoop window holds for band `b` (R69): for each active reference, a window of its luma and one of its decimated plane. -/
def ChannelCfg.windowItems (c : ChannelCfg) (b : Nat) (refs : List Nat) : List WindowItem :=
  refs.flatMap fun r =>
    [{ ref := r, decimated := false, width := 2 * c.ctbSize + 512 + 8, top := (c.bandTop b : Int) - 128 - 4, height := c.bandCoded b + 256 + 8 },
     { ref := r, decimated := true, width := c.ctbSize / 4 + 128 + c.ctbSize / 4, top := (c.bandTop b / 4 : Nat) - 64, height := c.bandCoded b / 4 + 128 }]

/-- The column of samples at which a window begins while the CTU that begins at sample `x` is searched (R69). -/
def WindowItem.left (w : WindowItem) (x : Nat) : Int := if w.decimated then (x / 4 : Nat) - 64 else (x : Int) - 256 - 4

/-- Bytes that a half of the hoop window holds: its samples stand in 16-bit containers (R69). -/
def HoopWindow.bytes (w : HoopWindow) : Nat := (w.items.map fun i => 2 * i.width * i.height).sum

/-- The half of the hoop window that no band in CODING uses is prefetched for the encode band that comes next (R69, R96): at once where that has no reference
(R66); a half that serves neither of the two is given up. -/
def State.prefetch (s : State) (t : Nat) : State :=
  let x := s.tamb t
  let next := match s.firstBand x.namedBands with
    | some i => if (s.channel i.ch).decode then none else some i
    | none => none
  let keep := x.windows.filter fun w => decide (some w.band = x.coding) || decide (some w.band = next)
  let ws : List HoopWindow := match next with
    | some i =>
      if keep.any fun w => decide (w.band = i) then keep
      else keep ++ [{ half := if keep.any (fun w => decide (w.half = 0)) then 1 else 0, band := i,
                      items := (s.channel i.ch).cfg.windowItems i.b (s.refsOf i), ready := decide (s.refsOf i = []) }]
    | none => keep
  if ws = x.windows then s else s.modTamb t fun x => { x with windows := ws }

/-- The hoop window of a band is ready: of an encode band, its half's prefetch has ended (R69). -/
def State.windowReady (s : State) (t : Nat) (i : BandId) : Bool :=
  (s.channel i.ch).decode || (s.tamb t).windows.any fun w => decide (w.band = i) && w.ready

/-- A switch that is due waits for the preload of the band that comes next, or for its hoop window (R61, R63, R96); none is due any more where no band is
named. -/
def State.judgeWait (s : State) (t : Nat) : State :=
  let x := s.tamb t
  if x.due && x.coding.isNone && decide (x.repairs = []) then
    match s.firstBand x.namedBands with
    | none => s.modTamb t fun x => { x with due := false, waited := false }
    | some i =>
      let loaded (b : Bank) : Bool := decide (b.band = some i) && decide (b.phase = .loaded)
      if (decide (x.cont = some i) || loaded x.bankA || loaded x.bankB) && s.windowReady t i then s else s.modTamb t fun x => { x with waited := true }
  else s

/-- Names as long as something can be named: the two banks and one band that continues, beside the bands that are skipped as they are
named. -/
def State.name (s : State) (t : Nat) : State := (((s.nameTimes (3 + s.codec.channels.length) t).prefetch t).judgeWait t).wakeForWork t

/-- A picture becomes uncommitted while no band of its channel leaves CODING by its end: the banks that this frees are named into at once (R48). -/
def State.uncommitAndName (s : State) (c p from_ : Nat) : State := (s.uncommit c p from_).name (s.channel c).tambour

/-- A band in CODING has ended (R47): the bank is kept for the band that continues, where that has the earliest deadline of the
named bands; otherwise its writeback starts and that band is displaced. The next switch counts from now. -/
def State.leaveCoding (s : State) (t : Nat) : State :=
  let x := s.tamb t
  let next := s.firstBand x.namedBands
  let keep := match x.cont with | some j => decide (next = some j) | none => false
  let s := if keep then s else match x.cont with
    | some j => s.modBand j fun u => { u with state := .ready }
    | none => s
  s.modTamb t fun x =>
    let x := { x with coding := none, freeAt := s.nowT, due := true, waited := false, lastCh := (match x.coding with | some i => i.ch | none => x.lastCh) }
    if keep then x else { x.setBank x.active { (x.bank x.active) with phase := .writing } with cont := none }

/-! ## Stream-fatal stops and the safe state (R560, R63, R490) -/

/-- A picture has started (R55): band 0 has left ARRIVING. -/
def Pic.started (y : Pic) : Bool := decide ((y.band 0).state ≠ .arriving)

/-- The bands of a channel's started pictures that are not released, in coding order. -/
def State.unreleased (s : State) (c : Nat) : List BandId :=
  let x := s.channel c
  let ps := ((x.pics.filter fun (e : Nat × Pic) => e.2.started).map Prod.fst).mergeSort fun a b => decide (x.posOf a ≤ x.posOf b)
  ps.flatMap fun p => ((List.range (x.cfgOf p).bandCount).filter fun b => !((x.pic p).band b).released).map fun b => ⟨c, p, b⟩

/-- A channel ends (R121): the bands ABANDONED whose release has not come have their capture entries now, in coding order. -/
def State.flushAbandons (s : State) (c : Nat) : State :=
  ((s.unreleased c).filter fun i => decide ((s.band i).outcome = 1)).foldl (fun t i => (t.captureAbandon i).modBand i fun u => { u with released := true }) s

/-- The immediate part of a stream-fatal stop of channel `c` (R560). -/
def State.streamStop (s : State) (c : Nat) : State :=
  let live := (s.channel c).bandsWhere c fun u => decide (u.state = .ready) || decide (u.state = .named) || decide (u.state = .coding)
  let s := live.foldl (fun t i => if (t.band i).state = .ready ∨ (t.band i).state = .named ∨ (t.band i).state = .coding then t.abandon i else t) s
  let held := (s.channel c).bandsWhere c fun u => decide (u.state = .coded) && !u.released
  let s := held.foldl (fun t i => t.withhold i .abandoned) s
  let started := ((s.channel c).pics.filter fun (e : Nat × Pic) => e.2.started).map fun (e : Nat × Pic) => e.1
  let s := started.foldl (fun t p =>
    (List.range ((t.channel c).cfgOf p).bandCount).foldl (fun t b =>
      if (t.band ⟨c, p, b⟩).state = .arriving then t.bandOutcome ⟨c, p, b⟩ .skipped else t) t) s
  let s := (s.freeUnits c fun _ => true).modChannel c fun x => { x with rc := { x.rc with pending := [] }, out := { x.out with nextSlot := none, begun := false, active := [] } }
  (s.flushAbandons c).name (s.channel c).tambour

/-- Halts every enabled tambour for the safe state (R63, R451, R490): the bands in CODING are abandoned. -/
def State.haltTambours (s : State) : State :=
  (List.range 8).foldl (fun t n => match (t.tamb n).coding with | some i => t.abandon i | none => if t.tambEnabled n then t.assertIrq (40 + n) else t) s

/-! ## Poisoned and corrupt data (R438, R441) -/

/-- Abandons the band in CODING on tambour `t`, when there is one. -/
def State.abandonCoding (s : State) (t : Nat) : State :=
  match (s.tamb t).coding with
  | some i => s.abandon i
  | none => s

/-- A reference of the picture in CODING is corrupt (R441): it and the current picture are uncommitted; the band in CODING runs to
its end and is not released; the later bands are withheld. -/
def State.refCorrupt (s : State) (c q : Nat) : State :=
  let s := s.modPic c q fun y => { y with uncommitted := true }
  match (s.tamb (s.channel c).tambour).coding with
  | some i =>
    if i.ch = c then
      ((s.modBand i fun u => { u with corrupt := true }).uncommitAndName c i.pic (i.b + 1))
    else s
  | none => s

end Sys2Proof.Machine
end

