-- ==== Sys2Proof/Machine/CfgRec.lean ====
section
/-!
DEFINITION. The channel configuration record (R292): its fields, the checks of their home tables (R33, R37, R70–R76, R90, R100,
R117, R122, R124, R145, R362), the parameters that a channel ignores, and the canonical record with its digest (R191, R293).
-/
namespace Sys2Proof.Machine

/-- The fields of a record (R292). -/
def cfgOf (v : Nat) : ChannelCfg :=
  let f (o lo w : Nat) : Nat := bitsAt v (8 * o + lo) w
  { codec := f 0 0 1, profile := f 0 1 4, tier := f 0 5 1, level := f 0 6 8, format := f 0 14 4, rate := f 0 18 4, chroma := f 0 22 2,
    bitDepth := f 0 24 3, fieldOrder := f 0 27 1, ctb := f 0 28 2, minCu := f 0 30 1, maxTu := f 0 31 1, tuDepthIntra := f 4 0 2,
    tuDepthInter := f 4 2 2, avc8x8 := f 4 4 1, gop := f 4 5 2, nb := f 4 7 2, refs := f 4 9 1, mergeCands := f 4 10 3, tmvp := f 4 13 1,
    searchH := f 4 14 2, searchV := f 4 16 2, rdoq := f 4 18 1, sdh := f 4 19 1, tskip := f 4 20 1, scaling := f 4 21 2,
    cuQpDelta := f 4 23 1, aqStrength := f 4 24 4, deblock := f 4 28 1, loopAcross := f 4 29 1, sao := f 4 30 1, wpp := f 4 31 1,
    irPeriod := f 8 0 8, depSeg := f 8 8 1, lambdaScale := f 8 9 6, irapPeriod := f 8 16 16, deadzoneIntra := f 0x0C 0 8,
    deadzoneInter := f 0x0C 8 8, cbQpOffset := f 0x0C 16 5, crQpOffset := f 0x0C 21 5, betaOff := f 0x0C 26 4, tcOff := f 0x10 0 4,
    aud := f 0x10 4 1, tcSei := f 0x10 5 1, hash := f 0x10 6 2, vsei := f 0x10 8 1, fullRange := f 0x10 9 1, pt := f 0x10 10 7,
    rtpMax := f 0x10 17 14, colourPrim := f 0x14 0 8, transfer := f 0x14 8 8, matrix := f 0x14 16 8, scalingAddr := f 0x18 0 64,
    ssrc := f 0x20 0 32, captureQid := f 0x24 0 18, injectQid := f 0x28 0 18, bitrate := f 0x2C 0 30, rcSource := f 0x2C 30 2,
    qpInit := f 0x30 0 7, qpMin := f 0x30 8 7, qpMax := f 0x30 16 7, iRatio := f 0x30 24 6, bRatio := f 0x34 0 5, rcvAddr := f 0x38 0 64,
    bandH := f 0x40 0 2, budget := f 0x40 2 4, pin := f 0x40 8 8, readyWindow := f 0x40 16 16, alignOffset := f 0x44 0 32,
    decSlip := f 0x48 0 5, outDelay := f 0x48 5 5, dpbPics := f 0x48 10 5, mergeSkew := f 0x48 15 12, taintExt := f 0x48 27 1,
    taintExtId := f 0x48 28 4 }

/-- The 128 bytes of a configuration (R292). -/
def ChannelCfg.record (c : ChannelCfg) : Nat :=
  packFields
    ([(1, c.codec), (4, c.profile), (1, c.tier), (8, c.level), (4, c.format), (4, c.rate), (2, c.chroma), (3, c.bitDepth), (1, c.fieldOrder), (2, c.ctb), (1, c.minCu), (1, c.maxTu)] ++
     [(2, c.tuDepthIntra), (2, c.tuDepthInter), (1, c.avc8x8), (2, c.gop), (2, c.nb), (1, c.refs), (3, c.mergeCands), (1, c.tmvp), (2, c.searchH), (2, c.searchV), (1, c.rdoq), (1, c.sdh)] ++
     [(1, c.tskip), (2, c.scaling), (1, c.cuQpDelta), (4, c.aqStrength), (1, c.deblock), (1, c.loopAcross), (1, c.sao), (1, c.wpp)] ++
     [(8, c.irPeriod), (1, c.depSeg), (6, c.lambdaScale), (1, 0), (16, c.irapPeriod)] ++
     [(8, c.deadzoneIntra), (8, c.deadzoneInter), (5, c.cbQpOffset), (5, c.crQpOffset), (4, c.betaOff), (2, 0)] ++
     [(4, c.tcOff), (1, c.aud), (1, c.tcSei), (2, c.hash), (1, c.vsei), (1, c.fullRange), (7, c.pt), (14, c.rtpMax), (1, 0)] ++
     [(8, c.colourPrim), (8, c.transfer), (8, c.matrix), (8, 0), (64, c.scalingAddr), (32, c.ssrc), (18, c.captureQid), (14, 0), (18, c.injectQid), (14, 0), (30, c.bitrate), (2, c.rcSource)] ++
     [(7, c.qpInit), (1, 0), (7, c.qpMin), (1, 0), (7, c.qpMax), (1, 0), (6, c.iRatio), (2, 0), (5, c.bRatio), (27, 0), (64, c.rcvAddr)] ++
     [(2, c.bandH), (4, c.budget), (2, 0), (8, c.pin), (16, c.readyWindow), (32, c.alignOffset)] ++
     [(5, c.decSlip), (5, c.outDelay), (5, c.dpbPics), (12, c.mergeSkew), (1, c.taintExt), (4, c.taintExtId)])

/-- The reserved bits of a record (R292): byte offset of the field's row, lowest bit, width. -/
def ccrReserved : List (Nat × Nat × Nat) :=
  [(0x08, 15, 1), (0x0C, 30, 2), (0x10, 31, 1), (0x14, 24, 8), (0x24, 18, 14), (0x28, 18, 14), (0x30, 7, 1), (0x30, 15, 1), (0x30, 23, 1), (0x30, 30, 2)] ++
  [(0x34, 5, 27), (0x40, 6, 2), (0x4C, 0, 0x1A0)]

/-- The first reserved field that is not 0. -/
def reservedSet (v : Nat) : Option Nat :=
  (ccrReserved.find? fun r => decide (bitsAt v (8 * r.1 + r.2.1) r.2.2 ≠ 0)).map fun r => r.1

/-- The configuration in force (R76, R124, R145, R292): parameters that the codec, format or direction ignores hold their
defaults. -/
def ChannelCfg.held (c : ChannelCfg) (decode : Bool) : ChannelCfg :=
  let d : ChannelCfg := {}
  let order := if c.format = 2 then c.fieldOrder else 0
  if decode then
    { d with codec := c.codec, format := c.format, rate := c.rate, chroma := c.chroma, bitDepth := c.bitDepth, fieldOrder := order, bandH := c.bandH,
             budget := c.budget, pin := c.pin, readyWindow := c.readyWindow, alignOffset := c.alignOffset, injectQid := c.injectQid,
             decSlip := c.decSlip, outDelay := c.outDelay, dpbPics := c.dpbPics, mergeSkew := c.mergeSkew, taintExt := c.taintExt, taintExtId := c.taintExtId }
  else
    let c := { c with fieldOrder := order, decSlip := d.decSlip, outDelay := d.outDelay, dpbPics := d.dpbPics, mergeSkew := d.mergeSkew,
                      taintExt := d.taintExt, taintExtId := d.taintExtId }
    if c.codec = 1 then
      { c with tier := d.tier, ctb := d.ctb, minCu := d.minCu, maxTu := d.maxTu, tuDepthIntra := d.tuDepthIntra, tuDepthInter := d.tuDepthInter,
               mergeCands := d.mergeCands, sdh := d.sdh, tskip := d.tskip, sao := d.sao, wpp := d.wpp, depSeg := d.depSeg }
    else { c with avc8x8 := d.avc8x8 }

/-- A signed field within a range. -/
def signedIn (w v : Nat) (lo hi : Int) : Bool := decide (lo ≤ toSigned w v) && decide (toSigned w v ≤ hi)

/-- The checks of the parameters that both directions use, each with the byte offset of its field. -/
def ChannelCfg.commonChecks (c : ChannelCfg) (decode : Bool) : List (Nat × Bool) :=
  [(0x00, decide (c.format ≤ 3)), (0x00, decide (c.rate ≤ 10) && (decide (c.format ≠ 2) || decide (2 ≤ c.rate ∧ c.rate ≤ 4))),
   (0x00, decide (c.chroma ≠ 0)), (0x00, decide (c.bitDepth ≤ 4)), (0x40, decide (c.bandH ≤ 2)), (0x40, decide (c.pin ≤ 7) || decide (c.pin = 0xFF)),
   (0x44, decide (c.alignOffset * tauNs + tauNs ≤ (if decode then 4 else 1) * c.periodT)), (0x00, decide (c.costQ ≤ 16))]

/-- The checks of a decode channel (R145). -/
def ChannelCfg.decodeChecks (c : ChannelCfg) : List (Nat × Bool) :=
  [(0x48, decide (c.decSlip ≤ 16)), (0x48, decide (2 ≤ c.dpbPics ∧ c.dpbPics ≤ 17)), (0x48, decide (c.mergeSkew ≤ 4000)),
   (0x48, decide (1 ≤ c.taintExtId ∧ c.taintExtId ≤ 14))]

/-- The checks of an encode channel (R33, R70–R72, R76, R90, R100, R117, R122, R124); `raw` is the record before ignored
parameters are held. -/
def ChannelCfg.encodeChecks (c raw : ChannelCfg) : List (Nat × Bool) :=
  let hevc := decide (c.codec = 0)
  let prof := c.profileOf
  [(0x00, hevc || decide (c.profile ≤ 4)), (0x00, decide (c.level ≤ (if hevc then 153 else 52))),
   (0x00, !hevc || decide (c.ctb ≤ 2)), (0x00, !hevc || decide (c.bandLines % c.ctbSize = 0)), (0x00, !hevc || decide (c.maxTu = 1) || decide (32 ≤ c.ctbSize)),
   (0x00, hevc || (decide (c.chroma ≤ 2) && decide (c.depth ≤ 10))), (0x00, prof.isSome),
   (0x00, match prof with | some p => !intraProfile c.codec p || decide (c.gop = 0) | none => true),
   (0x04, decide (c.nb ≠ 0)), (0x04, decide (1 ≤ c.mergeCands ∧ c.mergeCands ≤ 5)), (0x04, decide (c.scaling ≤ 2)),
   (0x04, decide (c.aqStrength = 0) || decide (c.cuQpDelta = 1)), (0x04, hevc || decide (raw.wpp = 0)),
   (0x08, decide (c.irPeriod ≠ 1) && (decide (c.irPeriod = 0) || decide (c.gop = 1) || decide (c.gop = 2))), (0x08, decide (c.lambdaScale ≠ 0)),
   (0x0C, signedIn 5 c.cbQpOffset (-12) 12), (0x0C, signedIn 5 c.crQpOffset (-12) 12), (0x0C, signedIn 4 c.betaOff (-6) 6), (0x10, signedIn 4 c.tcOff (-6) 6),
   (0x10, decide (c.hash ≤ 2) && (hevc || decide (c.hash = 0) || decide (c.vsei = 1))), (0x10, decide (96 ≤ c.pt)),
   (0x10, decide (256 ≤ c.rtpMax ∧ c.rtpMax ≤ 8960)), (0x14, decide (1 ≤ c.colourPrim ∧ c.colourPrim ≤ 22)), (0x14, decide (1 ≤ c.transfer ∧ c.transfer ≤ 18)),
   (0x14, decide (c.matrix ≤ 14) && (decide (c.chroma = 3) || !([0, 3, 13].contains c.matrix))), (0x28, decide (c.injectQid = 0)),
   (0x2C, decide (100000 ≤ c.bitrate ∧ c.bitrate ≤ 800000000)), (0x2C, decide (c.rcSource ≤ 2)),
   (0x30, c.qpIn (toSigned 7 c.qpInit)), (0x30, c.qpIn (toSigned 7 c.qpMin)), (0x30, c.qpIn (toSigned 7 c.qpMax)),
   (0x30, decide (toSigned 7 c.qpMin ≤ toSigned 7 c.qpInit) && decide (toSigned 7 c.qpInit ≤ toSigned 7 c.qpMax)),
   (0x30, decide (16 ≤ c.iRatio)), (0x34, decide (4 ≤ c.bRatio ∧ c.bRatio ≤ 16)), (0x38, decide (c.rcvAddr % 4096 = 0)),
   (0x00, match prof with | some p => (c.levelOf p).isSome | none => true)]

/-- The first check that fails, in the order of the lists: the byte offset of its field. -/
def firstFailed (l : List (Nat × Bool)) : Option Nat := (l.find? fun e => !e.2).map fun e => e.1

/-- The first parameter of a record that is refused with BAD_FORMAT (R292): reserved bits, then the parameters. -/
def badField (v : Nat) (decode : Bool) : Option Nat :=
  match reservedSet v with
  | some o => some o
  | none =>
    let raw := cfgOf v
    let c := raw.held decode
    firstFailed (c.commonChecks decode ++ (if decode then c.decodeChecks else c.encodeChecks raw))

/-- Bytes of the custom list record and of its lists (R85). -/
def listRecord (codec : Nat) : Nat × Nat := if codec = 0 then (1024, 1000) else (224, 224)

/-- The record of SCALING 2 (R85), read from host memory or HBM: a value of 0 in a list, or a failed read, refuses it. -/
def State.readLists (s : State) (c : ChannelCfg) : Option (List Nat) :=
  let n := listRecord c.codec
  match (if c.scalingAddr < 0x400000000 then some (s.hbmRead c.scalingAddr n.1) else s.hostRead c.scalingAddr n.1) with
  | none => none
  | some v => if ((recBytes v n.2).any fun b => decide (b = 0)) then none else some (recBytes v n.1)

/-- A queue of an HBR that a channel may name (R100): created, of type HBR. -/
def State.isHbr (s : State) (q : Nat) : Bool := decide (65536 ≤ q) && (s.queue q).valid && decide ((s.queue q).ty = .hbr)

/-- CAPTURE_QID and INJECT_QID name created HBR queues (R100). -/
def State.hbrsOk (s : State) (c : ChannelCfg) : Option Nat :=
  if c.captureQid ≠ 0 ∧ s.isHbr c.captureQid = false then some 0x24
  else if c.injectQid ≠ 0 ∧ s.isHbr c.injectQid = false then some 0x28
  else none

/-- The largest frame a port carries with FCS (R356). -/
def State.portFrame (s : State) (n : Nat) : Nat := if bitAt (s.regN (Reg.netPortCfg + 0x1000 * n)) 4 then 9216 else 2000

/-- The depth that ST 2110-20 carries for a bit depth (R366, R374). -/
def carriedDepth (d : Nat) : Nat := if d = 8 then 8 else if d ≤ 10 then 10 else 12

/-- A pixel group of ST 2110-20: bytes and pixels, by sampling and carried depth; one of 4:2:0 spans two lines. -/
def pixelGroup (chroma depth : Nat) : Nat × Nat :=
  if chroma = 3 then (if depth = 8 then (3, 1) else if depth = 10 then (15, 4) else (9, 2))
  else if chroma = 2 then (if depth = 8 then (4, 2) else if depth = 10 then (5, 2) else (6, 2))
  else (if depth = 8 then (6, 4) else if depth = 10 then (15, 8) else (9, 4))

/-- The pixel group of a configuration at its carried depth. -/
def ChannelCfg.pgroup (c : ChannelCfg) : Nat × Nat := pixelGroup c.chroma (carriedDepth c.depth)

/-- Pixel groups in a row of groups: a line, or a pair of lines for 4:2:0. -/
def ChannelCfg.rowGroups (c : ChannelCfg) : Nat := (if c.chroma = 1 then 2 else 1) * c.width / c.pgroup.2

/-- Pixel groups of a picture, and packets of `pg` groups each (R374 npackets). -/
def ChannelCfg.picGroups (c : ChannelCfg) : Nat := c.width * c.lines / c.pgroup.2
def ChannelCfg.npackets (c : ChannelCfg) (pg : Nat) : Nat := (c.width * c.lines + pg * c.pgroup.2 - 1) / (pg * c.pgroup.2)

/-- Rows of groups that packet `k` touches: each has a sample row data header (R375). -/
def ChannelCfg.pktRows (c : ChannelCfg) (pg k : Nat) : Nat :=
  (min ((k + 1) * pg) c.picGroups - 1) / c.rowGroups - k * pg / c.rowGroups + 1

/-- Payload bytes of packet `k` of an output picture: RTP header, extension of R168, extended sequence number, headers, groups. -/
def ChannelCfg.pktBytes (c : ChannelCfg) (pg k : Nat) : Nat :=
  12 + 12 * c.taintExt + 2 + 6 * c.pktRows pg k + c.pgroup.1 * (min ((k + 1) * pg) c.picGroups - k * pg)

/-- The largest frame, with FCS, that an egress flow forms for a channel (R362 check 8); a pass-through flow forms none. -/
def EFlow.largest (f : EFlow) (c : ChannelCfg) : Nat :=
  if f.kind = 1 then f.header + c.rtpMax + 4
  else if f.kind = 0 then f.header + ((List.range (c.npackets f.pgroups)).map (c.pktBytes f.pgroups)).foldl max 0 + 4
  else 0

/-- Every bound egress flow of channel `ch` can carry what it forms under a configuration (R100, R362). -/
def State.flowsFit (s : State) (ch : Nat) (c : ChannelCfg) : Bool :=
  s.net.eflows.all fun (e : Nat × EFlow) => !(e.2.bound && decide (e.2.channel = some ch)) || decide (e.2.largest c ≤ s.portFrame e.2.port)

/-- The configured bit rates of all encode channels but `skip` (R117). -/
def State.bitrateSum (s : State) (skip : Nat) : Nat :=
  ((s.codec.channels.filter fun (e : Nat × Channel) => decide (e.1 ≠ skip) && decide (e.2.state ≠ .idle) && !e.2.decode).map fun (e : Nat × Channel) => e.2.cfg.bitrate).sum

/-- What a configuration gives a channel once every check has passed: the configuration in force, the custom lists, the
tambour. -/
structure Accepted where
  cfg     : ChannelCfg
  lists   : List Nat
  tambour : Nat
deriving DecidableEq, Repr

/-- The checks of CREATE and CONFIGURE on the record at an address (R292); `present`: the tambour of a configured channel. -/
def State.checkCfg (s : State) (ch : Nat) (decode : Bool) (addr : Nat) (present : Option Nat) : Reply ⊕ Accepted :=
  if addr % 8 ≠ 0 then .inl (Reply.field St.badFormat 0x08)
  else match (if addr = 0 then some (ChannelCfg.record {}) else s.hostRead addr 128) with
    | none => .inl { status := St.dmaError }
    | some v =>
      match badField v decode with
      | some o => .inl (Reply.recField St.badFormat o)
      | none =>
        let c := (cfgOf v).held decode
        let lists : Option (List Nat) := if decode = false ∧ c.scaling = 2 then s.readLists c else some []
        match lists, s.hbrsOk c with
        | none, _ => .inl (Reply.recField St.badFormat 0x18)
        | some _, some o => .inl (Reply.recField St.noQueue o)
        | some l, none =>
          if decode = false ∧ c.rcSource = 1 ∧ s.fw.ctrlLoaded = false then .inl (Reply.recField St.badState 0x2C)
          else if decode = false ∧ s.twin.phase ≠ .disabled ∧ c.gop = 3 ∧ c.rcSource = 2 then .inl (Reply.recField St.twinRefused 0x2C)
          else if s.flowsFit ch c = false then .inl (Reply.recField St.badFormat 0x10)
          else if decode = false ∧ 32000000000 < s.bitrateSum ch + c.bitrate then .inl (Reply.recField St.noCapacity 0x2C)
          else match s.place ch c.pin present (demandOf decode c) with
            | none => .inl { status := St.noCapacity }
            | some t => .inr { cfg := c, lists := l, tambour := t }

/-- BAND_RATE in whole bands per second, rounded up (R291). -/
def wholeRate (r : Nat) : Nat := (r + 1000999) / 1001000

/-- RESULT of CREATE and CONFIGURE (R291). -/
def Accepted.result (a : Accepted) : Nat := packFields [(4, a.tambour), (28, a.cfg.costQ), (32, wholeRate a.cfg.bandRate)]

/-- Puts an accepted configuration in force. -/
def Channel.configure (x : Channel) (a : Accepted) : Channel :=
  { x with cfg := a.cfg, lists := a.lists, listCrc := (if a.cfg.scaling = 2 then crc32c (a.lists.foldr (fun b r => b + 256 * r) 0) a.lists.length else 0),
           tambour := a.tambour, costQ := a.cfg.costQ, bandRate := a.cfg.bandRate, serviceT := a.cfg.serviceT,
           budgetHeld := effBudget x.decode a.cfg, short := decide (effBudget x.decode a.cfg < a.cfg.bandT) }

/-- The canonical record (R293) with a start time, as the number its 138 bytes spell, and the channel digest (R191). -/
def Channel.canonical (x : Channel) (startNs : Nat) : Nat :=
  let c := { x.cfg with pin := 0, captureQid := 0, injectQid := 0, rcSource := 0, rcvAddr := 0, scalingAddr := x.listCrc }
  packFields [(1024, c.record), (48, startNs / 1000000000), (32, startNs % 1000000000)]
def Channel.digestAt (x : Channel) (startNs : Nat) : Nat := crc64 (x.canonical startNs) 138

/-- The SSRC in use (R115). -/
def Channel.ssrcOf (x : Channel) (ch : Nat) : Nat :=
  if x.cfg.ssrc ≠ 0 then x.cfg.ssrc
  else crc32c (packFields [(32, ch), (48, x.startNs / 1000000000), (32, x.startNs % 1000000000)]) 14

end Sys2Proof.Machine
end

