-- ==== Sys2Proof/Machine/RxParse.lean ====
section
/-!
DEFINITION. A port's parser: what a received frame's bytes say for the checks and the classification of R357–R359. The layouts of Ethernet,
802.1Q, IP, UDP and ICMPv6 headers are those of their standards, which the manual names and does not repeat (PRESUMED, log 126).
-/
namespace Sys2Proof.Machine

/-- The big-endian number of `n` bytes of a frame from offset `a` on. -/
def beAt (bs : List Byte) (a n : Nat) : Nat := (List.range n).foldl (fun v i => 256 * v + (bs.getD (a + i) 0).toNat) 0

/-- The little-endian number of `n` bytes from offset `a` on: an address in wire order, as flow records hold it (R360). -/
def wireAt (bs : List Byte) (a n : Nat) : Nat := (List.range n).foldr (fun i v => 256 * v + (bs.getD (a + i) 0).toNat) 0

/-- The one's complement sum of a list of bytes as 16-bit big-endian words. -/
def onesSum (bs : List Nat) : Nat :=
  match bs with
  | [] => 0
  | [b] => 256 * b
  | a :: b :: rest => 256 * a + b + onesSum rest

/-- The one's complement of a sum folded to 16 bits. -/
def onesCheck (v : Nat) : Nat := 65535 - (if v = 0 then 0 else (v - 1) % 65535 + 1)

/-- `n` bytes of a frame from `a` on. -/
def rxBytes (bs : List Byte) (a n : Nat) : List Nat := ((bs.drop a).take n).map BitVec.toNat

/-- The VLAN tags of a frame: how many, the VID of the first, and the offset of the EtherType behind them. -/
def vlanTags (n : Nat) (bs : List Byte) (at_ tags vid : Nat) : Nat × Nat × Nat :=
  match n with
  | 0 => (tags, vid, at_)
  | k + 1 =>
    if beAt bs at_ 2 = 0x8100 ∨ beAt bs at_ 2 = 0x88A8 then vlanTags k bs (at_ + 4) (tags + 1) (if tags = 0 then beAt bs (at_ + 2) 2 % 4096 else vid)
    else (tags, vid, at_)

/-- The length of a frame with its FCS. -/
def rxLen (f : RxFrame) : Nat := f.bytes.length + 4

/-- The IP addressing of a received frame (R358, R359). -/
structure RxKeys where
  vlanTags : Nat
  vid      : Nat
  ipv6     : Bool
  dstAddr  : Nat
  dstPort  : Nat
  srcAddr  : Nat
deriving DecidableEq, Repr

/-- What the parser finds. -/
structure RxInfo where
  pause    : Bool := false
  csumOk   : Bool := true
  /-- The keys of a UDP frame. -/
  keys     : Option RxKeys := none
  /-- 1: a PTP message; 2: another frame for firmware, by its protocol; 0: neither (R359). -/
  firmware : Nat := 0
  /-- A membership query (R363): over IPv6 or not, and the group it names, 0 for a general one. -/
  query    : Option (Bool × Nat) := none
  rtpOfs   : Nat := 0
deriving DecidableEq, Repr

/-- The UDP checksum is correct, or 0 in IPv4 (R357): `u` is the offset of the UDP header, `a` and `n` name the addresses. -/
def udpOk (bs : List Byte) (ipv6 : Bool) (a n u : Nat) : Bool :=
  let len := beAt bs (u + 4) 2
  (!ipv6 && decide (beAt bs (u + 6) 2 = 0)) || decide (onesCheck (onesSum (rxBytes bs u len) + onesSum (rxBytes bs a n) + 17 + len) = 0)

/-- A UDP header at `u` gives the keys, the RTP offset, and whether the message is one of PTP. -/
def parseUdp (bs : List Byte) (tags vid : Nat) (ipv6 : Bool) (dst src u : Nat) (ok : Bool) : RxInfo :=
  let port := beAt bs (u + 2) 2
  { csumOk := ok, keys := some ⟨tags, vid, ipv6, dst, port, src⟩, firmware := if port = 319 ∨ port = 320 then 1 else 0, rtpOfs := u + 8 }

/-- An IPv4 header at `o`. -/
def parseV4 (bs : List Byte) (tags vid o : Nat) : RxInfo :=
  let n := 4 * (beAt bs o 1 % 16)
  let whole := decide (onesCheck (onesSum (rxBytes bs o n)) = 0) && decide (beAt bs (o + 6) 2 % 16384 = 0)
  let proto := beAt bs (o + 9) 1
  if proto = 17 then parseUdp bs tags vid false (wireAt bs (o + 16) 4) (wireAt bs (o + 12) 4) (o + n) (whole && udpOk bs false (o + 12) 8 (o + n))
  else { csumOk := whole, firmware := if proto = 2 then 2 else 0,
         query := if proto = 2 ∧ beAt bs (o + n) 1 = 0x11 then some (false, wireAt bs (o + n + 4) 4) else none }

/-- What follows the hop-by-hop, routing and destination options headers of an IPv6 packet: its protocol and where it begins. -/
def v6Upper (n : Nat) (bs : List Byte) (next u : Nat) : Nat × Nat :=
  match n with
  | 0 => (next, u)
  | k + 1 => if next = 0 ∨ next = 43 ∨ next = 60 then v6Upper k bs (beAt bs u 1) (u + 8 + 8 * beAt bs (u + 1) 1) else (next, u)

/-- An IPv6 header at `o`. -/
def parseV6 (bs : List Byte) (tags vid o : Nat) : RxInfo :=
  let up := v6Upper bs.length bs (beAt bs (o + 6) 1) (o + 40)
  let next := up.1
  let u := up.2
  if next = 17 then parseUdp bs tags vid true (wireAt bs (o + 24) 16) (wireAt bs (o + 8) 16) u (udpOk bs true (o + 8) 32 u)
  else
    let ty := beAt bs u 1
    { csumOk := decide (next ≠ 44), firmware := if next = 58 ∧ ((130 ≤ ty ∧ ty ≤ 137) ∨ ty = 143) then 2 else 0,
      query := if next = 58 ∧ ty = 130 then some (true, wireAt bs (u + 8) 16) else none }

/-- What the bytes of a frame say; of MAC Control frames PAUSE and PFC alone are such for check 3. -/
def parseFrame (bs : List Byte) : RxInfo :=
  let t := vlanTags bs.length bs 12 0 0
  let o := t.2.2 + 2
  let ty := beAt bs t.2.2 2
  if ty = 0x8808 then { pause := decide (beAt bs o 2 = 0x0001) || decide (beAt bs o 2 = 0x0101) }
  else if ty = 0x88F7 then { firmware := 1 }
  else if ty = 0x0806 then { firmware := 2 }
  else if ty = 0x0800 then parseV4 bs t.1 t.2.1 o
  else if ty = 0x86DD then parseV6 bs t.1 t.2.1 o
  else {}

end Sys2Proof.Machine
end

