-- ==== Sys2Proof/Machine/FlowMeter.lean ====
section
/-!
DEFINITION. What each arrival on an ingress flow shows (R184): CINST and VRX of ST 2110-21, the jitter of both models. CMAX, VRX_FULL and
the drain spacing are those that the standard derives from the format; the manual does not give them, and they are open constants (log 70).
-/
namespace Sys2Proof.Machine

/-- What the models give at an arrival (R184): CINST, VRX, drain instants found empty since the last, the jitter in ns, and whether the
packet is the first of its frame. -/
structure FlowSample where
  cinst  : Nat := 0
  vrx    : Nat := 0
  empty  : Nat := 0
  jitter : Int := 0
  first  : Bool := false
deriving DecidableEq, Repr

/-- The configuration of a flow's channel. A flow with CHANNEL 0xFF has none, and its entry holds no video format: its measures take the default configuration
(DESIGN CHOICE, log 144). -/
def State.flowCfg (s : State) (n : Nat) : ChannelCfg := match (s.iflow n).channel with | some c => (s.channel c).cfg | none => {}

/-- Packets of a frame (R365). -/
def ChannelCfg.framePackets (c : ChannelCfg) (f : IFlow) : Nat := max 1 (c.positions (max 1 f.pktPixels))

/-- The format of a flow, as the standard's parameters take it: packets of a frame, its τ, active and total lines. -/
def ChannelCfg.flowFormat (c : ChannelCfg) (f : IFlow) : List Nat := [c.framePackets f, c.periodT, c.lines * (if c.fields then 2 else 1), c.totalLines]

/-- CMAX and VRX_FULL of the models (R183, R184): open constants of the sender type and the format. -/
def State.flowCmax (s : State) (n : Nat) : Nat := Config.cmaxOf (s.iflow n).sender ((s.flowCfg n).flowFormat (s.iflow n)) % 65536
def State.flowVrxFull (s : State) (n : Nat) : Nat := Config.vrxFullOf (s.iflow n).sender ((s.flowCfg n).flowFormat (s.iflow n)) % 65536

/-- TRS of the configured sender as a fraction of τ (R184), by the sender model of R374. -/
def ChannelCfg.flowTrs (c : ChannelCfg) (f : IFlow) : Nat × Nat :=
  if f.sender = 1 then (c.periodT, c.framePackets f) else (c.periodT * c.lines * (if c.fields then 2 else 1), c.framePackets f * c.totalLines)

/-- Drain instants of the virtual receiver buffer up to τ `t`: TPR0 + TROFFSET + k × TRS of every frame on the grid. -/
def ChannelCfg.drainsTo (c : ChannelCfg) (f : IFlow) (t : Nat) : Nat :=
  let t0 := f.trOffset * tauNs
  let r := c.flowTrs f
  let p := max 1 c.periodT
  if t < t0 then 0 else (t - t0) / p * c.framePackets f + min (c.framePackets f) ((t - t0) % p * r.2 / max 1 r.1 + 1)

/-- The virtual receiver buffer drains up to τ `t`: how many instants found it empty. -/
def FlowMeter.drain (m : FlowMeter) (c : ChannelCfg) (f : IFlow) (t : Nat) : FlowMeter × Nat :=
  match m.vrxAt with
  | none => (m, 0)
  | some a =>
    let d := c.drainsTo f (max a t) - c.drainsTo f a
    ({ m with vrx := m.vrx - d, vrxAt := some (max a t) }, d - m.vrx)

/-- The bucket of the network compatibility model drains by one every `d` τ up to `t`. -/
def FlowMeter.leak (m : FlowMeter) (d t : Nat) : FlowMeter :=
  let n := (t - m.leakAt) / max 1 d
  if m.bucket ≤ n then { m with bucket := 0, leakAt := t } else { m with bucket := m.bucket - n, leakAt := m.leakAt + n * max 1 d }

/-- Offset of the payload behind an RTP header. -/
def rtpBody (bs : List Byte) (o : Nat) : Nat :=
  let b := beAt bs o 1
  o + 12 + 4 * (b % 16) + (if bitAt b 4 then 4 + 4 * beAt bs (o + 14 + 4 * (b % 16)) 2 else 0)

/-- The τ of the RTP timestamp `ts` that lies nearest to `now`, at 90 kHz. -/
def rtpTime (now ts : Nat) : Nat := 300000000 * ((now / 300000000 : Nat) + toSigned 32 (ofSigned 32 ((ts : Int) - (now / 300000000 : Nat)))).toNat

/-- The KIND 0 jitter sample in ns (R184): `at_` is the arrival in τ, `tpr0` the frame's aligned time, `k` the packet's position. The path
delay counts as part of the time at which the packet is expected (DEDUCED, log 70). -/
def ChannelCfg.flowJitter (c : ChannelCfg) (f : IFlow) (at_ tpr0 k : Nat) : Int :=
  let r := c.flowTrs f
  ((at_ : Int) - (tpr0 + (f.trOffset + f.pathDelay) * tauNs + k * r.1 / max 1 r.2 : Nat)) / (tauNs : Int)

/-- RFC 3550's estimate, in sixteenths of an RTP unit: J := J + (|D| − J) / 16, by the integer form of its Appendix A.8 (PRESUMED, log 70). -/
def rfcJitter (j : Nat) (d : Int) : Nat := j + d.natAbs - (j + 8) / 16

/-- The RTP clock of a flow in Hz: 90,000 for ST 2110-22; of other RTP the manual gives no rate (log 70). -/
def rtpRate (kind n : Nat) : Nat := if kind = 2 then max 1 (Config.rtpClock n) else 90000

/-- The meter of a flow after an arrival at τ `at_` of the packet with RTP timestamp `ts`, and what it shows. `aligned`: the aligned time of
that timestamp's frame; `k`: the packet's position. -/
def State.flowArrival (s : State) (n at_ ssrc ts aligned k : Nat) : FlowMeter × FlowSample :=
  let f := s.iflow n
  let c := s.flowCfg n
  let m := SMap.get (fun _ => {}) s.codec.meters n
  -- The estimate of RFC 3550 is one source's.
  let m := if m.ssrc = some ssrc then m else { m with ssrc := some ssrc, lastTs := none, transit := none, jit := 0 }
  let first := match m.lastTs with | some t => decide (t ≠ ts) && decide ((ts + 2 ^ 32 - t) % 2 ^ 32 < 2 ^ 31) | none => true
  let rate := rtpRate f.kind n
  let transit : Int := (at_ * rate / tauSec : Nat) - (ts : Int)
  let jit := match m.transit with | some t => rfcJitter m.jit (toSigned 32 (ofSigned 32 (transit - t))) | none => m.jit
  let m := { m with lastTs := if first then some ts else m.lastTs, transit := some transit, jit := jit }
  if f.kind = 0 then
    let m := m.leak (Config.drainOf f.sender (c.flowFormat f)) at_
    let d := { m with vrxAt := some (m.vrxAt.getD at_) }.drain c f at_
    let m := { d.1 with bucket := m.bucket + 1, vrx := d.1.vrx + 1 }
    (m, { cinst := m.bucket, vrx := m.vrx, empty := d.2, jitter := c.flowJitter f at_ aligned k, first := first })
  else (m, { jitter := (jit * 1000000000 / (16 * rate) : Nat), first := first })

end Sys2Proof.Machine
end

