-- ==== Sys2Proof/Machine/Irq.lean ====
section
/-!
DEFINITION. The interrupt controller's commands (R451–R468) and the MSI-X messages of host queues (R287, R463).
-/
namespace Sys2Proof.Machine

/-- The sources that something can assert (R451): 1–511 without the reserved ones. -/
def irqSourceOk (n : Nat) : Bool :=
  decide (1 ≤ n ∧ n ≤ 511) && !decide (54 ≤ n ∧ n ≤ 63) && !decide (192 ≤ n ∧ n ≤ 255)

/-- The filtered line of a source rises (R452): an assertion. A line that is high does not rise. -/
def State.lineRise (s : State) (n : Nat) : State :=
  if (s.src n).line then s
  else (s.modSrc n fun i => { i with line := true }).assertIrq n

/-- INTERRUPT_ASSERTION (R452–R455, R461). -/
def execInterruptAssertion (src : Nat) (s : State) : Host.Outcome State Fault Refusal :=
  if irqSourceOk src then .next (s.lineRise src) else .fault .noSuchUnit

/-- FILTERED_LINE_FALL (R452, R459): LINE falls; what is pending stays pending. -/
def execFilteredLineFall (src : Nat) (s : State) : Host.Outcome State Fault Refusal :=
  if irqSourceOk src then .next (s.dropLine src) else .fault .noSuchUnit

/-- The highest-numbered source that core `c` may claim now (R457); 0 when there is none. Sources at reset values are never
pending, so the listed ones are all that can qualify. -/
def State.claimable (s : State) (c : Nat) : Nat :=
  s.irq.foldl (fun best e => if e.2.pending && !e.2.inService && e.2.claimRoute c then e.1 else best) 0

/-- A core's request line (R456): some source that it could claim is pending. -/
def State.requestLine (s : State) (c : Nat) : Bool := decide (s.claimable c ≠ 0)

/-- A claim by core `c` (R457): the source goes in service, its pending flag is cleared; the read returns its number, or 0. -/
def State.claim (s : State) (c : Nat) : State :=
  let n := s.claimable c
  let s := { s with lastRead := BitVec.ofNat 32 n }
  if n = 0 then s
  else s.modSrc n fun i => { i with pending := false, inService := true, owner := c }

/-- IRQ_CLAIM (R457, R467). -/
def execIrqClaim (core : Nat) (s : State) : Host.Outcome State Fault Refusal :=
  if core < 4 then .next (s.claim core) else .fault .noSuchUnit

/-- A complete by core `c` of source `n` (R458): without effect but for IRQ_BAD_COMPLETE when `c` does not hold it. -/
def State.complete (s : State) (c n : Nat) : State :=
  let i := s.src n
  if 1 ≤ n ∧ n ≤ 511 ∧ i.inService = true ∧ i.owner = c then s.modSrc n IrqSrc.complete
  else s.raise Src.irq Kind.irqBadComplete 0 n

/-- IRQ_COMPLETE (R458, R467): SOURCE is bits [8:0] of the write. -/
def execIrqComplete (core : Nat) (v : Word) (s : State) : Host.Outcome State Fault Refusal :=
  if core < 4 then .next (s.complete core (bitsAt v.toNat 0 9)) else .fault .noSuchUnit

/-- IRQ_PENDING_CLEAR (R455, R459): the source becomes idle, and a level source whose line is high is set again. -/
def execIrqPendingClear (src : Nat) (s : State) : Host.Outcome State Fault Refusal :=
  if 1 ≤ src ∧ src ≤ 511 then .next (s.modSrc src fun i => { i with pending := false }.sample) else .fault .noSuchUnit

/-- IRQ_SWI (R466): an assertion of source 4 + c for each bit c. -/
def execIrqSwi (mask : BitVec 4) (s : State) : Host.Outcome State Fault Refusal :=
  .next ([0, 1, 2, 3].foldl (fun t c => if bitAt mask.toNat c then t.assertIrq (4 + c) else t) s)

/-- A core returns fallback records (R462, R468): its queue's HEAD takes the index, and the line of source 8 + c falls when
the queue is empty then. An index that passes the producer index has no effect and raises DB_INVALID. -/
def State.returnRecords (s : State) (c head : Nat) : State :=
  match s.takeConsumer (fbQueue c) head with
  | some t => if (t.queue (fbQueue c)).isEmpty then t.rawLine (8 + c) false else t
  | none => s.raise Src.irq Kind.dbInvalid 0 (fbQueue c)

/-- IRQ_EVQ_HEAD (R462, R468). -/
def execIrqEvqHead (core : Nat) (head : Word) (s : State) : Host.Outcome State Fault Refusal :=
  if core < 4 then .next (s.returnRecords core head.toNat) else .fault .noSuchUnit

/-- MSIX_MESSAGE (R287): the message that waited for COALESCE_US is sent once that time has passed since the last one. -/
def execMsixMessage (q : Nat) (s : State) : Host.Outcome State Fault Refusal :=
  if q < 262144 then
    let u := s.queue q
    if u.valid && u.msiDue && decide ((u.lastMsi.getD 0) + 1000 * u.dueUs ≤ s.now) then
      let t := s.modQueue q fun u => { u with msiDue := false, lastMsi := some s.now }
      .next (if u.space = .host then t.msixSend u.vector else t.assertIrq (256 + u.vector))
    else .next s
  else .fault .noSuchUnit

/-- Clears the mask of vector `v` (R463): a held message is sent, unless the Function Mask still holds it. -/
def State.msixClearMask (s : State) (v : Nat) : State :=
  let h := { s.host with unmasked := SMap.set (fun _ => false) s.host.unmasked v true }
  if SMap.get (fun _ => false) h.vecPend v && h.msixEnable && !h.funcMask then
    { s with host := { h with vecPend := SMap.set (fun _ => false) h.vecPend v false, msiSent := SMap.modify (fun _ => 0) h.msiSent v (· + 1) } }
  else { s with host := h }

/-- MSIX_UNMASK (R463). -/
def execMsixUnmask (v : Nat) (s : State) : Host.Outcome State Fault Refusal :=
  if v < 64 then .next (s.msixClearMask v) else .fault .noSuchUnit

end Sys2Proof.Machine
end

