-- ==== Sys2Proof/Machine/HostRegs.lean ====
section
/-!
DEFINITION. Register accesses without a command of their own: plain writes and 64-bit pairs, reads that clear, misaligned
accesses (R3, R9–R12, R263, R267, R382, R464).
-/
namespace Sys2Proof.Machine

/-- The register responds (R3, R263): outside RUNNING only DEV, HST, WSW, RST, FLT and FUSE do; the TMB, PRK and SPT windows of
absent tambours never do. -/
def State.responds (s : State) (a : Nat) : Bool :=
  let always := decide (a < 0x1100) || decide (0x2000 ≤ a ∧ a < 0x4000) || decide (0x8000 ≤ a ∧ a < 0x8200) || decide (0x100000 ≤ a)
  let absent := (decide (Reg.tmb ≤ a ∧ a < 0x60000) && !s.tambEnabled ((a - Reg.tmb) / 0x2000)) ||
    (decide (Reg.prk ≤ a ∧ a < Reg.prk + 0x800) && !s.tambEnabled ((a - Reg.prk) / 0x100)) ||
    (decide (0x28000 ≤ a ∧ a < 0x28080) && !s.tambEnabled ((a - 0x28000) / 0x10))
  (always || decide (s.rst.state = .running)) && !absent

/-- Registers that cannot be changed before READY (R265) and once ENABLED (R271), and the step pair that the host may write only when it steers
(R408). -/
def State.writeLocked (s : State) (who : Requester) (a : Nat) : Bool :=
  (s.host.enabled && decide (Reg.hstAsq ≤ a ∧ a < 0x8030)) || (!s.host.ready && decide (0x8000 ≤ a ∧ a < 0x8100)) ||
    (decide (a = Reg.timeStepLo) && decide (who = .host) && decide (s.field Reg.timeCfg 0 1 = 0)) ||
    (decide (who ≠ .host) && decide (0x8000 ≤ a ∧ a < 0x8200))

/-- A write to NET_PORT_CFG (R382): MODE, GROUP, JUMBO and AN only while ENABLE is 0; JUMBO stays while a bound flow of the
port needs it. -/
def State.writePortCfg (s : State) (n v : Nat) : State :=
  let a := Reg.netPortCfg + 0x1000 * n
  if s.field a 0 1 = 1 then s
  else
    let needs := s.net.eflows.any fun (e : Nat × EFlow) => e.2.bound && decide (e.2.port = n) &&
      (match e.2.channel with | some c => decide (2000 < e.2.largest (s.channel c).cfg) | none => false)
    let jumbo := if bitAt (s.regN a) 4 && needs then 1 else bitsAt v 4 1
    s.setRegN a (packFields [(1, 0), (3, bitsAt v 1 3), (1, jumbo), (1, bitsAt v 5 1)])

/-- A write to IRQ_SRCn (R464): ROUTE, LEVEL, FILTER and INVERT together; LEVEL is fixed for sources 8–11 and 256–511; PENDING is W1C. A level
source whose line is high becomes pending (R455). A change of INVERT turns the filtered line over, and its rise is an assertion (R452). -/
def State.writeIrqSrc (s : State) (n v : Nat) : State :=
  let fixed := decide (8 ≤ n ∧ n ≤ 11) || decide (256 ≤ n)
  let t := s.modSrc n fun i =>
    ({ i with route := bitsAt v 0 8, level := if fixed then i.level else bitAt v 8, filter := bitsAt v 9 4, invert := bitAt v 13,
              pending := i.pending && !bitAt v 14 } : IrqSrc).sample
  if (s.src n).invert = bitAt v 13 then t else if (s.src n).line then t.dropLine n else t.raiseLine n

/-- Sends the held messages of unmasked vectors when the Function Mask clears (R463). -/
def State.clearFuncMask (s : State) : State :=
  let s := { s with host := { s.host with funcMask := false } }
  s.host.vecPend.foldl (fun t e => if SMap.get (fun _ => false) t.host.unmasked e.1 then t.msixClearMask e.1 else t) s

/-- A write outside BAR0: the MSI-X table of BAR4 at 0x10_0000 on, and the items of configuration space at 0x20_0000 on (R262, R263, R271, R463). -/
def State.writeOutside (s : State) (a v : Nat) : State :=
  if 0x100000 ≤ a ∧ a < 0x100400 ∧ a % 16 = 12 then
    if bitAt v 0 then { s with host := { s.host with unmasked := SMap.set (fun _ => false) s.host.unmasked ((a - 0x100000) / 16) false } }
    else s.msixClearMask ((a - 0x100000) / 16)
  else if 0x100000 ≤ a ∧ a < 0x100400 ∧ a % 4 = 0 then
    { s with host := { s.host with msixTable := SMap.set (fun _ => 0) s.host.msixTable (a - 0x100000) (if a % 16 = 0 then v / 4 * 4 else v) } }
  else if pciMask a ≠ 0 then
    -- A payload size above 512 B, and a read request above 4,096 B, is none that the function has.
    let w := v &&& pciMask a
    if (a = 0x200010 ∧ 2 < w) ∨ (a = 0x200014 ∧ 5 < w) then s else { s with host := { s.host with config := SMap.set (fun _ => 0) s.host.config a w } }
  else if a = 0x200000 then { s with host := { s.host with busMaster := bitAt v 0 } }
  else if a = 0x200004 then { s with host := { s.host with atomicReq := bitAt v 0 } }
  else if a = 0x200008 then { s with host := { s.host with msixEnable := bitAt v 0 } }
  else if a = 0x20000C then (if bitAt v 0 then { s with host := { s.host with funcMask := true } } else s.clearFuncMask)
  else s

/-- A plain write of a register word (R10, R12): RW and RWS bits take the value, W1C bits that are written 1 clear, every
other bit stays. -/
def plainWrite (r : RegRow) (old v : Nat) : Nat := (old &&& (allBits ^^^ (r.rw ||| r.w1c))) ||| (v &&& r.rw) ||| (old &&& r.w1c &&& (allBits ^^^ v))

/-- A write to a register of the file: the low word of a pair is held, the high word commits both (R11). -/
def State.writeFile (s : State) (who : Requester) (a v : Nat) : State :=
  match regRow a with
  | none => s
  | some r =>
    if r.lo then s.holdLow who a (BitVec.ofNat 32 (v &&& r.rw))
    else if r.hi then
      let s := s.commitPair who (a - 4) (BitVec.ofNat 32 (v &&& r.rw))
      if Reg.ck ≤ a ∧ a < Reg.timeCfg then s.setPair (a - 4) (s.ckWidth ((a - Reg.ck) / 0x100)) (s.pair (a - 4)) else s
    else s.setRegN a (plainWrite r (s.regN a) v)

/-- REGISTER_WRITE (R10–R12). A new poll interval is counted from the tick that is due under the old one (R279). A register whose write has a behaviour of its own is written by its own command. -/
def execRegisterWrite (who : Requester) (addr : Nat) (v : Word) (s : State) : Host.Outcome State Fault Refusal :=
  if s.responds addr = false ∨ s.writeLocked who addr = true then .next s
  else if 0x100000 ≤ addr then .next (s.writeOutside addr v.toNat)
  else if 0x4004 ≤ addr ∧ addr < 0x4800 ∧ addr % 4 = 0 then .next (s.writeIrqSrc ((addr - 0x4000) / 4) v.toNat)
  else if inRegs addr Reg.netPortCfg 0x1000 8 then .next (s.writePortCfg ((addr - Reg.netPortCfg) / 0x1000) v.toNat)
  else if addr = Reg.wswPoll then .next (({ s with host := { s.host with nextPoll := s.dueTick } } : State).writeFile who addr v.toNat)
  else .next (s.writeFile who addr v.toNat)

/-- BAR_MISALIGNED (R9): the access has no effect and reads 0; a class 0 notice. -/
def execBarMisaligned (addr : Nat) (s : State) : Host.Outcome State Fault Refusal :=
  .next ({ s with lastRead := 0 }.raise Src.hostIf Kind.barMisaligned addr 0)

end Sys2Proof.Machine
end

