-- ==== Sys2Proof/Machine/StatsRing.lean ====
section
/-!
DEFINITION. Statistics rings (R179, R187), the intervals of subscriptions (R183, R186, R188), and flow and port records (R183–R185).
-/
namespace Sys2Proof.Machine

/-! ## Writing a record (R179, R187) -/

/-- Slots that the reader has returned; a host ring's record is read again when they are too few (R283); a read
that fails halts the windlass (R269, R278). -/
def State.refreshFor (s : State) (q need : Nat) : State :=
  let u := s.queue q
  if u.space = .host ∧ 2 ^ u.log2 < u.fill + need then
    match s.hostRead (s.dbRecord q) 4 with
    | some i => match s.takeConsumer q i with
      | some t => t
      | none => s.dbInvalid q
    | none => s.haltWindlass 5
  else s

/-- The header word of a record (R179). -/
def recordHeader (ty slots phase afterLoss rseq : Nat) : Nat := packFields [(8, ty), (4, slots), (1, phase), (1, afterLoss), (2, 0), (16, rseq)]

/-- Raises a ring's vector or event, with at least `us` µs between two (R186). -/
def State.signalRing (s : State) (q us : Nat) : State :=
  let u := s.queue q
  if u.vecEn = false then s
  else if u.space = .host then s.signalWith q us
  else match u.lastMsi with
    | some t =>
      if s.now < t + 1000 * us then s.modQueue q fun u => { u with msiDue := true, dueUs := us }
      else (s.modQueue q fun u => { u with lastMsi := some s.now, msiDue := false }).assertIrq (256 + u.vector)
    | none => (s.modQueue q fun u => { u with lastMsi := some s.now, msiDue := false }).assertIrq (256 + u.vector)

/-- Writes a record of `slots` slots on ring `q`: a PAD first where it would wrap; dropped whole where they do not fit. `body` is the
record from byte 4 on. -/
def State.putRecord (s : State) (q us ty slots body : Nat) : State :=
  if (s.queue q).valid = false then s
  else
    let size := 2 ^ (s.queue q).log2
    let room := size - (s.queue q).tail % size
    let pad := if room < slots then room else 0
    let s := s.refreshFor q (slots + pad)
    let u := s.queue q
    if size < u.fill + slots + pad then s.modQueue q fun u => { u with seq := (u.seq + 1) % 2 ^ 16, afterLoss := true }
    else
      let s := if pad = 0 then s else s.spaceWrite u.space (u.slot u.tail) (64 * pad) (recordHeader 0 pad (u.phase u.tail) 0 u.seq)
      let t := (u.tail + pad) % 2 ^ 32
      let s := s.spaceWrite u.space (u.slot t) (64 * slots) (recordHeader ty slots (u.phase t) (b2n u.afterLoss) u.seq + 2 ^ 32 * body)
      (s.modQueue q fun u => { u with tail := (t + slots) % 2 ^ 32, seq := (u.seq + 1) % 2 ^ 16, afterLoss := false }).signalRing q us

/-! ## Intervals -/

/-- Changes the subscriptions of a source. -/
def State.modSubs (s : State) (kind source : Nat) (f : Sub → Sub) : State :=
  { s with codec := { s.codec with subs := s.codec.subs.map fun u => if u.kind = kind ∧ u.source = source then f u else u } }

/-- A subscription's interval in ns, and the end of the one in progress: the next multiple since the epoch (R183). -/
def Sub.span (u : Sub) : Nat := max 1 (1000000 * u.interval)
def Sub.ends (u : Sub) : Nat := (u.since / u.span + 1) * u.span

/-- The order of records due at one instant (R188): the lower SOURCE_KIND, then the lower SOURCE. -/
def Sub.prior (a b : Sub) : Bool := decide (a.kind < b.kind) || (decide (a.kind = b.kind) && decide (a.source ≤ b.source))

/-- The order of records that are due: by the instant, then by `prior`. -/
def Sub.before (a b : Sub) : Bool := decide (a.ends < b.ends) || (decide (a.ends = b.ends) && a.prior b)

/-- Counts for the interval in progress of every subscription of a source, once it has begun. -/
def State.meter (s : State) (kind source : Nat) (f : Measure → Measure) : State :=
  s.modSubs kind source fun u => if u.since ≤ s.now then { u with meas := f u.meas } else u

/-- The interval in progress is PARTIAL: a port's link has changed (R183). -/
def State.markPartial (s : State) (kind source : Nat) : State := s.modSubs kind source fun u => { u with isPartial := true }

/-- A new interval of a source begins now with a change (R183): a subscription or a flow bind. -/
def State.restartInterval (s : State) (kind source : Nat) : State :=
  s.modSubs kind source fun u => { u with since := s.now, isPartial := true, meas := { jitLast := u.meas.jitLast } }

/-- The measures of a subscription's next interval: only the running jitter estimate goes on (R184). -/
def Measure.next (m : Measure) : Measure := { jitLast := m.jitLast }

/-- The floor of a mean, 0 of nothing. -/
def floorMean (sum : Int) (n : Nat) : Int := if n = 0 then 0 else sum / (n : Int)

/-- A flow record from byte 4 on (R183). -/
def State.flowRecord (s : State) (u : Sub) (part : Bool) : Nat :=
  let f := s.iflow u.source
  let m := u.meas
  let j (x : Int) : Nat := ofSigned 32 x
  packFields [(11, u.source), (1, 0), (3, f.port), (1, 0), (2, f.kind), (2, if f.kind = 0 then f.sender else 0), (1, b2n part), (11, 0), (64, u.since),
    (32, m.packets), (32, m.drops), (48, m.octets), (16, m.gaps), (16, m.cinst), (16, if f.kind = 0 then s.flowCmax u.source else 0), (16, m.vrx),
    (16, if f.kind = 0 then s.flowVrxFull u.source else 0), (16, m.cViol), (16, m.vViol),
    (32, j (m.jitMin.getD 0)), (32, j (m.jitMax.getD 0)),
    (32, j (if f.kind = 0 then floorMean m.jitSum m.jitN else if m.jitN = 0 then 0 else m.jitLast)), (32, m.frames), (32, 0)]

/-- The rate adjustment in parts per 10^12 (R185, R393): round(a × 10^12 / (40 × 2^32)), halves away from zero. -/
def freqAdj (a : Int) : Int := if a < 0 then -((-a * 1000000000000 * 2 + 40 * 2 ^ 32) / (2 * (40 * 2 ^ 32))) else (a * 1000000000000 * 2 + 40 * 2 ^ 32) / (2 * (40 * 2 ^ 32))

/-- Code of a servo state (R420). -/
def Servo.code (v : Servo) : Nat :=
  match v with | .freeRunning => 0 | .acquiring => 1 | .locked => 2 | .holdover => 3 | .following => 4

/-- The servo's state as TIME_STATUS and R185 report it (R404, R408): while the host steers, LOCKED or ACQUIRING alone, but for a twin
follower's, whose servo takes the Twilan offset (R409). -/
def State.servoShown (s : State) : Servo :=
  if s.time.follower = true ∨ s.field Reg.timeCfg 0 1 = 0 ∨ s.time.servo = .locked then s.time.servo else .acquiring

/-- A port time record from byte 4 on (R185). -/
def State.portRecord (s : State) (u : Sub) : Nat :=
  let p := SMap.get (fun _ => {}) s.time.ptp u.source
  let m := u.meas
  let sees := decide (p.portState = 8) || decide (p.portState = 9)
  let o (x : Int) : Nat := if sees then ofSigned 32 x else 0
  packFields [(3, u.source), (5, 0), (4, p.portState), (3, s.servoShown.code), (1, 0), (8, s.time.clock.domain), (8, 0), (64, u.since),
    (32, o (floorMean m.ofsSum m.ofsN)), (32, o (m.ofsMin.getD 0)), (32, o (m.ofsMax.getD 0)), (32, o (floorMean (m.mpdSum : Int) m.ofsN)),
    (16, m.syncRx), (16, m.delayReq), (16, m.annRx), (16, 0), (32, ofSigned 32 (freqAdj (toSigned 32 (s.regN Reg.timeIncAdj)))), (16, p.stepsRemoved),
    (8, p.gmClass), (8, p.gmAccuracy), (64, p.gmIdentity), (64, 0)]

/-- Records of a flow or port flow only while the flow is bound, or the port enabled (R186). -/
def State.recordsFlow (s : State) (u : Sub) : Bool :=
  if u.kind = 1 then (s.iflow u.source).bound else if u.kind = 2 then decide (s.field (Reg.netPortCfg + 0x1000 * u.source) 0 1 = 1) else false

/-- The port whose link a source's records depend on. -/
def State.sourcePort (s : State) (u : Sub) : Nat := if u.kind = 1 then (s.iflow u.source).port else u.source

/-- The virtual receiver buffer of a KIND 0 flow drains up to ns `t`; drain instants that found it empty count in the intervals (R183). -/
def State.drainFlow (s : State) (n t : Nat) : State :=
  if (s.iflow n).kind ≠ 0 then s
  else
    let d := (SMap.get (fun _ => {}) s.codec.meters n).drain (s.flowCfg n) (s.iflow n) (t * tauNs)
    if d.2 = 0 ∧ d.1 = SMap.get (fun _ => {}) s.codec.meters n then s
    else ({ s with codec := { s.codec with meters := SMap.set (fun _ => {}) s.codec.meters n d.1 } }).meter 1 n fun m => { m with vViol := satAdd 16 m.vViol d.2 }

/-- The subscription as it stands. -/
def State.subOf (s : State) (u : Sub) : Sub := (s.codec.subs.find? fun v => decide (v.kind = u.kind) && decide (v.source = u.source) && decide (v.qid = u.qid)).getD u

/-- Ends the interval of one subscription with its record; the next begins at `next`. -/
def State.closeInterval (s : State) (u : Sub) (part : Bool) (next : Nat) : State :=
  let s := if u.kind = 1 then s.drainFlow u.source (min next s.now) else s
  let u := s.subOf u
  let p := part || u.isPartial || !(s.port (s.sourcePort u)).linkUp
  let t := if s.recordsFlow u = false ∨ s.now < u.since then s
    else if u.kind = 1 then s.putRecord u.qid u.coalesce 4 1 (s.flowRecord u p)
    else s.putRecord u.qid u.coalesce 5 1 (s.portRecord u)
  { t with codec := { t.codec with subs := t.codec.subs.map fun v =>
      if v.kind = u.kind ∧ v.source = u.source ∧ v.qid = u.qid then { v with since := next, isPartial := false, meas := v.meas.next } else v } }

/-- Every interval in progress ends at a step of PTP time, with PARTIAL; the next starts at the next multiple after it (R188). `s` stands
before the step, `now` is the time after it. -/
def State.stepIntervals (s : State) (now : Nat) : State :=
  ((s.codec.subs.filter fun u => decide (u.kind ≠ 0)).insertionSort fun a b => a.prior b = true).foldl (fun t u => t.closeInterval u true ((now / u.span + 1) * u.span)) s

/-- Ends every interval that has ended by now of the subscriptions that `want` names, in the order of R188, at most `n` of them. -/
def State.endDue (n : Nat) (s : State) (want : Sub → Bool) : State :=
  match n with
  | 0 => s
  | k + 1 =>
    match ((s.codec.subs.filter fun u => decide (u.kind ≠ 0) && decide (u.ends ≤ s.now) && want u).insertionSort fun a b => a.before b = true).head? with
    | some u => State.endDue k (s.closeInterval u false u.ends) want
    | none => s

/-- Ends the intervals of a source that have ended by now, those of the subscriptions that share a ring with them at their place in the order
(R188): before anything more of the source is counted. -/
def State.endIntervals (s : State) (kind source : Nat) : State :=
  let rings := (s.codec.subs.filter fun u => decide (u.kind = kind) && decide (u.source = source) && decide (u.ends ≤ s.now)).map fun u => u.qid
  if rings = [] then s else State.endDue s.codec.subs.length s fun u => decide (u.qid ∈ rings)

/-- STATS_INTERVAL_END (R183, R187): the intervals of a flow or port that have ended by now. -/
def execStatsIntervalEnd (kind source : Nat) (s : State) : Host.Outcome State Fault Refusal :=
  if (kind = 1 ∧ source < 2048) ∨ (kind = 2 ∧ source < 8) then
    .next (s.endIntervals kind source)
  else .fault .noSuchUnit

end Sys2Proof.Machine
end

