-- ==== Sys2Proof/Machine/FlowOps.lean ====
section
/-!
DEFINITION. Flows: chains that several flows share (R369, R371), the flow records and their checks (R360, R362,
R369), binding and unbinding, and group membership (R363).
-/
namespace Sys2Proof.Machine

/-- A flow is done with a chain (R369, R371): the cells are freed with the last of the flows that hold it. -/
def State.dropChain (s : State) (first n owner : Nat) : State :=
  let k := SMap.get (fun _ => 0) s.net.shares first
  if k = 0 then s.freeCells (s.chainCells n first).1 owner
  else { s with net := { s.net with shares := SMap.set (fun _ => 0) s.net.shares first (k - 1) } }

/-- An IFQ entry (R364). -/
def ifqEntry (cell n len flow port ofs ts : Nat) : Nat :=
  packFields [(14, cell), (3, n), (14, len), (1, 0), (11, flow), (3, port), (2, 0), (7, ofs), (9, 0), (40, ts), (24, 0)]

/-- QID of an ingress flow's queue (R304). -/
def ifqId (f : Nat) : Nat := 8192 + f

/-- The queue of a flow as firmware creates it at the bind (R304, R306, R307). -/
def flowQueue (egress : Bool) (f : Nat) : Queue :=
  { valid := true, base := (if egress then 0x1FC000000 else 0x1F8000000) + 0x8000 * f, space := .hbm, ty := if egress then .efq else .ifq, log2 := 11,
    owner := 19 }

/-! ## Records (R360, R369) -/

/-- An ingress flow record. -/
def iflowOf (v : Nat) : IFlow :=
  let f (o lo w : Nat) : Nat := bitsAt v (8 * o + lo) w
  { kind := f 0 0 2, ipv6 := bitAt v 2, srcAny := bitAt v 3, vlanAny := bitAt v 4, join := bitAt v 5, sender := f 0 6 2, vid := f 0 8 12,
    dstPort := f 4 0 16, rate := f 8 0 40, burst := f 0x10 0 24, pktPixels := f 0x14 0 16, trOffset := f 0x18 0 32, pathDelay := f 0x1C 0 32,
    passFlow := f 0x20 0 11, pass := bitAt v (8 * 0x20 + 11), dstAddr := f 0x40 0 128, srcAddr := f 0x50 0 128 }

/-- An egress flow record. -/
def eflowOf (v : Nat) : EFlow :=
  let f (o lo w : Nat) : Nat := bitsAt v (8 * o + lo) w
  { kind := f 0 0 2, ipv6 := bitAt v 2, vlan := bitAt v 3, pcp := f 0 4 3, vid := f 0 8 12, cls := f 0 20 4, sender := f 0 24 2, dscp := f 0 26 6,
    ttl := f 4 0 8, srcPort := f 4 16 16, dstPort := f 8 0 16, pgroups := f 8 16 16, ssrc := f 0xC 0 32, pt := f 0x10 0 7, dmac := f 0x20 0 48,
    smac := f 0x26 0 48, dstAddr := f 0x40 0 128, srcAddr := f 0x50 0 128 }

/-- Check 4 of R362 on the fields of an ingress record: the byte offset of the first field that fails. -/
def IFlow.badField (f : IFlow) : Option Nat :=
  if f.kind = 3 then some 0x00
  else if f.kind = 0 ∧ f.sender = 3 then some 0x00
  else if f.kind = 0 ∧ (f.pktPixels = 0 ∨ 32767 < f.pktPixels) then some 0x14
  else none

/-- Check 4 of R362 on the fields of an egress record. -/
def EFlow.badField (f : EFlow) : Option Nat :=
  if f.kind = 3 ∨ 8 < f.cls then some 0x00
  else if (f.kind = 0 ∧ f.sender = 3) ∨ (f.kind = 1 ∧ (f.sender = 0 ∨ f.sender = 3)) then some 0x00
  else if f.ttl = 0 then some 0x04
  else if f.kind = 0 ∧ (f.pgroups = 0 ∨ 1800 < f.pgroups) then some 0x08
  else if f.kind = 0 ∧ f.pt < 96 then some 0x10
  else none

/-- Check 4 of R362 on CHANNEL: KIND 0 and 1 name a channel of the matching direction or none, KIND 2 names none. An IDLE channel has no direction, and is
refused by its state (R294, R302). -/
def State.channelFits (s : State) (ch kind : Nat) (egress : Bool) : Bool :=
  if ch = 0xFF then true
  else decide (kind ≠ 2) && decide (ch < 128) && (decide ((s.channel ch).state = .idle) || decide ((s.channel ch).decode = (decide (kind = 1) != egress)))

/-- Bound ingress flows of a channel. -/
def State.ingressOf (s : State) (ch : Nat) : List (Nat × IFlow) :=
  s.net.iflows.filter fun (e : Nat × IFlow) => e.2.bound && decide (e.2.channel = some ch)
/-- The group of a port (R355): 0 red, 1 blue. -/
def State.portGroup (s : State) (n : Nat) : Nat := s.field (Reg.netPortCfg + 0x1000 * n) 3 1

/-- Checks 5 of R362. -/
def State.channelFree (s : State) (ch : Nat) : Bool := decide (ch = 0xFF) || (decide ((s.channel ch).state ≠ .idle) && !(s.channel ch).state.live && decide ((s.channel ch).cfg.injectQid = 0))

/-- Check 6 of R362: at most two ingress flows, on ports of different groups; KIND 0 with equal PKT_PIXELS and at most 32,768
positions. -/
def State.ingressFits (s : State) (ch port : Nat) (f : IFlow) : Option Nat :=
  let l := s.ingressOf ch
  let c := (s.channel ch).cfg
  if ch = 0xFF then none
  else if 2 ≤ l.length ∨ l.any (fun (e : Nat × IFlow) => decide (s.portGroup e.2.port = s.portGroup port)) then some 0x08
  else if f.kind = 0 ∧ (l.any (fun (e : Nat × IFlow) => decide (e.2.pktPixels ≠ f.pktPixels)) ∨ 32768 < c.positions f.pktPixels) then some (4096 + 0x14)
  else none

/-- A flow's traffic class (R370). -/
def EFlow.classOf (f : EFlow) : Nat := if f.cls < 8 then f.cls else if f.kind = 0 then 6 else if f.kind = 1 then 5 else 3

/-- A multicast destination address, in wire order. -/
def multicast (ipv6 : Bool) (a : Nat) : Bool := if ipv6 then decide (a % 256 = 0xFF) else decide (0xE0 ≤ a % 256) && decide (a % 256 ≤ 0xEF)

/-! ## Membership (R363) -/

/-- A membership record of a flow is for the same group on the same port. -/
def Member.same (m n : Member) : Bool := decide (m.port = n.port) && (m.ipv6 == n.ipv6) && decide (m.group = n.group)

/-- A bound flow joins its group: a report is due unless the port is a member already. -/
def NetSt.joinGroup (n : NetSt) (m : Member) : NetSt :=
  { n with members := n.members ++ [if n.members.any (fun o => o.same m && decide (o.due ≠ some false)) then { m with due := none } else m] }

/-- The memberships of port `port` that a query names have a report due, one for each group (R363). -/
def dueReports (port : Nat) (ipv6 : Bool) (group : Nat) (seen : List Member) (l : List Member) : List Member :=
  match l with
  | [] => []
  | m :: rest =>
    if m.port = port ∧ m.ipv6 = ipv6 ∧ (group = 0 ∨ m.group = group) ∧ m.due ≠ some false ∧ seen.any (fun o => o.same m) = false then
      { m with due := some true, answer := true } :: dueReports port ipv6 group (m :: seen) rest
    else m :: dueReports port ipv6 group seen rest

/-- An unbound flow leaves its group: a leave is due when it was the last. -/
def NetSt.leaveGroup (n : NetSt) (flow : Nat) : NetSt :=
  match n.members.find? (fun m => decide (m.flow = flow) && decide (m.due ≠ some false)) with
  | none => n
  | some m =>
    let rest := n.members.erase m
    if rest.any (fun o => o.same m && decide (o.due ≠ some false)) then
      -- The join report that is still due passes to another flow of the group.
      { n with members := if m.due = some true then rest.map (fun o => if o.same m ∧ o.due = none then { o with due := some true } else o) else rest }
    else { n with members := rest ++ [{ m with due := some false }] }

/-! ## Binding and unbinding (R362) -/

/-- Binds an ingress flow: its policer's bucket is full, its queue exists, its group is joined. What its path shows is measured from here on (R183, R184). -/
def State.bindIngress (s : State) (flow ch port : Nat) (f : IFlow) : State :=
  let f := { f with bound := true, channel := (if ch = 0xFF then none else some ch), port := port, bucket := 8000000000 * f.burst }
  let s := ((s.modIflow flow fun _ => f).modQueue (ifqId flow) fun _ => flowQueue false flow).restartInterval 1 flow
  let s := { s with codec := { s.codec with meters := SMap.set (fun _ => {}) s.codec.meters flow {}, lastSeq := SMap.set (fun _ => none) s.codec.lastSeq flow none } }
  if f.join && multicast f.ipv6 f.dstAddr then
    { s with net := s.net.joinGroup ⟨port, f.ipv6, f.dstAddr, (if f.srcAny then 0 else f.srcAddr), flow, some true, false⟩ }
  else s

/-- Binds an egress flow: its shaper is off, its queue exists. -/
def State.bindEgress (s : State) (flow ch port : Nat) (solo : Bool) (f : EFlow) : State :=
  (s.modEflow flow fun _ => { f with bound := true, channel := (if ch = 0xFF then none else some ch), port := port, solo := solo }).modQueue (efqId flow)
    fun _ => flowQueue true flow

/-- Frees the frames that an ingress flow's queue still holds: their cells are the receiving port's. -/
def State.drainIfq (n : Nat) (s : State) (flow : Nat) : State :=
  match n with
  | 0 => s
  | k + 1 =>
    if (s.queue (ifqId flow)).isEmpty then s
    else
      let v := s.headEntry (ifqId flow)
      State.drainIfq k ((s.popEntry (ifqId flow)).freeCells (s.chainCells (bitsAt v 14 3) (bitsAt v 0 14)).1 (bitsAt v 43 3)) flow

/-- One flow fewer has packet `cell` to send or drop; with the last one the band is SENT (R55). -/
def Band.packetGone (u : Band) (cell : Nat) : Band :=
  let ps := u.packets.map fun k => if k.cell = cell ∧ 0 < k.left then { k with left := k.left - 1 } else k
  let n := u.unsent - 1
  { u with packets := ps, unsent := n, state := if n = 0 ∧ u.state = .coded ∧ u.released = true then .sent else u.state }

/-- A packet of a channel has been sent or dropped on egress flow `flow` (R55). -/
def State.packetGone (s : State) (flow cell : Nat) : State :=
  match (s.eflow flow).channel with
  | none => s
  | some c =>
    match ((s.channel c).bandsWhere c fun u => decide (0 < u.unsent) && u.packets.any (fun k => decide (k.cell = cell) && decide (0 < k.left))).head? with
    | some i => s.modBand i fun u => u.packetGone cell
    | none => s

/-- A producer writes an EFQ entry (R371): it waits while the queue is full or an earlier one of the flow waits. -/
def State.efqPut (s : State) (flow v : Nat) : State :=
  if (s.queue (efqId flow)).full || s.net.efqWait.any (fun e => decide (e.1 = flow)) then
    { s with net := { s.net with efqWait := s.net.efqWait ++ [(flow, v)] } }
  else s.putEntry (efqId flow) v

/-- A producer writes an EFQ entry before the first entry whose packet stands in one of the cells `later`: a mirrored slice's packets leave before those of
later bands (R215). -/
def State.efqInsert (s : State) (flow v : Nat) (later : List Nat) : State :=
  let l := s.efqEntries flow
  let s := s.efqPut flow v
  if l.any (ofPackets later) then
    let pre := l.takeWhile fun w => !ofPackets later w
    s.setEfq flow (pre ++ [v] ++ l.drop pre.length)
  else s

/-- The first entry that waits for room in a flow's EFQ enters it (R371). -/
def State.efqRefill (s : State) (flow : Nat) : State :=
  match s.net.efqWait.find? (fun e => decide (e.1 = flow)) with
  | some e =>
    if (s.queue (efqId flow)).full then s
    else { s with net := { s.net with efqWait := s.net.efqWait.erase e } }.putEntry (efqId flow) e.2
  | none => s

/-- An EFQ entry's frame is dropped. -/
def State.dropEntry (s : State) (flow v : Nat) : State :=
  if efqVoid v then s else
  (s.packetGone flow (bitsAt v 0 14)).dropChain (bitsAt v 0 14) (bitsAt v 14 3) (bitsAt v 32 6)

/-- Frees the frames that an egress flow's queue still holds, and those that wait for it. -/
def State.drainEfq (n : Nat) (s : State) (flow : Nat) : State :=
  match n with
  | 0 => s
  | k + 1 =>
    if (s.queue (efqId flow)).isEmpty then s
    else
      let v := s.headEntry (efqId flow)
      State.drainEfq k (((s.popEntry (efqId flow)).dropEntry flow v).efqRefill flow) flow

/-- Releases an ingress flow entry (R362, R363). -/
def State.unbindIngress (s : State) (flow : Nat) : State :=
  let s := s.drainIfq 2048 flow
  let s := (s.modIflow flow fun _ => {}).modQueue (ifqId flow) fun _ => {}
  { s with net := s.net.leaveGroup flow }

/-- Releases an egress flow entry: its shaper turns off with it (R362, R372). -/
def State.unbindEgress (s : State) (flow : Nat) : State :=
  let s := s.drainEfq (2049 + s.net.efqWait.length) flow
  (s.modEflow flow fun _ => {}).modQueue (efqId flow) fun _ => {}

/-- Unbinds every flow of channel `ch` (R294). -/
def State.unbindChannel (s : State) (ch : Nat) : State :=
  let s := (s.ingressOf ch).foldl (fun t (e : Nat × IFlow) => t.unbindIngress e.1) s
  (s.egressOf ch).foldl (fun t (e : Nat × EFlow) => t.unbindEgress e.1) s

/-- The record of a FLOW_BIND (R362 check 1). -/
def State.bindRecord (s : State) (addr len : Nat) : Reply ⊕ Nat :=
  if len = 0 then .inl (Reply.field St.lenZero 0x18)
  else if len ≠ 128 then .inl (Reply.field St.badFormat 0x18)
  else match s.hostRead addr 128 with
    | none => .inl { status := St.dmaError }
    | some v => .inr v

/-- FLOW_BIND of an ingress flow, checks 3–6 and 9. -/
def State.bindIn (s : State) (flow ch port : Nat) (solo : Bool) (v : Nat) : State × Reply :=
  let f := iflowOf v
  if (s.iflow flow).bound then (s, Reply.field St.badState 0x08)
  else match f.badField with
    | some o => (s, Reply.recField St.badFormat o)
    | none =>
      if s.channelFits ch f.kind false = false then (s, Reply.field St.badChannel 0x04)
      else if s.channelFree ch = false then (s, Reply.field St.badState 0x04)
      else match s.ingressFits ch port f with
        | some o => (s, { status := St.badFormat, detail := o })
        | none => if solo then (s, Reply.field St.badFormat 0x08) else (s.bindIngress flow ch port f, { status := St.ok })

/-- FLOW_BIND of an egress flow, checks 2–10. -/
def State.bindOut (s : State) (flow ch port : Nat) (solo : Bool) (v : Nat) : State × Reply :=
  let f := eflowOf v
  let l := s.egressOf ch
  let most := decide (4 ≤ (l.filter fun (e : Nat × EFlow) => e.2.solo == solo).length)
  if 2032 ≤ flow then (s, Reply.field St.badState 0x08)
  else if (s.eflow flow).bound then (s, Reply.field St.badState 0x08)
  else match f.badField with
    | some o => (s, Reply.recField St.badFormat o)
    | none =>
      if s.channelFits ch f.kind true = false then (s, Reply.field St.badChannel 0x04)
      else if s.channelFree ch = false then (s, Reply.field St.badState 0x04)
      else if ch ≠ 0xFF ∧ most = true then (s, Reply.field St.quotaExceeded 0x04)
      else if ch ≠ 0xFF ∧ s.portFrame port < f.largest (s.channel ch).cfg then (s, Reply.field St.badFormat 0x08)
      else if solo = true ∧ (ch = 0xFF ∨ s.twinChannel ch = false) then (s, Reply.field St.badFormat 0x08)
      else if f.kind = 0 ∧ ch ≠ 0xFF ∧ l.any (fun (e : Nat × EFlow) => decide (e.2.kind = 0) && (decide (e.2.ssrc ≠ f.ssrc) || decide (e.2.pt ≠ f.pt))) then
        (s, Reply.recField St.badFormat 0x0C)
      else (s.bindEgress flow ch port solo f, { status := St.ok })

/-- The outstanding twin start of channel `c`. -/
def State.startOf (s : State) (c : Nat) : Option Deferred :=
  s.findDeferred fun o => match o with | .channelStart k _ => decide (k = c) | _ => false

/-- A command of queue `sq` that names channel `c` waits (R290): for an outstanding twin start of the channel, or for a command
of another queue that names the channel and was fetched before it. -/
def State.chanWaits (s : State) (sq c : Nat) : Bool := (s.startOf c).isSome || s.fetchedBefore sq c

/-- FLOW_BIND (R296, R362). It waits as a command that names its channel does (R290). -/
def execFlowBind (h : CmdHdr) (channel : BitVec 8) (flow : BitVec 11) (egress : Bool) (solo : Bool) (port : BitVec 3) (recAddr : Word64) (recLen : BitVec 24)
    (s : State) : Host.Outcome State Fault Refusal :=
  .next (hostCmd (.flowBind h channel flow egress solo port recAddr recLen) h false false (s.chanWaits h.sq channel.toNat) (fun _ t =>
    match t.bindRecord recAddr.toNat recLen.toNat with
    | .inl r => (t, some r)
    | .inr v =>
      let r := if egress then t.bindOut flow.toNat channel.toNat port.toNat solo v else t.bindIn flow.toNat channel.toNat port.toNat solo v
      (r.1, some r.2)) s)

/-- UNBIND (R362): checks 2 and 3 alone. -/
def execUnbind (h : CmdHdr) (flow : BitVec 11) (egress : Bool) (s : State) : Host.Outcome State Fault Refusal :=
  .next (plainCmd (.unbind h flow egress) h false (fun t =>
    if egress then
      if 2032 ≤ flow.toNat ∨ (t.eflow flow.toNat).bound = false then (t, Reply.field St.badState 0x08) else (t.unbindEgress flow.toNat, { status := St.ok })
    else if (t.iflow flow.toNat).bound = false then (t, Reply.field St.badState 0x08) else (t.unbindIngress flow.toNat, { status := St.ok })) s)

end Sys2Proof.Machine
end

