-- ==== Sys2Proof/Machine/TwinLink.lean ====
section
/-!
DEFINITION. The ARM messages of channel starts in a twin (R191), ending an outstanding start (R198), and entering ARMED (R294, R295).
-/
namespace Sys2Proof.Machine

/-! ## Channel starts in a twin (R191) -/

/-- Own and peer ARM of a channel: digest and start time. -/
def State.ownArm (s : State) (c : Nat) : Option (Nat × Nat) := SMap.get (fun _ => none) s.twin.ownArm c
def State.peerArm (s : State) (c : Nat) : Option (Nat × Nat) := SMap.get (fun _ => none) s.twin.peerArm c
def State.setOwnArm (s : State) (c : Nat) (v : Option (Nat × Nat)) : State :=
  { s with twin := { s.twin with ownArm := SMap.set (fun _ => none) s.twin.ownArm c v } }
def State.setPeerArm (s : State) (c : Nat) (v : Option (Nat × Nat)) : State :=
  { s with twin := { s.twin with peerArm := SMap.set (fun _ => none) s.twin.peerArm c v } }

/-- An outstanding twin start of channel `c` ends: its ARM is withdrawn (R191, R310). -/
def State.withdrawStart (s : State) (c : Nat) (r : Reply) : State :=
  match s.startOf c with
  | some d => ((s.setOwnArm c none).twSend (.armWithdraw c)).endDeferred d r
  | none => s

/-! ## A channel start (R294, R295) -/

/-- A channel enters ARMED for a start time: everything of an earlier run is gone (R94, R115, R132, R295). A decode
channel starts as after a resync: its first picture decoded is an IRAP, IDR or recovery point picture; R152 says so of a resync alone (DESIGN
CHOICE, log 127). -/
def Channel.arm (x : Channel) (startNs : Nat) (tw : ChTwin) (join : Bool) : Channel :=
  { x with state := .armed, startNs := startNs, stopNs := none, faultKind := 0, twinState := tw, join := join,
           index0 := (startNs * tauNs + x.cfg.periodT - 1) / x.cfg.periodT, pics := [], dpb := [], dropNext := [], lastNamed := none, lastIdr := none, idrCount := 0,
           refreshBroken := false, idrGroups := [], plainGroups := [], rc := {}, sentPkts := 0, captureGap := false, merge := {}, out := {}, clean := [],
           joinPic := 0, tokens := [], tokenLate := [], ledgerCut := none }

/-- RESULT of a START (R291): SSRC, SEQ0, T_PIC0_NS; zeros for a decode channel. -/
def Channel.startResult (x : Channel) (ch : Nat) : Nat :=
  if x.decode then 0 else packFields [(32, x.ssrcOf ch), (16, x.ssrcOf ch % 65536), (16, 0), (64, x.tPic 0 / tauNs)]

/-- Channel `c` is armed, with its result. -/
def State.armChannel (s : State) (c startNs : Nat) (join : Bool) : State × Reply :=
  let tw : ChTwin := if join then .joining else .inStep
  let s := s.modChannel c fun x => { x.arm startNs tw join with digest := x.digestAt startNs }
  (s, { status := St.ok, result := (s.channel c).startResult c })

/-- This device's ARM meets the peer's (R191): equal, the channel is armed; different, the start is refused. Both ARMs are used
up. -/
def State.matchArms (s : State) (c : Nat) (own peer : Nat × Nat) (join : Bool) : State × Reply :=
  let s := (s.setOwnArm c none).setPeerArm c none
  if own = peer then s.armChannel c own.2 join else (s, { status := St.twinRefused })

end Sys2Proof.Machine
end

