-- ==== Sys2Proof/Machine/Channels.lean ====
section
/-!
DEFINITION. Channel commands and the life of a channel (R291–R295), picture plans (R129–R135), force intra (R93).
-/
namespace Sys2Proof.Machine

/-- The pricking store of tambour `n`. -/
def State.store (s : State) (n : Nat) : Store := SMap.get (fun _ => {}) s.prk n

/-- A load of tambour `n` runs its write step (R251). -/
def State.loading (s : State) (n : Nat) : Bool := s.prkLoad.any fun l => bitAt l.mask n

/-- A command that names channel `c`: it waits for an outstanding twin start of the channel and for the commands of other queues
that name it and were fetched before (R290), and a number of 128 or more is
refused (R291). -/
def chanCmd (i : Instr) (h : CmdHdr) (c : Nat) (body : Nat → State → State × Option Reply) (s : State) : State :=
  hostCmd i h false false (s.chanWaits h.sq c) (fun idx t => if 128 ≤ c then (t, some (Reply.field St.badChannel 4)) else body idx t) s

/-- A reply at once. -/
def now_ (r : State × Reply) : State × Option Reply := (r.1, some r.2)

/-! ## CREATE and CONFIGURE (R291, R292, R294) -/

/-- A channel as CHANNEL_CREATE makes it. -/
def createdChannel (decode : Bool) (evq : Nat) (a : Accepted) : Channel :=
  ({ state := .configured, decode := decode, evq := if evq = 0 then 2 else evq } : Channel).configure a

/-- CHANNEL_CREATE's effect. -/
def State.createChannel (s : State) (c : Nat) (decode : Bool) (addr evq : Nat) : State × Reply :=
  if (s.channel c).state ≠ .idle then (s, { status := St.badState })
  else if evq ≠ 0 ∧ ¬((s.queue evq).valid = true ∧ (s.queue evq).ty = .heq) then (s, Reply.field St.noQueue 0x10)
  else match s.checkCfg c decode addr none with
    | .inl r => (s, r)
    | .inr a => (s.modChannel c fun _ => createdChannel decode evq a, { status := St.ok, result := a.result })

/-- CHANNEL_CREATE (R291). -/
def execChannelCreate (h : CmdHdr) (channel : BitVec 8) (decode : Bool) (ccrAddr : Word64) (evq : BitVec 18) (s : State) : Host.Outcome State Fault Refusal :=
  .next (chanCmd (.channelCreate h channel decode ccrAddr evq) h channel.toNat (fun _ t => now_ (t.createChannel channel.toNat decode ccrAddr.toNat evq.toNat)) s)

/-- CHANNEL_CONFIGURE's effect. -/
def State.configureChannel (s : State) (c addr : Nat) : State × Reply :=
  let x := s.channel c
  if x.state ≠ .configured ∧ x.state ≠ .stopped then (s, { status := St.badState })
  else match s.checkCfg c x.decode addr (some x.tambour) with
    | .inl r => (s, r)
    | .inr a => (s.modChannel c fun x => x.configure a, { status := St.ok, result := a.result })

/-- CHANNEL_CONFIGURE (R292): it does not wait for an outstanding twin start of its channel, which it ends (R191, R290). -/
def execChannelConfigure (h : CmdHdr) (channel : BitVec 8) (ccrAddr : Word64) (s : State) : Host.Outcome State Fault Refusal :=
  .next (hostCmd (.channelConfigure h channel ccrAddr) h false false (s.fetchedBefore h.sq channel.toNat) (fun _ t =>
    if 128 ≤ channel.toNat then (t, some (Reply.field St.badChannel 4))
    else now_ ((t.withdrawStart channel.toNat { status := St.aborted }).configureChannel channel.toNat ccrAddr.toNat)) s)

/-! ## START, STOP, DESTROY -/

/-- What a START refuses before it arms (R100, R251, R291, R295, R92). -/
def State.startRefusal (s : State) (c : Nat) (join : Bool) (sec ns fetchedAt : Nat) : Option Reply :=
  let x := s.channel c
  let t := 1000000000 * sec + ns
  if x.state ≠ .configured ∧ x.state ≠ .stopped then some { status := St.badState }
  else if 1000000000 ≤ ns then some (Reply.field St.badFormat 0x10)
  else if join = true ∧ ¬(s.twinChannel c = true ∧ s.twin.rejoin = true ∧ s.twin.follower = true) then some (Reply.field St.badState 4)
  else if join = false ∧ t < fetchedAt + 100000 then some { status := St.timeout }
  else if (s.hbrsOk x.cfg).isSome then some { status := St.noQueue }
  else if s.loading x.tambour then some { status := St.busy }
  else if (s.store x.tambour).vState ≠ 2 then some { status := St.badState }
  else if s.twinChannel c = true ∧ x.cfg.gop = 3 ∧ x.cfg.rcSource = 2 then some { status := St.twinRefused }
  else none

/-- CHANNEL_START's effect: a twin channel sends its ARM and waits for the peer's, with at most 16 deferred commands outstanding
(R191, R290). -/
def State.startChannel (s : State) (h : CmdHdr) (idx c : Nat) (join : Bool) (sec ns fetchedAt : Nat) : State × Option Reply :=
  match s.startRefusal c join sec ns fetchedAt with
  | some r => (s, some r)
  | none =>
    let t := 1000000000 * sec + ns
    if s.twinChannel c = false then now_ (s.armChannel c t false)
    else if s.peerArm c = none ∧ 16 ≤ s.host.deferred.length then (s, some { status := St.busy })
    else
      let own := ((s.channel c).digestAt t, t)
      let s := (s.setOwnArm c (some own)).twSend (.arm c own.1 t)
      match s.peerArm c with
      | some p => now_ (s.matchArms c own p join)
      | none => (s.addDeferred { sq := h.sq, cid := h.cid.toNat, idx := idx, op := .channelStart c join, since := s.now }, none)

/-- CHANNEL_START (R295). A start of a twin channel waits for an outstanding TWIN_CONTROL START or REJOIN (R302). -/
def execChannelStart (h : CmdHdr) (channel : BitVec 8) (join : Bool) (sec : BitVec 48) (ns : BitVec 32) (s : State) : Host.Outcome State Fault Refusal :=
  let twinOut := s.twinChannel channel.toNat && (s.findDeferred fun o => decide (o = .twinStart) || decide (o = .twinRejoin)).isSome
  .next (hostCmd (.channelStart h channel join sec ns) h false false (s.chanWaits h.sq channel.toNat || twinOut) (fun idx t =>
    if 128 ≤ channel.toNat then (t, some (Reply.field St.badChannel 4)) else t.startChannel h idx channel.toNat join sec.toNat ns.toNat (s.fetchTime h.sq)) s)

/-- CH_STOPPED: the channel is STOPPED, with its event (R294). -/
def State.channelStopped (s : State) (c : Nat) : State :=
  (((s.flushAbandons c).freeUnits c fun _ => true).modChannel c fun x => { x with state := .stopped, stopNs := none, rc := { x.rc with pending := [] } }).raise
    (Src.tambour + (s.channel c).tambour) Kind.chStopped (addrC c) 0

/-- CHANNEL_STOP's effect (R294, R295). -/
def State.stopChannel (s : State) (c sec ns fetchedAt : Nat) : State × Reply :=
  if 1000000000 ≤ ns then (s, Reply.field St.badFormat 0x10)
  else match (s.channel c).state with
    | .armed => (s.channelStopped c, { status := St.ok })
    | .faulted => (s.modChannel c fun x => { x with state := .stopped }, { status := St.ok })
    | .running => (s.modChannel c fun x => { x with stopNs := some (max fetchedAt (1000000000 * sec + ns)) }, { status := St.ok })
    | _ => (s, { status := St.badState })

/-- CHANNEL_STOP (R295). -/
def execChannelStop (h : CmdHdr) (channel : BitVec 8) (sec : BitVec 48) (ns : BitVec 32) (s : State) : Host.Outcome State Fault Refusal :=
  .next (chanCmd (.channelStop h channel sec ns) h channel.toNat (fun _ t => now_ (t.stopChannel channel.toNat sec.toNat ns.toNat (s.fetchTime h.sq))) s)

/-- CHANNEL_DESTROY's effect (R294): cost and band rate are free, subscriptions, plans and flow bindings end. -/
def State.destroyChannel (s : State) (c : Nat) : State × Reply :=
  match (s.channel c).state with
  | .idle => (s, { status := St.badState })
  | .armed => (s, { status := St.badState })
  | .running => (s, { status := St.badState })
  | .draining => (s, { status := St.badState })
  | _ =>
    let s := s.unbindChannel c
    let s := s.modChannel c fun _ => {}
    ({ s with codec := { s.codec with subs := s.codec.subs.filter fun u => !(decide (u.kind = 0) && decide (u.source = c)) } }, { status := St.ok })

/-- CHANNEL_DESTROY (R294). -/
def execChannelDestroy (h : CmdHdr) (channel : BitVec 8) (s : State) : Host.Outcome State Fault Refusal :=
  .next (chanCmd (.channelDestroy h channel) h channel.toNat (fun _ t => now_ (t.destroyChannel channel.toNat)) s)

/-- CH_RUNNING (R294): PTP time has reached the start time of an ARMED channel. -/
def State.channelRunning (s : State) (c : Nat) : State :=
  if (s.channel c).state = .armed ∧ (s.channel c).startNs ≤ s.now then
    (s.modChannel c fun x => { x with state := .running }).raise (Src.tambour + (s.channel c).tambour) Kind.chRunning (addrC c) 0
  else s

/-- CH_RUNNING. -/
def execChRunning (channel : Nat) (s : State) : Host.Outcome State Fault Refusal :=
  if channel < 128 then .next (s.channelRunning channel) else .fault .noSuchUnit

/-- Every band of the started pictures has retired (R294). -/
def Channel.drained (x : Channel) : Bool :=
  x.pics.all fun (e : Nat × Pic) => !e.2.started || (x.bandsOf e.1).all fun u => decide (u.state = .retired)

/-- A DRAINING channel whose started pictures have retired becomes STOPPED (R294). -/
def State.checkDrained (s : State) (c : Nat) : State :=
  if (s.channel c).state = .draining ∧ (s.channel c).drained = true then s.channelStopped c else s

/-- STOP_TIME_REACHED (R294): a RUNNING channel whose stop time has come becomes DRAINING and discards its pending plans (R132); the
bands of pictures that have not started are discarded (R55). -/
def State.stopTime (s : State) (c : Nat) : State :=
  let x := s.channel c
  match x.stopNs with
  | some t =>
    if x.state = .running ∧ t ≤ s.now then
      let s := s.freeUnits c fun y => !(y.started || y.decoded)
      (s.modChannel c fun x => { x with state := .draining, stopNs := none, rc := { x.rc with pending := [] },
                                        pics := x.pics.filter fun (e : Nat × Pic) => e.2.started || e.2.decoded }).checkDrained c
    else s
  | none => s

/-- STOP_TIME_REACHED. -/
def execStopTimeReached (channel : Nat) (s : State) : Host.Outcome State Fault Refusal :=
  if channel < 128 then .next (s.stopTime channel) else .fault .noSuchUnit

/-! ## Force intra (R93) -/

/-- The picture that a force intra aims at: the first whose band 0 has not left ARRIVING, and whose plan a ledger token has not
fixed; in GOP 3 the next anchor after it whose group is not settled. -/
def Channel.forceTarget (x : Channel) : Nat :=
  let top := (x.pics.map fun (e : Nat × Pic) => e.1).foldl max ((x.tokens.map fun (e : Nat × Option Token) => e.1).foldl max 0)
  let p := ((List.range (top + 2)).find? fun p => !(x.pic p).started && (SMap.get (fun _ => none) x.tokens p).isNone).getD (top + 2)
  if x.cfg.gop ≠ 3 then p
  else ((List.range (p + x.idrGroups.length + x.plainGroups.length + 2)).map x.cfg.anchor).find? (fun a => decide (p < a) &&
    !(x.idrGroups.contains (x.cfg.groupOf a)) && !(x.plainGroups.contains (x.cfg.groupOf a))) |>.getD p

/-- FORCE_INTRA's effect. -/
def State.forceIntra (s : State) (c : Nat) : State × Reply :=
  let x := s.channel c
  if x.decode then (s, Reply.field St.badChannel 4)
  else if x.state ≠ .armed ∧ x.state ≠ .running then (s, { status := St.badState })
  else
    let p := x.forceTarget
    (s.modChannel c fun x => { x with rc := { x.rc with force := if x.rc.force.contains p then x.rc.force else x.rc.force ++ [p] } },
      { status := St.ok, result := p % 2 ^ 32 })

/-- FORCE_INTRA (R93, R294). -/
def execForceIntra (h : CmdHdr) (channel : BitVec 8) (s : State) : Host.Outcome State Fault Refusal :=
  .next (chanCmd (.forceIntra h channel) h channel.toNat (fun _ t => now_ (t.forceIntra channel.toNat)) s)

/-! ## Plans (R129–R135) -/

/-- The device is a follower in a twin: it takes no plans of its own (R129, R134). -/
def State.isFollower (s : State) : Bool := decide (s.twin.phase ≠ .disabled) && s.twin.follower

/-- The byte offset of a plan's field that fails (R128, R129), 0xFFFF where no field does. -/
def planDetail (status : Nat) : Nat :=
  if status = St.badChannel then 4096 + 4 else if status = St.badFormat then 4096 + 0x10 else if status = St.timeout then 4096 + 8 else 0xFFFF

/-- A plan is checked and entered (R129, R132). -/
def State.receivePlan (s : State) (c v : Nat) (source : Bool) : State × Nat :=
  let st := (s.channel c).planStatus c v (source && !s.isFollower)
  (if st = 0 then s.modChannel c fun x => x.enterPlan (planOf v) else s, st)

/-- PICTURE_PLAN's effect (R131). -/
def State.picturePlan (s : State) (c addr : Nat) : State × Reply :=
  match s.hostRead addr 192 with
  | none => (s, { status := St.dmaError })
  | some v =>
    let r := s.receivePlan c v (decide ((s.channel c).cfg.rcSource = 2))
    (r.1, { status := r.2, detail := if r.2 = St.badFormat ∧ 5 ≤ bitsAt v 40 3 then 4096 + 4 else planDetail r.2 })

/-- PICTURE_PLAN (R131). -/
def execPicturePlan (h : CmdHdr) (channel : BitVec 8) (planAddr : Word64) (s : State) : Host.Outcome State Fault Refusal :=
  .next (chanCmd (.picturePlan h channel planAddr) h channel.toNat (fun _ t => now_ (t.picturePlan channel.toNat planAddr.toNat)) s)

/-- Offset of slot `k` of a channel's plan mailbox (R130). -/
def mailboxSlot (c k : Nat) : Nat := mailboxBase c + 0x100 * k

/-- Firmware writes a plan into a mailbox slot, then OWN = 1 (R130). -/
def State.mailboxPut (s : State) (c k v : Nat) : State := (s.shwWrite (mailboxSlot c k) 192 v).shwWrite (mailboxSlot c k + 0xC0) 4 1

/-- The band hardware takes a slot with OWN = 1: it checks and enters the plan, and writes STATUS with OWN = 0 (R130). -/
def State.mailboxTake (s : State) (c k : Nat) (customer : Bool) : State :=
  if bitAt (s.shwRead (mailboxSlot c k + 0xC0) 4) 0 then
    let r := s.receivePlan c (s.shwRead (mailboxSlot c k) 192) (decide ((s.channel c).cfg.rcSource = b2n customer))
    r.1.shwWrite (mailboxSlot c k + 0xC0) 4 (256 * r.2)
  else s

/-- MAILBOX_PLAN (R130): `put` is the plan that firmware has written, none when the slot stands as it was written before. -/
def execMailboxPlan (channel slot : Nat) (customer : Bool) (put : Option Nat) (s : State) : Host.Outcome State Fault Refusal :=
  if channel < 128 ∧ slot < 4 then
    let t := match put with | some v => s.mailboxPut channel slot v | none => s
    .next (t.mailboxTake channel slot customer)
  else .fault .noSuchUnit

/-- The 192 bytes of a plan (R128). -/
def Plan.record (l : Plan) (ch : Nat) : Nat :=
  packFields ([(32, l.id), (7, ch), (1, 0), (3, l.ptype), (1, b2n l.equal), (20, 0), (32, l.picture), (32, l.budget), (7, ofSigned 7 l.baseQp), (1, 0),
      (7, ofSigned 7 l.qpMin), (1, 0), (7, ofSigned 7 l.qpMax), (9, 0), (224, 0)] ++ ((List.range 135).map fun b => (8, l.w.getD b 0)))

/-- The picture that the vendor controller plans: the first in coding order that is neither named nor planned, and whose plan a lost leader has not cut
off (R218). -/
def Channel.planNext (x : Channel) : Nat :=
  let n := (match x.lastNamed with | some q => x.posOf q | none => 0) + x.tokens.length + x.rc.pending.length + 8
  (((List.range n).map x.picAt).find? fun p => !(x.pic p).named && (SMap.get (fun _ => none) x.tokens p).isNone && !x.cutOff p &&
    !(x.rc.pending.any fun l => decide (l.picture = p % 2 ^ 32))).getD n

/-- RC_PLAN (R135): once the header of the latest DONE picture is written, the vendor controller plans the next picture and puts
the plan in its mailbox. -/
def State.rcPlan (s : State) (c : Nat) : State :=
  let x := s.channel c
  if x.decode = false ∧ x.cfg.rcSource = 0 ∧ x.rc.planned = false ∧ (x.state = .armed ∨ x.state = .running) ∧ s.isFollower = false then
    (s.modChannel c fun x => { x with rc := { x.rc with planned := true } }).mailboxPut c 0 ((x.vendorPlan x.planNext).record c)
  else s

/-- RC_PLAN. -/
def execRcPlan (channel : Nat) (s : State) : Host.Outcome State Fault Refusal :=
  if channel < 128 then .next (s.rcPlan channel) else .fault .noSuchUnit

end Sys2Proof.Machine
end

