-- ==== Sys2Proof/Machine/BlockOps.lean ====
section
/-!
DEFINITION. What a tambour does with one block: the order of blocks (R65), F0's measures (R171–R174), the spout (R342, R343), and on a decode
band the damage states and concealment (R158–R165).
-/
namespace Sys2Proof.Machine

/-! ## The order of blocks (R65) -/

/-- The blocks of a CTU of `n` × `n` blocks in z-order, as (column, row). -/
def zOrder (n : Nat) : List (Nat × Nat) :=
  if n = 4 then
    [(0, 0), (1, 0), (0, 1), (1, 1), (2, 0), (3, 0), (2, 1), (3, 1)] ++ [(0, 2), (1, 2), (0, 3), (1, 3), (2, 2), (3, 2), (2, 3), (3, 3)]
  else if n = 2 then [(0, 0), (1, 0), (0, 1), (1, 1)]
  else [(0, 0)]

/-- A block of a band: its column, its row within the band, whether it is the last of its CTU, and the floor units (R141) of the CTUs
up to its own. -/
structure BlockPos where
  col    : Nat
  row    : Nat
  ctuEnd : Bool
  units  : Nat
deriving DecidableEq, Repr

/-- Block `k` of band `b`: CTUs in raster order, z-order within each (R65). -/
def ChannelCfg.blockAt (c : ChannelCfg) (b k : Nat) : BlockPos :=
  let n := c.ctbSize / 16
  let cols := c.width / 16
  let rows := c.bandCoded b / 16
  let r := k / (n * cols)
  let h := min n (rows - r * n)
  let j := k - r * (n * cols)
  let order := (zOrder n).filter fun e => decide (e.2 < h)
  let per := n * h
  let z := order.getD (j % per) (0, 0)
  let unit := if h = n then 1 else cutUnits c.ctbSize (16 * h)
  { col := j / per * n + z.1, row := r * n + z.2, ctuEnd := decide (j % per + 1 = per), units := r * (cols / n) + (j / per + 1) * unit }

/-- The region number of a block (R160): regions run in raster order over the picture. -/
def ChannelCfg.regionOf (c : ChannelCfg) (b : Nat) (k : BlockPos) : Nat := (c.bandTop b / 16 + k.row) * (c.width / 16) + k.col

/-- A signed register value. -/
def sreg (v : Nat) : Int := toSigned 32 v

/-- The classes of the four 8 × 8 areas of a block. -/
def fourUnits (us : List Nat) : List Nat :=
  match us with
  | [u] => [u, u, u, u]
  | l => l.take 4

/-! ## F0 (R171–R176) -/

/-- Writes a block's samples of component `comp` into a sparse plane: `w` × `h` samples from column `x`, line `y`. -/
def writeBlock (m : SMap Nat) (comp x y w h : Nat) (vs : List Nat) : SMap Nat :=
  (List.range (w * h)).foldl (fun m i => SMap.set (fun _ => 0) m (sampleKey comp (x + i % w) (y + i / w)) (vs.getD i 0)) m

/-- A block's three components written into a plane set. -/
def ChannelCfg.writeSamples (c : ChannelCfg) (m : SMap Nat) (x y : Nat) (luma cb cr : List Nat) : SMap Nat :=
  let m := writeBlock m 0 x y 16 16 luma
  let m := writeBlock m 1 (x / c.subH) (y / c.subV) (16 / c.subH) (16 / c.subV) cb
  writeBlock m 2 (x / c.subH) (y / c.subV) (16 / c.subH) (16 / c.subV) cr

/-- The samples of the 16 × 16 block at column `x`, line `y` of a plane set. -/
def ChannelCfg.blockSamples (c : ChannelCfg) (m : SMap Nat) (x y : Nat) : List Nat :=
  let area (comp ax ay w h : Nat) : List Nat := (List.range (w * h)).map fun i => SMap.get (fun _ => 0) m (sampleKey comp (ax + i % w) (ay + i / w))
  area 0 x y 16 16 ++ area 1 (x / c.subH) (y / c.subV) (16 / c.subH) (16 / c.subV) ++ area 2 (x / c.subH) (y / c.subV) (16 / c.subH) (16 / c.subV)

/-- Where ledger row `r` of picture buffer slot `k` of channel `ch` lies (R439). -/
def ledgerKey (ch k r : Nat) : Nat := (ch * 32 + k) * 128 + r

/-- A reconstruction write of a 16 × 16 block enters the ledger (R440): the term of what was there before goes out, where there is such,
and the new one in. -/
def State.ledgerBlock (s : State) (ch k : Nat) (c : ChannelCfg) (old : Option (SMap Nat)) (new : SMap Nat) (x y : Nat) : State :=
  let pos := sampleKey 0 x y + 2 ^ 32 * ledgerKey ch k 0
  let out := match old with | some m => Config.ledgerTerm pos (c.blockSamples m x y) % 2 ^ 32 | none => 0
  let in_ := Config.ledgerTerm pos (c.blockSamples new x y) % 2 ^ 32
  { s with hbm := { s.hbm with ledger := SMap.modify (fun _ => 0) s.hbm.ledger (ledgerKey ch k (y / 32)) fun v => v ^^^ out ^^^ in_ } }

/-- The source and the reconstruction of a component over an area, active lines only (R171). -/
def Pic.pairs (y : Pic) (lines comp x0 y0 w h : Nat) : List (Nat × Nat) :=
  ((List.range (w * h)).filter fun i => decide (y0 + i / w < lines)).map fun i =>
    (y.sample comp (x0 + i % w) (y0 + i / w), SMap.get (fun _ => 0) y.rebuilt (sampleKey comp (x0 + i % w) (y0 + i / w)))

/-- SSE of a component over an area. -/
def Pic.sse (y : Pic) (lines comp x0 y0 w h : Nat) : Nat :=
  let l := y.pairs lines comp x0 y0 w h
  sseOf (l.map Prod.fst) (l.map Prod.snd)

/-- The structural indices of a block's 8 × 8 luma blocks that lie wholly in the band's compared lines (R174). -/
def Pic.indices (y : Pic) (c : ChannelCfg) (b x0 y0 : Nat) : List Int :=
  ((List.range 4).filter fun k => decide (y0 + 8 * (k / 2) + 8 ≤ c.bandEnd b)).map fun k =>
    let l := y.pairs c.lines 0 (x0 + 8 * (k % 2)) (y0 + 8 * (k / 2)) 8 8
    structIndex c.depth (l.map Prod.fst) (l.map Prod.snd)

/-- The measures of band `b` over its compared samples (R171, R172, R174), as F0 has written them by the band's end. -/
def Pic.measureBand (y : Pic) (c : ChannelCfg) (b : Nat) : Pic :=
  let top := c.bandTop b
  let h := c.bandCoded b
  let six := (List.range (c.width / 16 * (h / 16))).flatMap fun k => y.indices c b (16 * (k % (c.width / 16))) (top + 16 * (k / (c.width / 16)))
  y.modBand b fun u =>
    { u with sseY := y.sse c.lines 0 0 top c.width h, sseCb := y.sse (c.lines / c.subV) 1 0 (top / c.subV) (c.width / c.subH) (h / c.subV),
             sseCr := y.sse (c.lines / c.subV) 2 0 (top / c.subV) (c.width / c.subH) (h / c.subV), simSum := six.sum, simN := six.length }

/-! ## E0 and the spout (R342, R343) -/

/-- The number that a word's bytes spell: byte k in bits [8k + 7:8k]. -/
def wordData (bs : List Nat) : Nat := bs.foldr (fun b r => b + 256 * r) 0

/-- A word enters the fill bank, which closes when it is full or the word is the slice's last (R342). -/
def Spout.put (p : Spout) (w : SpoutWord) : Spout :=
  let p := { p with words := p.words ++ [(p.fill, w)], filled := p.filled + 1 }
  if w.last || decide (2048 ≤ p.filled) then { p with closed := p.closed ++ [p.fill], fill := 1 - p.fill, filled := 0 } else p

/-- Words that the spout takes now (R342): into a bank that has been drained empty, and into the other one when that is so too. -/
def Spout.free (p : Spout) : Nat :=
  if p.closed.contains p.fill then 0 else 2048 - p.filled + (if p.closed.contains (1 - p.fill) then 0 else 2048)

/-- Packs bytes into spout words of 64 (R343): whole words leave, and with the last byte of a slice what is left. Answers the spout
and the bytes of the word in formation. -/
def packWords (n : Nat) (p : Spout) (i : BandId) (first last : Bool) (bs : List Nat) : Spout × List Nat :=
  match n with
  | 0 => (p, bs)
  | k + 1 =>
    if bs.length < 64 ∨ (bs.length = 64 ∧ last = false) then
      if last then (p.put { data := wordData bs, valid := bs.length, first := first, last := true, ch := i.ch, pic := i.pic, band := i.b }, [])
      else if bs.length < 64 then (p, bs)
      else (p.put { data := wordData bs, valid := 64, first := first, last := false, ch := i.ch, pic := i.pic, band := i.b }, [])
    else
      let whole := decide (bs.length = 64)
      let q := p.put { data := wordData (bs.take 64), valid := 64, first := first, last := last && whole, ch := i.ch, pic := i.pic, band := i.b }
      if whole then (q, []) else packWords k q i false last (bs.drop 64)

/-- The bytes of the slice segment header with its alignment (R107, R137). -/
def Channel.headerOut (x : Channel) (p b : Nat) (qp : Int) (floor : Bool) (rows : List Nat) : List Nat :=
  if x.cfg.codec = 0 then bitBytes (x.hevcHeader p b qp floor rows ++ [(1, 1)])
  else
    let h := x.avcHeader p b qp
    let k := (8 - bitCount h % 8) % 8
    bitBytes (h ++ [(k, 2 ^ k - 1)])

/-- The NAL header of a slice (R98): HEVC IDR_N_LP for an IDR picture, TRAIL_R or TRAIL_N by reference; AVC types 5 and 1. -/
def Channel.sliceNal (x : Channel) (p : Nat) : List Nat :=
  let y := x.pic p
  if x.cfg.codec = 0 then hevcNal (if y.ptype = 1 then 20 else if y.isRef then 1 else 0)
  else if y.ptype = 1 then avcNal 3 5 else avcNal (if y.isRef then 2 else 0) 1

/-! ## Damage and concealment (R158–R165) -/

/-- Damage state of a region: 0 clean, 1 concealed, 2 tainted. -/
def Pic.damaged (y : Pic) (r : Nat) : Nat := SMap.get (fun _ => 0) y.damage r

/-- The vector of a region. -/
def Pic.vector (y : Pic) (r : Nat) : Option (Int × Int × Int) := SMap.get (fun _ => none) y.vectors r

/-- A vector component scaled as for temporal prediction, over the POC distances `td` and `tb`. -/
def scaleMv (codec : Nat) (v td tb : Int) : Int :=
  let td := clip td (-128) 127
  let tb := clip tb (-128) 127
  if td = 0 then v
  else
    let tx := Int.tdiv (16384 + (td.natAbs / 2 : Nat)) td
    if codec = 0 then
      let f := clip ((tb * tx + 32) / 64) (-4096) 4095
      let q := ((f * v).natAbs + 127) / 256
      clip (if f * v < 0 then -(q : Int) else q) (-32768) 32767
    else (clip ((tb * tx + 32) / 64) (-1024) 1023 * v + 128) / 256

/-- The lower of the two middle values, or the middle one. -/
def medianLow (l : List Int) : Int := (l.mergeSort (fun a b => a ≤ b)).getD ((l.length - 1) / 2) 0

/-- Unit `q` is output before unit `p`: its coded video sequence began earlier in decoding order, or it is the same one and its POC is lower. -/
def Channel.outputBefore (x : Channel) (q p : Nat) : Bool :=
  let seq (u : Nat) : Nat := (x.pics.filter fun (e : Nat × Pic) => e.2.begins && decide (e.2.seqFirst ≤ (x.pic u).seqFirst)).length
  decide (seq q < seq p) || (decide (seq q = seq p) && decide ((x.pic q).poc < (x.pic p).poc))

/-- The concealment reference (R162): where the DPB has a reference of the picture, the picture of the DPB nearest before the current one in output
order. Where every picture of the DPB comes after it, the manual names none: it is concealed as without a reference (DESIGN CHOICE, log 144). -/
def Channel.concealRef (x : Channel) (p : Nat) : Option Nat :=
  if (x.pic p).refs0.any fun q => (x.pic q).startsDec then
    ((x.dpbPics p).filter fun q => decide (q ≠ p) && x.outputBefore q p).foldl
      (fun best q => match best with | none => some q | some b => if x.outputBefore b q then some q else some b) none
  else none

/-- The picture that replaces an absent reference (R165): the most recent in decoding order of the DPB. -/
def Channel.replacement (x : Channel) (p : Nat) : Option Nat :=
  ((x.dpbPics p).filter fun q => decide (x.posOf q < x.posOf p)).foldl
    (fun best q => match best with | none => some q | some b => if x.posOf b < x.posOf q then some q else some b) none

/-- The vector with which a damaged region is concealed (R162). `done`: the region of the current picture has been decoded. -/
def Channel.concealMv (x : Channel) (p : Nat) (ref : Nat) (r : Nat) (done : Nat → Bool) : Int × Int :=
  let y := x.pic p
  let cols := x.cfg.width / 16
  let c : Int := (r % cols : Nat)
  let rr : Int := (r / cols : Nat)
  let rows : Int := (((x.cfgOf p).codedLines + 15) / 16 : Nat)
  let tb : Int := y.poc - (x.pic ref).poc
  let scaled (v : Int × Int × Int) : Int × Int := (scaleMv x.cfg.codec v.1 v.2.2 tb, scaleMv x.cfg.codec v.2.1 v.2.2 tb)
  let near : List (Int × Int) := [(-1, -1), (0, -1), (1, -1), (-1, 1), (0, 1), (1, 1)]
  let cand := near.filterMap fun d =>
    let cx := c + d.1
    let cy := rr + d.2
    if cx < 0 ∨ (cols : Int) ≤ cx ∨ cy < 0 ∨ rows ≤ cy then none
    else
      let k := (cy * cols + cx).toNat
      if done k && decide (y.damaged k = 0) then (y.vector k).map scaled else none
  if cand ≠ [] then (medianLow (cand.map Prod.fst), medianLow (cand.map Prod.snd))
  else match x.merge.lastDecoded with
    | some q =>
      if (x.pic q).damaged r = 0 then (match (x.pic q).vector r with | some v => scaled v | none => (0, 0)) else (0, 0)
    | none => (0, 0)

/-- The bit depth of a component of a decoded picture (R147, R148). -/
def Channel.sampleDepth (x : Channel) (p comp : Nat) : Nat := x.cfg.depth - (if comp = 0 then (x.pic p).shiftY else (x.pic p).shiftC)

/-- A sample of a reference picture displaced by a vector, with boundary padding; a fractional position is the standard's (opaque
interpolation over the samples around it). The vector counts quarter luma samples. -/
def Channel.predSample (x : Channel) (ref comp : Nat) (px py : Int) (mv : Int × Int) : Nat :=
  let c := x.cfgOf ref
  let w : Int := ((if comp = 0 then c.width else c.width / c.subH) : Nat)
  let h : Int := ((if comp = 0 then c.codedLines else c.codedLines / c.subV) : Nat)
  let fx : Int := ((if comp = 0 then 4 else 4 * c.subH) : Nat)
  let fy : Int := ((if comp = 0 then 4 else 4 * c.subV) : Nat)
  let at_ (a b : Int) : Nat := (x.pic ref).sample comp (clip a 0 (w - 1)).toNat (clip b 0 (h - 1)).toNat
  let ix := px + mv.1 / fx
  let iy := py + mv.2 / fy
  if mv.1 % fx = 0 ∧ mv.2 % fy = 0 then at_ ix iy
  else Config.fracSample c.codec c.chroma (x.sampleDepth ref comp) comp (mv.1 % fx).toNat (mv.2 % fy).toNat
    ((List.range 64).map fun k => at_ (ix - 3 + (k % 8 : Nat)) (iy - 3 + (k / 8 : Nat)))

/-- Fills a region's samples of the current picture by a function of component, column and line. -/
def Pic.fillRegion (y : Pic) (c : ChannelCfg) (r : Nat) (f : Nat → Nat → Nat → Nat) : Pic :=
  let x0 := 16 * (r % (c.width / 16))
  let y0 := 16 * (r / (c.width / 16))
  let plane (m : SMap Nat) (comp w h ax ay : Nat) : SMap Nat :=
    writeBlock m comp ax ay w h ((List.range (w * h)).map fun i => f comp (ax + i % w) (ay + i / w))
  let m := plane y.samples 0 16 16 x0 y0
  let m := plane m 1 (16 / c.subH) (16 / c.subV) (x0 / c.subH) (y0 / c.subV)
  { y with samples := plane m 2 (16 / c.subH) (16 / c.subV) (x0 / c.subH) (y0 / c.subV) }

/-- Conceals region `r` of picture `p` (R162, R163). An I picture, or one without a reference, copies the clean source, else the last
output picture, else mid-level. -/
def Channel.conceal (x : Channel) (p r : Nat) (done : Nat → Bool) : Pic :=
  let y := x.pic p
  let ref := if y.ptype ≤ 2 then none else x.concealRef p
  let depth (comp : Nat) : Nat := x.cfg.depth - (if comp = 0 then y.shiftY else y.shiftC)
  let y := match ref with
    | some q =>
      let mv := x.concealMv p q r done
      let y := y.fillRegion x.cfg r fun comp a b => x.predSample q comp (a : Int) (b : Int) mv
      { y with vectors := SMap.set (fun _ => none) y.vectors r (some (mv.1, mv.2, y.poc - (x.pic q).poc)) }
    | none =>
      match SMap.get (fun _ => none) x.clean r, x.out.lastPic with
      | some q, _ => y.fillRegion x.cfg r fun comp a b => (x.pic q).sample comp a b
      | none, some q => y.fillRegion x.cfg r fun comp a b => (x.pic q).sample comp a b
      | none, none => y.fillRegion x.cfg r fun comp _ _ => 2 ^ (depth comp - 1)
  { y with damage := SMap.set (fun _ => 0) y.damage r 1 }

/-- The state of a decoded region (R160): tainted by what its predictions read, or by a substituted reference: one absent, or that the DPB does not
hold (R165). -/
def Channel.decodedState (x : Channel) (p r : Nat) (d : DecBlock) : Nat :=
  let y := x.pic p
  let held := x.dpbPics p
  let bad := d.refMissing || d.refReads.any (fun e => !held.contains e.1) || d.refReads.any (fun e => decide ((x.pic e.1).damaged e.2 ≠ 0)) ||
    d.ownReads.any (fun k => decide (y.damaged k ≠ 0)) || (d.refReads.any fun e => decide ((x.pic e.1).damaged r ≠ 0))
  if bad then 2 else 0

/-! ## Finding damage (R158) -/

/-- Number `k` has been received. -/
def MergeSt.has (m : MergeSt) (k : Nat) : Bool := (SMap.get (fun _ => none) m.got k).isSome

/-- Number `k` has been declared lost, or received. -/
def MergeSt.isLost (m : MergeSt) (k : Nat) : Bool := SMap.get (fun _ => false) m.lost k
def MergeSt.settled (m : MergeSt) (k : Nat) : Bool := m.has k || m.isLost k

/-- The band of a region. -/
def ChannelCfg.bandOfRegion (c : ChannelCfg) (r : Nat) : Nat := 16 * (r / (c.width / 16)) / c.bandLines

/-- Packet `k` of a unit, a later fragment of a slice NAL unit, cannot be placed (R153): the first fragment has been declared lost. That is so where
nothing of the unit came before it, or the numbers straight before it are lost and the last packet that came before those ended its segment, or carried a
fragment that could not be placed either. `gap`: numbers straight before `k` are lost. Where that last packet did not end its segment, the lost numbers
are taken for middle fragments (DESIGN CHOICE, log 144). -/
def Channel.unplaced (n : Nat) (x : Channel) (p k : Nat) (gap : Bool) : Bool :=
  match n with
  | 0 => false
  | m + 1 =>
    let y := x.pic p
    let j := k - 1
    if k ≤ y.seqFirst then true
    else if x.merge.has j then (gap && y.segEnds.contains j) || ((y.frags.any fun e => decide (e.1 = j)) && Channel.unplaced m x p j false)
    else x.merge.isLost j && Channel.unplaced m x p j true

/-- The bits received of a slice segment (R177): of the packet in which it begins, and of the later fragments placed behind it. -/
def Channel.segBits (x : Channel) (p : Nat) (g : SliceSeg) : Nat :=
  let y := x.pic p
  let next := y.segs.find? fun h => decide (g.seq0 < h.seq0)
  g.bits + ((y.frags.filter fun e => decide (g.seq0 < e.1) && (match next with | some h => decide (e.1 ≤ h.seq0) | none => true) &&
    !Channel.unplaced (e.1 - y.seqFirst + 1) x p e.1 false).map Prod.snd).sum

/-- The CTU of a region in raster order. -/
def ChannelCfg.ctuOf (c : ChannelCfg) (r : Nat) : Nat :=
  let n := c.ctbSize / 16
  r / (c.width / 16) / n * ((c.width + c.ctbSize - 1) / c.ctbSize) + r % (c.width / 16) / n

/-- The tile of a region, as the numbers of its tile row and column; and the place of its CTU in decoding order: tile by tile, in raster order of the
CTUs within each; of an MBAFF frame pair by pair (R147). -/
def Channel.tileOf (x : Channel) (p r : Nat) : Nat :=
  let c := x.cfgOf p
  let n := c.ctbSize / 16
  let y := x.pic p
  1024 * (y.tileY.filter fun v => decide (v ≤ r / (c.width / 16) / n)).length + (y.tileX.filter fun v => decide (v ≤ r % (c.width / 16) / n)).length
def Channel.scanOf (x : Channel) (p r : Nat) : Nat :=
  let c := x.cfgOf p
  if c.mbaff then r / (c.width / 16) / 2 * (c.width / 16) + r % (c.width / 16) else x.tileOf p r * 65536 + c.ctuOf r

/-- The known slice segment that a region's CTU lies in or after. -/
def Channel.segOf (x : Channel) (p r : Nat) : Option SliceSeg :=
  ((x.pic p).segs.filter fun g => decide (x.scanOf p g.first ≤ x.scanOf p r)).getLast?

/-- A segment begins its parse in the tile of region `r`: a dependent one whose preceding segment is damaged is damaged as a whole, and one with a parse
error in an earlier tile to its end. -/
def Channel.segStart (x : Channel) (p r : Nat) (g : SliceSeg) : SegRun :=
  let y := x.pic p
  let hurt := match (y.segs.filter fun h => decide (x.scanOf p h.first < x.scanOf p g.first)).getLast? with
    | some h => y.damage.any fun (e : Nat × Nat) => decide (e.2 = 1) && decide ((x.segOf p e.1).map SliceSeg.first = some h.first)
    | none => false
  let error := y.runs.any fun u => decide (u.first = g.first) && (match u.parse with | some k => decide (k < x.scanOf p r) | none => false)
  { first := g.first, tile := x.tileOf p r, parse := if (g.dep && hurt) || error then some 0 else none }

/-- What R158 finds for a block: a loss, a parse error, and the parse of its segment after it. -/
structure BlockFinding where
  loss  : Bool
  parse : Bool
  run   : Option SegRun
deriving DecidableEq, Repr

/-- What R158 finds for a block of region `r`. A CTU before the first known segment, or after the end of its segment, is missing. A loss damages to the
segment's end, or to an entry point whose bytes are intact; a parse error, and a damaged segment before a dependent one, to the segment's end. Both
findings in one segment count, and the earlier CTU bounds the damage (R170). -/
def Channel.findDamage (x : Channel) (p r : Nat) (d : DecBlock) : BlockFinding :=
  let y := x.pic p
  match x.segOf p r with
  | none => { loss := true, parse := false, run := none }
  | some g =>
    let u := (y.runs.find? fun u => decide (u.first = g.first) && decide (u.tile = x.tileOf p r)).getD (x.segStart p r g)
    let k := x.scanOf p r
    if y.runs.any fun u => decide (u.first = g.first) && (match u.done with | some j => decide (j < k) | none => false) then { loss := true, parse := false, run := some u }
    else
      let by_ (v : Option Nat) : Bool := match v with | some j => decide (j ≤ k) | none => false
      let lost (a : Nat) : Bool := (List.range (d.reads + 1 - a)).any fun j => !x.merge.has (g.seq0 + a + j)
      let resume := match d.entry with | some a => u.from_ ≤ a && !lost a | none => false
      let from_ := if resume then d.entry.getD 0 else u.from_
      let loss := !resume && (by_ u.loss || lost from_)
      let parse := by_ u.parse || d.parseError
      { loss := loss, parse := parse,
        run := some { u with from_ := from_, loss := if loss then some (min k (u.loss.getD k)) else if resume then none else u.loss,
                             parse := if parse then some (min k (u.parse.getD k)) else u.parse,
                             done := if !loss && !parse && d.segEnd then some k else u.done } }

/-- A decoded picture disagrees with its hash message (R158): over the samples of its components, of one or two bytes by depth. -/
def Pic.hashDiffers (y : Pic) (c : ChannelCfg) : Bool :=
  match y.hash with
  | none => false
  | some (kind, sum) =>
    let plane (comp w h depth : Nat) : List Nat := (List.range (w * h)).flatMap fun k =>
      let v := y.sample comp (k % w) (k / w)
      if depth ≤ 8 then [v] else [v % 256, v / 256]
    let dy := c.depth - y.shiftY
    let dc := c.depth - y.shiftC
    let w := c.width / c.subH
    let h := c.codedLines / c.subV
    let n := if kind = 1 then 16 else if kind = 2 then 2 else 4
    let hash (width depth : Nat) (l : List Nat) : List Nat := (pictureHash kind width (if depth ≤ 8 then 1 else 2) l).take n
    decide (sum ≠ hash c.width dy (plane 0 c.width c.codedLines dy) ++ hash w dc (plane 1 w h dc) ++ hash w dc (plane 2 w h dc))

end Sys2Proof.Machine
end

