-- ==== Sys2Proof/Machine/EncCost.lean ====
section
/-!
DEFINITION. Costs and samples of the encode path (R74, R77, R82, R83, R90): the λ tables, SAD and SATD, source and reference samples, the hoop
window's bounds and the refresh column.
-/
namespace Sys2Proof.Machine

/-! ## Tables (R77) -/

/-- The nearest integer to the `k`-th root of `n / d`. -/
def rootRound (k n d : Nat) : Nat :=
  (List.range 40).reverse.foldl (fun v i => if (2 * (v + 2 ^ i) - 1) ^ k * d ≤ 2 ^ k * n then v + 2 ^ i else v) 0

/-- n · 2^e over d, as numerator and denominator. -/
def scale2 (n d : Nat) (e : Int) : Nat × Nat := if 0 ≤ e then (n * 2 ^ e.toNat, d) else (n, d * 2 ^ (-e).toNat)

/-- λ for a QP (R77), Q8: round(256 · κ · 2^((q − 12) / 3) · LAMBDA_SCALE / 16). -/
def ChannelCfg.lambda (c : ChannelCfg) (intra : Bool) (q : Int) : Nat :=
  let v := scale2 ((256 * (if intra then 57 else 68) * c.lambdaScale) ^ 3) (1600 ^ 3) (q - 12)
  rootRound 3 v.1 v.2

/-- λ_s for a QP (R77), Q4: round(16 · sqrt(λ)), of the λ that the table rounds (DESIGN CHOICE, log 135). -/
def ChannelCfg.lambdaS (c : ChannelCfg) (intra : Bool) (q : Int) : Nat :=
  let v := scale2 (16 ^ 6 * ((if intra then 57 else 68) * c.lambdaScale) ^ 3) (1600 ^ 3) (q - 12)
  rootRound 6 v.1 v.2

/-- w_c (R77): round(256 · 2^((QP_Y − QP_C) / 3)). -/
def chromaWeight (qpY qpC : Int) : Nat :=
  let v := scale2 (256 ^ 3) 1 (qpY - qpC)
  rootRound 3 v.1 v.2

/-! ## Differences -/

/-- Sum of absolute differences. -/
def sadOf (a b : List Nat) : Nat := ((a.zip b).map fun e => ((e.1 : Int) - e.2).natAbs).sum

/-- The Hadamard sum of a `w` × `w` difference block, `w` 4 or 8, scaled as that of R68 (DESIGN CHOICE, log 135). -/
def satdSquare (w : Nat) (d : Nat → Int) : Nat :=
  let idx := List.range (w * w)
  let coef (u : Nat) : Int := (idx.map fun k => if walshOdd (u % w) (k % w) == walshOdd (u / w) (k / w) then d k else -(d k)).sum
  ((idx.map fun u => (coef u).natAbs).sum + 2) / 4

/-- SATD of a `w` × `h` block: summed over its 8 × 8 sub-blocks, or 4 × 4 ones where it is narrower (R82). -/
def satdOf (w h : Nat) (a b : List Nat) : Nat :=
  let n := if w < 8 ∨ h < 8 then 4 else 8
  ((List.range (w / n * (h / n))).map fun k =>
    satdSquare n fun i =>
      let j := (k / (w / n) * n + i / n) * w + k % (w / n) * n + i % n
      (a.getD j 0 : Int) - b.getD j 0).sum

/-- The values of `f` over an area, in raster order. -/
def areaOf (f : Nat → Nat → Nat) (x y w h : Nat) : List Nat := (List.range (w * h)).map fun i => f (x + i % w) (y + i / w)

/-! ## Samples -/

/-- Subsampling of a component. -/
def ChannelCfg.divH (c : ChannelCfg) (comp : Nat) : Nat := if comp = 0 then 1 else c.subH
def ChannelCfg.divV (c : ChannelCfg) (comp : Nat) : Nat := if comp = 0 then 1 else c.subV

/-- A source sample of a coded line: lines below the active height repeat the last active one, in every component (R74). -/
def Pic.sourceCoded (y : Pic) (c : ChannelCfg) (comp a b : Nat) : Nat := y.sample comp a (min b (c.lines / c.divV comp - 1))

/-- A decimated sample of a picture's plane (R67), with boundary padding. -/
def Pic.decimAt (y : Pic) (c : ChannelCfg) (a b : Int) : Nat :=
  SMap.get (fun _ => 0) y.decim (sampleKey 0 (clip a 0 ((c.width / 4 : Nat) - 1)).toNat (clip b 0 ((c.codedLines / 4 : Nat) - 1)).toNat)

/-- A reconstructed sample of a reference picture, with the standard's boundary padding (R83). -/
def Channel.refSample (x : Channel) (q comp : Nat) (a b : Int) : Nat :=
  let w : Int := (x.cfg.width / x.cfg.divH comp : Nat)
  let h : Int := (x.cfg.codedLines / x.cfg.divV comp : Nat)
  SMap.get (fun _ => 0) (x.pic q).rebuilt (sampleKey comp (clip a 0 (w - 1)).toNat (clip b 0 (h - 1)).toNat)

/-! ## What the decisions of a band read -/

/-- A band in coding: its channel, picture, number, what the standards' processes take, the context states at its start, and the biases and QP
offset of every block (R242). -/
structure Enc where
  x    : Channel
  p    : Nat
  b    : Nat
  f    : CodeFmt
  ctx0 : List Nat
  hooks : Nat → List Int

/-- What grows as a band is coded: the picture's samples before in-loop filtering, and the picture's units, the newest first. -/
structure Work where
  plane : SMap (Option Nat)
  units : List CodedUnit

/-- The band's picture, and that it is an I slice. -/
def Enc.pic (e : Enc) : Pic := e.x.pic e.p
def Enc.intraSlice (e : Enc) : Bool := intraClass e.f.ptype

/-- The first luma line of the slice that the band belongs to (R89, R140). -/
def Enc.sliceTop (e : Enc) : Nat := (e.x.sliceTops e.p e.b (e.pic.band e.b).floor).getLastD 0

/-- What the standards' derivations read at this moment (R77, R84): with TMVP = 1 the collocated picture is reference index 0 of list 0. -/
def Enc.motionCtx (e : Enc) (w : Work) : MotionCtx :=
  let poc (q : Nat) : Int := (e.x.pic q).poc
  let base : MotionCtx :=
    { poc := e.pic.poc, pocs0 := e.pic.refs0.map poc, pocs1 := e.pic.refs1.map poc, units := w.units.filter fun u => decide (e.sliceTop ≤ u.y) }
  match e.pic.refs0 with
  | q :: _ =>
    if e.x.cfg.tmvp = 1 then
      { base with colPoc := poc q, colPocs0 := (e.x.pic q).refs0.map poc, colPocs1 := (e.x.pic q).refs1.map poc, col := (e.x.pic q).units }
    else base
  | [] => base

/-- R of R77: the bits of an item by the context states at the band's start, among what has been coded around it. -/
def Enc.bits (e : Enc) (w : Work) (t : RateItem) : Nat := Config.rate e.f e.ctx0 (e.motionCtx w) t

/-- The 16 × 16 block of the band, in the order of R65, at a luma place. -/
def ChannelCfg.blockIndex (c : ChannelCfg) (b x y : Nat) : Nat :=
  let n := c.ctbSize / 16
  let cols := c.width / 16
  let u := x / 16
  let v := y / 16 - c.bandTop b / 16
  let h := min n (c.bandCoded b / 16 - v / n * n)
  let order := (zOrder n).filter fun e => decide (e.2 < h)
  v / n * n * cols + u / n * (n * h) + order.idxOf (u % n, v % n)

/-- The QP of the group at a luma place (R87); a larger unit takes that of its top-left group (DESIGN CHOICE, log 135). -/
def Enc.qpAt (e : Enc) (x y : Nat) : Int :=
  let c := e.x.cfg
  let u := e.pic.band e.b
  blockQp c u.qp (u.floor || u.guard) (e.pic.activity c (x / 16) (y / 16)) (e.pic.activityMean c e.b) ((e.hooks (c.blockIndex e.b x y)).headD 0)

/-- λ and λ_s for a QP of the band. -/
def Enc.lam (e : Enc) (q : Int) : Nat := e.x.cfg.lambda e.intraSlice q
def Enc.lamS (e : Enc) (q : Int) : Nat := e.x.cfg.lambdaS e.intraSlice q

/-- J of R77 from a distortion and a rate: D + (λ · R) >> 8 (DESIGN CHOICE, log 135). -/
def Enc.cost (e : Enc) (q : Int) (d r : Nat) : Int := (d : Int) + (e.lam q * r / 256 : Nat)

/-- The sum of a luma and weighted chroma errors (R77), rounded once. Where Cb and Cr have different QP offsets, and so different weights, each is weighed by
its own (DESIGN CHOICE, log 143). -/
def Enc.weighed (e : Enc) (q : Int) (y cb cr : Nat) : Nat :=
  let wc (comp : Nat) : Nat := chromaWeight q (Config.chromaQp e.f comp q)
  y + (wc 1 * cb + wc 2 * cr + 128) / 256

/-- D of R77 over a luma area and its chroma. -/
def Enc.distortion (e : Enc) (w : Work) (q : Int) (x y n : Nat) : Nat :=
  let c := e.x.cfg
  let one (comp : Nat) : Nat :=
    let x0 := x / c.divH comp
    let y0 := y / c.divV comp
    sseOf (areaOf (e.pic.sourceCoded c comp) x0 y0 (n / c.divH comp) (n / c.divV comp))
      (areaOf (fun a b => (SMap.get (fun _ => none) w.plane (sampleKey comp a b)).getD 0) x0 y0 (n / c.divH comp) (n / c.divV comp))
  e.weighed q (one 0) (one 1) (one 2)

/-! ## The refresh column (R90) -/

/-- The channel refreshes a column in this picture: GOP 1 or 2, a P or B picture. An I picture inside the cycle, all of it intra, is not restricted in its
modes (DESIGN CHOICE, log 143). -/
def Enc.refreshes (e : Enc) : Bool := decide (2 ≤ e.x.cfg.irPeriod) && (decide (e.x.cfg.gop = 1) || decide (e.x.cfg.gop = 2)) && !e.intraSlice

/-- The column width w in CTBs (R90). -/
def ChannelCfg.refreshWidth (c : ChannelCfg) : Nat :=
  let cols := (c.width + c.ctbSize - 1) / c.ctbSize
  (cols + c.irPeriod - 1) / c.irPeriod

/-- A luma column lies in the refresh column of this picture, which ends at the picture's edge at the latest; it lies in that column or left of it. -/
def Enc.inColumn (e : Enc) (x : Nat) : Bool :=
  let k := e.pic.cycleK
  let w := e.x.cfg.refreshWidth
  e.refreshes && decide (k < e.x.cfg.sweep) && decide (k * w ≤ x / e.x.cfg.ctbSize) && decide (x / e.x.cfg.ctbSize < (k + 1) * w) && decide (x < e.x.cfg.width)
def Enc.inRegion (e : Enc) (x : Nat) : Bool :=
  e.refreshes && (e.inColumn x || decide (x / e.x.cfg.ctbSize < e.pic.cycleK * e.x.cfg.refreshWidth))

/-- The clean width of reference `q` in luma samples (R90); 0 for one from an earlier cycle. An IDR picture, which has no cycle index of its own, counts as of an
earlier cycle (DESIGN CHOICE, log 143). -/
def Enc.cleanWidth (e : Enc) (q : Nat) : Nat :=
  let c := e.x.cfg
  let j := (e.x.pic q).cycleK
  let k := e.pic.cycleK
  if j < k ∧ e.x.posOf e.p = e.x.posOf q + (k - j) ∧ (e.x.pic q).ptype ≠ 1 then
    (if c.sweep ≤ j + 1 then c.width else (j + 1) * c.refreshWidth * c.ctbSize - 4)
  else 0

/-- The modes an intra block of `n` samples at luma column `x` may take (R90): at the right edge of the column, DC, horizontal and those that read no
sample to its upper right. -/
def Enc.modeAllowed (e : Enc) (x n mode : Nat) : Bool :=
  let edge := e.inColumn x && !e.inColumn (x + n)
  if edge = false then true
  else if e.x.cfg.codec = 0 then decide (mode = 1) || decide (mode = 10) || (decide (2 ≤ mode) && decide (mode ≤ 9))
  else decide (mode = 2) || decide (mode = 1) || (decide (n < 16) && decide (mode = 6))

/-! ## The window (R69, R83) -/

/-- SEARCH_H and SEARCH_V in luma samples (R76). -/
def ChannelCfg.rangeH (c : ChannelCfg) : Nat := 256 / 2 ^ c.searchH
def ChannelCfg.rangeV (c : ChannelCfg) : Nat := 128 / 2 ^ c.searchV

/-- The lowest and highest sample that a prediction of `n` samples from `a` on reads, displaced by `mv` in units of 1/`unit`, with `l` and `r` taps beside it
where the displacement is fractional. -/
def readSpan (a n : Nat) (mv : Int) (unit l r : Nat) : Int × Int :=
  let i := mv / (unit : Int)
  let frac := decide (mv % (unit : Int) ≠ 0)
  ((a : Int) + i - (if frac then (l : Int) else 0), (a : Int) + n - 1 + i + (if frac then (r : Int) else 0))

/-- The vertical displacement of a component's vectors between fields of AVC, in units of 1/4 sample of the component's plane times its subsampling. -/
def Enc.chromaShift (e : Enc) (q comp : Nat) : Int :=
  if comp ≠ 0 ∧ e.x.cfg.fields = true then Config.fieldShift e.x.cfg.codec (e.p % 2) (q % 2) * (e.x.cfg.divV comp : Nat) else 0

/-- A vector of a prediction block is allowed (R83, R90): every sample that it reads, the taps included, lies in the hoop window with its margins of 4
samples, and in the refreshed region and the column below the reference's clean width. -/
def Enc.vectorOk (e : Enc) (q x y w h : Nat) (mv : Int × Int) : Bool :=
  let c := e.x.cfg
  let test (comp : Nat) : Bool :=
    let dh := c.divH comp
    let dv := c.divV comp
    let t := if comp = 0 then (3, 4) else (1, 2)
    let sx := readSpan (x / dh) (w / dh) mv.1 (4 * dh) t.1 t.2
    let sy := readSpan (y / dv) (h / dv) (mv.2 + e.chromaShift q comp) (4 * dv) t.1 t.2
    let top : Int := (c.bandTop e.b : Nat)
    let bottom : Int := (c.bandTop e.b + c.bandCoded e.b : Nat)
    decide (((x : Int) - c.rangeH - 4) / dh ≤ sx.1) && decide (sx.2 * dh < (x : Int) + w + c.rangeH + 4) &&
      decide ((top - c.rangeV - 4) / dv ≤ sy.1) && decide (sy.2 * dv < bottom + c.rangeV + 4) &&
      (!e.inRegion x || decide (sx.2 < (e.cleanWidth q / dh : Nat)))
  test 0 && test 1

/-- A vector clipped into the window (R82, R83, R96). -/
def Enc.clipVector (e : Enc) (y h : Nat) (mv : Int × Int) : Int × Int :=
  let c := e.x.cfg
  let v : Int := c.rangeV
  let lo : Int := (c.bandTop e.b : Int) - v - y
  let hi : Int := (c.bandTop e.b + c.bandCoded e.b : Nat) + v - y - h
  (clip mv.1 (-4 * (c.rangeH : Int)) (4 * (c.rangeH : Int)), clip mv.2 (4 * lo) (4 * hi))

end Sys2Proof.Machine
end

