-- ==== Sys2Proof/Machine/EncSearch.lean ====
section
/-!
DEFINITION. Prediction and search of the encode path (R80–R84): inter and intra prediction of an area, the decimated search of S0, the integer and
fractional refinement of S1–S3, bi-prediction, merge and skip candidates, and the pre-selection of intra modes in M0.
-/
namespace Sys2Proof.Machine

/-! ## Prediction -/

/-- The reference picture of an index in a list. -/
def Enc.refOf (e : Enc) (list idx : Nat) : Nat := (if list = 0 then e.pic.refs0 else e.pic.refs1).getD idx 0

/-- Where a displaced sample of component `comp` lies in reference `q`: the whole part, and the fractions, of the vector in units of the component. -/
def Enc.place (e : Enc) (q comp : Nat) (a b : Nat) (v : MvRef) : (Int × Int) × (Nat × Nat) :=
  let ux : Int := (4 * e.x.cfg.divH comp : Nat)
  let uy : Int := (4 * e.x.cfg.divV comp : Nat)
  let shift := e.chromaShift q comp
  (((a : Int) + v.x / ux, (b : Int) + (v.y + shift) / uy), ((v.x % ux).toNat, ((v.y + shift) % uy).toNat))

/-- The 8 × 8 reference samples around a place. -/
def Enc.around (e : Enc) (q comp : Nat) (at_ : Int × Int) : List Nat :=
  (List.range 64).map fun k => e.x.refSample q comp (at_.1 - 3 + (k % 8 : Nat)) (at_.2 - 3 + (k / 8 : Nat))

/-- A sample predicted from one reference. -/
def Enc.uniSample (e : Enc) (q comp a b : Nat) (v : MvRef) : Nat :=
  let l := e.place q comp a b v
  if l.2 = (0, 0) then e.x.refSample q comp l.1.1 l.1.2 else Config.fracSample e.x.cfg.codec e.x.cfg.chroma e.x.cfg.depth comp l.2.1 l.2.2 (e.around q comp l.1)

/-- A sample predicted by the motion of its prediction unit. Weighted prediction is not used (R82). -/
def Enc.interSample (e : Enc) (m : Motion) (comp a b : Nat) : Nat :=
  match m.l0, m.l1 with
  | some v, none => e.uniSample (e.refOf 0 v.ref) comp a b v
  | none, some v => e.uniSample (e.refOf 1 v.ref) comp a b v
  | some v, some w =>
    let q := e.refOf 0 v.ref
    let r := e.refOf 1 w.ref
    let l := e.place q comp a b v
    let k := e.place r comp a b w
    Config.biSample e.x.cfg.codec e.x.cfg.chroma e.x.cfg.depth comp [l.2.1, l.2.2, k.2.1, k.2.2] (e.around q comp l.1) (e.around r comp k.1)
  | none, none => 0

/-- Puts the values of an area into a plane. -/
def Work.put (w : Work) (comp x y n h : Nat) (vs : List Nat) : Work :=
  { w with plane := (List.range (n * h)).foldl (fun m i => SMap.set (fun _ => none) m (sampleKey comp (x + i % n) (y + i / n)) (some (vs.getD i 0))) w.plane }

/-- The inter prediction of a list of prediction units, in every component, put into the plane. -/
def Enc.predictParts (e : Enc) (w : Work) (ps : List Part) : Work :=
  let c := e.x.cfg
  ps.foldl (fun w q => [0, 1, 2].foldl (fun w comp =>
    let x := q.x / c.divH comp
    let y := q.y / c.divV comp
    let n := q.w / c.divH comp
    let h := q.h / c.divV comp
    w.put comp x y n h (areaOf (e.interSample q.motion comp) x y n h)) w) w

/-- The neighbouring samples of an intra block of `n` × `h` samples: those of the slice that have been coded. -/
def Enc.edge (e : Enc) (w : Work) (comp x y n h : Nat) : List (Option Nat) :=
  let top : Int := (e.sliceTop / e.x.cfg.divV comp : Nat)
  let right : Int := (e.x.cfg.width / e.x.cfg.divH comp : Nat)
  let at_ (u v : Int) : Option Nat :=
    if u < 0 ∨ v < top ∨ right ≤ u then none else SMap.get (fun _ => none) w.plane (sampleKey comp u.toNat v.toNat)
  ((List.range (2 * h)).map fun k => at_ ((x : Int) - 1) ((y : Int) + 2 * h - 1 - (k : Nat))) ++ [at_ ((x : Int) - 1) ((y : Int) - 1)] ++
    ((List.range (2 * n)).map fun k => at_ ((x : Int) + (k : Nat)) ((y : Int) - 1))

/-- The intra prediction of a block of `n` × `h` samples. -/
def Enc.intraOf (e : Enc) (w : Work) (comp x y n h mode : Nat) : List Nat := Config.intraPred e.f comp n h mode (e.edge w comp x y n h)

/-- Source samples of an area. -/
def Enc.source (e : Enc) (comp x y n h : Nat) : List Nat := areaOf (e.pic.sourceCoded e.x.cfg comp) x y n h

/-! ## Units coded so far -/

/-- A unit covers a luma place. -/
def CodedUnit.covers (u : CodedUnit) (a b : Int) : Bool :=
  decide ((u.x : Int) ≤ a) && decide (a < (u.x + u.size : Nat)) && decide ((u.y : Int) ≤ b) && decide (b < (u.y + u.size : Nat))

/-- The slice's unit at a luma place. -/
def Enc.unitAt (e : Enc) (w : Work) (a b : Int) : Option CodedUnit :=
  if b < (e.sliceTop : Int) then none else w.units.find? fun u => u.covers a b

/-- The motion at a luma place of a unit. -/
def CodedUnit.motionAt (u : CodedUnit) (a b : Int) : Option Motion :=
  (u.parts.find? fun q => decide ((q.x : Int) ≤ a) && decide (a < (q.x + q.w : Nat)) && decide ((q.y : Int) ≤ b) && decide (b < (q.y + q.h : Nat))).map Part.motion

/-! ## S0: the decimated full search (R82) -/

/-- A found vector with its cost in Q4. -/
structure Found where
  cost : Nat
  x    : Int
  y    : Int
deriving DecidableEq, Repr

/-- `a` goes before `b`: lower cost, then smaller |mvx| + |mvy|, then smaller mvy, then smaller mvx. -/
def Found.before (a b : Found) : Bool :=
  if a.cost ≠ b.cost then decide (a.cost < b.cost)
  else if a.x.natAbs + a.y.natAbs ≠ b.x.natAbs + b.y.natAbs then decide (a.x.natAbs + a.y.natAbs < b.x.natAbs + b.y.natAbs)
  else if a.y ≠ b.y then decide (a.y < b.y) else decide (a.x < b.x)

/-- SAD of the decimated 4 × 4 block of the 16 × 16 block at (x, y) against the decimated reference, displaced by decimated samples. -/
def Enc.decimSad (e : Enc) (q x y : Nat) (dx dy : Int) : Nat :=
  let c := e.x.cfg
  sadOf (areaOf (fun a b => e.pic.decimAt c (a : Nat) (b : Nat)) (x / 4) (y / 4) 4 4)
    (areaOf (fun a b => (e.x.pic q).decimAt c ((a : Nat) + dx) ((b : Nat) + dy)) (x / 4) (y / 4) 4 4)

/-- The two lowest-cost positions of a 16 × 16 block in reference `q` within ±64 decimated samples, the best first (R82, step 1). -/
def Enc.decimated (e : Enc) (q x y : Nat) : List Found :=
  let ls := e.lamS (e.qpAt x y)
  let all : List (Int × Int) := (List.range (129 * 129)).map fun k => (((k % 129 : Nat) : Int) - 64, ((k / 129 : Nat) : Int) - 64)
  all.foldl (fun (l : List Found) d =>
    let v : Found := { cost := 16 * e.decimSad q x y d.1 d.2 + ls * Config.mvBits e.x.cfg.codec (16 * d.1) (16 * d.2), x := d.1, y := d.2 }
    match l with
    | [] => [v]
    | [a] => if v.before a then [v, a] else [a, v]
    | a :: b :: _ => if v.before a then [v, a] else if v.before b then [a, v] else [a, b]) []

/-! ## S1–S3: refinement (R82) -/

/-- The vector of a list that a neighbour chose. -/
def Motion.vec (m : Motion) (list : Nat) : Option MvRef := if list = 0 then m.l0 else m.l1

/-- The candidates of a prediction block in the order of R82, step 2: clipped, without duplicates, at most eight. Neighbours are taken at the block's
top-left sample (DESIGN CHOICE, log 135). -/
def Enc.mvCandidates (e : Enc) (w : Work) (list idx x y pw ph : Nat) (preds : List (Int × Int)) : List (Int × Int) :=
  let q := e.refOf list idx
  let blocks := (List.range ((ph + 15) / 16 * ((pw + 15) / 16))).map fun k =>
    (x / 16 * 16 + 16 * (k % ((pw + 15) / 16)), y / 16 * 16 + 16 * (k / ((pw + 15) / 16)))
  let winners := blocks.flatMap fun p => (e.decimated q p.1 p.2).map fun v => (16 * v.x, 16 * v.y)
  let near (a b : Int) : List (Int × Int) :=
    match e.unitAt w a b with
    | some u => match (u.motionAt a b).bind fun m => m.vec list with | some v => [(v.x, v.y)] | none => []
    | none => []
  let all := winners ++ preds ++ [(0, 0)] ++ near ((x : Int) - 1) (y : Int) ++ near (x : Int) ((y : Int) - 1)
  ((all.map fun v => e.clipVector y ph v).eraseDups).take 8

/-- The bits of a vector against the predictor that is nearest to it in bits (DESIGN CHOICE, log 135). -/
def Enc.vectorBits (e : Enc) (preds : List (Int × Int)) (v : Int × Int) : Nat :=
  match preds.map fun q => Config.mvBits e.x.cfg.codec (v.1 - q.1) (v.2 - q.2) with
  | [] => Config.mvBits e.x.cfg.codec v.1 v.2
  | a :: rest => rest.foldl min a

/-- The luma prediction of an area from one reference. -/
def Enc.lumaUni (e : Enc) (q x y w h : Nat) (v : Int × Int) : List Nat := areaOf (fun a b => e.uniSample q 0 a b ⟨0, v.1, v.2⟩) x y w h

/-- The first of the least by cost. -/
def firstLeast {V : Type} (cost : V → Nat) (l : List V) : Option V :=
  l.foldl (fun best v => match best with | none => some v | some b => if cost v < cost b then some v else some b) none

/-- What the search of a prediction block in one reference finds: its vector, its cost in Q4 (SATD), and the measures R241 observes. -/
structure RefFound where
  ref  : Nat
  mv   : Int × Int
  cost : Nat
  intSad : Nat
  satd : Nat
deriving DecidableEq, Repr

/-- The search of a prediction block in reference index `idx` of a list (R82, steps 2–4): every integer position within ±4 of each candidate, then the half and
the quarter positions; a position that breaks R83 or R90 is not evaluated. A candidate counts from the nearest whole position, positions go in raster order
(DESIGN CHOICE, log 135). -/
def Enc.searchRef (e : Enc) (w : Work) (list idx x y pw ph : Nat) : Option RefFound :=
  let q := e.refOf list idx
  let ls := e.lamS (e.qpAt x y)
  let src := e.source 0 x y pw ph
  let preds := Config.mvPredictors e.f (e.motionCtx w) list idx [x, y, pw, ph]
  let grid (r step : Nat) (v : Int × Int) : List (Int × Int) :=
    (List.range ((2 * r + 1) * (2 * r + 1))).map fun k =>
      (v.1 + (step : Int) * ((k % (2 * r + 1) : Nat) - (r : Int)), v.2 + (step : Int) * ((k / (2 * r + 1) : Nat) - (r : Int)))
  let ok (v : Int × Int) : Bool := e.vectorOk q x y pw ph v
  let whole := ((e.mvCandidates w list idx x y pw ph preds).flatMap fun v => grid 4 4 ((v.1 + 2) / 4 * 4, (v.2 + 2) / 4 * 4)).filter ok
  let sad (v : Int × Int) : Nat := sadOf src (e.lumaUni q x y pw ph v)
  let satd (v : Int × Int) : Nat := satdOf pw ph src (e.lumaUni q x y pw ph v)
  let costI (v : Int × Int) : Nat := 16 * sad v + ls * e.vectorBits preds v
  let costF (v : Int × Int) : Nat := 16 * satd v + ls * e.vectorBits preds v
  match firstLeast costI whole with
  | none => none
  | some i =>
    let half := (firstLeast costF (i :: ((grid 1 2 i).filter fun v => decide (v ≠ i) && ok v))).getD i
    let best := (firstLeast costF (half :: ((grid 1 1 half).filter fun v => decide (v ≠ half) && ok v))).getD half
    some { ref := idx, mv := best, cost := costF best, intSad := sad i, satd := satd best }

/-- The search of a prediction block over the references of a list: the lowest cost, the first of equals. -/
def Enc.searchList (e : Enc) (w : Work) (list x y pw ph : Nat) : Option RefFound :=
  let n := (if list = 0 then e.pic.refs0 else e.pic.refs1).length
  firstLeast RefFound.cost ((List.range n).filterMap fun k => e.searchRef w list k x y pw ph)

/-- The motion of a prediction block (R82, step 5): the best list 0 vector, the best list 1 vector, and in a B slice both together, by SATD and vector bits, the
first of equals (DESIGN CHOICE, log 135). Bi-prediction of an HEVC block of 8 × 4 or 4 × 8 does not exist. -/
def Enc.searchPart (e : Enc) (w : Work) (x y pw ph : Nat) : Option Motion :=
  let a := e.searchList w 0 x y pw ph
  let b := if e.f.ptype = 4 then e.searchList w 1 x y pw ph else none
  let vec (r : RefFound) : MvRef := ⟨r.ref, r.mv.1, r.mv.2⟩
  let uni (r : Option RefFound) (f : MvRef → Motion) : List (Nat × Motion) := match r with | some r => [(r.cost, f (vec r))] | none => []
  let bi : List (Nat × Motion) :=
    match a, b with
    | some r, some k =>
      if e.x.cfg.codec = 0 ∧ pw + ph = 12 then []
      else
        let m : Motion := { l0 := some (vec r), l1 := some (vec k) }
        let bits := (r.cost - 16 * r.satd) + (k.cost - 16 * k.satd)
        [(16 * satdOf pw ph (e.source 0 x y pw ph) (areaOf (e.interSample m 0) x y pw ph) + bits, m)]
    | _, _ => []
  (firstLeast Prod.fst (uni a (fun v => { l0 := some v, l1 := none }) ++ uni b (fun v => { l0 := none, l1 := some v }) ++ bi)).map Prod.snd

/-- Every vector of a list of prediction units keeps to R83 and R90 (R84). -/
def Enc.partsOk (e : Enc) (ps : List Part) : Bool :=
  ps.all fun q =>
    let one (list : Nat) : Bool := match q.motion.vec list with | some v => e.vectorOk (e.refOf list v.ref) q.x q.y q.w q.h (v.x, v.y) | none => true
    one 0 && one 1

/-- The merge candidates of a unit, or of AVC the motion of P_Skip, B_Skip or B_Direct_16x16, with their indices, up to MERGE_CANDS; one that would break
R83 or R90 is not evaluated (R84). -/
def Enc.mergeList (e : Enc) (w : Work) (x y n : Nat) : List (Nat × List Part) :=
  let l := (Config.mergeCands e.f (e.motionCtx w) x y n n).take (if e.x.cfg.codec = 0 then e.x.cfg.mergeCands else 1)
  ((List.range l.length).map fun k => (k, l.getD k [])).filter fun v => e.partsOk v.2

/-! ## M0: intra pre-selection (R80, R81) -/

/-- The modes of a luma block: 35 of HEVC; of AVC 9, or the 4 of I_16x16. -/
def Enc.lumaModes (e : Enc) (x n : Nat) : List Nat :=
  (List.range (if e.x.cfg.codec = 0 then 35 else if n = 16 then 4 else 9)).filter (e.modeAllowed x n)

/-- The pre-selection cost of a mode in Q4 (R80): SATD, and for HEVC λ_s times 2 bits for a most probable mode, 6 otherwise. -/
def Enc.modeCost (e : Enc) (w : Work) (x y n mode : Nat) : Nat :=
  let satd := satdOf n n (e.source 0 x y n n) (e.intraOf w 0 x y n n mode)
  if e.x.cfg.codec = 0 then
    16 * satd + e.lamS (e.qpAt x y) * (if (Config.intraMpm e.f w.units x y n).contains mode then 2 else 6)
  else 16 * satd

/-- The cost of a mode for a unit: of a 64 × 64 unit the SATD summed over its four quadrants, without bits (R80). -/
def Enc.unitModeCost (e : Enc) (w : Work) (x y n mode : Nat) : Nat :=
  let satd (a b : Nat) : Nat := satdOf 32 32 (e.source 0 a b 32 32) (e.intraOf w 0 a b 32 32 mode)
  if n = 64 then satd x y + satd (x + 32) y + satd x (y + 32) + satd (x + 32) (y + 32) else e.modeCost w x y n mode

/-- The lowest-cost modes, at most `k`, in order of cost, the lower mode first among equals. -/
def leastModes (k : Nat) (cost : Nat → Nat) (ms : List Nat) : List Nat :=
  match k, firstLeast cost ms with
  | j + 1, some m => m :: leastModes j cost (ms.filter fun v => decide (v ≠ m))
  | _, _ => []

/-- The three lowest-cost modes of a luma block or unit (R80, R81). -/
def Enc.threeModes (e : Enc) (w : Work) (x y n : Nat) : List Nat := leastModes 3 (e.unitModeCost w x y n) (e.lumaModes x n)

end Sys2Proof.Machine
end

