-- ==== Sys2Proof/Machine/EncMode.lean ====
section
/-!
DEFINITION. Residuals and decisions of the encode path (R77–R81, R84–R86, R140): quantisation with RDOQ and sign hiding, the transform tree, the
candidates of a unit, the coding quadtree and the macroblock, the forms of a floor band, X3's final coding, and what R241 observes.
-/
namespace Sys2Proof.Machine

/-! ## Transform blocks and quantisation (R85, R86) -/

/-- How a block is quantised: as a trial in X0–X2, finally in X3 with RDOQ and sign hiding, or not at all in the forms of R140. -/
inductive Quant where
  | trial | final | none
deriving DecidableEq, Repr

/-- The sum of squared differences of two residuals. -/
def sseRes (a b : List Int) : Nat := ((a.zip b).map fun e => ((e.1 - e.2) * (e.1 - e.2)).natAbs).sum

/-- The weighted distortion of a component (R77). -/
def Enc.weigh (e : Enc) (q : Int) (comp d : Nat) : Nat := if comp = 0 then d else (chromaWeight q (Config.chromaQp e.f comp q) * d + 128) / 256

/-- The QP of a block's component. -/
def Enc.compQp (e : Enc) (q : Int) (comp : Nat) : Int := if comp = 0 then q else Config.chromaQp e.f comp q

/-- The residual that a block's levels stand for (R85). -/
def Enc.residual (e : Enc) (mode : Option Nat) (q : Int) (t : TBlock) : List Int :=
  Config.inverse e.f (t.kernel e.x.cfg.codec mode.isSome) mode t (e.compQp q t.comp)

/-- J of a block's levels against its residual. -/
def Enc.levelCost (e : Enc) (mode : Option Nat) (q : Int) (t : TBlock) (res : List Int) (lv : List Int) : Int :=
  let t := { t with levels := lv }
  e.cost q (e.weigh q t.comp (sseRes res (e.residual mode q t))) (Config.rate e.f e.ctx0 {} (.levels t mode))

/-- The first of the least by a signed cost. -/
def firstLeastI {V : Type} (cost : V → Int) (l : List V) : Option V :=
  l.foldl (fun best v => match best with | none => some v | some b => if cost v < cost b then some v else some b) none

/-- A level's sign with another magnitude. -/
def withMag (l : Int) (m : Nat) : Int := if l < 0 then -(m : Int) else m

/-- RDOQ (R86): every non-zero level is decided among |l|, |l| − 1, and 0 when |l| ≤ 2, by the lowest J; from the end of the scan to its start (DESIGN
CHOICE, log 135). -/
def Enc.rdoq (e : Enc) (mode : Option Nat) (q : Int) (t : TBlock) (res lv : List Int) : List Int :=
  (List.range lv.length).reverse.foldl (fun lv i =>
    let l := lv.getD i 0
    let m := l.natAbs
    if m = 0 then lv
    else
      let ms := [m, m - 1] ++ (if m = 2 then [0] else [])
      let v := (firstLeastI (fun k => e.levelCost mode q t res (lv.set i (withMag l k))) ms).getD m
      lv.set i (withMag l v)) lv

/-- A coefficient group agrees with sign hiding: its sign is not hidden, as its non-zero levels span fewer than five places, or the parity of its levels gives
the sign of its first. -/
def groupAgrees (g : List Int) : Bool :=
  let ks := (List.range g.length).filter fun k => decide (g.getD k 0 ≠ 0)
  match ks, ks.getLast? with
  | a :: _, some z => decide (z < a + 4) || (decide ((g.map Int.natAbs).sum % 2 = 1) == decide (g.getD a 0 < 0))
  | _, _ => true

/-- Sign data hiding (R86): in a group whose parity is wrong, the level whose change by one costs least changes: by J with RDOQ, else by the rounding error;
ties go to the later coefficient. The rounding error is that after the change, and of a coefficient's two changes +1 is tried first (DESIGN CHOICE, log
143). -/
def Enc.hideSigns (e : Enc) (mode : Option Nat) (q : Int) (t : TBlock) (res coefs lv : List Int) : List Int :=
  (List.range ((lv.length + 15) / 16)).foldl (fun lv g =>
    let group (l : List Int) : List Int := (l.drop (16 * g)).take 16
    if groupAgrees (group lv) then lv
    else
      let options := ((List.range 16).reverse.flatMap fun k => [(1 : Int), -1].map fun d => (16 * g + k, d)).filter fun o =>
        decide (o.1 < lv.length) && groupAgrees (group (lv.set o.1 (lv.getD o.1 0 + o.2)))
      let cost (o : Nat × Int) : Int :=
        let l := lv.set o.1 (lv.getD o.1 0 + o.2)
        if e.x.cfg.rdoq = 1 then e.levelCost mode q t res l else ((coefs.getD o.1 0 - 512 * l.getD o.1 0).natAbs : Nat)
      match firstLeastI cost options with
      | some o => lv.set o.1 (lv.getD o.1 0 + o.2)
      | none => lv) lv

/-- The levels of a residual (R85): rounded with DEADZONE in 1/512 of a step; finally RDOQ, and sign hiding on HEVC. -/
def Enc.quantise (e : Enc) (z : Quant) (mode : Option Nat) (q : Int) (t : TBlock) (res : List Int) : List Int :=
  let c := e.x.cfg
  let coefs := Config.forward e.f (t.kernel c.codec mode.isSome) mode t (e.compQp q t.comp) res
  let dz := if mode.isSome then c.deadzoneIntra else c.deadzoneInter
  let lv := coefs.map fun v => withMag v ((v.natAbs + dz) / 512)
  match z with
  | .none => []
  | .trial => lv
  | .final =>
    let lv := if c.rdoq = 1 then e.rdoq mode q t res lv else lv
    if c.codec = 0 ∧ c.sdh = 1 then e.hideSigns mode q t res coefs lv else lv

/-- A block has a non-zero level. -/
def TBlock.coded (t : TBlock) : Bool := t.levels.any fun l => decide (l ≠ 0)

/-- The samples of an area of the plane. -/
def Work.area (w : Work) (comp x y n h : Nat) : List Nat := areaOf (fun a b => (SMap.get (fun _ => none) w.plane (sampleKey comp a b)).getD 0) x y n h

/-- Codes a block: its prediction is that of the mode, or of inter prediction stands in the plane already; the plane takes its reconstruction. -/
def Enc.codeBlock (e : Enc) (z : Quant) (w : Work) (mode : Option Nat) (q : Int) (t : TBlock) : TBlock × Work :=
  let pred := match mode with
    | some m => e.intraOf w t.comp t.x t.y t.n t.h m
    | none => w.area t.comp t.x t.y t.n t.h
  let res := ((e.source t.comp t.x t.y t.n t.h).zip pred).map fun v => (v.1 : Int) - v.2
  let t := { t with levels := e.quantise z mode q t res }
  let out := if t.coded then
      ((pred.zip (e.residual mode q t)).map fun v => (clip ((v.1 : Int) + v.2) 0 (2 ^ e.x.cfg.depth - 1)).toNat)
    else pred
  (t, w.put t.comp t.x t.y t.n t.h out)

/-! ## The transform tree (R79) -/

/-- The entry of a unit's list of modes that holds at a luma place: one for the unit, or one for each of its blocks. -/
def CodedUnit.slot (u : CodedUnit) (l : List Nat) (x y : Nat) : Nat :=
  let side := Nat.sqrt l.length
  let n := u.size / max 1 side
  (y - u.y) / n * side + (x - u.x) / n

/-- The luma intra mode of a unit at a luma place. -/
def CodedUnit.lumaMode (u : CodedUnit) (x y : Nat) : Nat := u.modes.getD (u.slot u.modes x y) 0

/-- The prediction mode of chroma beside a luma mode (R80): of HEVC 4 is derived from luma, and a mode equal to it becomes 34; mapped in 4:2:2. -/
def Enc.chromaPred (e : Enc) (luma chromaMode : Nat) : Nat :=
  if e.x.cfg.codec = 1 then chromaMode
  else
    let m := if chromaMode = 4 then luma else if [0, 26, 10, 1].getD chromaMode 0 = luma then 34 else [0, 26, 10, 1].getD chromaMode 0
    if e.x.cfg.chroma = 2 then Config.chroma422 m else m

/-- The mode of a block of a unit; none of an inter unit. Chroma has a mode of its own for each luma block of a divided 4:4:4 unit (R80), else one, derived
from the first luma block. -/
def Enc.modeOf (e : Enc) (u : CodedUnit) (t : TBlock) : Option Nat :=
  if u.cls ≠ 3 then none
  else if t.comp = 0 then some (u.lumaMode t.x t.y)
  else
    let k := u.slot u.chromaModes (t.x * e.x.cfg.divH t.comp) (t.y * e.x.cfg.divV t.comp)
    some (e.chromaPred (u.modes.getD k 0) (u.chromaModes.getD k 0))

/-- Codes a list of blocks in order. -/
def Enc.codeBlocks (e : Enc) (z : Quant) (u : CodedUnit) (ts : List TBlock) (w : Work) : List TBlock × Work :=
  ts.foldl (fun (r : List TBlock × Work) t => let k := e.codeBlock z r.2 (e.modeOf u t) u.qp t; (r.1 ++ [k.1], k.2)) ([], w)

/-- Codes a list of blocks in order, each 4 × 4 intra one with TSKIP = 1 also with transform skip, which it takes where that costs less (R85). -/
def Enc.tryBlocks (e : Enc) (u : CodedUnit) (ts : List TBlock) (w : Work) : List TBlock × Work :=
  let c := e.x.cfg
  let j (r : TBlock × Work) : Int :=
    let t := r.1
    e.cost u.qp (e.weigh u.qp t.comp (sseOf (e.source t.comp t.x t.y t.n t.h) (r.2.area t.comp t.x t.y t.n t.h)))
      (Config.rate e.f e.ctx0 {} (.levels t (e.modeOf u t)))
  ts.foldl (fun (r : List TBlock × Work) t =>
    let plain := e.codeBlock .trial r.2 (e.modeOf u t) u.qp t
    let k := if t.n = 4 ∧ u.cls = 3 ∧ c.codec = 0 ∧ c.tskip = 1 then
        let skip := e.codeBlock .trial r.2 (e.modeOf u t) u.qp { t with skip := true }
        if j skip < j plain then skip else plain
      else plain
    (r.1 ++ [k.1], k.2)) ([], w)

/-- Codes the blocks of a tree again, in its own form. -/
def Enc.codeTree (e : Enc) (z : Quant) (u : CodedUnit) (t : TuTree) (w : Work) : TuTree × Work :=
  match t with
  | .leaf l => let r := e.codeBlocks z u l w; (.leaf r.1, r.2)
  | .split a b c d l =>
    let a := Enc.codeTree e z u a w
    let b := Enc.codeTree e z u b a.2
    let c := Enc.codeTree e z u c b.2
    let d := Enc.codeTree e z u d c.2
    let r := e.codeBlocks z u l d.2
    (.split a.1 b.1 c.1 d.1 r.1, r.2)

/-- The blocks of a tree. -/
def TuTree.blocks (t : TuTree) : List TBlock :=
  match t with
  | .leaf l => l
  | .split a b c d l => a.blocks ++ b.blocks ++ c.blocks ++ d.blocks ++ l

/-- SSE of a component over a luma area, between source and plane. -/
def Enc.areaSse (e : Enc) (w : Work) (comp x y n : Nat) : Nat :=
  let c := e.x.cfg
  let x0 := x / c.divH comp
  let y0 := y / c.divV comp
  sseOf (e.source comp x0 y0 (n / c.divH comp) (n / c.divV comp))
    (areaOf (fun a b => (SMap.get (fun _ => none) w.plane (sampleKey comp a b)).getD 0) x0 y0 (n / c.divH comp) (n / c.divV comp))

/-- J of a node of the transform tree; the chroma of a 4 × 4 node of 4:2:0 and 4:2:2 is its parent's. -/
def Enc.nodeCost (e : Enc) (w : Work) (u : CodedUnit) (x y n : Nat) (t : TuTree) : Int :=
  let d := if n = 4 ∧ e.x.cfg.chroma ≠ 3 then e.areaSse w 0 x y n else e.distortion w u.qp x y n
  e.cost u.qp d (e.bits w (.tu u t))

/-- The leaf of a node as a trial. Transform skip is tried in a leaf of 4 × 4 luma, whose chroma is 4 × 4 too in 4:4:4 (R85). -/
def Enc.tryLeaf (e : Enc) (w : Work) (u : CodedUnit) (x y n : Nat) : TuTree × Work :=
  let ts := e.x.cfg.leafBlocks x y n
  let r := if n = 4 then e.tryBlocks u ts w else e.codeBlocks .trial u ts w
  (.leaf r.1, r.2)

/-- The transform tree of a node of an HEVC unit by rate-distortion cost (R79): sizes from 4 × 4 to MAX_TU, within TU_DEPTH_INTRA or TU_DEPTH_INTER levels
below the unit. `depth` levels have been used; the units that the standard splits at once are split. -/
def Enc.tuTree (e : Enc) (n' : Nat) (w : Work) (u : CodedUnit) (x y n depth : Nat) : TuTree × Work :=
  match n' with
  | 0 => e.tryLeaf w u x y n
  | k + 1 =>
    let c := e.x.cfg
    let maxTu := if c.maxTu = 0 then 32 else 16
    let quarters := decide (4 ≤ u.modes.length) && decide (depth = 0)
    let levels := if u.cls = 3 then c.tuDepthIntra + (if 4 ≤ u.modes.length then 1 else 0) else c.tuDepthInter
    let interSplit := decide (u.cls ≠ 3) && decide (c.tuDepthInter = 0) && decide (1 < u.parts.length) && decide (depth = 0)
    let forced := decide (maxTu < n) || quarters || (interSplit && decide (4 < n))
    let maySplit := decide (4 < n) && (forced || decide (depth < levels))
    let sub (_ : Unit) : TuTree × Work :=
      let h := n / 2
      let a := Enc.tuTree e k w u x y h (depth + 1)
      let b := Enc.tuTree e k a.2 u (x + h) y h (depth + 1)
      let g := Enc.tuTree e k b.2 u x (y + h) h (depth + 1)
      let d := Enc.tuTree e k g.2 u (x + h) (y + h) h (depth + 1)
      let r := e.tryBlocks u (if n = 8 ∧ c.chroma ≠ 3 then c.chromaBlocks x y n else []) d.2
      (.split a.1 b.1 g.1 d.1 r.1, r.2)
    if forced && maySplit then sub ()
    else
      let whole := e.tryLeaf w u x y n
      if maySplit = false then whole
      else
        let parts := sub ()
        if e.nodeCost whole.2 u x y n whole.1 ≤ e.nodeCost parts.2 u x y n parts.1 then whole else parts

/-- The blocks of a macroblock with one transform size: luma in raster order of 8 × 8 quarters, then chroma. -/
def ChannelCfg.mbBlocks (c : ChannelCfg) (x y n : Nat) : List TBlock :=
  let luma : List TBlock :=
    if n = 16 then [{ comp := 0, x := x, y := y, n := 16 }]
    else if n = 8 then (zOrder 2).map fun k => { comp := 0, x := x + 8 * k.1, y := y + 8 * k.2, n := 8 }
    else (zOrder 4).map fun k => { comp := 0, x := x + 4 * k.1, y := y + 4 * k.2, n := 4 }
  luma ++ c.chromaBlocks x y 16

/-! ## Candidates (R78, R80, R81, R84) -/

/-- A candidate of a unit after its trial: J without bias, the unit, and what has been coded. -/
structure Trial where
  cost : Int
  unit : CodedUnit
  work : Work

/-- J of a unit over its luma area and chroma. -/
def Enc.trialOf (e : Enc) (u : CodedUnit) (w : Work) : Trial :=
  { cost := e.cost u.qp (e.distortion w u.qp u.x u.y u.size) (e.bits w (.unit u)), unit := u, work := w }

/-- The residual trial of an inter unit whose prediction stands in the plane: HEVC's transform tree; of a macroblock the 4 × 4 and, with AVC_8X8 = 1, the 8 × 8
transform (R79). -/
def Enc.interTrial (e : Enc) (u : CodedUnit) (w : Work) : Trial :=
  let c := e.x.cfg
  if c.codec = 0 then
    let r := e.tuTree 4 w u u.x u.y u.size 0
    e.trialOf { u with tree := r.1 } r.2
  else
    let one (n : Nat) : Trial :=
      let r := e.codeTree .trial u (.leaf (c.mbBlocks u.x u.y n)) w
      e.trialOf { u with tree := r.1 } r.2
    let four := one 4
    if c.avc8x8 = 1 then (let eight := one 8; if eight.cost < four.cost then eight else four) else four

/-- The first of the cheapest trials. -/
def cheapest (l : List Trial) : Option Trial := firstLeastI Trial.cost l

/-- The skip candidates of a unit: its prediction alone (R84). -/
def Enc.skips (e : Enc) (w : Work) (x y n : Nat) : Option Trial :=
  cheapest ((e.mergeList w x y n).map fun m =>
    e.trialOf { x := x, y := y, size := n, cls := 0, form := 1, merge := some m.1, parts := m.2, qp := e.qpAt x y } (e.predictParts w m.2))

/-- The merge candidates of a unit with residual, or B_Direct_16x16, which TMVP = 0 shuts out on AVC. An HEVC merge candidate whose residual is
all zero has no syntax beside skip; a B_Direct_16x16 may have none. -/
def Enc.merges (e : Enc) (w : Work) (x y n : Nat) : Option Trial :=
  let avc := decide (e.x.cfg.codec = 1)
  if avc && (decide (e.f.ptype ≠ 4) || decide (e.x.cfg.tmvp = 0)) then none
  else
    cheapest (((e.mergeList w x y n).map fun m =>
      e.interTrial { x := x, y := y, size := n, cls := 1, form := 2, merge := some m.1, parts := m.2, qp := e.qpAt x y } (e.predictParts w m.2)).filter
        fun t => avc || t.unit.tree.blocks.any TBlock.coded)

/-- The prediction areas of an inter form (R78): 3 whole, 4 two halves one above the other, 5 two side by side, 6 four quarters. -/
def interAreas (form x y n : Nat) : List (Nat × Nat × Nat × Nat) :=
  let h := n / 2
  match form with
  | 3 => [(x, y, n, n)]
  | 4 => [(x, y, n, h), (x, y + h, n, h)]
  | 5 => [(x, y, h, n), (x + h, y, h, n)]
  | _ => [(x, y, h, h), (x + h, y, h, h), (x, y + h, h, h), (x + h, y + h, h, h)]

/-- The inter candidate of a form: each prediction block is searched with the unit's earlier ones known. None where a block finds no allowed vector. -/
def Enc.inter (e : Enc) (w : Work) (form x y n : Nat) : Option Trial :=
  let u0 : CodedUnit := { x := x, y := y, size := n, cls := 2, form := form, qp := e.qpAt x y }
  let parts := (interAreas form x y n).foldl (fun (r : Option (List Part)) a =>
    match r with
    | none => none
    | some ps => (e.searchPart { w with units := { u0 with parts := ps } :: w.units } a.1 a.2.1 a.2.2.1 a.2.2.2).map fun m =>
        ps ++ [{ x := a.1, y := a.2.1, w := a.2.2.1, h := a.2.2.2, motion := m }]) (some [])
  parts.map fun ps => e.interTrial { u0 with parts := ps } (e.predictParts w ps)

/-- The chroma modes that may be tried beside a luma mode, in their order (R80, R81): of HEVC intra_chroma_pred_mode 4, 0, 1, 2, 3, of AVC DC, horizontal,
vertical, plane; at the right edge of the refresh column those whose prediction reads no sample to the upper right (R90). -/
def Enc.chromaTries (e : Enc) (x n luma : Nat) : List Nat :=
  if e.x.cfg.codec = 0 then [4, 0, 1, 2, 3].filter fun m => e.modeAllowed x n (e.chromaPred luma m)
  else if e.inColumn x && !e.inColumn (x + n) then [0, 1] else [0, 1, 2, 3]

/-- The chroma mode beside a luma mode over some chroma blocks (R80, R81): the lowest chroma SATD, the first of equals. -/
def Enc.chromaChoice (e : Enc) (w : Work) (x n luma : Nat) (areas : List TBlock) : Nat :=
  let cost (m : Nat) : Nat :=
    (areas.map fun t => satdOf t.n t.h (e.source t.comp t.x t.y t.n t.h) (e.intraOf w t.comp t.x t.y t.n t.h (e.chromaPred luma m))).sum
  (firstLeast cost (e.chromaTries x n luma)).getD 0

/-- The chroma modes of a unit: of a divided 4:4:4 unit of HEVC one for each luma block, else one. -/
def Enc.chromaModes (e : Enc) (w : Work) (u : CodedUnit) : List Nat :=
  let c := e.x.cfg
  if c.codec = 0 ∧ c.chroma = 3 ∧ 1 < u.modes.length then
    let m := u.size / Nat.sqrt u.modes.length
    (List.range u.modes.length).map fun k =>
      let x := u.x + m * (k % (u.size / m))
      let y := u.y + m * (k / (u.size / m))
      e.chromaChoice w x m (u.modes.getD k 0) (c.chromaBlocks x y m)
  else
    let areas := if u.size = 64 then (interAreas 6 u.x u.y 64).flatMap fun a => c.chromaBlocks a.1 a.2.1 32 else c.chromaBlocks u.x u.y u.size
    [e.chromaChoice w u.x u.size (u.modes.headD 0) areas]

/-- An intra unit with one luma mode: the three lowest-cost modes by full cost, each with its chroma mode (R80, R81). -/
def Enc.intraWhole (e : Enc) (w : Work) (form x y n : Nat) : Option Trial :=
  let c := e.x.cfg
  cheapest ((e.threeModes w x y n).map fun m =>
    let u : CodedUnit := { x := x, y := y, size := n, cls := 3, form := form, modes := [m], qp := e.qpAt x y }
    let u := { u with chromaModes := e.chromaModes w u }
    let r := if c.codec = 0 then e.tuTree 4 w u x y n 0 else e.codeTree .trial u (.leaf (c.mbBlocks x y 16)) w
    e.trialOf { u with tree := r.1 } r.2)

/-- An intra unit of several luma blocks of `m` samples, each with its own mode (R80, R81): block after block, the three lowest-cost modes by full cost, a
block's most probable modes taken with the unit's earlier blocks known. -/
def Enc.intraBlocks (e : Enc) (w : Work) (form x y n m : Nat) : Trial :=
  let c := e.x.cfg
  let u0 : CodedUnit := { x := x, y := y, size := n, cls := 3, form := form, qp := e.qpAt x y }
  let places := (List.range (n / m * (n / m))).map fun k => (x + m * (k % (n / m)), y + m * (k / (n / m)))
  let order := if n / m = 4 then (zOrder 4).map fun k => k.2 * 4 + k.1 else List.range places.length
  -- Luma first: the modes by raster place, the blocks in coding order.
  let r := order.foldl (fun (r : CodedUnit × List TBlock × Work) k =>
    let p := places.getD k (x, y)
    let known : Work := { r.2.2 with units := r.1 :: r.2.2.units }
    let best := firstLeastI (fun (v : Int × CodedUnit × List TBlock × Work) => v.1) ((e.threeModes known p.1 p.2 m).map fun mode =>
      let u := { r.1 with modes := (if r.1.modes = [] then List.replicate places.length 0 else r.1.modes).set k mode }
      let t := e.tryBlocks { u with chromaModes := [0] } [{ comp := 0, x := p.1, y := p.2, n := m }] r.2.2
      let ts := r.2.1 ++ t.1
      (e.cost u.qp (e.areaSse t.2 0 p.1 p.2 m) (e.bits r.2.2 (.unit { u with tree := .leaf ts })), u, ts, t.2))
    match best with | some v => v.2 | none => r) (u0, [], w)
  let u := { r.1 with chromaModes := e.chromaModes w r.1 }
  if c.codec = 0 then
    let t := e.tuTree 4 w u x y n 0
    e.trialOf { u with tree := t.1 } t.2
  else
    let t := e.codeTree .trial u (.leaf (c.mbBlocks x y m)) w
    e.trialOf { u with tree := t.1 } t.2

/-- The candidates of a unit in the order of R78. In an I slice, and in the refresh column (R90), intra alone. -/
def Enc.candidates (e : Enc) (w : Work) (x y n : Nat) : List Trial :=
  let c := e.x.cfg
  let inter := !e.intraSlice && !e.inColumn x
  let first := if inter then (e.skips w x y n).toList ++ (e.merges w x y n).toList else []
  let forms := if inter then (if c.codec = 0 then [3, 4, 5] else [3, 4, 5, 6]).filterMap fun k => e.inter w k x y n else []
  let intra := if c.codec = 0 then (e.intraWhole w 6 x y n).toList ++ (if n = 8 then [e.intraBlocks w 7 x y 8 4] else [])
    else (e.intraWhole w 7 x y n).toList ++ (if c.avc8x8 = 1 then [e.intraBlocks w 8 x y 16 8] else []) ++ [e.intraBlocks w 9 x y 16 4]
  first ++ forms ++ intra

/-- The bias of a unit of a class (R242): the sum over the blocks it covers; an 8 × 8 unit takes its block's, shifted right by 2. -/
def Enc.bias (e : Enc) (x y n cls : Nat) : Int :=
  let c := e.x.cfg
  let one (a b : Nat) : Int := if b < c.bandTop e.b + c.bandCoded e.b then (e.hooks (c.blockIndex e.b a b)).getD (1 + cls) 0 else 0
  if n = 8 then one (x / 16 * 16) (y / 16 * 16) / 4
  else ((List.range (n / 16 * (n / 16))).map fun k => one (x + 16 * (k % (n / 16))) (y + 16 * (k / (n / 16)))).sum

/-- M1's choice for a unit: the lowest biased cost, the first of equals (R77, R242). -/
def Enc.choose (e : Enc) (w : Work) (x y n : Nat) : Option Trial :=
  firstLeastI (fun t => t.cost + e.bias x y n t.unit.cls) (e.candidates w x y n)

/-! ## The quadtree and the macroblock (R78) -/

/-- A decided node: its biased cost, its tree, and what has been coded. -/
structure Node where
  cost : Int
  tree : CuTree
  work : Work

/-- A unit joins what has been coded. -/
def Trial.node (t : Trial) (bias : Int) : Node := { cost := t.cost + bias, tree := .leaf t.unit, work := { t.work with units := t.unit :: t.work.units } }

/-- The coding quadtree from a node down (R78): a unit stays whole when its best cost is no greater than its four parts' with the rate of
split_cu_flag = 1; the parts of a unit whose best choice is skip are not evaluated. A node cut by the picture's bottom is split. -/
def Enc.quad (e : Enc) (k : Nat) (w : Work) (x y n : Nat) : Node :=
  let c := e.x.cfg
  let whole (_ : Unit) : Option Node := (e.choose w x y n).map fun t => t.node (e.bias x y n t.unit.cls)
  if c.codedLines ≤ y then { cost := 0, tree := .outside, work := w }
  else match k with
    | 0 => (whole ()).getD { cost := 0, tree := .outside, work := w }
    | j + 1 =>
      let sub (_ : Unit) : Node :=
        let h := n / 2
        let a := Enc.quad e j w x y h
        let b := Enc.quad e j a.work (x + h) y h
        let g := Enc.quad e j b.work x (y + h) h
        let d := Enc.quad e j g.work (x + h) (y + h) h
        let q := e.qpAt x y
        { cost := a.cost + b.cost + g.cost + d.cost + e.cost q 0 (e.bits w (.splitCu x y n true)), tree := .split a.tree b.tree g.tree d.tree, work := d.work }
      if c.codedLines < y + n then sub ()
      else match whole () with
        | none => sub ()
        | some v =>
          let skip := match v.tree with | .leaf u => decide (u.cls = 0) | _ => false
          if skip then v
          else
            let s := sub ()
            if v.cost ≤ s.cost then v else s

/-- Levels of the quadtree from the CTB down to MIN_CU. -/
def ChannelCfg.quadDepth (c : ChannelCfg) : Nat := Nat.log2 (c.ctbSize / (if c.minCu = 0 then 8 else 16))

/-- M1's decisions for the CTU or macroblock at a luma place, by trial (R78). -/
def Enc.decideCtu (e : Enc) (w : Work) (x y : Nat) : CuTree :=
  if e.x.cfg.codec = 0 then (e.quad e.x.cfg.quadDepth w x y e.x.cfg.ctbSize).tree
  else match e.choose w x y 16 with | some t => .leaf t.unit | none => .outside

/-! ## The forms of a floor band (R140) -/

/-- A floor unit: skip with merge index 0, P_Skip or B_Skip; of an I slice luma DC, chroma 4 or DC, no residual. -/
def Enc.floorUnit (e : Enc) (w : Work) (x y n : Nat) : CodedUnit :=
  let c := e.x.cfg
  let q := (e.pic.band e.b).qp
  if e.intraSlice then
    if c.codec = 1 then { x := x, y := y, size := n, cls := 3, form := 7, modes := [2], chromaModes := [0], qp := q, tree := .leaf (c.mbBlocks x y 16) }
    else { c.floorCu true x y n with qp := q }
  else { c.floorCu false x y n with parts := (Config.mergeCands e.f (e.motionCtx w) x y n n).headD [], qp := q }

/-- A CTU's or macroblock's tree in floor form: the CTB whole, or the units of the inferred split where the picture's bottom cuts it. -/
def Enc.floorForm (e : Enc) (k : Nat) (w : Work) (x y n : Nat) : CuTree × Work :=
  let c := e.x.cfg
  let leaf (_ : Unit) : CuTree × Work :=
    let u := e.floorUnit w x y n
    (.leaf u, { w with units := u :: w.units })
  if c.codedLines ≤ y then (.outside, w)
  else match k with
    | 0 => leaf ()
    | j + 1 =>
      if y + n ≤ c.codedLines then leaf ()
      else
        let h := n / 2
        let a := Enc.floorForm e j w x y h
        let b := Enc.floorForm e j a.2 (x + h) y h
        let g := Enc.floorForm e j b.2 x (y + h) h
        let d := Enc.floorForm e j g.2 (x + h) (y + h) h
        (.split a.1 b.1 g.1 d.1, d.2)

/-! ## X3: the final coding (R64, R85, R86) -/

/-- Codes a decided unit finally: prediction, transform, quantisation, reconstruction. An HEVC merge unit that is left without a level is skip. -/
def Enc.finalUnit (e : Enc) (z : Quant) (w : Work) (u : CodedUnit) : CodedUnit × Work :=
  let w1 := if u.cls = 3 then w else e.predictParts w u.parts
  let r := if u.cls = 0 then (u.tree, w1) else e.codeTree z u u.tree w1
  let u := { u with tree := r.1 }
  let u := if e.x.cfg.codec = 0 ∧ u.cls = 1 ∧ u.tree.blocks.any TBlock.coded = false then { u with cls := 0, form := 1, tree := .leaf [] } else u
  (u, { r.2 with units := u :: r.2.units })

/-- Codes a decided tree finally. -/
def Enc.finalTree (e : Enc) (z : Quant) (w : Work) (t : CuTree) : CuTree × Work :=
  match t with
  | .outside => (.outside, w)
  | .leaf u => let r := e.finalUnit z w u; (.leaf r.1, r.2)
  | .split a b c d =>
    let a := Enc.finalTree e z w a
    let b := Enc.finalTree e z a.2 b
    let c := Enc.finalTree e z b.2 c
    let d := Enc.finalTree e z c.2 d
    (.split a.1 b.1 c.1 d.1, d.2)

/-- The coded coefficient groups of a tree: 16 levels each. -/
def CuTree.groups (t : CuTree) : Nat :=
  ((t.units.flatMap fun u => u.tree.blocks).map fun b =>
    ((List.range ((b.levels.length + 15) / 16)).filter fun g => ((b.levels.drop (16 * g)).take 16).any fun l => decide (l ≠ 0)).length).sum

/-- The bin bound of a CTU (R138): 6 bits for each context-coded bin, 1 for each bypass bin, 7 for each terminating bin, 12 for each coded coefficient group,
of its syntax as decided by trial. F0 decides SAO after M1's evaluation, and the CTU counts without SAO parameters (DESIGN CHOICE, log 143). -/
def Enc.binBound (e : Enc) (w : Work) (x y : Nat) (t : CuTree) : Nat :=
  let n := Config.bins e.f (e.motionCtx w) { x := x, y := y, tree := t }
  6 * n.1 + n.2.1 + 7 * n.2.2 + 12 * t.groups

/-! ## What HOOK_CTU_COST observes (R241) -/

/-- The least J among trials of some classes. -/
def leastCost (l : List Trial) (cls : Nat) : Nat :=
  match cheapest (l.filter fun t => decide (t.unit.cls = cls)) with | some t => t.cost.toNat | none => 0

/-- The values 0–10 of R241 for the 16 × 16 block at a luma place: a value that the block does not have is 0 (DESIGN CHOICE, log 135). -/
def Enc.observe (e : Enc) (w : Work) (x y : Nat) : List Nat :=
  let l := e.candidates w x y 16
  let dec := (e.pic.refs0.flatMap fun q => ((e.decimated q x y).take 1).map fun v => e.decimSad q x y v.x v.y)
  let r := if e.intraSlice then none else e.searchList w 0 x y 16 16
  let modes := (List.range (if e.x.cfg.codec = 0 then 35 else 4)).filter (e.modeAllowed x 16)
  let satd (m : Nat) : Nat := satdOf 16 16 (e.source 0 x y 16 16) (e.intraOf w 0 x y 16 16 m)
  let mode := (firstLeast satd modes).getD 0
  [dec.foldl min (dec.headD 0)] ++ (match r with | some r => [r.intSad, r.satd, ofSigned 32 r.mv.1, ofSigned 32 r.mv.2] | none => [0, 0, 0, 0]) ++ [satd mode, mode] ++
    (List.range 4).map fun k => leastCost l k % 2 ^ 32

/-- The work before block `k` of a CTU as HOOK_CTU_COST sees it: the CTU's earlier blocks as M1 would choose them at 16 × 16. -/
def Enc.before (e : Enc) (w : Work) (places : List (Nat × Nat)) : Work :=
  places.foldl (fun w p => match e.choose w p.1 p.2 16 with | some t => (t.node 0).work | none => w) w

end Sys2Proof.Machine
end

