-- ==== Sys2Proof/Machine/EncFilter.lean ====
section
/-!
DEFINITION. F0 of the encode path (R64, R88): the deblocked samples, the SAO decision of a CTB, the samples that F0 writes, and what it counts of each block
(R175, R176).
-/
namespace Sys2Proof.Machine

/-- A sample before in-loop filtering. -/
def Pic.plainSample (y : Pic) (comp a b : Nat) : Nat := (SMap.get (fun _ => none) y.plain (sampleKey comp a b)).getD 0

/-- A deblocked sample of the picture, as the units and samples stand (R88). -/
def Enc.deblockedAt (e : Enc) (y : Pic) (comp a b : Nat) : Nat :=
  if e.x.cfg.deblock = 0 then y.plainSample comp a b else Config.deblocked e.f y.units (y.plainSample comp) comp a b

/-- SAO of a component. -/
def SaoParam.comp (p : SaoParam) (comp : Nat) : SaoComp := if comp = 0 then p.luma else if comp = 1 then p.cb else p.cr

/-- SAO of the CTB at a luma place of the picture, as decided so far. -/
def Pic.saoAt (y : Pic) (c : ChannelCfg) (a b : Nat) : SaoParam :=
  match y.sao.find? fun k => decide (k.x ≤ a) && decide (a < k.x + c.ctbSize) && decide (k.y ≤ b) && decide (b < k.y + c.ctbSize) with
  | some k => k.sao
  | none => {}

/-- A sample with given SAO parameters. -/
def Enc.saoSample (e : Enc) (y : Pic) (p : SaoComp) (comp a b : Nat) : Nat :=
  if p.kind = 0 then e.deblockedAt y comp a b else Config.saoSample e.f p (e.deblockedAt y comp) comp a b

/-- A sample as F0 writes it. -/
def Enc.filteredAt (e : Enc) (y : Pic) (comp a b : Nat) : Nat :=
  e.saoSample y ((y.saoAt e.x.cfg (a * e.x.cfg.divH comp) (b * e.x.cfg.divV comp)).comp comp) comp a b

/-! ## The SAO decision (R88) -/

/-- The distortion of a CTB's component with SAO parameters, against the source. -/
def Enc.saoDistortion (e : Enc) (y : Pic) (p : SaoComp) (comp x0 y0 h : Nat) : Nat :=
  let c := e.x.cfg
  let ax := x0 / c.divH comp
  let ay := y0 / c.divV comp
  let w := c.ctbSize / c.divH comp
  let h := h / c.divV comp
  sseOf (areaOf (y.sourceCoded c comp) ax ay w h) (areaOf (e.saoSample y p comp) ax ay w h)

/-- J of SAO parameters over a CTB of `h` lines, at the QP of its top-left group, over some components. -/
def Enc.saoCost (e : Enc) (y : Pic) (x0 y0 h : Nat) (comps : List Nat) (p : SaoParam) : Int :=
  let q := e.qpAt x0 y0
  let d (k : Nat) : Nat := if comps.contains k then e.saoDistortion y (p.comp k) k x0 y0 h else 0
  e.cost q (e.weighed q (d 0) (d 1) (d 2)) (Config.rate e.f e.ctx0 {} (.sao p (decide (e.x.cfg.ctbSize ≤ x0)) (decide (e.sliceTop + e.x.cfg.ctbSize ≤ y0))))

/-- SAO of a component by kind and class, with the offsets it is tried with. -/
def Enc.saoTry (e : Enc) (y : Pic) (comp x0 y0 h kind cls : Nat) : SaoComp :=
  let c := e.x.cfg
  let ax := x0 / c.divH comp
  let ay := y0 / c.divV comp
  let w := c.ctbSize / c.divH comp
  if kind = 0 then {}
  else { kind := kind, cls := cls, offsets := Config.saoOffsets e.f comp kind cls ((areaOf (y.sourceCoded c comp) ax ay w (h / c.divV comp)).zip (areaOf (e.deblockedAt y comp) ax ay w (h / c.divV comp))) }

/-- The kinds and classes in the order they are tried: none, the 32 positions of a band offset, the 4 classes of an edge offset. -/
def saoKinds : List (Nat × Nat) := [(0, 0)] ++ (List.range 32).map (fun k => (1, k)) ++ (List.range 4).map (fun k => (2, k))

/-- The SAO parameters of a CTB (R88): merge left and merge up first, then new ones, each component's by the lowest J; Cb and Cr share kind and class of edge
(DESIGN CHOICE, log 135). A neighbour in another slice is not merged with. -/
def Enc.saoFor (e : Enc) (y : Pic) (x0 y0 : Nat) : SaoParam :=
  let c := e.x.cfg
  let h := min c.ctbSize (c.codedLines - y0)
  let all := if c.chroma = 0 then [0] else [0, 1, 2]
  let left := if c.ctbSize ≤ x0 then [{ (y.saoAt c (x0 - c.ctbSize) y0) with merge := 1 }] else []
  let up := if e.sliceTop + c.ctbSize ≤ y0 then [{ (y.saoAt c x0 (y0 - c.ctbSize)) with merge := 2 }] else []
  let luma := (firstLeastI (fun (k : SaoComp) => e.saoCost y x0 y0 h [0] { luma := k }) (saoKinds.map fun k => e.saoTry y 0 x0 y0 h k.1 k.2)).getD {}
  let part (comp kind cls : Nat) : SaoComp :=
    let mk (k : SaoComp) : SaoParam := if comp = 1 then { cb := k } else { cr := k }
    if kind = 1 then (firstLeastI (fun (k : SaoComp) => e.saoCost y x0 y0 h [comp] (mk k)) ((List.range 32).map fun p => e.saoTry y comp x0 y0 h 1 p)).getD {}
    else e.saoTry y comp x0 y0 h kind cls
  let chroma : List SaoParam := ([(0, 0), (1, 0)] ++ (List.range 4).map (fun k => (2, k))).map fun (k : Nat × Nat) => { luma := luma, cb := part 1 k.1 k.2, cr := part 2 k.1 k.2 }
  let fresh := (firstLeastI (e.saoCost y x0 y0 h [1, 2]) chroma).getD {}
  (firstLeastI (e.saoCost y x0 y0 h all) (left ++ up ++ [fresh])).getD {}

/-! ## What F0 writes -/

/-- The first line that F0 writes with a CTU at line `y0` of its band: its filters reach the block above it, at the band's top edge three lines with
LOOP_ACROSS_BANDS = 1 (R88, R171). -/
def Enc.firstLine (e : Enc) (y0 : Nat) : Nat :=
  let top := e.x.cfg.bandTop e.b
  if top < y0 then y0 - 16 else if e.x.cfg.loopAcross = 1 ∧ 0 < top then top - 3 else top

/-- The reconstruction after a CTU: its samples and those beside and above it that its filters reach. -/
def Enc.rewrite (e : Enc) (y : Pic) (x0 y0 : Nat) : SMap Nat :=
  let c := e.x.cfg
  let h := min c.ctbSize (c.codedLines - y0)
  [0, 1, 2].foldl (fun m comp =>
    let a := (x0 - 16) / c.divH comp
    let z := (x0 + c.ctbSize) / c.divH comp
    let lo := (e.firstLine y0 + c.divV comp - 1) / c.divV comp
    let hi := (y0 + h) / c.divV comp
    writeBlock m comp a lo (z - a) (hi - lo) (areaOf (e.filteredAt y comp) a lo (z - a) (hi - lo))) y.rebuilt

/-- The 16 × 16 blocks that `rewrite` writes, by column and line; true where the block is the CTU's own. -/
def Enc.written (e : Enc) (x0 y0 : Nat) : List (Nat × Nat × Bool) :=
  let c := e.x.cfg
  let h := min c.ctbSize (c.codedLines - y0)
  let a := (x0 - 16) / 16
  let lo := e.firstLine y0 / 16
  let w := (x0 + c.ctbSize) / 16 - a
  (List.range (w * ((y0 + h) / 16 - lo))).map fun k =>
    let u := 16 * (a + k % w)
    let v := 16 * (lo + k / w)
    (u, v, decide (x0 ≤ u) && decide (y0 ≤ v))

/-! ## What F0 counts (R175, R176, R241) -/

/-- The motion of a picture's unit at a luma place, as R176 has it: list 0, else list 1. -/
def CodedUnit.histVector (u : CodedUnit) (a b : Nat) : Option (Int × Int) :=
  if u.cls = 3 then none
  else match u.motionAt a b with
    | some m => (match m.l0, m.l1 with | some v, _ => some (v.x, v.y) | none, some v => some (v.x, v.y) | none, none => none)
    | none => none

/-- The counts of a coded block enter its band and its picture (R175, R176). The blocks of a band that is abandoned later stay in the picture's motion
histogram and its BLOCKS (DESIGN CHOICE, log 125). -/
def Pic.countBlock (y : Pic) (b x0 y0 : Nat) : Pic :=
  let unit (k : Nat) : Option CodedUnit := y.units.find? fun u => u.covers (x0 + 8 * (k % 2) : Nat) (y0 + 8 * (k / 2) : Nat)
  let us := (List.range 4).filterMap unit
  let qp := match unit 0 with | some u => u.qp | none => 0
  let y := match (unit 0).bind fun u => u.histVector x0 y0 with
    | some v => { y with hist := SMap.modify (fun _ => 0) y.hist (mvCounter v) (satInc 16), histN := y.histN + 1 }
    | none => y
  y.modBand b fun u =>
    { u with skipUnits := u.skipUnits + (us.filter fun k => decide (k.cls = 0)).length, intraUnits := u.intraUnits + (us.filter fun k => decide (k.cls = 3)).length,
             qpLo := min u.qpLo qp, qpHi := max u.qpHi qp, qpSum := u.qpSum + qp, qpUnits := u.qpUnits + 1 }

/-- What HOOK_STATS sees of a block (R240, R241): SSE of Y, Cb, Cr, the sum of s, its QP, its class. -/
def Pic.blockStats (y : Pic) (c : ChannelCfg) (b x0 y0 : Nat) : List Nat :=
  let cy := y0 / c.subV
  let u := y.units.find? fun u => u.covers (x0 : Nat) (y0 : Nat)
  [y.sse c.lines 0 x0 y0 16 16, y.sse (c.lines / c.subV) 1 (x0 / c.subH) cy (16 / c.subH) (16 / c.subV),
   y.sse (c.lines / c.subV) 2 (x0 / c.subH) cy (16 / c.subH) (16 / c.subV), ofSigned 32 (y.indices c b x0 y0).sum,
   ofSigned 32 (match u with | some u => u.qp | none => 0), match u with | some u => u.cls | none => 0]

end Sys2Proof.Machine
end

