-- ==== Sys2Proof/Machine/EncSlice.lean ====
section
/-!
DEFINITION. The stitches of a tambour on an encode band (R64–R66): its pre-analysis, the decision of a CTU with the band cap guard (R138), F0, E0 with WPP and
dependent segments (R89), and E0's words in the spout (R342, R343).
-/
namespace Sys2Proof.Machine

/-! ## Hooks -/

/-- A hook of the tambour is enabled for band `i` (R240): an open image is loaded and its mask names it; the band is coded by an
encode channel; PRE_BAND and CTU_COST are not called where the floor form is coded. -/
def State.hookOn (s : State) (t : Nat) (i : BandId) (h : Nat) : Bool :=
  let p := s.store t
  let u := s.band i
  decide (p.oState = 2) && bitAt p.hookMask h && !(s.channel i.ch).decode && !(decide (h = 0) && u.floor) && !(decide (h = 1) && (u.floor || u.guard))

/-- A hook call that band `i` on tambour `t` must have made by now has not returned (R240): PRE_BAND before the first block, CTU_COST before M1 chooses,
STATS of each block that F0 has written. The stitches wait for it, so that the bits depend on no moment at which a word executes (R19). -/
def State.hooksDue (s : State) (t : Nat) (i : BandId) : Bool :=
  let q := (s.tamb t).seqr
  let z := (s.tamb t).coder
  q.hook.isSome || (s.hookOn t i 0 && decide (q.pre = [])) || (s.hookOn t i 3 && decide (z.statsN < z.stats.length)) ||
    (match z.mode with | some k => s.hookOn t i 1 && (SMap.get (fun _ => none) q.cost k).isNone | none => false)

/-- The band's slice is in the spout and its last hook, POST_BAND, has returned (R55, R240). -/
def State.bandOver (s : State) (t : Nat) (i : BandId) : Bool :=
  (s.tamb t).coder.ended && !s.hooksDue t i && (!s.hookOn t i 2 || (s.tamb t).coder.postDone)

/-- U56–U60 that act on block `k` (R242): as HOOK_CTU_COST returned them for it when it is enabled, else as HOOK_PRE_BAND did. -/
def Sequencer.results (q : Sequencer) (ctuCost : Bool) (k : Nat) : List Int :=
  let own := if ctuCost then SMap.get (fun _ => none) q.cost k else none
  (List.range 5).map fun j => sreg ((own.getD q.pre).getD j 0)

/-! ## What the decisions read -/

/-- What the decisions of band `i` on tambour `t` read. -/
def State.enc (s : State) (t : Nat) (i : BandId) : Enc :=
  { x := s.channel i.ch, p := i.pic, b := i.b, f := (s.channel i.ch).codeFmt i.pic i.b, ctx0 := (s.tamb t).coder.ctx0,
    hooks := fun k => (s.tamb t).seqr.results (s.hookOn t i 1) k }

/-- The picture as it has been coded so far. -/
def Pic.work (y : Pic) : Work := { plane := y.plain, units := y.units }

/-- The CTU of block `k` of band `b`: its luma place. -/
def ChannelCfg.ctuPlace (c : ChannelCfg) (b k : Nat) : Nat × Nat :=
  let pos := c.blockAt b k
  (16 * pos.col / c.ctbSize * c.ctbSize, c.bandTop b + 16 * pos.row / c.ctbSize * c.ctbSize)

/-- The luma place of block `k` of band `b`. -/
def ChannelCfg.blockPlace (c : ChannelCfg) (b k : Nat) : Nat × Nat := (16 * (c.blockAt b k).col, c.bandTop b + 16 * (c.blockAt b k).row)

/-- The search values that HOOK_CTU_COST observes of the block in M1 (R241). -/
def State.observed (s : State) (t : Nat) (i : BandId) : List Nat :=
  let e := s.enc t i
  let c := e.x.cfg
  let k := (s.tamb t).coder.mode.getD 0
  let own := c.ctuPlace i.b k
  let earlier := ((List.range k).filter fun j => decide (c.ctuPlace i.b j = own)).map (c.blockPlace i.b)
  let at_ := c.blockPlace i.b k
  e.observe (e.before e.pic.work earlier) at_.1 at_.2

/-! ## E0 (R89, R342, R343) -/

/-- Changes the coder of tambour `t`. -/
def State.modCoder (s : State) (t : Nat) (f : Coder → Coder) : State := s.modTamb t fun x => { x with coder := f x.coder }

/-- The bytes that the slice segment NAL unit of a band may take: f(b) of a floor band, cap of another (R139, R141). -/
def Channel.sliceLimit (x : Channel) (p b : Nat) : Nat :=
  if ((x.pic p).band b).floor then x.floorCost p b / 8 else (x.cap p b / 8).toNat

/-- E0 writes bytes of the slice segment NAL unit of band `i`, within the bound of R139 (log 136). -/
def State.e0Write (s : State) (t : Nat) (i : BandId) (bs : List Nat) (last : Bool) : State :=
  let bs := bs.take ((s.channel i.ch).sliceLimit i.pic i.b - (s.band i).bytes)
  (s.modCoder t fun z => { z with queue := z.queue ++ bs, closes := z.closes || last }).modBand i fun u => { u with bytes := u.bytes + bs.length }

/-- The NAL header and the slice segment header of a band (R98, R107). -/
def Channel.sliceStart (x : Channel) (p b : Nat) (rows : List Nat) : List Nat :=
  let u := (x.pic p).band b
  x.sliceNal p ++ preventEmulation 0 (x.headerOut p b u.qp u.floor rows)

/-- E0 writes slice data, emulation prevention bytes with it. Where the header waits for the rows' sizes, the data waits with it. -/
def State.e0Data (s : State) (t : Nat) (i : BandId) (bs : List Nat) (rowEnd last : Bool) : State :=
  let x := s.channel i.ch
  let z := (s.tamb t).coder
  let bs := preventEmulation z.zeros bs
  let s := s.modCoder t fun z => { z with zeros := trailingZeros z.zeros bs }
  if x.cfg.holdsRows i.b then
    let rows := z.rows.dropLast ++ [z.rows.getLast?.getD [] ++ bs]
    if last then (s.modCoder t fun z => { z with rows := [] }).e0Write t i (x.sliceStart i.pic i.b (rows.map List.length) ++ rows.flatten) true
    else s.modCoder t fun z => { z with rows := if rowEnd then rows ++ [[]] else rows }
  else s.e0Write t i bs last

/-- E0 codes a CTU (R64, R89); of a floor band without the motion that its CUs derive (R140). -/
def State.e0Ctu (s : State) (t : Nat) (i : BandId) (code : CtuCode) (last : Bool) : State :=
  let x := s.channel i.ch
  let z := (s.tamb t).coder
  let floor := (s.band i).floor && decide (x.cfg.codec = 0)
  let m := if floor then x.floorCtx i.pic i.b else (s.enc t i).motionCtx (x.pic i.pic).work
  let code := if floor then ((x.floorCtus i.pic i.b).find? fun k => decide (k.x = code.x) && decide (k.y = code.y)).getD code else code
  let r := x.cfg.codeCtu (x.codeFmt i.pic i.b) m i.b { ctx := z.ctx, ctxWpp := z.ctxWpp } code last
  let s := s.modCoder t fun z => { z with ctx := r.1.ctx, ctxWpp := r.1.ctxWpp }
  s.e0Data t i r.2.1 r.2.2 last

/-- The bytes that the spout can take now go into it (R342); the slice has ended with its last word. -/
def State.pour (s : State) (t : Nat) (i : BandId) : State :=
  let z := (s.tamb t).coder
  let free := (s.spout t).free
  let now := z.queue.take (64 * free - z.part.length)
  let rest := z.queue.drop (64 * free - z.part.length)
  if free = 0 ∨ (z.queue = [] ∧ z.closes = false) then s
  else
    let last := z.closes && decide (rest = [])
    let first := decide ((s.band i).bytes = z.part.length + z.queue.length)
    let r := packWords (now.length / 64 + 2) (s.spout t) i first last (z.part ++ now)
    (s.modSpout t fun _ => r.1).modCoder t fun z => { z with queue := rest, part := r.2, closes := z.closes && !last, ended := z.ended || last }

/-! ## Pre-analysis (R66) -/

/-- Pre-analysis of an encode band (R66, R136, R137): its QP, whether it is in floor mode, and the slice segment header; the context states are the slice's first,
or those of the band before it in a dependent segment (R89). -/
def State.startSlice (s : State) (t : Nat) (i : BandId) : State :=
  let s := s.measureInput i
  let a := (s.channel i.ch).preAnalysis i.pic i.b
  let s := if a.floor && (s.channel i.ch).breaksRefresh i.pic then s.modChannel i.ch fun x => { x with refreshBroken := true } else s
  let s := s.modPic i.ch i.pic fun y => { y with floorState := y.floorState || a.enters }
  let s := s.modBand i fun u => { u with qp := a.qp, floor := a.floor }
  let x := s.channel i.ch
  let dep := decide (x.cfg.codec = 0) && decide (x.cfg.depSeg = 1) && decide (0 < i.b) && !a.floor
  let ctx := if dep then x.segCtx else Config.ctxInit (x.codeFmt i.pic i.b)
  let s := s.modCoder t fun _ => { search := some 0, ctx0 := ctx, ctx := ctx, ctxWpp := ctx }
  if x.cfg.holdsRows i.b then s else s.e0Write t i (x.sliceStart i.pic i.b []) false

/-! ## The decision of a CTU (R64, R77–R86, R138) -/

/-- The guard trips (R138, R142): the picture enters floor state. -/
def State.tripGuard (s : State) (i : BandId) : State :=
  let s := if (s.channel i.ch).breaksRefresh i.pic then s.modChannel i.ch fun x => { x with refreshBroken := true } else s
  (s.modPic i.ch i.pic fun y => { y with floorState := true, guardBand := if y.guardBand = 0xFF then i.b else y.guardBand }).modBand i
    fun u => { u with guard := true }

/-- Bytes of the band's NAL unit that E0 has written (R138); where the header waits, the header and the rows so far. -/
def State.emitted (s : State) (t : Nat) (i : BandId) : Nat :=
  let x := s.channel i.ch
  if x.cfg.holdsRows i.b then
    nalBytes x.cfg.codec + x.headerBytes i.pic i.b (s.band i).qp (s.band i).floor + ((s.tamb t).coder.rows.map List.length).sum
  else (s.band i).bytes

/-- M1 decides the CTU whose last block is block `k`, and X3 codes it (R64, R78); in a floor band, and from the CTU on at which the guard trips, it takes the floor
form (R138, R140). -/
def State.decideCtu (s : State) (t : Nat) (i : BandId) (k : Nat) : State :=
  let e := s.enc t i
  let c := e.x.cfg
  let u := s.band i
  let pos := c.blockAt i.b k
  let at_ := c.ctuPlace i.b k
  let own := if at_.2 + c.ctbSize ≤ c.codedLines then 1 else cutUnits c.ctbSize (c.codedLines - at_.2)
  let g := (floorRates c.codec e.intraSlice).2.2
  let was := u.floor || u.guard
  let tree := e.decideCtu e.pic.work at_.1 at_.2
  let bound := e.binBound e.pic.work at_.1 at_.2 tree
  let flight := ((s.tamb t).coder.ctus.map CtuDue.bound).sum
  let trips := !was && e.x.guardTrips i.pic i.b (s.emitted t i) (flight + bound) (c.floorUnits i.b - pos.units)
  let s := if trips then s.tripGuard i else s
  let e := s.enc t i
  let floor := was || trips
  let r := if floor then e.finalTree .none e.pic.work (e.floorForm 3 e.pic.work at_.1 at_.2 c.ctbSize).1 else e.finalTree .final e.pic.work tree
  let due : CtuDue := { code := { x := at_.1, y := at_.2, tree := r.1 }, last := decide (k + 1 = c.bandBlocks i.b), bound := if floor then g * own else bound, floor := floor }
  (s.modPic i.ch i.pic fun y => { y with plain := r.2.plane, units := r.2.units }).modCoder t fun z => { z with ctus := z.ctus ++ [due] }

/-! ## F0 (R88, R171–R176, R440) -/

/-- F0 filters and writes a CTU and the samples its filters reach, with their ledger terms; answers its SAO parameters with it. A CTU in floor form takes no
SAO (R140). -/
def State.f0Ctu (s : State) (t : Nat) (i : BandId) (d : CtuDue) : State × CtuCode :=
  let e := s.enc t i
  let c := e.x.cfg
  let sao := if c.codec = 0 ∧ c.sao = 1 ∧ d.floor = false then e.saoFor e.pic d.code.x d.code.y else {}
  let code := { d.code with sao := sao }
  let s := s.modPic i.ch i.pic fun y => { y with sao := { code with tree := .outside } :: y.sao }
  let e := s.enc t i
  let old := e.pic.rebuilt
  let new := e.rewrite e.pic code.x code.y
  let s := s.modPic i.ch i.pic fun y => { y with rebuilt := new }
  let s := (e.written code.x code.y).foldl (fun (s : State) b => s.ledgerBlock i.ch e.pic.slot c (if b.2.2 then none else some old) new b.1 b.2.1) s
  (s, code)

/-- F0 counts and measures a block of a CTU that it has written (R175, R176, R241). -/
def State.f0Block (s : State) (t : Nat) (i : BandId) (k : Nat) : State :=
  let c := (s.channel i.ch).cfg
  let at_ := c.blockPlace i.b k
  let s := s.modPic i.ch i.pic fun y => y.countBlock i.b at_.1 at_.2
  let st := ((s.channel i.ch).pic i.pic).blockStats c i.b at_.1 at_.2
  s.modTamb t fun x => { x with blocks := k + 1, coder := { x.coder with stats := x.coder.stats ++ [st] } }

/-- The CTU whose last block `k` is in F0 and E0 is filtered, measured, and written (R64). -/
def State.writeCtu (s : State) (t : Nat) (i : BandId) (k : Nat) : State :=
  match (s.tamb t).coder.ctus with
  | [] => s
  | d :: rest =>
    let done := (s.tamb t).blocks
    let r := (s.modCoder t fun z => { z with ctus := rest }).f0Ctu t i d
    ((List.range (k + 1 - done)).foldl (fun s j => s.f0Block t i (done + j)) r.1).e0Ctu t i r.2 d.last

/-! ## A slot (R65) -/

/-- The stitches finish their blocks and pass them on (R65): a CTU is written and decided with its last block. -/
def State.pipeline (s : State) (t : Nat) (i : BandId) : State :=
  let c := (s.channel i.ch).cfg
  let z := (s.tamb t).coder
  let s := match z.out with | some k => if (c.blockAt i.b k).ctuEnd then s.writeCtu t i k else s | none => s
  let s := match z.mode with | some k => if (c.blockAt i.b k).ctuEnd then s.decideCtu t i k else s | none => s
  s.modCoder t fun y =>
    { y with out := z.mode, mode := z.search, search := match z.search with | some k => if k + 1 < c.bandBlocks i.b then some (k + 1) else none | none => none }

/-- A slot of an encode band: a tambour whose E0 waits for the spout stalls (R65, R342), and one waits for a hook that is due (R240). -/
def State.encodeSlot (s : State) (t : Nat) (i : BandId) : State :=
  let s := s.pour t i
  let z := (s.tamb t).coder
  if z.queue ≠ [] ∨ z.closes = true ∨ z.ended = true ∨ s.hooksDue t i = true then s else (s.pipeline t i).pour t i

end Sys2Proof.Machine
end

