-- ==== Sys2Proof/Machine/Microcode.lean ====
section
/-!
DEFINITION. The sequencer of a tambour (R229–R246): fields of a microword, conditions, the operations of MOVE and LOOP, hook calls and
what they see, and the restrictions of the open region.
-/
namespace Sys2Proof.Machine

/-- Where the open region begins (R229). -/
abbrev openBase : Nat := 0x1800

/-- The trap word (R246): HOP 2, every other field 0. -/
def trapWord : Nat := 2 * 2 ^ 184

/-- What an unlisted word of a pricking store is: zeros in the vendor region, the trap word in the open region. -/
def storeDefault (a : Nat) : Nat := if a < openBase then 0 else trapWord

/-- The word at address `a` of a store. -/
def Store.word (p : Store) (a : Nat) : Nat := SMap.get storeDefault p.words a

/-- Fields of a microword (R230). -/
def mwNext (w : Nat) : Nat := bitsAt w 0 13
def mwAlt (w : Nat) : Nat := bitsAt w 13 13
def mwCond (w : Nat) : Nat := bitsAt w 26 6
def mwCyc (w : Nat) : Nat := bitsAt w 32 3
def mwWaitc (w : Nat) : Bool := bitAt w 35
def mwEvt (w : Nat) : Nat := bitsAt w 36 4
def mwMoveOp (w : Nat) : Nat := bitsAt w 160 4
def mwMoveA (w : Nat) : Nat := bitsAt w 164 6
def mwMoveB (w : Nat) : Nat := bitsAt w 170 6
def mwLoopSel (w : Nat) : Nat := bitsAt w 176 2
def mwLoopOp (w : Nat) : Nat := bitsAt w 178 2
def mwLoopImm (w : Nat) : Nat := bitsAt w 180 4
def mwHop (w : Nat) : Nat := bitsAt w 184 4
def mwHid (w : Nat) : Nat := bitsAt w 188 2

/-- Register U[k]. -/
def Sequencer.reg (q : Sequencer) (k : Nat) : Nat := SMap.get (fun _ => 0) q.u k

/-- Register U[k] as a word of a region reads it (R245): open code reads vendor registers as 0. -/
def Sequencer.read (q : Sequencer) (opened : Bool) (k : Nat) : Nat := if opened && (decide (k < 40) || decide (60 < k)) then 0 else q.reg k

/-- Writes U[k], cut to 32 bits; open code writes U44–U60 alone (R245). -/
def Sequencer.write (q : Sequencer) (opened : Bool) (k v : Nat) : Sequencer :=
  if opened && (decide (k < 44) || decide (60 < k)) then q else { q with u := SMap.set (fun _ => 0) q.u k (v % 2 ^ 32) }

/-- Loop counter LC[k]. -/
def Sequencer.loop (q : Sequencer) (k : Nat) : Nat := SMap.get (fun _ => 0) q.lc k

/-- Sets the flags. -/
def Sequencer.flags (q : Sequencer) (z n c : Bool) : Sequencer := { q with z := z, n := n, c := c }

/-- Words of a tambour's local store (R28): 512 KiB. -/
abbrev lstoreWords : Nat := 131072

/-- Loads a word of the local store (R234, R235). -/
def Sequencer.load (q : Sequencer) (opened : Bool) (a : Nat) : Nat :=
  if opened then (if a < 1024 then SMap.get (fun _ => 0) q.lopen a else 0) else SMap.get (fun _ => 0) q.lstore (a % lstoreWords)

/-- Stores a word of the local store (R234, R235). -/
def Sequencer.save (q : Sequencer) (opened : Bool) (a v : Nat) : Sequencer :=
  if opened then (if a < 1024 then { q with lopen := SMap.set (fun _ => 0) q.lopen a v } else q)
  else { q with lstore := SMap.set (fun _ => 0) q.lstore (a % lstoreWords) v }

/-- The MOVE operation of a word (R234); `obs` is the observe value B, `xfer` the value of a vendor transfer. -/
def Sequencer.move (q : Sequencer) (opened : Bool) (w obs xfer : Nat) : Sequencer :=
  let a := mwMoveA w
  let b := mwMoveB w
  let ua := q.read opened a
  let ub := q.read opened b
  let imm := ofSigned 32 (toSigned 6 b)
  let arith (r : Nat) (carry : Bool) : Sequencer := (q.write opened a r).flags (decide (r % 2 ^ 32 = 0)) (bitAt r 31) carry
  match mwMoveOp w with
  | 1 => q.write opened a ub
  | 2 => arith (ua + ub) (decide (2 ^ 32 ≤ ua + ub))
  | 3 => arith (2 ^ 32 + ua - ub) (decide (ua < ub))
  | 4 => q.write opened a (ofSigned 32 (sreg ua / 2 ^ (b % 32)))
  | 5 => q.write opened a (ua * 2 ^ (b % 32))
  | 6 => q.write opened a (if sreg ua ≤ sreg ub then ua else ub)
  | 7 => q.write opened a (if sreg ua ≤ sreg ub then ub else ua)
  | 8 => q.write opened a obs
  | 9 => q.write opened a (q.load opened ub)
  | 10 => q.save opened ub ua
  | 11 => q.write opened a imm
  | 12 => arith (ua + imm) (decide (2 ^ 32 ≤ ua + imm))
  | 13 => q.flags (decide (ua = ub)) (decide (sreg ua < sreg ub)) (decide (ua < ub))
  | 14 => let r := ua &&& ub
          { q.write opened a r with z := decide (r = 0), n := bitAt r 31 }
  | 15 => if opened then q else q.write opened a xfer
  | _ => q

/-- The LOOP operation (R236); open code leaves LC0 and LC1 alone (R245). -/
def Sequencer.loopOp (q : Sequencer) (opened : Bool) (w : Nat) : Sequencer :=
  let k := mwLoopSel w
  let put (v : Nat) : Sequencer := { q with lc := SMap.set (fun _ => 0) q.lc k v }
  if opened && decide (k < 2) then q
  else match mwLoopOp w with
    | 1 => put (q.loop k - 1)
    | 2 => put (q.read opened (mwMoveA w) % 2 ^ 16)
    | 3 => put (mwLoopImm w + 1)
    | _ => q

/-- USER0–USER3 add 1 to U48–U51 (R237). -/
def Sequencer.event (q : Sequencer) (w : Nat) : Sequencer :=
  if 12 ≤ mwEvt w then q.write false (48 + (mwEvt w - 12)) (q.reg (48 + (mwEvt w - 12)) + 1) else q

/-! ## Conditions and observe values -/

/-- The conditions that are functions of the picture, the band and the block (R233, 14–31); `k` is the current block. -/
def Channel.bandCond (x : Channel) (i : BandId) (k n : Nat) : Bool :=
  let c := x.cfg
  let y := x.pic i.pic
  let u := y.band i.b
  let pos := c.blockAt i.b k
  match n with
  | 14 => decide (i.b = 0)
  | 15 => decide (i.b + 1 = c.bandCount)
  | 16 => pos.ctuEnd
  | 17 => decide (k + 1 = c.bandBlocks i.b)
  | 18 => decide (y.ptype = 1)
  | 19 => decide (y.ptype = 1) || decide (y.ptype = 2)
  | 20 => decide (y.ptype = 3)
  | 21 => decide (y.ptype = 4)
  | 22 => decide (c.codec = 1)
  | 23 => c.fields
  | 24 => u.floor || u.guard
  | 25 => decide (c.cuQpDelta = 1)
  | 26 => decide (pos.col = 0)
  | 27 => decide (pos.col + 1 = c.width / 16)
  | 28 => decide (c.lines < c.bandTop i.b + 16 * pos.row + 16)
  | 29 => decide (c.chroma = 1)
  | 30 => decide (c.chroma = 2)
  | 31 => decide (c.chroma = 3)
  | _ => false

/-- The condition selected by COND (R233). -/
def Sequencer.cond (q : Sequencer) (n : Nat) (band : Nat → Bool) (machine : List Nat) : Bool :=
  match n with
  | 0 => false
  | 1 => q.z
  | 2 => q.n
  | 3 => q.c
  | 4 => !q.z
  | 5 => !q.n
  | 6 => decide (q.loop 0 = 0)
  | 7 => decide (q.loop 1 = 0)
  | 8 => decide (q.loop 2 = 0)
  | 9 => decide (q.loop 3 = 0)
  | 10 => decide (q.loop 0 ≠ 0)
  | 11 => decide (q.loop 1 ≠ 0)
  | 12 => decide (q.loop 2 ≠ 0)
  | 13 => decide (q.loop 3 ≠ 0)
  | _ => if n < 32 then band n else if n < 48 then false else machine.contains n

/-- The current block of a word (R233): in HOOK_STATS the one that the call is for, in HOOK_POST_BAND the band's last one; elsewhere on an encode band the one in M1, on a
decode band the next one (DESIGN CHOICE, log 134). -/
def Tamb.currentBlock (x : Tamb) (decode : Bool) (hook : Nat) : Nat :=
  if hook = 3 then x.coder.statsN else if hook = 2 then x.blocks - 1 else if decode then x.blocks else x.coder.mode.getD 0

/-- v of R87 for a block. -/
def Pic.variance (y : Pic) (c : ChannelCfg) (u v : Nat) : Nat :=
  let ys := (List.range 256).map fun k => y.lumaCoded c (16 * u + k % 16) (16 * v + k / 16)
  (256 * (ys.map fun a => a * a).sum - ys.sum * ys.sum) / 256 / 256

/-- aq of R87 for a block. -/
def Pic.aqOf (y : Pic) (c : ChannelCfg) (b u v : Nat) : Int :=
  clip (((c.aqStrength : Int) * ((y.activity c u v : Int) - y.activityMean c b) + 4) / 8) (-6) 6

/-- Observe value `n` at a hook (R241): `hook` 0 PRE_BAND, 1 CTU_COST, 2 POST_BAND, 3 STATS. A value read at another hook is 0. -/
def State.observe (s : State) (tamb : Nat) (i : BandId) (hook n : Nat) : Nat :=
  let x := s.channel i.ch
  let t := s.tamb tamb
  let c := x.cfg
  let y := x.pic i.pic
  let band := decide (hook = 0) || decide (hook = 2)
  let a := x.preAnalysis i.pic i.b
  let pos := c.blockAt i.b (t.currentBlock x.decode hook)
  if n ≤ 10 then (if hook = 1 then (s.observed tamb i).getD n 0 % 2 ^ 32 else 0)
  else if n = 11 then (if hook = 1 ∨ hook = 3 then y.variance c pos.col (c.bandTop i.b / 16 + pos.row) else 0)
  else if 16 ≤ n ∧ n ≤ 19 then (if hook = 3 then (t.coder.stats.getD t.coder.statsN []).getD (n - 16) 0 else 0)
  else if n = 24 then (if band then (y.band i.b).cplx.getD 0 else 0)
  else if n = 25 then (if band then ofSigned 32 a.target else 0)
  else if n = 26 then (if band then ofSigned 32 (x.cap i.pic i.b) else 0)
  else if n = 27 then (if band then a.est % 2 ^ 32 else 0)
  else if n = 28 then y.plan.id
  else if n = 29 then i.pic % 2 ^ 32
  else if n = 30 then y.plan.budget
  else 0

/-! ## Hook calls (R240, R242, R244) -/

/-- The limit of a hook in tclk. -/
def hookLimit (h : Nat) : Nat := if h = 1 then 24 else if h = 3 then 16 else 96

/-- U40–U43 at a hook's entry (R240). -/
def State.hookInputs (s : State) (t : Nat) (i : BandId) (h : Nat) : List Nat :=
  let x := s.channel i.ch
  let y := x.pic i.pic
  let u := y.band i.b
  let z := s.tamb t
  let pos := x.cfg.blockAt i.b (z.currentBlock x.decode h)
  let qp := ofSigned 32 u.qp
  let where_ := pos.col + 2 ^ 16 * pos.row
  if h = 1 then [where_, i.b, qp, ofSigned 32 (y.aqOf x.cfg i.b pos.col (x.cfg.bandTop i.b / 16 + pos.row))]
  else if h = 3 then [where_, i.b, (z.coder.stats.getD z.coder.statsN []).getD 4 0, (z.coder.stats.getD z.coder.statsN []).getD 5 0]
  else [i.b + 256 * i.ch, y.ptype, qp, if h = 0 then (u.cplx.getD 0) % 2 ^ 32 else b2n (u.floor || u.guard)]

/-- Puts register values from U[k] on. -/
def Sequencer.putAll (q : Sequencer) (k : Nat) (vs : List Nat) : Sequencer :=
  match vs with
  | [] => q
  | v :: rest => Sequencer.putAll (q.write false k v) (k + 1) rest

/-- A hook is entered (R235, R240, R242): its inputs, scratch and flags cleared, the defaults of the results. -/
def Sequencer.enter (q : Sequencer) (h ret : Nat) (inputs : List Nat) : Sequencer :=
  let q := (q.putAll 40 inputs).putAll 52 [0, 0, 0, 0]
  let q := if h = 0 then q.putAll 56 [0, 0, 0, 0, 0] else if h = 1 then q.putAll 56 ((List.range 5).map fun k => q.pre.getD k 0) else q
  let q := (q.putAll 61 [0, 0, 0]).flags false false false
  { q with lc := SMap.keep (fun k => decide (k < 2)) q.lc, addr := openBase + h, ret := ret, hook := some { hook := h, left := hookLimit h } }

/-- A hook has returned (R232, R242): PRE_BAND's results are the band's, those of CTU_COST its block's, `block`. -/
def Sequencer.leave (q : Sequencer) (block : Nat) : Sequencer :=
  let now := (List.range 5).map fun j => q.reg (56 + j)
  let h := match q.hook with | some k => k.hook | none => 4
  { q with addr := q.ret, hook := none, held := false, pre := (if h = 0 then now else q.pre),
           cost := (if h = 1 then SMap.set (fun _ => none) q.cost block (some now) else q.cost) }

/-- A word or an overrun has taken the sequencer to `q`: a call of HOOK_STATS that has returned counts, and one of HOOK_POST_BAND is noted. -/
def Tamb.stepTo (x : Tamb) (q : Sequencer) : Tamb :=
  let ended (h : Nat) : Bool := (match x.seqr.hook with | some k => decide (k.hook = h) | none => false) && q.hook.isNone
  { x with seqr := q, coder := (if ended 3 then { x.coder with statsN := x.coder.statsN + 1 } else if ended 2 then { x.coder with postDone := true } else x.coder) }

/-- The sequencer at a band's start (R239, R235, R244): address 0, band accumulators 0, the window of the local store cleared, the
channel words in their registers. -/
def Sequencer.bandStart (q : Sequencer) (words : List Nat) : Sequencer :=
  (({ q.discard with running := true }.putAll 44 ((List.range 4).map fun k => words.getD k 0)).putAll 48 [0, 0, 0, 0])

/-- The count of a hook call after a word that took `n` tclk (R243). -/
def Sequencer.spend (q : Sequencer) (n : Nat) : Sequencer :=
  { q with hook := q.hook.map fun k => { k with left := k.left - n } }

/-- A hook call has used up its limit (R243). -/
def Sequencer.spent (q : Sequencer) : Bool := match q.hook with | some k => decide (k.left = 0) | none => false

/-- One word of tambour `t` executes (R231, R232): MOVE, LOOP and EVT take effect once; COND is sampled; the next address follows.
`free` is the value of a vendor transfer. In a call whose limit a word passes, the sequencer stays for the overrun. -/
def State.runWord (s : State) (t : Nat) (i : BandId) (view : SeqView) (free : Nat) : Sequencer :=
  let q := (s.tamb t).seqr
  let x := s.channel i.ch
  let opened := decide (openBase ≤ q.addr)
  let w := (s.store t).word q.addr
  let hookNo := match q.hook with | some k => k.hook | none => 4
  let left := match q.hook with | some k => k.left | none => 0
  let cost := if q.held then 1 else mwCyc w + 1
  let obs := s.observe t i hookNo (mwMoveB w)
  let r := if q.held then q else ((q.move opened w obs free).loopOp opened w).event w
  let ok := r.cond (mwCond w) (x.bandCond i ((s.tamb t).currentBlock x.decode hookNo)) view.machine
  let branch := if mwWaitc w then mwNext w else if ok then mwAlt w else mwNext w
  let r := r.spend cost
  if q.hook.isSome = true ∧ left < cost then r
  else if mwWaitc w = true ∧ ok = false then { r with held := true }
  else if opened = true ∧ mwHop w = 2 then r.leave ((s.tamb t).currentBlock x.decode hookNo)
  else if opened = false ∧ mwHop w = 1 ∧ s.hookOn t i (mwHid w) = true then
    { r with held := false }.enter (mwHid w) (if ok then mwAlt w else mwNext w) (s.hookInputs t i (mwHid w))
  else { r with addr := branch, held := false }

/-- MICROWORD_EXECUTE: while a band is in CODING on the tambour. A call whose limit is used up waits for HOOK_OVERRUN. -/
def State.microword (s : State) (t : Nat) (view : SeqView) : State :=
  let q := (s.tamb t).seqr
  match (s.tamb t).coding with
  | some i =>
    if q.running = false ∨ q.spent = true then s
    else if mwMoveOp ((s.store t).word q.addr) = 15 ∧ q.addr < openBase then
      let f := s.takeFree
      f.2.modTamb t fun x => x.stepTo (s.runWord t i view (f.1 % 2 ^ 32))
    else s.modTamb t fun x => x.stepTo (s.runWord t i view 0)
  | none => s

/-- MICROWORD_EXECUTE (R231). -/
def execMicrowordExecute (tambour : Nat) (view : SeqView) (s : State) : Host.Outcome State Fault Refusal :=
  if tambour < 8 then .next (s.microword tambour view) else .fault .noSuchUnit

/-- HOOK_OVERRUN (R243): a call whose count has reached its limit is returned, with every register as it stands. -/
def State.overrun (s : State) (t : Nat) : State :=
  let q := (s.tamb t).seqr
  match (s.tamb t).coding, q.hook with
  | some i, some k =>
    if k.left = 0 then
      ((s.modTamb t fun x => x.stepTo (q.leave (x.currentBlock (s.channel i.ch).decode k.hook))).count (Reg.prk + 0x100 * t + 0x10) 16 1).raise (Src.tambour + t) Kind.hookOverrun
        (addrP i.ch i.pic i.b) t
    else s
  | _, _ => s

/-- HOOK_OVERRUN. -/
def execHookOverrun (tambour : Nat) (s : State) : Host.Outcome State Fault Refusal :=
  if tambour < 8 then .next (s.overrun tambour) else .fault .noSuchUnit

end Sys2Proof.Machine
end

