-- ==== Sys2Proof/Machine/FaultColl.lean ====
section
/-!
DEFINITION. The fault collector (R481–R502, R560): acceptance of a message, reactions, the safe state, the log, injection.
-/
namespace Sys2Proof.Machine

/-- The log takes a message whose applied class is at least LOG_MIN (R494). -/
def State.logMessage (s : State) (m : FaultMsg) (cls : Nat) : State :=
  if s.field Reg.fltCfg 0 2 ≤ cls then { s with flt := s.flt.logWrite (m.entry cls) } else s

/-- The 64 bytes of a fault message's fallback record (R460), without PHASE, AFTER_LOSS and ESEQ. -/
def msgRecord (m : FaultMsg) (cls secondary merged : Nat) : Nat :=
  eventEntry m cls + 2 ^ 256 * packFields [(24, m.tick), (4, m.seq), (4, 0), (8, secondary), (8, merged)]

/-- The core whose fallback queue takes messages of kind `k` (R461): CORE0 for a kind that names none. -/
def kindCore (k : Nat) : Nat := match kindInfo k with | some i => i.core | none => 0

/-- The notices of a message of class 1, 2 or 3 (R486): interrupt source 3, 2 or 1, a fallback record, a host event. -/
def State.notify (s : State) (m : FaultMsg) (cls : Nat) : State :=
  (State.putFallback 5 (s.assertIrq (4 - cls)) (kindCore m.kind) (msgRecord m cls 0 0)).postEvent m cls

/-- The newest frame of port `p` is cut short. -/
def cutNewest (p : Nat) (l : List SentFrame) : List SentFrame :=
  match l with
  | [] => []
  | f :: rest => if f.port = p then { f with cut := true } :: rest else f :: cutNewest p rest

/-- Frames whose last bit would leave later than 96 ns from now are cut short (R490); a byte takes 0.08 ns, and 12 follow the frame. -/
def State.cutFrames (s : State) : State :=
  { s with net := { s.net with sent :=
      ((List.range 8).filter fun p => decide (100 * s.now + 9600 + 96 < (s.gate p).freeAt)).foldl (fun l p => cutNewest p l) s.net.sent } }

/-- The safe state (R490): gates closed, TIME_TOUT_EN cleared and the outputs idle, tambours halted, TWIN_YIELD_N and FAULT_N
asserted. The gates' masks are those of GAT_STATUS; no frame is picked while the device is safe. -/
def State.enterSafe (s : State) : State :=
  let s := { s with flt := { s.flt with safe := true }, faultN := true, yieldN := true,
                    time := { s.time with touts := s.time.touts.map fun (e : Nat × Tout) => (e.1, e.2.idled) } }
  (s.cutFrames.setReg Reg.timeToutEn 0).haltTambours

/-- A class 3 reaction's request (R492, R511, R536): with HOLD = 0 in RUNNING, the fault reaction source; in SELF_TEST the
device enters diagnostic hold; before READY and in diagnostic hold, none. -/
def State.requestReset (s : State) : State :=
  if s.rst.state = .running then (if s.field Reg.fltCfg 2 1 = 0 then s.assertSource 10 else s)
  else if s.rst.state = .selfTest then { s with rst := { s.rst with state := .diagHold } }
  else s

/-- The channel of a message can be stopped (R294, R502): it is ARMED, RUNNING or DRAINING. -/
def State.stoppable (s : State) (ch : Nat) : Bool := decide (ch < 128) && (s.channel ch).state.live

/-- The fallback record of REACTION_END (R460, R485, R489): its form, and so CHANNEL and PICTURE, are those of the first message; KIND, the
low byte, is REACTION_END. -/
def endRecord (r : Reaction) (tick timeNs : Nat) : Nat :=
  msgRecord { r.first with tick := tick, timeNs := timeNs } r.cls r.secondary (min r.merged 255) - r.first.kind % 2 ^ 8 + Kind.reactionEnd

/-- A class 2 reaction with every channel FAULTED ends (R488, R489): REACTION_END is logged and recorded for the core. -/
def State.endClass2 (s : State) : State :=
  match s.flt.reaction with
  | some r =>
    if r.cls = 2 ∧ r.channels = [] then
      let s := s.endReactionLog r
      State.putFallback 5 s (kindCore r.first.kind) (endRecord r (s.time.tick % 2 ^ 24) s.now)
    else s
  | none => s

/-- Puts a reaction in progress, and shows it in FLT_REACT. -/
def State.setReaction (s : State) (r : Reaction) : State :=
  { s with flt := { s.flt with reaction := some r }.showReaction r }

/-- A channel that a class 2 message names is taken in and stopped (R486, R560), when it can be. -/
def State.takeIn (s : State) (r : Reaction) (m : FaultMsg) : State :=
  let ch := msgChannel m
  if s.stoppable ch && !r.channels.any (fun e => e.1 = ch) then
    (s.setReaction { r with channels := r.channels ++ [(ch, m.kind)] }).streamStop ch
  else s.setReaction r

/-- The class a message is handled as (R486): a class 2 message that names no channel is handled as class 1. -/
def handledClass (cls : Nat) (m : FaultMsg) : Nat := if cls = 2 ∧ msgChannel m = 0xFF then 1 else cls

/-- Acceptance of a message (R486, R488, R489). -/
def State.accept (s : State) (m : FaultMsg) : State :=
  let cls := handledClass (s.kindClass m.kind) m
  let s := s.count (Reg.fltCnt + 4 * m.kind) 16 1
  if s.rst.state = .held ∨ s.rst.state = .releasing then
    -- A message that reaches the collector while a reset holds the blocks: counted; merged into the reaction that the reset
    -- ended, or logged.
    if 2 ≤ cls ∧ s.flt.mergeRst = true then
      { s with flt := { s.flt with lastMrg := min (s.flt.lastMrg + 1) 255, lastSec := if s.flt.lastSec = 0 then m.kind else s.flt.lastSec } }
    else s.logMessage m cls
  else if cls = 0 then s.logMessage m 0
  else if cls = 1 then (s.logMessage m 1).notify m 1
  else match s.flt.reaction with
    | none =>
      let s := (s.logMessage m cls).notify m cls
      if cls = 2 then (s.takeIn { first := m, cls := 2 } m).endClass2
      else ((s.setReaction { first := m, cls := 3 }).enterSafe).requestReset
    | some r =>
      if r.cls < cls then
        -- Escalation (R488).
        let s := { s with flt := s.flt.logWrite (m.entry cls) }
        (((s.notify m cls).setReaction { r with cls := 3 }).enterSafe).requestReset
      else
        let r := { r with merged := r.merged + 1, secondary := (if r.secondary = 0 then m.kind else r.secondary) }
        if cls = 2 then s.takeIn r m else s.setReaction r

/-- The message that the collector takes next (R483): the oldest on its way; of those that arrive with it, the one of the lowest source ID. -/
def nextMessage (l : List FaultMsg) : Option FaultMsg :=
  match l with
  | [] => none
  | x :: r => some (r.foldl (fun b m => if m.timeNs = x.timeNs ∧ m.source < b.source then m else b) x)

/-- The collector's clock is gated (R26). Outside RUNNING the power sequencer gates nothing: what a reset or diagnostic hold meets on its way is accepted. -/
def State.collectorSleeps (s : State) : Bool := decide (s.rst.state = .running) && s.asleep Src.collector

/-- FAULT_MESSAGE: the collector accepts a message (R483, R486). With no operand it is the next one on its way; with one,
a message that a block detects outside the modelled steps. While the collector is asleep the messages stay on their way (R26). A code that R485 does not list is not raised. -/
def execFaultMessage (m : Option RaisedMsg) (s : State) : Host.Outcome State Fault Refusal :=
  match m with
  | some r =>
    if (kindInfo r.kind.toNat).isSome then
      let t := s.raise r.source.toNat r.kind.toNat r.address.toNat r.detail.toNat
      match (if s.collectorSleeps then none else t.flt.inFlight.getLast?) with
      | some x => .next ({ t with flt := { t.flt with inFlight := t.flt.inFlight.dropLast } }.accept x)
      | none => .next t
    else .next s
  | none =>
    match (if s.collectorSleeps then none else nextMessage s.flt.inFlight) with
    | some x => .next ({ s with flt := { s.flt with inFlight := s.flt.inFlight.erase x } }.accept x)
    | none => .next s

/-- CH_FAULTED (R294, R486, R560): a channel that a reaction has taken in reaches FAULTED, with its event, and the reaction
ends when it was the last. Without such a channel nothing happens. -/
def State.channelFaulted (s : State) (c : Nat) : State :=
  match s.flt.reaction with
  | some r =>
    match r.channels.find? (fun e => e.1 = c) with
    | some e =>
      let s := s.setReaction { r with channels := r.channels.filter (fun e => e.1 ≠ c) }
      let s := s.modChannel c fun x => { x with state := .faulted, faultKind := e.2, stopNs := none }
      (s.raise (Src.tambour + (s.channel c).tambour) Kind.chFaulted (addrC c) e.2).endClass2
    | none => s
  | none => s

/-- CH_FAULTED (R560). -/
def execChFaulted (channel : Nat) (s : State) : Host.Outcome State Fault Refusal :=
  if channel < 128 then .next (s.channelFaulted channel) else .fault .noSuchUnit

/-- The source ID of an injected message (R499). -/
def injectSource (who : Requester) : Nat := match who with | .host => Src.hostInject | .core c => Src.firmware + c

/-- FLT_INJECT (R499): with the key and a kind of R485 other than REACTION_END, a message from the requester; otherwise
INJ_REJ. -/
def execFltInject (who : Requester) (kind : BitVec 8) (_cls : BitVec 2) (key : BitVec 16) (s : State) : Host.Outcome State Fault Refusal :=
  if key = 0x464C ∧ (kindInfo kind.toNat).isSome then .next (s.raise (injectSource who) kind.toNat 0 0)
  else .next (s.setBits Reg.fltStatus 0x20)

/-- FLT_LOG_CLR (R500): NEXT, TOTAL and every entry become 0. -/
def execFltLogClr (clr : Bool) (s : State) : Host.Outcome State Fault Refusal :=
  if clr then .next { s with flt := { s.flt with log := [], logNext := 0, logTotal := 0 } } else .next s

/-- The floor of a kind (R487): its default class when that is 2 or 3, else 0. -/
def kindFloor (i : KindInfo) : Nat := if 2 ≤ i.cls then i.cls else 0

/-- FLT_KIND_WRITE (R487, R501): a class at or above the floor applies; one below it has no effect and sets OVR_REJ. Codes
that R485 does not list, and REACTION_END, ignore writes. -/
def execFltKindWrite (kind : BitVec 8) (cls : BitVec 2) (s : State) : Host.Outcome State Fault Refusal :=
  match kindInfo kind.toNat with
  | some i =>
    if kindFloor i ≤ cls.toNat then
      .next { s with flt := { s.flt with classes := SMap.set kindDefault s.flt.classes kind.toNat cls.toNat } }
    else .next (s.setBits Reg.fltStatus 0x10)
  | none => .next s

end Sys2Proof.Machine
end

