-- ==== Sys2Proof/Machine/Power.lean ====
section
/-!
DEFINITION. The power sequencer's demand (R25, R26, R515, R516): which blocks have work, and the wake and sleep steps that follow at an AO
tick. Hoops and tambours follow the band schedule instead (BandEvents.lean).
-/
namespace Sys2Proof.Machine

/-- Some queue of type `ty` holds an entry. -/
def State.queued (s : State) (ty : QType) : Bool := s.queues.any fun (e : Nat × Queue) => e.2.valid && decide (e.2.ty = ty) && !e.2.isEmpty

/-- Some EFQ of a flow of port `n` holds an entry, or a frame passed through waits for one. -/
def State.portQueued (s : State) (n : Nat) : Bool :=
  (s.net.passWait.any fun e => decide ((s.eflow e.1).port = n)) || s.net.eflows.any fun (e : Nat × EFlow) => e.2.bound && decide (e.2.port = n) && !(s.queue (efqId e.1)).isEmpty

/-- A well has requests to take. -/
def WellSt.busy (w : WellSt) : Bool := !w.waiting.isEmpty || !w.freeWait.isEmpty || w.rebuild

/-- Core `c` has work: a source that it may claim, or one that it holds in service (R456, R457). -/
def State.coreBusy (s : State) (c : Nat) : Bool :=
  s.irq.any fun (e : Nat × IrqSrc) => (e.2.pending && !e.2.inService && e.2.claimRoute c) || (e.2.inService && decide (e.2.owner = c))

/-- The fclk blocks that run on demand, by source ID (R25, R482): fault collector, spouts' drain sides, gate schedulers, ingress writer, egress
reader, packetizer, depacketizer, cistern, cell well, page well, check units, interrupt controller, and the classifier at each port. -/
def fclkBlocks : List Nat :=
  [0x000] ++ (List.range 8).map (0x010 + ·) ++ (List.range 16).map (0x028 + ·) ++ [0x038, 0x039, 0x03A, 0x03B, 0x040, 0x041, 0x042] ++
    (List.range 16).map (0x070 + ·) ++ [0x088]

/-- The work queue of an fclk block is not empty (R26). The check units and the classifier have none: each of their commands is done in its own step
(`State.wakeBlock`; DESIGN CHOICE, log 145). -/
def State.fclkBusy (s : State) (id : Nat) : Bool :=
  let drains := (List.range 8).any fun n => !(s.spout n).closed.isEmpty
  if id = 0 then !s.flt.inFlight.isEmpty
  else if 0x010 ≤ id ∧ id < 0x018 then !(s.spout (id - 0x010)).closed.isEmpty
  else if 0x030 ≤ id ∧ id < 0x038 then s.portQueued (id - 0x030)
  else if id = 0x038 ∨ id = 0x03B then s.queued .ifq
  else if id = 0x039 then s.codec.channels.any fun (e : Nat × Channel) => !e.2.out.active.isEmpty
  else if id = 0x03A then drains
  else if id = 0x040 then s.queues.any (fun (e : Nat × Queue) => e.2.valid && !e.2.isEmpty)
  else if id = 0x041 then s.cellWell.busy
  else if id = 0x042 then s.pageWell.busy
  else if id = 0x088 then s.irq.any fun (e : Nat × IrqSrc) => e.2.pending
  else false

/-- A block has work (R26). -/
def State.powerBusy (s : State) (b : PwrBlock) : Bool :=
  match b with
  | .core c => s.coreBusy c
  | .corePll => decide (s.pwr.coreClk ≠ 0) || (List.range 4).any s.coreBusy
  | .pump n => (s.pump n).running.isSome || ((s.queue (16 + n)).valid && !(s.queue (16 + n)).isEmpty)
  | .fclkBlock id => s.fclkBusy id
  | .hbm => !s.hbm.reqs.isEmpty || !s.hbm.selfRefresh
  | _ => true

/-- The blocks that run on demand, each with its own clock. -/
def demandBlocks : List PwrBlock :=
  (List.range 4).map PwrBlock.core ++ [.corePll] ++ (List.range 16).map PwrBlock.pump ++ fclkBlocks.map PwrBlock.fclkBlock ++ [.hbm]

/-- The demand of one block at a tick (R26): a gated block with work asks for its wake, a clocked one without work for its sleep; work that
comes back withdraws a sleep that waits. -/
def State.demandPower (s : State) (b : PwrBlock) : State :=
  match s.powerBusy b, s.pwr.on b with
  | true, false => s.askPower b true (s.now + b.step.2)
  | true, true => s.keepAwake b
  | false, true => s.askPower b false s.now
  | false, false => s

/-- No band is named or in CODING on tambour `t`, and no bank is written back (R56). -/
def Tamb.idle (x : Tamb) : Bool :=
  x.coding.isNone && decide (x.namedBands = []) && decide (x.repairs = []) && decide (x.bankA.phase ≠ .writing) && decide (x.bankB.phase ≠ .writing)

/-- The next ready-window opening of channel `x` after τ `now` (R56): for an encode channel that is armed or runs, for the known access units
of a decode channel, and for the started pictures of a channel that drains. -/
def Channel.nextOpening (x : Channel) (now : Nat) : Option Nat :=
  let least (l : List Nat) : Option Nat := l.foldl (fun best v => match best with | none => some v | some b => some (min b v)) none
  let bands := List.range x.cfg.bandCount
  if x.state = .draining then
    least (((x.pics.filter fun (e : Nat × Pic) => e.2.started).flatMap fun (e : Nat × Pic) =>
      ((List.range (x.cfgOf e.1).bandCount).filter fun b => decide ((e.2.band b).state = .arriving)).map fun b => x.windowOpen e.1 b).filter fun v => decide (now < v))
  else if x.state ≠ .armed ∧ x.state ≠ .running then none
  else if x.decode then
    least ((x.pics.flatMap fun (e : Nat × Pic) => (List.range (x.cfgOf e.1).bandCount).map fun b => x.windowOpen e.1 b).filter fun v => decide (now < v))
  else
    let p := x.cfg.periodT
    let base := x.index0 * p + (if x.cfg.gop = 3 then x.cfg.nb * p else 0)
    least (bands.map fun b =>
      let o := x.cfg.deadlineAt base b - x.cfg.windowT
      if now < o then o else o + ((now - o) / p + 1) * p)

/-- The earliest opening among the channels of a hoop. -/
def State.hoopOpening (s : State) (h : Nat) : Option Nat :=
  (s.codec.channels.filterMap fun (e : Nat × Channel) => if e.2.tambour / 2 = h then e.2.nextOpening s.nowT else none).foldl
    (fun best v => match best with | none => some v | some b => some (min b v)) none

/-- PLL_OFF_MIN of a hoop in ns (R56, R60): the larger of its tambours' values; none when either is 0. -/
def State.pllOffMin (s : State) (h : Nat) : Option Nat :=
  let f (t : Nat) : Nat := s.field (Reg.tmb + 0x2000 * t + 0x0C) 8 8
  if f (2 * h) = 0 ∨ f (2 * h + 1) = 0 then none else some (1000 * max (f (2 * h)) (f (2 * h + 1)))

/-- A band of the channel may become READY now (R36): it is ARRIVING, its window is open, and its input deadline has not passed. -/
def Channel.expects (x : Channel) (now : Nat) : Bool :=
  let bands := List.range x.cfg.bandCount
  let open_ (p b : Nat) : Bool := decide (((x.pic p).band b).state = .arriving) && decide (x.windowOpen p b ≤ now) && decide (now ≤ x.inputDeadline p b)
  if x.state = .draining then x.pics.any fun (e : Nat × Pic) => e.2.started && (List.range (x.cfgOf e.1).bandCount).any (open_ e.1)
  else if x.state ≠ .running then false
  else if x.decode then x.pics.any fun (e : Nat × Pic) => (List.range (x.cfgOf e.1).bandCount).any (open_ e.1)
  else
    let p := x.cfg.periodT
    let base := x.index0 * p + (if x.cfg.gop = 3 then x.cfg.nb * p else 0)
    bands.any fun b =>
      let o := x.cfg.deadlineAt base b - x.cfg.windowT
      decide (o ≤ now) && open_ (x.picAt ((now - o) / p)) b

/-- Some channel that passes `f` may have a band READY now, or within the wake latency of a gated tambour (R36, R56). -/
def State.bandsComing (s : State) (f : Channel → Bool) : Bool :=
  s.codec.channels.any fun (e : Nat × Channel) =>
    f e.2 && (e.2.expects s.nowT || (match e.2.nextOpening s.nowT with | some v => decide (v ≤ s.nowT + 500 * tauNs) | none => false))

/-- A tambour with nothing to do gates its clock; a hoop whose tambours are both gated turns its PLL off when its next opening is far enough away
(R56). A tambour whose channels have a window open stays clocked, as a hoop is asleep only while no band of it can become ready (R36; DESIGN CHOICE,
log 142). -/
def State.sleep (s : State) (t : Nat) : State :=
  let h := t / 2
  let s := if bitAt s.pwr.tambClk.toNat t && (s.tamb t).idle && s.clocked t && !s.bandsComing (fun x => decide (x.tambour = t)) then
    s.askPower (.tambour t) false s.now else s
  let far := match s.pllOffMin h, s.hoopOpening h with
    | some m, some v => decide (s.nowT + m * tauNs ≤ v)
    | some _, none => true
    | none, _ => false
  if bitAt s.pwr.hoopPll.toNat h && !bitAt s.pwr.tambClk.toNat (2 * h) && !bitAt s.pwr.tambClk.toNat (2 * h + 1) && far &&
      !(s.pwr.queue.any fun r => r.wake && (decide (r.block = .tambour (2 * h)) || decide (r.block = .tambour (2 * h + 1)))) &&
      !s.bandsComing (fun x => decide (x.tambour / 2 = h)) then
    s.askPower (.hoop h) false s.now else s

/-- The power sequencer's demand at an AO tick, while the device runs: that of the blocks, and the tambours and hoops that have nothing to do. -/
def State.powerSweep (s : State) : State :=
  if s.rst.state = .running then (List.range 8).foldl State.sleep (demandBlocks.foldl State.demandPower s) else s

end Sys2Proof.Machine
end

