-- ==== Sys2Proof/Machine/Reset.lean ====
section
/-!
DEFINITION. The reset controller, self-test, block resets, watchdogs, and the fuse array (R503–R536).
-/
namespace Sys2Proof.Machine

/-! ## Reset sources (R503, R505, R506) -/

/-- A level source (a pin, the rails, the thermal trip) is asserted or released. -/
def State.levelSource (s : State) (i : Nat) (on : Bool) : State := if on then s.assertSource i else s.releaseSource i

/-- POR (R503): a rail leaves tolerance or XTAL_25M is lost, or all have been good for 2 ms. -/
def execPor (bad : Bool) (s : State) : Host.Outcome State Fault Refusal := .next (s.levelSource 0 bad)

/-- RST_N, after its filter (R506). -/
def execRstN (low : Bool) (s : State) : Host.Outcome State Fault Refusal := .next (s.levelSource 1 low)

/-- PERST_N, after its filter (R506). -/
def execPerstN (low : Bool) (s : State) : Host.Outcome State Fault Refusal := .next (s.levelSource 2 low)

/-- PCIE_HOT_RESET (R503): source 3 for 16 ticks. -/
def execPcieHotReset (s : State) : Host.Outcome State Fault Refusal := .next (s.assertSource 3)

/-- PCIE_LINK_DOWN (R503): source 4 for 16 ticks, unless source 2 or 3 took the link down. -/
def execPcieLinkDown (s : State) : Host.Outcome State Fault Refusal :=
  if s.rst.asserted &&& 0x000C = 0 then .next (s.assertSource 4) else .next s

/-- The software full reset source (R270, R300, R505). -/
def State.softReset (s : State) (level : Nat) : State := { s with rst := { s.rst with swLevel := level } }.assertSource 5

/-- DEV_RESET (R270): the key and a level of 1 or 2; any other write has no effect. -/
def execDevReset (level : BitVec 8) (key : BitVec 24) (s : State) : Host.Outcome State Fault Refusal :=
  if key = 0x525354 ∧ (level = 1 ∨ level = 2) then .next (s.softReset level.toNat) else .next s

/-- The watchdog of core `c` (R531). -/
def State.wdog (s : State) (c : Nat) : Wdog := SMap.get (fun _ => {}) s.rst.wdogs c

/-- The watchdog of core `c` stands at `w` (R531). -/
def State.setWdog (s : State) (c : Nat) (w : Wdog) : State := { s with rst := { s.rst with wdogs := SMap.set (fun _ => {}) s.rst.wdogs c w } }

/-- The count of watchdog `c` has come to `num`/2 of its period (R531): 25 ticks are a µs; a watchdog without a period does not count. -/
def State.wdogAt (s : State) (c num : Nat) : Bool :=
  decide ((s.wdog c).period ≠ 0) && decide (25 * num * (s.wdog c).period ≤ 2 * (s.time.tick - (s.wdog c).start))

/-- WDOG_EXPIRE (R503, R531): when the count has come to the full period, WDOG_EXPIRE is raised and source 6 + c asserted; the
watchdog is spent. While an episode is held, a watchdog that was running when the episode began still counts (R536). -/
def execWdogExpire (core : Nat) (s : State) : Host.Outcome State Fault Refusal :=
  if core < 4 then
    if s.wdogAt core 2 then .next (((s.setWdog core {}).raise (Src.firmware + core) Kind.wdogExpire 0 core).assertSource (6 + core))
    else .next s
  else .fault .noSuchUnit

/-- WATCHDOG_HALF (R531): when the count passes half the period, interrupt source 12 + c, once. -/
def execWatchdogHalf (core : Nat) (s : State) : Host.Outcome State Fault Refusal :=
  if core < 4 then
    if s.wdogAt core 1 && !(s.wdog core).half then .next ((s.setWdog core { s.wdog core with half := true }).assertIrq (12 + core))
    else .next s
  else .fault .noSuchUnit

/-- RST_WDOG_WRITE (R531): the period, 0 to disable the watchdog; every write restarts the count. -/
def execRstWdogWrite (core : Nat) (us : BitVec 24) (s : State) : Host.Outcome State Fault Refusal :=
  if core < 4 then .next ((s.setRegN (Reg.rstWdog + 4 * core) us.toNat).setWdog core { period := us.toNat, start := s.time.tick }) else .fault .noSuchUnit

/-- One field of a reset map after a write (R505): only a lower value is taken. -/
def mapField (old new : Nat) : Nat := if new < old then new else old

/-- RST_MAP_WRITE (R505, R526): each field deepens or stays; field 0 and the fields of sources 13–15 read 0. -/
def execRstMapWrite (hi : Bool) (v : Word) (s : State) : Host.Outcome State Fault Refusal :=
  let a := if hi then Reg.rstMap1 else Reg.rstMap0
  let n := packFields ((List.range 8).map fun i => (4, mapField (s.field a (4 * i) 4) (bitsAt v.toNat (4 * i) 4)))
  .next (s.setRegN a n)

/-! ## Option words (R512–R514) -/

/-- Copy `k` of option word `i`: 40 bits (R513). -/
def FuseSt.copy (f : FuseSt) (i k : Nat) : Nat := SMap.get (fun _ => 0) f.rows (128 * k + i)

/-- The data of a copy whose CRC-8 matches (R513). -/
def validCopy (c : Nat) : Option Nat := if crc8 (c % 2 ^ 32) 4 = c / 2 ^ 32 then some (c % 2 ^ 32) else none

/-- The value of an option word with all copies blank (R513); none where option load fails. -/
def optDefault (i : Nat) : Option Nat :=
  if i < 2 ∨ (4 ≤ i ∧ i ≤ 11) then none else if i = 2 then some 0x22211110 else if i = 3 then some 0x00021222 else some 0

/-- What option load takes for word `i` (R514): the value, and whether it came from a single copy; none where it fails. -/
def FuseSt.optWord (f : FuseSt) (i : Nat) : Option (Nat × Bool) :=
  if f.copy i 0 = 0 ∧ f.copy i 1 = 0 ∧ f.copy i 2 = 0 then (optDefault i).map (fun v => (v, false))
  else match validCopy (f.copy i 0), validCopy (f.copy i 1), validCopy (f.copy i 2) with
    | some a, some b, some c => if a = b ∨ a = c then some (a, false) else if b = c then some (b, false) else none
    | some a, some b, none => if a = b then some (a, false) else none
    | some a, none, some c => if a = c then some (a, false) else none
    | none, some b, some c => if b = c then some (b, false) else none
    | some a, none, none => some (a, true)
    | none, some b, none => some (b, true)
    | none, none, some c => some (c, true)
    | none, none, none => none

/-- Option load from word `i` on, `n` words (R514): the shadow, the words from a single copy, whether a customer key digest
is fused; or the word at which it fails, and the words loaded before it, which stay readable (R5, R6). -/
def FuseSt.load (f : FuseSt) (n i : Nat) (sh : SMap Nat) (single : Nat) (key : Bool) : (Nat × SMap Nat × Nat × Bool) ⊕ (SMap Nat × Nat × Bool) :=
  match n with
  | 0 => .inr (sh, single, key)
  | k + 1 =>
    match f.optWord i with
    | none => .inl (i, sh, single, key)
    | some (v, one) =>
      let blank := decide (f.copy i 0 = 0 ∧ f.copy i 1 = 0 ∧ f.copy i 2 = 0)
      FuseSt.load f k (i + 1) (SMap.set (fun _ => 0) sh i v) (single + b2n one) (key || (decide (12 ≤ i ∧ i ≤ 19) && !blank))

/-- The map that an option word gives the reset map register (R505, R526): fields that read 0 are cut. -/
def mapWord (hi : Bool) (v : Nat) : Nat := if hi then v % 2 ^ 20 else v / 16 * 16

/-- The whole option load of a level 0 release (R514). On failure OPTION_FAIL is raised with the step and the word. -/
def State.optionLoad (s : State) : State :=
  match s.fuse.load 128 0 [] 0 false with
  | .inr (sh, single, key) =>
    let s := { s with fuse := { s.fuse with shadow := sh, openKey := key, loaded := true, single := single, failWord := 0 } }
    ((s.setRegN Reg.rstMap0 (mapWord false (SMap.get (fun _ => 0) sh 2))).setRegN Reg.rstMap1 (mapWord true (SMap.get (fun _ => 0) sh 3))).loadMacs
  | .inl (i, sh, single, key) => { s with fuse := { s.fuse with shadow := sh, openKey := key, single := single, loaded := false, failWord := i } }.raise Src.fuse Kind.optionFail 0 (1 + 256 * i)

/-- FUSE_PROG_CMD is refused (R512): a word that may not be programmed, a wrong key, a valid copy with another value, a device
not in RUNNING, or a word being programmed. -/
def State.fuseRefused (s : State) (w key : Nat) : Bool :=
  !(decide (w = 2 ∨ w = 3 ∨ (12 ≤ w ∧ w ≤ 19))) || decide (key ≠ 0x4655) || decide (s.rst.state ≠ .running) || s.fuse.inPulse ||
    [0, 1, 2].any (fun k => match validCopy (s.fuse.copy w k) with | some v => decide (v ≠ s.regN Reg.fuseProgData) | none => false)

/-- FUSE_PROG_CMD (R512, R535): each blank copy is written in a pulse of its own; the first pulse begins. -/
def execFuseProgCmd (word : BitVec 7) (key : BitVec 16) (s : State) : Host.Outcome State Fault Refusal :=
  let w := word.toNat
  if s.fuseRefused w key.toNat then .next (s.setBits Reg.fuseStatus 0x20000)
  else
    let d := s.regN Reg.fuseProgData
    let blank := [0, 1, 2].filter (fun k => decide (s.fuse.copy w k = 0))
    .next { s with fuse := { s.fuse with progWord := w, progCopy := d + 2 ^ 32 * crc8 d 4, toPulse := blank, inPulse := !blank.isEmpty } }

/-- FUSE_PULSE_END (R512): the copy is written; the next blank copy's pulse follows. -/
def execFusePulseEnd (s : State) : Host.Outcome State Fault Refusal :=
  match s.fuse.inPulse, s.fuse.toPulse with
  | true, k :: rest =>
    .next { s with fuse := { s.fuse with rows := SMap.set (fun _ => 0) s.fuse.rows (128 * k + s.fuse.progWord) s.fuse.progCopy,
                                         toPulse := rest, inPulse := !rest.isEmpty } }
  | _, _ => .next s

/-! ## Release, clocks and self-test (R508, R509, R511, R519–R522) -/

/-- The self-test record (R521). -/
def selfTestRecord (r : SelfTestResult) (level : Nat) (hbmFull : Nat) (single failWord : Nat) : Nat :=
  packFields
    ([(1, b2n r.failStep.isNone), (3, r.failStep.getD 0), (2, level), (1, hbmFull), (25, 0), (32, r.durationUs.toNat), (32, r.sramFail.toNat)] ++
     [(16, r.hbmFailCh.toNat), (8, r.lanesRepaired.toNat), (8, 0), (8, r.lbistFail.toNat), (8, r.portFail.toNat), (4, r.twilanFail.toNat), (12, 0)] ++
     [(2, r.vendorImg.toNat), (2, r.openImg.toNat), (2, r.firmware.toNat), (2, r.controller.toNat), (24, 0), (8, single), (8, failWord), (16, 0)])

/-- The record of a run that ended at option load (R514, R521). -/
def optionFailRecord (word single : Nat) : Nat :=
  selfTestRecord { failStep := some 1, hbmTrainFail := none, durationUs := 0, sramFail := 0xFFFFFFFF, hbmFailCh := 0, lanesRepaired := 0,
                   lbistFail := 0, portFail := 0, twilanFail := 0, vendorImg := 1, openImg := 1, firmware := 1, controller := 1 } 0 0 single word

/-- Release begins (R507, R508): every source is released and no fuse pulse is in progress; the watchdogs start anew; TWIN_ROLE is sampled at levels 0
and 1, the option words are loaded at level 0, and the fabric and core PLLs are enabled. `cut`: a source is asserted during the
option load, which stops it (R514). -/
def State.beginRelease (s : State) (cut role : Bool) : State :=
  if s.rst.state ≠ .held ∨ s.rst.asserted ≠ 0 then s
  else if s.fuse.inPulse then { s with rst := { s.rst with fuseWait := true } }
  else
    let s := { s with rst := { s.rst with wdogs := [] } }
    let s := if s.rst.deepest ≤ 1 then { s with rst := { s.rst with twinRole := role } } else s
    if s.rst.deepest ≠ 0 then { s with rst := { s.rst with state := .releasing }, pwr := { s.pwr with pllOn := true } }
    else if cut then { s with rst := { s.rst with optRestart := true } }
    else
      let s := s.optionLoad
      if s.fuse.loaded then { s with rst := { s.rst with state := .releasing }, pwr := { s.pwr with pllOn := true } }
      else { s with rst := { s.rst with state := .diagHold, selfTest := optionFailRecord s.fuse.failWord s.fuse.single },
                    host := { s.host with ready := true } }

/-- RESET_RELEASE (R507, R508, R514). -/
def execResetRelease (cut role : Bool) (s : State) : Host.Outcome State Fault Refusal := .next (s.beginRelease cut role)

/-- The clock of a block, as its bit of CLK_GOOD (R510, R533). -/
def blockClock (id : Nat) : Nat :=
  if 0x008 ≤ id ∧ id ≤ 0x00F then 1 + (id - 0x008) / 2
  else if 0x010 ≤ id ∧ id ≤ 0x017 then 1 + (id - 0x010) / 2
  else if 0x080 ≤ id ∧ id ≤ 0x083 then 5
  else 0

/-- A block is clocked now (R26): a tambour, a core, and a block that runs on demand, by its own gate. -/
def State.gated (s : State) (id : Nat) : Bool :=
  if 0x008 ≤ id ∧ id ≤ 0x00F then !bitAt s.pwr.tambClk.toNat (id - 0x008)
  else if 0x080 ≤ id ∧ id ≤ 0x083 then !bitAt s.pwr.coreClk.toNat (id - 0x080)
  else if 0x018 ≤ id ∧ id ≤ 0x027 then !s.pwr.on (.pump (id - 0x018))
  else fclkBlocks.contains id && !s.pwr.on (.fclkBlock id)

/-- The release of a block waits for its clock no longer (R509, R510): the block is clocked and its clock is good. -/
def State.releasePending (s : State) : State :=
  if s.rst.blk.pendingClk && bitAt s.pwr.clkGood.toNat (blockClock s.rst.blk.block) && !s.gated s.rst.blk.block then
    { s with rst := { s.rst with blk := { s.rst.blk with pendingClk := false, busy := false, heldAt := none } } }
  else s

/-- A clock reports good (R508, R509): a pending block release proceeds, and in RELEASING the blocks are released and
self-test begins once fclk and the core clock are good. -/
def State.clockIsGood (s : State) (k : Nat) : State :=
  let s := { s with pwr := { s.pwr with clkGood := s.pwr.clkGood ||| BitVec.ofNat 12 (2 ^ k) },
                    rst := { s.rst with clkHeld := s.rst.clkHeld.filter (fun id => blockClock id ≠ k) } }
  let s := s.releasePending
  let s := if 1 ≤ k ∧ k ≤ 4 then (s.clockArrives (2 * k - 2)).clockArrives (2 * k - 1) else s
  if s.rst.state = .releasing ∧ s.pwr.clkGood &&& 0x021 = 0x021 then
    { s with rst := { s.rst with state := .selfTest }, pwr := { s.pwr with coreClk := 0xF, awake := .corePll :: s.pwr.awake.filter (· ≠ .corePll) } }
  else s

/-- CLOCK_GOOD (R509). -/
def execClockGood (clk : Nat) (s : State) : Host.Outcome State Fault Refusal :=
  if clk < 12 then .next (s.clockIsGood clk) else .fault .noSuchUnit

/-- The blocks that a lost clock holds again (R509, R533). -/
def clockBlocks (k : Nat) : List Nat :=
  if 1 ≤ k ∧ k ≤ 4 then [0x008 + 2 * (k - 1), 0x009 + 2 * (k - 1)]
  else if k = 5 then [0x080, 0x081, 0x082, 0x083]
  else if k = 6 then [0x048]
  else if k = 7 then [0x028, 0x029, 0x02A, 0x02B]
  else if k = 8 then [0x02C, 0x02D, 0x02E, 0x02F]
  else if k = 9 then [0x061]
  else if k = 10 then [0x068]
  else []

/-- A clock is lost after release (R509): counted; its blocks are held again and CLK_LOST raised for each. When fclk is lost,
the reset controller drives the safe state itself and asserts source 10. The loss of XTAL_25M is source 0's. -/
def State.clockIsLost (s : State) (k : Nat) : State :=
  if bitAt s.pwr.clkGood.toNat k = false then s
  else
    let s := { s with pwr := { s.pwr with clkGood := s.pwr.clkGood &&& ~~~(BitVec.ofNat 12 (2 ^ k)) } }
    let s := s.count Reg.clkLostCnt 16 1
    if s.rst.state = .held ∨ s.rst.state = .releasing then s
    else if k = 0 then s.enterSafe.assertSource 10
    else if k = 11 then s.assertSource 0
    else (clockBlocks k).foldl (fun t id =>
      { t with rst := { t.rst with clkHeld := t.rst.clkHeld ++ [id] } }.raise Src.reset Kind.clkLost 0 id) s

/-- CLK_LOST (R509). -/
def execClkLost (clk : Nat) (s : State) : Host.Outcome State Fault Refusal :=
  if clk < 12 then .next (s.clockIsLost clk) else .fault .noSuchUnit

/-- The queues firmware creates at boot: the fallback queues and the pump work queues (R304). -/
def State.bootQueues (s : State) : State :=
  let s := [4, 5, 6, 7].foldl (fun t q => t.modQueue q fun _ => fwQueue q .iwq) s
  (List.range 16).foldl (fun t n => t.modQueue (16 + n) fun _ => fwQueue (16 + n) .pwq) s

/-- READY (R508): the safe state ends, the gates open, FAULT_N and TWIN_YIELD_N are released, HST_STATUS.READY is set. -/
def State.becomeReady (s : State) (lanes : Nat) : State :=
  let s := s.bootQueues
  { s with rst := { s.rst with state := .running }, host := { s.host with ready := true },
           flt := { s.flt with safe := false, reaction := none, mergeRst := false }, faultN := false, yieldN := false,
           hbm := { s.hbm with trained := true, lanesRepaired := lanes } }

/-- RST_BLOCK's blocks (R510): IDs of R482 that are not refused. -/
def resettable (id : Nat) : Bool :=
  decide (0x008 ≤ id ∧ id ≤ 0x042) && !decide (0x03C ≤ id ∧ id ≤ 0x03F) || decide (0x070 ≤ id ∧ id ≤ 0x083) || decide (id = 0x088)

/-- Registers whose address lies in `[lo, hi)` return to their reset values. -/
def State.clearRegs (s : State) (lo hi : Nat) : State := { s with regs := SMap.keep (fun a => decide (a < lo) || decide (hi ≤ a)) s.regs }

/-- A core's reset (R459): the sources it holds leave in service as if completed. -/
def State.coreReset (s : State) (c : Nat) : State :=
  s.irq.foldl (fun t e => if e.2.inService && decide (e.2.owner = c) then t.modSrc e.1 IrqSrc.complete else t) s

/-- A tambour's block reset (R510): the band in CODING is abandoned, a band named into a bank returns to READY; the bands that wait for
a repair pass stay in its queue (R26). -/
def State.resetTamb (s : State) (t : Nat) : State :=
  let s := match (s.tamb t).coding with | some i => s.abandon i | none => s
  let s := (s.tamb t).namedBands.foldl (fun s i => s.modBand i fun u => { u with state := .ready }) s
  s.modTamb t fun x => { repairs := x.repairs, freeAt := s.nowT, lastCh := x.lastCh }

/-- Clears a block (R510): its internal state and its registers return to their reset values. A tambour keeps its pricking
store (R504). -/
def State.clearBlock (s : State) (id : Nat) : State :=
  if 0x008 ≤ id ∧ id ≤ 0x00F then (s.resetTamb (id - 0x008)).clearRegs (Reg.tmb + 0x2000 * (id - 0x008)) (Reg.tmb + 0x2000 * (id - 0x008) + 0x2000)
  else if 0x010 ≤ id ∧ id ≤ 0x017 then
    (s.modSpout (id - 0x010) fun _ => {}).clearRegs (0x28000 + 0x10 * (id - 0x010)) (0x28010 + 0x10 * (id - 0x010))
  else if 0x018 ≤ id ∧ id ≤ 0x027 then
    (s.modPump (id - 0x018) fun _ => {}).clearRegs (0x24000 + 0x10 * (id - 0x018)) (0x24010 + 0x10 * (id - 0x018))
  else if 0x028 ≤ id ∧ id ≤ 0x02F then
    (s.modPort (id - 0x028) fun _ => {}).clearRegs (0x30000 + 0x1000 * (id - 0x028)) (0x31000 + 0x1000 * (id - 0x028))
  else if 0x030 ≤ id ∧ id ≤ 0x037 then
    (s.modGate (id - 0x030) fun _ => {}).clearRegs (0x38000 + 0x800 * (id - 0x030)) (0x38800 + 0x800 * (id - 0x030))
  else if id = 0x040 then { s with queues := [] }
  else if id = 0x041 then { s with cellWell := State.reset.cellWell, sram := [] }
  else if id = 0x042 then { s with pageWell := State.reset.pageWell }
  else if 0x070 ≤ id ∧ id ≤ 0x07F then
    { s with ck := SMap.set (fun _ => {}) s.ck (id - 0x070) {} }.clearRegs (Reg.ck + 0x100 * (id - 0x070)) (Reg.ck + 0x100 * (id - 0x070) + 0x100)
  else if 0x080 ≤ id ∧ id ≤ 0x083 then s.coreReset (id - 0x080)
  else if id = 0x088 then { s with irq := [] }.clearRegs 0x4000 0x5000
  else s

/-- The block of the request is held and cleared (R510). -/
def State.holdBlock (s : State) : State :=
  { s.clearBlock s.rst.blk.block with rst := { s.rst with blk := { s.rst.blk with heldAt := some s.time.tick } } }

/-- RST_BLOCK (R510, R527): a core names one block; refused for the IDs that may not be reset, while BUSY, and during an
episode. A host write has no effect. A gated block is idle at once. -/
def execRstBlock (who : Requester) (block : BitVec 10) (s : State) : Host.Outcome State Fault Refusal :=
  match who with
  | .host => .next s
  | .core _ =>
    if resettable block.toNat = false ∨ s.rst.blk.busy = true ∨ s.rst.state ≠ .running then
      .next { s with rst := { s.rst with blk := { s.rst.blk with rej := true } } }
    else
      let t := { s with rst := { s.rst with blk := { block := block.toNat, busy := true, askedAt := s.time.tick } } }
      if t.gated block.toNat then .next t.holdBlock else .next t

/-- BLOCK_IDLE (R510): the block is held and cleared. -/
def execBlockIdle (s : State) : Host.Outcome State Fault Refusal :=
  if s.rst.blk.busy = true ∧ s.rst.blk.heldAt = none then .next s.holdBlock else .next s

/-- RST_IDLE_TIMEOUT has passed since the idle request (R510, R528): in µs of 25 ticks; 0 acts as 1. -/
def State.idleOver (s : State) : Bool := decide (s.rst.blk.askedAt + 25 * max 1 (s.field Reg.rstIdleTimeout 0 16) ≤ s.time.tick)

/-- IDLE_TIMEOUT (R510): the block is held anyway, and IDLE_TIMEOUT raised with its ID. -/
def execIdleTimeout (s : State) : Host.Outcome State Fault Refusal :=
  if s.rst.blk.busy = true ∧ s.rst.blk.heldAt = none ∧ s.idleOver = true then
    .next (({ s with rst := { s.rst with blk := { s.rst.blk with timeout := true } } }.holdBlock).raise Src.reset Kind.idleTimeout 0 s.rst.blk.block)
  else .next s

/-- BLOCK_RELEASE (R509, R510): 16 ticks after the hold the release is requested; it stays pending until the block's clock is
good. -/
def execBlockRelease (s : State) : Host.Outcome State Fault Refusal :=
  match s.rst.blk.heldAt with
  | some t =>
    if s.rst.blk.busy = true ∧ t + 16 ≤ s.time.tick then
      if bitAt s.pwr.clkGood.toNat (blockClock s.rst.blk.block) && !s.gated s.rst.blk.block then
        .next { s with rst := { s.rst with blk := { s.rst.blk with busy := false, pendingClk := false, heldAt := none } } }
      else .next { s with rst := { s.rst with blk := { s.rst.blk with pendingClk := true } } }
    else .next s
  | none => .next s

/-! ## Slew governor and sensors (R515, R516, R532, R555–R558) -/

/-- The block ID by which equal requests are ordered (R482, R516). -/
def PwrBlock.id (b : PwrBlock) : Nat :=
  match b with
  | .hoop h => Src.tambour + 2 * h
  | .tambour n => Src.tambour + n
  | .core c => Src.firmware + c
  | .corePll => Src.firmware
  | .fclkBlock i => i
  | .pump n => Src.pump + n
  | .hbm => Src.hbm

/-- `a` goes before `b` at the governor (R516): wakes before sleeps, then the earlier needed time, then the lower block ID. -/
def SlewReq.before (a b : SlewReq) : Bool :=
  if a.wake ≠ b.wake then a.wake
  else if a.needed ≠ b.needed then decide (a.needed < b.needed)
  else decide (a.block.id < b.block.id)

/-- The first waiting request (R516); of equals, the one that has waited longest. -/
def firstReq (q : List SlewReq) : Option SlewReq :=
  q.foldl (fun best r => match best with | none => some r | some b => if r.before b then some r else some b) none

/-- PWR_SLEW.LIMIT as it acts (R530). -/
def State.slewLimit (s : State) : Nat :=
  let l := s.field Reg.pwrSlew 0 4
  if l = 0 then 1 else if 8 < l then 8 else l

/-- A block's clock or PLL goes on or off (R515, R532). -/
def PowerSt.switch (p : PowerSt) (b : PwrBlock) (on : Bool) : PowerSt :=
  match b with
  | .hoop h => { p with hoopPll := (if on then p.hoopPll ||| BitVec.ofNat 4 (2 ^ h) else p.hoopPll &&& ~~~(BitVec.ofNat 4 (2 ^ h))),
                        clkGood := if on then p.clkGood else p.clkGood &&& ~~~(BitVec.ofNat 12 (2 ^ (1 + h))) }
  | .tambour n => { p with tambClk := if on then p.tambClk ||| BitVec.ofNat 8 (2 ^ n) else p.tambClk &&& ~~~(BitVec.ofNat 8 (2 ^ n)) }
  | .core c => { p with coreClk := if on then p.coreClk ||| BitVec.ofNat 4 (2 ^ c) else p.coreClk &&& ~~~(BitVec.ofNat 4 (2 ^ c)) }
  | x => { p with awake := if on then x :: p.awake.filter (· ≠ x) else p.awake.filter (· ≠ x) }

/-- The governor grants the first waiting request (R516): the block switches; the next grant is |step| / LIMIT later; the
longest wait and late wakes are recorded (R532). A tambour is clocked its wake latency after the grant. Times are in ps here. -/
def State.grantSlew (s : State) : State :=
  if 1000 * s.now < s.pwr.nextFree then s
  else match firstReq s.pwr.queue with
    | none => s
    | some r =>
      let p := s.pwr.switch r.block r.wake
      let p := { p with queue := s.pwr.queue.erase r, nextFree := 1000 * s.now + r.block.step.1 * 1000 / s.slewLimit }
      let s := { s with pwr := p }
      let s := s.setRegN Reg.pwrGrantMax (max (s.regN Reg.pwrGrantMax) (min (s.now - r.asked) (2 ^ 32 - 1)))
      let s := if r.wake && decide (r.needed < s.now + r.block.step.2) then s.count Reg.pwrWakeLate 32 1 else s
      let s := if r.wake then s.releasePending else s
      match r.block, r.wake with
      | .tambour n, true => (s.modTamb n fun x => { x with clkFrom := s.now + r.block.step.2 }).clockArrives n
      | _, _ => s

/-- SLEW_GRANT (R516). -/
def execSlewGrant (s : State) : Host.Outcome State Fault Refusal := .next s.grantSlew

/-- Sensor `n`. -/
def State.sensor (s : State) (n : Nat) : Sensor := SMap.get (fun _ => {}) s.sensors n

/-- Sensors that read VALID (R555). -/
def State.validSensors (s : State) : Nat := ((List.range 16).filter (fun n => (s.sensor n).valid)).length

/-- DETAIL of a thermal message (R485): sensor and °C. -/
def thermDetail (n : Nat) (quarter : Int) : Nat := n + 256 * ofSigned 8 (quarter / 4)

/-- Reset source 11 is held (R503, R555): from a trip, or while fewer than 12 sensors are valid, until every valid sensor
reads below 100 °C and at least 12 are valid. -/
def State.tripState (s : State) : State :=
  let few := decide (s.validSensors < 12)
  let hot := (List.range 16).any (fun n => (s.sensor n).valid && decide (460 ≤ (s.sensor n).temp))
  let cool := (List.range 16).all (fun n => !(s.sensor n).valid || decide ((s.sensor n).temp < 400))
  let on := bitAt s.rst.asserted.toNat 11
  if (few || hot) && !on then s.assertSource 11
  else if on && !few && cool then s.releaseSource 11
  else s

/-- A sensor reading (R555–R557): the warning and its interrupt line, the highest reading, the trip. Every sensor has been
read before the count of valid ones is judged. -/
def State.sampleSensor (s : State) (n : Nat) (temp : Int) (valid : Bool) : State :=
  let o := s.sensor n
  let warn := if valid then (if 400 ≤ temp then true else if temp < 388 then false else o.warn) else o.warn
  let x : Sensor := { temp := if valid then temp else o.temp, valid := valid, read := true, warn := warn, failed := !valid }
  let s := { s with sensors := SMap.set (fun _ => {}) s.sensors n x }
  let s := if valid && warn && !o.warn then s.raise (Src.sensor + n) Kind.thermWarn 0 (thermDetail n temp) else s
  let s := if !valid && !o.failed then s.raise (Src.sensor + n) Kind.thermWarn 0 (n + 0xFF00) else s
  let s := if valid && decide (toSigned 11 (s.field Reg.pwrTempMax 0 11) < temp) then
      s.setRegN Reg.pwrTempMax (ofSigned 11 temp + 65536 * n) else s
  let s := s.rawLine 51 ((List.range 16).any fun k => (s.sensor k).warn)
  let s := if valid && decide (460 ≤ temp) && !(o.valid && decide (460 ≤ o.temp)) then s.raise (Src.sensor + n) Kind.thermTrip 0 (thermDetail n temp) else s
  if (List.range 16).all (fun k => (s.sensor k).read) then s.tripState
  else if valid && decide (460 ≤ temp) && !bitAt s.rst.asserted.toNat 11 then s.assertSource 11 else s

/-- THERMAL_SAMPLE (R555). -/
def execThermalSample (n : Nat) (temp : Int) (valid : Bool) (s : State) : Host.Outcome State Fault Refusal :=
  if n < 16 then .next (s.sampleSensor n temp valid) else .fault .noSuchUnit

end Sys2Proof.Machine
end

