-- ==== Sys2Proof/Machine/TimeBase.lean ====
section
/-!
DEFINITION. The time base (R392–R395, R415–R421), TIME_CONTROL (R402), the servo (R404–R410), OSC_SPI (R407), PTP events
(R399–R403) and the timing outputs (R411–R414).
-/
namespace Sys2Proof.Machine

/-- The rate adjustment in force (R393, R418): two's complement, in 2^−32 ns per tick. -/
def State.incAdj (s : State) : Int := toSigned 32 (s.regN Reg.timeIncAdj)

/-- The range of the rate adjustment (R393): a value outside it is clamped. -/
def clampAdj (x : Int) : Int := max (-171798691) (min 171798691 x)

/-- One second in units of 2^−32 ns. -/
abbrev secUnits : Int := 1000000000 * 2 ^ 32

/-- Time in units of 2^−32 ns as seconds, nanoseconds and fraction (R392); seconds are 48 bits. -/
def TimeSt.setUnits (t : TimeSt) (x : Int) : TimeSt :=
  { t with sec := ofSigned 48 (x / secUnits), ns := (x % secUnits / 2 ^ 32).toNat, frac := (x % 2 ^ 32).toNat }

/-- The time in units of 2^−32 ns. -/
def TimeSt.units (t : TimeSt) : Int := (t.sec : Int) * secUnits + (t.ns : Int) * 2 ^ 32 + (t.frac : Int)

/-- A step as DETAIL shows it (R394): saturated to ±2,147,483,647 ns. -/
def stepDetail (ns : Int) : Nat := ofSigned 32 (max (-2147483647) (min 2147483647 ns))

/-- Timing outputs take a step (R413): a pulse in progress returns to IDLE, and the generator resumes at the first active edge
at least 2 µs after the step. The index of that edge is found when it falls due. -/
def Tout.stepped (o : Tout) (nowQ : Nat) : Tout :=
  { o with returnAt := none, level := bitAt o.cfg 3, notBefore := if o.running then nowQ + 8000 else o.notBefore }

/-- PTP time in hundredths of a nanosecond. -/
def State.nowC (s : State) : Nat := s.now * 100 + s.time.frac * 100 / 2 ^ 32

/-- The end of the frame on the wire, and its gap, moves with a step of the time base: it takes the same time from now on (R381). -/
def Gate.stepped (g : Gate) (ns : Int) (now : Nat) : Gate :=
  let e := ((g.freeAt : Int) + 100 * ns).toNat
  if g.freeAt = 0 then g else { g with freeAt := if now < e then e else 0 }

/-- A step of the time base has happened, by `ns` (R394): counted and raised; interrupt source 53. -/
def State.stepped (s : State) (ns : Int) : State :=
  let s := (List.range 8).foldl (fun t p => t.modGate p fun g => g.stepped ns s.nowC) s
  let s := { s with time := { s.time with touts := s.time.touts.map fun (e : Nat × Tout) => (e.1, e.2.stepped s.nowQ) } }
  ((s.count Reg.timeSteps 16 1).raise Src.time Kind.timeStepped 0 (stepDetail ns)).assertIrq 53

/-- The time base's own tick (R392, R394): it advances by 40 ns and the rate adjustment and applies a pending step; an
absolute set leaves the fraction at 0. -/
def State.tickTime (s : State) : State :=
  let x := s.time.units + 40 * 2 ^ 32 + s.incAdj
  let t := { s.time with tick := s.time.tick + 1, step := none }
  match s.time.step with
  | none => { s with time := t.setUnits x }
  | some (.by ns) =>
    let t := t.setUnits (x + ns * 2 ^ 32)
    { s.stepIntervals (1000000000 * t.sec + t.ns) with time := t }.stepped ns
  | some (.to ns) =>
    let t := t.setUnits ((ns : Int) * 2 ^ 32)
    { s.stepIntervals (1000000000 * t.sec + t.ns) with time := t }.stepped ((ns : Int) - x / 2 ^ 32)

/-- Policers gain a tick's tokens (R361): RATE × 40 in units of 1/8,000,000,000 byte, up to BURST. -/
def IFlow.refill (f : IFlow) : IFlow :=
  if f.bound && decide (f.rate ≠ 0) then { f with bucket := min (f.bucket + f.rate * 40) (8000000000 * f.burst) } else f

/-- AO_TICK (R392): pulse sources count, the time base advances, policers gain, the power sequencer asks for what blocks need (R26). -/
def execAoTick (s : State) : Host.Outcome State Fault Refusal :=
  let t := s.tickTime
  .next ({ t with net := { t.net with iflows := t.net.iflows.map fun (e : Nat × IFlow) => (e.1, e.2.refill) } }.pulseTick.powerSweep)

/-- A requester may write the steering registers (R408): the host with HOST_STEER = 1, firmware otherwise. -/
def State.maySteer (s : State) (who : Requester) : Bool :=
  match who with | .host => decide (s.field Reg.timeCfg 0 1 = 1) | .core _ => decide (s.field Reg.timeCfg 0 1 = 0)

/-- TIME_INC_ADJ_WRITE (R393, R408): the value, clamped, from the next tick. -/
def execTimeIncAdjWrite (who : Requester) (v : Word) (s : State) : Host.Outcome State Fault Refusal :=
  if s.maySteer who then .next (s.setRegN Reg.timeIncAdj (ofSigned 32 (clampAdj (toSigned 32 v.toNat)))) else .next s

/-- TIME_STEP_WRITE (R11, R394, R419): the write of the high word makes a step of the 64-bit signed value pending. -/
def execTimeStepWrite (who : Requester) (hi : Word) (s : State) : Host.Outcome State Fault Refusal :=
  if s.maySteer who then
    let lo := s.lowToCommit who Reg.timeStepLo
    let t := s.commitPair who Reg.timeStepLo hi
    .next { t with time := { t.time with step := some (.by (toSigned 64 (lo.toNat + 2 ^ 32 * hi.toNat))) } }
  else .next s

/-- TIME_LATCH (R395, R417): the whole time base in one tick. -/
def execTimeLatch (s : State) : Host.Outcome State Fault Refusal :=
  .next ((((s.setRegN Reg.timeLFrac s.time.frac).setRegN Reg.timeLNs s.time.ns).setRegN Reg.timeLSecLo (s.time.sec % 2 ^ 32)).setRegN
    Reg.timeLSecHi (s.time.sec / 2 ^ 32))

/-! ## TIME_CONTROL (R402) -/

/-- Port `n`'s PTP settings. -/
def State.ptpPort (s : State) (n : Nat) : PtpPortCfg := SMap.get (fun _ => {}) s.time.ports n

/-- Mean rate over the last 60 s of LOCKED or FOLLOWING (R404), from the rates logged since lock, newest first: each held from
its tick to `upto`, ticks before `lo` left out. -/
def meanRate (log : List (Nat × Int)) (upto lo : Nat) (sum : Int) (n : Nat) : Int × Nat :=
  match log with
  | [] => (sum, n)
  | (t, r) :: rest =>
    let from_ := max t lo
    if upto ≤ from_ then meanRate rest (min upto t) lo sum n
    else meanRate rest from_ lo (sum + r * ((upto - from_ : Nat) : Int)) (n + (upto - from_))

/-- The servo changes state (R404): SERVO_CHANGE with the old and new state. Entering HOLDOVER holds the mean rate of the last
60 s of lock (1,500,000,000 ticks); entering ACQUIRING remembers the rate; entering lock starts the log. With HOST_STEER = 1 the
rate is the host's. -/
def State.servoTo (s : State) (v : Servo) : State :=
  let o := s.time.servo
  if o = v then s
  else
    let s := s.raise Src.time Kind.servoChange 0 (o.code + 8 * v.code)
    let m := meanRate s.time.rateLog s.time.tick (s.time.tick - 1500000000) 0 0
    let s := if v = .holdover ∧ m.2 ≠ 0 ∧ s.field Reg.timeCfg 0 1 = 0 then s.setRegN Reg.timeIncAdj (ofSigned 32 (m.1 / (m.2 : Int))) else s
    { s with time := { s.time with servo := v, lockRun := 0, unlockRun := 0, holdFrom := (if v = .holdover then s.now else s.time.holdFrom),
                                   entryRate := (if v = .acquiring then s.incAdj else s.time.entryRate),
                                   rateLog := (if v = .locked ∨ v = .following then [(s.time.tick, s.incAdj)] else []) } }

/-- The selected source is available (R404): a port in SLAVE, or a PPS_IN edge within 1.5 s. -/
def State.sourceAvailable (s : State) : Bool :=
  if s.time.ref.source = 1 then s.time.slavePort.isSome
  else if s.time.ref.source = 0 then false
  else match s.time.ppsAt with | some t => decide (s.now ≤ 1500000000 + t) | none => false

/-- A change of SOURCE, or of what is available, moves the servo (R404, R409). While the host steers, the servo shows LOCKED or ACQUIRING
alone (R408). -/
def State.servoReview (s : State) : State :=
  if s.time.follower then s
  else if s.field Reg.timeCfg 0 1 = 1 then (if s.time.servo = .locked then s else s.servoTo .acquiring)
  else if s.time.ref.source = 0 then s.servoTo .freeRunning
  else if s.sourceAvailable ∧ (s.time.servo = .freeRunning ∨ s.time.servo = .holdover) then s.servoTo .acquiring
  else if !s.sourceAvailable ∧ (s.time.servo = .locked ∨ s.time.servo = .following) then s.servoTo .holdover
  else s

/-- A port's figures in role `r`: a master-only port in SLAVE or UNCALIBRATED is MASTER instead (R400; which state it takes is IEEE 1588's, PRESUMED, log 126). -/
def PtpLive.inRole (v : PtpLive) (r : Nat) : PtpLive := if r = 2 ∧ (v.portState = 8 ∨ v.portState = 9) then { v with portState := 6 } else v

/-- TIME_CONTROL CLOCK (R402). -/
def execTimeControlClock (h : CmdHdr) (p : ClockArgs) (s : State) : Host.Outcome State Fault Refusal :=
  .next (plainCmd (.timeControlClock h p) h true (fun t =>
    if 127 < p.domain.toNat ∨ p.role = 3 then (t, Reply.field St.badFormat 0x0C)
    else
      let c : ClockCfg := ⟨p.domain.toNat, p.role.toNat, p.slaveOnly, p.timeSource.toNat, p.priority1.toNat, p.priority2.toNat,
        p.classLocked.toNat, p.classHoldover.toNat, p.classFree.toNat, p.accuracy.toNat, p.variance.toNat, p.holdoverS.toNat⟩
      -- A master-only clock has no port in SLAVE (R400).
      (({ t with time := { t.time with clock := c, slavePort := if c.role = 2 then none else t.time.slavePort, ptp := t.time.ptp.map fun (e : Nat × PtpLive) => (e.1, e.2.inRole c.role) } }).servoReview, { status := St.ok })) s)

/-- A two's complement byte. -/
def signedByte (b : BitVec 8) : Int := toSigned 8 b.toNat

/-- TIME_CONTROL PORT (R402): ranges, and an ordinary clock's single port. -/
def execTimeControlPort (h : CmdHdr) (p : PtpPortArgs) (s : State) : Host.Outcome State Fault Refusal :=
  .next (plainCmd (.timeControlPort h p) h true (fun t =>
    let an := signedByte p.logAnnounce
    let sy := signedByte p.logSync
    let dr := signedByte p.logDelayReq
    if p.transport = 3 then (t, Reply.field St.badFormat 0x0C)
    else if an < -3 ∨ 1 < an ∨ sy < -7 ∨ -1 < sy ∨ dr < sy ∨ sy + 5 < dr ∨ p.announceTimeout.toNat < 2 ∨ 10 < p.announceTimeout.toNat then
      (t, Reply.field St.badFormat 0x10)
    else if p.enable = true ∧ t.time.clock.role = 0 ∧ t.time.ports.any (fun e => e.2.enable && decide (e.1 ≠ p.port.toNat)) then
      (t, { status := St.badState })
    else
      let c : PtpPortCfg := ⟨p.enable, p.twoStep, p.transport.toNat, p.hybrid, p.vid.toNat, p.vlan, p.pcp.toNat, p.dscp.toNat, an, sy, dr,
        p.announceTimeout.toNat, p.addr.toNat⟩
      let live := SMap.modify (fun _ => {}) t.time.ptp p.port.toNat fun v =>
        { v with portState := if p.enable = false then 3 else if v.portState = 3 then 4 else v.portState }
      let slave := if p.enable = false ∧ t.time.slavePort = some p.port.toNat then none else t.time.slavePort
      (({ t with time := { t.time with ports := SMap.set (fun _ => {}) t.time.ports p.port.toNat c, ptp := live, slavePort := slave } }).servoReview,
        { status := St.ok })) s)

/-- TIME_CONTROL REFERENCE (R402). -/
def execTimeControlReference (h : CmdHdr) (p : ReferenceArgs) (s : State) : Host.Outcome State Fault Refusal :=
  .next (plainCmd (.timeControlReference h p) h true (fun t =>
    if p.lockNs = 0 ∨ p.unlockNs.toNat ≤ p.lockNs.toNat then (t, Reply.field St.badFormat 0x10)
    else if p.stepNs.toNat < 1000 then (t, Reply.field St.badFormat 0x14)
    else if p.rateLimitPpm = 0 ∨ 1000 < p.rateLimitPpm.toNat then (t, Reply.field St.badFormat 0x18)
    else
      let c : RefCfg := ⟨p.source.toNat, p.steer, p.stepAny, p.lockNs.toNat, p.unlockNs.toNat, p.stepNs.toNat, p.rateLimitPpm.toNat⟩
      ({ t with time := { t.time with ref := c } }.servoReview, { status := St.ok })) s)

/-- SET_TIME (R402): refused while channels run without FORCE, and on a twin follower in LOCKING or TWINNED; otherwise a step
at the next tick, and VALID. -/
def execSetTime (h : CmdHdr) (relative force : Bool) (sec : BitVec 64) (ns : BitVec 32) (s : State) : Host.Outcome State Fault Refusal :=
  .next (plainCmd (.setTime h relative force sec ns) h true (fun t =>
    if relative = false ∧ 1000000000 ≤ ns.toNat then (t, Reply.field St.badFormat 0x18)
    else if (t.anyLive = true ∧ force = false) ∨ t.time.follower = true then (t, { status := St.badState })
    else
      let r : StepReq := if relative then .by (toSigned 64 sec.toNat) else .to (1000000000 * (sec.toNat % 2 ^ 48) + ns.toNat)
      ({ t with time := { t.time with step := some r, valid := true } }, { status := St.ok })) s)

/-- Time-code values from their operands (R402, R403). -/
def timecodeCfg (p : TimecodeArgs) : TimeCodeCfg :=
  ⟨toSigned 32 p.localOffset.toNat, toSigned 32 p.jumpSeconds.toNat, p.nextJump.toNat, p.nextJam.toNat, toSigned 32 p.prevJamOffset.toNat,
   p.dst, p.leapJump, p.utcValid, p.utcOffset.toNat⟩

/-- TIMECODE (R402). -/
def execTimecode (h : CmdHdr) (p : TimecodeArgs) (s : State) : Host.Outcome State Fault Refusal :=
  .next (plainCmd (.timecode h p) h true (fun t => ({ t with time := { t.time with hostTc := timecodeCfg p } }, { status := St.ok })) s)

/-- The time-code values in force (R403). -/
def State.timeCode (s : State) : TimeCodeCfg := s.time.tlvTc.getD s.time.hostTc

/-! ## PTP and the servo -/

/-- A received message enters its port's PTP figures (R185). -/
def State.meterPtp (s : State) (port : Nat) (d : PtpDecision) : State :=
  let live : PtpLive := { portState := d.portState, stepsRemoved := d.stepsRemoved, gmClass := d.gmClass, gmAccuracy := d.gmAccuracy, gmIdentity := d.gmIdentity }
  let s := s.endIntervals 2 port
  let ptp := SMap.set (fun _ => ({} : PtpLive)) s.time.ptp port (live.inRole s.time.clock.role)
  -- The port that was SLAVE and is so no longer.
  let ptp := match s.time.slavePort with
    | some q => if d.slave = some q ∨ q = port then ptp else SMap.modify (fun _ => ({} : PtpLive)) ptp q fun v => { v with portState := d.demoted }
    | none => ptp
  let s := { s with time := { s.time with ptp := ptp } }
  s.meter 2 port fun m =>
    let m := if d.msg = 0 then { m with syncRx := satInc 16 m.syncRx } else if d.msg = 11 then { m with annRx := satInc 16 m.annRx }
      else if d.msg = 1 ∧ d.portState = 6 then { m with delayReq := satInc 16 m.delayReq } else m
    match d.offset with
    | some (o, mpd) =>
      { m with ofsSum := m.ofsSum + o, ofsN := m.ofsN + 1, mpdSum := m.mpdSum + mpd,
               ofsMin := some (match m.ofsMin with | some v => min v o | none => o), ofsMax := some (match m.ofsMax with | some v => max v o | none => o) }
    | none => m

/-- The first PTP frame of port `n` that waits for firmware is taken, and its cells, owner 19, are freed (R312, R359). -/
def State.takePtpFrame (s : State) (n : Nat) : State :=
  match s.net.fwRx.find? (fun e => decide (e.1 = n)) with
  | none => s
  | some e =>
    let s := { s with net := { s.net with fwRx := s.net.fwRx.erase e } }
    s.freeCells (s.chainCells (bitsAt e.2 14 3) (bitsAt e.2 0 14)).1 19

/-- PTP_MESSAGE_RECEIVE (R399, R400, R403, R410): firmware's protocol gives the SLAVE port and the parent; a change of parent
is raised; the TLV of a parent that the servo follows replaces the host's time-code values; the servo follows what is available. -/
def execPtpMessageReceive (port : Nat) (d : PtpDecision) (s : State) : Host.Outcome State Fault Refusal :=
  if port < 8 then
    let s := s.takePtpFrame port
    if (s.ptpPort port).enable = false then .next s
    else
      let s := s.meterPtp port d
      let slave := if s.time.clock.role = 2 then none else d.slave
      let t := if d.parent ≠ s.time.parent then s.raise Src.time Kind.ptpParentChange 0 port else s
      let t := { t with time := { t.time with slavePort := slave, parent := d.parent } }
      let t := match d.tlv with
        | some v => if slave = some port ∧ t.time.ref.source = 1 ∧ t.time.follower = false then { t with time := { t.time with tlvTc := some (timecodeCfg v), tlvAt := t.now } } else t
        | none => t
      .next t.servoReview
  else .fault .noSuchUnit

/-- The code of a sent PTP message kind, as IEEE 1588 numbers messageType; the metadata TLV has none of its own. -/
def ptpKindCode (k : PtpKind) : Nat := match k with | .sync => 0 | .delayReq => 1 | .announce => 11 | .metadataTlv => 13

/-- ANNOUNCE_RECEIPT_TIMEOUT (R404, R410): the SLAVE port is lost: it becomes MASTER, or LISTENING where it may not, and the device's own clock, 0
here, takes the parent's place (IEEE 1588, PRESUMED, log 126); with SOURCE 1 the servo enters HOLDOVER. -/
def execAnnounceReceiptTimeout (s : State) : Host.Outcome State Fault Refusal :=
  let ptp := match s.time.slavePort with
    | some q => SMap.modify (fun _ => ({} : PtpLive)) s.time.ptp q fun v => { v with portState := if s.time.clock.role = 0 ∧ s.time.clock.slaveOnly = true then 4 else 6 }
    | none => s.time.ptp
  let t := match s.time.slavePort with
    | some q => if s.time.parent = 0 then s else s.raise Src.time Kind.ptpParentChange 0 q
    | none => s
  .next ({ t with time := { t.time with slavePort := none, ptp := ptp, parent := if s.time.slavePort = none then t.time.parent else 0 } }.servoReview)

/-- Records the rate in force while the servo is locked (R404). -/
def State.logRate (s : State) : State :=
  if s.time.servo = .locked ∨ s.time.servo = .following then
    { s with time := { s.time with rateLog := (s.time.tick, s.incAdj) :: s.time.rateLog } } else s

/-- RATE_LIMIT_PPM in units of the rate adjustment (R393, R405). -/
def State.rateSpan (s : State) : Int := (s.time.ref.rateLimitPpm : Int) * 171798691840 / 1000000

/-- The servo's steering for an offset (R405, R407, R408): with HOST_STEER = 1 firmware does not steer. A step is made when the
offset exceeds STEP_NS and no channel runs, or STEP_ANY; an offset that exceeds it and may not be stepped is slewed at the limit; otherwise the
rate is `rate`, kept within the limit of the entry rate. With STEER = 1 the rate adjustment is held at 0. -/
def State.steer (s : State) (offset rate : Int) : State :=
  if s.field Reg.timeCfg 0 1 = 1 then s
  else if (s.time.ref.stepNs : Int) < |offset| ∧ (s.anyLive = false ∨ s.time.ref.stepAny = true) then
    { s with time := { s.time with step := some (.by (-offset)), valid := true } }
  else
    let want := if (s.time.ref.stepNs : Int) < |offset| then (if 0 < offset then s.time.entryRate - s.rateSpan else s.time.entryRate + s.rateSpan) else rate
    let r := max (s.time.entryRate - s.rateSpan) (min (s.time.entryRate + s.rateSpan) want)
    let s := s.setRegN Reg.timeIncAdj (if s.time.ref.steer then 0 else ofSigned 32 (clampAdj r))
    { s with time := { s.time with valid := true } }.logRate

/-- The servo's state for an offset (R404, R408): 16 consecutive offsets within LOCK_NS lock it; 4 consecutive ones beyond
UNLOCK_NS unlock it. -/
def State.judgeOffset (s : State) (offset : Int) : State :=
  let small := decide (|offset| ≤ (s.time.ref.lockNs : Int))
  let big := decide ((s.time.ref.unlockNs : Int) < |offset|)
  let s := { s with time := { s.time with lockRun := if small then s.time.lockRun + 1 else 0, unlockRun := if big then s.time.unlockRun + 1 else 0 } }
  let host := decide (s.field Reg.timeCfg 0 1 = 1)
  if s.time.servo = .acquiring ∧ 16 ≤ s.time.lockRun then s.servoTo (if s.time.ref.source = 1 ∨ host = true then .locked else .following)
  else if (s.time.servo = .locked ∨ s.time.servo = .following) ∧
      (4 ≤ s.time.unlockRun ∨ (host = true ∧ small = false)) then s.servoTo .acquiring
  else s

/-- REF10M_IN's frequency over the last second (R406, R422): its error in ppb, none for no signal; REF10M_OK stands while it is within 10 ppm. -/
def State.measureRef (s : State) (ppb : Int) : State :=
  { s with time := { s.time with ref10mPpb := ofSigned 32 (max (-2147483647) (min 2147483647 ppb)), ref10mOk := decide (|ppb| ≤ 10000) } }

/-- The loss of PPS_IN or REF10M_IN (R404, R410): raised while it is selected; the servo enters HOLDOVER from lock. -/
def State.loseRef (s : State) (ref10m : Bool) : State :=
  let selected := if ref10m then decide (s.time.ref.source = 2) else decide (s.time.ref.source = 2) || decide (s.time.ref.source = 3)
  if selected then
    let t := s.raise Src.time Kind.refLost 0 (if ref10m then 3 else 2)
    if t.time.follower = false ∧ (t.time.servo = .locked ∨ t.time.servo = .following) ∧ t.field Reg.timeCfg 0 1 = 0 then t.servoTo .holdover else t
  else s

/-- Rounds a fraction to the nearest whole number, halves later (R412). -/
def roundFrac (n : Int) (d : Nat) : Int := (2 * n + d) / (2 * (d : Int))

/-- The servo's offset in ns (R404, R406): offsetFromMaster (`given`) for SOURCE 1, and for SOURCE 2 and 3 the PPS_IN timestamp less the nearest
whole second, in whole nanoseconds (the rounding is a DESIGN CHOICE, log 147). -/
def State.servoOffset (s : State) (given : Int) : Int :=
  if s.time.ref.source = 2 ∨ s.time.ref.source = 3 then
    roundFrac (((s.time.ppsTs : Int) + 2000000000) % 4000000000 - 2000000000) 4
  else given

/-- SERVO_SAMPLE (R404–R406, R408, R409): an offset in ns, the rate that the servo asks for, and REF10M_IN's measured error where there is
one: a REF10M_OK that clears is a loss of it. A twin follower takes the Twilan offset instead (TIME). -/
def execServoSample (given : Int) (ask : ServoAsk) (s : State) : Host.Outcome State Fault Refusal :=
  let s := match ask.ref10m with
    | some v => if s.time.ref10mOk = true ∧ (s.measureRef v).time.ref10mOk = false then (s.measureRef v).loseRef true else s.measureRef v
    | none => s
  if s.time.follower then .next s
  else
    let t := s.servoReview
    let offset := t.servoOffset given
    if t.time.servo = .acquiring ∨ t.time.servo = .locked ∨ t.time.servo = .following then .next ((t.judgeOffset offset).steer offset ask.rate)
    else .next t

/-- HOLDOVER_EXPIRE (R404): HOLDOVER_S, when not 0, has passed. -/
def execHoldoverExpire (s : State) : Host.Outcome State Fault Refusal :=
  if s.time.servo = .holdover ∧ s.time.clock.holdoverS ≠ 0 ∧ s.time.holdFrom + 1000000000 * s.time.clock.holdoverS ≤ s.now then
    .next (s.servoTo .freeRunning)
  else .next s

/-- PPS_IN_EDGE (R406, R422, R451): the active edge's timestamp with DELAY added; interrupt source 50; the source is
available. -/
def execPpsInEdge (falling : Bool) (ts : Nat) (s : State) : Host.Outcome State Fault Refusal :=
  if decide (s.field Reg.timePpsCfg 0 1 = 1) = falling then
    let v := ofSigned 64 ((ts : Int) + toSigned 24 (s.field Reg.timePpsCfg 8 24))
    .next (({ s with time := { s.time with ppsAt := some s.now, ppsTs := v } }.assertIrq 50).servoReview)
  else .next s

/-- REF_LOST (R404, R410): PPS_IN or REF10M_IN is lost while selected; the servo enters HOLDOVER from lock. -/
def execRefLost (ref10m : Bool) (s : State) : Host.Outcome State Fault Refusal :=
  let t := if ref10m then { s with time := { s.time with ref10mOk := false, ref10mPpb := 0x80000000 } } else { s with time := { s.time with ppsAt := none } }
  .next (t.loseRef ref10m)

/-- TLV_TIMEOUT (R403): 5 s without a TLV from the parent; the host's values apply again. -/
def execTlvTimeout (s : State) : Host.Outcome State Fault Refusal :=
  if 5000000000 + s.time.tlvAt ≤ s.now then .next { s with time := { s.time with tlvTc := none } } else .next s

/-- The low BITS bits of a code (R423): BITS outside 8–32 act as 24. -/
def State.oscCode (s : State) (c : Nat) : Nat :=
  let b := s.field Reg.timeOscCfg 4 5
  c % 2 ^ (if b < 8 then 24 else b)

/-- TIME_OSC_CODE (R407, R408): one frame on OSC_SPI; a write during a frame is held, and a further one replaces it. -/
def execTimeOscCode (who : Requester) (code : Word) (s : State) : Host.Outcome State Fault Refusal :=
  if s.maySteer who then
    match s.time.oscBusy with
    | none => .next { s with time := { s.time with oscBusy := some (s.oscCode code.toNat) } }
    | some _ => .next { s with time := { s.time with oscHeld := some (s.oscCode code.toNat) } }
  else .next s

/-- OSC_SPI_FRAME_END (R407): the held code is sent next. -/
def execOscSpiFrameEnd (s : State) : Host.Outcome State Fault Refusal :=
  if s.time.oscBusy.isSome then .next { s with time := { s.time with oscBusy := s.time.oscHeld, oscHeld := none } } else .next s

/-! ## Timing outputs (R411–R413) -/

/-- Picture rate codes as numerator and denominator of frames per second (R73, R104). -/
def rateFraction (c : Nat) : Nat × Nat :=
  match c with
  | 0 => (24000, 1001) | 1 => (24, 1) | 2 => (25, 1) | 3 => (30000, 1001) | 4 => (30, 1) | 5 => (50, 1) | 6 => (60000, 1001) | 7 => (60, 1)
  | 8 => (100, 1) | 9 => (120000, 1001) | 10 => (120, 1) | _ => (60, 1)

/-- Output `n`. -/
def State.tout (s : State) (n : Nat) : Tout := SMap.get (fun _ => {}) s.time.touts n

/-- The spacing of an output's active edges as a fraction (numerator, denominator) of 0.25 ns units (R411); none for the modes
without edges. -/
def Tout.period (o : Tout) : Option (Nat × Nat) :=
  let mode := bitsAt o.cfg 0 3
  if mode = 1 then some (4000000000, 1)
  else if mode = 2 then some (400, 1)
  else if mode = 3 then some (4000000000, 48000)
  else if mode = 4 then
    let r := rateFraction (let c := bitsAt o.cfg 4 4; if 11 ≤ c then 7 else c)
    let div := if bitsAt o.cfg 9 8 = 0 then 1 else bitsAt o.cfg 9 8
    some (4000000000 * r.2 * div, r.1 * (if bitAt o.cfg 8 then 2 else 1))
  else if mode = 5 then (if o.perNs < 10 then none else some (4 * (o.perNs * 2 ^ 32 + o.perFrac), 2 ^ 32))
  else none

/-- Time of active edge `k` in 0.25 ns (R411, R412). -/
def Tout.edge (o : Tout) (p : Nat × Nat) (k : Int) : Int := roundFrac (k * p.1 + o.phase * p.2) p.2

/-- The first active edge at or after a time in 0.25 ns. -/
def Tout.firstEdge (o : Tout) (p : Nat × Nat) (from_ : Nat) : Int :=
  let k := (((from_ : Int) - o.phase) * p.2) / p.1
  if (from_ : Int) ≤ o.edge p (k - 1) then k - 1 else if (from_ : Int) ≤ o.edge p k then k else k + 1

/-- Time from the active to the return edge of index `k`, as the return edge's own rounded time (R411, R412): WIDTH in modes 1
and 4, with 0 or a width not below the period acting as half of it; half the period in modes 2, 3 and 5. -/
def Tout.returnEdge (o : Tout) (p : Nat × Nat) (k : Int) : Int :=
  let mode := bitsAt o.cfg 0 3
  let half := roundFrac (2 * (k * p.1 + o.phase * p.2) + p.1) (2 * p.2)
  if mode = 1 ∨ mode = 4 then
    if o.width = 0 ∨ p.1 ≤ 4 * o.width * p.2 then half else roundFrac (k * p.1 + o.phase * p.2 + 4 * o.width * p.2) p.2
  else half

/-- The generator reads its registers at its enable (R413, R426): its first active edge falls at least 2 µs after. -/
def State.loadTout (s : State) (n : Nat) : Tout :=
  let b := Reg.timeTout + 0x20 * n
  { running := true, cfg := s.regN b, width := s.field (b + 4) 0 24, phase := toSigned 32 (s.regN (b + 8)), perNs := s.regN (b + 12),
    perFrac := s.regN (b + 16), notBefore := s.nowQ + 8000, nextK := 0, returnAt := none, level := bitAt (s.regN b) 3 }

/-- TIME_TOUT_EN_WRITE (R413, R425): a bit from 0 to 1 loads the generator; a cleared bit lets a pulse finish. -/
def execTimeToutEnWrite (en : BitVec 8) (s : State) : Host.Outcome State Fault Refusal :=
  let old := s.regN Reg.timeToutEn
  let t := (List.range 8).foldl (fun t n =>
    if bitAt en.toNat n && !bitAt old n then { t with time := { t.time with touts := SMap.set (fun _ => {}) t.time.touts n (t.loadTout n) } }
    else if !bitAt en.toNat n && bitAt old n then
      { t with time := { t.time with touts := SMap.modify (fun _ => {}) t.time.touts n fun o => { o with running := false } } }
    else t) s
  .next (t.setRegN Reg.timeToutEn en.toNat)

/-- The edge of an output that is due at time `q` (R411–R414): a return edge that has come, unless the next active edge has come
first and drops it; else the next active edge of a running generator. -/
def Tout.step (o : Tout) (q : Nat) : Tout :=
  match o.period with
  | none => { o with level := bitAt o.cfg 3, returnAt := none }
  | some p =>
    let k := o.firstEdge p o.notBefore
    let e := o.edge p k
    let dueActive := o.running && decide (e ≤ q)
    match o.returnAt with
    | some r =>
      if r ≤ q ∧ (dueActive = false ∨ (r : Int) ≤ e) then { o with level := bitAt o.cfg 3, returnAt := none }
      else if dueActive then { o with level := !bitAt o.cfg 3, returnAt := some (o.returnEdge p k).toNat, nextK := k + 1, notBefore := e.toNat + 1 }
      else o
    | none =>
      if dueActive then { o with level := !bitAt o.cfg 3, returnAt := some (o.returnEdge p k).toNat, nextK := k + 1, notBefore := e.toNat + 1 }
      else o

/-- TIMING_OUTPUT_EDGE (R411–R413): the next edge of output `n`, when its time has come. -/
def execTimingOutputEdge (n : Nat) (s : State) : Host.Outcome State Fault Refusal :=
  if n < 8 then
    .next { s with time := { s.time with touts := SMap.modify (fun _ => {}) s.time.touts n fun o => o.step s.nowQ } }
  else .fault .noSuchUnit

end Sys2Proof.Machine
end

