-- ==== Sys2Proof/Machine/PacketForms.lean ====
section
/-!
DEFINITION. Packet forms (R114, R116): the payloads that carry a band's NAL units.
-/
namespace Sys2Proof.Machine

/-! ## Packet forms (R114) -/

/-- How many units, from the first on, fit one aggregation packet with `room` bytes left. -/
def aggTake (room : Nat) (l : List (List Nat)) : Nat :=
  match l with
  | [] => 0
  | u :: t => if 2 + u.length ≤ room then 1 + aggTake (room - (2 + u.length)) t else 0

/-- An aggregation packet's payload: AP for HEVC; STAP-A for AVC, with the highest NRI of its units. -/
def aggregate (codec : Nat) (l : List (List Nat)) : List Nat :=
  (if codec = 0 then [0x60, 0x01] else [(l.map fun u => u.headD 0 / 32 % 4).foldl max 0 * 32 + 24]) ++ l.flatMap fun u => beBytes 2 u.length ++ u

/-- The fragments of a NAL unit's bytes after its header: `ind` is the payload header or indicator, `ty` the unit's type. -/
def fragments (n : Nat) (ind : List Nat) (ty size : Nat) (first : Bool) (l : List Nat) : List (List Nat) :=
  match n with
  | 0 => []
  | k + 1 =>
    if l.length ≤ size then [ind ++ [128 * b2n first + 64 + ty] ++ l]
    else (ind ++ [128 * b2n first + ty] ++ l.take size) :: fragments k ind ty size false (l.drop size)

/-- The payloads that carry one NAL unit: a single packet, or fragments. -/
def ChannelCfg.unitPayloads (c : ChannelCfg) (u : List Nat) : List (List Nat) :=
  if 12 + u.length ≤ c.rtpMax then [u]
  else
    let h := u.headD 0
    if c.codec = 0 then fragments u.length [h / 128 * 128 + 98 + h % 2, u.getD 1 0] (h / 2 % 64) (c.rtpMax - 15) true (u.drop 2)
    else fragments u.length [h / 32 % 4 * 32 + 28] (h % 32) (c.rtpMax - 14) true (u.drop 1)

/-- The payloads of the non-VCL units before the first slice: aggregates of at least two units, greedily; else one unit alone. -/
def ChannelCfg.leadPayloads (n : Nat) (c : ChannelCfg) (l : List (List Nat)) : List (List Nat) :=
  match n, l with
  | k + 1, u :: t =>
    let j := aggTake (c.rtpMax - 12 - (if c.codec = 0 then 2 else 1)) (u :: t)
    if 2 ≤ j then aggregate c.codec ((u :: t).take j) :: ChannelCfg.leadPayloads k c ((u :: t).drop j)
    else c.unitPayloads u ++ ChannelCfg.leadPayloads k c t
  | _, _ => []

/-- The NAL units sent for a band (R116): the lead units with band 0, the suffix SEI with the last band. -/
def Channel.bandUnits (x : Channel) (p b : Nat) (nal : List Nat) : List (List Nat) × List (List Nat) :=
  ((if b = 0 then x.leadUnits p else []), [nal] ++ (if b + 1 = x.cfg.bandCount then x.tailUnits p else []))

/-- The payloads of a band's packets, in order. -/
def Channel.bandPayloads (x : Channel) (p b : Nat) (nal : List Nat) : List (List Nat) :=
  let u := x.bandUnits p b nal
  x.cfg.leadPayloads u.1.length u.1 ++ u.2.flatMap x.cfg.unitPayloads

/-- The packets that a band takes whose slice has `len` bytes (R215, R218). -/
def Channel.slicePackets (x : Channel) (p b len : Nat) : Nat := (x.bandPayloads p b (List.replicate len 0)).length

end Sys2Proof.Machine
end

