-- ==== Sys2Proof/Machine/TwinBands.lean ====
section
/-!
DEFINITION. What a twin does about its bands (R205–R216): divergence, the comparison of release records and what follows from each pair,
the mirror's requests, the reconcile's heads, and the input of a band as it becomes ready (R206, R207, R368).
-/
namespace Sys2Proof.Machine

/-! ## Divergence (R205, R216, R226) -/

/-- A divergence is reported (R205, R212, R226): TWIN_DIVERGE, its counter and TWN_DIV_LAST. `peerT` is the peer's tambour. -/
def State.reportDiverge (s : State) (c p b cause peerT : Nat) : State :=
  let t := (s.channel c).tambour
  let s := { s with twin := { s.twin with divLast := packFields [(7, c), (1, 0), (8, b), (3, t), (3, peerT), (4, cause)] } }
  (s.count (Reg.twn + 0x2C) 16 1).raise Src.twin Kind.twinDiverge (addrP c p b) cause

/-- A follower's channel enters DIVERGED (R202, R205, R212). -/
def State.enterDiverged (s : State) (c : Nat) : State := s.modChannel c fun x => { x with twinState := .diverged }

/-- The leader resyncs channel `c` at its next token (R216). -/
def State.resync (s : State) (c : Nat) : State :=
  { s with twin := { s.twin with resyncDue := if s.twin.resyncDue.contains c then s.twin.resyncDue else s.twin.resyncDue ++ [c] } }

/-- The 24 bytes of a RECONCILE head (R208). -/
def reconHead (op ch band pic base offset total mask : Nat) : Nat :=
  packFields [(8, op), (8, ch), (8, band), (8, 0), (32, pic), (32, base), (16, offset), (16, total), (64, mask)]

/-- The 20 bytes of a MIRROR head (R214). -/
def mirrorHead (op ch band pic offset total : Nat) : Nat :=
  packFields [(8, op), (8, ch), (8, band), (8, 0), (32, pic), (32, offset), (32, total), (32, 0)]

/-- A band whose holder sends it and this device does not uses up the holder's sequence numbers (R215, R218). -/
def State.skipNumbers (s : State) (i : BandId) (len : Nat) : State :=
  s.modBand i fun u => { u with mirror := none, seqSkip := (s.channel i.ch).slicePackets i.pic i.b len }

/-- A mirror of an earlier band of the picture has failed (R214). -/
def Pic.unsentFrom (y : Pic) (b : Nat) : Bool := match y.mirrorFailed with | some k => decide (k < b) | none => false

/-- Requests the peer's slice of a band (R212, R214): `v` is the peer's record. After a mirror of the picture has failed its later bands
are not sent. -/
def State.requestMirror (s : State) (i : BandId) (v : Nat) : State :=
  if ((s.channel i.ch).pic i.pic).unsentFrom i.b then s.skipNumbers i (recLen v)
  else (s.modBand i fun u => { u with mirror := some { crc := recCrc v, len := recLen v } }).twSend (.mirror (mirrorHead 0 i.ch i.b i.pic 0 0) [])

/-- The band's packets may leave at its release time (R210). -/
def State.allow (s : State) (i : BandId) : State := s.modBand i fun u => { u with mayLeave := true }

/-- The later bands of a picture become SKIPPED at once (R212). -/
def State.skipRest (s : State) (i : BandId) : State :=
  ((s.uncommit i.ch i.pic (i.b + 1)).skipFrom i.ch i.pic (i.b + 1) true).name (s.channel i.ch).tambour

/-- Neither device has a usable copy (R212, R213): the band counts as abandoned and the picture is uncommitted. -/
def State.countAbandoned (s : State) (i : BandId) : State :=
  let s := match (s.band i).state with
    | .coded => s.withhold i .abandoned
    | _ => s
  (s.reportLate i).uncommitAndName i.ch i.pic (i.b + 1)

/-- A resync of channel `c` is chosen already, at a picture after band `i`'s (R216): the pair tells of no new divergence. -/
def State.resyncChosen (s : State) (i : BandId) : Bool :=
  let x := s.channel i.ch
  s.twin.resyncDue.contains i.ch || x.tokens.any fun (e : Nat × Option Token) =>
    match e.2 with
    | some k => k.resync && decide (x.posOf i.pic < x.posOf e.1)
    | none => false

/-- The leader learns from a pair of records that the follower has diverged (R212, R216). -/
def State.learnDiverged (s : State) (i : BandId) : State := if s.resyncChosen i then s else s.resync i.ch

/-- The leader acts on a pair of records (R212). -/
def State.judgeLeader (s : State) (i : BandId) (own peer : Nat) : State :=
  let f := s.takeFree
  let tell (s : State) (cause : Nat) : State := s.reportDiverge i.ch i.pic i.b cause (f.1 % 8)
  match recOutcome own, recOutcome peer with
  | 0, 0 =>
    if recCrc own = recCrc peer ∧ recLen own = recLen peer then s.allow i
    else (tell (f.2.allow i) 0).learnDiverged i
  | 0, 1 => tell (f.2.allow i) 2
  | 0, _ => (tell (f.2.allow i) 5).learnDiverged i
  | 1, 0 => (tell f.2 1).requestMirror i peer
  | 1, _ => s.countAbandoned i
  | _, _ => s.reportLate i

/-- A band of a picture before the resync picture may still differ after the channel is IN_STEP again; that is no new divergence
(R216). -/
def State.beforeResync (s : State) (i : BandId) : Bool :=
  let x := s.channel i.ch
  x.tokens.any fun (e : Nat × Option Token) =>
    match e.2 with
    | some k => k.resync && decide ((x.pic e.1).named = true) && decide (x.posOf i.pic < x.posOf e.1)
    | none => false

/-- The follower acts on a pair of records (R212, R213). -/
def State.judgeFollower (s : State) (i : BandId) (own lead : Nat) : State :=
  let f := s.takeFree
  let tell (s : State) (cause : Nat) : State := s.reportDiverge i.ch i.pic i.b cause (f.1 % 8)
  let diverge (s : State) : State := if s.beforeResync i then s else s.enterDiverged i.ch
  match recOutcome lead, recOutcome own with
  | 0, 0 =>
    if recCrc own = recCrc lead ∧ recLen own = recLen lead then s.allow i
    else diverge ((tell f.2 0).requestMirror i lead)
  | 0, 1 => (tell f.2 1).requestMirror i lead
  | 0, _ => diverge (((tell f.2 3).requestMirror i lead).reportLate i)
  | 1, 0 => tell (f.2.allow i) 2
  | 1, _ => s.countAbandoned i
  | o, _ =>
    let s := match (s.band i).state with
      | .coded => s.withhold i (if o = 2 then .abandoned else .skipped)
      | _ => s
    ((s.raise Src.twin Kind.twinPeerAbandon (addrP i.ch i.pic i.b) 0).modBand i fun u => { u with outcome := if o = 2 then 1 else 2 }).skipRest i

/-- Compares a band's records once both are held (R210). -/
def State.judgePair (s : State) (i : BandId) : State :=
  let u := s.band i
  match u.ownRec, u.peerRec with
  | some own, some peer =>
    if u.judged then s
    else
      let s := s.modBand i fun u => { u with judged := true }
      if s.twin.follower then s.judgeFollower i own peer else s.judgeLeader i own peer
  | _, _ => s

/-- Bands of channel `c` whose two records wait to be compared. -/
def State.unjudged (s : State) (c : Nat) : List BandId :=
  (s.channel c).bandsWhere c fun u => !u.judged && u.ownRec.isSome && u.peerRec.isSome

/-- Compares every waiting pair of a channel; what follows may make new records, whose pairs are compared too. -/
def State.settlePairs (n : Nat) (s : State) (c : Nat) : State :=
  match n with
  | 0 => s
  | k + 1 =>
    match s.firstBand (s.unjudged c) with
    | some i => State.settlePairs k (s.judgePair i) c
    | none => s

/-- The comparisons due on a channel; a channel without a pair is left alone. -/
def State.settle (s : State) (c : Nat) : State :=
  if s.paired c then s.settlePairs (s.channel c).cfg.bandCount.succ.succ c else s

/-! ## The input of a band at its readiness (R206, R207, R368) -/

/-- A band's missing positions are filled by line repeat (R368), it becomes READY, and the scheduler names (R36, R48). `done` is when
its input became complete. -/
def State.readyNow (s : State) (i : BandId) (done : Nat) : State :=
  let x := s.channel i.ch
  let s := if x.decode then s else s.modPic i.ch i.pic fun y => y.lineRepeat x.cfg (s.pktPixels i.ch) i.b
  ((s.makeReady i done).name x.tambour).settle i.ch

/-- Requests for missing positions, at most 64 in each (R208). -/
def reconRequests (n : Nat) (i : BandId) (ks : List Nat) : List TwMsg :=
  match n, ks with
  | m + 1, k :: rest =>
    let here := (k :: rest).filter fun j => decide (j < k + 64)
    .reconcile (reconHead 0 i.ch i.b i.pic k 0 0 ((here.map fun j => 2 ^ (j - k)).sum)) [] :: reconRequests m i ((k :: rest).filter fun j => !decide (j < k + 64))
  | _, _ => []

/-- A paired band's input deadline: the snapshot is taken, and missing positions are asked of the peer (R206). -/
def State.openReconcile (s : State) (i : BandId) : State :=
  let x := s.channel i.ch
  let ks := (x.pic i.pic).missing x.cfg (s.pktPixels i.ch) i.b
  let s := s.modBand i fun u =>
    { u with reconOpen := true, asked := ks, snapped := true, held := (x.cfg.bandPositions (s.pktPixels i.ch) i.b).filter (x.pic i.pic).hasPos }
  (reconRequests ks.length i ks).foldl (fun t m => t.twSend m) s

end Sys2Proof.Machine
end

