-- ==== Sys2Proof/Machine/BandEvents.lean ====
section
/-!
DEFINITION. The band schedule's events (R27, R36, R46–R56, R63, R65, R68, R111, R164): windows, preloads, writebacks, switches, block
slots, abandons, repair passes and wakes. An event whose condition does not hold changes nothing.
-/
namespace Sys2Proof.Machine

/-- A band that the device has: an encode or decode band of a channel that runs, or drains a picture that has started (R55). -/
def State.bandRuns (s : State) (i : BandId) : Bool :=
  let x := s.channel i.ch
  decide (i.ch < 128) && decide (i.b < (x.cfgOf i.pic).bandCount) &&
    (decide (x.state = .running) || (decide (x.state = .draining) && (x.pic i.pic).started)) && (!x.decode || (x.pic i.pic).startsDec) &&
    decide (x.twinState ≠ .joining) && !(x.join && decide (i.pic < x.joinPic))

/-! ## Readiness (R36, R55) -/

/-- BAND_WINDOW_OPEN (R36): an ARRIVING band whose input is complete becomes READY as its window opens. -/
def State.windowOpens (s : State) (i : BandId) : State :=
  let x := s.channel i.ch
  match (s.band i).complete with
  | some done =>
    if s.bandRuns i && decide ((s.band i).state = .arriving) && decide (x.windowOpen i.pic i.b ≤ s.nowT) then s.readyNow i done else s
  | none => s

/-- BAND_WINDOW_OPEN. -/
def execBandWindowOpen (channel pic band : Nat) (s : State) : Host.Outcome State Fault Refusal :=
  if channel < 128 then .next (s.windowOpens ⟨channel, pic, band⟩) else .fault .noSuchUnit

/-- INPUT_COMPLEXITY (R68): once, for a band of an encode channel that has become READY. A band that reaches an outcome or its pre-analysis before
this event has been measured there. -/
def execInputComplexity (channel pic band : Nat) (s : State) : Host.Outcome State Fault Refusal :=
  if channel < 128 then .next (s.measureInput ⟨channel, pic, band⟩) else .fault .noSuchUnit

/-! ## Banks (R46) -/

/-- The prefetch of a half of the hoop window ends (R69, R96): the 96 ns of the switch that waited for its band count from now. -/
def State.prefetchDone (s : State) (t : Nat) : State :=
  let x := s.tamb t
  match x.windows.find? fun w => !w.ready with
  | none => s
  | some w =>
    let first := x.coding.isNone && decide (s.firstBand x.namedBands = some w.band)
    s.modTamb t fun x =>
      { x with windows := x.windows.map (fun v => if v.band = w.band then { v with ready := true } else v), freeAt := if first then s.nowT else x.freeAt }

/-- A descriptor of the context pump of tambour `t` has ended (R331, R350): its slot is passed, its status stands, and one that is OK counts. The slot itself
is not written, for the spec gives a context bank no address (DESIGN CHOICE, log 142). -/
def State.contextEnd (s : State) (t status : Nat) : State :=
  let s := s.modPump (8 + t) fun p => { p with lastStatus := status, done := if status = St.ok then (p.done + 1) % 2 ^ 32 else p.done }
  if (s.queue (24 + t)).valid then s.modQueue (24 + t) fun u => { u with head := (u.head + 1) % 2 ^ 32, tail := (u.tail + 1) % 2 ^ 32 } else s

/-- CONTEXT_PRELOAD_DONE (R46): the bank whose preload the context pump runs is loaded. The 96 ns of the switch that waited for that band,
or of a start from sleep, count from now (R47). -/
def State.preloadDone (s : State) (t : Nat) : State :=
  let x := s.tamb t
  match x.loads with
  | [] => s
  | k :: rest =>
    let b := x.bank k
    let first := x.coding.isNone && (match s.firstBand x.namedBands, b.band with | some i, some j => decide (i = j) | _, _ => false)
    (s.contextEnd t St.ok).modTamb t fun x =>
      { x.setBank k { b with phase := (if b.phase = .loading then .loaded else b.phase) } with loads := rest, freeAt := if first then s.nowT else x.freeAt }

/-- CONTEXT_PRELOAD_DONE: of a bank, or of the hoop window beside it (DESIGN CHOICE, log 136). -/
def execContextPreloadDone (e : PreloadEnd) (s : State) : Host.Outcome State Fault Refusal :=
  if e.tambour < 8 then .next (if e.window then s.prefetchDone e.tambour else s.preloadDone e.tambour) else .fault .noSuchUnit

/-- BANK_WRITEBACK_DONE (R46, R48, R56): the bank is free, the scheduler names into it, or the tambour sleeps. -/
def State.writebackDone (s : State) (t : Nat) : State :=
  let x := s.tamb t
  if x.bankA.phase = .writing ∨ x.bankB.phase = .writing then
    let f (b : Bank) : Bank := if b.phase = .writing then {} else b
    (((s.contextEnd t St.ok).modTamb t fun x => { x with bankA := f x.bankA, bankB := f x.bankB }).name t).sleep t
  else s

/-- BANK_WRITEBACK_DONE. -/
def execBankWritebackDone (tambour : Nat) (s : State) : Host.Outcome State Fault Refusal :=
  if tambour < 8 then .next (s.writebackDone tambour) else .fault .noSuchUnit

/-! ## The switch (R47, R66) -/

/-- The band whose bank is loaded for the next switch: the one that continues in the active bank, else the named band with the earliest deadline
once its bank is loaded. A switch that waits for a preload waits for that band. -/
def State.loadedBand (s : State) (t : Nat) : Option (BandId × Nat) :=
  let x := s.tamb t
  match x.cont with
  | some j => some (j, x.active)
  | none =>
    match s.firstBand x.namedBands with
    | some j =>
      if x.bankA.band = some j ∧ x.bankA.phase = .loaded then some (j, 0)
      else if x.bankB.band = some j ∧ x.bankB.phase = .loaded then some (j, 1)
      else none
    | none => none

/-- The band that the next switch enters: the one whose bank is loaded, once its hoop window is ready (R69, R96). -/
def State.nextBand (s : State) (t : Nat) : Option (BandId × Nat) :=
  match s.loadedBand t with
  | some r => if s.windowReady t r.1 then some r else none
  | none => none

/-- What band 0 of a picture changes as it enters CODING in a twin (R202, R216, R218): at the resync picture a DIVERGED channel is
IN_STEP again; on a survivor a DIVERGED channel is SOLO at the IDR picture. -/
def State.enterCodingTwin (s : State) (i : BandId) : State :=
  let x := s.channel i.ch
  if i.b ≠ 0 ∨ x.decode = true ∨ x.twinState ≠ .diverged then s
  else
    let re := match SMap.get (fun _ => none) x.tokens i.pic with | some k => k.resync | none => false
    if s.twin.phase = .survivor then (if (x.pic i.pic).ptype = 1 then s.modChannel i.ch fun x => { x with twinState := .solo } else s)
    else if re then s.modChannel i.ch fun x => { x with twinState := .inStep } else s

/-- A band enters CODING on bank `k` (R47, R66): pre-analysis of an encode band, which has its input complexity by now (R31), the
sequencer at address 0, the channel words. -/
def State.enterCoding (s : State) (t k : Nat) (i : BandId) : State :=
  let s := s.measureInput i
  let x := s.channel i.ch
  let waited := (s.tamb t).waited
  let idr := decide (i.b = 0) && decide ((x.pic i.pic).ptype = 1)
  let words := if idr then [] else x.words
  let s := s.modTamb t fun y =>
    let y := y.setBank k { phase := .active, band := some i }
    { y with active := k, coding := some i, cont := none, blocks := 0, waited := false, lastCh := i.ch,
             due := false, coder := {}, windows := y.windows.filter (fun w => decide (w.band = i)), seqr := y.seqr.bandStart words }
  let s := s.modBand i fun u => { u with state := .coding, start := some s.nowT, tambour := t, switchWait := waited }
  let s := if waited then s.count (Reg.tmb + 0x2000 * t + 0x18) 16 1 else s
  let s := if x.decode then s else s.startSlice t i
  s.enterCodingTwin i

/-- A band is abandoned, the scheduler names again, and the tambour sleeps where it has nothing left (R50, R56); a band that
still waited for a late clock reports that too (R27). -/
def State.abandonNow (s : State) (i : BandId) : State :=
  let t := (s.channel i.ch).tambour
  ((((s.wakeMissed i).abandon i).name t).sleep t).settle i.ch

/-- SWITCH_COMPLETE (R47): 96 ns after the end of the last band, of its repair pass, or of the preload, on a clocked tambour. A band at its abandon
point is abandoned instead (R55). -/
def State.switch (s : State) (t : Nat) : State :=
  let x := s.tamb t
  match s.nextBand t with
  | some (i, k) =>
    if x.coding.isNone && decide (x.repairs = []) && s.clocked t && !s.flt.safe && decide (x.freeAt + 96 * tauNs ≤ s.nowT) then
      if s.overAt i then s.abandonNow i else ((s.enterCoding t k i).name t).settle i.ch
    else s
  | none => s

/-- SWITCH_COMPLETE. -/
def execSwitchComplete (tambour : Nat) (s : State) : Host.Outcome State Fault Refusal :=
  if tambour < 8 then .next (s.switch tambour) else .fault .noSuchUnit

/-! ## Block slots (R65) -/

/-- An encode band reaches CODED (R55, R62, R244), with F0's measures of it (R171) and the context states that a dependent segment after it continues (R89). -/
def State.encodeDone (s : State) (t : Nat) (i : BandId) : State :=
  let q := (s.tamb t).seqr
  let z := (s.tamb t).coder
  let s := s.modChannel i.ch fun x => { x with words := (List.range 4).map (fun k => q.reg (44 + k)), segCtx := if x.cfg.wpp = 1 then z.ctxWpp else z.ctx }
  let s := if i.b = 0 then s.modChannel i.ch fun x => { x with dropNext := x.dropNext.filter fun q => !(x.pic i.pic).dropped.contains q } else s
  let s := s.modPic i.ch i.pic fun y => y.measureBand (s.channel i.ch).cfg i.b
  let s := s.modBand i fun u =>
    { u with state := .coded, coded := true, sliceBits := 8 * u.bytes, blocks := (s.tamb t).blocks, normal := !u.floor,
             openStats := packFields ((List.range 4).map fun k => (32, q.reg (48 + k))), runNs := (s.nowT - u.start.getD s.nowT) / tauNs }
  let s := s.setRegN (Reg.tmb + 0x2000 * t + 0x1C) (s.regN (Reg.tmb + 0x2000 * t + 0x1C) + 1)
  let s := s.modTamb t fun x => { x with seqr := x.seqr.discard, coder := {} }
  (((s.rcvOutcome i).pictureDone i.ch i.pic).leaveCoding t).name t

/-- A finding of R158 in a band, counted and raised once for the band (R169): 1 loss, 2 parse error. -/
def State.finding (s : State) (i : BandId) (f : Nat) : State :=
  let u := s.band i
  let bit := f - 1
  if f = 0 ∨ bitAt u.findings bit then s
  else
    (s.modBand i fun u => { u with findings := u.findings + 2 ^ bit }).raise (Src.tambour + (s.channel i.ch).tambour)
      (if f = 1 then Kind.decLoss else Kind.decParse) (addrP i.ch i.pic i.b) (if f = 1 then max 1 u.lostPkts else 1)

/-- The regions of band `b` that have been decoded or concealed: its blocks before `k`, and the bands before it that have ended. -/
def Channel.regionDone (x : Channel) (i : BandId) (k r : Nat) : Bool :=
  let c := x.cfgOf i.pic
  let row := r / (c.width / 16)
  let b := 16 * row / c.bandLines
  if b = i.b then (List.range k).any fun j => decide (c.regionOf i.b (c.blockAt i.b j) = r)
  else decide (b < i.b)

/-- Conceals region `r` of a decode band (R162–R164); `done`: the regions decoded or concealed by now. The band counts its regions by the state
that they end with (R177). -/
def State.concealRegion (s : State) (i : BandId) (r : Nat) (done : Nat → Bool) : State :=
  let x := s.channel i.ch
  let y := x.conceal i.pic r done
  let cols := x.cfg.width / 16
  let was := (x.pic i.pic).damaged r
  (s.modPic i.ch i.pic fun _ => y.modBand i.b fun u =>
    { u with concealed := u.concealed + (if was = 1 then 0 else 1), tainted := u.tainted - (if was = 2 then 1 else 0) }).ledgerBlock i.ch y.slot x.cfg none y.samples
    (16 * (r % cols)) (16 * (r / cols))

/-- The regions of band `b` that the repair pass conceals (R164): those of the CTUs that F0 has not written in full by block `k`, one region
row at a time, top first. -/
def Channel.repairOrder (x : Channel) (i : BandId) (k : Nat) : List Nat :=
  let c := x.cfgOf i.pic
  let cols := c.width / 16
  let at_ (j : Nat) : Nat := c.regionOf i.b (c.blockAt i.b j)
  let n := c.bandBlocks i.b
  let open_ := ((List.range (n - k)).map fun j => c.ctuOf (at_ (k + j)))
  let begun := (List.range n).filter fun j => open_.contains (c.ctuOf (at_ j))
  let rs := begun.map at_
  ((List.range (c.bandCoded i.b / 16)).flatMap fun v => (List.range cols).map fun u => (c.bandTop i.b / 16 + v) * cols + u).filter fun r => rs.contains r

/-- Conceals a list of regions in order; `done` has been decoded before them. -/
def State.concealAll (s : State) (i : BandId) (done : Nat → Bool) (l : List Nat) : State :=
  match l with
  | [] => s
  | r :: rest => State.concealAll (s.concealRegion i r done) i (fun v => done v || decide (v = r)) rest

/-- A block of a decode band (R158, R160): decoded, or concealed where a finding or a poisoned block (R438) marks it. -/
def State.decodeBlock (s : State) (t : Nat) (i : BandId) (d : DecBlock) : State :=
  let x := s.channel i.ch
  let c := x.cfgOf i.pic
  let k := (s.tamb t).blocks
  let pos := c.blockAt i.b k
  let r := c.regionOf i.b pos
  let x0 := 16 * pos.col
  let y0 := c.bandTop i.b + 16 * pos.row
  let s := s.modTamb t fun z => { z with blocks := k + 1 }
  let s := if d.refMissing then s.modPic i.ch i.pic fun y => { y with substitute := x.replacement i.pic } else s
  let s := if d.refMissing && !bitAt (s.band i).findings 2 then
      let first := !((s.channel i.ch).bandsOf i.pic).any fun u => bitAt u.findings 2
      let s := s.modBand i fun u => { u with findings := u.findings + 4 }
      if first then s.raise (Src.tambour + t) Kind.decRefMissing (addrP i.ch i.pic i.b) 1 else s
    else s
  let found := x.findDamage i.pic r d
  let s := match found.run with | some u => s.modPic i.ch i.pic fun y => { y with runs := u :: y.runs.filter fun v => !(decide (v.first = u.first) && decide (v.tile = u.tile)) } | none => s
  let s := (s.finding i (b2n found.loss)).finding i (2 * b2n found.parse)
  let hurt := found.loss || found.parse || (s.band i).poisoned.contains r
  let s := if hurt then s.concealRegion i r (x.regionDone i k)
    else
      let st := x.decodedState i.pic r d
      let us := fourUnits d.units
      s.modPic i.ch i.pic fun y =>
        let y := { y with samples := c.writeSamples y.samples x0 y0 d.luma d.cb d.cr, damage := SMap.set (fun _ => 0) y.damage r st,
                          vectors := SMap.set (fun _ => none) y.vectors r d.mv }
        y.modBand i.b fun u =>
          { u with tainted := u.tainted + (if st = 2 then 1 else 0), skipUnits := u.skipUnits + (us.filter (· = 0)).length,
                   intraUnits := u.intraUnits + (us.filter (· = 3)).length, qpLo := (d.qps.map Prod.fst).foldl min u.qpLo, qpHi := (d.qps.map Prod.fst).foldl max u.qpHi,
                   qpSum := u.qpSum + (d.qps.map fun e => e.1 * (e.2 : Int)).sum, qpUnits := u.qpUnits + (d.qps.map Prod.snd).sum }
  let z := (s.channel i.ch).pic i.pic
  if hurt then s else s.ledgerBlock i.ch z.slot c none z.samples x0 y0

/-- At the end of an access unit's last band the clean-source map takes its clean regions (R161). -/
def State.pictureDecoded (s : State) (c p : Nat) : State :=
  let x := s.channel c
  let y := x.pic p
  let ended := (x.bandsOf p).all fun u => match u.state with | .coded => true | .sent => true | .retired => true | .abandoned => true | _ => false
  if y.decoded || !ended || ((s.tamb x.tambour).repairs.any fun j => decide (j.ch = c) && decide (j.pic = p)) then s
  else
    let cf := x.cfgOf p
    let n := cf.width / 16 * ((cf.codedLines + 15) / 16)
    let m := (List.range n).foldl (fun m r => if y.damaged r = 0 then SMap.set (fun _ => none) m r (some p) else m) x.clean
    let s := if y.hashDiffers cf then s.raise (Src.tambour + x.tambour) Kind.decHashMismatch (addrP c p 0xFF) 1 else s
    (s.freePages c p).modChannel c fun x => { x with clean := m, dpb := (if x.dpb.contains p then x.dpb else p :: x.dpb), merge := { x.merge with lastDecoded := some p }, pics := SMap.modify (fun _ => {}) x.pics p fun y => { y with decoded := true } }

/-- A CODED decode band whose packets are all sent, or that is never output, is SENT (R55, R157). -/
def Band.outDone (u : Band) (y : Pic) : Band :=
  if u.state = .coded ∧ (y.output = false ∨ (u.released = true ∧ u.unsent = 0)) then { u with state := .sent } else u

/-- A decode band reaches CODED (R47, R55, R62): the channel words go back to the channel's slot, and the band accumulators to its entry (R244). -/
def State.decodeDone (s : State) (t : Nat) (i : BandId) : State :=
  let q := (s.tamb t).seqr
  let s := s.modChannel i.ch fun x => { x with words := (List.range 4).map fun k => q.reg (44 + k) }
  let s := s.modBand i fun u =>
    { u with state := .coded, coded := true, blocks := (s.tamb t).blocks, runNs := (s.nowT - u.start.getD s.nowT) / tauNs,
             openStats := packFields ((List.range 4).map fun k => (32, q.reg (48 + k))) }
  let s := s.setRegN (Reg.tmb + 0x2000 * t + 0x1C) (s.regN (Reg.tmb + 0x2000 * t + 0x1C) + 1)
  let s := s.modTamb t fun x => { x with seqr := x.seqr.discard }
  ((((s.pictureDecoded i.ch i.pic).modBand i fun u => u.outDone ((s.channel i.ch).pic i.pic)).leaveCoding t).name t)

/-- Band `i` is at its abandon point, and its last word is not in the spout yet (R50); a band whose POST_BAND alone is left is complete. -/
def State.tooLate (s : State) (i : BandId) : Bool :=
  let z := s.tamb (s.channel i.ch).tambour
  s.overAt i && !(decide (z.coding = some i) && z.coder.ended)

/-- BLOCK_SLOT (R65): each stitch passes its block on; the band is CODED with its last word in the spout or its last CTU (R55), and after its last hook (R240).
A band whose abandon point has passed is abandoned (R50). The work must be of the band's direction. -/
def State.slot (s : State) (t : Nat) (w : BlockWork) : State :=
  match (s.tamb t).coding, w with
  | some i, .enc =>
    if (s.channel i.ch).abandonAt i.pic i.b < s.nowT ∧ (s.tamb t).coder.ended = false then s.abandonNow i
    else if (s.channel i.ch).decode then s
    else
      let s := s.encodeSlot t i
      if s.bandOver t i then (s.encodeDone t i).settle i.ch else s
  | some i, .dec d =>
    let n := ((s.channel i.ch).cfgOf i.pic).bandBlocks i.b
    if (s.channel i.ch).abandonAt i.pic i.b < s.nowT then s.abandonNow i
    else if (s.channel i.ch).decode = false then s
    else
      let s := if (s.tamb t).blocks < n then s.decodeBlock t i d else s
      if n ≤ (s.tamb t).blocks then s.decodeDone t i else s
  | none, _ => s

/-- BLOCK_SLOT. -/
def execBlockSlot (tambour : Nat) (work : BlockWork) (s : State) : Host.Outcome State Fault Refusal :=
  if tambour < 8 then .next (s.slot tambour work) else .fault .noSuchUnit

/-! ## Late work (R50, R164) -/

/-- BAND_ABANDON (R50): at the abandon point of a READY, NAMED or CODING band. -/
def State.abandonDue (s : State) (i : BandId) : State :=
  let u := s.band i
  let open_ := match u.state with | .ready => true | .named => true | .coding => true | _ => false
  if open_ && s.tooLate i then s.abandonNow i else s

/-- BAND_ABANDON. -/
def execBandAbandon (channel pic band : Nat) (s : State) : Host.Outcome State Fault Refusal :=
  if channel < 128 then .next (s.abandonDue ⟨channel, pic, band⟩) else .fault .noSuchUnit

/-- REPAIR_PASS_END (R164): the regions of the CTUs that F0 had not written are concealed, top first; the switch counts from now. -/
def State.repairEnd (s : State) (t : Nat) : State :=
  match (s.tamb t).repairs with
  | i :: rest =>
    let x := s.channel i.ch
    let left := x.repairOrder i (s.band i).blocks
    let s := s.concealAll i (fun r => x.regionDone i (s.band i).blocks r && !left.contains r) left
    let s := s.modBand i fun u => { u with findings := if bitAt u.findings 4 then u.findings else u.findings + 16 }
    let s := s.modTamb t fun y => { y with repairs := rest, freeAt := s.nowT }
    ((s.pictureDecoded i.ch i.pic).name t).sleep t
  | [] => s

/-- REPAIR_PASS_END. -/
def execRepairPassEnd (tambour : Nat) (s : State) : Host.Outcome State Fault Refusal :=
  if tambour < 8 then .next (s.repairEnd tambour) else .fault .noSuchUnit

/-! ## Picture times (R111, R403) -/

/-- PICTURE_TIME (R111): PTP time has reached t_pic of a source picture; the TIMECODE values are kept with it. -/
def execPictureTime (channel pic : Nat) (s : State) : Host.Outcome State Fault Refusal :=
  if channel < 128 then
    let x := s.channel channel
    if x.state.live && !x.decode && decide (x.tPic pic ≤ s.nowT) && (x.pic pic).tc.isNone then
      .next (s.modPic channel pic fun y => { y with tc := some s.timeCode })
    else .next s
  else .fault .noSuchUnit

/-! ## Wakes (R27, R56) -/

/-- WAKE_START (R27, R56): one wake latency before the hoop's next opening its wake begins, with the PLL where that is off. -/
def State.wakeHoop (s : State) (h : Nat) : State :=
  match s.hoopOpening h with
  | none => s
  | some v =>
    let off := !bitAt s.pwr.hoopPll.toNat h
    let lat := if off then 20000 else 500
    if s.nowT + lat * tauNs < v then s
    else
      [2 * h, 2 * h + 1].foldl (fun s t => if s.tambEnabled t then s.needTambour t (v / tauNs) else s) s

/-- WAKE_START. -/
def execWakeStart (hoop : Nat) (s : State) : Host.Outcome State Fault Refusal :=
  if hoop < 4 then .next (s.wakeHoop hoop) else .fault .noSuchUnit

/-- HOOP_CLOCK_GOOD (R27): a waking hoop's clock is good; bands that waited for it start late, with WAKE_LATE. -/
def State.hoopGood (s : State) (h : Nat) : State :=
  if bitAt s.pwr.hoopPll.toNat h = false then s
  else
    let s := { s with pwr := { s.pwr with clkGood := s.pwr.clkGood ||| BitVec.ofNat 12 (2 ^ (1 + h)) } }
    [2 * h, 2 * h + 1].foldl (fun s t => s.clockArrives t) s

/-- HOOP_CLOCK_GOOD. -/
def execHoopClockGood (hoop : Nat) (s : State) : Host.Outcome State Fault Refusal :=
  if hoop < 4 then .next (s.hoopGood hoop) else .fault .noSuchUnit

end Sys2Proof.Machine
end

