-- ==== Sys2Proof/Machine/Pixels.lean ====
section
/-!
DEFINITION. ST 2110-20 payloads formed from a raster and read back (R208, R366, R375): sample row data headers and pixel groups, at the
carried depth of the channel.
-/
namespace Sys2Proof.Machine

/-- A run of pixel groups in one row of groups: the line its header names, the first column, and the pixels of one line it covers. -/
structure PixelRun where
  row : Nat
  col : Nat
  n   : Nat
deriving DecidableEq, Repr

/-- Samples as they are carried (R374): shifted left where the carried depth is higher. -/
def ChannelCfg.carry (c : ChannelCfg) (v : Nat) : Nat := v * 2 ^ (carriedDepth c.depth - c.depth)

/-- The samples of a run in the order of its pixel groups. -/
def ChannelCfg.runSamples (c : ChannelCfg) (get : Nat → Nat → Nat → Nat) (r : PixelRun) : List Nat :=
  if c.chroma = 3 then (List.range r.n).flatMap fun k => [get 1 (r.col + k) r.row, get 0 (r.col + k) r.row, get 2 (r.col + k) r.row]
  else if c.chroma = 2 then
    (List.range (r.n / 2)).flatMap fun k =>
      let x := r.col + 2 * k
      [get 1 (x / 2) r.row, get 0 x r.row, get 2 (x / 2) r.row, get 0 (x + 1) r.row]
  else
    (List.range (r.n / 2)).flatMap fun k =>
      let x := r.col + 2 * k
      [get 0 x r.row, get 0 (x + 1) r.row, get 0 x (r.row + 1), get 0 (x + 1) (r.row + 1), get 1 (x / 2) (r.row / 2), get 2 (x / 2) (r.row / 2)]

/-- The bytes of a run's pixel groups. -/
def ChannelCfg.runBytes (c : ChannelCfg) (get : Nat → Nat → Nat → Nat) (r : PixelRun) : List Nat :=
  bitBytes ((c.runSamples get r).map fun v => (carriedDepth c.depth, c.carry v))

/-- A sample row data header: length, F and row, continuation and offset. -/
def rowHeader (len row col : Nat) (field cont : Bool) : List Nat := beBytes 2 len ++ beBytes 2 (32768 * b2n field + row) ++ beBytes 2 (32768 * b2n cont + col)

/-- Headers and pixel groups of runs, the continuation bit on every header but the last. -/
def ChannelCfg.payload (c : ChannelCfg) (get : Nat → Nat → Nat → Nat) (field : Bool) (rs : List PixelRun) : List Nat :=
  let bodies := rs.map (c.runBytes get)
  ((List.range rs.length).flatMap fun k =>
    let r := rs.getD k ⟨0, 0, 0⟩
    rowHeader (bodies.getD k []).length r.row r.col field (decide (k + 1 < rs.length))) ++ bodies.flatten

/-- Pixels of one line that a pixel group spans. -/
def ChannelCfg.groupWidth (c : ChannelCfg) : Nat := if c.chroma = 1 then c.pgroup.2 / 2 else c.pgroup.2

/-- The runs of the pixels [a, z) in raster order, whole pixel groups each: one for each line touched; with 4:2:0 a header names the even
line of the pair. -/
def ChannelCfg.rasterRuns (c : ChannelCfg) (a z : Nat) : List PixelRun :=
  let y0 := a / c.width
  let w := max 1 c.groupWidth
  (List.range ((z - 1) / c.width + 1 - y0)).map fun k =>
    let y := y0 + k
    let lo := (max a (y * c.width) - y * c.width) / w * w
    let hi := (min z ((y + 1) * c.width) - y * c.width + w - 1) / w * w
    { row := if c.chroma = 1 then y / 2 * 2 else y, col := lo, n := min hi c.width - lo }

/-- The runs of the pixel groups [g0, g1) of a picture. -/
def ChannelCfg.groupRuns (c : ChannelCfg) (g0 g1 : Nat) : List PixelRun :=
  let rg := max 1 c.rowGroups
  let r0 := g0 / rg
  (List.range ((g1 - 1) / rg + 1 - r0)).map fun k =>
    let r := r0 + k
    let lo := max g0 (r * rg) - r * rg
    let hi := min g1 ((r + 1) * rg) - r * rg
    { row := if c.chroma = 1 then 2 * r else r, col := lo * c.groupWidth, n := (hi - lo) * c.groupWidth }

/-- Value `i` of `d` bits of a byte string, most significant bit first. -/
def sampleBits (v total d i : Nat) : Nat := v / 2 ^ (total - d * (i + 1)) % 2 ^ d

/-- The entries of a list at positions `k` with `f k`. -/
def pickIdx (l : List Nat) (f : Nat → Bool) : List Nat := ((List.range l.length).filter f).map fun k => l.getD k 0

/-- The segment that a header and its pixel groups spell. -/
def ChannelCfg.readRun (c : ChannelCfg) (row col : Nat) (bytes : List Nat) : RowSegment :=
  let d := carriedDepth c.depth
  let total := 8 * bytes.length
  let v := bytes.foldl (fun a b => a * 256 + b) 0
  let s := (List.range (total / d)).map (sampleBits v total d)
  if c.chroma = 3 then { row := row, offset := col, luma := pickIdx s fun k => k % 3 == 1, cb := pickIdx s fun k => k % 3 == 0, cr := pickIdx s fun k => k % 3 == 2 }
  else if c.chroma = 2 then
    { row := row, offset := col, luma := pickIdx s fun k => k % 2 == 1, cb := pickIdx s fun k => k % 4 == 0, cr := pickIdx s fun k => k % 4 == 2 }
  else
    { row := row, offset := col, luma := (pickIdx s fun k => decide (k % 6 < 2)) ++ pickIdx s fun k => decide (2 ≤ k % 6 ∧ k % 6 < 4),
      cb := pickIdx s fun k => k % 6 == 4, cr := pickIdx s fun k => k % 6 == 5 }

/-- The headers at the front of a payload, up to one without the continuation bit, as (length, row, column), and the bytes after them. -/
def readHeaders (n : Nat) (l : List Nat) : List (Nat × Nat × Nat) × List Nat :=
  match n, l with
  | k + 1, a :: b :: c :: d :: e :: f :: rest =>
    let h := (256 * a + b, (256 * c + d) % 32768, (256 * e + f) % 32768)
    if 128 ≤ e then
      let r := readHeaders k rest
      (h :: r.1, r.2)
    else ([h], rest)
  | _, _ => ([], l)

/-- The segments of a payload. -/
def ChannelCfg.readSegments (c : ChannelCfg) (hs : List (Nat × Nat × Nat)) (l : List Nat) : List RowSegment :=
  match hs with
  | [] => []
  | (n, row, col) :: rest => c.readRun row col (l.take n) :: c.readSegments rest (l.drop n)

/-- The segments that a payload spells. -/
def ChannelCfg.readPayload (c : ChannelCfg) (l : List Nat) : List RowSegment :=
  let r := readHeaders l.length l
  c.readSegments r.1 r.2

end Sys2Proof.Machine
end

