-- ==== Sys2Proof/Machine/Packets.lean ====
section
/-!
DEFINITION. The packetizer (R114–R118, R342–R348): packet forms, RTP headers, draining a spout, the release of bands and their capture
(R55, R115, R121, R212).
-/
namespace Sys2Proof.Machine

/-! ## RTP headers (R115) -/

/-- The 12 bytes of an RTP header. -/
def rtpHeader (marker : Bool) (pt seq ts ssrc : Nat) : List Nat := [0x80, 128 * b2n marker + pt] ++ beBytes 2 seq ++ beBytes 4 ts ++ beBytes 4 ssrc

/-- The packets of a band (bytes with sequence number 0, and M). -/
def Channel.bandPackets (x : Channel) (ch p b : Nat) (nal : List Nat) : List (List Byte × Bool) :=
  let l := x.bandPayloads p b nal
  (List.range l.length).map fun k =>
    let m := decide (b + 1 = x.cfg.bandCount) && decide (k + 1 = l.length)
    ((rtpHeader m x.cfg.pt 0 (x.rtpTsOf p) (x.ssrcOf ch) ++ l.getD k []).map (BitVec.ofNat 8), m)

/-! ## Forming packets in cells (R312, R348) -/

/-- Stores packets in cells of owner `o`: all, or none where a cell is refused. -/
def State.placePackets (s : State) (o : Nat) (ps : List (List Byte × Bool)) (got : List PktRec) : State × Option (List PktRec) :=
  match ps with
  | [] => (s, some got)
  | (bytes, m) :: rest =>
    match State.allocCells (chainLen bytes.length) s o [] with
    | (t, some cells) =>
      State.placePackets (t.storeFrame cells bytes) o rest (got ++ [{ cell := cells.headD 0, cells := cells.length, len := bytes.length, marker := m }])
    | (t, none) => (got.foldl (fun t k => t.freeCells (t.chainCells k.cells k.cell).1 o) t, none)

/-- A packet goes to flows (R371): one chain, an entry for each, before those of the packets in the cells `later`. -/
def State.sendPacket (s : State) (owner eligible : Nat) (hold : Bool) (flows later : List Nat) (k : PktRec) : State :=
  let n := flows.length - 1
  let s := { s with net := { s.net with shares := SMap.set (fun _ => 0) s.net.shares k.cell n } }
  flows.foldl (fun t f => t.efqInsert f (efqEntry k.cell k.cells k.len true owner n eligible hold) later) s

/-- The first cells of the packets formed for bands of the channel that come after band `i` in coding order. -/
def State.laterCells (s : State) (i : BandId) : List Nat :=
  let x := s.channel i.ch
  ((x.bandsWhere i.ch fun u => decide (u.packets ≠ [])).filter fun j =>
    decide (x.posOf i.pic < x.posOf j.pic) || (decide (i.pic = j.pic) && decide (i.b < j.b))).flatMap fun j => (s.band j).packets.map PktRec.cell

/-- Forms the packets of a band from a slice: whether the cells were granted. The NAL units around the slices are settled here. The packets
enter the queues of every bound flow with the band's release time as ELIGIBLE (R371), held until the release (R210; DESIGN CHOICE for a band
that is not compared with a peer's, log 137). -/
def State.formPackets (s : State) (i : BandId) (nal : List Nat) : State × Bool :=
  let s := s.modPic i.ch i.pic fun y =>
    { y with lead := (if i.b = 0 then (s.channel i.ch).leadUnits i.pic else y.lead),
             tail := (if i.b + 1 = (s.channel i.ch).cfg.bandCount then (s.channel i.ch).tailUnits i.pic else y.tail) }
  let x := s.channel i.ch
  match s.placePackets (8 + x.tambour) (x.bandPackets i.ch i.pic i.b nal) [] with
  | (t, some ps) =>
    let flows := (s.egressOf i.ch).map Prod.fst
    let t := ps.foldl (fun t k => t.sendPacket (8 + x.tambour) (x.releaseAt i.pic i.b / 6750 % 2 ^ 40) true flows (s.laterCells i) k) t
    (t.modBand i fun u => { u with packets := ps.map fun k => { k with left := flows.length }, drained := true }, true)
  | (t, none) => (t, false)

/-- An EFQ of a channel is full (R371): its packets still wait for room, and the packetizer forms no more for the channel. -/
def State.backedUp (s : State) (c : Nat) : Bool := (s.egressOf c).any fun (e : Nat × EFlow) => s.net.efqWait.any fun w => decide (w.1 = e.1)

/-! ## The band's end in the spout (R209, R214, R344, R345) -/

/-- The band sends nothing although it was coded (R345, R441): OUTCOME ABANDONED, the later bands withheld. -/
def State.withholdRest (s : State) (i : BandId) : State := (s.withhold i .abandoned).uncommitAndName i.ch i.pic (i.b + 1)

/-- CRC-32C of a list of bytes. -/
def crc32cOf (l : List Nat) : Nat := crcOf ⟨32, 0x1EDC6F41, 0xFFFFFFFF, 0xFFFFFFFF, true, true⟩ l

/-- A band that awaits its mirror at the loss (R214, R218): it sends nothing and uses up its holder's numbers. -/
def State.dropMirror (s : State) (i : BandId) (len : Nat) : State :=
  let s := (s.skipNumbers i len).raise Src.twin Kind.twinMirrorFail (addrP i.ch i.pic i.b) 0
  match (s.band i).state with
  | .coded => s.withhold i .abandoned
  | _ => s

/-- A mirrored slice mismatches or is gone (R214): the band stays unsent, and the later bands of the picture are not sent from this device. They
are still coded and compared, and the picture stays committed: its peer holds a usable copy (R213). -/
def State.mirrorFail (s : State) (i : BandId) (len : Nat) : State :=
  (s.dropMirror i len).modPic i.ch i.pic fun y => { y with mirrorFailed := some (match y.mirrorFailed with | some k => min k i.b | none => i.b) }

/-- A slice joins the mirror buffer of a paired channel, until 200 µs after its band's release time (R214). -/
def State.keepMirror (s : State) (i : BandId) (nal : List Nat) : State :=
  let e : MirrorEntry := { ch := i.ch, pic := i.pic, band := i.b, nal := nal, until_ := (s.channel i.ch).releaseAt i.pic i.b / tauNs + 200000 }
  if s.pairedBand i then { s with twin := { s.twin with mirror := s.twin.mirror ++ [e] } } else s

/-! ## Capture (R120, R121) -/

/-- Writes a band's bytes into device-owned entries (R121). `begun`: bytes of the band stand in an earlier entry. An entry
returned with LEN_ZERO for its BUF_CAP of 0 has taken no byte: the next one has CONT = 0, and FIRST = 1 for band 0, as though it were the first
(DESIGN CHOICE, log 130). -/
def State.captureBytes (n : Nat) (s : State) (q : Nat) (c : CaptureInfo) (lastBand begun : Bool) (bs : List Nat) : State :=
  match n with
  | 0 => s
  | k + 1 =>
    match s.ownedEntry q with
    | none => s.modChannel c.ch fun x => { x with captureGap := true }
    | some v =>
      let cap := bitsAt v 64 24
      if cap = 0 then State.captureBytes k (s.returnEntry q (captureEntry v c 0 St.lenZero false false begun false false 0)) q c lastBand begun bs
      else
        let here := bs.take cap
        let done := decide (bs.length ≤ cap)
        let s := s.hostWrite (bitsAt v 0 64) here.length (wordData here)
        let s := s.returnEntry q (captureEntry v c here.length St.ok (decide (c.band = 0) && !begun) (lastBand && done) begun false (s.channel c.ch).captureGap
          (crc32cOf here))
        let s := s.modChannel c.ch fun x => { x with captureGap := false }
        if done then s else State.captureBytes k s q c lastBand true (bs.drop cap)

/-- Captures a released band: its NAL units with their start codes. -/
def State.capture (s : State) (i : BandId) : State :=
  let x := s.channel i.ch
  let q := x.cfg.captureQid
  if q = 0 ∨ (s.queue q).valid = false then s
  else
    let us := x.bandUnits i.pic i.b (s.band i).nal
    let bs := (us.1 ++ us.2).flatMap fun u => [0, 0, 0, 1] ++ u
    State.captureBytes (2 * 65536 + bs.length) s q (s.captureInfo i) (decide (i.b + 1 = x.cfg.bandCount)) false bs

/-! ## Release (R55, R115, R210, R212, R219) -/

/-- A SOLO flow of channel `c` is active for picture `p` (R219): on a survivor with TAKEOVER, from the first band 0 whose release time
lies 2 µs or more after the loss. -/
def State.soloActive (s : State) (c p : Nat) : Bool :=
  let x := s.channel c
  decide (s.twin.phase = .survivor) && decide (s.field Reg.twn 2 1 = 1) && decide ((s.twin.lostAt + 2000) * tauNs ≤ x.releaseAt p 0)

/-- The active egress flows of a channel for picture `p` (R55). -/
def State.activeFlows (s : State) (c p : Nat) : List Nat :=
  ((s.egressOf c).filter fun (e : Nat × EFlow) => !e.2.solo || s.soloActive c p).map Prod.fst

/-- Writes the sequence numbers into the packets from `seq` on, in their first cells (R115). -/
def State.writeSeqs (s : State) (ps : List PktRec) (seq : Nat) : State :=
  match ps with
  | [] => s
  | k :: rest => State.writeSeqs { s with sram := Memory.writeBytes sramDefault s.sram (0x800 * k.cell + 2) ((beBytes 2 (seq % 65536)).map (BitVec.ofNat 8)) } rest (seq + 1)

/-- A flow that is not active gives up the packets of a band unsent (R390). -/
def State.giveUp (s : State) (owner : Nat) (ps : List PktRec) (f : Nat) : State :=
  ps.foldl (fun t k => if t.flowHolds k.cell f then (t.voidPackets [k.cell] f).dropChain k.cell k.cells owner else t) s

/-- The packets of a band may leave by flow `f` (R210, R371): HOLD is cleared in their entries. -/
def State.clearHold (s : State) (ps : List PktRec) (f : Nat) : State :=
  s.mapEfq f fun v => if ofPackets (ps.map PktRec.cell) v && bitAt v 104 then v - 2 ^ 104 else v

/-- Releases a band (R115): its packets take the next sequence numbers and are held no longer; with no active flow it is SENT at
once (R55), and its packets are discarded. -/
def State.releaseBand (s : State) (i : BandId) : State :=
  let x := s.channel i.ch
  let ps := (s.band i).packets
  let flows := s.activeFlows i.ch i.pic
  let seq := (x.ssrcOf i.ch + x.sentPkts) % 65536
  let idle := ((s.egressOf i.ch).map Prod.fst).filter fun f => !flows.contains f
  let s := (if flows = [] then s else s.writeSeqs ps seq).modChannel i.ch fun x => { x with sentPkts := x.sentPkts + ps.length }
  let s := s.modBand i fun u =>
    { u with released := true, seqFirst := seq, packets := ps.map fun k => { k with left := flows.length }, unsent := ps.length * flows.length,
             state := if flows = [] then .sent else u.state, outcome := 0 }
  let s := (ps.filter fun k => decide (k.left = 0)).foldl (fun t k => t.freeCells (t.chainCells k.cells k.cell).1 (8 + x.tambour)) s
  let s := idle.foldl (fun t f => t.giveUp (8 + x.tambour) ps f) s
  (flows.foldl (fun t f => t.clearHold ps f) s).capture i

/-- What the release finds of a band: it may go, it has nothing to send, or it holds up the bands after it (with the peer's record
absent, or not). -/
inductive ReleaseStep where
  | go | pass | wait | recordLate
deriving DecidableEq, Repr

/-- The mirrored slice of a band has been drained, and the band's packets may leave. -/
def Band.mirrorReady (u : Band) : Bool := u.mirrored && u.mayLeave && u.drained

/-- A band at its release time (R212). -/
def State.releaseStep (s : State) (i : BandId) : ReleaseStep :=
  let u := s.band i
  let out := decide (u.state = .abandoned) || decide (u.state = .skipped) || (decide (u.state = .retired) && decide (u.outcome ≠ 0))
  if s.pairedBand i = false then (if out then .pass else if decide (u.state = .coded) && u.drained then .go else .wait)
  else if u.mirrorReady then .go
  else if s.twin.follower then
    if u.peerRec.isNone then .recordLate
    else if u.judged && out && u.mirror.isNone then .pass
    else if u.judged && u.mayLeave && u.drained then .go
    else .wait
  else if out then .pass
  else match u.ownRec with
    | some v =>
      if recOutcome v = 0 then (if u.drained then (if u.peerRec.isNone && !u.lateTold then .recordLate else .go) else .wait)
      else if u.peerRec.isNone then .recordLate else .wait
    | none => .wait

/-- TWIN_RECORD_LATE for a band, once (R212, R227). -/
def State.tellLate (s : State) (i : BandId) : State :=
  if (s.band i).lateTold then s
  else ((s.modBand i fun u => { u with lateTold := true }).count (Reg.twn + 0x30) 16 1).raise Src.twin Kind.twinRecordLate (addrP i.ch i.pic i.b) 0

/-- A band after a failed mirror of its picture is not sent from this device (R214): it becomes SKIPPED, and uses up the numbers of the packets
that the peer sends (DESIGN CHOICE, log 133). -/
def State.keepUnsent (s : State) (i : BandId) : State :=
  let n := (s.channel i.ch).slicePackets i.pic i.b (s.band i).nal.length
  ((s.withhold i .skipped).modBand i fun u => { u with released := true }).modChannel i.ch fun x => { x with sentPkts := x.sentPkts + n }

/-- Takes one band at its release time: whether the bands after it may follow. -/
def State.releaseOne (s : State) (i : BandId) : State × Bool :=
  match s.releaseStep i with
  | .pass =>
    let s := s.modBand i fun u => { u with released := true }
    let s := if (s.band i).seqSkip = 0 then s else s.modChannel i.ch fun x => { x with sentPkts := x.sentPkts + (s.band i).seqSkip }
    ((if (s.band i).outcome = 1 then s.captureAbandon i else s), true)
  | .wait => (s, false)
  | .recordLate =>
    let t := s.tellLate i
    match t.releaseStep i with
    | .go => (t.releaseBand i, true)
    | _ => (t, false)
  | .go =>
    if ((s.channel i.ch).pic i.pic).unsentFrom i.b then (s.keepUnsent i, true)
    else if (s.band i).packets = [] then
      match s.formPackets i (s.band i).nal with
      | (t, true) => (t.releaseBand i, true)
      | (t, false) => (t, false)
    else (s.releaseBand i, true)

/-- Bands of a channel's started pictures that are not released and whose release time has come, in coding order. -/
def State.dueBands (s : State) (c : Nat) : List BandId :=
  let x := s.channel c
  let ps := (x.pics.filter fun (e : Nat × Pic) => e.2.started).map fun (e : Nat × Pic) => e.1
  let ps := ps.mergeSort fun a b => decide (x.posOf a ≤ x.posOf b)
  ps.flatMap fun p => ((List.range x.cfg.bandCount).filter fun b =>
    !((x.pic p).band b).released && decide (x.releaseAt p b ≤ s.nowT)).map fun b => ⟨c, p, b⟩

/-- Releases the due bands of a channel in order, up to one that must wait (R115, R210). -/
def State.releaseDue (s : State) (c : Nat) : State :=
  ((s.dueBands c).foldl (fun (r : State × Bool) i => if r.2 && !(r.1.band i).released then r.1.releaseOne i else r) (s, true)).1

/-- BAND_RELEASE (R36, R55, R115): PTP time has reached the release time of a band of an encode channel. -/
def execBandRelease (channel pic band : Nat) (s : State) : Host.Outcome State Fault Refusal :=
  if channel < 128 then
    let x := s.channel channel
    .next (if x.decode = false ∧ x.state.live = true ∧ x.releaseAt pic band ≤ s.nowT then s.releaseDue channel else s)
  else .fault .noSuchUnit

/-! ## Draining a spout (R342–R347) -/

/-- Takes the first word of bank `k`; the bank is empty after its last. -/
def Spout.take (p : Spout) (k : Nat) : Spout :=
  let ws := p.words.eraseP fun (e : Nat × SpoutWord) => decide (e.1 = k)
  if ws.any fun (e : Nat × SpoutWord) => decide (e.1 = k) then { p with words := ws, drained := SMap.modify (fun _ => 0) p.drained k (· + 1) }
  else { p with words := ws, closed := p.closed.erase k, drained := SMap.set (fun _ => 0) p.drained k 0 }

/-- Form S of ADDRESS (R484). -/
def addrS (n k idx : Nat) : Nat := idx % 2048 + 2048 * (k % 2) + 4096 * n

/-- The checks of a drained word (R344, R348): corrected lanes are counted, with a notice each; an uncorrectable one damages its band. -/
def State.wordChecks (s : State) (n k : Nat) (i : BandId) (corrected : Nat) (bad : Bool) : State :=
  let a := addrS n k (SMap.get (fun _ => 0) (s.spout n).drained k)
  if bad then
    if (s.band i).damaged then s
    else (s.modBand i fun u => { u with damaged := true }).raise (Src.spout + n) Kind.eccUncorr a 0
  else (List.range (min corrected 9)).foldl (fun t _ => t.raise (Src.spout + n) Kind.eccCorr a 0) (s.count (Reg.sptEccCorr + 0x10 * n) 16 (min corrected 9))

/-- The valid bytes of a word. -/
def spoutBytes (w : SpoutWord) : List Nat := recBytes w.data w.valid

/-- A word of band `i` may still be used: the band is in CODING or CODED, or its slice is mirrored, and the word is no ABANDON word (R346). -/
def State.wordLives (s : State) (i : BandId) (w : SpoutWord) : Bool :=
  !w.abandon && (decide ((s.band i).state = .coding) || decide ((s.band i).state = .coded) || (s.band i).mirrored)

/-- Bank `k` has been drained empty. -/
def Spout.emptyBank (p : Spout) (k : Nat) : Bool := !p.closed.contains k && !(decide (k = p.fill) && decide (0 < p.filled))

/-- A pump fills a drained bank with a mirrored slice, and its event closes it (R348). -/
def Spout.pumpIn (p : Spout) : Spout × Bool :=
  match p.mirrors, [p.fill, 1 - p.fill].find? p.emptyBank with
  | g :: rest, some k =>
    let here := g.left.take 131072
    let more := g.left.drop 131072
    let n := (here.length + 63) / 64
    let ws := (List.range n).map fun j =>
      let bs := (here.drop (64 * j)).take 64
      (k, ({ data := wordData bs, valid := bs.length, first := !g.begun && decide (j = 0), last := decide (more = []) && decide (j + 1 = n),
             ch := g.ch, pic := g.pic, band := g.band } : SpoutWord))
    ({ p with words := p.words ++ ws, closed := p.closed ++ [k], fill := (if k = p.fill then 1 - k else p.fill),
              mirrors := if more = [] then rest else { g with begun := true, left := more } :: rest }, true)
  | _, _ => (p, false)

/-- The pumps fill the banks of spout `n` that have been drained with what waits of mirrored slices; line 40 + n pulses (R339, R348). -/
def State.pumpMirrors (k : Nat) (s : State) (n : Nat) : State :=
  match k with
  | 0 => s
  | j + 1 =>
    let r := (s.spout n).pumpIn
    if r.2 then State.pumpMirrors j { (s.modSpout n fun _ => r.1) with pulses := { line := 40 + n, tag := 0, err := false } :: s.pulses } n else s

/-- The fragments of a slice that its first `n` bytes fill, when more of it follow (R114). -/
def ChannelCfg.fragmentsFilled (c : ChannelCfg) (n : Nat) : Nat :=
  if 12 + n ≤ c.rtpMax then 0 else if c.codec = 0 then (n - 3) / (c.rtpMax - 15) else (n - 2) / (c.rtpMax - 14)

/-- Cells for the packets that the first `n` bytes of an unfinished slice fill: whether they are granted (R348, R371). -/
def State.cellsFor (s : State) (i : BandId) (n : Nat) : State × Bool :=
  let x := s.channel i.ch
  let want := x.cfg.fragmentsFilled n * chainLen x.cfg.rtpMax - (s.band i).cells.length
  if want = 0 then (s, true)
  else if s.backedUp i.ch then (s, false)
  else match s.allocCells want x.packetOwner [] with
    | (t, some cells) => (t.modBand i fun u => { u with cells := u.cells ++ cells }, true)
    | (t, none) => (t, false)

/-- The packetizer has drained a band's last word: a damaged band sends nothing (R345) or in a twin its DAMAGED record (R209); a corrupt
one is withheld (R441); the record of an intact one is formed. A mirrored slice leaves (R215), or is left unsent where it is damaged. -/
def State.sliceDrained (s : State) (i : BandId) : State :=
  let u := s.band i
  if u.mirrored then (if u.damaged then s.mirrorFail i u.nal.length else (s.keepMirror i u.nal).releaseDue i.ch)
  else if u.damaged then
    if s.pairedBand i then ((s.modBand i fun u => { u with drained := true }).ownRecord i 1 0 0).settle i.ch else s.withholdRest i
  else if u.corrupt then s.withholdRest i
  else
    let s := s.modBand i fun u => { u with sliceCrc := crc32cOf u.nal }
    ((s.keepMirror i u.nal).ownRecord i 0 (crc32cOf u.nal) u.nal.length).settle i.ch

/-- The packetizer takes one word of the first closed bank (R342). Where a word fills a packet and a cell is refused, or an EFQ
is full, the word stays (R348, R371). -/
def State.drainWord (s : State) (n corrected : Nat) (bad : Bool) : State :=
  match (s.spout n).closed.head? with
  | none => s
  | some k =>
    match (s.spout n).words.find? fun (e : Nat × SpoutWord) => decide (e.1 = k) with
    | none => s.modSpout n fun p => p.take k
    | some e =>
      let w := e.2
      let i : BandId := ⟨w.ch, w.pic, w.band⟩
      let nal := (s.band i).nal ++ spoutBytes w
      let lives := s.wordLives i w
      let forms := lives && w.last && !bad && !(s.band i).damaged && !(s.band i).corrupt
      let f := if forms then (if s.backedUp i.ch then (s, false) else (s.giveCells i).formPackets i nal)
        else if lives && !w.last && !bad && !(s.band i).damaged && !(s.band i).corrupt then s.cellsFor i nal.length else (s, true)
      if f.2 = false then f.1
      else
        let t := ((f.1.wordChecks n k i corrected bad).modSpout n fun p => p.take k).pumpMirrors 2 n
        if lives = false then t
        else
          let t := t.modBand i fun u => { u with nal := nal }
          if w.last then t.sliceDrained i else t

/-- PACKETIZER_DRAIN (R342, R344–R348); no bank drains in the safe state, nor while the spout's drain side or
the packetizer is asleep (R26). -/
def execPacketizerDrain (tambour corrected : Nat) (uncorrectable : Bool) (s : State) : Host.Outcome State Fault Refusal :=
  if tambour < 8 then .next (if s.flt.safe ∨ s.asleep (Src.spout + tambour) = true ∨ s.asleep Src.packetizer = true then s else s.drainWord tambour corrected uncorrectable) else .fault .noSuchUnit

end Sys2Proof.Machine
end

