-- ==== Sys2Proof/Machine/TwilanRx.lean ====
section
/-!
DEFINITION. The Twilan link's events (R192–R197): the link's changes, frames received, LINK frames, retransmission; and the messages that
wait for their class.
-/
namespace Sys2Proof.Machine

/-- Changes the link. -/
def State.modLink (s : State) (f : TwilanSt → TwilanSt) : State := { s with twin := { s.twin with link := f s.twin.link } }

/-- `a` comes before `b` among frame numbers (mod 2^16). -/
def fseqBefore (a b : Nat) : Bool := let d := (65536 + b - a % 65536) % 65536; decide (0 < d ∧ d < 32768)

/-- The heartbeats carry READY = 1 (R217). -/
def State.twinReady (s : State) : Bool := decide (s.rst.state = .running) && !s.flt.safe && decide (s.twin.phase ≠ .yielded)

/-- HELLO as this device sends it (R199): the leader's carries the SESSION. -/
def State.helloMsg (s : State) : TwMsg := .hello 1 (if s.twin.follower then 0 else s.twin.session) s.twinReady (!s.twin.follower)

/-- This device takes part in a start: it is LINKING, or a survivor whose REJOIN has been accepted (R201, R221). -/
def State.awaitsHello (s : State) : Bool := decide (s.twin.phase = .linking) || (decide (s.twin.phase = .survivor) && s.twin.rejoin)

/-- TWILAN_LINK_UP (R192, R199, R451): a fresh link; HELLO is sent; interrupt source 48. -/
def execTwilanLinkUp (s : State) : Host.Outcome State Fault Refusal :=
  if s.twin.link.up then .next s
  else
    let t := (s.modLink fun l => { up := true, wire := l.wire, lastTx := s.now }).assertIrq 48
    .next (if t.awaitsHello then t.twSend t.helloMsg else t)

/-- TWILAN_LINK_DOWN (R223): LINK_UP falls; nothing is sent until the link is up again; interrupt source 48. -/
def execTwilanLinkDown (s : State) : Host.Outcome State Fault Refusal :=
  if s.twin.link.up then
    .next (({ s with twin := { s.twin with peerHello := none } }.modLink fun l => { l with up := false, outstanding := [], waiting := [] }).assertIrq 48)
  else .next s

/-! ## Frames -/

/-- Fields of a frame's header (R193). -/
def twHdrClass (h : Nat) : Nat := bitsAt h 0 4
def twHdrVersion (h : Nat) : Nat := bitsAt h 4 4
def twHdrNak (h : Nat) : Bool := bitAt h 9
def twHdrFseq (h : Nat) : Nat := bitsAt h 16 16
def twHdrAck (h : Nat) : Nat := bitsAt h 32 16
def twHdrLen (h : Nat) : Nat := bitsAt h 48 13
def twHdrSession (h : Nat) : Nat := bitsAt h 64 32

/-- HCRC over header bytes 0x00–0x0E and the trailer. -/
def twHcrcOk (f : RxTwilan) : Bool :=
  decide (bitsAt f.hdr 120 8 = twHcrc f.hdr f.trailer)

/-- PCRC of the payload, whose length is LEN. -/
def twPcrcOk (f : RxTwilan) : Bool :=
  decide (f.payload.length = twHdrLen f.hdr) && decide (f.trailer % 2 ^ 32 = twPcrc (f.payload.map BitVec.toNat))

/-- The message that a frame's payload spells (R193, R204, R208, R209, R214, R217): of a TIME or CONTROL frame the operand says it. A payload whose
length does not fit its class spells none (DESIGN CHOICE, log 133). -/
def twMessage (f : RxTwilan) : Option TwMsg :=
  let v := wordData (f.payload.map BitVec.toNat)
  let bs := f.payload.map BitVec.toNat
  let n := bs.length
  match twHdrClass f.hdr with
  | 1 => if n = 208 then some (.ledger v) else none
  | 2 => if 24 ≤ n then some (.reconcile (v % 2 ^ 192) (if v % 4 = 1 then (bs.drop 24).take (bitsAt v 128 16) else [])) else none
  | 3 => if 0 < n ∧ n ≤ 256 ∧ n % 16 = 0 then some (.release ((List.range (n / 16)).map fun k => bitsAt v (128 * k) 128)) else none
  | 4 => if 20 ≤ n then some (.mirror (v % 2 ^ 160) (if v % 4 = 1 then (bs.drop 20).take (bitsAt v 96 24 - bitsAt v 64 24) else [])) else none
  | 5 => if n = 16 then some (.heartbeat v) else none
  | k => match f.text with
    | some m => if twClass m = k then some m else none
    | none => none

/-- HELLO and CHECK frames are delivered whatever their VERSION, and a HELLO whatever its SESSION: R199 judges the first, and the
leader's HELLO brings the second. -/
def twHello (f : RxTwilan) : Bool := match f.text with | some (.hello _ _ _ _) => true | _ => false
def twCheck (f : RxTwilan) : Bool := match f.text with | some (.check _ _ _ _ _ _) => true | _ => twHello f

/-- The frame's SESSION is the current one. -/
def State.sessionOk (s : State) (f : RxTwilan) : Bool := twHello f || decide (twHdrSession f.hdr = s.twin.session)

/-- An outstanding frame is sent again, ahead of every class (R195). -/
def State.twResend (s : State) (fseq : Nat) : State :=
  match s.twin.link.outstanding.find? (fun o => decide (o.fseq = fseq)) with
  | none => s
  | some o =>
    let w := twSent fseq true false s.twin.link.expect s.twin.session (some o.msg)
    (s.modLink fun l =>
      { l with outstanding := l.outstanding.map (fun p => if p.fseq = fseq then { p with sentAt := s.now } else p), lastTx := s.now, wire := w :: l.wire }).count
        (Reg.twn + 0x28) 16 1

/-- A NAK for a missing number (R195): at most one in 2 µs for each. -/
def State.sendNak (s : State) (fseq : Nat) : State :=
  match SMap.get (fun _ => none) s.twin.link.nakAt fseq with
  | some t => if s.now < t + 2000 then s else go s
  | none => go s
where
  go (s : State) : State :=
    if s.flt.safe then s
    else s.modLink fun l =>
      { l with nakAt := SMap.set (fun _ => none) l.nakAt fseq (some s.now), lastTx := s.now,
               wire := twSent l.nextFseq false true fseq s.twin.session none :: l.wire }

/-- The peer acknowledges every frame before `ack`; what waited may be sent. -/
def State.takeAck (s : State) (ack : Nat) : State :=
  let t := s.modLink fun l => { l with outstanding := l.outstanding.filter fun o => !fseqBefore o.fseq ack }
  State.twPump t.twin.link.waiting.length t

/-- Frame numbers below `fseq` that have not been accepted. -/
def TwilanSt.missing (l : TwilanSt) (fseq : Nat) : List Nat :=
  ((List.range ((65536 + fseq - l.expect) % 65536)).map fun k => (l.expect + k) % 65536).filter fun k => !l.above.contains k

/-- A frame number has been accepted already. -/
def TwilanSt.accepted (l : TwilanSt) (fseq : Nat) : Bool := fseqBefore fseq l.expect || l.above.contains fseq

/-- Moves `expect` over the accepted numbers. -/
def TwilanSt.advance (n : Nat) (l : TwilanSt) : TwilanSt :=
  match n with
  | 0 => l
  | k + 1 =>
    if l.above.contains l.expect then
      TwilanSt.advance k { l with above := l.above.filter (· ≠ l.expect), nakAt := SMap.set (fun _ => none) l.nakAt l.expect none, expect := (l.expect + 1) % 65536 }
    else l

/-- Marks a frame number accepted. -/
def TwilanSt.mark (l : TwilanSt) (fseq : Nat) : TwilanSt := TwilanSt.advance (l.above.length + 1) { l with above := l.above ++ [fseq] }

/-- A good frame of the session: what its ACK field says is done, missing numbers are asked for, and a frame that is new is accepted
and delivered; its payload takes cells of owner 18, without which it is not accepted (R194, R195, R319). -/
def State.takeFrame (s : State) (f : RxTwilan) : State :=
  let h := f.hdr
  let s := if twHdrNak h then s.twResend (twHdrAck h) else s.takeAck (twHdrAck h)
  let q := twHdrFseq h
  if (s.twin.link.accepted q || decide (twHdrClass h = 0)) then
    if twHdrClass h = 0 ∧ s.twin.link.accepted q = false then (s.twin.link.missing q).foldl (fun t k => t.sendNak k) s else s
  else
    let s := (s.twin.link.missing q).foldl (fun t k => t.sendNak k) s
    if (twHdrVersion h ≠ 1 ∧ twCheck f = false) ∨ 8 ≤ twHdrClass h then s.modLink fun l => l.mark q
    else match twMessage f with
      | none => s.modLink fun l => l.mark q
      | some m =>
        match State.allocCells (chainLen f.payload.length) s 18 [] with
          | (t, none) => t
          | (t, some cells) => (t.storeFrame cells f.payload).modLink fun l => { l.mark q with delivered := l.delivered ++ [{ msg := m, cells := cells, at_ := s.nowQ }] }

/-- What a receiver does with a frame (R194). -/
def State.receiveTwilan (s : State) (f : RxTwilan) : State :=
  let q := twHdrFseq f.hdr
  if s.twin.link.up = false then s
  else if twHcrcOk f = false then (s.count (Reg.twn + 0x20) 16 1).raise Src.twilan Kind.hdrDamaged 0 q
  else if twPcrcOk f = false then
    let t := (s.count (Reg.twn + 0x24) 16 1).raise Src.twilan Kind.payloadDamaged 0 q
    if t.twin.link.accepted q ∨ twHdrClass f.hdr = 0 then t else t.sendNak q
  else if s.sessionOk f = false then s
  else s.takeFrame f

/-- TWILAN_FRAME_RECEIVE (R194). -/
def execTwilanFrameReceive (f : RxTwilan) (s : State) : Host.Outcome State Fault Refusal := .next (s.receiveTwilan f)

/-- TWILAN_LINK_FRAME (R195): 0.5 µs after the last frame a sender with nothing to send transmits a LINK frame; in the safe state it
does not (R490). -/
def execTwilanLinkFrame (s : State) : Host.Outcome State Fault Refusal :=
  let l := s.twin.link
  if l.up = false ∨ s.flt.safe = true ∨ l.waiting ≠ [] ∨ s.now < l.lastTx + 500 then .next s
  else .next (s.modLink fun l =>
    { l with lastTx := s.now, wire := twSent l.nextFseq false false l.expect s.twin.session none :: l.wire })

/-- TWILAN_RETRANSMIT (R195): a frame that has not been acknowledged for 4 µs. -/
def execTwilanRetransmit (fseq : Nat) (s : State) : Host.Outcome State Fault Refusal :=
  let due := s.twin.link.outstanding.any fun o => decide (o.fseq = fseq) && decide (o.sentAt + 4000 ≤ s.now)
  if fseq < 65536 then .next (if s.twin.link.up && due && !s.flt.safe then s.twResend fseq else s) else .fault .noSuchUnit

/-! ## Messages that wait for their class -/

/-- Takes the oldest delivered message that passes `f`; its cells are freed. -/
def State.takeMsg (s : State) (f : TwMsg → Bool) : State × Option TwDelivered :=
  match s.twin.link.delivered.find? fun d => f d.msg with
  | none => (s, none)
  | some d => ((s.modLink fun l => { l with delivered := l.delivered.eraseP fun d => f d.msg }).freeCells d.cells 18, some d)

/-- Runs `f` on the oldest delivered message for which it answers; with none nothing happens. -/
def State.onMsg (s : State) (p : TwMsg → Bool) (f : State → TwDelivered → State) : State :=
  match s.takeMsg p with
  | (t, some d) => f t d
  | (_, none) => s

end Sys2Proof.Machine
end

