-- ==== Sys2Proof/Machine/NetRx.lean ====
section
/-!
DEFINITION. Receive: the checks of a frame (R357), classification (R358, R359), the policer (R361), measurement (R183, R184), and the
landing of ST 2110-20 packets (R365–R367).
-/
namespace Sys2Proof.Machine

/-! ## Classification -/

/-- An ingress flow entry matches a frame of port `port` (R358). -/
def IFlow.matches (f : IFlow) (port : Nat) (k : RxKeys) : Bool :=
  f.bound && decide (f.port = port) && decide (k.vlanTags < 2) && (f.vlanAny || (decide (k.vlanTags = 1) && decide (k.vid = f.vid))) && (f.ipv6 == k.ipv6) &&
    decide (f.dstAddr = k.dstAddr) && decide (f.dstPort = k.dstPort) && (f.srcAny || decide (f.srcAddr = k.srcAddr))

/-- The flow of a frame: entries that name the source go first, then the lower number (R358). -/
def State.classify (s : State) (port : Nat) (k : RxKeys) : Option Nat :=
  let l := s.net.iflows.filter fun (e : Nat × IFlow) => e.2.matches port k
  match l.find? fun (e : Nat × IFlow) => !e.2.srcAny with
  | some e => some e.1
  | none => (l.head?).map Prod.fst

/-- The policer's bucket in units of 1/8,000,000,000 byte (R361). -/
abbrev bucketUnit := 8000000000

/-- DETAIL of the network kinds (R485): flow and port. -/
def flowDetail (flow port : Nat) : Nat := flow % 2048 + 65536 * port

/-- The measures of an admitted packet (R183, R184). -/
def Measure.arrival (m : Measure) (kind cmax vfull octets gaps : Nat) (x : FlowSample) : Measure :=
  let m := { m with packets := satInc 32 m.packets, octets := satAdd 48 m.octets octets, gaps := satAdd 16 m.gaps gaps }
  let m := { m with jitMin := some (match m.jitMin with | some v => min v x.jitter | none => x.jitter),
                    jitMax := some (match m.jitMax with | some v => max v x.jitter | none => x.jitter),
                    jitSum := m.jitSum + x.jitter, jitN := m.jitN + 1, jitLast := x.jitter,
                    frames := if x.first && decide (kind ≠ 2) then satInc 32 m.frames else m.frames }
  if kind ≠ 0 then m
  else { m with cinst := min 65535 (max m.cinst x.cinst), vrx := min 65535 (max m.vrx x.vrx), cViol := satAdd 16 m.cViol (b2n (decide (cmax < x.cinst))),
                vViol := satAdd 16 m.vViol (b2n (decide (vfull < x.vrx)) + x.empty) }

/-- RTP sequence numbers missing before `seq` on a path (R183): counted when a later number arrives. -/
def seqGaps (last : Option Nat) (seq : Nat) : Nat :=
  match last with
  | some l => let d := (65536 + seq - l) % 65536; if 1 ≤ d ∧ d < 32768 then d - 1 else 0
  | none => 0

/-- The receive time that a port stamps (R396, R424): `ts` is the moment of the timestamp point at the SerDes. -/
def State.rxStamp (s : State) (port ts : Nat) : Nat := ofSigned 40 ((ts : Int) - toSigned 16 (s.field (Reg.timePortLat + 4 * port) 16 16))

/-- The τ of a 40-bit time in 0.25 ns, within ±137 s of the present (R364). -/
def State.stampT (s : State) (v : Nat) : Nat := ((s.nowQ : Int) + toSigned 40 (ofSigned 40 ((v : Int) - (s.nowQ : Int)))).toNat * (tauNs / 4)

/-- The picture whose RTP timestamp is `ts`, of those nearest to the present (R366): none where no source picture has it. -/
def Channel.picOfTs (x : Channel) (now ts : Nat) : Option Nat :=
  let t90 : Int := (now / 300000000 : Nat)
  let d := toSigned 32 (ofSigned 32 ((ts : Int) - t90))
  let t := t90 + d
  let p := (t * 300000000 + (x.cfg.periodT : Int) - 1) / (x.cfg.periodT : Int) - (x.index0 : Int)
  if t < 0 ∨ p < 0 then none
  else if x.tPic p.toNat / 300000000 = t.toNat then some p.toNat else none

/-- The position that an ST 2110-20 packet's first header names (R365). -/
def ChannelCfg.positionIn (c : ChannelCfg) (pp : Nat) (bs : List Byte) (body : Nat) : Nat :=
  (beAt bs (body + 4) 2 % 32768 * c.width + beAt bs (body + 6) 2 % 32768) / max 1 pp

/-- The measurement of an admitted packet of flow `n` (R183, R184); intervals that have ended close first. -/
def State.meterPacket (s : State) (port n : Nat) (f : RxFrame) (i : RxInfo) : State :=
  let s := s.endIntervals 1 n
  let seq := beAt f.bytes (i.rtpOfs + 2) 2
  let ts := beAt f.bytes (i.rtpOfs + 4) 4
  let last := SMap.get (fun _ => none) s.codec.lastSeq n
  let tags := match i.keys with | some k => k.vlanTags | none => 0
  let later := match last with | some l => decide ((65536 + seq - l) % 65536 < 32768) | none => true
  let at_ := s.stampT (s.rxStamp port f.rxTs)
  let aligned := match (s.iflow n).channel with
    | some c => match (s.channel c).picOfTs s.nowT ts with | some p => (s.channel c).tPic p | none => rtpTime s.nowT ts
    | none => rtpTime s.nowT ts
  let r := s.flowArrival n at_ (beAt f.bytes (i.rtpOfs + 8) 4) ts aligned ((s.flowCfg n).positionIn (s.iflow n).pktPixels f.bytes (rtpBody f.bytes i.rtpOfs))
  let s := s.meter 1 n fun m => m.arrival (s.iflow n).kind (s.flowCmax n) (s.flowVrxFull n) (f.bytes.length - 14 - 4 * tags) (seqGaps last seq) r.2
  let s := { s with codec := { s.codec with meters := SMap.set (fun _ => {}) s.codec.meters n r.1 } }
  if later then { s with codec := { s.codec with lastSeq := SMap.set (fun _ => none) s.codec.lastSeq n (some seq) } } else s

/-! ## FRAME_RECEIVE (R357) -/

/-- One of a port's receive counters adds 1 (R386). -/
def State.rxCount (s : State) (reg port : Nat) : State := s.count (reg + 0x1000 * port) 32 1

/-- Cells of owner `o` for a frame's bytes, or the drop at check 7. -/
def State.landFrame (s : State) (port o : Nat) (bytes : List Byte) : State × Option (List Nat) :=
  match State.allocCells (chainLen bytes.length) s o [] with
  | (t, some cells) => (t.storeFrame cells bytes, some cells)
  | (t, none) => (t.rxCount Reg.netRxNoCell port, none)

/-- A pass-through frame takes cells of owner 20, and the chain it arrived in is freed (R311, R364); none where they are refused. A frame whose chain word
fails its check is discarded (R356). -/
def State.passFrame (s : State) (out v : Nat) : State × Bool :=
  let n := bitsAt v 14 3
  let len := bitsAt v 17 14
  let r := s.chainCells n (bitsAt v 0 14)
  if r.2 = false then
    ((s.freeCells r.1 (bitsAt v 43 3)).raise (Src.port + bitsAt v 43 3) Kind.cellChainBad (0x800 * r.1.getLast?.getD 0) (bitsAt v 43 3), true)
  else match State.allocCells (chainLen len) s 20 [] with
  | (t, some cells) =>
    let t := t.storeFrame cells (s.loadFrame r.1 len)
    ((t.freeCells r.1 (bitsAt v 43 3)).efqPut out (efqEntry (cells.headD 0) cells.length len false 20 0 0 false), true)
  | (t, none) => (t, false)

/-- Pass-through frames that waited for cells, oldest first (R319). -/
def State.retryPass (n : Nat) (s : State) : State :=
  match n, s.net.passWait with
  | k + 1, (out, v) :: rest =>
    match { s with net := { s.net with passWait := rest } }.passFrame out v with
    | (t, true) => State.retryPass k t
    | (t, false) => { t with net := { t.net with passWait := (out, v) :: rest } }
  | _, _ => s

/-- An admitted frame of flow `n` lands in the port's cells and enters its queue (R364); a frame for a full IFQ is dropped. A pass-through
frame goes on to its target. -/
def State.admitFrame (s : State) (port n : Nat) (f : RxFrame) (i : RxInfo) : State :=
  let w := s.iflow n
  match s.landFrame port port f.bytes with
  | (t, none) => t
  | (t, some cells) =>
    let v := ifqEntry (cells.headD 0) cells.length f.bytes.length n port i.rtpOfs (s.rxStamp port f.rxTs)
    if w.kind = 2 ∧ w.pass = true then
      if (t.eflow w.passFlow).bound then State.retryPass (t.net.passWait.length + 1) { t with net := { t.net with passWait := t.net.passWait ++ [(w.passFlow, v)] } }
      else t.freeCells cells port
    else if (t.queue (ifqId n)).full then (t.rxCount Reg.netRxNoCell port).freeCells cells port
    else t.putEntry (ifqId n) v

/-- Checks 6 and 7 for a frame of flow `n`. -/
def State.policeFrame (s : State) (port n : Nat) (f : RxFrame) (i : RxInfo) : State :=
  let w := s.iflow n
  if w.rate ≠ 0 ∧ w.bucket < rxLen f * bucketUnit then
    (((s.endIntervals 1 n).modIflow n fun w => { w with drops := w.drops + 1 }).meter 1 n fun m => { m with drops := satInc 32 m.drops }).raise Src.ingress Kind.policerDrop 0
      (flowDetail n port)
  else
    let s := if w.rate = 0 then s else s.modIflow n fun w => { w with bucket := w.bucket - rxLen f * bucketUnit }
    (s.meterPacket port n f i).admitFrame port n f i

/-- A frame for firmware (R359, R363, R397): a PTP message waits for it; any other is handled at once, and a membership query makes reports
due. -/
def State.firmwareFrame (s : State) (port : Nat) (f : RxFrame) (i : RxInfo) : State :=
  match s.landFrame port 19 f.bytes with
  | (t, none) => t
  | (t, some cells) =>
    if i.firmware = 1 then
      let v := ifqEntry (cells.headD 0) cells.length f.bytes.length 0 port i.rtpOfs (s.rxStamp port f.rxTs)
      { t with net := { t.net with fwRx := t.net.fwRx ++ [(port, v)] } }
    else
      let t := match i.query with
        | some q => { t with net := { t.net with members := dueReports port q.1 q.2 [] t.net.members } }
        | none => t
      t.freeCells cells 19

/-- A port's MAC address, the first octet in bits [7:0] (R385). -/
def State.portMac (s : State) (port : Nat) : Nat := s.regN (Reg.netMac + 0x1000 * port) + 2 ^ 32 * s.field (Reg.netMac + 4 + 0x1000 * port) 0 16

/-- A frame without a flow is for firmware (R359): by its protocol, or as it names the port's own address. -/
def State.forFirmware (s : State) (port : Nat) (f : RxFrame) (i : RxInfo) : Bool :=
  decide (i.firmware ≠ 0) || decide (wireAt f.bytes 0 6 = s.portMac port)

/-- What the FEC decoder found up to the end of a frame (R383, R386). -/
def State.takeFec (s : State) (port : Nat) (f : RxFrame) : State :=
  ((s.count (0x30064 + 0x1000 * port) 32 f.fecCorr).count (0x30068 + 0x1000 * port) 32 f.fecUncorr).modPort port fun p => { p with hiSer := f.hiSer }

/-- A received frame passes the checks of R357 in order. -/
def State.receiveFrame (s : State) (port : Nat) (f : RxFrame) : State :=
  let s := (s.takeFec port f).rxCount Reg.netRxFrames port
  let i := parseFrame f.bytes
  if f.fcsOk = false ∨ f.fecUncorr ≠ 0 then s.rxCount Reg.netRxFcsErr port
  else if rxLen f < 64 ∨ s.portFrame port < rxLen f then s.rxCount Reg.netRxSizeErr port
  else if i.pause then s.rxCount Reg.netRxPause port
  else if i.csumOk = false then s.rxCount Reg.netRxCsumErr port
  else match (match i.keys with | some k => s.classify port k | none => none) with
    | some n => s.policeFrame port n f i
    | none => if s.forFirmware port f i then s.firmwareFrame port f i else s.rxCount Reg.netRxNoFlow port

/-- FRAME_RECEIVE (R357): on a port whose link is up; the port's classifier is woken (R26). -/
def execFrameReceive (port : Nat) (f : RxFrame) (s : State) : Host.Outcome State Fault Refusal :=
  if port < 8 then .next (if (s.port port).linkUp then (s.wakeBlock (Src.port + port)).receiveFrame port f else s) else .fault .noSuchUnit

/-! ## ST 2110-20 landing (R365–R367) -/

/-- A segment lies in the picture. -/
def ChannelCfg.segmentFits (c : ChannelCfg) (g : RowSegment) : Bool := decide (g.row < c.lines) && decide (g.offset + (if c.chroma = 1 then g.luma.length / 2 else g.luma.length) ≤ c.width)

/-- The lines of a segment: 4:2:0 pixel groups span two. -/
def ChannelCfg.segmentEnd (c : ChannelCfg) (g : RowSegment) : Nat := if c.chroma = 1 then min c.lines (g.row + 2) else g.row + 1

/-- A stored sample: 9- and 11-bit channels keep the upper bits of the stream's (R366). -/
def ChannelCfg.sampleOf (c : ChannelCfg) (v : Nat) : Nat := v / 2 ^ (carriedDepth c.depth - c.depth) % 2 ^ c.depth

/-- Writes a run of samples of a component at line `y` from column `x` on. -/
def putRun (c : ChannelCfg) (m : SMap Nat) (comp x y : Nat) (vs : List Nat) : SMap Nat :=
  match vs with
  | [] => m
  | v :: rest => putRun c (SMap.set (fun _ => 0) m (sampleKey comp x y) (c.sampleOf v)) comp (x + 1) y rest

/-- Writes a segment. With 4:2:0 the luma list gives line `row` and then line `row` + 1, and chroma their common line. -/
def Pic.writeSegment (p : Pic) (c : ChannelCfg) (g : RowSegment) : Pic :=
  let n := g.luma.length
  let m :=
    if c.chroma = 1 then
      let m := putRun c p.samples 0 g.offset g.row (g.luma.take (n / 2))
      let m := putRun c m 0 g.offset (g.row + 1) (g.luma.drop (n / 2))
      putRun c (putRun c m 1 (g.offset / 2) (g.row / 2) g.cb) 2 (g.offset / 2) (g.row / 2) g.cr
    else
      let m := putRun c p.samples 0 g.offset g.row g.luma
      putRun c (putRun c m 1 (g.offset / c.subH) g.row g.cb) 2 (g.offset / c.subH) g.row g.cr
  { p with samples := m }

/-- A band still takes samples: it is ARRIVING and no snapshot of its bitmap has been taken (R206, R366). -/
def Band.takesInput (u : Band) : Bool := decide (u.state = .arriving) && !u.snapped

/-- The bands of a segment's lines all still take samples. -/
def Pic.segmentOpen (p : Pic) (c : ChannelCfg) (g : RowSegment) : Bool :=
  (p.band (g.row / c.bandLines)).takesInput && (p.band ((c.segmentEnd g - 1) / c.bandLines)).takesInput

/-- Bands that have become complete record when (R36). -/
def Pic.markComplete (p : Pic) (c : ChannelCfg) (pp now : Nat) (bs : List Nat) : Pic :=
  bs.foldl (fun q b => if (q.band b).takesInput && (q.band b).complete.isNone && q.bandComplete c pp b then q.modBand b fun u => { u with complete := some now } else q) p

/-- The bands that position `k` touches. -/
def ChannelCfg.bandsOfPos (c : ChannelCfg) (pp k : Nat) : List Nat :=
  let a := k * pp / c.width / c.bandLines
  let z := (min ((k + 1) * pp) (c.width * c.lines) - 1) / c.width / c.bandLines
  (List.range (z + 1 - a)).map (· + a)

/-- One of the landing kinds is raised (R391). -/
def State.landNotice (s : State) (kind flow : Nat) : State := s.raise Src.ingress kind 0 (flowDetail flow (s.iflow flow).port)

/-- What the ingress writer does with a packet for picture `p` of channel `c` (R366, R367). -/
def State.landPacket (s : State) (flow c p : Nat) (pkt : VideoPacket) : State :=
  let x := s.channel c
  let cf := x.cfg
  let pp := s.pktPixels c
  match pkt.segments with
  | [] => s.landNotice Kind.ingressMalformed flow
  | g :: _ =>
    if pkt.overrun ∨ 3 < pkt.segments.length ∨ pkt.segments.any (fun g => !cf.segmentFits g) then s.landNotice Kind.ingressMalformed flow
    else if s.nowT + cf.periodT < cf.deadlineAt (x.tPic p) 0 then s.landNotice Kind.ingressEarly flow
    else
      let k := (g.row * cf.width + g.offset) / pp
      let y := x.pic p
      match SMap.get (fun _ => none) y.arrived k with
      | some first => if first = (if first.raw = [] then { pkt with raw := [] } else pkt) then s else s.landNotice Kind.ingressDupDiff flow
      | none =>
        let opens := pkt.segments.filter fun g => y.segmentOpen cf g
        if opens = [] then s.landNotice Kind.ingressLate flow
        else
          let y := opens.foldl (fun q g => q.writeSegment cf g) y
          let y := { y with arrived := SMap.set (fun _ => none) y.arrived k (some pkt) }
          let y := (y.decimateLanded cf pp k).markComplete cf pp s.nowT (cf.bandsOfPos pp k)
          s.modPic c p fun _ => y

/-- The head frame of an IFQ is taken, and its cells are freed under the port's owner. A chain word that fails its check makes it
unusable: CELL_CHAIN_BAD (R356). Answers whether the frame can be used. -/
def State.takeIfq (s : State) (flow : Nat) : State × Option Nat :=
  if (s.queue (ifqId flow)).isEmpty then (s, none)
  else
    let v := s.headEntry (ifqId flow)
    let r := s.chainCells (bitsAt v 14 3) (bitsAt v 0 14)
    let t := (s.popEntry (ifqId flow)).freeCells r.1 (bitsAt v 43 3)
    if r.2 then (t, some v)
    else (t.raise (Src.port + (s.iflow flow).port) Kind.cellChainBad (0x800 * r.1.getLast?.getD 0) (bitsAt v 43 3), none)

/-- The ST 2110-20 packet that a frame's bytes spell (R366): `o` is the offset of its RTP header, behind that of UDP. The RTP packet ends where the UDP length
says, less its padding. Sample row data headers whose lengths go beyond the payload overrun it. -/
def ChannelCfg.videoPacket (c : ChannelCfg) (bs : List Byte) (o : Nat) : VideoPacket :=
  let rtp := bs.take (o - 8 + beAt bs (o - 4) 2)
  let rtp := rtp.take (rtp.length - (if bitAt (beAt bs o 1) 5 then (rtp.getLast?.getD 0).toNat else 0))
  let l := (rtp.drop (rtpBody bs o + 2)).map BitVec.toNat
  let r := readHeaders 64 l
  { timestamp := beAt bs (o + 4) 4, segments := c.readSegments r.1 r.2, overrun := decide (r.2.length < (r.1.map fun h => h.1).sum), raw := l }

/-- The ingress writer (R366) takes the next frame of a flow's IFQ out of its cells. A packet for no source picture of a
running encode channel is freed without effect. -/
def State.ingressWrite (s : State) (flow : Nat) : State :=
  let v := s.headEntry (ifqId flow)
  let bytes := s.loadFrame (s.chainCells (bitsAt v 14 3) (bitsAt v 0 14)).1 (bitsAt v 17 14)
  match s.takeIfq flow with
  | (t, none) => t
  | (t, some _) =>
    let f := t.iflow flow
    match f.channel with
    | none => t
    | some c =>
      let x := t.channel c
      if f.kind ≠ 0 ∨ x.decode = true ∨ x.state.live = false then t
      else
      let pkt := x.cfg.videoPacket bytes (bitsAt v 48 7)
      match x.picOfTs t.nowT pkt.timestamp with
        | none => t
        | some p => if x.state = .draining ∧ (x.pic p).started = false then t else t.landPacket flow c p pkt

/-- The place of a flow's head frame among the copies (R367): its RX_TS, then its port. -/
def State.copyOrder (s : State) (flow : Nat) : Nat × Nat :=
  let v := s.headEntry (ifqId flow)
  (s.stampT (bitsAt v 64 40), bitsAt v 43 3)

/-- The other ST 2110-20 flow of the channel whose head frame was received before the head of `flow`, or at the same time on a lower port. -/
def State.earlierCopy (s : State) (flow : Nat) : Option Nat :=
  match (s.iflow flow).channel with
  | none => none
  | some c =>
    ((s.ingressOf c).find? fun (e : Nat × IFlow) => decide (e.1 ≠ flow) && decide (e.2.kind = 0) && !(s.queue (ifqId e.1)).isEmpty &&
      (decide ((s.copyOrder e.1).1 < (s.copyOrder flow).1) ||
        (decide ((s.copyOrder e.1).1 = (s.copyOrder flow).1) && decide ((s.copyOrder e.1).2 < (s.copyOrder flow).2)))).map Prod.fst

/-- The ingress writer takes the frames of a channel's flows in the order of their receipt, up to the next of `flow` (R367). -/
def State.ingressTo (n : Nat) (s : State) (flow : Nat) : State :=
  match n with
  | 0 => s
  | k + 1 =>
    match (if (s.queue (ifqId flow)).isEmpty then none else s.earlierCopy flow) with
    | some g => State.ingressTo k (s.ingressWrite g) flow
    | none => s.ingressWrite flow

/-- The first cell of the frame at the head of a flow's IFQ (R364). -/
def State.headCell (s : State) (flow : Nat) : Nat := bitsAt (s.headEntry (ifqId flow)) 0 14

/-- INGRESS_WRITE (R366, R367) of the frame of a flow that begins in a cell, once that frame stands at the head of the IFQ, which holds at most
2,048 frames; while the ingress writer is asleep the frame waits there (R26). -/
def execIngressWrite (flow cell : Nat) (s : State) : Host.Outcome State Fault Refusal :=
  if flow < 2048 then .next (if cell = s.headCell flow ∧ s.asleep Src.ingress = false then s.ingressTo 2049 flow else s) else .fault .noSuchUnit

end Sys2Proof.Machine
end

