-- ==== Sys2Proof/Machine/NetTx.lean ====
section
/-!
DEFINITION. Transmit: shapers (R372, R373), gate lists (R376–R380), the gate scheduler and the frames it builds (R369, R378, R379, R397,
R398), and the ports' links (R382, R383, R391).
-/
namespace Sys2Proof.Machine

/-! ## Shapers (R372, R373) -/

/-- The refill boundaries after `lastRef` up to tick `t` (whole multiples of 2^K ticks of 40 ns since the epoch). -/
def EFlow.refillTo (f : EFlow) (t : Nat) : EFlow :=
  let n := t / 2 ^ f.k - f.lastRef / 2 ^ f.k
  let gain := n * (f.rate * 2 ^ f.k * 40) + f.carry
  if f.rate = 0 ∨ n = 0 then f
  else { f with tokens := min (8 * f.burst) (f.tokens + gain / 1000000000), carry := gain % 1000000000, lastRef := t / 2 ^ f.k * 2 ^ f.k }

/-- A waiting SHAPER_SET takes effect at the first boundary under the old K, or for a shaper that is off under the new K (R373). -/
def EFlow.takeSet (f : EFlow) (t : Nat) : EFlow :=
  match f.pendSet with
  | none => f
  | some p =>
    let k := if f.rate = 0 then p.k else f.k
    let at_ := (f.lastRef / 2 ^ k + 1) * 2 ^ k
    if t < at_ then f
    else
      let g := f.refillTo at_
      { g with rate := p.rate, k := p.k, burst := p.burst, carry := 0, pendSet := none, lastRef := at_,
               tokens := if f.rate = 0 ∧ p.rate ≠ 0 then 8 * p.burst else min g.tokens (8 * p.burst) }

/-- Every boundary of a shaper up to tick `t`; after a step backwards its boundaries count from the new time. -/
def EFlow.refill (f : EFlow) (t : Nat) : EFlow := if t < f.lastRef then { f with lastRef := t } else (f.takeSet t).refillTo t

/-- Whole 40 ns ticks of PTP time since the epoch. -/
def State.ptpTicks (s : State) : Nat := s.now / 40

/-- SHAPER_REFILL (R372, R373). -/
def execShaperRefill (flow : Nat) (s : State) : Host.Outcome State Fault Refusal :=
  if flow < 2048 then .next (if (s.eflow flow).bound then s.modEflow flow fun f => f.refill s.ptpTicks else s) else .fault .noSuchUnit

/-- The largest frame of a bound flow (R362, R372): of one that serves no channel, its port's. -/
def State.largestFrame (s : State) (f : EFlow) : Nat :=
  match f.channel with
  | some c => f.largest (s.channel c).cfg
  | none => s.portFrame f.port

/-- SHAPER_SET's effect. -/
def State.setShaper (s : State) (flow k rate burst : Nat) : State × Reply :=
  let f := s.eflow flow
  if f.bound = false then (s, Reply.field St.badState 0x08)
  else if burst = 0 then (s, Reply.field St.lenZero 0x18)
  else if burst < s.largestFrame f + 20 then (s, Reply.field St.badFormat 0x18)
  else if 100000000000 < rate then (s, Reply.field St.badFormat 0x10)
  else
    (s.modEflow flow fun f =>
      let g := f.refill s.ptpTicks
      { g with pendSet := some ⟨k, rate, burst⟩, lastRef := if g.rate = 0 then s.ptpTicks else g.lastRef }, { status := St.ok })

/-- SHAPER_SET (R296, R372, R373). -/
def execShaperSet (h : CmdHdr) (flow : BitVec 11) (k : BitVec 4) (rate : BitVec 40) (burst : BitVec 24) (s : State) : Host.Outcome State Fault Refusal :=
  .next (plainCmd (.shaperSet h flow k rate burst) h false (fun t => t.setShaper flow.toNat k.toNat rate.toNat burst.toNat) s)

/-! ## Gate lists (R376–R380) -/

/-- The entry of a list that is in force `o` ns after its cycle began: its number, its gates and the ns from the cycle's begin to its end;
the last entry holds until the cycle ends. -/
def gateAt (cycle o idx acc : Nat) (es : List (Nat × Nat)) : Nat × Nat × Nat :=
  match es with
  | [] => (idx, 0xFF, cycle)
  | [e] => (idx, e.1, cycle)
  | e :: rest => if o < acc + e.2 then (idx, e.1, acc + e.2) else gateAt cycle o (idx + 1) (acc + e.2) rest

/-- The entry in force at `t` ns: its number, its gates, and when it ends. -/
def GateList.at_ (l : GateList) (t : Nat) : Nat × Nat × Nat :=
  let c : Nat := max 1 l.cycle
  let o := (((t : Int) - l.base) % (c : Int)).toNat
  let r := gateAt c o 0 0 l.entries
  (r.1, r.2.1, t - o + r.2.2)

/-- The lists that wait for their switch times: the pending one, and the one behind it (R380). -/
def Gate.waiting (g : Gate) : List (GateList × Nat) := g.pending.toList ++ g.next.toList

/-- The gates at `t` and when they next may change, over the list in force and those that wait (R378, R380). -/
def Gate.segment (g : Gate) (t : Nat) : Nat × Option Nat :=
  let list := match (g.waiting.filter fun e => decide (e.2 ≤ t)).getLast? with
    | some e => some { e.1 with base := e.2 : GateList }
    | none => g.oper
  let own : Nat × Option Nat := match list with
    | none => (0xFF, none)
    | some l => let r := l.at_ t; (r.2.1, some r.2.2)
  (own.1, ((g.waiting.filter fun e => decide (t < e.2)).map Prod.snd).foldl (fun best v => match best with | some e => some (min e v) | none => some v) own.2)

/-- next_close(class, t) (R378): none when the gate stays open. -/
def Gate.nextClose (n : Nat) (g : Gate) (cls t : Nat) : Option Nat :=
  match n with
  | 0 => none
  | k + 1 =>
    let r := g.segment t
    if bitAt r.1 cls = false then some t
    else match r.2 with
      | none => none
      | some e => Gate.nextClose k g cls e

/-- Segments to look through for a close. -/
def Gate.horizon (g : Gate) : Nat :=
  2 * ((match g.oper with | some l => l.entries.length | none => 0) + (g.waiting.map fun e => e.1.entries.length).sum) + 6

/-- Entries with their durations, the last holding until the cycle ends. -/
def GateList.runs (l : GateList) : List (Nat × Nat) :=
  match l.entries.reverse with
  | [] => []
  | e :: rest => (rest.reverse) ++ [(e.1, l.cycle - (rest.map Prod.snd).sum)]

/-- The longest run of open entries in a list of (gates, duration). -/
def longestRun (cls cur best : Nat) (es : List (Nat × Nat)) : Nat :=
  match es with
  | [] => max cur best
  | e :: rest => if bitAt e.1 cls then longestRun cls (cur + e.2) best rest else longestRun cls 0 (max cur best) rest

/-- The longest window of a class (R379): none when it is open in every entry. Runs are joined across the cycle end. -/
def GateList.window (l : GateList) (cls : Nat) : Option Nat :=
  let es := l.runs
  if es.all fun e => bitAt e.1 cls then none
  else
    let k := es.findIdx fun e => !bitAt e.1 cls
    some (longestRun cls 0 0 (es.drop k ++ es.take k))

/-- The smallest base + n × cycle that is at least `t`. -/
def firstCycle (base cycle t : Nat) : Nat := if t ≤ base then base else base + (t - base + cycle - 1) / cycle * cycle

/-- The checks of R376 on a list: the reply to the first that fails. -/
def gateListRefusal (es : List (Nat × Nat)) (baseNs cycle : Nat) : Option Reply :=
  match es.findIdx? fun e => decide (e.2 < 40) || decide (1000000000 < e.2) with
  | some i => some (Reply.recField St.badFormat (8 * i + 4))
  | none =>
    if cycle < (es.map Prod.snd).sum then some (Reply.field St.badFormat 0x24)
    else if cycle < 1000 ∨ 1000000000 < cycle then some (Reply.field St.badFormat 0x24)
    else if 1000000000 ≤ baseNs then some (Reply.field St.badFormat 0x20)
    else none

/-- A checked list becomes pending, or waits behind a pending list that is about to switch (R380). -/
def Gate.load (g : Gate) (l : GateList) (now : Nat) : Gate :=
  let e := (l, firstCycle l.base l.cycle (now + 2000))
  match g.pending with
  | some p => if p.2 < now + 2000 then { g with next := some e } else { g with pending := some e, next := none }
  | none => { g with pending := some e }

/-- GATE_LIST_LOAD's effect. -/
def State.loadGates (s : State) (port count addr sec ns cycle : Nat) : State × Reply :=
  match s.hostRead addr (8 * (count + 1)) with
  | none => (s, { status := St.dmaError })
  | some v =>
    let es := (List.range (count + 1)).map fun i => (bitsAt v (64 * i) 8, bitsAt v (64 * i + 32) 32)
    match gateListRefusal es ns cycle with
    | some r => (s, r)
    | none => (s.modGate port fun g => g.load { entries := es, base := 1000000000 * sec + ns, cycle := cycle } s.now, { status := St.ok })

/-- GATE_LIST_LOAD (R296, R376, R380). -/
def execGateListLoad (h : CmdHdr) (port : BitVec 3) (count : BitVec 10) (listAddr : Word64) (baseSec : BitVec 48) (baseNs : BitVec 32) (cycleNs : BitVec 32)
    (s : State) : Host.Outcome State Fault Refusal :=
  .next (plainCmd (.gateListLoad h port count listAddr baseSec baseNs cycleNs) h true (fun t => t.loadGates port.toNat count.toNat listAddr.toNat baseSec.toNat baseNs.toNat cycleNs.toNat) s)

/-- The entry of the list in force at `now`, as the port shows it. -/
def Gate.follow (g : Gate) (now : Nat) : Gate :=
  match g.oper with
  | none => g
  | some l => let r := l.at_ now; if g.entry = r.1 ∧ g.gates = r.2.1 then g else { g with entry := r.1, gates := r.2.1, since := now }

/-- GATE_ENTRY_END (R376): the next entry of the list in force takes its place. -/
def execGateEntryEnd (port : Nat) (s : State) : Host.Outcome State Fault Refusal :=
  if port < 8 then .next (s.modGate port fun g => g.follow s.now) else .fault .noSuchUnit

/-- The pending list takes effect (R379, R380). -/
def Gate.switch (g : Gate) (l : GateList) (sw now : Nat) : Gate :=
  let l := { l with base := sw }
  { g with oper := some l, pending := g.next, next := none, entry := 0, gates := ((l.entries.head?).map Prod.fst).getD 0xFF, since := sw,
           windows := (List.range 8).map l.window }.follow now

/-- GATE_SWITCH (R380): at the switch time. -/
def execGateSwitch (port : Nat) (s : State) : Host.Outcome State Fault Refusal :=
  if port < 8 then
    match (s.gate port).pending with
    | some (l, sw) =>
      if sw ≤ s.now then .next ((s.modGate port fun g => g.switch l sw s.now).raise (Src.gate + port) Kind.gateSwitch 0 (flowDetail 0 port)) else .next s
    | none => .next s
  else .fault .noSuchUnit

/-! ## Frames (R369) -/

/-- The bytes of an address field in wire order. -/
def wireBytes (v n : Nat) : List Nat := recBytes v n

/-- The Ethernet, IP and UDP headers of a flow for `l` bytes of UDP payload (R369). -/
def EFlow.headers (f : EFlow) (payload : List Nat) : List Nat :=
  let l := payload.length
  let eth := wireBytes f.dmac 6 ++ wireBytes f.smac 6 ++ (if f.vlan then [0x81, 0x00] ++ beBytes 2 (f.pcp * 8192 + f.vid) else []) ++
    (if f.ipv6 then [0x86, 0xDD] else [0x08, 0x00])
  let udp (ck : Nat) : List Nat := beBytes 2 f.srcPort ++ beBytes 2 f.dstPort ++ beBytes 2 (8 + l) ++ beBytes 2 ck
  if f.ipv6 then
    let dst := wireBytes f.dstAddr 16
    let src := wireBytes f.srcAddr 16
    let ck := onesCheck (onesSum (src ++ dst ++ beBytes 4 (8 + l) ++ [0, 0, 0, 17]) + onesSum (udp 0) + onesSum payload)
    eth ++ beBytes 4 (0x60000000 + f.dscp * 2 ^ 22) ++ beBytes 2 (8 + l) ++ [17, f.ttl] ++ src ++ dst ++ udp (if ck = 0 then 65535 else ck)
  else
    let ip (ck : Nat) : List Nat :=
      [0x45, 4 * f.dscp] ++ beBytes 2 (28 + l) ++ [0, 0, 0x40, 0, f.ttl, 17] ++ beBytes 2 ck ++ wireBytes f.srcAddr 4 ++ wireBytes f.dstAddr 4
    eth ++ ip (onesCheck (onesSum (ip 0))) ++ udp 0

/-- A frame's bytes without FCS, padded to 60. -/
def padFrame (bs : List Nat) : List Nat := bs ++ List.replicate (60 - bs.length) 0

/-- The frame that an EFQ entry gives: its bytes, and whether its chain is sound. -/
def State.frameOf (s : State) (f : EFlow) (v : Nat) : List Nat × Bool :=
  let r := s.chainCells (bitsAt v 14 3) (bitsAt v 0 14)
  let body := (s.loadFrame r.1 (bitsAt v 17 14)).map BitVec.toNat
  (padFrame (if bitAt v 31 then f.headers body ++ body else body), r.2)

/-- Length with FCS of the frame of an EFQ entry. -/
def frameLen (f : EFlow) (v : Nat) : Nat := max 64 ((if bitAt v 31 then f.header else 0) + bitsAt v 17 14 + 4)

/-- A flow as the gate scheduler sees it: the firmware flows of a port have no record (R370). -/
def State.gateFlow (s : State) (flow : Nat) : EFlow :=
  if 2040 ≤ flow then { bound := true, port := flow - 2040, kind := 2, cls := 0 }
  else if 2032 ≤ flow then { bound := true, port := flow - 2032, kind := 2, cls := 7 }
  else s.eflow flow

/-- The flows of a port whose queue holds something. -/
def State.portFlows (s : State) (port : Nat) : List Nat :=
  (s.queues.filter fun (e : Nat × Queue) => e.2.valid && !e.2.isEmpty && decide (efqId 0 ≤ e.1) && decide (e.1 < efqId 2048) &&
    decide ((s.gateFlow (e.1 - 10240)).port = port)).map fun (e : Nat × Queue) => e.1 - 10240

/-- PTP time has reached a 40-bit time; 0 is at once. -/
def State.timeReached (s : State) (v : Nat) : Bool := decide (v = 0) || decide ((2 ^ 40 + s.nowQ - v) % 2 ^ 40 < 2 ^ 39)

/-- How long ago a 40-bit time was; 0 is the earliest. -/
def State.ageOf (s : State) (v : Nat) : Nat := if v = 0 then 2 ^ 40 else (2 ^ 40 + s.nowQ - v) % 2 ^ 40

/-- The head of a flow is eligible (R371): its time has come, it is not held, and its shaper holds its tokens. -/
def State.headEligible (s : State) (flow : Nat) : Bool :=
  let f := s.gateFlow flow
  let v := s.headEntry (efqId flow)
  s.timeReached (bitsAt v 64 40) && !bitAt v 104 && (decide (f.rate = 0) || decide ((frameLen f v + 20) * 8 ≤ f.tokens))

/-- 40 ns + (8 + l) × 0.08 ns in hundredths of a nanosecond (R378). -/
def wireTime (l : Nat) : Nat := 4000 + (8 + l) * 8

/-- Why the head of a flow leaves its queue unsent: an entry whose packet was discarded (R346), a SOLO flow that is not active (R390), a port without link (R382, R390), a broken chain
(R356), a frame above every window of its class (R379). -/
inductive HeadDrop where
  | void | solo | link | chain | oversize
deriving DecidableEq, Repr

/-- The reason to drop the head of a flow, when there is one. -/
def State.headDrop (s : State) (port flow : Nat) : Option HeadDrop :=
  let f := s.gateFlow flow
  let v := s.headEntry (efqId flow)
  if efqVoid v then some .void
  else if f.solo && !(decide (s.twin.phase = .survivor) && decide (s.field Reg.twn 2 1 = 1)) then some .solo
  else if s.headEligible flow = false then none
  else if !(s.port port).linkUp || decide (s.field (Reg.netPortCfg + 0x1000 * port) 0 1 = 0) then some .link
  else if (s.frameOf f v).2 = false then some .chain
  else match (s.gate port).windows.getD f.classOf none with
    | some w => if 100 * w < wireTime (frameLen f v) then some .oversize else none
    | none => none

/-- Drops the head of a flow. -/
def State.dropHead (s : State) (port flow : Nat) (d : HeadDrop) : State :=
  let v := s.headEntry (efqId flow)
  let s := match d with
    | .void => s
    | .solo => s
    | .link => s.count (Reg.netTxLinkDown + 0x1000 * port) 32 1
    | .chain =>
      let r := s.chainCells (bitsAt v 14 3) (bitsAt v 0 14)
      s.raise (Src.gate + port) Kind.cellChainBad (0x800 * r.1.getLast?.getD 0) (bitsAt v 32 6)
    | .oversize => (s.count (Reg.gatOversize + 0x800 * port) 32 1).raise (Src.gate + port) Kind.oversizeForGate 0 (flowDetail flow port)
  ((s.popEntry (efqId flow)).dropEntry flow v).efqRefill flow

/-- Drops from the head of a flow what cannot be sent. -/
def State.purgeFlow (n : Nat) (s : State) (port flow : Nat) : State :=
  match n with
  | 0 => s
  | k + 1 =>
    if (s.queue (efqId flow)).isEmpty then s
    else match s.headDrop port flow with
      | some d => State.purgeFlow k (s.dropHead port flow d) port flow
      | none => s

/-- The frame that a class offers: the eligible head with the earliest ELIGIBLE, then the lower flow number (R378). -/
def State.offer (s : State) (flows : List Nat) (cls : Nat) : Option Nat :=
  (flows.filter fun f => decide ((s.gateFlow f).classOf = cls) && s.headEligible f).foldl (fun best f =>
    match best with
    | none => some f
    | some b => if s.ageOf (bitsAt (s.headEntry (efqId b)) 64 40) < s.ageOf (bitsAt (s.headEntry (efqId f)) 64 40) then some f else some b) none

/-- The guard band lets the head of a flow start (R378). -/
def State.guardLets (s : State) (port flow : Nat) : Bool :=
  let g := s.gate port
  let f := s.gateFlow flow
  match g.nextClose g.horizon f.classOf s.now with
  | none => true
  | some e => decide (s.nowC + wireTime (frameLen f (s.headEntry (efqId flow))) ≤ 100 * e)

/-- The gate of a class is open now. -/
def State.gateOpen (s : State) (port cls : Nat) : Bool := bitAt ((s.gate port).segment s.now).1 cls

/-- Counts a frame that a guard band holds, once (R389). -/
def State.holdFrame (s : State) (port flow : Nat) : State :=
  let k := (flow, (s.queue (efqId flow)).head)
  if (s.gate port).held.contains k then s
  else (s.modGate port fun g => { g with held := k :: g.held }).count (Reg.gatGuardHold + 0x800 * port) 32 1

/-- The highest class that qualifies sends (R378): the flow picked, with the holds that the guard band has made. -/
def State.choose (n : Nat) (s : State) (port : Nat) (flows : List Nat) : State × Option Nat :=
  match n with
  | 0 => (s, none)
  | k + 1 =>
    match (if s.gateOpen port k then s.offer flows k else none) with
    | none => State.choose k s port flows
    | some f => if s.guardLets port f then (s, some f) else State.choose k (s.holdFrame port f) port flows

/-- Where a firmware flow's PTP message begins in its frame, by the port's settings (R402). -/
def State.ptpOffset (s : State) (port : Nat) : Nat :=
  let c := s.ptpPort port
  14 + 4 * b2n c.vlan + (if c.transport = 0 then 28 else if c.transport = 1 then 48 else 0)

/-- Replaces bytes of a list from offset `a` on. -/
def putBytes (l : List Nat) (a : Nat) (v : List Nat) : List Nat := l.take a ++ v ++ l.drop (a + v.length)

/-- A one-step Sync is completed as it leaves (R398): its transmit timestamp `ts` (0.25 ns) enters originTimestamp and correctionField;
over IPv6 the two octets after the message keep the UDP checksum valid. -/
def completeSync (bs : List Nat) (a ts : Nat) (ipv6 : Bool) : List Nat :=
  let sec := ts / 4000000000
  let ns := ts % 4000000000 / 4
  let corr := ((bs.drop (a + 8)).take 8).foldl (fun v b => 256 * v + b) 0
  let t := putBytes (putBytes bs (a + 8) (beBytes 8 ((corr + ts % 4 * 2 ^ 14) % 2 ^ 64))) (a + 34) (beBytes 6 sec ++ beBytes 4 ns)
  if ipv6 then
    let old := onesSum ((bs.drop a).take 46)
    let new := onesSum ((t.drop a).take 44)
    putBytes t (a + 44) (beBytes 2 ((old + (65535 - new % 65535)) % 65535))
  else t

/-- A PTP event message: Sync or Delay_Req. -/
def ptpEvent (msgType : Nat) : Bool := decide (msgType = 0) || decide (msgType = 1)

/-- The head of a flow leaves (R381, R396–R398): its first bit is at the SerDes within 40 ns of the pick. The timestamp point lies 0.64 ns after that,
0.75 ns on the 0.25 ns grid (DESIGN CHOICE, log 147). -/
def State.sendHead (s : State) (port flow : Nat) : State :=
  let f := s.gateFlow flow
  let v := s.headEntry (efqId flow)
  let l := frameLen f v
  let bs := (s.frameOf f v).1
  let r := s.takeFree
  let ts := ofSigned 64 (((s.nowQ + r.1 % 161 + 3 : Nat) : Int) + toSigned 16 (s.field (Reg.timePortLat + 4 * port) 0 16))
  let a := s.ptpOffset port
  let msg := bs.getD a 0 % 16
  let event := decide (2032 ≤ flow) && decide (flow < 2040) && ptpEvent msg
  let oneStep := event && decide (msg = 0) && !bitAt (bs.getD (a + 6) 0) 1
  let out := if oneStep then completeSync bs a ts (decide ((s.ptpPort port).transport = 1)) else bs
  let rec_ := packFields [(40, ts), (3, port), (4, msg), (1, b2n oneStep), (16, 256 * bs.getD (a + 30) 0 + bs.getD (a + 31) 0), (11, flow), (53, 0)]
  let s := { r.2 with net := { r.2.net with
    sent := { port := port, flow := flow, bytes := out.map (BitVec.ofNat 8), len := l, ts := ts } :: r.2.net.sent,
    txTs := if event then rec_ :: r.2.net.txTs else r.2.net.txTs } }
  let s := (s.modGate port fun g => { g with freeAt := s.nowC + (8 + l + 12) * 8, held := g.held.filter fun e => decide (e.1 ≠ flow) }).count
    (Reg.netTxFrames + 0x1000 * port) 32 1
  let s := if 2032 ≤ flow then s else s.modEflow flow fun f => if f.rate = 0 then f else { f with tokens := f.tokens - (l + 20) * 8 }
  ((s.popEntry (efqId flow)).dropEntry flow v).efqRefill flow

/-- GATE_PICK (R378): a port that can start a frame drops what cannot be sent and picks; nothing is picked in the safe state (R490). -/
def State.gatePick (s : State) (port : Nat) : State :=
  if s.flt.safe ∨ s.nowC < (s.gate port).freeAt then s
  else
    let s := State.retryPass s.net.passWait.length s
    let s := (s.portFlows port).foldl (fun t f => State.purgeFlow ((t.queue (efqId f)).fill + t.net.efqWait.length) t port f) s
    let r := State.choose 8 s port (s.portFlows port)
    match r.2 with
    | some f => r.1.sendHead port f
    | none => r.1

/-- GATE_PICK; while the port's gate scheduler is asleep its queues wait (R26). -/
def execGatePick (port : Nat) (s : State) : Host.Outcome State Fault Refusal := if port < 8 then .next (if s.asleep (Src.gate + port) then s else s.gatePick port) else .fault .noSuchUnit

/-! ## Links (R382, R383, R391) -/

/-- A link change marks the intervals of its port and of the port's flows (R183). -/
def State.linkPartial (s : State) (port : Nat) : State :=
  { s with codec := { s.codec with subs := s.codec.subs.map fun u =>
    if (u.kind = 2 ∧ u.source = port) ∨ (u.kind = 1 ∧ (s.iflow u.source).bound = true ∧ (s.iflow u.source).port = port) then { u with isPartial := true } else u } }

/-- The link of a port goes down (R391, R451). -/
def State.linkFalls (s : State) (port : Nat) : State :=
  if (s.port port).linkUp then
    (((s.modPort port fun p => { p with linkUp := false, anDone := false, hiSer := false }).linkPartial port).assertIrq (32 + port)).raise (Src.port + port) Kind.linkDown 0 port
  else s

/-- NET_PORT_ENABLE (R382): ENABLE of NET_PORT_CFG; with 0 the link is down. -/
def execNetPortEnable (port : Nat) (on : Bool) (s : State) : Host.Outcome State Fault Refusal :=
  if port < 8 then
    let a := Reg.netPortCfg + 0x1000 * port
    let t := s.setRegN a (s.regN a / 2 * 2 + b2n on)
    .next (if on then t else t.linkFalls port)
  else .fault .noSuchUnit

/-- LINK_UP (R383, R391, R451): an enabled port's link is up and its FEC aligned; auto-negotiation and training are complete in modes 0 and 1
with AN = 1. -/
def execLinkUp (port : Nat) (s : State) : Host.Outcome State Fault Refusal :=
  if port < 8 then
    let v := s.regN (Reg.netPortCfg + 0x1000 * port)
    if bitAt v 0 && !(s.port port).linkUp then
      .next ((((s.modPort port fun p => { p with linkUp := true, anDone := bitAt v 5 && decide (bitsAt v 1 2 ≠ 2) }).linkPartial port).assertIrq (32 + port)).raise (Src.port + port)
        Kind.linkUp 0 port)
    else .next s
  else .fault .noSuchUnit

/-- LINK_DOWN (R391). -/
def execLinkDown (port : Nat) (s : State) : Host.Outcome State Fault Refusal := if port < 8 then .next (s.linkFalls port) else .fault .noSuchUnit

/-! ## PTP messages that firmware sends (R370, R399) -/

/-- `n` bytes that the manual leaves open. -/
def State.freeBytes (n : Nat) (s : State) (got : List Nat) : State × List Nat :=
  match n with
  | 0 => (s, got)
  | k + 1 => State.freeBytes k s.takeFree.2 (s.takeFree.1 % 256 :: got)

/-- The clock class that Announce carries (R401). -/
def State.clockClass (s : State) : Nat :=
  match s.time.servo with
  | .locked => s.time.clock.classLocked
  | .following => s.time.clock.classLocked
  | .holdover => s.time.clock.classHoldover
  | .freeRunning => s.time.clock.classFree
  | .acquiring => s.time.clock.classFree

/-- An Announce body from currentUtcOffset up to timeSource (R401): the device clock's values while no port is SLAVE, else those of the parent's
Announce one step further on. What the manual does not say of a relayed Announce is the parent's (PRESUMED, log 126). -/
def State.announceBody (s : State) (identity : Nat) : List Nat :=
  let c := s.time.clock
  let tc := s.time.hostTc
  match s.time.slavePort with
  | none => beBytes 2 tc.utcOffset ++ [0, c.priority1, s.clockClass, c.accuracy] ++ beBytes 2 c.variance ++ [c.priority2] ++ beBytes 8 identity ++ beBytes 2 0 ++ [c.timeSource]
  | some q =>
    let v := SMap.get (fun _ => {}) s.time.ptp q
    beBytes 2 s.timeCode.utcOffset ++ [0, c.priority1, v.gmClass, v.gmAccuracy] ++ beBytes 2 c.variance ++ [c.priority2] ++
      (beBytes 8 v.gmIdentity).reverse ++ beBytes 2 (v.stepsRemoved + 1) ++ [c.timeSource]

/-- The synchronization metadata that a grandmaster sends (R399, R403), in the layout of ST 2059-2 (PRESUMED, log 126): the TLV's type, length,
organization and subtype, the default frame rate, locking status and address flags, then the TIMECODE values. -/
def State.metadataBody (s : State) (rate : List Nat) : List Nat :=
  let t := s.time.hostTc
  beBytes 2 3 ++ beBytes 2 48 ++ [0x68, 0x97, 0xE8, 0, 0, 1] ++ rate ++ beBytes 4 (ofSigned 32 t.localOffset) ++ beBytes 4 (ofSigned 32 t.jumpSeconds) ++
    beBytes 6 t.nextJump ++ beBytes 6 t.nextJam ++ beBytes 6 (t.nextJam - 86400) ++ beBytes 4 (ofSigned 32 t.prevJamOffset) ++ [b2n t.dst, b2n t.leapJump]

/-- A frame of firmware's enters its flow of the port under owner 19 (R370); not where its cells are refused. -/
def State.fwSend (s : State) (flow : Nat) (bs : List Nat) : State × Bool :=
  match State.allocCells (chainLen bs.length) s 19 [] with
  | (t, none) => (t, false)
  | (t, some cells) =>
    let t := t.storeFrame cells (bs.map (BitVec.ofNat 8))
    let q := efqId flow
    let t := if (t.queue q).valid then t else t.modQueue q fun _ => flowQueue true flow
    (t.efqPut flow (efqEntry (cells.headD 0) cells.length bs.length false 19 0 0 false), true)

/-- The port's PTP frame of a kind, before its sequence number: the source is the port's own MAC address (R385); messageType, length, domain and flags stand where
IEEE 1588 puts them. -/
def State.ptpFrame (s : State) (port : Nat) (kind : PtpKind) (seq : Nat) : State × List Nat :=
  let a := s.ptpOffset port
  let l := match kind with | .sync => 44 | .delayReq => 44 | .announce => 64 | .metadataTlv => 100
  let tail := if (s.ptpPort port).transport = 1 then 2 else 0
  let r := State.freeBytes (a + l + tail) s []
  let bs := putBytes (putBytes r.2 6 (wireBytes (s.portMac port) 6)) a ([ptpKindCode kind, 0x12] ++ beBytes 2 l ++ [s.time.clock.domain])
  let bs := putBytes bs (a + 6) [if (s.ptpPort port).twoStep && decide (kind = .sync) then 2 else 0]
  let bs := match kind with
    | .announce =>
      putBytes (putBytes bs (a + 7) [4 * b2n (if s.time.slavePort = none then s.time.hostTc.utcValid else s.timeCode.utcValid) + bs.getD (a + 7) 0 / 8 * 8 + bs.getD (a + 7) 0 % 4])
        (a + 44) (s.announceBody ((bs.drop (a + 20)).take 8 |>.foldl (fun v b => 256 * v + b) 0))
    | .metadataTlv => putBytes bs (a + 48) (s.metadataBody ((bs.drop (a + 58)).take 10))
    | .sync => bs
    | .delayReq => bs
  (r.1, putBytes bs (a + 30) (beBytes 2 (seq % 65536)))

/-- PTP_MESSAGE_SEND (R370, R399): an enabled port's message at its interval enters firmware's egress flow 2,032 + n under owner 19; nothing
is sent in the safe state (R415). -/
def State.ptpSend (s : State) (port : Nat) (kind : PtpKind) : State :=
  if (s.ptpPort port).enable = false ∨ s.flt.safe = true then s
  else
    let s := if kind = .delayReq ∧ s.time.slavePort = some port then s.meter 2 port fun m => { m with delayReq := satInc 16 m.delayReq } else s
    let seq := (s.time.ptpSent.filter fun e => decide (e = (port, ptpKindCode kind))).length
    let s := { s with time := { s.time with ptpSent := (port, ptpKindCode kind) :: s.time.ptpSent } }
    let r := s.ptpFrame port kind seq
    (r.1.fwSend (2032 + port) r.2).1

/-- PTP_MESSAGE_SEND. -/
def execPtpMessageSend (port : Nat) (kind : PtpKind) (s : State) : Host.Outcome State Fault Refusal :=
  if port < 8 then .next (s.ptpSend port kind) else .fault .noSuchUnit

/-! ## Membership reports (R363) -/

/-- The record type of a report (RFC 3376, RFC 3810): of a join or a leave a change of the filter mode to EXCLUDE or INCLUDE, or of the sources where one is
named; of an answer to a query the present mode. -/
def Member.recordType (m : Member) : Nat :=
  if m.due = some false then (if m.source = 0 then 3 else 6)
  else if m.answer then (if m.source = 0 then 2 else 1)
  else if m.source = 0 then 4 else 5

/-- The report of a membership, an IGMPv3 or MLDv2 message with one group record in a frame of its port (R363): it names the group, and the source where the flow
names one. The layouts are those of RFC 3376 and RFC 3810; the IP source is the address that the port's PTP settings hold, and the IPv4 identification 0
(PRESUMED, log 126). -/
def State.reportFrame (s : State) (m : Member) : List Nat :=
  let n := if m.ipv6 then 16 else 4
  let record := [m.recordType, 0] ++ beBytes 2 (b2n (decide (m.source ≠ 0))) ++ wireBytes m.group n ++ (if m.source = 0 then [] else wireBytes m.source n)
  let msg (ck : Nat) : List Nat := [if m.ipv6 then 143 else 0x22, 0] ++ beBytes 2 ck ++ [0, 0, 0, 1] ++ record
  let src := wireBytes (s.ptpPort m.port).addr n
  let mac := wireBytes (s.portMac m.port) 6
  if m.ipv6 then
    let dst := [0xFF, 2] ++ List.replicate 13 0 ++ [0x16]
    let ck := onesCheck (onesSum (src ++ dst ++ beBytes 4 (msg 0).length ++ [0, 0, 0, 58]) + onesSum (msg 0))
    [0x33, 0x33, 0, 0, 0, 0x16] ++ mac ++ [0x86, 0xDD, 0x60, 0, 0, 0] ++ beBytes 2 (8 + (msg 0).length) ++ [0, 1] ++ src ++ dst ++ [58, 0, 5, 2, 0, 0, 1, 0] ++ msg ck
  else
    let ip (ck : Nat) : List Nat := [0x46, 0xC0] ++ beBytes 2 (24 + (msg 0).length) ++ [0, 0, 0x40, 0, 1, 2] ++ beBytes 2 ck ++ src ++ [224, 0, 0, 22, 0x94, 4, 0, 0]
    [1, 0, 0x5E, 0, 0, 0x16] ++ mac ++ [8, 0] ++ ip (onesCheck (onesSum (ip 0))) ++ msg (onesCheck (onesSum (msg 0)))

/-- The report of a membership has been sent: it is noted, and a leave ends the membership (R363). -/
def NetSt.reported (n : NetSt) (m : Member) : NetSt :=
  { n with reports := (m.port, m.group, m.due.getD true) :: n.reports,
           members := if m.due = some false then n.members.erase m else n.members.map fun o => if o = m then { o with due := none, answer := false } else o }

/-- MEMBERSHIP_REPORT (R363): firmware sends the report or the leave that is due for a flow, on its port's management flow; where its cells are refused the report
stays due (R319). -/
def execMembershipReport (flow : Nat) (s : State) : Host.Outcome State Fault Refusal :=
  if flow < 2048 then
    match s.net.members.find? (fun m => decide (m.flow = flow) && m.due.isSome) with
    | some m =>
      match s.fwSend (2040 + m.port) (s.reportFrame m) with
      | (t, true) => .next { t with net := t.net.reported m }
      | (t, false) => .next t
    | none => .next s
  else .fault .noSuchUnit

end Sys2Proof.Machine
end

