-- ==== Sys2Proof/Machine/Stats.lean ====
section
/-!
DEFINITION. Band, picture and histogram records (R173, R177–R182, R187, R188), the hook statistics area (R244), and subscribing (R186,
R298).
-/
namespace Sys2Proof.Machine

/-! ## The band record (R180) -/

/-- A value that saturates at `w` bits. -/
def sat (w v : Nat) : Nat := min v (2 ^ w - 1)

/-- Whole nanoseconds between two moments in τ; the later comes second. -/
def nsBetween (a b : Nat) : Nat := (b - a) / tauNs

/-- Bits received for a decode band: the slice segments whose first region lies in it (R177). -/
def Channel.bitsReceived (x : Channel) (p b : Nat) : Nat :=
  (((x.pic p).segs.filter fun g => decide ((x.cfgOf p).bandOfRegion g.first = b)).map (x.segBits p)).sum

/-- The slice type of a decode band's first slice: of the segment that holds its first CTU, else of the first that begins in it. -/
def Channel.bandType (x : Channel) (p b : Nat) : Nat :=
  if x.decode then
    match x.segOf p ((x.cfgOf p).bandTop b / 16 * (x.cfg.width / 16)), (x.pic p).segs.find? fun g => decide ((x.cfgOf p).bandOfRegion g.first = b) with
    | some g, _ => g.ptype
    | none, some g => g.ptype
    | none, none => (x.pic p).ptype
  else (x.pic p).ptype

/-- SLICE_BITS of a band: on an encode channel those sent (R178, R180); on decode those received, of an abandoned band too: DESIGN CHOICE (log
125), as R180 gives the 0 to encode alone and R188 names no direction. -/
def Channel.sliceBitsOf (x : Channel) (p b : Nat) : Nat :=
  let u := (x.pic p).band b
  if x.decode then x.bitsReceived p b
  else if u.outcome ≠ 0 then 0
  else if u.mirrored then 8 * u.nal.length else u.sliceBits

/-- Mean QP by the floor rule (R125, R177). -/
def floorMeanQp (sum : Int) (n : Nat) : Int := if n = 0 then 51 else (sum + (n / 2 : Nat)) / (n : Int)

/-- A band record from byte 4 on. READY_OFS of a band that was SKIPPED before it ever was READY has no value in the manual: it is taken from a
ready time of 0 (DESIGN CHOICE, log 125). QP_LO and QP_HI of an encode band that was not released are 0 (DESIGN CHOICE, log 146). -/
def Channel.bandRecord (x : Channel) (ch p b : Nat) : Nat :=
  let u := (x.pic p).band b
  let live := x.decode || decide (u.outcome = 0)
  let qp := if x.decode then floorMeanQp u.qpSum u.qpUnits else if u.floor then 51 else u.qp
  let has := decide (u.qpUnits ≠ 0) && live
  let if_ (v : Nat) : Nat := if live then v else 0
  let ready := (u.ready / tauNs : Nat)
  packFields ([(7, ch), (1, b2n x.decode), (8, b), (2, u.outcome), (3, x.bandType p b), (1, b2n u.floor), (1, b2n u.guard), (1, b2n u.mirrored),
      (8, if x.decode then u.findings else sat 8 u.repeats), (32, p), (32, x.sliceBitsOf p b),
      (32, if x.decode then u.lostPkts else u.cplx.getD 0), (7, ofSigned 7 qp), (1, 0), (7, if has then ofSigned 7 u.qpLo else 0), (1, 0),
      (7, if has then ofSigned 7 u.qpHi else 0), (9, 0)] ++
    (if x.decode then [(16, sat 16 u.concealed), (16, sat 16 u.tainted), (16, 0), (48, 0), (48, 0), (16, 0)]
      else [(48, if_ (sat 48 u.sseY)), (48, if_ (sat 48 u.sseCb)), (48, if_ (sat 48 u.sseCr)), (16, if_ (ofSigned 16 (meanIndex u.simSum u.simN)))]) ++
    [(16, if_ (sat 16 u.skipUnits)), (16, if_ (sat 16 u.intraUnits)),
      (16, sat 16 (if x.decode then u.mergeLate else u.filled)), (16, sat 16 (if x.decode then u.dupDiff else u.recon)),
      (32, ofSigned 32 ((ready : Int) - (x.inputDeadline p b / tauNs : Nat))),
      (24, match u.start with | some t => sat 24 (nsBetween u.ready t) | none => 0xFFFFFF), (3, x.tambour), (1, b2n u.wakeLate), (1, b2n u.switchWait), (3, 0),
      (24, sat 24 u.runNs), (8, 0)])

/-! ## The picture record (R173, R181) -/

/-- PSNR in Q8.8 (R173): the whole number nearest to 2560 · log10(peak² · n / sse). -/
def psnr (depth n sse : Nat) : Nat :=
  if sse = 0 then 0xFFFF
  else
    let peak := 2 ^ depth - 1
    min 0xFFFE ((Nat.log 10 ((peak * peak * n) ^ 5120 / sse ^ 5120) + 1) / 2)

/-- Bits of the non-VCL units that were sent with a picture, or received (R181). -/
def Channel.nonVclSent (x : Channel) (p : Nat) : Nat :=
  let y := x.pic p
  if x.decode then y.nonVcl
  else
    let suffix := 8 * ((x.tailUnits p).map List.length).sum
    (if (y.band 0).outcome = 0 then x.nonVclOf p - suffix else 0) + (if (y.band ((x.cfgOf p).bandCount - 1)).outcome = 0 then suffix else 0)

/-- The word at 0x04 of a picture record (R181); `hist`: a histogram record follows in the ring. -/
def Channel.pictureWord (x : Channel) (ch p : Nat) (rep hist : Bool) : Nat :=
  let y := x.pic p
  let us := x.bandsOf p
  let clean := us.all fun u => decide (u.concealed = 0) && decide (u.tainted = 0)
  let floors := (us.filter fun u => u.coded && u.floor).length
  packFields [(7, ch), (1, b2n x.decode), (3, y.ptype), (1, b2n (if x.decode then clean else !y.uncommitted)), (1, b2n (!x.decode && y.carried)),
    (1, b2n (!x.decode && y.raised)), (1, b2n rep), (1, b2n hist), (8, if x.decode then 0 else floors), (8, (x.cfgOf p).bandCount)]

/-- A picture record from byte 4 on. In the record of a repeat slot every count is 0 (R166, R181). -/
def Channel.pictureRecord (x : Channel) (ch p : Nat) (rep hist : Bool) : Nat :=
  let y := x.pic p
  let c := x.cfgOf p
  let us := if rep then [] else x.bandsOf p
  let sent := us.filter fun u => x.decode || decide (u.outcome = 0)
  let sum (f : Band → Nat) : Nat := (us.map f).sum
  let sumS (f : Band → Nat) : Nat := (sent.map f).sum
  let qs := sent.filter fun u => decide (u.qpUnits ≠ 0)
  let lo := (qs.map fun u => u.qpLo).foldl min 51
  let hi := (qs.map fun u => u.qpHi).foldl max (-24)
  let mean := if x.decode then floorMeanQp ((us.map fun u => u.qpSum).sum) (sum fun u => u.qpUnits) else x.meanQp p
  let regions := c.width / 16 * ((c.codedLines + 15) / 16)
  let conc := sum fun u => u.concealed
  let tnt := sum fun u => u.tainted
  -- n of R173: the samples compared, those of the active lines of the bands sent.
  let lines := (((List.range c.bandCount).filter fun b => decide ((y.band b).outcome = 0)).map fun b => c.bandEnd b - c.bandTop b).sum
  let nY := c.width * lines
  let nC := c.width / c.subH * (lines / c.subV)
  let sY := sumS fun u => u.sseY
  let sB := sumS fun u => u.sseCb
  let sR := sumS fun u => u.sseCr
  let early := (us.filter fun u => bitAt u.findings 3).length
  packFields ([(32, x.pictureWord ch p rep hist), (32, p), (32, if x.decode then y.seiPlan else y.plan.id),
      (32, if rep then 0 else if x.decode then y.seiFilled else y.plan.budget),
      (32, if rep then 0 else sat 32 (((List.range c.bandCount).map (x.sliceBitsOf p)).sum)), (32, if rep then 0 else sat 32 (x.nonVclSent p)),
      (7, if rep then 0 else ofSigned 7 mean), (1, 0), (7, if qs = [] then 0 else ofSigned 7 lo), (1, 0), (7, if qs = [] then 0 else ofSigned 7 hi), (1, 0),
      (8, if x.decode then 0xFF else y.guardBand)] ++
    (if x.decode then [(32, conc), (16, sat 16 (65536 * conc / regions)), (32, tnt), (16, sat 16 (65536 * tnt / regions)), (32, sum fun u => u.lostPkts),
        (16, early), (16, 0), (16, 0), (16, 0), (16, 0)]
      else [(48, sat 48 sY), (48, sat 48 sB), (48, sat 48 sR), (16, psnr c.depth nY sY), (16, psnr c.depth nC sB), (16, psnr c.depth nC sR),
        (16, ofSigned 16 (meanIndex ((sent.map fun u => u.simSum).sum) (sumS fun u => u.simN)))]) ++
    [(8, (us.filter fun u => decide (u.outcome = 1)).length), (8, (us.filter fun u => decide (u.outcome = 2)).length),
      (32, if x.decode then 0 else sat 32 (sum fun u => u.cplx.getD 0)), (32, sat 32 (sumS fun u => u.skipUnits)), (32, sat 32 (sumS fun u => u.intraUnits)),
      (32, if rep then 0 else c.width / 8 * (c.codedLines / 8)), (32, sat 32 (sum fun u => if x.decode then u.mergeLate else u.filled)),
      (32, sat 32 (sum fun u => if x.decode then u.dupDiff else u.recon)), (8, (us.filter fun u => u.mirrored).length), (24, 0),
      (64, (if x.decode then y.tSched else x.tPic p) / tauNs), (32, (us.filter fun u => u.wakeLate).length), (32, (us.map fun u => u.runNs).foldl max 0),
      (192, 0)])

/-- A histogram record from byte 4 on (R182). -/
def Channel.histRecord (x : Channel) (ch p : Nat) : Nat :=
  let y := x.pic p
  packFields ([(32, x.pictureWord ch p false true), (32, p), (32, y.histN), (384, 0)] ++ (List.range 256).map fun k => (16, SMap.get (fun _ => 0) y.hist k))

/-! ## Retirement (R55, R187) -/

/-- The channel subscriptions of a channel that include class `k`. -/
def State.channelSubs (s : State) (c k : Nat) : List Sub :=
  s.codec.subs.filter fun u => decide (u.kind = 0) && decide (u.source = c) && bitAt u.classes k

/-- Writes the picture record of `p`, and its histogram record, to the rings that want them: of a channel that runs or drains (R186). -/
def State.putPicture (s : State) (c p : Nat) (rep : Bool) : State :=
  if (s.channel c).state ≠ .running ∧ (s.channel c).state ≠ .draining then s
  else (s.channelSubs c 1).foldl (fun t u =>
    let x := t.channel c
    let hist := bitAt u.classes 2 && !x.decode && !rep
    let t := t.putRecord u.qid u.coalesce 2 2 (x.pictureRecord c p rep hist)
    if hist then t.putRecord u.qid u.coalesce 3 9 (x.histRecord c p) else t) s

/-- The hook statistics entry of a band that retires while an open image is loaded on its tambour (R244, R256). -/
def State.putHookStats (s : State) (i : BandId) : State :=
  let x := s.channel i.ch
  let u := s.band i
  if (s.store x.tambour).oState ≠ 2 then s
  else s.shwWrite (0x500000 + 0x2000 * i.ch + 32 * i.b) 32
    (packFields [(32, i.pic), (8, i.b), (2, u.outcome), (22, 0), (128, if u.outcome = 0 then u.openStats else 0), (64, 0)])

/-- Every band before `i` in coding order has retired. -/
def Channel.earlierRetired (x : Channel) (i : BandId) : Bool :=
  (List.range i.b).all (fun b => decide (((x.pic i.pic).band b).state = .retired)) &&
  x.pics.all fun (e : Nat × Pic) =>
    !(e.2.started || e.2.startsDec) || decide (x.posOf i.pic ≤ x.posOf e.1) || (List.range (x.cfgOf e.1).bandCount).all fun b => decide ((e.2.band b).state = .retired)

/-- What band `i` will have sent is settled: a follower's band that was not sent waits for the comparison and its mirror (R212); a decode band that was
abandoned waits for its repair pass, whose concealment its record describes (R188). -/
def State.outcomeSettled (s : State) (i : BandId) : Bool :=
  let u := s.band i
  match u.state with
  | .sent => true
  | .abandoned => !(s.tamb (s.channel i.ch).tambour).repairs.contains i && (!(s.pairedBand i && s.twin.follower) || (u.judged && u.mirror.isNone))
  | .skipped => !(s.pairedBand i && s.twin.follower) || (u.judged && u.mirror.isNone)
  | _ => false

/-- A CODED decode band whose output had no active flow is SENT from the ELIGIBLE time of its last packet on (R55). -/
def State.sentByTime (s : State) (i : BandId) : State :=
  match (s.band i).state, (s.band i).sentAt with
  | .coded, some t => if t ≤ s.nowT then s.modBand i fun u => { u with state := .sent, released := true } else s
  | _, _ => s

/-- A band retires with its record (R55, R187). -/
def State.retire (s : State) (i : BandId) : State :=
  let s := s.sentByTime i
  let x := s.channel i.ch
  if s.outcomeSettled i = false ∨ x.earlierRetired i = false ∨ (x.cfgOf i.pic).bandCount ≤ i.b then s
  else
    let s := s.putHookStats i
    let s := if x.state = .running ∨ x.state = .draining then
        let s := (s.channelSubs i.ch 0).foldl (fun t u => t.putRecord u.qid u.coalesce 1 1 (x.bandRecord i.ch i.pic i.b)) s
        if i.b + 1 = (x.cfgOf i.pic).bandCount then s.putPicture i.ch i.pic false else s
      else s
    let s := s.modBand i fun u => { u with state := .retired }
    let s := if i.b + 1 = (x.cfgOf i.pic).bandCount then s.modPic i.ch i.pic fun y => { y with recorded := true } else s
    s.checkDrained i.ch

/-- STATS_BAND_RECORD (R55, R187). -/
def execStatsBandRecord (channel pic band : Nat) (s : State) : Host.Outcome State Fault Refusal :=
  if channel < 128 then .next (s.retire ⟨channel, pic, band⟩) else .fault .noSuchUnit

/-! ## Subscribing (R186, R298) -/

/-- A ring that records may be written to: a created HSR, or an IWQ. -/
def State.statsRing (s : State) (q : Nat) : Bool :=
  let u := s.queue q
  u.valid && decide (4 ≤ u.log2) && (decide (u.ty = .hsr) || decide (u.ty = .iwq))

/-- The checks that a subscription and its end share (R186): ring, kind, source. -/
def State.subSourceCheck (s : State) (qid kind source : Nat) : Option Reply :=
  if s.statsRing qid = false then some (Reply.field St.noQueue 8)
  else if kind = 3 then some (Reply.field St.badFormat 8)
  else if kind = 0 ∧ 128 ≤ source then some (Reply.field St.badChannel 0x0C)
  else if kind = 2 ∧ 8 ≤ source then some (Reply.field St.badFormat 0x0C)
  else none

/-- STATS_SUBSCRIBE's effect. -/
def State.subscribe (s : State) (qid kind source classes interval us : Nat) : State × Reply :=
  match s.subSourceCheck qid kind source with
  | some r => (s, r)
  | none =>
    let mine (u : Sub) : Bool := decide (u.kind = kind) && decide (u.source = source)
    let again := s.codec.subs.any fun u => mine u && decide (u.qid = qid)
    if kind = 0 ∧ (s.channel source).state = .idle then (s, { status := St.badState })
    else if kind = 0 ∧ (classes = 0 ∨ (bitAt classes 2 = true ∧ bitAt classes 1 = false)) then (s, Reply.field St.badFormat 0x0C)
    else if kind ≠ 0 ∧ (interval = 0 ∨ 10000 < interval) then (s, Reply.field St.badFormat 0x10)
    else if again = false ∧ (4 ≤ (s.codec.subs.filter mine).length ∨ 4096 ≤ s.codec.subs.length) then (s, { status := St.quotaExceeded })
    else
      let fresh := !(s.codec.subs.any fun u => decide (u.qid = qid))
      let u : Sub := { kind := kind, source := source, qid := qid, classes := (if kind = 0 then classes else 0), interval := (if kind = 0 then 0 else interval),
                       coalesce := us, since := s.now }
      let rest := s.codec.subs.filter fun v => !(mine v && decide (v.qid = qid))
      -- The interval in progress of a subscription that is replaced ends here (R183).
      let s := (s.codec.subs.filter fun v => mine v && decide (v.qid = qid) && decide (v.kind ≠ 0)).foldl (fun t v => t.closeInterval v true t.now) s
      let s := { s with codec := { s.codec with subs := rest ++ [u] } }
      (if fresh then s.modQueue qid fun v => { v with seq := 0, afterLoss := false } else s, { status := St.ok })

/-- STATS_SUBSCRIBE (R186). A subscription of a channel waits as a command that names the channel does (R290). -/
def execStatsSubscribe (h : CmdHdr) (qid : BitVec 18) (kind : BitVec 2) (source : BitVec 11) (classes : BitVec 3) (intervalMs : BitVec 14) (coalesceUs : BitVec 10)
    (s : State) : Host.Outcome State Fault Refusal :=
  .next (hostCmd (.statsSubscribe h qid kind source classes intervalMs coalesceUs) h false false (decide (kind = 0) && s.chanWaits h.sq source.toNat)
    (fun _ t => now_ (t.subscribe qid.toNat kind.toNat source.toNat classes.toNat intervalMs.toNat coalesceUs.toNat)) s)

/-- STATS_UNSUBSCRIBE (R186, R294): records not yet begun are not written. -/
def execStatsUnsubscribe (h : CmdHdr) (qid : BitVec 18) (kind : BitVec 2) (source : BitVec 11) (s : State) : Host.Outcome State Fault Refusal :=
  .next (hostCmd (.statsUnsubscribe h qid kind source) h false false (decide (kind = 0) && s.chanWaits h.sq source.toNat) (fun _ t =>
    match t.subSourceCheck qid.toNat kind.toNat source.toNat with
    | some r => (t, some r)
    | none =>
      if kind = 0 ∧ (t.channel source.toNat).state = .idle then (t, some { status := St.badState })
      else ({ t with codec := { t.codec with subs := t.codec.subs.filter fun u =>
          !(decide (u.kind = kind.toNat) && decide (u.source = source.toNat) && decide (u.qid = qid.toNat)) } }, some { status := St.ok })) s)

end Sys2Proof.Machine
end

