-- ==== Sys2Proof/Machine/Views.lean ====
section
/-!
DEFINITION. Registers that show other state of the machine (the RO registers of every block's table), the diagnostic window (R523), and
reads (R10–R12, R523).
-/
namespace Sys2Proof.Machine

/-- Number of entries of a map that pass `f`. -/
def countIn {V : Type} (m : SMap V) (f : Nat → V → Bool) : Nat := (m.filter fun (e : Nat × V) => f e.1 e.2).length

/-- DEV_IDENT and DEV_CAPS (R5, R6): from the fuse shadow. -/
def State.devIdent (s : State) : Nat := SMap.get (fun _ => 0) s.fuse.shadow 0
def State.devCaps (s : State) : Nat :=
  let v := SMap.get (fun _ => 0) s.fuse.shadow 1
  packFields [(21, v), (1, b2n s.fuse.openKey)]

/-- Code of a state of the reset controller (R524). -/
def RstState.code (r : RstState) : Nat :=
  match r with | .held => 0 | .releasing => 1 | .selfTest => 2 | .running => 3 | .diagHold => 4

/-- RST, PWR and CLK (R524–R533, R556, R557), by offset from 0x1000. -/
def State.viewRst (s : State) (o : Nat) : Option Nat :=
  let r := s.rst
  let sensors := List.range 16
  if o = 0 then some (packFields [(3, r.state.code), (2, r.level)])
  else if o = 4 then some (packFields [(16, r.seen.toNat), (4, r.first), (2, r.causeLevel), (1, b2n r.optRestart), (1, b2n r.fuseWait)])
  else if o = 8 then some r.episodes
  else if o = 0x24 then some (packFields [(10, r.blk.block), (1, b2n r.blk.busy), (1, b2n r.blk.timeout), (1, b2n r.blk.rej), (1, b2n r.blk.pendingClk)])
  else if o = 0x104 then some (packFields [(4, s.pwr.hoopPll.toNat), (8, s.pwr.tambClk.toNat), (4, s.pwr.coreClk.toNat), (8, min 255 s.pwr.queue.length)])
  else if 0x140 ≤ o ∧ o < 0x180 ∧ o % 4 = 0 then
    let x := s.sensor ((o - 0x140) / 4)
    some (packFields [(11, ofSigned 11 x.temp), (4, 0), (1, b2n (x.valid && x.read))])
  else if o = 0x180 then
    some ((sensors.map fun n => 2 ^ n * b2n (s.sensor n).warn + 2 ^ (16 + n) * b2n (!((s.sensor n).valid && (s.sensor n).read))).sum)
  else if o = 0x200 then some s.pwr.clkGood.toNat
  else none

/-- FUSE (R534, R535), by offset from 0x2000. -/
def State.viewFuse (s : State) (o : Nat) : Option Nat :=
  let f := s.fuse
  let word (i : Nat) : Nat := SMap.get (fun _ => 0) f.shadow i
  if o = 0 then some (packFields [(1, b2n f.loaded), (8, f.single), (7, f.failWord), (1, b2n (f.inPulse || decide (f.toPulse ≠ []))), (1, s.field Reg.fuseStatus 17 1)])
  else if o = 4 then some (word 2) else if o = 8 then some (word 3)
  else if o = 0x14 then some 0
  else if o = 0x1C then some (word (s.field Reg.fuseOptIdx 0 7))
  else none

/-- FLT_REACT and FLT_LOG_STATUS (R498, R500). -/
def FaultSt.react (f : FaultSt) : Nat := packFields [(8, f.lastKind), (8, f.lastSec), (8, f.lastMrg), (2, f.lastCls), (1, b2n f.lastValid)]
def FaultSt.logStatus (f : FaultSt) : Nat := packFields [(8, f.logNext), (24, f.logTotal)]

/-- FLT (R497–R501), by offset from 0x3000. DEDUCED: SAFE reads 0 outside RUNNING, its reset value, since the reset ended the safe state although the pins stay so
(R491; log entry 139). -/
def State.viewFlt (s : State) (o : Nat) : Option Nat :=
  let f := s.flt
  if o = 4 then
    some (packFields [(1, b2n f.reaction.isSome), (2, match f.reaction with | some r => r.cls | none => 0), (1, b2n (f.safe && decide (s.rst.state = .running))), (2, s.field Reg.fltStatus 4 2)])
  else if o = 8 then some f.react
  else if o = 0x0C ∨ o = 0x14 then some 0
  else if o = 0x10 then some f.logStatus
  else if 0x20 ≤ o ∧ o < 0x30 ∧ o % 4 = 0 then some (bitsAt (SMap.get (fun _ => 0) f.log (s.field Reg.fltLogIdx 0 8)) (8 * (o - 0x20)) 32)
  else if 0x400 ≤ o ∧ o < 0x800 ∧ o % 4 = 0 then
    some (if (kindInfo ((o - 0x400) / 4)).isSome then s.kindClass ((o - 0x400) / 4) else 0)
  else none

/-- IRQ_SRCn (R464), by offset from 0x4000. -/
def State.viewIrq (s : State) (o : Nat) : Option Nat :=
  if 4 ≤ o ∧ o < 0x800 ∧ o % 4 = 0 then
    let i := s.src (o / 4)
    some (packFields [(8, i.route), (1, b2n i.level), (4, i.filter), (1, b2n i.invert), (1, b2n i.pending), (1, b2n i.inService), (2, i.owner), (1, b2n i.line)])
  else if o = 0x800 then some 0
  else none

/-- TIME (R417, R419, R420, R422), by offset from 0x6000. -/
def State.viewTime (s : State) (o : Nat) : Option Nat :=
  let t := s.time
  if o = 0x28 then
    some (packFields [(1, b2n t.valid), (3, s.servoShown.code), (2, t.ref.source), (1, b2n t.ref.steer),
      (1, b2n (match t.ppsAt with | some a => decide (s.now < 1500000000 + a) | none => false)), (1, b2n t.ref10mOk), (1, b2n t.follower), (1, b2n t.tlvTc.isSome),
      (1, b2n t.slavePort.isSome), (3, t.slavePort.getD 0)])
  else if o = 0x3C then some t.ref10mPpb
  else if o = 0x04 ∨ o = 0x20 ∨ o = 0x24 ∨ o = 0x44 then some 0
  else none

/-- Code of a windlass state (R280). -/
def WswState.code (w : WswState) : Nat := match w with | .disabled => 0 | .waiting => 1 | .summary => 2 | .scan => 3 | .halted => 4

/-- HST and WSW (R265, R269, R280), by offset from 0x8000. -/
def State.viewHost (s : State) (o : Nat) : Option Nat :=
  let h := s.host
  if o = 0 then some (packFields [(1, b2n h.ready), (1, b2n (decide (s.rst.state = .diagHold))), (1, b2n h.enabled), (1, b2n (decide (h.wsw = .halted)))])
  else if o = 0x30 then some h.errCause
  else if o = 0x104 then some (packFields [(3, h.wsw.code), (1, b2n h.epochMode)])
  else none

/-- Firmware's internal work queues that nothing has changed. -/
def State.untouchedIwqs (s : State) : Nat :=
  ((List.range 65536).filter fun q => fwIwq q && Config.fwQueueValid q && !s.queues.any fun (e : Nat × Queue) => decide (e.1 = q)).length

/-- CIS (R323): the three admin queues count as VALID whether or not the rings run. -/
def State.viewCis (s : State) (o : Nat) : Option Nat :=
  if o = 0 then some (3 + countIn s.queues fun q u => u.valid && decide (65536 ≤ q))
  else if o = 4 then some ((countIn s.queues fun q u => u.valid && decide (4 ≤ q ∧ q < 65536)) + s.untouchedIwqs)
  else none

/-- WEL (R325, R326, R328), by offset from 0x20000. -/
def State.viewWel (s : State) (o : Nat) : Option Nat :=
  if o = 4 then some (packFields [(1, b2n s.cellWell.rebuild), (1, b2n s.pageWell.rebuild), (1, s.field Reg.welStatus 2 1)])
  else if o = 8 then some (s.wellFree .cell) else if o = 0x0C then some (s.wellFree .cell - s.unmet .cell)
  else if o = 0x10 then some (s.wellFree .page) else if o = 0x14 then some (s.wellFree .page - s.unmet .page)
  else if o = 0x18 then some s.pageWell.cache.length
  else if 0x400 ≤ o ∧ o < 0x600 ∧ o % 4 = 0 then
    let k := (o - 0x400) / 4 % 64
    some (if 22 ≤ k ∧ k ≤ 31 then 0 else (s.well (if o < 0x500 then .cell else .page)).used k)
  else none

/-- Context pump `n` moves a preload or a writeback of its tambour (R331). -/
def State.contextBusy (s : State) (n : Nat) : Bool := decide (8 ≤ n) && (s.tamb (n - 8)).moving.isSome

/-- PMP and SPT (R349–R351), by offset from 0x24000. -/
def State.viewPmp (s : State) (o : Nat) : Option Nat :=
  let p := s.pump (o / 0x10)
  if o < 0x100 ∧ o % 0x10 = 0 then some (packFields [(1, b2n (p.running.isSome || s.contextBusy (o / 0x10))), (1, b2n (p.staging && decide (s.now < p.readTill))), (6, 0), (8, p.lastStatus)])
  else if o < 0x100 ∧ o % 0x10 = 4 then some (p.done % 2 ^ 32)
  else if 0x4000 ≤ o ∧ o < 0x4080 ∧ o % 0x10 = 0 then some (s.spout ((o - 0x4000) / 0x10)).words.length
  else none

/-- NET and GAT (R383, R387, R388), by offset from 0x30000. -/
def State.viewNet (s : State) (o : Nat) : Option Nat :=
  if o < 0x8000 ∧ o % 0x1000 = 4 then
    let p := s.port (o / 0x1000)
    some (packFields [(1, b2n p.linkUp), (1, b2n p.anDone), (1, b2n p.hiSer)])
  else if 0x8000 ≤ o ∧ o < 0xC000 then
    let g := (s.gate ((o - 0x8000) / 0x800)).follow s.now
    if o % 0x800 = 0 then some (packFields [(1, b2n g.oper.isSome), (1, b2n g.pending.isSome), (10, g.entry), (8, if s.flt.safe then 0 else g.gates)])
    else if o % 0x800 = 0x10 then some (match g.oper with | some l => l.cycle | none => 0)
    else none
  else none

/-- Code of a twin phase (R223). -/
def TwinPhase.code (t : TwinPhase) : Nat :=
  match t with | .disabled => 0 | .linking => 1 | .checking => 2 | .locking => 3 | .twinned => 4 | .survivor => 5 | .refused => 6 | .yielded => 7

/-- TWN (R223, R225, R226), by offset from 0x40000. -/
def State.viewTwn (s : State) (o : Nat) : Option Nat :=
  let t := s.twin
  if o = 4 then
    let diverged := countIn s.codec.channels fun _ x => x.state.live && !x.decode && decide (x.twinState = .diverged)
    let locked := if t.follower then t.timeLocked else decide (t.phase = .twinned)
    some (packFields [(3, t.phase.code), (1, b2n t.follower), (1, b2n s.rst.twinRole), (1, b2n t.link.up), (1, b2n t.peerReady), (1, b2n t.yieldIn), (1, b2n locked),
      (3, 0), (4, t.refuse), (8, diverged)])
  else if o = 0x0C then some (if t.follower then ofSigned 32 t.timeOfs else 0)
  else if o = 0x10 then some t.session
  else if o = 0x14 then some t.divLast
  else none

/-- TMB (R57–R59) of tambour `t`, by offset. -/
def State.viewTmb (s : State) (t o : Nat) : Option Nat :=
  let x := s.tamb t
  -- With no band in CODING either bank may hold the band named next.
  let idle := if x.coding.isSome then (x.bank (1 - x.active)).named else s.firstBand (x.bankA.named.toList ++ x.bankB.named.toList)
  let res := s.residents t 128
  if o = 0 then
    let on := bitAt s.pwr.tambClk.toNat t
    let clock := if x.wakeAt.isSome && !s.clocked t then 2 else if bitAt s.pwr.hoopPll.toNat (t / 2) = false then 0
      else if on = false then 1 else if bitAt s.pwr.clkGood.toNat (1 + t / 2) then 3 else 2
    some (packFields [(2, clock), (1, x.active), (1, b2n x.coding.isSome), (7, match x.coding with | some i => i.ch | none => x.lastCh), (1, b2n idle.isSome),
      (7, match idle with | some i => i.ch | none => 0)])
  else if o = 4 then some (packFields [(7, (res.map Demand.cost).sum), (1, 0), (8, res.length)])
  else if o = 8 then some (wholeRate (res.map Demand.rate).sum)
  else none

/-- PRK (R255, R256, R258, R259) of tambour `t`, by offset. -/
def State.viewPrk (s : State) (t o : Nat) : Option Nat :=
  let p := s.store t
  if o = 0 then some (packFields [(2, p.vState), (2, p.oState), (4, p.hookMask), (8, p.lastStatus)])
  else if o = 4 then some p.verV else if o = 8 then some p.verO
  else if o = 0x0C then some (packFields [(8, p.patchesV), (8, p.patchesO)])
  else if 0x18 ≤ o ∧ o < 0x30 ∧ o % 4 = 0 then some (bitsAt (p.word (s.field (Reg.prk + 0x100 * t + 0x14) 0 13)) (8 * (o - 0x18)) 32)
  else if 0x40 ≤ o ∧ o < 0x60 ∧ o % 4 = 0 then some (bitsAt p.digestV (8 * (o - 0x40)) 32)
  else if 0x60 ≤ o ∧ o < 0x80 ∧ o % 4 = 0 then some (bitsAt p.digestO (8 * (o - 0x60)) 32)
  else none

/-- HBM (R443, R444, R448), by offset from 0x70000. -/
def State.viewHbm (s : State) (o : Nat) : Option Nat :=
  let h := s.hbm
  if o = 4 then
    some (packFields [(1, b2n h.trained), (1, b2n h.training), (1, b2n h.selfRefresh), (2, h.tempRange), (2, s.field Reg.hbmStatus 5 2), (1, 0), (8, h.lanesRepaired)])
  else if o = 8 then some 0
  else if o = 0x0C then some (ofSigned 8 h.temp)
  else if o = 0x284 then
    some (match h.lastBad with | some (c, k, r) => packFields [(7, c), (1, 1), (5, k), (7, r)] | none => 0)
  else none

/-- The diagnostic window (R523), by offset. -/
def State.viewBar2 (s : State) (o : Nat) : Nat :=
  if o = 0 then s.devIdent else if o = 4 then s.devCaps
  else if o = 8 then (s.viewRst 0).getD 0 else if o = 0x0C then (s.viewRst 4).getD 0 else if o = 0x10 then (s.viewRst 8).getD 0
  else if o = 0x14 then s.flt.react else if o = 0x18 then s.flt.logStatus else if o = 0x1C then (s.viewFuse 0).getD 0
  else if 0x40 ≤ o ∧ o < 0x80 ∧ o % 4 = 0 then bitsAt s.rst.selfTest (8 * (o - 0x40)) 32
  else if 0x1000 ≤ o ∧ o < 0x2000 ∧ o % 4 = 0 then bitsAt (SMap.get (fun _ => 0) s.flt.log ((o - 0x1000) / 16)) (8 * (o % 16)) 32
  else 0

/-- Words outside BAR0: BAR4 from 0x10_0000 on (a vector's control word, and the pending bits), the bits of configuration space that the
rings depend on, BAR2 from 0x30_0000 on, and a core's IRQ_REQ at 0x40_000C (R262, R263, R463, R468, R523). -/
def State.viewOutside (s : State) (who : Requester) (a : Nat) : Nat :=
  let h := s.host
  if 0x100000 ≤ a ∧ a < 0x100400 ∧ a % 16 = 12 then b2n (!SMap.get (fun _ => false) h.unmasked ((a - 0x100000) / 16))
  else if 0x100000 ≤ a ∧ a < 0x100400 ∧ a % 4 = 0 then SMap.get (fun _ => 0) h.msixTable (a - 0x100000)
  else if pciMask a ≠ 0 then s.pciItem a
  else if a = 0x200020 then 0x1E7A + 2 ^ 16 * (s.devIdent % 2 ^ 16) else if a = 0x200024 then 0x048000
  else if a = 0x102000 ∨ a = 0x102004 then
    ((List.range 32).map fun k => 2 ^ k * b2n (SMap.get (fun _ => false) h.vecPend (8 * (a - 0x102000) + k))).sum
  else if a = 0x200000 then b2n h.busMaster else if a = 0x200004 then b2n h.atomicReq else if a = 0x200008 then b2n h.msixEnable
  else if a = 0x20000C then b2n h.funcMask
  else if 0x300000 ≤ a ∧ a < 0x310000 then s.viewBar2 (a - 0x300000)
  else match who with
    | .core c =>
      if a = 0x40000C then packFields [(1, b2n (s.requestLine c)), (9, s.claimable c)]
      else if a = 0x400008 then (s.queue (fbQueue c)).head else 0
    | .host => 0

/-- The 64-bit registers that show other state, by the address of their low word: CK_RESULT, TIME_PPS_TS, GAT_SWITCH; and the write-only TIME_STEP, which reads 0. -/
def State.viewPair (s : State) (a : Nat) : Option Nat :=
  if inRegs a (Reg.ck + 0x30) 0x100 16 then some (s.ckResult ((a - Reg.ck) / 0x100))
  else if a = 0x6030 then some s.time.ppsTs
  else if a = Reg.timeStepLo then some 0
  else if inRegs a 0x38008 0x800 8 then some (match (s.gate ((a - 0x38008) / 0x800)).pending with | some p => p.2 | none => 0)
  else none

/-- The words that show other state, by BAR0 offset. -/
def State.view (s : State) (a : Nat) : Option Nat :=
  if a = 0 then some s.devIdent else if a = 4 then some s.devCaps else if a < 0x1000 then none
  else if a < 0x2000 then s.viewRst (a - 0x1000) else if a < 0x3000 then s.viewFuse (a - 0x2000)
  else if a < 0x4000 then s.viewFlt (a - 0x3000) else if a < 0x5000 then s.viewIrq (a - 0x4000)
  else if a < 0x6000 then none else if a < 0x7000 then s.viewTime (a - 0x6000)
  else if a < 0x8000 then none else if a < 0x9000 then s.viewHost (a - 0x8000)
  else if a < 0x10000 then none else if a < 0x20000 then s.viewCis (a - 0x10000)
  else if a < 0x24000 then s.viewWel (a - 0x20000) else if a < 0x30000 then s.viewPmp (a - 0x24000)
  else if a < 0x40000 then s.viewNet (a - 0x30000) else if a < 0x50000 then s.viewTwn (a - 0x40000)
  else if a < 0x60000 then s.viewTmb ((a - 0x50000) / 0x2000) ((a - 0x50000) % 0x2000)
  else if a < 0x60800 then s.viewPrk ((a - 0x60000) / 0x100) ((a - 0x60000) % 0x100)
  else if 0x70000 ≤ a ∧ a < 0x80000 then s.viewHbm (a - 0x70000) else none

/-- The high word of a pair is read (R11): what is latched, which is used up; else its current value `v`. -/
def State.readHigh (s : State) (who : Requester) (lo : Nat) (v : Word) : State :=
  match SMap.get (fun _ => none) s.latchedHi (reqKey who lo) with
  | some h => { s with lastRead := h, latchedHi := SMap.set (fun _ => none) s.latchedHi (reqKey who lo) none }
  | none => { s with lastRead := v }

/-- The low word of a pair is read (R11): the high word is latched. -/
def State.readLow (s : State) (who : Requester) (lo : Nat) (v hi : Word) : State :=
  { s with lastRead := v, latchedHi := SMap.set (fun _ => none) s.latchedHi (reqKey who lo) (some hi) }

/-- A read of a register of the file (R11, R12): RC bits are cleared; the low word of a pair latches the high word, and the
high word gives what is latched. -/
def State.readFile (s : State) (who : Requester) (a : Nat) : State :=
  match regRow a with
  | none => { s with lastRead := 0 }
  | some r =>
    if r.lo then s.readLow who a (s.reg a) (s.reg (a + 4))
    else if r.hi || inRegs a (Reg.ck + 0x2C) 0x100 16 then s.readHigh who (a - 4) (s.reg a)
    else if r.rc = 0 then { s with lastRead := s.reg a }
    else { s.setRegN a (s.regN a &&& (allBits ^^^ r.rc)) with lastRead := s.reg a }

/-- A read of any register. -/
def State.readWord (s : State) (who : Requester) (a : Nat) : State :=
  if 0x100000 ≤ a then { s with lastRead := BitVec.ofNat 32 (s.viewOutside who a) }
  else match s.viewPair a, s.viewPair (a - 4), s.view a with
    | some v, _, _ => s.readLow who a (BitVec.ofNat 32 v) (BitVec.ofNat 32 (v / 2 ^ 32))
    | none, some v, _ => s.readHigh who (a - 4) (BitVec.ofNat 32 (v / 2 ^ 32))
    | none, none, some v => { s with lastRead := BitVec.ofNat 32 v }
    | none, none, none => s.readFile who a

/-- RC_READ (R12): the value is returned and the RC bits are cleared. A register that does not respond reads 0. -/
def execRcRead (who : Requester) (addr : Nat) (s : State) : Host.Outcome State Fault Refusal :=
  if s.responds addr then .next (s.readWord who addr) else .next { s with lastRead := 0 }

end Sys2Proof.Machine
end

