-- ==== Sys2Proof/Machine/TwinCtl.lean ====
section
/-!
DEFINITION. Starting, stopping and losing a twin (R189–R191, R198–R201, R217–R221): the commands, HELLO and CHECK, the exchange of times,
ARM messages, heartbeats, yield, and what a survivor does.
-/
namespace Sys2Proof.Machine

/-! ## Roles, the servo's input, outstanding operations -/

/-- The role that ROLE_SEL gives (R189): whether the device is follower. -/
def State.roleFollower (s : State) : Bool :=
  let v := s.field Reg.twn 0 2
  if v = 1 then false else if v = 2 then true else !s.rst.twinRole

/-- An encode channel is ARMED, RUNNING or DRAINING (R190, R198). -/
def State.encodeLive (s : State) : Bool := s.codec.channels.any fun (e : Nat × Channel) => !e.2.decode && e.2.state.live

/-- The follower leaves LOCKING or TWINNED: the servo returns to SOURCE (R409). -/
def State.leaveTwinTime (s : State) : State :=
  let s := { s with twin := { s.twin with timeLocked := false } }
  if s.time.follower then { s with time := { s.time with follower := false } }.servoTo (if s.sourceAvailable then .acquiring else .holdover) else s

/-- The follower enters LOCKING: the servo takes the Twilan offset alone, from the rate it holds (R409). -/
def State.enterTwinTime (s : State) : State :=
  let s := { s with time := { s.time with follower := true } }.servoTo .acquiring
  { s with time := { s.time with entryRate := s.incAdj } }

/-- The outstanding START or REJOIN (R198). -/
def State.twinStartOut (s : State) : Option Deferred := s.findDeferred fun o => decide (o = .twinStart) || decide (o = .twinRejoin)

/-- The outstanding START or REJOIN ends with a status. -/
def State.endTwinStart (s : State) (status : Nat) : State := match s.twinStartOut with | some d => s.endDeferred d { status := status } | none => s

/-- A TWIN_CONTROL operation is outstanding (R290). -/
def State.twinOut (s : State) : Bool := (s.findDeferred fun o => decide (o = .twinStart) || decide (o = .twinRejoin) || decide (o = .twinYield)).isSome

/-! ## HELLO and CHECK (R199) -/

/-- The firmware digest (R297). -/
def State.fwDigest (s : State) : Nat := sha256 (recBytes s.fw.vendorSha 32 ++ recBytes s.fw.ctrlSha 32)

/-- The stores of the enabled tambours. -/
def State.enabledStores (s : State) : List Store := ((List.range 8).filter s.tambEnabled).map s.store

/-- The digests that CHECK carries: those of every enabled tambour. -/
def State.vendorDigests (s : State) : List Nat := s.enabledStores.map Store.digestV
def State.openDigests (s : State) : List Nat := s.enabledStores.map Store.digestO

/-- The digests of a list are all the same. -/
def allEqual (l : List Nat) : Bool := l.all fun v => decide (v = l.headD 0)

/-- CHECK as this device sends it. -/
def State.checkMsg (s : State) : TwMsg := .check 1 (s.devIdent % 65536) (!s.twin.follower) s.vendorDigests s.openDigests s.fwDigest

/-- The first check that fails against the peer's CHECK (R199), 0 when all pass. -/
def State.checkCause (s : State) (version part : Nat) (leader : Bool) (vendor opened : List Nat) (firmware : Nat) : Nat :=
  if version ≠ 1 then 3
  else if part ≠ s.devIdent % 65536 then 1
  else if leader = !s.twin.follower then 2
  else if allEqual (s.vendorDigests ++ vendor) = false then 4
  else if allEqual (s.openDigests ++ opened) = false then 5
  else if firmware ≠ s.fwDigest then 6
  else 0

/-- With the link up and the peer's HELLO with READY = 1 received, a device that takes part in a start enters CHECKING and sends its
CHECK (R199, R201). -/
def State.tryCheck (s : State) : State :=
  match s.twin.peerHello with
  | some (_, true) =>
    if s.awaitsHello && s.twin.link.up then { s with twin := { s.twin with phase := .checking, peerHello := none } }.twSend s.checkMsg else s
  | _ => s

/-- HELLO (R199): the leader's brings the SESSION. -/
def State.onHello (s : State) (session : Nat) (ready leader : Bool) : State :=
  let t := { s with twin := { s.twin with peerHello := some (session, ready),
                                          session := if s.twin.follower && leader && s.awaitsHello then session else s.twin.session } }
  t.tryCheck

/-- HELLO. -/
def execHello (s : State) : Host.Outcome State Fault Refusal :=
  .next (s.onMsg (fun m => match m with | .hello _ _ _ _ => true | _ => false) fun t d =>
    match d.msg with
    | .hello _ session ready leader => t.onHello session ready leader
    | _ => t)

/-- The checks' outcome (R199, R201): REFUSED, or LOCKING, where the follower steers its time base to the leader's. -/
def State.onCheck (s : State) (cause : Nat) : State :=
  if cause ≠ 0 then ({ s with twin := { s.twin with phase := .refused, refuse := cause } }.endTwinStart St.twinRefused)
  else
    let t := { s with twin := { s.twin with phase := .locking, lockRun := 0, skewRun := 0 } }
    if t.twin.follower then t.enterTwinTime else t

/-- CHECK (R199): taken in CHECKING; before that it waits. -/
def execCheck (s : State) : Host.Outcome State Fault Refusal :=
  .next (if s.twin.phase ≠ .checking then s
    else s.onMsg (fun m => match m with | .check _ _ _ _ _ _ => true | _ => false) fun t d =>
      match d.msg with
      | .check version part leader vendor opened firmware => t.onCheck (t.checkCause version part leader vendor opened firmware)
      | _ => t)

/-! ## The commands (R198) -/

/-- A start or rejoin begins (R201): LINKING. The leader chooses the SESSION; HELLO is sent when the link is up. -/
def State.beginTwin (s : State) (h : CmdHdr) (idx : Nat) (op : DeferredOp) (phase : TwinPhase) (follower rejoin : Bool) : State :=
  let f := s.takeFree
  let session := if follower then (match s.twin.peerHello with | some (n, _) => n | none => s.twin.session) else f.1 % 2 ^ 32
  let s := if follower then s else f.2
  let s := { s with twin := { s.twin with phase := phase, follower := follower, rejoin := rejoin, startedAt := s.now, session := session, refuse := 0,
                                          timeLocked := false, lockRun := 0, skewRun := 0, yielding := false, resyncDue := [], joinDue := [],
                                          ownArm := [], peerArm := [] } }
  let s := s.addDeferred { sq := h.sq, cid := h.cid.toNat, idx := idx, op := op, since := s.now }
  (if s.twin.link.up then s.twSend s.helloMsg else s).tryCheck

/-- TWIN_CONTROL START's effect. -/
def State.twinStart (s : State) (h : CmdHdr) (idx : Nat) : State × Option Reply :=
  if s.twin.phase ≠ .disabled ∨ s.encodeLive = true then (s, some { status := St.badState })
  else if 16 ≤ s.host.deferred.length then (s, some { status := St.busy })
  else (s.beginTwin h idx .twinStart .linking s.roleFollower false, none)

/-- TWIN_START (R198). -/
def execTwinStart (h : CmdHdr) (s : State) : Host.Outcome State Fault Refusal :=
  .next (hostCmd (.twinStart h) h true false s.twinOut (fun idx t => t.twinStart h idx) s)

/-- The twin stops (R198, R201): an outstanding START or REJOIN completes with ABORTED; BYE with the link up; DISABLED. -/
def State.stopTwin (s : State) : State :=
  let s := s.endTwinStart St.aborted
  let s := s.twSend .bye
  { s with twin := { s.twin with phase := .disabled, follower := false, rejoin := false, peerHello := none, yielding := false } }.leaveTwinTime

/-- TWIN_STOP (R198): it does not wait for an outstanding START or REJOIN. -/
def execTwinStop (h : CmdHdr) (s : State) : Host.Outcome State Fault Refusal :=
  .next (hostCmd (.twinStop h) h true false (s.findDeferred fun o => decide (o = .twinYield)).isSome
    (fun _ t => if t.twin.phase ≠ .disabled ∧ t.encodeLive = true then (t, some { status := St.badState }) else (t.stopTwin, some { status := St.ok })) s)

/-- TWIN_CONTROL REJOIN's effect (R198, R221): on the survivor, or on the returning device, which acts as follower. -/
def State.twinRejoin (s : State) (h : CmdHdr) (idx : Nat) : State × Option Reply :=
  if s.twin.phase ≠ .survivor ∧ s.twin.phase ≠ .disabled then (s, some { status := St.badState })
  else if 16 ≤ s.host.deferred.length then (s, some { status := St.busy })
  else if s.twin.phase = .survivor then (s.beginTwin h idx .twinRejoin .survivor false true, none)
  else (s.beginTwin h idx .twinRejoin .linking true true, none)

/-- REJOIN (R221). -/
def execRejoin (h : CmdHdr) (s : State) : Host.Outcome State Fault Refusal :=
  .next (hostCmd (.rejoin h) h true false s.twinOut (fun idx t => t.twinRejoin h idx) s)

/-- RESET_PEER (R198, R220). -/
def execResetPeer (h : CmdHdr) (s : State) : Host.Outcome State Fault Refusal :=
  .next (hostCmd (.resetPeer h) h true false s.twinOut (fun _ t =>
    if (t.twin.phase = .twinned ∨ t.twin.phase = .survivor) ∧ t.twin.link.up = true then (t.twSend .resetPeer, some { status := St.ok })
    else (t, some { status := St.badState })) s)

/-- RESET_PEER_REQUEST (R220): acted on with PEER_RESET_EN; reset source 12 asserts. -/
def execResetPeerRequest (s : State) : Host.Outcome State Fault Refusal :=
  .next (s.onMsg (fun m => decide (m = .resetPeer)) fun t _ => if t.field Reg.twn 3 1 = 1 then t.assertSource 12 else t)

/-! ## The exchange of times (R200, R409) -/

/-- A request is due (R200): 10 µs after the one before; one from before a step of the time base counts no longer. -/
def State.exchangeDue (s : State) : Bool :=
  match s.twin.timeSent with
  | some t => decide (t + 10000 ≤ s.now) || decide (s.now < t)
  | none => true

/-- TIME_EXCHANGE (R200): the follower's request leaves, every 10 µs. -/
def execTimeExchange (s : State) : Host.Outcome State Fault Refusal :=
  .next (if s.twin.follower && (decide (s.twin.phase = .locking) || decide (s.twin.phase = .twinned)) && s.exchangeDue then
    { s with twin := { s.twin with timeSent := some s.now } }.twSend (.timeRequest s.nowQ) else s)

/-- START or REJOIN is over: TWINNED (R201). Heartbeats are judged from now on. -/
def State.enterTwinned (s : State) : State :=
  ({ s with twin := { s.twin with phase := .twinned, timeLocked := true, skewRun := 0, hbJudged := s.now, hbMissed := 0 } }.endTwinStart St.ok)

/-- The follower's steering by an offset in 0.25 ns (R200, R409): a step above 1 µs, else a rate within the limit, which firmware
chooses. -/
def State.steerTwin (s : State) (offset : Int) : State :=
  if s.field Reg.timeCfg 0 1 = 1 then s
  else if (4000 : Int) < |offset| then { s with time := { s.time with step := some (.by (-(Int.tdiv offset 4))), valid := true } }
  else
    let f := s.takeFree
    f.2.steer 0 (toSigned 32 f.1)

/-- The offset of an exchange (R200), follower minus leader. -/
def twinOffset (t1 t2 t3 t4 : Nat) : Int := Int.tdiv (((t4 : Int) - t3) - ((t2 : Int) - t1)) 2

/-- The path delay of an exchange (R200). -/
def twinDelay (t1 t2 t3 t4 : Nat) : Int := Int.tdiv (((t2 : Int) - t1) + ((t4 : Int) - t3)) 2

/-- What an offset does to LOCKING and TWINNED (R200): 16 small ones in a row end LOCKING; three large ones raise TWIN_TIME_SKEW. -/
def State.judgeTwinOffset (s : State) (offset : Int) : State :=
  let small := decide (|offset| ≤ (16 : Int))
  let s := { s with twin := { s.twin with timeOfs := offset } }
  if s.twin.phase = .locking then
    let n := if small then s.twin.lockRun + 1 else 0
    let s := { s with twin := { s.twin with lockRun := n } }
    if n < 16 then s else ((s.twSend .twinned).enterTwinned).servoTo .locked
  else
    let n := if small then 0 else s.twin.skewRun + 1
    let s := { s with twin := { s.twin with skewRun := n } }
    if n = 3 then s.raise Src.twin Kind.twinTimeSkew 0 (ofSigned 32 offset) else s

/-- TIME (R200): the leader answers a request; the follower takes a response. -/
def State.onTime (s : State) (d : TwDelivered) : State :=
  match d.msg with
  | .timeRequest t1 => if s.twin.follower then s else s.twSend (.timeResponse t1 d.at_ s.nowQ)
  | .timeResponse t1 t2 t3 =>
    if s.twin.follower && (decide (s.twin.phase = .locking) || decide (s.twin.phase = .twinned)) then
      let o := twinOffset t1 t2 t3 d.at_
      ({ s with twin := { s.twin with timeDelay := twinDelay t1 t2 t3 d.at_ } }.judgeTwinOffset o).steerTwin o
    else s
  | _ => s

/-- TIME. -/
def execTime (s : State) : Host.Outcome State Fault Refusal := .next (s.onMsg (fun m => decide (twClass m = 6)) fun t d => t.onTime d)

/-- TWINNED_NOTICE (R200, R201): the leader enters TWINNED. -/
def execTwinnedNotice (s : State) : Host.Outcome State Fault Refusal :=
  .next (s.onMsg (fun m => decide (m = .twinned)) fun t _ => if t.twin.phase = .locking ∧ t.twin.follower = false then t.enterTwinned else t)

/-! ## Timeouts and ARM messages (R191, R201) -/

/-- START_TIMEOUT in ns (R224). -/
def State.startLimit (s : State) : Nat := 10000000 * max 1 (s.field (Reg.twn + 8) 8 8)

/-- A start of the twin times out (R201): DISABLED; a survivor stays SURVIVOR. -/
def State.twinTimeout (s : State) : State :=
  let waits := decide (s.twin.phase = .linking) || decide (s.twin.phase = .locking) || (decide (s.twin.phase = .survivor) && s.twin.rejoin)
  if s.twinStartOut.isSome && waits && decide (s.twin.startedAt + s.startLimit ≤ s.now) then
    let back : TwinPhase := if s.twin.rejoin ∧ s.twin.follower = false then .survivor else .disabled
    (({ s with twin := { s.twin with phase := back, rejoin := false, refuse := 8, follower := false } }.leaveTwinTime).endTwinStart St.timeout)
  else s

/-- Starts of channels that have waited START_TIMEOUT for the peer's ARM complete with TIMEOUT (R191). -/
def State.channelTimeouts (s : State) : State :=
  s.host.deferred.foldl (fun t d => match d.op with
    | .channelStart c _ => if d.since + t.startLimit ≤ t.now then t.withdrawStart c { status := St.timeout } else t
    | _ => t) s

/-- START_TIMEOUT (R191, R201). -/
def execStartTimeout (s : State) : Host.Outcome State Fault Refusal := .next (s.twinTimeout.channelTimeouts)

/-- The peer's ARM for channel `c` (R191): it ends this device's outstanding start, waits for one, or on a survivor is answered and, when
equal, makes the channel's next token carry JOIN (R221). -/
def State.onArm (s : State) (c : Nat) (peer : Nat × Nat) : State :=
  let x := s.channel c
  if 128 ≤ c then s
  else match s.startOf c, s.ownArm c with
    | some d, some own =>
      let join := match d.op with | .channelStart _ j => j | _ => false
      let r := s.matchArms c own peer join
      r.1.endDeferred d r.2
    | _, _ =>
      if s.twin.rejoin && !s.twin.follower && !x.decode && x.state.live then
        let own := (x.digestAt x.startNs, x.startNs)
        let t := s.twSend (.arm c own.1 own.2)
        if own = peer ∧ t.twin.joinDue.contains c = false then { t with twin := { t.twin with joinDue := t.twin.joinDue ++ [c] } } else t
      else s.setPeerArm c (some peer)

/-- ARM (R191). -/
def execArm (s : State) : Host.Outcome State Fault Refusal :=
  .next (s.onMsg (fun m => match m with | .arm _ _ _ => true | .armWithdraw _ => true | _ => false) fun t d =>
    match d.msg with
    | .arm c dg startNs => t.onArm c (dg, startNs)
    | .armWithdraw c => if c < 128 then t.setPeerArm c none else t
    | _ => t)

/-! ## Peer loss (R217–R219) -/

/-- The bands of a picture that are not coded become SKIPPED (R218). -/
def State.skipUncoded (s : State) (c p : Nat) : State :=
  (List.range (s.channel c).cfg.bandCount).foldl (fun t b =>
    let i : BandId := ⟨c, p, b⟩
    match (t.band i).state with
    | .arriving => t.bandOutcome i .skipped
    | .ready => t.takeOff i .skipped
    | .named => t.takeOff i .skipped
    | .coding => t.takeOff i .skipped
    | _ => t) s

/-- A band whose reconcile is outstanding at the loss closes at once (R218). -/
def State.closeAtLoss (s : State) (i : BandId) : State :=
  if (s.band i).reconOpen && decide ((s.band i).state = .arriving) then
    let t := (s.modBand i fun u => { u with reconOpen := false }).raise Src.twin Kind.twinReconLate (addrP i.ch i.pic i.b) 0
    t.readyNow i ((t.channel i.ch).inputDeadline i.pic i.b)
  else s

/-- One unreleased band of a paired channel at the loss (R218). -/
def State.bandAtLoss (s : State) (i : BandId) : State :=
  let u := s.band i
  if u.released then s
  else match u.mirror with
    | some g => if u.mirrored then s else (s.dropMirror i g.len).uncommitAndName i.ch i.pic (i.b + 1)
    | none =>
      match u.ownRec, u.peerRec with
      | some v, none => if recOutcome v = 1 ∨ (recOutcome v ≠ 0 ∧ s.twin.follower = true) then s.countAbandoned i else s
      | _, _ => s

/-- A twin channel of the survivor (R202, R218): SOLO; one that was DIVERGED skips the rest of its picture, the bands not coded of those named, and codes the next as an IDR
picture, whose band 0 brings it to SOLO. -/
def State.channelAtLoss (s : State) (c : Nat) : State :=
  let x := s.channel c
  let bands := x.bandsWhere c fun u => decide (u.state ≠ .retired)
  let s := if s.paired c then bands.foldl (fun t i => t.closeAtLoss i) s else s
  let held := (x.pics.map fun (e : Nat × Pic) => e.1).flatMap fun p => (List.range x.cfg.bandCount).map fun b => (⟨c, p, b⟩ : BandId)
  let s := if s.paired c then held.foldl (fun t i => if t.pairedBand i then t.bandAtLoss i else t) s else s
  if x.twinState = .diverged then
    let s := ((x.pics.filter fun (e : Nat × Pic) => e.2.named).map Prod.fst).foldl (fun t p => t.skipUncoded c p) s
    s.modChannel c fun x => { x with refreshBroken := true }
  else if x.twinState = .joining then
    let p := (((s.nowT - x.tPic 0) / x.cfg.periodT) + 1)
    s.modChannel c fun x => { x with twinState := .solo, joinPic := p }
  else s.modChannel c fun x => { x with twinState := .solo }

/-- A channel of a surviving follower: from the picture whose ledger point is still ahead it takes its own plans; before that, plans are carried
(R218). -/
def State.cutLedger (s : State) (c : Nat) : State := if s.twin.follower then s.modChannel c fun x => { x with ledgerCut := some s.nowT } else s

/-- The peer is lost (R217, R218): TWIN_LOST; the survivor acts as leader. What waits is settled while the channels still count as
paired; then their due bands are released on their own records. -/
def State.peerLost (s : State) : State :=
  if s.twin.phase ≠ .twinned then s
  else
    let f := s.takeFree
    let s := f.2.raise Src.twin Kind.twinLost 0 f.1
    let cs := (s.codec.channels.filter fun (e : Nat × Channel) => !e.2.decode && e.2.state.live).map fun (e : Nat × Channel) => e.1
    let s := cs.foldl (fun t c => (t.channelAtLoss c).cutLedger c) s
    let s := { s with twin := { s.twin with phase := .survivor, follower := false, rejoin := false, lostAt := s.now, hbMissed := 0, resyncDue := [],
                                            joinDue := [], peerHello := none } }.leaveTwinTime
    cs.foldl (fun t c => t.releaseDue c) s

/-- HEARTBEAT_SEND (R217): at the first tick that is not before a PTP time that is a multiple of 10 µs, once; SENT is that time. A tick is 40 ns, give or
take the rate adjustment, and the time base need not pass through the multiple itself. -/
def State.sendHeartbeat (s : State) : State :=
  let at_ := s.now / 10000 * 10000
  if s.twin.link.up = false ∨ 40 < s.now - at_ ∨ s.twin.hbSent = some at_ then s
  else
    let a := { s with twin := { s.twin with hbSent := some at_ } }.nextAlive 256
    a.1.twSend (.heartbeat (packFields [(8, a.2), (3, s.twin.phase.code), (1, b2n s.twinReady), (1, b2n s.twin.follower), (51, 0), (64, at_)]))

/-- HEARTBEAT_SEND. -/
def execHeartbeatSend (s : State) : Host.Outcome State Fault Refusal := .next s.sendHeartbeat

/-- The heartbeats seen, once one of SENT `sent` has been accepted at `at_` (0.25 ns): it counts for its due time when it came by 6 µs after it (R217). -/
def TwinSt.seen (w : TwinSt) (sent at_ : Nat) : List Nat :=
  if at_ ≤ 4 * (sent / 10000 * 10000 + 6000) then sent / 10000 * 10000 :: w.hbSeen.take 63 else w.hbSeen

/-- A heartbeat is taken (R197, R217): READY = 0 loses the peer. -/
def State.onHeartbeat (s : State) (v at_ : Nat) : State :=
  let j := s.judgeAlive 256 (v % 256)
  if j.2 = false then j.1
  else
    let ready := bitAt v 11
    let t := { j.1 with twin := { j.1.twin with peerReady := ready, peerTwinned := decide (bitsAt v 8 3 = 4),
                                                hbSeen := j.1.twin.seen (bitsAt v 64 64) at_ } }
    if ready then t else t.peerLost

/-- HEARTBEAT (R217). -/
def execHeartbeat (s : State) : Host.Outcome State Fault Refusal :=
  .next (s.onMsg (fun m => decide (twClass m = 5)) fun t d => match d.msg with | .heartbeat v => t.onHeartbeat v d.at_ | _ => t)

/-- The heartbeat due next is judged 6 µs after it was due (R217): the third in a row that is missed loses the peer. -/
def State.judgeHeartbeat (s : State) : State :=
  let due := (s.twin.hbJudged / 10000 + 1) * 10000
  if s.twin.phase ≠ .twinned ∨ s.now < due + 6000 then s
  else
    let seen := s.twin.hbSeen.contains due
    let s := { s with twin := { s.twin with hbJudged := due, hbMissed := if seen then 0 else s.twin.hbMissed + 1 } }
    let s := if seen then s else s.count (Reg.twn + 0x34) 16 1
    if 3 ≤ s.twin.hbMissed then s.peerLost else s

/-- HEARTBEAT_MISS (R217). -/
def execHeartbeatMiss (s : State) : Host.Outcome State Fault Refusal := .next s.judgeHeartbeat

/-- The peer's BYE (R201, R217): a device that starts goes back to LINKING and offers its HELLO again; a twinned one has lost its peer. -/
def State.onBye (s : State) : State :=
  let s := { s with twin := { s.twin with peerHello := none } }
  if s.twin.phase = .twinned then s.peerLost
  else if (s.twin.phase = .checking ∨ s.twin.phase = .locking) ∧ s.twinStartOut.isSome = true then
    let back : TwinPhase := if s.twin.rejoin ∧ s.twin.follower = false then .survivor else .linking
    let t := { s with twin := { s.twin with phase := back } }.leaveTwinTime
    t.twSend t.helloMsg
  else s

/-- BYE (R217). -/
def execBye (s : State) : Host.Outcome State Fault Refusal := .next (s.onMsg (fun m => decide (m = .bye)) fun t _ => t.onBye)

/-- TWIN_YIELD_N_INPUT (R217, R451): the input has held its level for 16 ns; asserted in TWINNED it loses the peer. -/
def execTwinYieldNInput (asserted : Bool) (s : State) : Host.Outcome State Fault Refusal :=
  let t := { s with twin := { s.twin with yieldIn := asserted } }
  let t := if s.twin.yieldIn = asserted then t else t.assertIrq 49
  .next (if asserted then t.peerLost else t)

/-! ## Yield (R220) -/

/-- A yield begins: every twin channel is stopped as by a CHANNEL_STOP now. -/
def State.startYield (s : State) : State :=
  let s := { s with twin := { s.twin with yielding := true } }
  s.codec.channels.foldl (fun t (e : Nat × Channel) =>
    if e.2.decode then t
    else match (t.channel e.1).state with
      | .armed => t.channelStopped e.1
      | .running => t.modChannel e.1 fun x => { x with stopNs := some t.now }
      | _ => t) s

/-- YIELD (R198, R220). -/
def execYield (h : CmdHdr) (s : State) : Host.Outcome State Fault Refusal :=
  .next (hostCmd (.yield h) h true false s.twinOut (fun idx t =>
    if t.twin.phase ≠ .twinned then (t, some { status := St.badState })
    else if 16 ≤ t.host.deferred.length then (t, some { status := St.busy })
    else (t.startYield.addDeferred { sq := h.sq, cid := h.cid.toNat, idx := idx, op := .twinYield, since := t.now }, none)) s)

/-- TWN_CTRL_YIELD (R222): as TWIN_CONTROL YIELD, without a completion. -/
def execTwnCtrlYield (s : State) : Host.Outcome State Fault Refusal := .next (if s.twin.phase = .twinned then s.startYield else s)

/-- The outstanding YIELD ends with a status. -/
def State.endYield (s : State) (status : Nat) : State :=
  match s.findDeferred fun o => decide (o = .twinYield) with
  | some d => s.endDeferred d { status := status }
  | none => s

/-- A yield is complete (R220): no twin channel is live any more; TWIN_YIELD_N is asserted, BYE is sent, the device is YIELDED. A yield
during which the peer was lost leaves the device SURVIVOR, and its command completes with BAD_STATE. -/
def State.completeYield (s : State) : State :=
  if s.twin.yielding = false ∨ s.encodeLive = true then s
  else if s.twin.phase = .twinned then
    let t := s.twSend .bye
    ({ t with yieldN := true, twin := { t.twin with phase := .yielded, yielding := false } }.leaveTwinTime).endYield St.ok
  else { s with twin := { s.twin with yielding := false } }.endYield St.badState

/-- YIELD_COMPLETE (R220). -/
def execYieldComplete (s : State) : Host.Outcome State Fault Refusal := .next s.completeYield

end Sys2Proof.Machine
end

