-- ==== Sys2Proof/Machine/TwinRows.lean ====
section
/-!
DEFINITION. The twin's work on pictures and bands (R203–R216): ledger tokens, reconcile, release records, mirrored slices, divergence.
-/
namespace Sys2Proof.Machine

/-! ## The ledger (R203–R205, R216, R221) -/

/-- The picture of channel `x` whose number ends in the 32 bits `v`, nearest to the latest named one. -/
def Channel.picOf32 (x : Channel) (v : Nat) : Nat :=
  let n := x.lastNamed.getD 0
  ((n : Int) + toSigned 32 (ofSigned 32 ((v : Int) - n))).toNat

/-- Picture `p` may carry a resync (R216): in GOP 3 an anchor. -/
def ChannelCfg.resyncAt (c : ChannelCfg) (p : Nat) : Bool := decide (c.gop ≠ 3) || decide (p % c.groupLen = 0)

/-- The pictures before picture `p` in coding order whose band 0 has still to be named: in GOP 3 a ledger point comes before them (R203). -/
def Channel.stillUnnamed (x : Channel) (p : Nat) : List Nat :=
  let named := (x.pics.filter fun (e : Nat × Pic) => e.2.named).map fun (e : Nat × Pic) => x.posOf e.1 + 1
  let next := (named ++ (x.lastNamed.map fun q => x.posOf q + 1).toList).foldl max 0
  ((List.range (x.posOf p - next)).map fun k => x.picAt (next + k))

/-- IDR_COUNT for picture `p` (R107, R204): the IDR pictures before it, those among pictures still to be named counted by the plans they take. -/
def Channel.idrBefore (x : Channel) (p : Nat) : Nat :=
  ((x.stillUnnamed p).foldl (fun y q =>
    (y.namePicture q (match SMap.get (fun _ => none) y.tokens q with | some k => .token (some k) | none => .own)).1) x).idrCount

/-- The token of a picture (R204): the plan that its naming would take now, with TYPE 1 at a resync picture and at a GOP 3 anchor settled as
an IDR picture; and the channel after the plan is taken. -/
def Channel.makeToken (x : Channel) (ch p seqFirst : Nat) (resync join : Bool) : Channel × Token :=
  let y := if resync then { x with rc := { x.rc with force := p :: x.rc.force } } else x
  let r := y.namePicture p .own
  let plan := (r.1.pic p).plan
  let idrAnchor := decide (x.cfg.gop = 3) && decide (p ≠ 0) && decide (p % x.cfg.groupLen = 0) && r.1.anchorIdr (x.cfg.groupOf p)
  let token : Token :=
    { plan := { plan with ptype := if resync || idrAnchor then 1 else plan.ptype, picture := p % 2 ^ 32 }, carried := r.2, resync := resync, join := join,
      idrCount := if join then x.idrBefore p else 0, seqFirst := if join then (x.ssrcOf ch + seqFirst) % 65536 else 0 }
  ({ x with idrGroups := r.1.idrGroups, plainGroups := r.1.plainGroups, tokens := SMap.set (fun _ => none) x.tokens p (some token),
            rc := { x.rc with pending := r.1.rc.pending, force := r.1.rc.force.filter (fun f => !(resync && decide (f = p))) } }, token)

/-- The 208 bytes of a token (R204). -/
def Token.record (k : Token) (ch alive : Nat) : Nat :=
  packFields [(1536, k.plan.record ch), (8, alive), (1, b2n k.carried), (1, b2n k.resync), (1, b2n k.join), (21, 0), (32, k.idrCount), (16, k.seqFirst), (16, 0), (32, 0)]

/-- Every picture before `p` in coding order has been named and has released its bands, so that the packet count is that of the picture's first
packet. -/
def Channel.allReleased (x : Channel) (p : Nat) : Bool :=
  decide (x.stillUnnamed p = []) && x.pics.all fun (e : Nat × Pic) => !e.2.named || (List.range x.cfg.bandCount).all fun b => (e.2.band b).released

/-- The leader makes the token of picture `p` at its ledger point. -/
def State.ledgerPoint (s : State) (c p : Nat) : State :=
  let x := s.channel c
  let join := s.twin.joinDue.contains c
  let open_ := decide (s.twin.phase = .twinned) && !s.twin.follower && !x.decode && (decide (x.state = .armed) || decide (x.state = .running)) &&
    (decide (x.twinState = .inStep) || join)
  if open_ && (SMap.get (fun _ => none) x.tokens p).isNone && !(x.pic p).named && decide (x.ledgerAt p ≤ s.nowT) && (!join || x.cfg.resyncAt p) then
    let resync := (join || s.twin.resyncDue.contains c) && x.cfg.resyncAt p
    let f := s.takeFree
    let count := if join ∧ x.allReleased p = false then (f.1, f.2) else (x.sentPkts, s)
    let r := x.makeToken c p count.1 resync join
    let s := count.2.modChannel c fun _ => r.1
    let s := if join then s.modChannel c fun x => { x with twinState := .inStep, joinPic := p } else s
    let s := if resync then { s with twin := { s.twin with resyncDue := s.twin.resyncDue.erase c, joinDue := s.twin.joinDue.erase c } } else s
    let s := if r.2.carried then s.raise (Src.tambour + x.tambour) Kind.planLate (addrP c p 0xFF) x.tambour else s
    let a := s.nextAlive (128 + c)
    a.1.twSend (.ledger (r.2.record c a.2))
  else s

/-- LEDGER_POINT (R203). -/
def execLedgerPoint (channel pic : Nat) (s : State) : Host.Outcome State Fault Refusal :=
  if channel < 128 then .next (s.ledgerPoint channel pic) else .fault .noSuchUnit

/-- A token from its bytes. -/
def tokenOf (v : Nat) : Token :=
  { plan := planOf v, carried := bitAt v 1544, resync := bitAt v 1545, join := bitAt v 1546, idrCount := bitsAt v 1568 32, seqFirst := bitsAt v 1600 16 }

/-- A GOP 3 anchor's token settles its group (R93, R204); one of TYPE 1 at a B position acts like a force intra, as it did on the leader when it was
made. -/
def Channel.settleToken (x : Channel) (p : Nat) (k : Token) : Channel :=
  if x.cfg.gop ≠ 3 ∨ p = 0 then x
  else if p % x.cfg.groupLen ≠ 0 then (if k.plan.ptype = 1 then { x with rc := { x.rc with force := p :: x.rc.force } } else x)
  else
    let g := x.cfg.groupOf p
    if x.idrGroups.contains g ∨ x.plainGroups.contains g then x
    else if k.plan.ptype = 1 ∨ x.irapDue p = true then { x with idrGroups := g :: x.idrGroups }
    else { x with plainGroups := g :: x.plainGroups }

/-- A returning device's channel takes its counts from a token with JOIN (R221). -/
def Channel.joinAt (x : Channel) (ch p : Nat) (k : Token) : Channel :=
  { x with twinState := .inStep, joinPic := p, idrCount := k.idrCount, sentPkts := (65536 + k.seqFirst - x.ssrcOf ch % 65536) % 65536 }

/-- The follower takes a token (R204, R205, R221): a late one is discarded, and a channel that still joins waits for JOIN. -/
def State.onLedger (s : State) (v : Nat) : State :=
  let c := planChannel v
  let k := tokenOf v
  let j := s.judgeAlive (128 + c) (bitsAt v 1536 8)
  let x := j.1.channel c
  let p := x.picOf32 k.plan.picture
  let joining := decide (x.twinState = .joining)
  if j.2 && decide (s.twin.phase = .twinned) && s.twin.follower && !x.decode && x.state.live && (!joining || k.join) && !x.tokenLate.contains p &&
      decide (j.1.nowT ≤ x.tokenDueAt p) then
    j.1.modChannel c fun x =>
      let x := if joining then x.joinAt c p k else x
      { x.settleToken p k with tokens := SMap.set (fun _ => none) x.tokens p (some k) }
  else j.1

/-- LEDGER (R204). -/
def execLedger (s : State) : Host.Outcome State Fault Refusal :=
  .next (s.onMsg (fun m => decide (twClass m = 1)) fun t d => match d.msg with | .ledger v => t.onLedger v | _ => t)

/-- The follower holds no token for picture `p` when it is due (R205). -/
def State.tokenMissing (s : State) (c p : Nat) : State :=
  let x := s.channel c
  if decide (s.twin.phase = .twinned) && s.twin.follower && !x.decode && (decide (x.state = .armed) || decide (x.state = .running)) &&
      (decide (x.twinState = .inStep) || decide (x.twinState = .diverged)) && decide (x.joinPic ≤ p) && (SMap.get (fun _ => none) x.tokens p).isNone &&
      !x.tokenLate.contains p && !(x.pic p).named && decide (x.tokenDueAt p ≤ s.nowT) then
    let f := s.takeFree
    let s := f.2.modChannel c fun x => { x with tokenLate := x.tokenLate ++ [p] }
    ((s.enterDiverged c).reportDiverge c p 0xFF 4 (f.1 % 8)).twSend (.diverge c p x.tambour)
  else s

/-- TOKEN_DUE (R205). -/
def execTokenDue (channel pic : Nat) (s : State) : Host.Outcome State Fault Refusal :=
  if channel < 128 then .next (s.tokenMissing channel pic) else .fault .noSuchUnit

/-- The leader learns of a divergence (R216, R226). -/
def State.onDiverge (s : State) (c p peerT : Nat) : State :=
  if c < 128 ∧ s.twin.phase = .twinned ∧ s.twin.follower = false then (s.reportDiverge c p 0xFF 4 (peerT % 8)).learnDiverged ⟨c, p, 0⟩ else s

/-- DIVERGE (R216). -/
def execDiverge (s : State) : Host.Outcome State Fault Refusal :=
  .next (s.onMsg (fun m => match m with | .diverge _ _ _ => true | _ => false) fun t d =>
    match d.msg with | .diverge c p peerT => t.onDiverge c p peerT | _ => t)

/-! ## Reconcile (R206–R208) -/

/-- Fields of a RECONCILE or MIRROR head (R208, R214). -/
def headOp (v : Nat) : Nat := bitsAt v 0 2
def headCh (v : Nat) : Nat := bitsAt v 8 7
def headBand (v : Nat) : Nat := bitsAt v 16 8
def headPic (v : Nat) : Nat := bitsAt v 32 32
def reconBase (v : Nat) : Nat := bitsAt v 64 32
def reconOffset (v : Nat) : Nat := bitsAt v 96 16
def reconTotal (v : Nat) : Nat := bitsAt v 112 16
def reconMask (v : Nat) : Nat := bitsAt v 128 64

/-- The band that a head names. -/
def State.headBandId (s : State) (v : Nat) : BandId := ⟨headCh v, (s.channel (headCh v)).picOf32 (headPic v), headBand v⟩

/-- The pieces of a payload, of at most `size` bytes each, with their offsets. -/
def piecesOf (n size ofs : Nat) (l : List Nat) : List (Nat × List Nat) :=
  match n with
  | 0 => []
  | k + 1 => if l.length ≤ size then [(ofs, l)] else (ofs, l.take size) :: piecesOf k size (ofs + size) (l.drop size)

/-- The payload of position `k` of a picture (R208), rebuilt from the raster. -/
def Pic.positionPayload (y : Pic) (c : ChannelCfg) (pp : Nat) (second : Bool) (k : Nat) : List Nat :=
  c.payload (fun comp x row => y.sample comp x row) second (c.rasterRuns (k * pp) (min ((k + 1) * pp) (c.width * c.lines)))

/-- Picture `p` of a field-coded channel is the second field of its frame (R75). -/
def ChannelCfg.secondField (c : ChannelCfg) (p : Nat) : Bool := c.fields && decide (p % 2 = 1)

/-- The DATA messages of a position. -/
def State.reconData (s : State) (i : BandId) (k : Nat) : List TwMsg :=
  let x := s.channel i.ch
  let l := (x.pic i.pic).positionPayload x.cfg (s.pktPixels i.ch) (x.cfg.secondField i.pic) k
  (piecesOf l.length 4072 0 l).map fun e => .reconcile (reconHead 1 i.ch i.b i.pic k e.1 l.length e.2.length) e.2

/-- A request is answered from this device's own snapshot (R206): DATA for what it held, ABSENT for the rest. -/
def State.answerRecon (s : State) (v : Nat) : State :=
  let i := s.headBandId v
  let u := s.band i
  let y := (s.channel i.ch).pic i.pic
  let ks := ((List.range 64).filter (bitAt (reconMask v))).map (· + reconBase v)
  let held := ks.filter fun k => y.heldFor i.b k && !u.fromPeer.contains k
  let gone := ks.filter fun k => !(y.heldFor i.b k && !u.fromPeer.contains k)
  let fresh := held.filter fun k => !u.toPeer.contains k
  let s := s.modBand i fun u => { u with toPeer := u.toPeer ++ fresh, recon := satAdd 16 u.recon fresh.length }
  let s := (held.flatMap fun k => s.reconData i k).foldl (fun t m => t.twSend m) s
  if gone = [] then s else s.twSend (.reconcile (reconHead 2 i.ch i.b i.pic (reconBase v) 0 0 ((gone.map fun k => 2 ^ (k - reconBase v)).sum)) [])

/-- A request waits for this device's own input deadline (R206). -/
def State.onReconRequest (s : State) (v : Nat) : State :=
  let i := s.headBandId v
  if s.pairedBand i = false then s
  else if (s.channel i.ch).inputDeadline i.pic i.b ≤ s.nowT then s.answerRecon v
  else { s with twin := { s.twin with reconWait := s.twin.reconWait ++ [v] } }

/-- A RECONCILE message with one of the OPs. -/
def reconOp (f : Nat → Bool) (m : TwMsg) : Bool := match m with | .reconcile h _ => f (headOp h) | _ => false

/-- RECONCILE_REQUEST (R206). -/
def execReconcileRequest (s : State) : Host.Outcome State Fault Refusal :=
  .next (s.onMsg (reconOp (fun o => o = 0)) fun t d => match d.msg with | .reconcile v _ => t.onReconRequest v | _ => t)

/-- Requests that waited for the input deadline of band `i` are answered. -/
def State.answerWaiting (s : State) (i : BandId) : State :=
  let here := s.twin.reconWait.filter fun v => decide (s.headBandId v = i)
  let s := { s with twin := { s.twin with reconWait := s.twin.reconWait.filter fun v => !decide (s.headBandId v = i) } }
  here.foldl (fun t v => t.answerRecon v) s

/-- Reconcile of a band closes (R207): the band becomes READY, its times as at its input deadline. -/
def State.closeRecon (s : State) (i : BandId) : State :=
  let s := s.modBand i fun u => { u with reconOpen := false, pieces := [], asked := [] }
  s.readyNow i ((s.channel i.ch).inputDeadline i.pic i.b)

/-- The bytes of position `k` when all of its TOTAL bytes have come. -/
def Band.wholePosition (u : Band) (k total : Nat) : Option (List Nat) :=
  let ps := (u.pieces.filter fun e => decide (e.1 = k) && decide (e.2.1 = total)).mergeSort fun a b => decide (a.2.2.1 ≤ b.2.2.1)
  let l := ps.flatMap fun e => e.2.2.2
  if l.length = total ∧ (ps.foldl (fun (r : Nat × Bool) e => (r.1 + e.2.2.2.length, r.2 && decide (e.2.2.1 = r.1))) (0, true)).2 = true then some l else none

/-- The samples of a position from the peer are written on the lines of bands still ARRIVING (R206, R208). -/
def State.takePosition (s : State) (i : BandId) (k : Nat) (l : List Nat) : State :=
  let x := s.channel i.ch
  let segs := x.cfg.readPayload l
  let y := x.pic i.pic
  let open_ := segs.filter fun g => decide ((y.band (g.row / x.cfg.bandLines)).state = .arriving)
  let pkt : VideoPacket := { timestamp := x.rtpTsOf i.pic, segments := segs, overrun := false }
  let s := s.modPic i.ch i.pic fun y =>
    let y := open_.foldl (fun q g => if x.cfg.segmentFits g then q.writeSegment x.cfg g else q) y
    let y := { y with arrived := SMap.set (fun _ => none) y.arrived k (some pkt) }
    y.markComplete x.cfg (s.pktPixels i.ch) s.nowT (x.cfg.bandsOfPos (s.pktPixels i.ch) k)
  s.modBand i fun u => { u with fromPeer := u.fromPeer ++ [k], recon := satAdd 16 u.recon 1, asked := u.asked.erase k }

/-- DATA or ABSENT from the peer (R206–R208): after the close it is discarded. -/
def State.onReconAnswer (s : State) (v : Nat) (data : List Nat) : State :=
  let i := s.headBandId v
  let u := s.band i
  if u.reconOpen = false ∨ u.state ≠ .arriving then s
  else
    let t :=
      if headOp v = 2 then s.modBand i fun u => { u with asked := u.asked.filter fun k => !(decide (reconBase v ≤ k) && bitAt (reconMask v) (k - reconBase v)) }
      else if u.asked.contains (reconBase v) = false then s
      else
        let t := s.modBand i fun u => { u with pieces := u.pieces ++ [(reconBase v, reconTotal v, reconOffset v, data)] }
        match (t.band i).wholePosition (reconBase v) (reconTotal v) with
        | some l => t.takePosition i (reconBase v) l
        | none => t
    if (t.band i).asked = [] then t.closeRecon i else t

/-- RECONCILE_DATA (R208). -/
def execReconcileData (s : State) : Host.Outcome State Fault Refusal :=
  .next (s.onMsg (reconOp (fun o => o ≠ 0)) fun t d => match d.msg with | .reconcile v l => t.onReconAnswer v l | _ => t)

/-- RECON_WAIT in τ (R224). -/
def State.reconLimit (s : State) : Nat := 1000 * tauNs * max 1 (s.field (Reg.twn + 8) 0 4)

/-- Reconcile closes at its time (R207): TWIN_RECON_LATE when positions are unanswered. -/
def State.reconTime (s : State) (i : BandId) : State :=
  let u := s.band i
  if u.reconOpen = false ∨ u.state ≠ .arriving then s
  else if u.asked = [] then s.closeRecon i
  else if (s.channel i.ch).inputDeadline i.pic i.b + s.reconLimit ≤ s.nowT then
    (s.raise Src.twin Kind.twinReconLate (addrP i.ch i.pic i.b) 0).closeRecon i
  else s

/-- RECONCILE_CLOSE (R207). -/
def execReconcileClose (channel pic band : Nat) (s : State) : Host.Outcome State Fault Refusal :=
  if channel < 128 then .next (s.reconTime ⟨channel, pic, band⟩) else .fault .noSuchUnit

/-! ## Release records (R209–R212) -/

/-- A peer's record is kept and, with the own one, acted on (R210, R212). -/
def State.onRecord (s : State) (v : Nat) : State :=
  let c := recCh v
  let j := s.judgeAlive c (recAlive v)
  let i : BandId := ⟨c, (j.1.channel c).picOf32 (recPic v), recBand v⟩
  if j.2 && j.1.pairedBand i && (j.1.channel c).state.live && decide (i.b < (j.1.channel c).cfg.bandCount) && (j.1.band i).peerRec.isNone then
    ((j.1.modBand i fun u => { u with peerRec := some v }).settle c).releaseDue c
  else j.1

/-- RELEASE (R212). -/
def execRelease (s : State) : Host.Outcome State Fault Refusal :=
  .next (s.onMsg (fun m => decide (twClass m = 3)) fun t d => match d.msg with | .release rs => rs.foldl (fun t v => t.onRecord v) t | _ => t)

/-! ## Mirrored slices (R214, R215) -/

/-- A MIRROR head's OFFSET and TOTAL. -/
def mirrorOffset (v : Nat) : Nat := bitsAt v 64 24
def mirrorTotal (v : Nat) : Nat := bitsAt v 96 24

/-- A MIRROR message with one of the OPs. -/
def mirrorOp (f : Nat → Bool) (m : TwMsg) : Bool := match m with | .mirror h _ => f (headOp h) | _ => false

/-- The holder answers a request with the slice, or GONE (R214). -/
def State.onMirrorRequest (s : State) (v : Nat) : State :=
  match s.twin.mirror.find? fun e => decide (e.ch = headCh v) && decide (e.band = headBand v) && decide (e.pic % 2 ^ 32 = headPic v) with
  | none => s.twSend (.mirror (mirrorHead 2 (headCh v) (headBand v) (headPic v) 0 0) [])
  | some e => (piecesOf e.nal.length 4076 0 e.nal).foldl (fun t q => t.twSend (.mirror (mirrorHead 1 e.ch e.band e.pic q.1 e.nal.length) q.2)) s

/-- MIRROR_REQUEST (R214). -/
def execMirrorRequest (s : State) : Host.Outcome State Fault Refusal :=
  .next (s.onMsg (mirrorOp (fun o => o = 0)) fun t d => match d.msg with | .mirror v _ => t.onMirrorRequest v | _ => t)

/-- A whole mirrored slice takes the place of the band's own (R215): a pump fills the drained banks of the spout with it (R348), and the packetizer
drains it there. -/
def State.useMirror (s : State) (i : BandId) (g : MirrorGet) (l : List Nat) : State :=
  let s := s.discardPackets i
  let s := s.modBand i fun u =>
    { u with mirrored := true, mayLeave := true, mirror := none, nal := [], sliceCrc := g.crc, damaged := false, drained := false, outcome := 0,
             state := if u.state = .retired then u.state else .coded }
  let t := (s.channel i.ch).tambour
  (s.modSpout t fun p => { p with mirrors := p.mirrors ++ [{ ch := i.ch, pic := i.pic, band := i.b, begun := false, left := l }] }).pumpMirrors 2 t

/-- A piece of a mirrored slice, or GONE (R214, R215). -/
def State.onMirrorData (s : State) (v : Nat) (data : List Nat) : State :=
  let i := s.headBandId v
  match (s.band i).mirror with
  | none => s
  | some g =>
    if headOp v = 2 then s.mirrorFail i g.len
    else
      let ps := (g.pieces.filter fun e => decide (e.1 ≠ mirrorOffset v)) ++ [(mirrorOffset v, data)]
      let l := (ps.mergeSort fun a b => decide (a.1 ≤ b.1)).flatMap fun e => e.2
      if l.length < mirrorTotal v then s.modBand i fun u => { u with mirror := some { g with pieces := ps } }
      else if mirrorTotal v = g.len ∧ l.length = g.len ∧ crc32cOf l = g.crc then s.useMirror i g l
      else s.mirrorFail i g.len

/-- MIRROR_DATA (R215). -/
def execMirrorData (s : State) : Host.Outcome State Fault Refusal :=
  .next (s.onMsg (mirrorOp (fun o => o ≠ 0)) fun t d => match d.msg with | .mirror v l => t.onMirrorData v l | _ => t)

/-- MIRROR_BUFFER_EXPIRE (R214): slices are kept until 200 µs after their release time. -/
def execMirrorBufferExpire (s : State) : Host.Outcome State Fault Refusal :=
  .next { s with twin := { s.twin with mirror := s.twin.mirror.filter fun e => decide (s.now < e.until_) } }

end Sys2Proof.Machine
end

