-- ==== Sys2Proof/Machine/Depack.lean ====
section
/-!
DEFINITION. The input of a decode channel: merging the two paths (R150–R152), access units in pages (R153, R154), lost sequence numbers,
injected entries (R122); and the input deadline of a band (R36, R206).
-/
namespace Sys2Proof.Machine

/-! ## Sequence numbers (R150, R152) -/

/-- How far a 16-bit sequence number lies after the highest one received (RFC 3550). -/
def MergeSt.ahead (m : MergeSt) (seq : Nat) : Int := toSigned 16 (ofSigned 16 ((seq : Int) - m.highest))

/-- A packet starts a resync (R152). -/
def MergeSt.jumps (m : MergeSt) (ssrc seq : Nat) : Bool :=
  match m.ssrc with
  | none => false
  | some v => decide (v ≠ ssrc) || decide (2048 < m.ahead seq)

/-! ## Bands and numbers (R151, R153) -/

/-- The access unit that number `k` belongs to. -/
def Channel.unitOf (x : Channel) (k : Nat) : Option Nat :=
  ((x.pics.filter fun (e : Nat × Pic) =>
    decide (e.2.seqFirst ≤ k) && decide (k < e.2.seqFirst + 65536) && (match e.2.seqLast with | some z => decide (k ≤ z) | none => true)).getLast?).map Prod.fst

/-- The bands of the CTUs that stand, in decoding order, from region `a` on and before region `z`, of a picture with tiles (R147): least and greatest. -/
def Channel.bandSpan (x : Channel) (p : Nat) (a z : Option Nat) : Nat × Nat :=
  let c := x.cfgOf p
  let bs := ((List.range (c.width / 16 * (c.codedLines / 16))).filter fun r =>
    (match a with | some v => decide (x.scanOf p v ≤ x.scanOf p r) | none => true) && (match z with | some v => decide (x.scanOf p r < x.scanOf p v) | none => true)).map c.bandOfRegion
  (bs.foldl min (c.bandCount - 1), bs.foldl max 0)

/-- The number of the last packet of the segment that begins at `a`, once it has come. -/
def Pic.segEnd (y : Pic) (a : Nat) : Option Nat :=
  (y.segEnds.filter fun e => decide (a ≤ e)).foldl (fun best e => match best with | none => some e | some b => some (min b e)) none

/-- The band that number `k` of a unit belongs to, when it is known (R151): from the segments known before and after it. -/
def Channel.bandOfSeq (x : Channel) (p k : Nat) : Option Nat :=
  let y := x.pic p
  let c := x.cfgOf p
  let after := y.segs.find? fun g => decide (k < g.seq0)
  let at_ := (y.segs.filter fun g => decide (g.seq0 ≤ k)).getLast?
  let span := if y.tileX = [] ∧ y.tileY = [] then
      ((match at_ with | some g => c.bandOfRegion g.first | none => 0), (match after with | some g => c.bandOfRegion (g.first - 1) | none => c.bandCount - 1))
    else x.bandSpan p (at_.map SliceSeg.first) (after.map SliceSeg.first)
  let z := span.2
  match at_ with
  | none => if z = 0 then some 0 else none
  | some g =>
    let a := span.1
    match y.segEnd g.seq0 with
    | some e => if e < k then (if z ≤ a + 1 then some z else none) else if z = a then some a else none
    | none => if z = a then some a else none

/-- The numbers from `a` to `z` have all come or been declared lost. -/
def MergeSt.settledAll (m : MergeSt) (a : Nat) (z : Option Nat) : Bool :=
  match z with
  | some e => (List.range (e + 1 - a)).all fun i => m.settled (a + i)
  | none => false

/-- A band's input has come, or its missing packets have been declared lost (R153): every number from the segment that holds the band's
first region up to the end of the segment that follows the band, or of the unit; in a picture with tiles, of each segment that holds a CTU of the band, up
to the end of the segment after it in decoding order (R147). -/
def Channel.bandInput (x : Channel) (p b : Nat) : Bool :=
  let y := x.pic p
  let c := x.cfgOf p
  let cols := c.width / 16
  let lo := c.bandTop b / 16 * cols
  let hi := (c.bandTop b + c.bandCoded b) / 16 * cols
  if y.tileX = [] ∧ y.tileY = [] then
    let a := match (y.segs.filter fun g => decide (g.first ≤ lo)).getLast? with | some g => g.seq0 | none => y.seqFirst
    let z := match y.segs.find? fun g => decide (hi ≤ g.first) with | some g => y.segEnd g.seq0 | none => y.seqLast
    x.merge.settledAll a z
  else
    let from_ := (((List.range (hi - lo)).map fun k => (match x.segOf p (lo + k) with | some g => g.seq0 | none => y.seqFirst))).eraseDups
    from_.all fun a => x.merge.settledAll a (match y.segs.find? fun g => decide (a < g.seq0) with | some g => y.segEnd g.seq0 | none => y.seqLast)

/-- A band whose input is now complete records when, and becomes READY where its window is open (R36). -/
def State.recheckBand (s : State) (i : BandId) : State :=
  let x := s.channel i.ch
  let u := s.band i
  if u.state = .arriving ∧ u.complete = none ∧ x.bandInput i.pic i.b = true then
    let s := s.modBand i fun u => { u with complete := some s.nowT }
    if s.bandRuns i && decide (x.windowOpen i.pic i.b ≤ s.nowT) then s.readyNow i s.nowT else s
  else s

/-- The bands of an access unit, in order. -/
def State.recheckUnit (s : State) (c p : Nat) : State := (List.range ((s.channel c).cfgOf p).bandCount).foldl (fun t b => t.recheckBand ⟨c, p, b⟩) s

/-- The units that number `k` can complete bands of. -/
def State.recheckSeq (s : State) (c k : Nat) : State :=
  match (s.channel c).unitOf k with
  | some p => s.recheckUnit c p
  | none => s

/-- Number `k` is declared lost (R151): counted in its band, the last one where it is not known. -/
def State.declareLost (s : State) (c k : Nat) : State :=
  let x := s.channel c
  if x.merge.settled k then s
  else
    let s := s.modChannel c fun x => { x with merge := { x.merge with lost := SMap.set (fun _ => false) x.merge.lost k true } }
    match x.unitOf k with
    | some p => s.modBand ⟨c, p, (x.bandOfSeq p k).getD ((x.cfgOf p).bandCount - 1)⟩ fun u => { u with lostPkts := u.lostPkts + 1 }
    | none => s

/-- The numbers that are outstanding: below the highest one received. -/
def MergeSt.outstanding (m : MergeSt) : List Nat :=
  ((List.range (m.highest - m.base)).map (· + m.base)).filter fun k => !m.settled k

/-- A number of unit `p`, where it has one, is lost by τ `now` (R151): MERGE_SKEW after the first arrival of a higher one, or once the tclk of the input
deadline of its band is over (R170), or of its unit's last band: the tail of a unit, above the highest number received, too. -/
def Channel.overdue (x : Channel) (k : Nat) (p : Option Nat) (now : Nat) : Bool :=
  let later := x.merge.got.filterMap fun (e : Nat × Option (Nat × Nat)) => if k < e.1 then e.2.map Prod.snd else none
  let skew := later.any fun a => decide (a * tauNs + x.cfg.mergeSkew * 1000 * tauNs ≤ now)
  let due := match p with
    | some p => decide (x.inputDeadline p ((x.bandOfSeq p k).getD ((x.cfgOf p).bandCount - 1)) / tauTclk < now / tauTclk)
    | none => false
  skew || due

/-- A number is to be declared lost (R151): one below the highest received, or the next one of a unit that has not ended. -/
def State.lossDue (s : State) (c k : Nat) : Bool :=
  let x := s.channel c
  decide (x.merge.base ≤ k) && decide (k ≤ x.merge.highest + 1) && x.overdue k (x.unitOf k) s.nowT

/-- SEQUENCE_LOST (R151). -/
def execSequenceLost (channel seq : Nat) (s : State) : Host.Outcome State Fault Refusal :=
  if channel < 128 then
    let x := s.channel channel
    .next (if x.decode && x.state.live && decide (x.cfg.injectQid = 0) && s.lossDue channel seq then (s.declareLost channel seq).recheckSeq channel seq else s)
  else .fault .noSuchUnit

/-! ## Access units (R153, R154) -/

/-- τ at which the channel's 90 kHz clock equals `ts`, the time nearest to τ `a`; the earlier of two equally near (R36). -/
def nearestRtp (ts a : Nat) : Nat :=
  let base : Int := ((ts * 300000000 : Nat) : Int)
  let m : Int := 2 ^ 32 * 300000000
  let q := (2 * ((a : Int) - base) + m - 1) / (2 * m)
  (base + max q 0 * m).toNat

/-- t_sched of a unit with t_pic `t`, after one scheduled at `last` (R154). -/
def ChannelCfg.schedAfter (c : ChannelCfg) (last : Option Nat) (t : Nat) : Nat :=
  match last with | none => t + c.decSlip * c.periodT | some v => max (t + c.decSlip * c.periodT) (v + c.periodT)

/-- An access unit begins with number `k` (R153, R154): the one before it ends. -/
def Channel.openAu (x : Channel) (ts k arrival : Nat) : Channel :=
  let p := x.merge.nextUnit
  let sched := x.cfg.schedAfter x.merge.lastSched (nearestRtp ts arrival)
  let prev := (x.merge.openUnit.map fun q => x.pic q).bind fun y => if y.closed then y.seqLast else none
  let x := match x.merge.openUnit with
    | some q => { x with pics := SMap.modify (fun _ => {}) x.pics q fun y => { y with seqLast := (if y.closed then y.seqLast else some (k - 1)) } }
    | none => x
  { x with pics := SMap.set (fun _ => {}) x.pics p { rtpTs := ts, tPic := nearestRtp ts arrival, tSched := sched, epoch := x.merge.epoch, seqFirst := (match prev with | some z => min k (z + 1) | none => k) },
           merge := { x.merge with nextUnit := p + 1, openUnit := some p, lastSched := some sched },
           out := (if x.merge.lastSched = none then { x.out with nextSlot := some sched } else x.out) }

/-- The chain of R154: the units in decode order, but for those lost entirely, which take no slot; a unit that has started keeps its time. The latest
time of the present chain is kept. -/
def Channel.rechain (x : Channel) : Channel :=
  let live := (x.pics.filter fun (e : Nat × Pic) => !e.2.lostAll).mergeSort fun a b => decide (a.2.seqFirst ≤ b.2.seqFirst)
  let r := live.foldl (fun (a : Channel × Option (Nat × Nat)) e =>
    let last := match a.2 with | some l => if l.1 = e.2.epoch then some l.2 else none | none => none
    let v := if e.2.started then e.2.tSched else x.cfg.schedAfter last e.2.tPic
    ({ a.1 with pics := SMap.modify (fun _ => {}) a.1.pics e.1 fun y => { y with tSched := v } }, some (e.2.epoch, v))) (x, none)
  { r.1 with merge := { r.1.merge with lastSched := match r.2 with | some l => if l.1 = x.merge.epoch then some l.2 else none | none => none } }

/-- An access unit whose packets come after those of a newer one (R153): it takes its place in decode order by its numbers, between the units
before and after it, and those that have not started are scheduled anew (R154). Its number counts the units as they began to arrive. -/
def Channel.openEarlier (x : Channel) (ts k arrival : Nat) : Channel :=
  let p := x.merge.nextUnit
  let before := (x.pics.filter fun (e : Nat × Pic) => decide (e.2.seqFirst < k) && decide (k < e.2.seqFirst + 32768)).foldl
    (fun best e => match best with | none => some e | some b => if b.2.seqFirst < e.2.seqFirst then some e else some b) none
  let after := (x.pics.filter fun (e : Nat × Pic) => decide (k < e.2.seqFirst) && decide (e.2.seqFirst < k + 32768)).foldl
    (fun best e => match best with | none => some e | some b => if e.2.seqFirst < b.2.seqFirst then some e else some b) none
  let x := match before with
    | some (q, _) => { x with pics := SMap.modify (fun _ => {}) x.pics q fun y => { y with seqLast := (if y.closed then y.seqLast else some (k - 1)) } }
    | none => x
  let y : Pic := { rtpTs := ts, tPic := nearestRtp ts arrival, epoch := (match before with | some e => e.2.epoch | none => x.merge.epoch), seqFirst := k,
                   seqLast := after.map fun e => e.2.seqFirst - 1 }
  { x with pics := SMap.set (fun _ => {}) x.pics p y, merge := { x.merge with nextUnit := p + 1 } }.rechain

/-- A slice segment enters the list by its first packet. -/
def insertSeg (l : List SliceSeg) (g : SliceSeg) : List SliceSeg := (l.filter fun h => decide (h.seq0 ≤ g.seq0)) ++ [g] ++ l.filter fun h => decide (g.seq0 < h.seq0)

/-- The picture of a unit, as its first slice header that came reads. -/
def Channel.takePicNote (x : Channel) (p : Nat) (n : PicNote) : Channel :=
  let y := x.pic p
  if y.ptype ≠ 0 ∨ y.lostAll = true then x
  else
    let fresh := x.merge.resync || x.merge.awaitIrap
    let ok := x.merge.haveSets && !x.merge.rejected && (!(x.merge.resync || x.merge.awaitIrap) || n.starts)
    let z := { y with ptype := n.ptype, poc := n.poc, isRef := n.isRef, output := n.output, refs0 := n.held, seiPlan := n.plan, seiFilled := n.filled, startsDec := ok,
                      geo := some (x.cfg.mbaff, x.cfg.streamCtb), tileX := n.tileX, tileY := n.tileY, begins := decide (n.ptype = 1) || n.begins || (fresh && ok),
                      shiftY := x.cfg.depth - x.merge.depthY, shiftC := x.cfg.depth - x.merge.depthC }
    { x with pics := SMap.set (fun _ => {}) x.pics p z, merge := { x.merge with resync := x.merge.resync && !ok, awaitIrap := x.merge.awaitIrap && !ok } }

/-- The profiles of R146, by codec. -/
def profileIsAvc (p : StreamProfile) : Option Bool :=
  match p with
  | .main => some false
  | .main10 => some false
  | .main12 => some false
  | .main422x10 => some false
  | .main422x12 => some false
  | .main444 => some false
  | .main444x12 => some false
  | .high => some true
  | .high10 => some true
  | .high422 => some true
  | .high422Intra => some true
  | .other => none

/-- The checks of R148 on an SPS: codec, profile and level (R146; both tiers), size, scan, chroma, bit depth, buffers. -/
def spsAccepted (n : SpsNote) (c : ChannelCfg) : Bool :=
  let avc := decide (c.codec = 1)
  (n.avc == avc) && decide (profileIsAvc n.profile = some avc) && decide (n.level ≤ (if avc then 52 else 51)) &&
    decide (n.width = c.width) && decide (n.height = (if n.scan = .fields ∧ n.avc = false then c.frameLines / 2 else c.frameLines)) &&
    (if c.fields then decide (n.scan = .fields) || (decide (n.scan = .mbaff) && avc) else decide (n.scan = .frames)) &&
    decide (n.chroma = c.chroma) && decide (n.depthY ≤ c.depth) && decide (n.depthC ≤ c.depth) && decide (n.dpb ≤ c.dpbPics)

/-- The SPS that a packet's NAL units have checked (R148): the first of the stream, or at an IRAP picture the latest that came. -/
def Channel.spsDue (x : Channel) (p : Nat) (n : StreamNote) : Option SpsNote :=
  let irap := match n.pic with | some q => q.starts && decide ((x.pic p).ptype = 0) && !(x.pic p).lostAll | none => false
  match n.sps, x.merge.nextSps with
  | some v, _ => if irap || !x.merge.spsSeen then some v else none
  | none, some v => if irap then some v else none
  | none, none => none

/-- An SPS takes effect or is rejected (R35, R147, R148): while one is rejected no picture is decoded, and then none before an IRAP picture. -/
def Channel.takeSps (x : Channel) (n : SpsNote) : Channel :=
  if spsAccepted n x.cfg then
    { x with cfg := { x.cfg with mbaff := decide (n.scan = StreamScan.mbaff), streamCtb := n.ctb }, merge := { x.merge with rejected := false, depthY := n.depthY, depthC := n.depthC } }
  else { x with merge := { x.merge with rejected := true, awaitIrap := true } }

/-- What a packet's NAL units say enters its unit (R148, R153, R159). -/
def Channel.takeNote (x : Channel) (p k : Nat) (n : StreamNote) : Channel :=
  let due := x.spsDue p n
  let x := match due with | some v => x.takeSps v | none => x
  let x := { x with merge := { x.merge with haveSets := x.merge.haveSets || n.sets, spsSeen := x.merge.spsSeen || n.sps.isSome,
                                            nextSps := if due.isSome then none else if n.sps.isSome then n.sps else x.merge.nextSps } }
  let y := x.pic p
  let segs := n.segs.foldl (fun l g => insertSeg l { first := g.first, seq0 := k, ptype := g.ptype, dep := g.dep, bits := g.bits }) y.segs
  let z := { y with segs := segs, segEnds := (if n.ends then y.segEnds ++ [k] else y.segEnds), nonVcl := y.nonVcl + n.nonVcl,
                    frags := (if n.frag then y.frags ++ [(k, n.bits)] else y.frags), hash := (match n.hash with | some h => some h | none => y.hash) }
  let x := { x with pics := SMap.set (fun _ => {}) x.pics p z }
  match n.pic with | some q => x.takePicNote p q | none => x

/-- DEC_MISMATCH for a rejected SPS (R148). -/
def State.noteSps (s : State) (c : Nat) (due : Option SpsNote) : State :=
  match due with
  | some v => if spsAccepted v (s.channel c).cfg then s else s.raise Src.depacketizer Kind.decMismatch (addrC c) 1
  | none => s

/-- Pages of owner `o` for `len` more bytes of a unit: whether they were granted. -/
def State.morePages (n : Nat) (s : State) (c p o len : Nat) : State × Bool :=
  let y := (s.channel c).pic p
  if y.pageFill + len ≤ 65536 * y.pages.length then (s, true)
  else match n with
    | 0 => (s, false)
    | k + 1 =>
      match s.alloc .page o with
      | (t, some i) => State.morePages k (t.modPic c p fun y => { y with pages := y.pages ++ [i] }) c p o len
      | (t, none) => (t, false)

/-- Bytes go on in the unit's pages. -/
def State.pageBytes (n : Nat) (s : State) (c p : Nat) (l : List Nat) : State :=
  match n, l with
  | k + 1, b :: rest =>
    let y := (s.channel c).pic p
    let room := 65536 - y.pageFill % 65536
    let here := (b :: rest).take room
    let a := 0x200000000 + 0x10000 * y.pages.getD (y.pageFill / 65536) 0 + y.pageFill % 65536
    let s := { s with hbmMem := Memory.writeBytes hbmDefault s.hbmMem a (here.map (BitVec.ofNat 8)) }
    State.pageBytes k (s.modPic c p fun y => { y with pageFill := y.pageFill + here.length }) c p ((b :: rest).drop room)
  | _, _ => s

/-- A whole access unit that has not started is lost (R122, R154, R319): its pages are freed, it leaves the schedule, and its picture record is
written (R181). -/
def State.loseWhole (s : State) (c p : Nat) : State :=
  if ((s.channel c).pic p).started || ((s.channel c).pic p).lostAll then s
  else (((s.freePages c p).modPic c p fun y => { y with lostAll := true, startsDec := false, output := false }).modChannel c Channel.rechain).putPicture c p false

/-- An access unit is lost where its first band reaches its input deadline without pages (R319); of a picture that has started, what has not come by
then (DEDUCED, log 144). -/
def State.loseUnit (s : State) (c p k : Nat) : State := ((s.loseWhole c p).modPic c p fun y => { y with givenUp := true }).declareLost c k

/-- The end of an access unit at number `k` (R153); the next one begins after it. -/
def Channel.closeAu (x : Channel) (p k : Nat) : Channel :=
  let x := { x with pics := SMap.modify (fun _ => {}) x.pics p fun y => { y with closed := true, seqLast := some k } }
  if p + 1 < x.merge.nextUnit ∧ k + 1 < (x.pic (p + 1)).seqFirst then
    { x with pics := SMap.modify (fun _ => {}) x.pics (p + 1) fun y => { y with seqFirst := k + 1 } }
  else x

/-- A packet as the depacketizer reads its RTP header (R115, R150): payload as a list of bytes; arrival in τ. -/
structure MergePkt where
  ssrc    : Nat
  seq     : Nat
  ts      : Nat
  marker  : Bool
  payload : List Byte
  arrival : Nat
deriving DecidableEq, Repr

/-- The payload and arrival that `got` keeps. -/
def MergePkt.kept (k : MergePkt) : Nat × Nat := (natOfBytes (k.payload ++ [1]), k.arrival / tauNs)

/-- Number `k` has been received. -/
def State.receiveSeq (s : State) (c k : Nat) (v : Nat × Nat) : State :=
  s.modChannel c fun x => { x with merge := { x.merge with got := SMap.set (fun _ => none) x.merge.got k (some v), highest := max x.merge.highest k } }

/-- The bytes of number `k` enter unit `p` with what they say; `last` ends it. -/
def State.placeBytes (s : State) (c p k : Nat) (l : List Nat) (last : Bool) (n : StreamNote) : State :=
  let x := s.channel c
  let stray := n.frag && n.segs.isEmpty && Channel.unplaced (k - (x.pic p).seqFirst + 1) x p k false
  let s := if stray then s else s.pageBytes (l.length / 65536 + 2) c p l
  let s := (s.modChannel c fun x => x.takeNote p k n).noteSps c (x.spsDue p n)
  let s := if last then s.modChannel c fun x => x.closeAu p k else s
  let s := match (s.channel c).unitOf (k - 1) with
    | some q => s.recheckUnit c q
    | none => s
  s.recheckUnit c p

/-- A resync (R152): the numbers outstanding are lost, the SSRC and the base are new, scheduling and slots restart. -/
def State.resyncMerge (s : State) (c ssrc seq : Nat) : State :=
  let m := (s.channel c).merge
  let s := m.outstanding.foldl (fun t k => (t.declareLost c k).recheckSeq c k) s
  let k := 65536 * (m.highest / 65536 + 2) + seq
  let s := s.modChannel c fun x =>
    let x := match x.merge.openUnit with
      | some q => { x with pics := SMap.modify (fun _ => {}) x.pics q fun y => { y with seqLast := some (if y.closed then y.seqLast.getD m.highest else m.highest) } }
      | none => x
    { x with merge := { x.merge with ssrc := some ssrc, base := k, highest := k, resync := true, haveSets := false, openUnit := none, lastSched := none, epoch := x.merge.epoch + 1 } }
  let s := s.raise Src.depacketizer Kind.decResync (addrC c) 1
  match m.openUnit with
  | some q => s.recheckUnit c q
  | none => s

/-- The band that a merge kind names: of number `k`. -/
def Channel.mergeAddr (x : Channel) (c k : Nat) : BandId :=
  match x.unitOf k with
  | some p => ⟨c, p, (x.bandOfSeq p k).getD ((x.cfgOf p).bandCount - 1)⟩
  | none => ⟨c, x.merge.nextUnit, 0xFF⟩

/-- MERGE_LATE or MERGE_DUP_DIFF for number `k`. -/
def State.mergeNotice (s : State) (c k kind : Nat) (f : Band → Band) : State :=
  let i := (s.channel c).mergeAddr c k
  let s := if ((s.channel c).unitOf k).isSome then s.modBand i f else s
  s.raise Src.depacketizer kind (addrP c i.pic i.b) 1
def State.mergeLate (s : State) (c k : Nat) : State := s.mergeNotice c k Kind.mergeLate fun u => { u with mergeLate := u.mergeLate + 1 }

/-- The unit of a packet with timestamp `ts` and number `k`. -/
def Channel.unitAt (x : Channel) (ts k : Nat) : Option Nat :=
  ((x.pics.filter fun (e : Nat × Pic) => decide (e.2.rtpTs = ts) && decide (k < e.2.seqFirst + 32768) && decide (e.2.seqFirst < k + 32768)).getLast?).map Prod.fst

/-- A first copy is placed (R153): false where its pages are refused and it waits (R319). -/
def State.placePacket (s : State) (c k : Nat) (pkt : MergePkt) (n : StreamNote) : State × Bool :=
  let x := s.channel c
  let v := pkt.kept
  let newer := x.pics.any fun (e : Nat × Pic) => decide (k < e.2.seqFirst) && decide (e.2.seqFirst < k + 32768)
  match x.unitAt pkt.ts k with
  | none =>
    -- A unit whose first packet arrives no later than the start time is none of the channel's pictures (R295).
    if pkt.arrival ≤ x.startNs * tauNs ∨ x.merge.preTs = some pkt.ts then
      ((s.receiveSeq c k v).modChannel c fun x => { x with merge := { x.merge with preTs := some pkt.ts } }, true)
    else
      let s := s.modChannel c fun x => if newer then x.openEarlier pkt.ts k pkt.arrival else x.openAu pkt.ts k pkt.arrival
      let p := x.merge.nextUnit
      match s.morePages (pkt.payload.length / 65536 + 2) c p 17 pkt.payload.length with
      | (t, true) => ((t.receiveSeq c k v).placeBytes c p k (pkt.payload.map BitVec.toNat) pkt.marker n, true)
      | (t, false) => if (t.channel c).inputDeadline p 0 ≤ t.nowT then (t.loseUnit c p k, true) else (t, false)
  | some p =>
    if (x.pic p).lostAll || (x.pic p).givenUp then ((s.declareLost c k).recheckSeq c k, true)
    else
      match s.morePages (pkt.payload.length / 65536 + 2) c p 17 pkt.payload.length with
      | (t, true) => ((t.receiveSeq c k v).placeBytes c p k (pkt.payload.map BitVec.toNat) pkt.marker n, true)
      | (t, false) => if (t.channel c).inputDeadline p 0 ≤ t.nowT then ((t.loseUnit c p k).recheckSeq c k, true) else (t, false)

/-- The source that a packet of a decode channel comes from (R150): the first sets SSRC and the numbering, and a jump starts them again. -/
def State.mergeSource (s : State) (c : Nat) (pkt : MergePkt) : State :=
  let m := (s.channel c).merge
  if m.ssrc = none then
    s.modChannel c fun x => { x with merge := { x.merge with ssrc := some pkt.ssrc, base := 65536 + pkt.seq, highest := 65536 + pkt.seq } }
  else if m.jumps pkt.ssrc pkt.seq then s.resyncMerge c pkt.ssrc pkt.seq
  else s

/-- A packet of a decode channel is merged (R150–R152): whether it has been taken. -/
def State.mergePacket (s : State) (c : Nat) (pkt : MergePkt) (n : StreamNote) : State × Bool :=
  let s := s.mergeSource c pkt
  let x := s.channel c
  let k := ((x.merge.highest : Int) + x.merge.ahead pkt.seq).toNat
  let retired := match x.unitOf k with
    | some p => (match x.bandOfSeq p k with | some b => decide (((x.pic p).band b).state = .retired) | none => (x.pic p).recorded)
    | none => false
  match SMap.get (fun _ => none) x.merge.got k with
  | some first =>
    if retired then (s.mergeLate c k, true)
    else if first.1 = pkt.kept.1 then (s, true)
    else (s.mergeNotice c k Kind.mergeDupDiff fun u => { u with dupDiff := u.dupDiff + 1 }, true)
  | none =>
    let unit := match x.unitAt pkt.ts k with | some p => some p | none => x.unitOf k
    if x.merge.isLost k || retired then (s.mergeLate c k, true)
    else if x.overdue k unit pkt.arrival then
      -- Its moment of R151 has come before the packet: it is lost, and this copy late.
      (((s.declareLost c k).recheckSeq c k).mergeLate c k, true)
    else s.placePacket c k pkt n

/-- The packet in a frame of an IFQ entry `v`. -/
def State.mergePktOf (s : State) (v : Nat) (bytes : List Byte) : MergePkt :=
  let o := bitsAt v 48 7
  let b0 := beAt bytes o 1
  let body := o + 12 + 4 * (b0 % 16)
  let body := if bitAt b0 4 then body + 4 + 4 * beAt bytes (body + 2) 2 else body
  let pad := if bitAt b0 5 then (bytes.getLast?.getD 0).toNat else 0
  let q := ((s.nowQ : Int) + toSigned 40 (ofSigned 40 ((bitsAt v 64 40 : Int) - s.nowQ))).toNat
  { ssrc := beAt bytes (o + 8) 4, seq := beAt bytes (o + 2) 2, ts := beAt bytes (o + 4) 4, marker := decide (128 ≤ beAt bytes (o + 1) 1),
    payload := (bytes.drop body).take (bytes.length - body - pad), arrival := q * 6750 }

/-- DEPACKETIZE (R150–R154): the depacketizer takes the next frame of a flow's IFQ. A frame for no live decode channel with network input
is freed without effect. -/
def State.depack (s : State) (flow : Nat) (n : StreamNote) : State :=
  if (s.queue (ifqId flow)).isEmpty then s
  else
    let v := s.headEntry (ifqId flow)
    let r := s.chainCells (bitsAt v 14 3) (bitsAt v 0 14)
    match (s.iflow flow).channel with
    | none => (s.takeIfq flow).1
    | some c =>
      let x := s.channel c
      if (s.iflow flow).kind ≠ 1 ∨ x.decode = false ∨ x.state.live = false ∨ x.cfg.injectQid ≠ 0 ∨ r.2 = false then (s.takeIfq flow).1
      else match s.mergePacket c (s.mergePktOf v (s.loadFrame r.1 (bitsAt v 17 14))) n with
        | (t, true) => (t.takeIfq flow).1
        | (t, false) => t

/-- DEPACKETIZE; while the depacketizer is asleep the frame waits in its IFQ (R26). -/
def execDepacketize (flow : Nat) (note : StreamNote) (s : State) : Host.Outcome State Fault Refusal :=
  if flow < 2048 then .next (if s.asleep Src.depacketizer then s else s.depack flow note) else .fault .noSuchUnit

/-! ## Injection (R122) -/

/-- An injection entry as the device returns it: STATUS, CHANNEL, OWN 0; the reserved bits of the words written are 0 (R13). -/
def injectReturn (v ch status : Nat) : Nat :=
  bitsAt v 0 120 + 2 ^ 120 * status + 2 ^ 128 * (bitsAt v 128 40) + 2 ^ 168 * ch + 2 ^ 176 * bitsAt v 176 6 + 2 ^ 192 * bitsAt v 192 288

/-- An entry that contributes nothing (R122): the unit it belongs to is incomplete. -/
def State.rejectInject (s : State) (c q v k status : Nat) : State :=
  let s := s.modChannel c fun x => { x with merge := { x.merge with highest := max x.merge.highest k } }
  let s := (s.declareLost c k).recheckSeq c k
  let s := if bitAt v 177 then (match (s.channel c).merge.openUnit with
    | some p => (s.modChannel c fun x => x.closeAu p k).recheckUnit c p
    | none => s) else s
  s.returnEntry q (injectReturn v c status)

/-- The open unit ends before number `k`. -/
def Channel.endOpen (x : Channel) (k : Nat) : Channel :=
  match x.merge.openUnit with
  | some q => { x with pics := (SMap.modify (fun _ => {}) x.pics q fun y => { y with seqLast := if y.closed then y.seqLast else some (k - 1) }), merge := { x.merge with openUnit := none } }
  | none => x

/-- An entry whose length is rejected (R15, R122): nothing in it takes effect, not its LAST or RTP_TS; the number it would have had is lost to the unit
that is open. With FIRST it is the next unit that loses it, and with it every later entry of that unit: the unit before it has ended. -/
def State.refuseInject (s : State) (c q v k status : Nat) : State :=
  let s := if bitAt v 176 then s.modChannel c fun x => x.endOpen k else s
  let s := s.modChannel c fun x => { x with merge := { x.merge with highest := max x.merge.highest k } }
  ((s.declareLost c k).recheckSeq c k).returnEntry q (injectReturn v c status)

/-- The first entry device-owned is taken (R122): RTP_TS of the entry with FIRST places its access unit, at the moment it is taken. A unit that
comes after its first band's input deadline is lost. -/
def State.takeInject (s : State) (c v : Nat) (n : StreamNote) : State :=
  let q := (s.channel c).cfg.injectQid
  let len := bitsAt v 96 24
  let m := (s.channel c).merge
  let k := if m.highest = 0 then 65536 else m.highest + 1
  let s := if m.highest = 0 then s.modChannel c fun x => { x with merge := { x.merge with base := k } } else s
  if len = 0 then s.refuseInject c q v k St.lenZero
  else if bitsAt v 64 24 < len then s.refuseInject c q v k St.lenOverBuffer
  else
  let p0 := (s.channel c).merge.nextUnit
  let s := if bitAt v 176 then s.modChannel c fun x => x.openAu (bitsAt v 192 32) k s.nowT else s
  let s := if bitAt v 176 ∧ (s.channel c).inputDeadline p0 0 < s.nowT then s.loseWhole c p0 else s
  if (match (s.channel c).merge.openUnit with | some p => ((s.channel c).pic p).lostAll || ((s.channel c).pic p).closed | none => false) then s.rejectInject c q v k St.ok
  else match s.hostRead (bitsAt v 0 64) len, (s.channel c).merge.openUnit with
    | none, _ => s.rejectInject c q v k St.dmaError
    | some _, none => s.rejectInject c q v k St.ok
    | some d, some p =>
      match s.morePages (len / 65536 + 2) c p 21 len with
      | (t, false) => t.rejectInject c q v k (t.refusalStatus .page 21)
      | (t, true) =>
        ((t.receiveSeq c k (d, t.now)).placeBytes c p k (recBytes d len) (bitAt v 177) n).returnEntry q (injectReturn v c St.ok)

/-- INJECT_ENTRY (R122). No entry is taken before the start time, so that the first access unit is picture 0 (R295; DESIGN CHOICE, log 144). -/
def execInjectEntry (channel : Nat) (note : StreamNote) (s : State) : Host.Outcome State Fault Refusal :=
  if channel < 128 then
    let x := s.channel channel
    if x.decode && x.state.live && decide (x.cfg.injectQid ≠ 0) && (s.queue x.cfg.injectQid).valid && decide (x.startNs * tauNs < s.nowT) then
      match s.ownedEntry x.cfg.injectQid with
      | some v => .next (s.takeInject channel v note)
      | none => .next s
    else .next s
  else .fault .noSuchUnit

/-! ## BAND_INPUT_DEADLINE (R36, R206) -/

/-- At its input deadline an ARRIVING band becomes READY; a paired encode band with positions missing asks the peer first. -/
def State.inputDue (s : State) (i : BandId) : State :=
  let x := s.channel i.ch
  let u := s.band i
  let due := x.inputDeadline i.pic i.b
  if x.decode && decide (i.b = 0) && decide (due ≤ s.nowT) && decide ((x.pic i.pic).ptype = 0) && x.pics.any (fun (e : Nat × Pic) => decide (e.1 = i.pic)) then
    -- Not one slice header of the unit has come: it is lost entirely (R153, R166).
    s.loseWhole i.ch i.pic
  else if decide (s.nowT < due) || !s.bandRuns i then s
  else
    let s :=
      if u.state ≠ .arriving ∨ u.reconOpen = true then s
      else if x.decode = false ∧ s.pairedBand i = true ∧ u.complete = none then s.openReconcile i
      else s.readyNow i (u.complete.getD due)
    if x.decode then s else s.answerWaiting i

/-- BAND_INPUT_DEADLINE. -/
def execBandInputDeadline (channel pic band : Nat) (s : State) : Host.Outcome State Fault Refusal :=
  if channel < 128 then .next (s.inputDue ⟨channel, pic, band⟩) else .fault .noSuchUnit

end Sys2Proof.Machine
end

