-- ==== Sys2Proof/Machine/Egress.lean ====
section
/-!
DEFINITION. The output of a decode channel: its slots (R155, R166), the egress reader's band starts (R156, R157), the flow pacer (R374),
and the RTP packets with the damage extension (R168, R375).
-/
namespace Sys2Proof.Machine

/-! ## Slots (R155, R166) -/

/-- OUTPUT_SLOT (R155): a slot's time has come; the next one follows a period later. -/
def State.outputSlot (s : State) (c : Nat) : State :=
  let x := s.channel c
  match x.out.nextSlot with
  | some t =>
    if x.decode && x.state.live && decide (t ≤ s.nowT) then
      s.modChannel c fun x => { x with out := { x.out with nextSlot := some (t + x.cfg.periodT), active := x.out.active ++ [{ slotT := t }] } }
    else s
  | none => s

/-- OUTPUT_SLOT. -/
def execOutputSlot (channel : Nat) (s : State) : Host.Outcome State Fault Refusal :=
  if channel < 128 then .next (s.outputSlot channel) else .fault .noSuchUnit

/-- Twice the τ at which the window of a slot's output picture begins (R155); it is one period long. -/
def Channel.slotWindow (x : Channel) (t : Nat) : Int := 2 * (t : Int) - 2 * (x.cfg.outDelay * x.cfg.periodT : Nat) - (x.cfg.periodT : Nat)

/-- A picture that waits for its slot. -/
def Pic.awaitsSlot (y : Pic) : Bool := y.startsDec && y.output && !y.shown

/-- The output picture of a slot at τ `t`. Where two wait whose t_pic lie in its window, the manual names none: the unit that began to arrive first
(DESIGN CHOICE, log 144). -/
def Channel.slotPic (x : Channel) (t : Nat) : Option Nat :=
  let lo := x.slotWindow t
  (x.pics.find? fun (e : Nat × Pic) => e.2.awaitsSlot && decide (lo ≤ 2 * (e.2.tPic : Int)) && decide (2 * (e.2.tPic : Int) < lo + 2 * (x.cfg.periodT : Nat))).map Prod.fst

/-- A picture is never output: its bands that are CODED, and those that come to be, are SENT. -/
def Pic.notOutput (y : Pic) : Pic :=
  let z := { y with output := false }
  { z with bands := (z.bands.map Prod.fst).foldl (fun m b => SMap.modify (fun _ => {}) m b fun u => u.outDone z) z.bands }

/-- Pictures whose slot has passed without them. -/
def Channel.dropPassed (x : Channel) (t : Nat) : Channel :=
  let lo := x.slotWindow t
  let ps := (x.pics.filter fun (e : Nat × Pic) => e.2.awaitsSlot && decide (2 * (e.2.tPic : Int) < lo)).map Prod.fst
  { x with pics := ps.foldl (fun m p => SMap.modify (fun _ => {}) m p Pic.notOutput) x.pics }

/-- Changes the slot whose picture is being sent. -/
def Channel.modSlot (x : Channel) (f : OutSlot → OutSlot) : Channel :=
  { x with out := { x.out with active := match x.out.active with | q :: rest => f q :: rest | [] => [] } }

/-- The access unit scheduled in the slot at τ `t` (R156): the one whose t_sched lies within half a period of it. DESIGN CHOICE (log 127): the
manual gives no window for a t_sched off the slot grid. -/
def Channel.unitInSlot (x : Channel) (t : Nat) : Option (Nat × Pic) :=
  let lo : Int := 2 * (t : Int) - (x.cfg.periodT : Nat)
  x.pics.find? fun (e : Nat × Pic) => e.2.startsDec && decide (lo ≤ 2 * (e.2.tSched : Int)) && decide (2 * (e.2.tSched : Int) < lo + 2 * (x.cfg.periodT : Nat))

/-- The second field of the MBAFF frame sent last is still to be sent: it goes out in the slot after the frame's (log 99). -/
def Channel.secondField (x : Channel) : Option Nat := if x.out.fieldDue then x.out.lastPic else none

/-- No access unit whose t_pic lies in the window of the slot at τ `t` has come in time: the one due is missing from the ring (R122, R170). -/
def Channel.missingFor (x : Channel) (t : Nat) : Bool :=
  let lo := x.slotWindow t
  !x.pics.any fun (e : Nat × Pic) => !e.2.lostAll && decide (lo ≤ 2 * (e.2.tPic : Int)) && decide (2 * (e.2.tPic : Int) < lo + 2 * (x.cfg.periodT : Nat))

/-- The picture of the first active slot is settled as its first band starts (R155, R166): its output picture, a repeat, or none before
output has begun. A repeat has its record; where the slot's unit is missing from the injection ring, DEC_LOSS too (R122, R170). -/
def State.chooseOut (s : State) (c : Nat) (q : OutSlot) : State :=
  let x := (s.channel c).dropPassed q.slotT
  match x.slotPic q.slotT with
  | some p =>
    let x := { x with pics := SMap.modify (fun _ => {}) x.pics p fun y => { y with shown := true }, out := { x.out with begun := true, fieldDue := (x.cfgOf p).mbaff } }
    s.modChannel c fun _ => x.modSlot fun q => { q with pic := some p, chosen := true }
  | none =>
  match x.secondField with
  | some p => s.modChannel c fun _ => { x with out := { x.out with fieldDue := false } }.modSlot fun q => { q with pic := some p, chosen := true, second := true }
  | none =>
    let rep := if x.out.begun then x.out.lastPic else none
    let s := s.modChannel c fun _ => x.modSlot fun q => { q with pic := rep, chosen := true, isRepeat := true }
    match rep with
    | some p =>
      let s := s.putPicture c p true
      if x.cfg.injectQid = 0 ∨ x.missingFor q.slotT = false then s else s.raise (Src.tambour + x.tambour) Kind.decLoss (addrP c x.merge.nextUnit 0xFF) 1
    | none => s

/-! ## Band starts (R156) -/

/-- The geometry of what is sent: of a field, half the lines of each band, where the stream codes MBAFF frames. -/
def ChannelCfg.outCfg (c : ChannelCfg) : ChannelCfg :=
  if c.mbaff then { c with mbaff := false, streamCtb := 0, bandH := (if c.bandLines = 64 then 1 else 0) } else c

/-- When band `b` of a slot starts, in τ: at the deadline of that band of the unit scheduled in the slot, which it has once it is READY; else at
the time that R36 gives from the slot. -/
def Channel.bandStart (x : Channel) (q : OutSlot) (b : Nat) : Option Nat :=
  match x.unitInSlot q.slotT with
  | some e => if (e.2.band b).state = .arriving then none else some (x.deadline e.1 b)
  | none => some (x.cfg.outCfg.deadlineAt q.slotT b + x.cfg.budgetT)

/-- A band has not been decoded (R157): it is not CODED, or its repair has not ended. -/
def State.undecoded (s : State) (i : BandId) : Bool :=
  match (s.band i).state with
  | .arriving => true
  | .ready => true
  | .named => true
  | .coding => true
  | _ => (s.tamb (s.channel i.ch).tambour).repairs.contains i

/-- A copy of the channel in which the regions of band `i` not yet written, from block `k` on, are concealed (R157, R164). -/
def Channel.concealFrom (x : Channel) (i : BandId) (k : Nat) : Channel :=
  let left := x.repairOrder i k
  (left.foldl (fun (a : Channel × List Nat) r =>
    ({ a.1 with pics := SMap.set (fun _ => {}) a.1.pics i.pic (a.1.conceal i.pic r fun v => (x.regionDone i k v && !left.contains v) || a.2.contains v) }, r :: a.2)) (x, [])).1

/-- The blocks of a band that F0 has written. -/
def State.blocksDone (s : State) (i : BandId) : Nat :=
  let t := s.tamb (s.channel i.ch).tambour
  if t.coding = some i then t.blocks else (s.band i).blocks

/-- The picture as the egress reader finds it for a band: a band not yet decoded, and the one before it, concealed. -/
def State.outRaster (s : State) (c p b : Nat) : Pic :=
  let x := s.channel c
  let bs := if b = 0 then [b] else [b - 1, b]
  ((bs.filter fun k => s.undecoded ⟨c, p, k⟩).foldl (fun z k => z.concealFrom ⟨c, p, k⟩ (s.blocksDone ⟨c, p, k⟩)) x).pic p

/-! ## Packets (R168, R374, R375) -/

/-- Lines that a pixel group spans. -/
def ChannelCfg.groupLines (c : ChannelCfg) : Nat := if c.chroma = 1 then 2 else 1

/-- Packets of a picture whose last pixel lies in band `b` or before it, with `pg` groups in each. -/
def ChannelCfg.packetsTo (c : ChannelCfg) (pg b : Nat) : Nat :=
  let g := c.bandEnd b / c.groupLines * c.rowGroups
  if c.picGroups ≤ g then c.npackets pg else g / pg

/-- The packet that carries the pixel of raster index `i`. -/
def ChannelCfg.packetOfPixel (c : ChannelCfg) (pg i : Nat) : Nat := (i / c.width / c.groupLines * c.rowGroups + i % c.width / max 1 c.groupWidth) / pg

/-- trs of R374 as a fraction of τ: its numerator and denominator. SENDER 1 is NL. -/
def ChannelCfg.trs (c : ChannelCfg) (f : EFlow) : Nat × Nat :=
  let n := c.npackets f.pgroups
  if f.sender = 1 then (c.periodT, n) else (c.periodT * c.lines * (if c.fields then 2 else 1), n * c.totalLines)

/-- Damage states of the regions of band `b`: how many are concealed, and tainted. -/
def Pic.bandDamage (y : Pic) (c : ChannelCfg) (b : Nat) : Nat × Nat :=
  let cols := c.width / 16
  let l := (List.range (c.bandBlocks b)).map fun k => y.damaged (c.bandTop b / 16 * cols + k)
  ((l.filter fun d => decide (d = 1)).length, (l.filter fun d => decide (d = 2)).length)

/-- The header extension of R168. -/
def ChannelCfg.taintBytes (c : ChannelCfg) (rep damaged : Bool) (d : Nat × Nat) (b p : Nat) : List Nat :=
  if c.taintExt = 0 then []
  else
    [0xBE, 0xDE, 0, 2, 16 * c.taintExtId + 3, 128 * b2n rep + 64 * b2n (decide (d.1 ≠ 0)) + 32 * b2n (decide (d.2 ≠ 0)) + 16 * b2n damaged, b % 256,
      min 255 (d.1 + d.2), p % 256, 0, 0, 0]

/-- A sample as it is sent: shifted left from the stream's depth to the configured one (R148). -/
def Pic.outSample (y : Pic) (comp x row : Nat) : Nat := y.sample comp x row * 2 ^ (if comp = 0 then y.shiftY else y.shiftC)

/-- A field of an MBAFF frame: its lines, by parity. -/
def Pic.fieldOf (y : Pic) (parity : Nat) : Pic :=
  { y with samples := y.samples.filterMap fun e =>
      let row := e.1 / 4096 / 3
      if row % 2 = parity then some ((row / 2 * 3 + e.1 / 4096 % 3) * 4096 + e.1 % 4096, e.2) else none }

/-- Packet `k` of an output picture (R375): `n` is its 32-bit sequence number, `field` marks a second field. -/
def ChannelCfg.outPacket (c : ChannelCfg) (f : EFlow) (y : Pic) (ext : List Nat) (field : Bool) (slotT n k : Nat) : List Nat × Bool :=
  let m := decide (k + 1 = c.npackets f.pgroups)
  let runs := c.groupRuns (k * f.pgroups) (min ((k + 1) * f.pgroups) c.picGroups)
  let head := rtpHeader m f.pt (n % 65536) (slotT / 300000000 % 2 ^ 32) f.ssrc
  let head := if ext = [] then head else (0x90 :: head.drop 1) ++ ext
  (head ++ beBytes 2 (n / 65536 % 65536) ++ c.payload y.outSample field runs, m)

/-- What a band's packets share: the raster, the channel's flow, the flows that carry them, the extension, the band's start in τ and its
first packet, and the packet before which its output ends. -/
structure OutBand where
  id    : BandId
  y     : Pic
  /-- The band has been sent before: a repeat, or the second field of a frame. -/
  again : Bool
  f     : EFlow
  flows : List Nat
  ext   : List Nat
  field : Bool
  start : Nat
  k0    : Nat
  stop  : Nat

/-- e(k) of R374, over the denominator of trs. -/
def OutBand.pace (o : OutBand) (c : ChannelCfg) (out : DecOut) (k : Nat) : Nat :=
  let t := c.trs o.f
  max (o.start * t.2 + (k - o.k0) * t.1) (if out.lastDen = t.2 ∧ out.lastE ≠ 0 then out.lastE + t.1 else 0)

/-- A formed packet: the channel's count, the pace, and on a first output the band's packets that are still to be sent. -/
def State.packetFormed (s : State) (o : OutBand) (rep : Bool) (e : Nat) (k : Option PktRec) : State :=
  let s := s.modChannel o.id.ch fun x =>
    { x.modSlot (fun q => { q with nextPkt := q.nextPkt + 1 }) with
      out := { (x.modSlot (fun q => { q with nextPkt := q.nextPkt + 1 })).out with seq := x.out.seq + 1, lastE := e, lastDen := ((x.cfgOf o.id.pic).outCfg.trs o.f).2 } }
  match k with
  | some r => if rep then s else s.modBand o.id fun u => { u with packets := u.packets ++ [{ r with left := o.flows.length }], unsent := u.unsent + o.flows.length }
  | none => s

/-- Forms the band's packets in cells of owner 16; where a cell is refused, or an EFQ is full, it goes on at a later attempt (R319, R371). -/
def State.formOut (n : Nat) (s : State) (o : OutBand) : State × Bool :=
  let x := s.channel o.id.ch
  match n, x.out.active with
  | j + 1, q :: _ =>
    if o.stop ≤ q.nextPkt then (s, true)
    else
      let e := o.pace (x.cfgOf o.id.pic).outCfg x.out q.nextPkt
      let r := (x.cfgOf o.id.pic).outCfg.outPacket o.f o.y o.ext o.field q.slotT (o.f.ssrc % 65536 + x.out.seq) q.nextPkt
      let bytes := r.1.map (BitVec.ofNat 8)
      if o.flows = [] then State.formOut j (s.packetFormed o o.again e none) o
      else if s.backedUp o.id.ch then (s, false)
      else match s.allocCells (chainLen bytes.length) 16 [] with
        | (t, none) => (t, false)
        | (t, some cells) =>
          let k : PktRec := { cell := cells.headD 0, cells := cells.length, len := bytes.length, marker := r.2 }
          let t := (t.storeFrame cells bytes).sendPacket 16 (e / ((x.cfgOf o.id.pic).outCfg.trs o.f).2 / 6750 % 2 ^ 40) false o.flows [] k
          State.formOut j (t.packetFormed o o.again e (some k)) o
  | _, _ => (s, true)

/-- DEC_OUT_EARLY for a band sent before it is decoded, once (R157). -/
def State.outEarly (s : State) (i : BandId) : State :=
  if bitAt (s.band i).findings 3 then s
  else (s.modBand i fun u => { u with findings := u.findings + 8 }).raise Src.egress Kind.decOutEarly (addrP i.ch i.pic i.b) 1

/-- The band of a slot has been sent: the next one follows, or the slot ends. Without an active flow it is SENT at `idle`, the ELIGIBLE time of
its last packet (R55). -/
def State.endOutBand (s : State) (c p b : Nat) (rep : Bool) (pkts : Nat) (idle : Option Nat) : State :=
  let s := if rep then s else match idle with
    | some t => s.modBand ⟨c, p, b⟩ fun u => { u with sentAt := some t }
    | none => s.modBand ⟨c, p, b⟩ fun u => { u with released := true }.outDone ((s.channel c).pic p)
  s.modChannel c fun x =>
    let x := x.modSlot fun q => { q with nextBand := b + 1, nextPkt := pkts }
    if b + 1 < (x.cfgOf p).outCfg.bandCount then x else { x with out := { x.out with active := x.out.active.drop 1, lastPic := some p } }

/-- The active egress flows of a decode channel's slot (R55, R219). -/
def State.outFlows (s : State) (c start : Nat) (q : OutSlot) : List Nat :=
  let solo := q.soloOk || (decide (q.nextBand = 0) && decide (s.twin.phase = .survivor) && decide (s.field Reg.twn 2 1 = 1) && decide ((s.twin.lostAt + 2000) * tauNs ≤ start))
  ((s.egressOf c).filter fun (e : Nat × EFlow) => !e.2.solo || solo).map Prod.fst

/-- Sends band `b` of picture `p`, the output picture of the first active slot. -/
def State.sendOut (s : State) (c p b start : Nat) (q : OutSlot) : State :=
  let x := s.channel c
  let cf := x.cfgOf p
  let c0 := cf.outCfg
  match (s.egressOf c).head? with
  | none => s.endOutBand c p b (q.isRepeat || q.second) 0 none
  | some (_, f) =>
    let i : BandId := ⟨c, p, b⟩
    let y := s.outRaster c p b
    let s := if q.isRepeat = false ∧ q.second = false ∧ s.undecoded i = true then s.outEarly i else s
    let d := y.bandDamage cf b
    let y := if cf.mbaff then y.fieldOf ((b2n q.second + x.cfg.fieldOrder) % 2) else y
    let damaged := q.damaged || decide (d ≠ (0, 0))
    let flows := s.outFlows c start q
    let s := s.modChannel c fun x => x.modSlot fun q => { q with damaged := damaged, soloOk := flows.any fun n => (s.eflow n).solo }
    let last := c0.packetsTo f.pgroups b
    let cut := match x.out.poison with | some v => (if v / c0.width / cf.bandLines = b then some (c0.packetOfPixel f.pgroups v) else none) | none => none
    let o : OutBand :=
      { id := i, y := y, again := q.isRepeat || q.second, f := f, flows := flows, ext := c0.taintBytes q.isRepeat damaged d b p, field := (if cf.mbaff then q.second else c0.fields && decide ((2 * (x.pic p).tPic + c0.periodT) / (2 * c0.periodT) % 2 = 1)), start := start,
        k0 := (if b = 0 then 0 else c0.packetsTo f.pgroups (b - 1)), stop := (match cut with | some k => min k last | none => last) }
    match s.formOut (last + 1) o with
    | (t, true) =>
      let t := if cut.isSome then t.modChannel c fun x => { x with out := { x.out with poison := none } } else t
      let out := (t.channel c).out
      t.endOutBand c p b (q.isRepeat || q.second) last (if flows = [] then some (out.lastE / max 1 out.lastDen) else none)
    | (t, false) => t

/-- EGRESS_BAND_START (R156, R157): the next band of the first active slot starts when its time has come. A slot without a picture before
output has begun sends nothing. -/
def State.egressStart (s : State) (c : Nat) : State :=
  match (s.channel c).out.active with
  | [] => s
  | q :: _ =>
    match (s.channel c).bandStart q q.nextBand with
    | none => s
    | some t =>
      if s.nowT < t then s
      else
        let s := if q.chosen then s else s.chooseOut c q
        match (s.channel c).out.active with
        | q :: rest =>
          (match q.pic with
          | some p => s.sendOut c p q.nextBand t q
          | none => s.modChannel c fun x => { x with out := { x.out with active := rest } })
        | [] => s

/-- EGRESS_BAND_START; in the safe state no band starts. -/
def execEgressBandStart (channel : Nat) (s : State) : Host.Outcome State Fault Refusal :=
  if channel < 128 then
    .next (if (s.channel channel).decode = true ∧ (s.channel channel).state.live = true ∧ s.flt.safe = false ∧ s.asleep Src.egress = false then s.egressStart channel else s)
  else .fault .noSuchUnit

end Sys2Proof.Machine
end

