-- ==== Sys2Proof/Machine/Hbm.lean ====
section
/-!
DEFINITION. The HBM3 controller (R427–R449): the address map, the command schedulers, refresh, self-refresh, training, on-die ECC and the
reference row check ledger.
-/
namespace Sys2Proof.Machine

/-! ## The address map (R428) -/

/-- The pseudo-channel of an address; its bank group and bank as one number; its row. -/
def pcOf (a : Nat) : Nat := (a / 2 ^ 8 % 32) ^^^ (a / 2 ^ 19 % 32)
def bankOf (a : Nat) : Nat := a / 2 ^ 17 % 4 + 4 * (a / 2 ^ 15 % 4)
def rowOf (a : Nat) : Nat := a / 2 ^ 19 % 2 ^ 15

/-- Bank `b` of pseudo-channel `pc`. -/
def State.hbmBank (s : State) (pc b : Nat) : HbmBank := SMap.get (fun _ => {}) s.hbm.banks (16 * pc + b)
def State.modBank (s : State) (pc b : Nat) (f : HbmBank → HbmBank) : State :=
  { s with hbm := { s.hbm with banks := SMap.modify (fun _ => {}) s.hbm.banks (16 * pc + b) f } }

/-! ## Ports (R429–R432) -/

/-- A port's latency target in ns (R445) and its reservation. -/
def State.portTarget (s : State) (n : Nat) : Nat := max 100 (s.field (Reg.hbmPortCfg + 4 * n) 0 16)
def State.portRsv (s : State) (n : Nat) : Nat := s.field (Reg.hbmPortCfg + 4 * n) 16 8

/-- A port's urgency (R430), from the age of its oldest outstanding request: one that waits, or a read whose data has not come. -/
def State.urgency (s : State) (n : Nat) : Nat :=
  let age := (((s.hbm.reqs ++ s.hbm.reads).filter fun r => decide (r.port = n)).map fun r => s.now - r.at_).foldl max 0
  let t := s.portTarget n
  if 100 * age < 50 * t then 0 else if 100 * age < 75 * t then 1 else if 100 * age < 90 * t then 2 else 3

/-- A port is under its reservation (R431): bytes moved in the last 1,024 ns. -/
def State.underRsv (s : State) (n : Nat) : Bool :=
  decide (64 * (s.hbm.moved.filter fun e => decide (e.2 = n) && decide (s.now < e.1 + 1024)).length < s.portRsv n * 32768 / 10)

/-- The latency of a request is measured (R429): beyond the port's target it counts, with a notice. -/
def State.noteLatency (s : State) (n ns : Nat) : State :=
  let s := s.setRegN (Reg.hbmPortMaxlat + 4 * n) (min (2 ^ 32 - 1) (max ns (s.regN (Reg.hbmPortMaxlat + 4 * n))))
  if s.portTarget n < ns then (s.count (Reg.hbmPortLate + 4 * n) 32 1).raise Src.hbm Kind.hbmPortLate 0 n else s

/-! ## HBM_COMMAND_ISSUE (R431, R433, R434) -/

/-- A request may be issued on `pc`: no earlier one names its block. -/
def readyReqs (pc : Nat) (seen : List Nat) (l : List HbmReq) : List HbmReq :=
  match l with
  | [] => []
  | r :: rest =>
    let later := readyReqs pc (r.addr / 64 :: seen) rest
    if pcOf r.addr = pc ∧ seen.contains (r.addr / 64) = false then r :: later else later

/-- The rules 2–5 of R431 as one number: less goes first. -/
def State.reqRank (s : State) (pc : Nat) (r : HbmReq) : Nat :=
  let hit := decide ((s.hbmBank pc (bankOf r.addr)).row = some (rowOf r.addr))
  let turn := (r.port + 8 - (SMap.get (fun _ => 7) s.hbm.lastPort pc + 1) % 8) % 8
  1000 * (3 - s.urgency r.port) + 100 * b2n (!s.underRsv r.port) + 10 * b2n (!hit) + turn

/-- The request that a pseudo-channel's scheduler picks. -/
def State.pickReq (s : State) (pc : Nat) : Option HbmReq :=
  (readyReqs pc [] s.hbm.reqs).foldl (fun best r => match best with | none => some r | some b => if s.reqRank pc r < s.reqRank pc b then some r else some b) none

/-- Refresh interval in ns (R435). -/
def State.refreshNs (s : State) : Nat := if s.hbm.tempRange = 0 then 3900 else if s.hbm.tempRange = 1 then 1950 else 975

/-- Bank `b` is refreshed: its row closes, its postponement count is 0, the next refresh is due an interval later. -/
def State.refreshBank (s : State) (pc b : Nat) : State :=
  s.modBank pc b fun k => { k with row := none, postponed := 0, refDue := s.now + s.refreshNs }

/-- A bank whose refresh is due and can no longer be postponed. -/
def State.forcedBank (s : State) (pc : Nat) : Option Nat :=
  (List.range 16).find? fun b => decide (4 ≤ (s.hbmBank pc b).postponed) && decide ((s.hbmBank pc b).refDue ≤ s.now)

/-- Requests that ports accept (R429): whole blocks; ports 2 and 3 receive none on the MK8064. Only the hoop ports have accesses with the hint
Close (R433). They wake a stack in self-refresh. -/
def State.acceptReqs (s : State) (l : List HbmReqArgs) : State :=
  let ok (r : HbmReqArgs) : Bool := decide (r.port < 8) && decide (r.addr < 0x400000000) && !((decide (r.port = 2) || decide (r.port = 3)) && !s.tambEnabled (2 * r.port))
  let rs := (l.filter ok).map fun r => { port := r.port, addr := r.addr / 64 * 64, write := r.write, open_ := r.open_ || decide (4 ≤ r.port), at_ := s.now : HbmReq }
  if rs = [] then s
  else { s with hbm := { s.hbm with reqs := s.hbm.reqs ++ rs, idleSince := s.now, exiting := s.hbm.exiting || s.hbm.selfRefresh } }

/-- A request is issued to the DRAM. -/
def State.issueReq (s : State) (pc : Nat) (r : HbmReq) : State :=
  let reqs := s.hbm.reqs.erase r
  let s := { s with hbm := { s.hbm with reqs := reqs, reads := (if r.write then s.hbm.reads else s.hbm.reads ++ [r]), lastPort := SMap.set (fun _ => 7) s.hbm.lastPort pc r.port, idleSince := s.now,
                                        moved := (s.now, r.port) :: s.hbm.moved.filter fun e => decide (s.now < e.1 + 1024) } }
  let s := s.modBank pc (bankOf r.addr) fun k => { k with row := (if r.open_ then some (rowOf r.addr) else none), lastUse := s.now }
  if r.write then s.noteLatency r.port (s.now - r.at_) else s

/-- One command of a pseudo-channel's scheduler: a refresh that can wait no longer, else the picked request. -/
def State.issueOn (s : State) (pc : Nat) : State :=
  if s.hbm.trained = false ∨ s.hbm.training = true ∨ s.hbm.selfRefresh = true then s
  else match s.forcedBank pc with
    | some b => s.refreshBank pc b
    | none => match s.pickReq pc with
      | some r => s.issueReq pc r
      | none => s

/-- HBM_COMMAND_ISSUE. -/
def execHbmCommandIssue (pc : Nat) (arrivals : List HbmReqArgs) (s : State) : Host.Outcome State Fault Refusal :=
  if pc < 32 then .next ((s.acceptReqs arrivals).issueOn pc) else .fault .noSuchUnit

/-- HBM_REFRESH (R435): the bank's refresh is due; it is postponed where it meets a request at urgency 3, four times at most. -/
def State.refreshDue (s : State) (pc b : Nat) : State :=
  let k := s.hbmBank pc b
  let urgent := s.hbm.reqs.any fun r => decide (pcOf r.addr = pc) && decide (bankOf r.addr = b) && decide (s.urgency r.port = 3)
  if s.now < k.refDue ∨ s.hbm.selfRefresh = true ∨ s.hbm.trained = false then s
  else if urgent = true ∧ k.postponed < 4 then s.modBank pc b fun k => { k with postponed := k.postponed + 1, refDue := s.now + s.refreshNs }
  else s.refreshBank pc b

/-- HBM_REFRESH. -/
def execHbmRefresh (pc : Nat) (bank : Nat) (s : State) : Host.Outcome State Fault Refusal :=
  if pc < 32 ∧ bank < 16 then .next (s.refreshDue pc bank) else .fault .noSuchUnit

/-- OPEN_ROW_IDLE_CLOSE (R433, R442): a row idle for OPEN_IDLE closes. -/
def State.closeIdle (s : State) (pc b : Nat) : State :=
  let k := s.hbmBank pc b
  if k.row.isSome ∧ k.lastUse + 8 * max 1 (s.field Reg.hbmCfg 8 8) ≤ s.now then s.modBank pc b fun k => { k with row := none } else s

/-- OPEN_ROW_IDLE_CLOSE. -/
def execOpenRowIdleClose (pc : Nat) (bank : Nat) (s : State) : Host.Outcome State Fault Refusal :=
  if pc < 32 ∧ bank < 16 then .next (s.closeIdle pc bank) else .fault .noSuchUnit

/-! ## Temperature and self-refresh (R435, R436) -/

/-- TEMP_RANGE of a temperature. -/
def tempRangeOf (t : Int) : Nat := if 95 < t then 2 else if 85 < t then 1 else 0

/-- HBM_TEMP_READ (R435): HBM_TEMP_HIGH on entry above 95 °C. -/
def execHbmTempRead (t : Int) (s : State) : Host.Outcome State Fault Refusal :=
  let r := tempRangeOf t
  let u := { s with hbm := { s.hbm with temp := t, tempRange := r } }
  .next (if r = 2 ∧ s.hbm.tempRange ≠ 2 then u.raise Src.hbm Kind.hbmTempHigh 0 (ofSigned 32 t) else u)

/-- SELF_REFRESH_ENTRY (R436): every port has been empty for SR_IDLE microseconds. -/
def execSelfRefreshEntry (s : State) : Host.Outcome State Fault Refusal :=
  let idle := s.field Reg.hbmCfg 0 8
  .next (if s.hbm.trained = true ∧ s.hbm.training = false ∧ s.hbm.selfRefresh = false ∧ s.hbm.reqs = [] ∧ s.hbm.reads = [] ∧ idle ≠ 0 ∧ s.hbm.idleSince + 1000 * idle ≤ s.now then
    { s with hbm := { s.hbm with selfRefresh := true, exiting := false, banks := s.hbm.banks.filterMap fun (e : Nat × HbmBank) =>
        let k := { e.2 with row := none }
        if k = {} then none else some (e.1, k) } }
  else s)

/-- SELF_REFRESH_EXIT (R436): for a hoop wake, or for a request that waits. -/
def execSelfRefreshExit (wake : Bool) (s : State) : Host.Outcome State Fault Refusal :=
  .next (if s.hbm.selfRefresh = true ∧ (wake = true ∨ s.hbm.exiting = true) then
    { s with hbm := { s.hbm with selfRefresh := false, exiting := false, idleSince := s.now } } else s)

/-! ## Training (R437) -/

/-- WCK_RETRACK (R437): a channel re-tracks its WCK phase. -/
def execWckRetrack (channel : Nat) (s : State) : Host.Outcome State Fault Refusal :=
  if channel < 16 then
    .next (if s.hbm.trained then { s with hbm := { s.hbm with retracks := SMap.modify (fun _ => 0) s.hbm.retracks channel (· + 1) } } else s)
  else .fault .noSuchUnit

/-- HBM_TRAIN (R437): with no live channel and no busy pump; otherwise TRAIN_REJ. -/
def execHbmTrain (s : State) : Host.Outcome State Fault Refusal :=
  .next (if s.anyLive || s.pumps.any (fun (e : Nat × Pump) => e.2.running.isSome) || (List.range 8).any (fun t => (s.tamb t).moving.isSome) || s.hbm.training then s.setBits Reg.hbmStatus 0x40
    else { s with hbm := { s.hbm with training := true, selfRefresh := false } })

/-- HBM_TRAINING_END (R437): `failed` is a channel with more failing lanes than spares. -/
def execHbmTrainingEnd (failed : Option Nat) (lanes : BitVec 8) (s : State) : Host.Outcome State Fault Refusal :=
  if s.hbm.training then
    let t := { s with hbm := { s.hbm with training := false, trained := failed.isNone, lanesRepaired := lanes.toNat, idleSince := s.now } }
    .next (match failed with | some c => t.raise Src.hbm Kind.hbmTrainFail 0 c | none => t)
  else .next s

/-- HBM_PORT_CFG_WRITE (R432, R445): TARGET_NS is taken; RSV only while the sum stays at 208 or less. -/
def execHbmPortCfgWrite (n : Nat) (v : Word) (s : State) : Host.Outcome State Fault Refusal :=
  if n < 8 then
    let rsv := bitsAt v.toNat 16 8
    let sum := ((List.range 8).map fun k => if k = n then rsv else s.portRsv k).sum
    let a := Reg.hbmPortCfg + 4 * n
    .next (if sum ≤ 208 then s.setRegN a (bitsAt v.toNat 0 16 + 65536 * rsv)
      else (s.setRegN a (bitsAt v.toNat 0 16 + 65536 * s.portRsv n)).setBits Reg.hbmStatus 0x20)
  else .fault .noSuchUnit

/-! ## Reads (R438–R441) -/

/-- The picture in buffer slot `k` of a channel: the one named last. -/
def Channel.inSlot (x : Channel) (k : Nat) : Option Nat :=
  ((x.pics.filter fun (e : Nat × Pic) => e.2.named && decide (e.2.slot = k)).foldl
    (fun (best : Option (Nat × Nat)) (e : Nat × Pic) =>
      match best with
      | none => some (e.1, x.posOf e.1)
      | some b => if b.2 < x.posOf e.1 then some (e.1, x.posOf e.1) else some b) none).map Prod.fst

/-- A ledger row is sealed (R440): the band below its last line has been written, or the picture has ended. -/
def Channel.rowSealed (x : Channel) (p r : Nat) : Bool :=
  let y := x.pic p
  let below := (32 * r + 32) / (x.cfgOf p).bandLines
  let ended (u : Band) : Bool := u.coded || (match u.state with | .abandoned => true | .skipped => true | .retired => true | _ => false)
  if below < (x.cfgOf p).bandCount then ended (y.band below) else (List.range (x.cfgOf p).bandCount).all fun b => ended (y.band b)

/-- Every region of ledger row `r` is tainted (R441). -/
def Pic.taintRow (y : Pic) (c : ChannelCfg) (r : Nat) : Pic :=
  let cols := c.width / 16
  let n := min (2 * cols) (c.codedLines / 16 * cols - 2 * r * cols)
  { y with damage := (List.range n).foldl (fun m k => SMap.set (fun _ => 0) m (2 * r * cols + k) 2) y.damage }

/-- A verifying read has accumulated `value` for a row (R440, R441). -/
def State.verifyRow (s : State) (c k r first value : Nat) : State :=
  let x := s.channel c
  match x.inSlot k with
  | none => s
  | some p =>
    if (x.cfgOf p).codedLines ≤ 32 * r ∨ x.rowSealed p r = false ∨ SMap.get (fun _ => 0) s.hbm.ledger (ledgerKey c k r) = value % 2 ^ 32 then s
    else
      let s := { s with hbm := { s.hbm with lastBad := some (c, k, r) } }
      let s := (s.count Reg.hbmLedgerBad 32 1).raise Src.hbm Kind.rowCheckBad first (packFields [(7, c), (1, 1), (5, k), (7, r), (12, 0)])
      if x.decode then s.modPic c p fun y => y.taintRow (x.cfgOf p) r else s.refCorrupt c p

/-- A poisoned block at its requester (R438). -/
def State.poisoned (s : State) (reader : HbmReader) : State :=
  match reader with
  | .plain => s
  | .encode t ref =>
    match (s.tamb t).coding with
    | none => s
    | some i =>
      if (s.channel i.ch).decode then s else
      let s := ((s.abandon i).name t).settle i.ch
      match ref with
      | some q => s.refCorrupt i.ch q
      | none => s
  | .decode t rs =>
    match (s.tamb t).coding with
    | some i => if (s.channel i.ch).decode then s.modBand i fun u => { u with poisoned := u.poisoned ++ rs } else s
    | none => s
  | .egress c px => if (s.channel c).decode then s.modChannel c fun x => { x with out := { x.out with poison := some px } } else s
  | .verify _ _ _ _ _ => s

/-- The severity of a read is counted and reported (R438). -/
def State.readSeverity (s : State) (addr sev : Nat) : State :=
  let c := pcOf addr / 2
  if sev = 0 then s
  else if sev = 3 then (s.count (Reg.hbmEccUncorr + 4 * c) 32 1).raise (Src.hbmChannel + c) Kind.eccUncorr addr 3
  else (s.count (Reg.hbmEccCorr + 4 * c) 32 1).raise (Src.hbmChannel + c) Kind.eccCorr addr sev

/-- The last data beat of a read is at its port: its latency runs from the acceptance of the oldest read of the port that names the block (R429);
a read that no HBM_COMMAND_ISSUE brought has the latency `ns`. -/
def State.endRead (s : State) (port addr ns : Nat) : State :=
  match s.hbm.reads.find? fun r => decide (r.port = port) && decide (r.addr = addr / 64 * 64) with
  | some r => { s with hbm := { s.hbm with reads := s.hbm.reads.erase r, idleSince := s.now } }.noteLatency port (s.now - r.at_)
  | none => s.noteLatency port ns

/-- HBM_READ_RETURN (R429, R438, R440, R441). -/
def execHbmReadReturn (port : Nat) (addr : Nat) (latencyNs : Nat) (severity : BitVec 2) (reader : HbmReader) (s : State) : Host.Outcome State Fault Refusal :=
  if port < 8 then
    let t := (s.endRead port addr latencyNs).readSeverity addr severity.toNat
    let t := if severity = 3 then t.poisoned reader else t
    .next (match reader with | .verify c k r first value => t.verifyRow c k r first value | _ => t)
  else .fault .noSuchUnit

end Sys2Proof.Machine
end

