-- ==== Sys2Proof/Machine/Queries.lean ====
section
/-!
DEFINITION. QUERY and its replies, the SDP text among them (R119, R299); QUEUE_DESTROY (R296, R310); RESET (R300).
-/
namespace Sys2Proof.Machine

/-! ## Text (R119) -/

/-- The bytes of ASCII text. -/
def txt (t : String) : List Nat := t.toList.map Char.toNat

/-- A number in decimal; `n` bounds its digits. -/
def decText (n v : Nat) : List Nat :=
  match n with
  | 0 => []
  | k + 1 => (if v < 10 then [] else decText k (v / 10)) ++ [48 + v % 10]
def dec (v : Nat) : List Nat := decText 20 v

/-- A hexadecimal digit, and a byte as two of them. -/
def hexDigit (v : Nat) : Nat := if v < 10 then 48 + v else 55 + v
def hexByte (v : Nat) : List Nat := [hexDigit (v / 16 % 16), hexDigit (v % 16)]

/-- A base64 digit (RFC 4648). -/
def base64Digit (v : Nat) : Nat := if v < 26 then 65 + v else if v < 52 then 71 + v else if v < 62 then v - 4 else if v = 62 then 43 else 47

/-- A byte string in base64. -/
def base64 (l : List Nat) : List Nat :=
  match l with
  | a :: b :: c :: t =>
    let v := 65536 * a + 256 * b + c
    [v / 262144, v / 4096 % 64, v / 64 % 64, v % 64].map base64Digit ++ base64 t
  | [a, b] => [a / 4, a % 4 * 16 + b / 16, b % 16 * 4].map base64Digit ++ txt "="
  | [a] => [a / 4, a % 4 * 16].map base64Digit ++ txt "=="
  | [] => []

/-- Parts with a separator between them. -/
def joinText (sep : List Nat) (l : List (List Nat)) : List Nat := (l.intersperse sep).flatten

/-- A line. -/
def textLine (l : List Nat) : List Nat := l ++ [13, 10]

/-- exactframerate: n/d reduced; a whole number stands alone. -/
def frameRateText (r : Nat) : List Nat :=
  let nd := rateND r
  let g := Nat.gcd nd.1 nd.2
  if nd.2 / g = 1 then dec (nd.1 / g) else dec (nd.1 / g) ++ txt "/" ++ dec (nd.2 / g)

/-- The TP parameter, from the lowest-numbered bound KIND 1 egress flow of the channel; none without one. -/
def State.tpText (s : State) (c : Nat) : List (List Nat) :=
  match (s.egressOf c).find? fun (e : Nat × EFlow) => decide (e.2.kind = 1) with
  | some e => [txt (if e.2.sender = 2 then "TP=2110TPW" else "TP=2110TPNL")]
  | none => []

/-- The parameters of a=fmtp that the codec gives. -/
def Channel.codecText (x : Channel) : List (List Nat) :=
  let ps := x.paramSets
  let b := bitBytes (x.cfg.ptl)
  if x.cfg.codec = 0 then
    [txt "profile-space=0", txt "profile-id=" ++ dec (b.getD 0 0 % 32), txt "tier-flag=" ++ dec x.cfg.tier, txt "level-id=" ++ dec (b.getD 11 0),
     txt "interop-constraints=" ++ ((b.drop 5).take 6).flatMap hexByte, txt "sprop-vps=" ++ base64 (ps.getD 0 []), txt "sprop-sps=" ++ base64 (ps.getD 1 []),
     txt "sprop-pps=" ++ base64 (ps.getD 2 []), txt "sprop-max-don-diff=0"]
  else
    [txt "profile-level-id=" ++ (((ps.getD 0 []).drop 1).take 3).flatMap hexByte, txt "packetization-mode=1",
     txt "sprop-parameter-sets=" ++ base64 (ps.getD 0 []) ++ txt "," ++ base64 (ps.getD 1 [])]

/-- The SDP lines of an encode channel (R119); `gm` is the grandmaster identity as eight bytes. Text that would pass 2,048 B is written whole (DESIGN
CHOICE, log 146). -/
def State.sdpText (s : State) (c : Nat) (gm : List Nat) : List Nat :=
  let x := s.channel c
  let pt := dec x.cfg.pt
  let both := [txt "width=" ++ dec x.cfg.width, txt "height=" ++ dec x.cfg.frameLines, txt "exactframerate=" ++ frameRateText x.cfg.rate] ++
    (if x.cfg.fields then [txt "interlace"] else []) ++ s.tpText c
  textLine (txt "a=rtpmap:" ++ pt ++ txt (if x.cfg.codec = 0 then " H265/90000" else " H264/90000")) ++
  textLine (txt "a=fmtp:" ++ pt ++ txt " " ++ joinText (txt ";") (x.codecText ++ both)) ++
  textLine (txt "b=AS:" ++ dec ((x.cfg.bitrate + 999) / 1000)) ++
  textLine (txt "a=ts-refclk:ptp=IEEE1588-2008:" ++ joinText (txt "-") (gm.map hexByte) ++ txt ":" ++ dec s.time.clock.domain) ++
  textLine (txt "a=mediaclk:direct=0")

/-- The grandmaster identity of the port that the time base follows; with no such port it is open. -/
def State.gmBytes (s : State) : List Nat × State :=
  match s.time.slavePort with
  | some n => (recBytes (SMap.get (fun _ => {}) s.time.ptp n : PtpLive).gmIdentity 8, s)
  | none => (recBytes s.takeFree.1 8, s.takeFree.2)

/-! ## QUERY (R299) -/

/-- Free quarter CU of tambour `t`. -/
def State.freeQ (s : State) (t : Nat) : Nat := if s.tambEnabled t then 64 - ((s.residents t 128).map Demand.cost).sum else 0

/-- The DEVICE reply. -/
def State.deviceReply (s : State) : Nat :=
  let q := (List.range 8).map s.freeQ
  packFields ([(32, s.devIdent), (32, s.devCaps), (8, countIn s.codec.channels fun _ x => decide (x.state ≠ .idle)), (24, 0), (10, q.sum), (22, 0)] ++
    q.map (fun v => (8, v)) ++ [(32, s.fw.vendorVer), (32, s.fw.ctrlVer), (256, s.fwDigest)])

/-- Code of a channel's state, and of its state against its twin. -/
def ChState.code (v : ChState) : Nat :=
  match v with | .idle => 0 | .configured => 1 | .armed => 2 | .running => 3 | .draining => 4 | .stopped => 5 | .faulted => 6
def ChTwin.code (v : ChTwin) : Nat := match v with | .inStep => 0 | .diverged => 1 | .joining => 2 | .solo => 3

/-- The CHANNEL reply. -/
def State.channelReply (s : State) (c : Nat) : Nat :=
  let x := s.channel c
  let twin := s.twinChannel c
  packFields [(8, c), (3, x.state.code), (1, b2n x.decode), (3, x.tambour), (1, b2n twin), (2, if twin then x.twinState.code else 0), (14, 0), (5, x.costQ), (27, 0),
    (32, wholeRate x.bandRate), (32, if x.decode then 0 else x.nextPicture), (64, x.digestAt x.startNs),
    (32, if x.decode then 0 else x.ssrcOf c), (16, if x.decode then 0 else (x.ssrcOf c + x.sentPkts) % 65536), (8, x.rc.pending.length), (8, x.faultKind),
    (64, x.startNs), (192, 0), (1024, x.cfg.record)]

/-- The FAULT_LOG reply: the entries, oldest first. -/
def State.logReply (s : State) : List Byte :=
  let n := min s.flt.logTotal 256
  (List.range n).flatMap fun k => bytesOf (SMap.get (fun _ => 0) s.flt.log ((s.flt.logNext + 256 - n + k) % 256)) 16

/-- The bytes of a reply, with the state after a value is taken for it; or why the query is refused. An IDLE channel is refused
by R294, though STATE has a code 0 (log entry 26). -/
def State.queryReply (s : State) (selector object : Nat) : Reply ⊕ (List Byte × State) :=
  match selector with
  | 0 => .inr (bytesOf s.deviceReply 64, s)
  | 1 =>
    if 128 ≤ object then .inl (Reply.field St.badChannel 0x0C)
    else if (s.channel object).state = .idle then .inl { status := St.badState }
    else .inr (bytesOf (s.channelReply object) 192, s)
  | 2 => .inr (bytesOf (s.queue object).image 16, s)
  | 3 =>
    if 128 ≤ object then .inl (Reply.field St.badChannel 0x0C)
    else if (s.channel object).state = .idle then .inl { status := St.badState }
    else if (s.channel object).decode then .inl (Reply.field St.badChannel 0x0C)
    else
      let g := s.gmBytes
      .inr ((g.2.sdpText object g.1).map (BitVec.ofNat 8), g.2)
  | 4 => .inr (s.logReply, s)
  | 5 => .inr (bytesOf s.rst.selfTest 64, s)
  | _ => .inl (Reply.field St.badFormat 8)

/-- QUERY's effect (R15, R299). -/
def State.answerQuery (s : State) (selector object addr len : Nat) : State × Reply :=
  if len = 0 then (s, Reply.field St.lenZero 0x18)
  else match s.queryReply selector object with
    | .inl r => (s, r)
    | .inr (l, t) =>
      if len < l.length then (s, Reply.field St.lenOverBuffer 0x18)
      else ({ t with hostMem := Memory.writeBytes zeroDefault t.hostMem addr l }, { status := St.ok, result := l.length })

/-- QUERY (R299): it runs in diagnostic hold too; one that names a channel waits as its other commands do (R290). -/
def execQuery (h : CmdHdr) (selector : BitVec 4) (object : BitVec 18) (bufAddr : Word64) (bufLen : BitVec 24) (s : State) : Host.Outcome State Fault Refusal :=
  let named := decide (selector = 1) || decide (selector = 3)
  .next (hostCmd (.query h selector object bufAddr bufLen) h false true (named && s.chanWaits h.sq object.toNat)
    (fun _ t => now_ (t.answerQuery selector.toNat object.toNat bufAddr.toNat bufLen.toNat)) s)

/-! ## QUEUE_DESTROY (R296, R310) -/

/-- A channel that is not IDLE takes its events from queue `q`; a live channel uses it as its host bitstream ring. -/
def State.heqInUse (s : State) (q : Nat) : Bool := s.codec.channels.any fun (e : Nat × Channel) => decide (e.2.state ≠ .idle) && decide (e.2.evq = q)
def State.hbrInUse (s : State) (q : Nat) : Bool :=
  s.codec.channels.any fun (e : Nat × Channel) => e.2.state.live && (decide (e.2.cfg.captureQid = q) || decide (e.2.cfg.injectQid = q))

/-- Some submission queue is bound to HCQ `q`. -/
def State.hcqBound (s : State) (q : Nat) : Bool := s.queues.any fun (e : Nat × Queue) => e.2.valid && decide (e.2.ty = .hsq) && decide (s.cqOf e.1 = q)

/-- What a destroy of queue `q` is refused with. -/
def State.destroyRefusal (s : State) (q : Nat) : Option Reply :=
  let u := s.queue q
  if q < 65536 then some (Reply.field St.badState 4)
  else if u.valid = false then some (Reply.field St.noQueue 4)
  else match u.ty with
    | .hcq => if s.hcqBound q then some (Reply.field St.badState 4) else none
    | .hbr => if s.hbrInUse q then some (Reply.field St.badState 4) else none
    | .heq => if s.heqInUse q then some (Reply.field St.badState 4) else none
    | _ => none

/-- An outstanding deferred command ends with its queue (R310): a start of the twin as under a STOP; a channel's start withdraws its ARM; a
load or a yield goes on to its own end. -/
def State.endWithQueue (s : State) (d : Deferred) : State :=
  match d.op with
  | .channelStart c _ => s.withdrawStart c { status := St.aborted }
  | .twinStart => s.stopTwin
  | .twinRejoin =>
    if s.twin.follower then s.stopTwin
    else ({ s with twin := { s.twin with phase := .survivor, rejoin := false } }.leaveTwinTime).endTwinStart St.aborted
  | _ => s

/-- Queue `q` is destroyed. -/
def State.destroyQueue (s : State) (q : Nat) : State :=
  let s := if (s.queue q).ty = .hsq then (s.host.deferred.filter fun d => decide (d.sq = q)).foldl (fun t d => t.endWithQueue d) s else s
  let s := if (s.queue q).ty = .hsr then { s with codec := { s.codec with subs := s.codec.subs.filter fun u => decide (u.qid ≠ q) } } else s
  { s.modQueue q (fun _ => {}) with host := { s.host with fetched := s.host.fetched.filter (fun f => decide (f.sq ≠ q)), held := s.host.held.filter (fun x => decide (x.cq ≠ q)) } }

/-- A load's write step or a yield that came on queue `q` runs to its end first, and its completion is written before the destroy's. -/
def State.queueBusy (s : State) (q : Nat) : Bool :=
  decide (65536 ≤ q) && s.host.deferred.any fun d => decide (d.sq = q) && (match d.op with | .prickingLoad _ => true | .firmwareLoad _ => true | .twinYield => true | _ => false)

/-- The ABORTED completions of a submission queue's deferred commands find no room yet: the destroy waits for them (R302, R310). -/
def State.abortsWait (s : State) (q : Nat) : Bool :=
  decide (65536 ≤ q) && (s.host.deferred.any fun d => decide (d.sq = q)) && s.noRoom (s.cqOf q)

/-- QUEUE_DESTROY (R310). -/
def execQueueDestroy (h : CmdHdr) (qid : BitVec 18) (s : State) : Host.Outcome State Fault Refusal :=
  .next (hostCmd (.queueDestroy h qid) h true false (s.queueBusy qid.toNat || s.abortsWait qid.toNat) (fun _ t => match t.destroyRefusal qid.toNat with
    | some r => (t, some r)
    | none => (t.destroyQueue qid.toNat, some { status := St.ok })) s)

/-! ## RESET (R300) -/

/-- The command RESET is the one that its queue takes now. -/
def State.resetTaken (h : CmdHdr) (level : BitVec 2) (s : State) : Bool := s.canTake (.reset h level) h && !s.noRoom 1 && decide (h.sq = 0) && decide (h.badCopies < 2)

/-- RESET (R300), once its completion can be written: OK is written, then the software full reset source asserts; outstanding deferred commands get no completion. -/
def execReset (h : CmdHdr) (level : BitVec 2) (s : State) : Host.Outcome State Fault Refusal :=
  let ok := decide (level = 1) || decide (level = 2)
  let t := hostCmd (.reset h level) h true true (s.noRoom 1) (fun _ t => (t, some (if ok then { status := St.ok } else Reply.field St.badFormat 8))) s
  .next (if ok && State.resetTaken h level s then t.softReset level.toNat else t)

end Sys2Proof.Machine
end

