-- ==== Sys2Proof/Machine/Loads.lean ====
section
/-!
DEFINITION. Loading the pricking stores and firmware (R246–R252, R297): containers and their checks, PRICKING_LOAD and FIRMWARE_LOAD with
their write steps, and the end of self-test, which loads what the boot flash holds (R519–R522).
-/
namespace Sys2Proof.Machine

/-! ## Containers (R247) -/

/-- The little-endian number of `n` bytes of a byte list from offset `o` on. -/
def leAt (l : List Nat) (o n : Nat) : Nat := (List.range n).foldr (fun i v => l.getD (o + i) 0 + 256 * v) 0

/-- Fields of a container. -/
def conKind (l : List Nat) : Nat := leAt l 5 1
def conBase (l : List Nat) : Nat := leAt l 0x0C 2
def conCount (l : List Nat) : Nat := leAt l 0x0E 2
def conVersion (l : List Nat) : Nat := leAt l 0x10 4
def conHooks (l : List Nat) : Nat := leAt l 0x14 1 % 16
def conBodyLen (l : List Nat) : Nat := leAt l 0x18 4
def conBody (l : List Nat) : List Nat := l.drop 0xC0

/-- The words of a container's body with their addresses: an image's in order from BASE, a patch's as its entries name them (R248). -/
def conWords (l : List Nat) : List (Nat × Nat) :=
  let b := conBody l
  if conKind l = 2 then (List.range (conCount l)).map fun k => (leAt b (32 * k) 2 % 2 ^ 13, leAt b (32 * k + 8) 24)
  else (List.range (conCount l)).map fun k => (conBase l + k, leAt b (24 * k) 24)

/-- A container is for the open region: an open image, or a patch whose first address is open. -/
def conOpen (l : List Nat) : Bool :=
  decide (conKind l = 1) || (decide (conKind l = 2) && (match conWords l with | w :: _ => decide (openBase ≤ w.1) | [] => false))

/-- A word that an open image or patch may hold (R246). -/
def openWordOk (w : Nat) : Bool :=
  let inside (a : Nat) : Bool := decide (openBase ≤ a)
  (decide (mwHop w = 2) || (decide (mwHop w = 0) && inside (mwNext w))) &&
    (decide (mwHop w ≠ 0) || mwWaitc w || decide (mwCond w = 0) || inside (mwAlt w)) && decide (mwCond w < 32)

/-- The part that a container allows (R247). -/
def State.partOk (s : State) (l : List Nat) : Bool := decide (leAt l 8 4 = 0) || decide (leAt l 8 4 = s.devIdent % 65536)

/-- Check 5 of R251: MAGIC, FORMAT, KIND 0–2, PART, and the layouts of R246–R248. The byte offset of the first field that fails. -/
def State.badContainer (s : State) (l : List Nat) : Option Nat :=
  let k := conKind l
  let n := conCount l
  let layout :=
    if k = 0 then decide (conBase l = 0) && decide (n = 6144) && decide (conBodyLen l = 147456)
    else if k = 1 then decide (conBase l = openBase) && decide (1 ≤ n) && decide (n ≤ 2048) && decide (conBodyLen l = 24 * n)
    else decide (conBase l = 0) && decide (1 ≤ n) && decide (n ≤ 256) && decide (conBodyLen l = 32 * n)
  let ws := conWords l
  let one := ws.all fun w => decide (openBase ≤ w.1) = conOpen l
  if leAt l 0 4 ≠ 0x494B5250 then some 0
  else if leAt l 4 1 ≠ 1 ∨ 2 < k then some 4
  else if s.partOk l = false then some 8
  else if layout = false then some 0x0C
  else if one = false ∨ (k = 2 ∧ ¬ (ws.map Prod.fst).Nodup) ∨ (conOpen l && ws.any fun w => !openWordOk w.2) = true then some 0xC0
  else none

/-- The fused key digest of the vendor, or of the customer (R513): words 4–11 and 12–19. -/
def State.keyDigest (s : State) (customer : Bool) : Nat :=
  packFields ((List.range 8).map fun k => (32, SMap.get (fun _ => 0) s.fuse.shadow ((if customer then 12 else 4) + k)))

/-- Check 6: the signature (R249). -/
def State.signatureOk (s : State) (l : List Nat) (customer : Bool) : Bool :=
  if customer && !bitAt s.devCaps 21 then true
  else
    let key := (l.drop 0x20).take 32
    decide (sha256 key = s.keyDigest customer) && ed25519Ok (leAt l 0x20 32) (l.take 0x80 ++ conBody l) (leAt l 0x80 64)

/-! ## Regions and their digests (R250) -/

/-- Digest of the vendor region. -/
def Store.vendorSha (p : Store) : Nat := sha256 ((List.range 6144).flatMap fun a => recBytes (p.word a) 24)

/-- Digest of the open region, with HOOK_MASK. -/
def Store.openSha (p : Store) : Nat := sha256 (((List.range 2048).flatMap fun a => recBytes (p.word (openBase + a)) 24) ++ recBytes p.hookMask 4)

/-- The load that a container asks for. -/
def prkLoadOf (mask : Nat) (l : List Nat) : PrkLoad :=
  { mask := mask, opened := conOpen l, patch := decide (conKind l = 2), words := conWords l, hooks := conHooks l, version := conVersion l }

/-- A store after the write step of a load (R251 step 8): an image replaces its region, a patch the words it names; the digest is
recomputed. An open region without an open image stays empty, its digest 0, whatever a patch writes into it (R250). -/
def Store.write (p : Store) (l : PrkLoad) : Store :=
  let kept := if l.patch then p.words else SMap.keep (fun a => decide (openBase ≤ a) != l.opened) p.words
  let p := { p with words := l.words.foldl (fun (m : SMap Nat) (w : Nat × Nat) => SMap.set storeDefault m w.1 w.2) kept }
  if l.opened then
    let empty := l.patch && decide (p.oState ≠ 1) && decide (p.oState ≠ 2)
    let p := if l.patch then { p with patchesO := min 255 (p.patchesO + 1) } else { p with hookMask := l.hooks, verO := l.version, patchesO := 0 }
    if empty then p else { p with oState := 2, digestO := p.openSha }
  else
    let p := if l.patch then { p with patchesV := min 255 (p.patchesV + 1) } else { p with verV := l.version, patchesV := 0 }
    { p with vState := 2, digestV := p.vendorSha }

/-- Changes the stores of the tambours in a mask. -/
def State.modStores (s : State) (mask : Nat) (f : Store → Store) : State :=
  { s with prk := ((List.range 8).filter (bitAt mask)).foldl (fun m n => SMap.modify (fun _ => {}) m n f) s.prk }

/-- The named tambours all pass `f`. -/
def State.allNamed (_s : State) (mask : Nat) (f : Nat → Bool) : Bool := ((List.range 8).filter (bitAt mask)).all f

/-- A tambour is drained (R251 check 3). -/
def State.tambDrained (s : State) (n : Nat) : Bool :=
  s.codec.channels.all fun (e : Nat × Channel) => decide (e.2.tambour ≠ n) ||
    (!e.2.state.live && decide ((e.2.bandsWhere e.1 fun u => decide (u.state = .ready) || decide (u.state = .named) || decide (u.state = .coding)) = []))

/-- The region digest that a load touches. -/
def Store.regionDigest (p : Store) (opened : Bool) : Nat := if opened then p.digestO else p.digestV

/-- The load leaves the digest of every named tambour as it is (R251 check 4). -/
def State.sameDigest (s : State) (l : PrkLoad) : Bool :=
  s.allNamed l.mask fun n => decide (((s.store n).write l).regionDigest l.opened = (s.store n).regionDigest l.opened)

/-! ## PRICKING_LOAD (R251) -/

/-- The bytes of a container, or why they are refused (R251 step 1). -/
def State.readContainer (s : State) (addr len : Nat) : Reply ⊕ List Nat :=
  if len = 0 then .inl (Reply.field St.lenZero 0x18)
  else if len < 0xC0 then .inl (Reply.field St.badFormat 0x18)
  else match s.hostRead addr len with
    | none => .inl { status := St.dmaError }
    | some v => if leAt (recBytes v 0x1C) 0x18 4 + 0xC0 = len then .inr (recBytes v len) else .inl (Reply.field St.badFormat 0x18)

/-- Checks 2–7 of R251. -/
def State.prkRefusal (s : State) (mask : Nat) (l : List Nat) : Option Reply :=
  let ld := prkLoadOf mask l
  if s.allNamed mask s.tambEnabled = false then some (Reply.field St.noCapacity 8)
  else if s.allNamed mask s.tambDrained = false then some { status := St.badState }
  else if s.twin.phase ≠ .disabled ∧ s.sameDigest ld = false then some { status := St.badState }
  else match s.badContainer l with
    | some o => some (Reply.recField St.badFormat o)
    | none =>
      if s.signatureOk l ld.opened = false then some { status := St.signatureFail }
      else if ld.patch = true ∧ s.allNamed mask (fun n => decide ((s.store n).regionDigest ld.opened = leAt l 0x40 32)) = false then some (Reply.recField St.badFormat 0x40)
      else none

/-- A load's status is shown by the tambours it names (R255). -/
def State.showLoad (s : State) (mask status : Nat) : State := s.modStores mask fun p => { p with lastStatus := status }

/-- PRICKING_LOAD's effect: refused at once, or its write step begins. -/
def State.prickingLoad (s : State) (h : CmdHdr) (idx mask addr len : Nat) : State × Option Reply :=
  let refuse (r : Reply) : State × Option Reply := (s.showLoad mask r.status, some r)
  if mask = 0 then (s, some (Reply.field St.badFormat 8))
  else if 16 ≤ s.host.deferred.length then refuse { status := St.busy }
  else match s.readContainer addr len with
    | .inl r => refuse r
    | .inr l =>
      match s.prkRefusal mask l with
      | some r => refuse r
      | none =>
        let ld := prkLoadOf mask l
        let s := s.modStores mask fun p => if ld.opened then { p with oState := if ld.patch = true ∧ p.oState ≠ 2 then p.oState else 1 } else { p with vState := 1 }
        ({ s with prkLoad := s.prkLoad ++ [ld] }.addDeferred { sq := h.sq, cid := h.cid.toNat, idx := idx, op := .prickingLoad mask, since := s.now }, none)

/-- PRICKING_LOAD (R251, R297); it waits for an outstanding load that names one of its tambours (R290). -/
def execPrickingLoad (h : CmdHdr) (mask : BitVec 8) (addr : Word64) (len : BitVec 24) (s : State) : Host.Outcome State Fault Refusal :=
  .next (hostCmd (.prickingLoad h mask addr len) h true false (s.prkLoad.any fun l => decide (l.mask &&& mask.toNat ≠ 0)) (fun idx t => t.prickingLoad h idx mask.toNat addr.toNat len.toNat) s)

/-- PRICKING_LOAD_WRITE_END (R251 step 8), of the oldest load under way: the words are written, the digests recomputed, and the command completes. -/
def execPrickingLoadWriteEnd (s : State) : Host.Outcome State Fault Refusal :=
  match s.prkLoad with
  | [] => .next s
  | l :: rest =>
    let t := ({ s with prkLoad := rest }.modStores l.mask fun p => p.write l).showLoad l.mask St.ok
    .next (match t.findDeferred fun o => decide (o = .prickingLoad l.mask) with
      | some d => t.endDeferred d { status := St.ok }
      | none => t)

/-! ## FIRMWARE_LOAD (R297) -/

/-- The firmware state after a load. -/
def FwSt.loaded (f : FwSt) (customer : Bool) (body : List Nat) (version : Nat) : FwSt :=
  if customer then { f with ctrlSha := sha256 body, ctrlVer := version, ctrlLoaded := true } else { f with vendorSha := sha256 body, vendorVer := version }

/-- The layout of a firmware container: the byte offset of the first field that fails. -/
def State.badFirmware (s : State) (customer : Bool) (l : List Nat) : Option Nat :=
  if leAt l 0 4 ≠ 0x494B5250 then some 0
  else if leAt l 4 1 ≠ 1 ∨ conKind l ≠ 3 then some 4
  else if s.partOk l = false then some 8
  else if conBase l ≠ 0 ∨ conCount l ≠ 0 then some 0x0C
  else if conBodyLen l % 8 ≠ 0 ∨ (if customer then 0x200000 else 0x400000) < conBodyLen l then some 0x18
  else none

/-- The checks of a firmware load after step 1 of R251. -/
def State.fwRefusal (s : State) (customer : Bool) (l : List Nat) : Option Reply :=
  let live := s.codec.channels.any fun (e : Nat × Channel) => e.2.state.live && (!customer || decide (e.2.cfg.rcSource = 1))
  let after := { s with fw := s.fw.loaded customer (conBody l) (conVersion l) }
  if live then some { status := St.badState }
  else if s.twin.phase ≠ .disabled ∧ after.fwDigest ≠ s.fwDigest then some { status := St.badState }
  else match s.badFirmware customer l with
    | some o => some (Reply.recField St.badFormat o)
    | none => if s.signatureOk l customer then none else some { status := St.signatureFail }

/-- FIRMWARE_LOAD's effect. -/
def State.firmwareLoad (s : State) (h : CmdHdr) (idx : Nat) (customer : Bool) (addr len : Nat) : State × Option Reply :=
  if 16 ≤ s.host.deferred.length then (s, some { status := St.busy })
  else match s.readContainer addr len with
    | .inl r => (s, some r)
    | .inr l =>
      match s.fwRefusal customer l with
      | some r => (s, some r)
      | none =>
        ({ s with fw := { s.fw with load := s.fw.load ++ [(customer, conBody l, conVersion l)] } }.addDeferred
          { sq := h.sq, cid := h.cid.toNat, idx := idx, op := .firmwareLoad customer, since := s.now }, none)

/-- FIRMWARE_LOAD (R297); it waits for an outstanding load of its TARGET. -/
def execFirmwareLoad (h : CmdHdr) (customer : Bool) (addr : Word64) (len : BitVec 24) (s : State) : Host.Outcome State Fault Refusal :=
  .next (hostCmd (.firmwareLoad h customer addr len) h true false (s.fw.load.any fun l => decide (l.1 = customer)) (fun idx t => t.firmwareLoad h idx customer addr.toNat len.toNat) s)

/-- An image enters the shared window, and the cores it runs on restart: CORE0–CORE3 for the vendor's, CORE3 for a controller. -/
def State.placeFirmware (s : State) (customer : Bool) (body : List Nat) (version : Nat) : State :=
  let s := { s with shw := Memory.writeBytes zeroDefault s.shw (if customer then 0x600000 else 0) (body.map (BitVec.ofNat 8)) }
  { s with fw := { (s.fw.loaded customer body version) with
                   restarts := (if customer then [3] else [0, 1, 2, 3]).foldl (fun m c => SMap.modify (fun _ => 0) m c (· + 1)) s.fw.restarts } }

/-- Firmware restarts (R415): in HOLDOVER when it was LOCKED or FOLLOWING; the TIME_CONTROL settings stay. -/
def TimeSt.fwRestart (t : TimeSt) (now : Nat) : TimeSt :=
  { t with servo := (if t.servo = .locked ∨ t.servo = .following then .holdover else t.servo), holdFrom := now, slavePort := none, parent := 0, lockRun := 0,
           unlockRun := 0 }

/-- FIRMWARE_LOAD_END (R297, R415): the image is in place, the cores restart, and the command completes. -/
def execFirmwareLoadEnd (s : State) : Host.Outcome State Fault Refusal :=
  match s.fw.load with
  | [] => .next s
  | (customer, body, version) :: rest =>
    let t := { s with fw := { s.fw with load := rest } }.placeFirmware customer body version
    let t := if customer then t else { t with time := t.time.fwRestart t.now }
    .next (match t.findDeferred fun o => decide (o = .firmwareLoad customer) with
      | some d => t.endDeferred d { status := St.ok }
      | none => t)

/-! ## The end of self-test (R519–R522) -/

/-- A container of the boot flash may be loaded (R249, R252, R519): its form, its digest and its signature are good. -/
def State.flashFine (s : State) (e : FlashEntry) : Bool :=
  let l := e.container
  let whole := decide (l.length = 0xC0 + conBodyLen l)
  let t := e.target.toNat
  if t ≤ 2 then
    let mask := ((List.range 8).filter fun n => bitAt e.mask.toNat n && s.tambEnabled n).foldl (fun m n => m + 2 ^ n) 0
    let ld := prkLoadOf mask l
    let digests := !ld.patch || s.allNamed mask fun n => decide ((s.store n).regionDigest ld.opened = leAt l 0x40 32)
    whole && decide (conKind l = t) && (s.badContainer l).isNone && s.signatureOk l ld.opened && digests
  else
    let customer := decide (t = 4)
    whole && decide (t ≤ 4) && (s.badFirmware customer l).isNone && s.signatureOk l customer

/-- A container of the boot flash is applied (R252, R519 step 6, R520): a failed image leaves its region failed, a failed open image
leaves it empty besides; a failed patch or controller is not loaded. -/
def State.flashEntry (s : State) (e : FlashEntry) : State :=
  let l := e.container
  let mask := ((List.range 8).filter fun n => bitAt e.mask.toNat n && s.tambEnabled n).foldl (fun m n => m + 2 ^ n) 0
  let t := e.target.toNat
  if t ≤ 2 then
    if s.flashFine e then s.modStores mask fun p => p.write (prkLoadOf mask l)
    else if t = 0 then s.modStores mask fun p => { p with vState := 3, digestV := 0 }
    else if t = 1 then
      s.modStores mask fun p => { p with oState := 3, digestO := 0, hookMask := 0, verO := 0, words := SMap.keep (fun a => decide (a < openBase)) p.words }
    else s
  else if s.flashFine e then s.placeFirmware (decide (t = 4)) (conBody l) (conVersion l) else s

/-- The entries of the boot flash are applied in order (R520), and whether step 6 passes: a vendor image or a vendor firmware image that
fails its checks fails the step (R519). -/
def State.flashRun (s : State) (l : List FlashEntry) : State × Bool :=
  l.foldl (fun a e => (a.1.flashEntry e, a.2 && (a.1.flashFine e || !decide (e.target = 0 ∨ e.target = 3)))) (s, true)

/-- SELF_TEST_END (R508, R519, R521, R522): the record is written; every step passed, the device becomes READY; otherwise the first
failing step is raised and the device enters diagnostic hold. -/
def State.selfTestEnds (s : State) (r : SelfTestResult) : State :=
  if s.rst.state ≠ .selfTest then s
  else
    let run := if r.failStep.isNone || decide (6 ≤ r.failStep.getD 0) then s.flashRun r.flash else (s, true)
    let failStep := if run.2 then r.failStep else some 6
    let rec_ := selfTestRecord { r with failStep := failStep } s.rst.level (s.field Reg.rstSelftestCfg 0 1) s.fuse.single 0xFF
    let s := { run.1 with rst := { run.1.rst with selfTest := rec_ } }
    match failStep with
    | none => s.becomeReady r.lanesRepaired.toNat
    | some k =>
      let s := { s with rst := { s.rst with state := .diagHold }, host := { s.host with ready := true } }
      match r.hbmTrainFail with
      | some c => if k = 4 then s.raise Src.hbm Kind.hbmTrainFail 0 c else s.raise Src.reset Kind.selftestFail 0 k
      | none => s.raise Src.reset Kind.selftestFail 0 k

/-- SELF_TEST_END. -/
def execSelfTestEnd (r : SelfTestResult) (s : State) : Host.Outcome State Fault Refusal := .next (s.selfTestEnds r)

end Sys2Proof.Machine
end

