-- ==== Sys2Proof/Machine/Pumps.lean ====
section
/-!
DEFINITION. The pumps (R331–R341): descriptors, hulls and checks, moves, event pulses and their listeners.
-/
namespace Sys2Proof.Machine

/-! ## Descriptors (R332, R333) -/

/-- A descriptor from its 64 bytes. -/
def pumpDescOf (v : Nat) : PumpDesc :=
  let f (o lo w : Nat) : Nat := bitsAt v (8 * o + lo) w
  { srcAddr := f 0 0 48, srcSpace := f 0 48 4, dstAddr := f 8 0 48, dstSpace := f 8 48 4, elem := f 0x10 0 8, evtLine := f 0x10 8 8,
    staged := bitAt v (8 * 0x10 + 16), noSnoop := bitAt v (8 * 0x10 + 17), relaxed := bitAt v (8 * 0x10 + 18), count0 := f 0x14 0 16, count1 := f 0x14 16 16,
    count2 := f 0x18 0 16, owner := f 0x18 16 6, srcStep0 := toSigned 32 (f 0x1C 0 32), dstStep0 := toSigned 32 (f 0x20 0 32),
    srcStep1 := toSigned 32 (f 0x24 0 32), dstStep1 := toSigned 32 (f 0x28 0 32), srcStep2 := toSigned 32 (f 0x2C 0 32), dstStep2 := toSigned 32 (f 0x30 0 32),
    tag := f 0x34 0 32 }

/-- The addresses of the elements in order, source and destination (R333). -/
def PumpDesc.elements (d : PumpDesc) : List (Nat × Nat) :=
  (List.range (d.count2 + 1)).flatMap fun k => (List.range (d.count1 + 1)).flatMap fun j => (List.range (d.count0 + 1)).map fun i =>
    (((d.srcAddr : Int) + i * d.srcStep0 + j * d.srcStep1 + k * d.srcStep2).toNat, ((d.dstAddr : Int) + i * d.dstStep0 + j * d.dstStep1 + k * d.dstStep2).toNat)

/-- Bytes that a descriptor moves. -/
def PumpDesc.bytes (d : PumpDesc) : Nat := (d.elem + 1) * (d.count0 + 1) * (d.count1 + 1) * (d.count2 + 1)

/-- The hull of a side (R335): its lowest and highest byte. -/
def hull (addr elem : Nat) (loops : List (Nat × Int)) : Int × Int :=
  ((addr : Int) + (loops.map fun l => min 0 ((l.1 : Int) * l.2)).sum, (addr : Int) + (loops.map fun l => max 0 ((l.1 : Int) * l.2)).sum + elem)
def PumpDesc.srcHull (d : PumpDesc) : Int × Int := hull d.srcAddr d.elem [(d.count0, d.srcStep0), (d.count1, d.srcStep1), (d.count2, d.srcStep2)]
def PumpDesc.dstHull (d : PumpDesc) : Int × Int := hull d.dstAddr d.elem [(d.count0, d.dstStep0), (d.count1, d.dstStep1), (d.count2, d.dstStep2)]

/-- The bytes of a space (R334): SRAM, HBM, host, context store. -/
def spaceSize (sp : Nat) : Nat := match sp with | 0 => 0x6000000 | 1 => 0x400000000 | 2 => 2 ^ 48 | _ => 0x800000

/-- A hull lies in a space. -/
def hullFits (h : Int × Int) (sp : Nat) : Bool := decide (0 ≤ h.1) && decide (h.2 < (spaceSize sp : Nat))

/-- Two ranges of bytes meet. -/
def hullsMeet (a b : Int × Int) : Bool := decide (a.1 ≤ b.2) && decide (b.1 ≤ a.2)

/-- What the checks of R336 answer. -/
inductive PumpVerdict where
  | reject (status : Nat)
  | noOp
  | move (staged : Bool)
deriving DecidableEq, Repr

/-- The checks of R336, in order, for pump `n`. -/
def PumpDesc.check (d : PumpDesc) (n : Nat) : PumpVerdict :=
  let bad (sp : Nat) : Bool := decide (3 < sp) || (decide (sp = 3) && decide (n < 8))
  if bad d.srcSpace || bad d.dstSpace then .reject St.badFormat
  else if !hullFits d.srcHull d.srcSpace || !hullFits d.dstHull d.dstSpace then .reject St.badFormat
  else if d.dstSpace = 1 ∧ hullsMeet d.dstHull (0x1F0000000, 0x1FFFFFFFF) = true then .reject St.badFormat
  else if d.srcSpace = d.dstSpace ∧ d.srcAddr = d.dstAddr ∧ d.srcStep0 = d.dstStep0 ∧ d.srcStep1 = d.dstStep1 ∧ d.srcStep2 = d.dstStep2 then .noOp
  else if d.srcSpace ≠ d.dstSpace ∨ hullsMeet d.srcHull d.dstHull = false then .move false
  else if d.staged = false ∨ 2 ^ 20 < d.bytes then .reject St.overlapRejected
  else .move true

/-! ## Bytes of the spaces -/

/-- The memory of a space, and what its unlisted bytes read as. -/
def State.memOf (s : State) (sp : Nat) : List Host.Cell := match sp with | 0 => s.sram | 1 => s.hbmMem | 2 => s.hostMem | _ => s.ctx
def spaceDefault (sp : Nat) : Nat → Byte := match sp with | 0 => sramDefault | 1 => hbmDefault | _ => zeroDefault

/-- Reads and writes a run of bytes. -/
def State.bytesFrom (s : State) (sp a n : Nat) : List Byte := (List.range n).map fun k => Memory.read (spaceDefault sp) (s.memOf sp) (a + k)
def State.bytesTo (s : State) (sp a : Nat) (l : List Byte) : State :=
  match sp with
  | 0 => { s with sram := Memory.writeBytes sramDefault s.sram a l }
  | 1 => { s with hbmMem := Memory.writeBytes hbmDefault s.hbmMem a l }
  | 2 => { s with hostMem := Memory.writeBytes zeroDefault s.hostMem a l }
  | _ => { s with ctx := Memory.writeBytes zeroDefault s.ctx a l }

/-- The staging area of pump `n` (R336). -/
def stagingBase (n : Nat) : Nat := 0x1F0080000 + 0x100000 * n

/-- Moves the first `count` elements of a descriptor: directly, or by the pump's staging area, every read before any write. -/
def State.moveElements (s : State) (n : Nat) (d : PumpDesc) (staging : Bool) (count : Nat) : State :=
  let l := d.elements
  if staging then
    let data := l.map fun e => s.bytesFrom d.srcSpace e.1 (d.elem + 1)
    let s := s.bytesTo 1 (stagingBase n) data.flatten
    ((l.zip data).take count).foldl (fun t e => t.bytesTo d.dstSpace e.1.2 e.2) s
  else (l.take count).foldl (fun t e => t.bytesTo d.dstSpace e.2 (t.bytesFrom d.srcSpace e.1 (d.elem + 1))) s

/-! ## The end of a descriptor (R339) -/

/-- The bands of the channels of tambour `t` that await a mirrored slice. -/
def State.mirrorsOf (s : State) (t : Nat) : List BandId :=
  s.codec.channels.flatMap fun (e : Nat × Channel) => if e.2.tambour = t then e.2.bandsWhere e.1 (fun u => u.mirror.isSome) else []

/-- A preload or writeback of tambour `t` has failed (R339, R340): CTX_FAIL for the bank's channel. -/
def State.contextError (s : State) (t : Nat) : State :=
  match (s.tamb t).moving with
  | some i => s.raise (Src.tambour + t) Kind.ctxFail (addrC i.ch) t
  | none => s

/-- The first channel of tambour `t` whose capture ring has a device-owned entry at its head: the channel, the ring and the entry. -/
def State.captureHead (s : State) (t : Nat) : Option (Nat × Nat × Nat) :=
  s.codec.channels.findSome? fun (e : Nat × Channel) =>
    let q := e.2.cfg.captureQid
    if e.2.tambour = t ∧ q ≠ 0 ∧ (s.queue q).valid = true then (s.ownedEntry q).map fun v => (e.1, q, v) else none

/-- The flows of port `p` whose queue holds the frame in cell `k`. -/
def State.flowsWith (s : State) (p k : Nat) : List Nat :=
  ((s.net.eflows.filter fun (e : Nat × EFlow) => e.2.bound && decide (e.2.port = p)).map Prod.fst).filter fun f => s.flowHolds k f

/-- A frame that a pump was to place is dropped and its cells are freed under OWNER (R339). -/
def State.dropPlaced (s : State) (p k owner : Nat) : State :=
  match s.flowsWith p k with
  | [] => s.freeBuffer .cell (0x800 * k) owner
  | f :: rest =>
    let n := match (s.efqEntries f).find? (ofPackets [k]) with | some v => bitsAt v 14 3 | none => 1
    ((f :: rest).foldl (fun t g => t.voidPackets [k] g) s).freeCells (s.chainCells n k).1 owner

/-- A pulse with ERR = 0 at its listener (R339): a preload or writeback of a context bank is done; a mirrored slice may drain; a frame placed by a
pump is eligible. The entry of a capture has been returned with its copy already (R121). -/
def State.pulseDone (s : State) (line : Nat) (d : PumpDesc) : State :=
  if 32 ≤ line ∧ line < 40 then (if (s.tamb (line - 32)).loads ≠ [] then s.preloadDone (line - 32) else s.writebackDone (line - 32))
  else if 40 ≤ line ∧ line < 48 then s.pumpMirrors 2 (line - 40)
  else if 56 ≤ line ∧ line < 64 ∧ d.dstSpace = 0 then
    let k := d.dstAddr / 0x800
    (s.flowsWith (line - 56) k).foldl (fun t f => t.clearHold [{ cell := k, cells := 1, len := 0, marker := false }] f) s
  else s

/-- A pulse with ERR = 1 at its listener (R339): a context bank's channel has CTX_FAIL, which stops it; a mirrored slice is left unsent; the entry of a
capture copy is returned with DMA_ERROR, its other fields 0 (DESIGN CHOICE, log 142); a frame placed by a pump is dropped. -/
def State.pulseError (s : State) (line : Nat) (d : PumpDesc) : State :=
  if 32 ≤ line ∧ line < 40 then s.contextError (line - 32)
  else if 48 ≤ line ∧ line < 56 then
    match s.captureHead (line - 48) with
    | some e => s.returnEntry e.2.1 (captureEntry e.2.2 { pic := 0, band := 0, ch := e.1, idr := false, ts := 0, seq := 0, packets := 0, releaseNs := 0 } 0 St.dmaError
        false false false false false 0)
    | none => s
  else if 40 ≤ line ∧ line < 48 then
    match s.mirrorsOf (line - 40) with
    | i :: _ => s.mirrorFail i (match (s.band i).mirror with | some g => g.len | none => 0)
    | [] => s
  else if 56 ≤ line ∧ line < 64 ∧ d.dstSpace = 0 then s.dropPlaced (line - 56) (d.dstAddr / 0x800) d.owner
  else s

/-- A descriptor ends: HEAD advances, the status stands, and its line pulses with TAG. -/
def State.endDescriptor (s : State) (n : Nat) (d : PumpDesc) (status : Nat) : State :=
  let err := decide (status ≠ St.ok)
  let s := (s.popEntry (16 + n)).modPump n fun p =>
    { p with running := none, staging := false, lastStatus := status, done := (if err then p.done else (p.done + 1) % 2 ^ 32) }
  let s := if err then s.count (Reg.pmpRejects + 0x10 * n) 32 1 else s
  let s := { s with pulses := { line := d.evtLine, tag := d.tag, err := err } :: s.pulses }
  if err then s.pulseError d.evtLine d else s.pulseDone d.evtLine d

/-- Firmware has written a descriptor into its slot and advanced the producer index (R331); it feeds PU0-PU7 alone (R46). -/
def State.putDescriptor (s : State) (n : Nat) (put : Option Nat) : State :=
  match put with
  | some v => if n < 8 ∧ (s.queue (16 + n)).valid ∧ (s.queue (16 + n)).full = false then s.putEntry (16 + n) v else s
  | none => s

/-- PUMP_DESCRIPTOR_START (R331, R336): an idle pump takes its next descriptor and checks it. A gated pump leaves it in its queue until it
wakes (R26). PU8-PU15 take none of firmware: they serve the band schedulers alone (R46). The read phase of a staged one lasts as long as R338 allows
(DESIGN CHOICE, log 142). -/
def State.startDescriptor (s : State) (n : Nat) : State :=
  let q := s.queue (16 + n)
  if 8 ≤ n ∨ s.pwr.awake.contains (.pump n) = false ∨ (s.pump n).running.isSome ∨ q.valid = false ∨ q.isEmpty = true then s
  else
    let d := pumpDescOf (s.headEntry (16 + n))
    match d.check n with
    | .reject st => (s.endDescriptor n d st).raise (Src.pump + n) Kind.pumpReject (q.slot q.head) st
    | .noOp => s.endDescriptor n d St.ok
    | .move staging => s.modPump n fun p =>
        { p with running := some d, staging := staging, readTill := if staging then s.now + d.elements.length * ((d.elem + 64) / 64 + 1) else p.readTill }

/-- PUMP_DESCRIPTOR_START. -/
def execPumpDescriptorStart (n : Nat) (put : Option Nat) (s : State) : Host.Outcome State Fault Refusal :=
  if n < 16 then .next ((s.putDescriptor n put).startDescriptor n) else .fault .noSuchUnit

/-- The attributes of a descriptor's accesses to host memory (R337): Relaxed Ordering only where Device Control enables it. -/
def State.noteAttrs (s : State) (d : PumpDesc) : State :=
  let relaxed := d.relaxed && decide (s.pciItem 0x200018 = 1)
  let l : List HostAttr := (if d.dstSpace = 2 then [{ write := true, addr := d.dstAddr, noSnoop := d.noSnoop, relaxed := relaxed }] else []) ++
    (if d.srcSpace = 2 then [{ write := false, addr := d.srcAddr, noSnoop := d.noSnoop, relaxed := false }] else [])
  if l = [] then s else { s with host := { s.host with attrs := l ++ s.host.attrs } }

/-- The first element of a descriptor whose host read completes with an error. -/
def State.badElement (s : State) (d : PumpDesc) : Option (Nat × Nat) :=
  if d.srcSpace ≠ 2 ∨ s.hostBad = [] then none
  else ((List.range d.elements.length).zip d.elements).findSome? fun e => if (s.hostRead e.2.1 (d.elem + 1)).isNone then some (e.1, e.2.1) else none

/-- DETAIL of ECC_UNCORR for a read of a descriptor (R485): the severity of R438 where HBM was read, the staging area among it; 0 for SRAM. -/
def PumpDesc.eccDetail (d : PumpDesc) (staging : Bool) (written : Nat) : Nat := if d.srcSpace = 1 ∨ (staging = true ∧ written ≠ 0) then 3 else 0

/-- A read of a running descriptor fails after `written` elements (R340); ECC_UNCORR or HOST_DMA_ERR with the failing address. A staged one whose read
phase fails has written nothing. -/
def State.failDescriptor (s : State) (n : Nat) (d : PumpDesc) (written : Nat) (host : Bool) (addr : Nat) : State :=
  let t := s.noteAttrs d
  let t := if written = 0 then t else t.moveElements n d (s.pump n).staging written
  (t.endDescriptor n d St.dmaError).raise (Src.pump + n) (if host then Kind.hostDmaErr else Kind.eccUncorr) addr
    (if host then 0 else d.eccDetail (s.pump n).staging written)

/-- PUMP_DONE (R333, R336, R339): every element has been moved; a host read that completes with an error ends the descriptor at its element (R340). -/
def execPumpDone (n : Nat) (s : State) : Host.Outcome State Fault Refusal :=
  if n < 16 then
    match (s.pump n).running with
    | some d => match s.badElement d with
      | some e => .next (s.failDescriptor n d (if (s.pump n).staging then 0 else e.1) true e.2)
      | none => .next (((s.noteAttrs d).moveElements n d (s.pump n).staging d.elements.length).endDescriptor n d St.ok)
    | none => .next s
  else .fault .noSuchUnit

/-- PUMP_ERROR (R340): a read of the running descriptor fails after `written` elements. On a context pump the preload or writeback of its tambour fails,
which counts as a descriptor that has ended in error (R350). -/
def execPumpError (n : Nat) (written : Nat) (host : Bool) (addr : Nat) (s : State) : Host.Outcome State Fault Refusal :=
  if n < 16 then
    match (s.pump n).running with
    | some d => .next (s.failDescriptor n d written host addr)
    | none =>
      if 8 ≤ n ∧ (s.tamb (n - 8)).moving.isSome then
        .next ((((s.contextEnd (n - 8) St.dmaError).count (Reg.pmpRejects + 0x10 * n) 32 1).raise (Src.pump + n) (if host then Kind.hostDmaErr else Kind.eccUncorr) addr 0).contextError (n - 8))
      else .next s
  else .fault .noSuchUnit

end Sys2Proof.Machine
end

