-- ==== Sys2Proof/Machine/Dispatch.lean ====
section
/-!
DEFINITION. The dispatch of a command to its meaning: one arm per constructor of the command type, each one call.
-/
namespace Sys2Proof.Machine

/-- The effect of a command on everything but the queue of waiting commands. -/
def exec (i : Instr) (s : State) : Host.Outcome State Fault Refusal :=
  match i with
  | .nop h => Sys2Proof.Machine.execNop h s
  | .channelCreate h channel decode ccrAddr evq => Sys2Proof.Machine.execChannelCreate h channel decode ccrAddr evq s
  | .channelConfigure h channel ccrAddr => Sys2Proof.Machine.execChannelConfigure h channel ccrAddr s
  | .channelStart h channel join sec ns => Sys2Proof.Machine.execChannelStart h channel join sec ns s
  | .channelStop h channel sec ns => Sys2Proof.Machine.execChannelStop h channel sec ns s
  | .channelDestroy h channel => Sys2Proof.Machine.execChannelDestroy h channel s
  | .forceIntra h channel => Sys2Proof.Machine.execForceIntra h channel s
  | .picturePlan h channel planAddr => Sys2Proof.Machine.execPicturePlan h channel planAddr s
  | .queueCreate h q => Sys2Proof.Machine.execQueueCreate h q s
  | .queueDestroy h qid => Sys2Proof.Machine.execQueueDestroy h qid s
  | .flowBind h channel flow egress solo port recAddr recLen => Sys2Proof.Machine.execFlowBind h channel flow egress solo port recAddr recLen s
  | .unbind h flow egress => Sys2Proof.Machine.execUnbind h flow egress s
  | .gateListLoad h port count listAddr baseSec baseNs cycleNs => Sys2Proof.Machine.execGateListLoad h port count listAddr baseSec baseNs cycleNs s
  | .shaperSet h flow k rate burst => Sys2Proof.Machine.execShaperSet h flow k rate burst s
  | .statsSubscribe h qid kind source classes intervalMs coalesceUs => Sys2Proof.Machine.execStatsSubscribe h qid kind source classes intervalMs coalesceUs s
  | .statsUnsubscribe h qid kind source => Sys2Proof.Machine.execStatsUnsubscribe h qid kind source s
  | .prickingLoad h mask addr len => Sys2Proof.Machine.execPrickingLoad h mask addr len s
  | .firmwareLoad h customer addr len => Sys2Proof.Machine.execFirmwareLoad h customer addr len s
  | .twinStart h => Sys2Proof.Machine.execTwinStart h s
  | .twinStop h => Sys2Proof.Machine.execTwinStop h s
  | .yield h => Sys2Proof.Machine.execYield h s
  | .rejoin h => Sys2Proof.Machine.execRejoin h s
  | .resetPeer h => Sys2Proof.Machine.execResetPeer h s
  | .timeControlClock h p => Sys2Proof.Machine.execTimeControlClock h p s
  | .timeControlPort h p => Sys2Proof.Machine.execTimeControlPort h p s
  | .timeControlReference h p => Sys2Proof.Machine.execTimeControlReference h p s
  | .setTime h relative force sec ns => Sys2Proof.Machine.execSetTime h relative force sec ns s
  | .timecode h p => Sys2Proof.Machine.execTimecode h p s
  | .query h selector object bufAddr bufLen => Sys2Proof.Machine.execQuery h selector object bufAddr bufLen s
  | .reset h level => Sys2Proof.Machine.execReset h level s
  | .mailboxPlan channel slot customer put => Sys2Proof.Machine.execMailboxPlan channel slot customer put s
  | .rcPlan channel => Sys2Proof.Machine.execRcPlan channel s
  | .hostEnable epoch => Sys2Proof.Machine.execHostEnable epoch s
  | .devReset level key => Sys2Proof.Machine.execDevReset level key s
  | .windlassPass stores bad => Sys2Proof.Machine.execWindlassPass stores bad s
  | .windlassHalt atomic => Sys2Proof.Machine.execWindlassHalt atomic s
  | .heldCompletionWrite cq => Sys2Proof.Machine.execHeldCompletionWrite cq s
  | .msixMessage q => Sys2Proof.Machine.execMsixMessage q s
  | .msixUnmask v => Sys2Proof.Machine.execMsixUnmask v s
  | .barMisaligned addr => Sys2Proof.Machine.execBarMisaligned addr s
  | .registerWrite who addr v => Sys2Proof.Machine.execRegisterWrite who addr v s
  | .rcRead who addr => Sys2Proof.Machine.execRcRead who addr s
  | .chRunning channel => Sys2Proof.Machine.execChRunning channel s
  | .stopTimeReached channel => Sys2Proof.Machine.execStopTimeReached channel s
  | .bandWindowOpen channel pic band => Sys2Proof.Machine.execBandWindowOpen channel pic band s
  | .bandInputDeadline channel pic band => Sys2Proof.Machine.execBandInputDeadline channel pic band s
  | .inputComplexity channel pic band => Sys2Proof.Machine.execInputComplexity channel pic band s
  | .contextPreloadDone e => Sys2Proof.Machine.execContextPreloadDone e s
  | .bankWritebackDone tambour => Sys2Proof.Machine.execBankWritebackDone tambour s
  | .switchComplete tambour => Sys2Proof.Machine.execSwitchComplete tambour s
  | .microwordExecute tambour view => Sys2Proof.Machine.execMicrowordExecute tambour view s
  | .blockSlot tambour work => Sys2Proof.Machine.execBlockSlot tambour work s
  | .hookOverrun tambour => Sys2Proof.Machine.execHookOverrun tambour s
  | .bandAbandon channel pic band => Sys2Proof.Machine.execBandAbandon channel pic band s
  | .repairPassEnd tambour => Sys2Proof.Machine.execRepairPassEnd tambour s
  | .packetizerDrain tambour corrected uncorrectable => Sys2Proof.Machine.execPacketizerDrain tambour corrected uncorrectable s
  | .bandRelease channel pic band => Sys2Proof.Machine.execBandRelease channel pic band s
  | .statsBandRecord channel pic band => Sys2Proof.Machine.execStatsBandRecord channel pic band s
  | .pictureTime channel pic => Sys2Proof.Machine.execPictureTime channel pic s
  | .wakeStart hoop => Sys2Proof.Machine.execWakeStart hoop s
  | .slewGrant => Sys2Proof.Machine.execSlewGrant s
  | .hoopClockGood hoop => Sys2Proof.Machine.execHoopClockGood hoop s
  | .wellAllocate w reqs free => Sys2Proof.Machine.execWellAllocate w reqs free s
  | .wellFree w addr owner => Sys2Proof.Machine.execWellFree w addr owner s
  | .cellRebuildEnd => Sys2Proof.Machine.execCellRebuildEnd s
  | .pageCacheRefill => Sys2Proof.Machine.execPageCacheRefill s
  | .pageCacheSpill => Sys2Proof.Machine.execPageCacheSpill s
  | .pageRebuildEnd => Sys2Proof.Machine.execPageRebuildEnd s
  | .welQuotaWrite reg owner v => Sys2Proof.Machine.execWelQuotaWrite reg owner v s
  | .pageUnitsWrite units => Sys2Proof.Machine.execPageUnitsWrite units s
  | .pumpDescriptorStart n put => Sys2Proof.Machine.execPumpDescriptorStart n put s
  | .pumpDone n => Sys2Proof.Machine.execPumpDone n s
  | .pumpError n written host addr => Sys2Proof.Machine.execPumpError n written host addr s
  | .frameReceive port f => Sys2Proof.Machine.execFrameReceive port f s
  | .ingressWrite flow cell => Sys2Proof.Machine.execIngressWrite flow cell s
  | .depacketize flow note => Sys2Proof.Machine.execDepacketize flow note s
  | .sequenceLost channel seq => Sys2Proof.Machine.execSequenceLost channel seq s
  | .injectEntry channel note => Sys2Proof.Machine.execInjectEntry channel note s
  | .outputSlot channel => Sys2Proof.Machine.execOutputSlot channel s
  | .egressBandStart channel => Sys2Proof.Machine.execEgressBandStart channel s
  | .gatePick port => Sys2Proof.Machine.execGatePick port s
  | .gateEntryEnd port => Sys2Proof.Machine.execGateEntryEnd port s
  | .gateSwitch port => Sys2Proof.Machine.execGateSwitch port s
  | .shaperRefill flow => Sys2Proof.Machine.execShaperRefill flow s
  | .membershipReport flow => Sys2Proof.Machine.execMembershipReport flow s
  | .netPortEnable port on => Sys2Proof.Machine.execNetPortEnable port on s
  | .linkUp port => Sys2Proof.Machine.execLinkUp port s
  | .linkDown port => Sys2Proof.Machine.execLinkDown port s
  | .aoTick => Sys2Proof.Machine.execAoTick s
  | .timeIncAdjWrite who v => Sys2Proof.Machine.execTimeIncAdjWrite who v s
  | .timeStepWrite who hi => Sys2Proof.Machine.execTimeStepWrite who hi s
  | .timeLatch => Sys2Proof.Machine.execTimeLatch s
  | .ptpMessageReceive port d => Sys2Proof.Machine.execPtpMessageReceive port d s
  | .ptpMessageSend port kind => Sys2Proof.Machine.execPtpMessageSend port kind s
  | .announceReceiptTimeout => Sys2Proof.Machine.execAnnounceReceiptTimeout s
  | .servoSample offset ask => Sys2Proof.Machine.execServoSample offset ask s
  | .holdoverExpire => Sys2Proof.Machine.execHoldoverExpire s
  | .ppsInEdge falling ts => Sys2Proof.Machine.execPpsInEdge falling ts s
  | .refLost ref10m => Sys2Proof.Machine.execRefLost ref10m s
  | .tlvTimeout => Sys2Proof.Machine.execTlvTimeout s
  | .timeOscCode who code => Sys2Proof.Machine.execTimeOscCode who code s
  | .oscSpiFrameEnd => Sys2Proof.Machine.execOscSpiFrameEnd s
  | .timeToutEnWrite en => Sys2Proof.Machine.execTimeToutEnWrite en s
  | .timingOutputEdge n => Sys2Proof.Machine.execTimingOutputEdge n s
  | .statsIntervalEnd kind source => Sys2Proof.Machine.execStatsIntervalEnd kind source s
  | .twilanLinkUp => Sys2Proof.Machine.execTwilanLinkUp s
  | .twilanFrameReceive f => Sys2Proof.Machine.execTwilanFrameReceive f s
  | .twilanLinkFrame => Sys2Proof.Machine.execTwilanLinkFrame s
  | .twilanRetransmit fseq => Sys2Proof.Machine.execTwilanRetransmit fseq s
  | .hello => Sys2Proof.Machine.execHello s
  | .check => Sys2Proof.Machine.execCheck s
  | .timeExchange => Sys2Proof.Machine.execTimeExchange s
  | .time => Sys2Proof.Machine.execTime s
  | .startTimeout => Sys2Proof.Machine.execStartTimeout s
  | .arm => Sys2Proof.Machine.execArm s
  | .ledgerPoint channel pic => Sys2Proof.Machine.execLedgerPoint channel pic s
  | .ledger => Sys2Proof.Machine.execLedger s
  | .tokenDue channel pic => Sys2Proof.Machine.execTokenDue channel pic s
  | .reconcileRequest => Sys2Proof.Machine.execReconcileRequest s
  | .reconcileData => Sys2Proof.Machine.execReconcileData s
  | .reconcileClose channel pic band => Sys2Proof.Machine.execReconcileClose channel pic band s
  | .release => Sys2Proof.Machine.execRelease s
  | .mirrorRequest => Sys2Proof.Machine.execMirrorRequest s
  | .mirrorData => Sys2Proof.Machine.execMirrorData s
  | .mirrorBufferExpire => Sys2Proof.Machine.execMirrorBufferExpire s
  | .diverge => Sys2Proof.Machine.execDiverge s
  | .heartbeatSend => Sys2Proof.Machine.execHeartbeatSend s
  | .heartbeat => Sys2Proof.Machine.execHeartbeat s
  | .heartbeatMiss => Sys2Proof.Machine.execHeartbeatMiss s
  | .bye => Sys2Proof.Machine.execBye s
  | .resetPeerRequest => Sys2Proof.Machine.execResetPeerRequest s
  | .twinYieldNInput asserted => Sys2Proof.Machine.execTwinYieldNInput asserted s
  | .yieldComplete => Sys2Proof.Machine.execYieldComplete s
  | .twnCtrlYield => Sys2Proof.Machine.execTwnCtrlYield s
  | .interruptAssertion src => Sys2Proof.Machine.execInterruptAssertion src s
  | .irqClaim core => Sys2Proof.Machine.execIrqClaim core s
  | .irqComplete core v => Sys2Proof.Machine.execIrqComplete core v s
  | .irqPendingClear src => Sys2Proof.Machine.execIrqPendingClear src s
  | .irqSwi mask => Sys2Proof.Machine.execIrqSwi mask s
  | .irqEvqHead core head => Sys2Proof.Machine.execIrqEvqHead core head s
  | .faultMessage m => Sys2Proof.Machine.execFaultMessage m s
  | .chFaulted channel => Sys2Proof.Machine.execChFaulted channel s
  | .fltInject who kind cls key => Sys2Proof.Machine.execFltInject who kind cls key s
  | .fltLogClr clr => Sys2Proof.Machine.execFltLogClr clr s
  | .fltKindWrite kind cls => Sys2Proof.Machine.execFltKindWrite kind cls s
  | .por bad => Sys2Proof.Machine.execPor bad s
  | .rstN low => Sys2Proof.Machine.execRstN low s
  | .perstN low => Sys2Proof.Machine.execPerstN low s
  | .pcieHotReset => Sys2Proof.Machine.execPcieHotReset s
  | .pcieLinkDown => Sys2Proof.Machine.execPcieLinkDown s
  | .wdogExpire core => Sys2Proof.Machine.execWdogExpire core s
  | .watchdogHalf core => Sys2Proof.Machine.execWatchdogHalf core s
  | .rstWdogWrite core us => Sys2Proof.Machine.execRstWdogWrite core us s
  | .resetRelease cut role => Sys2Proof.Machine.execResetRelease cut role s
  | .clockGood clk => Sys2Proof.Machine.execClockGood clk s
  | .clkLost clk => Sys2Proof.Machine.execClkLost clk s
  | .selfTestEnd r => Sys2Proof.Machine.execSelfTestEnd r s
  | .rstBlock who block => Sys2Proof.Machine.execRstBlock who block s
  | .blockIdle => Sys2Proof.Machine.execBlockIdle s
  | .idleTimeout => Sys2Proof.Machine.execIdleTimeout s
  | .blockRelease => Sys2Proof.Machine.execBlockRelease s
  | .rstMapWrite hi v => Sys2Proof.Machine.execRstMapWrite hi v s
  | .fuseProgCmd word key => Sys2Proof.Machine.execFuseProgCmd word key s
  | .fusePulseEnd => Sys2Proof.Machine.execFusePulseEnd s
  | .thermalSample n temp valid => Sys2Proof.Machine.execThermalSample n temp valid s
  | .hbmCommandIssue pc arrivals => Sys2Proof.Machine.execHbmCommandIssue pc arrivals s
  | .hbmReadReturn port addr latencyNs severity reader => Sys2Proof.Machine.execHbmReadReturn port addr latencyNs severity reader s
  | .hbmRefresh pc bank => Sys2Proof.Machine.execHbmRefresh pc bank s
  | .hbmTempRead t => Sys2Proof.Machine.execHbmTempRead t s
  | .selfRefreshEntry => Sys2Proof.Machine.execSelfRefreshEntry s
  | .selfRefreshExit wake => Sys2Proof.Machine.execSelfRefreshExit wake s
  | .wckRetrack channel => Sys2Proof.Machine.execWckRetrack channel s
  | .hbmTrain => Sys2Proof.Machine.execHbmTrain s
  | .hbmPortCfgWrite n v => Sys2Proof.Machine.execHbmPortCfgWrite n v s
  | .ckCfgWrite n v => Sys2Proof.Machine.execCkCfgWrite n v s
  | .ckStart n => Sys2Proof.Machine.execCkStart n s
  | .ckData n v => Sys2Proof.Machine.execCkData n v s
  | .ckValueRestore who n hi => Sys2Proof.Machine.execCkValueRestore who n hi s
  | .ckAlive n slot v => Sys2Proof.Machine.execCkAlive n slot v s
  | .ckAliveClr n mask => Sys2Proof.Machine.execCkAliveClr n mask s
  | .twilanLinkDown => Sys2Proof.Machine.execTwilanLinkDown s
  | .twinnedNotice => Sys2Proof.Machine.execTwinnedNotice s
  | .prickingLoadWriteEnd => Sys2Proof.Machine.execPrickingLoadWriteEnd s
  | .firmwareLoadEnd => Sys2Proof.Machine.execFirmwareLoadEnd s
  | .hbmTrainingEnd failed lanes => Sys2Proof.Machine.execHbmTrainingEnd failed lanes s
  | .filteredLineFall src => Sys2Proof.Machine.execFilteredLineFall src s
  | .openRowIdleClose pc bank => Sys2Proof.Machine.execOpenRowIdleClose pc bank s

end Sys2Proof.Machine
end

