-- ==== Sys2Proof/Machine/Smbus.lean ====
section
/-!
DEFINITION. The SMBus target (R550): what it answers to each command, and the pin SMB_ALERT_N. The table has no row for an SMBus transfer: a read changes nothing,
and what it returns is a function of the state. The framing on the bus, PEC among it, is the SMBus standard's (log 117).
-/
namespace Sys2Proof.Machine

/-- The target's 7-bit address. -/
abbrev smbAddress : Nat := 0x4D

/-- The target answers through every reset, and NACKs while source 0 is asserted. -/
def State.smbUp (s : State) : Bool := !bitAt s.rst.asserted.toNat 0

/-- The bytes that the target answers to a command code with, its length by its protocol; none: the command is NACKed. -/
def State.smbAnswer (s : State) (code : Nat) : Option (List Byte) :=
  let rst (o : Nat) : Nat := (s.viewRst o).getD 0
  if s.smbUp = false then none
  else if code < 0x10 then some (bytesOf (rst (0x140 + 4 * code)) 2)
  else if code = 0x10 then some (bytesOf (s.regN Reg.pwrTempMax) 2)
  else if code = 0x20 then some (if s.fuse.loaded then bytesOf (s.devIdent + 2 ^ 32 * s.devCaps) 8 else List.replicate 8 0)
  else if code = 0x21 then some (bytesOf (rst 0 + 2 ^ 32 * rst 4) 8)
  else if code = 0x22 then some (bytesOf (rst 0x180) 4)
  else none

/-- An episode of reset source 11 (R550): the source is asserted, or the reset that it has a part in is not over. -/
def State.thermalEpisode (s : State) : Bool :=
  bitAt s.rst.asserted.toNat 11 ||
    (bitAt s.rst.seen.toNat 11 && (match s.rst.state with | .held => true | .releasing => true | .selfTest => true | _ => false))

/-- SMB_ALERT_N is asserted. -/
def State.smbAlert (s : State) : Bool := (List.range 16).any (fun n => (s.sensor n).warn) || s.thermalEpisode

/-- What the Alert Response Address reads: the target's address while it asserts SMB_ALERT_N. -/
def State.smbAra (s : State) : Option Nat := if s.smbUp && s.smbAlert then some smbAddress else none

end Sys2Proof.Machine
end

