-- ==== Sys2Proof/Safety.lean ====
section
/-!
DEFINITION. The terms that statements use: what a command does to a state, how a host command is answered, the canonical form of
the tables and memories, the order of the fuse unit's work, and the invariant that every step keeps.
-/
namespace Sys2Proof.Machine

/-! ## What a command does -/

/-- Command `c` answers a next state that has `P`. -/
def Does (c : Instr) (s : State) (P : State → Prop) : Prop := ∃ t, exec c s = .next t ∧ P t

/-! ## Host commands (R284–R290) -/

/-- Host command `c` with header `h` starts now and runs its body: its queue is ready and its entry is the next one there (R271, R284, R288, R290), no
copy of it fails its check (R477), and the device is not in diagnostic hold (R514). -/
def State.ready (s : State) (c : Instr) (h : CmdHdr) : Prop := s.canTake c h = true ∧ h.badCopies = 0 ∧ s.rst.state ≠ .diagHold

/-- The state on which a host command's body runs: the command's entry is no longer among those that wait to start. -/
def State.taken (s : State) (h : CmdHdr) : State := s.dropFetched h.sq

/-- The state after a host command that came on `s`, whose body left `u` and replied `r`: the completion is written, or held
(R285, R288), and entries behind it with a bad opcode are answered (R289). -/
def State.answered (s u : State) (h : CmdHdr) (r : Reply) : State :=
  (u.postCompletion h.sq h.cid.toNat (s.indexAfter h.sq) r).flushBadOpcodes (s.taken h).host.fetched.length h.sq

/-- The state after a host command whose completion comes later (R290). -/
def State.left (s u : State) (h : CmdHdr) : State := u.flushBadOpcodes (s.taken h).host.fetched.length h.sq

/-- Host command `c` runs its body and is answered with `r`; `P` says what its body does. -/
def Answers (c : Instr) (h : CmdHdr) (s : State) (r : Reply) (P : State → Prop) : Prop := ∃ u, exec c s = .next (s.answered u h r) ∧ P u

/-! ## Messages of the twin -/

/-- The state on which a message's row acts: the delivered message `d`, the first of those that wait, is taken, `rest` stays, and the
cells of its frame are freed (R312, R319). -/
def State.tookMsg (s : State) (d : TwDelivered) (rest : List TwDelivered) : State :=
  { s with twin := { s.twin with link := { s.twin.link with delivered := rest } } }.freeCells d.cells 18

/-! ## Which commands come from a host queue -/

/-- The header of a host command. -/
def hostHeader (c : Instr) : Option CmdHdr :=
  match c with
  | .nop h => some h
  | .channelCreate h _ _ _ _ => some h
  | .channelConfigure h _ _ => some h
  | .channelStart h _ _ _ _ => some h
  | .channelStop h _ _ _ => some h
  | .channelDestroy h _ => some h
  | .forceIntra h _ => some h
  | .picturePlan h _ _ => some h
  | .queueCreate h _ => some h
  | .queueDestroy h _ => some h
  | .flowBind h _ _ _ _ _ _ _ => some h
  | .unbind h _ _ => some h
  | .gateListLoad h _ _ _ _ _ _ => some h
  | .shaperSet h _ _ _ _ => some h
  | .statsSubscribe h _ _ _ _ _ _ => some h
  | .statsUnsubscribe h _ _ _ => some h
  | .prickingLoad h _ _ _ => some h
  | .firmwareLoad h _ _ _ => some h
  | .twinStart h => some h
  | .twinStop h => some h
  | .yield h => some h
  | .rejoin h => some h
  | .resetPeer h => some h
  | .timeControlClock h _ => some h
  | .timeControlPort h _ => some h
  | .timeControlReference h _ => some h
  | .setTime h _ _ _ _ => some h
  | .timecode h _ => some h
  | .query h _ _ _ _ => some h
  | .reset h _ => some h
  | _ => none

/-- The host commands that queue 0 alone takes (R289). -/
def adminOnly (c : Instr) : Bool :=
  match c with
  | .queueCreate _ _ => true
  | .queueDestroy _ _ => true
  | .gateListLoad _ _ _ _ _ _ _ => true
  | .prickingLoad _ _ _ _ => true
  | .firmwareLoad _ _ _ _ => true
  | .twinStart _ => true
  | .twinStop _ => true
  | .yield _ => true
  | .rejoin _ => true
  | .resetPeer _ => true
  | .timeControlClock _ _ => true
  | .timeControlPort _ _ => true
  | .timeControlReference _ _ => true
  | .setTime _ _ _ _ _ => true
  | .timecode _ _ => true
  | .reset _ _ => true
  | _ => false

/-! ## The canonical form -/

/-- The register file, the interrupt sources, the queue table and the five memories are in the canonical form. -/
def Tidy (s : State) : Prop :=
  SMap.wf regReset s.regs = true ∧ SMap.wf irqReset s.irq = true ∧ SMap.wf queueReset s.queues = true ∧
  Memory.wf zeroDefault s.hostMem = true ∧ Memory.wf hbmDefault s.hbmMem = true ∧ Memory.wf sramDefault s.sram = true ∧
  Memory.wf zeroDefault s.shw = true ∧ Memory.wf zeroDefault s.ctx = true

/-- The fuse unit's programming, as every command but the two fuse commands leaves it: the rows, the word and the copy stay, and the
copies still to be written stay or, in a reset, are cut to the one whose pulse is under way (R512). -/
def Cut (f g : FuseSt) : Prop :=
  g.rows = f.rows ∧ g.inPulse = f.inPulse ∧ g.progWord = f.progWord ∧ g.progCopy = f.progCopy ∧
  (g.toPulse = f.toPulse ∨ g.toPulse = f.toPulse.take (if f.inPulse then 1 else 0))

/-! ## The fuse unit (R512, R535) -/

/-- Programming is under way exactly while copies are still to be written; each of them is one of the word's three copies, once;
and each is blank until its own pulse ends. -/
def FuseSt.orderly (f : FuseSt) : Prop :=
  f.inPulse = !f.toPulse.isEmpty ∧ f.toPulse.Nodup ∧ ∀ k ∈ f.toPulse, k < 3 ∧ f.copy f.progWord k = 0

/-- A fuse once blown stays: a copy that is not blank in `f` holds the same value in `g`. -/
def FuseSt.stays (f g : FuseSt) : Prop := ∀ w k, w < 128 → k < 3 → f.copy w k ≠ 0 → g.copy w k = f.copy w k

/-! ## The invariant -/

/-- What every step keeps: the canonical form, and the order of the fuse unit's work over a canonical fuse array. -/
def State.Inv (s : State) : Prop := Tidy s ∧ SMap.wf (fun _ => 0) s.fuse.rows = true ∧ s.fuse.orderly

end Sys2Proof.Machine
end

