-- ==== Sys2Proof/WellFormed.lean ====
section
/-!
DEFINITION. Well-formed commands: an event names a unit that the device has. Host commands carry fields of fixed width, and the device
refuses by a status what they may not say, so every one of them is well-formed.
-/
namespace Sys2Proof

/-- The interrupt sources that something can assert (R451): 1–511 without the reserved ones. -/
def assertable (n : Nat) : Bool := decide (1 ≤ n ∧ n ≤ 511) && !decide (54 ≤ n ∧ n ≤ 63) && !decide (192 ≤ n ∧ n ≤ 255)

/-- The command names units of the device: one of 128 channels, 8 tambours, 16 pumps, 8 ports, 2,048 flows and so on. -/
def Instr.wellFormed (i : Instr) : Bool :=
  match i with
  | .nop _ => true
  | .channelCreate _ _ _ _ _ => true
  | .channelConfigure _ _ _ => true
  | .channelStart _ _ _ _ _ => true
  | .channelStop _ _ _ _ => true
  | .channelDestroy _ _ => true
  | .forceIntra _ _ => true
  | .picturePlan _ _ _ => true
  | .queueCreate _ _ => true
  | .queueDestroy _ _ => true
  | .flowBind _ _ _ _ _ _ _ _ => true
  | .unbind _ _ _ => true
  | .gateListLoad _ _ _ _ _ _ _ => true
  | .shaperSet _ _ _ _ _ => true
  | .statsSubscribe _ _ _ _ _ _ _ => true
  | .statsUnsubscribe _ _ _ _ => true
  | .prickingLoad _ _ _ _ => true
  | .firmwareLoad _ _ _ _ => true
  | .twinStart _ => true
  | .twinStop _ => true
  | .yield _ => true
  | .rejoin _ => true
  | .resetPeer _ => true
  | .timeControlClock _ _ => true
  | .timeControlPort _ _ => true
  | .timeControlReference _ _ => true
  | .setTime _ _ _ _ _ => true
  | .timecode _ _ => true
  | .query _ _ _ _ _ => true
  | .reset _ _ => true
  | .mailboxPlan channel slot _ _ => decide (channel < 128 ∧ slot < 4)
  | .rcPlan channel => decide (channel < 128)
  | .hostEnable _ => true
  | .devReset _ _ => true
  | .windlassPass _ _ => true
  | .windlassHalt _ => true
  | .heldCompletionWrite cq => decide (cq < 262144)
  | .msixMessage q => decide (q < 262144)
  | .msixUnmask v => decide (v < 64)
  | .barMisaligned _ => true
  | .registerWrite _ _ _ => true
  | .rcRead _ _ => true
  | .chRunning channel => decide (channel < 128)
  | .stopTimeReached channel => decide (channel < 128)
  | .bandWindowOpen channel _ _ => decide (channel < 128)
  | .bandInputDeadline channel _ _ => decide (channel < 128)
  | .inputComplexity channel _ _ => decide (channel < 128)
  | .contextPreloadDone e => decide (e.tambour < 8)
  | .bankWritebackDone tambour => decide (tambour < 8)
  | .switchComplete tambour => decide (tambour < 8)
  | .microwordExecute tambour _ => decide (tambour < 8)
  | .blockSlot tambour _ => decide (tambour < 8)
  | .hookOverrun tambour => decide (tambour < 8)
  | .bandAbandon channel _ _ => decide (channel < 128)
  | .repairPassEnd tambour => decide (tambour < 8)
  | .packetizerDrain tambour _ _ => decide (tambour < 8)
  | .bandRelease channel _ _ => decide (channel < 128)
  | .statsBandRecord channel _ _ => decide (channel < 128)
  | .pictureTime channel _ => decide (channel < 128)
  | .wakeStart hoop => decide (hoop < 4)
  | .slewGrant => true
  | .hoopClockGood hoop => decide (hoop < 4)
  | .wellAllocate _ reqs _ => reqs.all (fun o => decide (o < 64))
  | .wellFree _ _ owner => decide (owner < 64)
  | .cellRebuildEnd => true
  | .pageCacheRefill => true
  | .pageCacheSpill => true
  | .pageRebuildEnd => true
  | .welQuotaWrite _ owner _ => decide (owner < 64)
  | .pageUnitsWrite _ => true
  | .pumpDescriptorStart n _ => decide (n < 16)
  | .pumpDone n => decide (n < 16)
  | .pumpError n _ _ _ => decide (n < 16)
  | .frameReceive port _ => decide (port < 8)
  | .ingressWrite flow _ => decide (flow < 2048)
  | .depacketize flow _ => decide (flow < 2048)
  | .sequenceLost channel _ => decide (channel < 128)
  | .injectEntry channel _ => decide (channel < 128)
  | .outputSlot channel => decide (channel < 128)
  | .egressBandStart channel => decide (channel < 128)
  | .gatePick port => decide (port < 8)
  | .gateEntryEnd port => decide (port < 8)
  | .gateSwitch port => decide (port < 8)
  | .shaperRefill flow => decide (flow < 2048)
  | .membershipReport flow => decide (flow < 2048)
  | .netPortEnable port _ => decide (port < 8)
  | .linkUp port => decide (port < 8)
  | .linkDown port => decide (port < 8)
  | .aoTick => true
  | .timeIncAdjWrite _ _ => true
  | .timeStepWrite _ _ => true
  | .timeLatch => true
  | .ptpMessageReceive port _ => decide (port < 8)
  | .ptpMessageSend port _ => decide (port < 8)
  | .announceReceiptTimeout => true
  | .servoSample _ _ => true
  | .holdoverExpire => true
  | .ppsInEdge _ _ => true
  | .refLost _ => true
  | .tlvTimeout => true
  | .timeOscCode _ _ => true
  | .oscSpiFrameEnd => true
  | .timeToutEnWrite _ => true
  | .timingOutputEdge n => decide (n < 8)
  | .statsIntervalEnd kind source => decide ((kind = 1 ∧ source < 2048) ∨ (kind = 2 ∧ source < 8))
  | .twilanLinkUp => true
  | .twilanFrameReceive _ => true
  | .twilanLinkFrame => true
  | .twilanRetransmit fseq => decide (fseq < 65536)
  | .hello => true
  | .check => true
  | .timeExchange => true
  | .time => true
  | .startTimeout => true
  | .arm => true
  | .ledgerPoint channel _ => decide (channel < 128)
  | .ledger => true
  | .tokenDue channel _ => decide (channel < 128)
  | .reconcileRequest => true
  | .reconcileData => true
  | .reconcileClose channel _ _ => decide (channel < 128)
  | .release => true
  | .mirrorRequest => true
  | .mirrorData => true
  | .mirrorBufferExpire => true
  | .diverge => true
  | .heartbeatSend => true
  | .heartbeat => true
  | .heartbeatMiss => true
  | .bye => true
  | .resetPeerRequest => true
  | .twinYieldNInput _ => true
  | .yieldComplete => true
  | .twnCtrlYield => true
  | .interruptAssertion src => assertable src
  | .irqClaim core => decide (core < 4)
  | .irqComplete core _ => decide (core < 4)
  | .irqPendingClear src => decide (1 ≤ src ∧ src ≤ 511)
  | .irqSwi _ => true
  | .irqEvqHead core _ => decide (core < 4)
  | .faultMessage _ => true
  | .chFaulted channel => decide (channel < 128)
  | .fltInject _ _ _ _ => true
  | .fltLogClr _ => true
  | .fltKindWrite _ _ => true
  | .por _ => true
  | .rstN _ => true
  | .perstN _ => true
  | .pcieHotReset => true
  | .pcieLinkDown => true
  | .wdogExpire core => decide (core < 4)
  | .watchdogHalf core => decide (core < 4)
  | .rstWdogWrite core _ => decide (core < 4)
  | .resetRelease _ _ => true
  | .clockGood clk => decide (clk < 12)
  | .clkLost clk => decide (clk < 12)
  | .selfTestEnd _ => true
  | .rstBlock _ _ => true
  | .blockIdle => true
  | .idleTimeout => true
  | .blockRelease => true
  | .rstMapWrite _ _ => true
  | .fuseProgCmd _ _ => true
  | .fusePulseEnd => true
  | .thermalSample n _ _ => decide (n < 16)
  | .hbmCommandIssue pc _ => decide (pc < 32)
  | .hbmReadReturn port _ _ _ _ => decide (port < 8)
  | .hbmRefresh pc bank => decide (pc < 32 ∧ bank < 16)
  | .hbmTempRead _ => true
  | .selfRefreshEntry => true
  | .selfRefreshExit _ => true
  | .wckRetrack channel => decide (channel < 16)
  | .hbmTrain => true
  | .hbmPortCfgWrite n _ => decide (n < 8)
  | .ckCfgWrite n _ => decide (n < 16)
  | .ckStart n => decide (n < 16)
  | .ckData n _ => decide (n < 16)
  | .ckValueRestore _ n _ => decide (n < 16)
  | .ckAlive n _ _ => decide (n < 16)
  | .ckAliveClr n _ => decide (n < 16)
  | .twilanLinkDown => true
  | .twinnedNotice => true
  | .prickingLoadWriteEnd => true
  | .firmwareLoadEnd => true
  | .hbmTrainingEnd _ _ => true
  | .filteredLineFall src => assertable src
  | .openRowIdleClose pc bank => decide (pc < 32 ∧ bank < 16)

end Sys2Proof
end

