-- ==== Sys2Proof/Certificates/Slice0/Obligations.lean ====
section
/-!
DEFINITION. The statements for the provers, in the order of OBLIGATIONS.json.
-/
section
open Sys2Proof Sys2Proof.Machine

/-- A step runs the command at the front of the queue (R10). For every command c and state s, a step of s with c at the front of its queue is exec of c on
s with the queue's rest. The queue of waiting commands is the model's own (log entry 1), and so is that a step with no command waiting answers the
state as it is: time-driven effects are commands of their own. -/
def Obligations.StepRunsTheFront : Prop :=
  (∀ (c : Instr) (rest : List Instr) (s : State), step { s with pending := c :: rest } = exec c { s with pending := rest }) ∧
  (∀ s : State, s.pending = [] → step s = .next s)

/-- A command completes exactly when the units it names exist; the commands of the rings, interrupts, wells, servo, block resets and collector with their
effects (R1, R3, R266, R275, R278, R288, R287, R457, R404, R321, R510, R486). Every command answers a next state in every state when it is well-formed
(the units it names exist), and the fault noSuchUnit otherwise; none is refused. Where the state meets the conditions named, the commands of the rings
and registers, of the interrupt controller, of the wells, of the servo, of block resets, fuses and sensors, and of the fault collector complete with
the effect their rules give them. -/
def Obligations.CompletesExactlyWhenWellFormed : Prop :=
  (∀ (c : Instr) (s : State), (c.wellFormed = true → ∃ t, exec c s = .next t) ∧ (c.wellFormed = false → exec c s = .fault .noSuchUnit)) ∧
  (∀ (epoch : Bool) (s : State), s.host.enabled = false → s.host.ready = true → s.enableCause epoch = 0 → ∃ t, exec (.hostEnable epoch) s = .next t ∧
    t.host.enabled = true ∧ t.host.epochMode = epoch ∧ t.host.wsw = .waiting ∧ t.host.errCause = 0) ∧
  (∀ (stores : List HostStore) (bad : List (Nat × Nat)) (s : State), s.host.wsw = .waiting → s.pollDue = true →
    let t : State := { s with hostBad := bad, hostMem := stores.foldl (fun m (w : HostStore) => Memory.writeBytes zeroDefault m w.addr w.bytes) s.hostMem }
    (s.host.epochMode = false → exec (.windlassPass stores bad) s = .next t.takeTick.swapPass) ∧ (s.host.epochMode = true → exec (.windlassPass stores bad) s = .next t.takeTick.epochPass)) ∧
  (∀ s : State, s.host.wsw = .waiting → s.pollDue = true →
    exec (.windlassHalt false) s = .next (s.takeTick.haltWindlass 5) ∧ exec (.windlassHalt true) s = .next (s.takeTick.haltWindlass 6)) ∧
  (∀ (cq : Nat) (x : HeldCpl) (s : State), cq < 262144 → SMap.get (fun _ => 0) s.host.heldTry cq ≤ s.lastTick → s.host.held = [x] → x.cq = cq →
    (s.queue cq).full = false → (s.queue cq).valid = true → s.host.busMaster = true → (∀ e ∈ s.queues, e.2.ty = .hsq → e.2.valid = false) →
    let h := { s.host with heldTry := SMap.set (fun _ => 0) s.host.heldTry cq (s.lastTick + 1), held := [] }
    (s.queue cq).space = .host → exec (.heldCompletionWrite cq) s = .next ({ s with host := h }.putEntry cq (x.bits + 2 ^ 24 * (s.queue cq).phase (s.queue cq).tail))) ∧
  (∀ (a : Nat) (s : State), ∃ t, exec (.barMisaligned a) s = .next t ∧ t.lastRead = 0 ∧ t.regs = s.regs) ∧
  (∀ (who : Requester) (a : Nat) (v : Word) (r : RegRow) (s : State), s.responds a = true → s.writeLocked who a = false → a < 0x4000 → a ≠ Reg.wswPoll →
    regRow a = some r → r.lo = false → r.hi = false → exec (.registerWrite who a v) s = .next (s.setRegN a (plainWrite r (s.regN a) v.toNat))) ∧
  (∀ (who : Requester) (a : Nat) (s : State), s.responds a = true → exec (.rcRead who a) s = .next (s.readWord who a)) ∧
  (∀ (q : Nat) (s : State), q < 262144 → (s.queue q).valid = true → (s.queue q).msiDue = true → (s.queue q).lastMsi.getD 0 + 1000 * (s.queue q).dueUs ≤ s.now →
    let t := s.modQueue q fun u => { u with msiDue := false, lastMsi := some s.now }
    exec (.msixMessage q) s = .next (if (s.queue q).space = .host then t.msixSend (s.queue q).vector else t.assertIrq (256 + (s.queue q).vector))) ∧
  (∀ (v : Nat) (s : State), v < 64 → exec (.msixUnmask v) s = .next (s.msixClearMask v)) ∧
  (∀ (n : Nat) (s : State), assertable n = true →
    ((s.src n).line = false → exec (.interruptAssertion n) s = .next ((s.modSrc n fun i => { i with line := true }).assertIrq n)) ∧
    exec (.filteredLineFall n) s = .next (s.modSrc n fun i => { i with line := false })) ∧
  (∀ (c : Nat) (v : Word) (s : State), c < 4 → exec (.irqClaim c) s = .next (s.claim c) ∧
    (idxSub v.toNat (s.queue (fbQueue c)).head < (s.queue (fbQueue c)).fill → exec (.irqEvqHead c v) s = .next
      (let t := s.modQueue (fbQueue c) fun u => { u with head := v.toNat }; if (t.queue (fbQueue c)).isEmpty then t.rawLine (8 + c) false else t))) ∧
  (∀ (n : Nat) (s : State), 1 ≤ n → n ≤ 511 → exec (.irqPendingClear n) s = .next (s.modSrc n fun i => { i with pending := i.level && i.line && !i.inService })) ∧
  (∀ (m : BitVec 4) (s : State), exec (.irqSwi m) s = .next ([0, 1, 2, 3].foldl (fun t c => if bitAt m.toNat c then t.assertIrq (4 + c) else t) s)) ∧
  (∀ (w : WellSel) (a o : Nat) (s : State), o < 64 → exec (.wellFree w a o) s = .next (s.freeBuffer w a o)) ∧
  (∀ s : State, s.cellWell.rebuild = true → ∃ t, exec .cellRebuildEnd s = .next t ∧ t.cellWell.rebuild = false) ∧
  (∀ s : State, s.pageWell.rebuild = true → ∃ t, exec .pageRebuildEnd s = .next t ∧ t.pageWell.rebuild = false) ∧
  (∀ s : State, s.pageWell.rebuild = false → (s.pageWell.cache.length < 256 → exec .pageCacheRefill s = .next (s.refill 256)) ∧
    (768 < s.pageWell.cache.length → ∃ t, exec .pageCacheSpill s = .next t ∧ t.pageWell.ringCount = s.pageWell.ringCount + 256)) ∧
  (∀ (o : Nat) (v : Word) (s : State), o < 64 → s.quotaOk .cell o (bitsAt v.toNat 0 14) (bitsAt v.toNat 16 14) = true →
    exec (.welQuotaWrite .cellQuota o v) s = .next (s.setRegN (Reg.welCquota + 4 * o) (packFields [(14, v.toNat), (2, 0), (14, bitsAt v.toNat 16 14)]))) ∧
  (∀ (u : BitVec 8) (s : State), s.pageWell.owners = [] → s.reserveSum .page 64 0 ≤ 1024 * pageUnits u.toNat → ∃ t, exec (.pageUnitsWrite u) s = .next t ∧
    t.regs = (s.setRegN Reg.welCfg (s.field Reg.welCfg 0 8 + 256 * u.toNat)).regs ∧ t.pageWell.cache = List.range (min 512 (1024 * pageUnits u.toNat))) ∧
  (∀ (port : Nat) (d : PtpDecision) (s : State), port < 8 → ((s.takePtpFrame port).ptpPort port).enable = true → ∃ t, exec (.ptpMessageReceive port d) s = .next t ∧
    t.time.parent = d.parent ∧ t.time.slavePort = if s.time.clock.role = 2 then none else d.slave) ∧
  (∀ s : State, ∃ t, exec .announceReceiptTimeout s = .next t ∧ t.time.slavePort = none) ∧
  (∀ (offset rate : Int) (s : State), s.time.follower = false → s.servoReview.time.servo = .acquiring →
    exec (.servoSample offset ⟨rate, none⟩) s = .next ((s.servoReview.judgeOffset (s.servoReview.servoOffset offset)).steer (s.servoReview.servoOffset offset) rate)) ∧
  (∀ s : State, s.time.servo = .holdover → s.time.clock.holdoverS ≠ 0 → s.time.holdFrom + 1000000000 * s.time.clock.holdoverS ≤ s.now → ∃ t, exec .holdoverExpire s = .next t ∧
    t.time.servo = .freeRunning) ∧
  (∀ (falling : Bool) (ts : Nat) (s : State), (falling = true ↔ s.field Reg.timePpsCfg 0 1 = 1) → ∃ t, exec (.ppsInEdge falling ts) s = .next t ∧ t.time.ppsAt = some s.now) ∧
  (∀ s : State, (∃ t, exec (.refLost false) s = .next t ∧ t.time.ppsAt = none) ∧ ∃ t, exec (.refLost true) s = .next t ∧ t.time.ref10mOk = false) ∧
  (∀ s : State, 5000000000 + s.time.tlvAt ≤ s.now → exec .tlvTimeout s = .next { s with time := { s.time with tlvTc := none } }) ∧
  (∀ (c : Nat) (b : BitVec 10) (s : State), resettable b.toNat = true → s.rst.blk.busy = false → s.rst.state = .running → ∃ t, exec (.rstBlock (.core c) b) s = .next t ∧
    t.rst.blk.busy = true ∧ t.rst.blk.block = b.toNat) ∧
  (∀ s : State, s.rst.blk.busy = true → s.rst.blk.heldAt = none → (∃ t, exec .blockIdle s = .next t ∧ t.rst.blk.heldAt = some s.time.tick) ∧
    (s.rst.blk.askedAt + 25 * max 1 (s.field Reg.rstIdleTimeout 0 16) ≤ s.time.tick → ∃ t, exec .idleTimeout s = .next t ∧
      t.rst.blk.heldAt = some s.time.tick ∧ t.rst.blk.timeout = true)) ∧
  (∀ (k : Nat) (s : State), s.rst.blk.busy = true → s.rst.blk.heldAt = some k → k + 16 ≤ s.time.tick → ∃ t, exec .blockRelease s = .next t ∧
    (t.rst.blk.busy = false ∨ t.rst.blk.pendingClk = true)) ∧
  (∀ (w : BitVec 7) (key : BitVec 16) (s : State), s.fuseRefused w.toNat key.toNat = false → ∃ t, exec (.fuseProgCmd w key) s = .next t ∧
    t.fuse.progWord = w.toNat ∧ t.fuse.toPulse = [0, 1, 2].filter fun k => decide (s.fuse.copy w.toNat k = 0)) ∧
  (∀ (k : Nat) (rest : List Nat) (s : State), s.fuse.inPulse = true → s.fuse.toPulse = k :: rest → ∃ t, exec .fusePulseEnd s = .next t ∧
    t.fuse.rows = SMap.set (fun _ => 0) s.fuse.rows (128 * k + s.fuse.progWord) s.fuse.progCopy ∧ t.fuse.toPulse = rest) ∧
  (∀ (n : Nat) (temp : Int) (valid : Bool) (s : State), n < 16 → exec (.thermalSample n temp valid) s = .next (s.sampleSensor n temp valid)) ∧
  (∀ (m : FaultMsg) (s : State), nextMessage s.flt.inFlight = some m → s.collectorSleeps = false →
    exec (.faultMessage none) s = .next ({ s with flt := { s.flt with inFlight := s.flt.inFlight.erase m } }.accept m)) ∧
  (∀ (kind : BitVec 8) (cls : BitVec 2) (s : State), (kindInfo kind.toNat).isSome = true →
    exec (.fltInject .host kind cls 0x464C) s = .next (s.raise Src.hostInject kind.toNat 0 0)) ∧
  (∀ s : State, ∃ t, exec (.fltLogClr true) s = .next t ∧ t.flt.log = [] ∧ t.flt.logTotal = 0)

/-- No command changes the queue of waiting commands (R10). Whatever command runs, the commands that wait behind it are the same after it, through every
reset and every fault reaction too (the queue is the model's own, log entry 1). -/
def Obligations.CommandsLeaveTheQueue : Prop :=
  ∀ (c : Instr) (s t : State), exec c s = .next t → t.pending = s.pending

/-- The invariant holds after a level 0 reset (R512). The register file, the interrupt sources, the queue table, the five memories and the fuse array are
canonical at reset, and no fuse is being programmed. -/
def Obligations.ResetHasInvariant : Prop :=
  State.reset.Inv

/-- Every step keeps the invariant (R504, R512, R535). From every state with the invariant, whatever command is at the front, a step that answers a next
state keeps it: canonical registers, interrupt sources, queues and memories; and each fuse copy still to be programmed is one of the word's three,
once, and blank, with a pulse under way exactly while one is left. -/
def Obligations.StepKeepsInvariant : Prop :=
  ∀ s t : State, s.Inv → step s = .next t → t.Inv

/-- No step changes a fuse copy that has been programmed (R512, R535). From every state with the invariant, a step leaves each of the three copies of each
of the 128 fuse words as it is once it is not blank: not a reset of any level, not a further programming command, not a pulse. -/
def Obligations.WrittenFuseCopiesStay : Prop :=
  ∀ s t : State, s.Inv → step s = .next t → s.fuse.stays t.fuse

/-- A host command whose queue is not ready, or whose entry is not the next one there, does nothing (R271, R284, R288, R290). While the rings are not
enabled, the command's queue is not a valid submission queue, a completion of that queue is held, or the next fetched entry there does not spell the
command, no host command has any effect: the state is unchanged. -/
def Obligations.UnreadyHostCommandsWait : Prop :=
  ∀ (c : Instr) (h : CmdHdr) (s : State), hostHeader c = some h → s.canTake c h = false → exec c s = .next s

/-- An admin command on another queue completes with BAD_OPCODE (R289). On a ready queue other than QID 0, outside diagnostic hold, an admin command
either still waits for an outstanding deferred command, with the state unchanged, or completes with BAD_OPCODE and DETAIL 0 (the byte offset of the
opcode) and does nothing else. -/
def Obligations.AdminCommandsNeedQueueZero : Prop :=
  ∀ (c : Instr) (h : CmdHdr) (s : State), hostHeader c = some h → adminOnly c = true → s.ready c h → h.sq ≠ 0 →
    exec c s = .next s ∨ exec c s = .next (s.answered (s.taken h) h (Reply.field St.badOpcode 0))

/-- In diagnostic hold every host command but QUERY and RESET completes with BAD_STATE (R290). On a ready queue in diagnostic hold, with an entry whose
copies pass their checks, a command other than QUERY and RESET either still waits for an outstanding deferred command or completes with BAD_STATE and
does nothing else. -/
def Obligations.DiagnosticHoldRefuses : Prop :=
  ∀ (c : Instr) (h : CmdHdr) (s : State), hostHeader c = some h → s.canTake c h = true → h.badCopies = 0 → s.rst.state = .diagHold →
    (∀ sel obj a n, c ≠ .query h sel obj a n) → (∀ l, c ≠ .reset h l) →
    exec c s = .next s ∨ exec c s = .next (s.answered (s.taken h) h { status := St.badState })

/-- A command whose second copy fails its check too completes with DMA_ERROR (R477). On a ready queue outside diagnostic hold, a command that is not
refused as an admin command and both of whose copies fail their checks completes with DMA_ERROR and has no other effect than two CMD_CHECK_BAD
messages with the entry's slot and its queue, unless it still waits for an outstanding deferred command. -/
def Obligations.TwoBadCopiesEndTheCommand : Prop :=
  ∀ (c : Instr) (h : CmdHdr) (s : State), hostHeader c = some h → s.canTake c h = true → h.badCopies = 2 → s.rst.state ≠ .diagHold →
    (adminOnly c = false ∨ h.sq = 0) →
    let slot := s.entrySlot h.sq
    let u := ((s.taken h).raise Src.cmdCheck Kind.cmdCheckBad slot h.sq).raise Src.cmdCheck Kind.cmdCheckBad slot h.sq
    exec c s = .next s ∨ exec c s = .next (s.answered u h { status := St.dmaError })

/-- A completion lands in the next slot of its ring, or is held (R285, R308, R288). With room in a host completion ring and none held for it, a completion
is written to host memory as 32 bytes at the slot of the ring's TAIL (CID, STATUS, SQID, SQ_HEAD, DETAIL and RESULT, with the ring's PHASE in bit 24),
the TAIL advances by one, and no byte of host memory outside the 32 changes. With an earlier completion held for the ring, it joins those that are
held, and the ring and host memory stay. While Bus Master Enable is 0 it is held too, and HST_ERR.CAUSE says that an entry could not be written (the
model's reading of R269: log entry 143). -/
def Obligations.CompletionEntry : Prop :=
  (∀ (s : State) (sq cid idx : Nat) (r : Reply), let cq := s.cqOf sq; let u := s.queue cq
    Tidy s → u.valid = true → u.ty = .hcq → u.space = .host → u.fill < 2 ^ u.log2 → s.host.held.any (fun x => x.cq = cq) = false → s.host.busMaster = true →
    let t := s.postCompletion sq cid idx r
    t.hostMem = Memory.writeBytes zeroDefault s.hostMem (u.base + u.tail % 2 ^ u.log2 * 32)
      (bytesOf (packFields [(16, cid), (8, r.status), (8, 0), (18, sq), (14, 0), (16, idx), (16, r.detail), (160, r.result)] +
        2 ^ 24 * (1 - u.tail / 2 ^ u.log2 % 2)) 32) ∧
    (t.queue cq).tail = (u.tail + 1) % 2 ^ 32 ∧ (t.queue cq).head = u.head ∧
    (∀ a, (a < u.base + u.tail % 2 ^ u.log2 * 32 ∨ u.base + u.tail % 2 ^ u.log2 * 32 + 32 ≤ a) →
      Memory.read zeroDefault t.hostMem a = Memory.read zeroDefault s.hostMem a)) ∧
  (∀ (s : State) (sq cid idx : Nat) (r : Reply), let cq := s.cqOf sq
    (s.queue cq).valid = true → (s.queue cq).fill < 2 ^ (s.queue cq).log2 → s.host.held.any (fun x => x.cq = cq) = true ∨ s.host.busMaster = false →
    s.postCompletion sq cid idx r = { s with host := { s.host with errCause := (if s.host.busMaster then s.host.errCause else 7), held := s.host.held ++ [{ sq := sq, cq := cq, bits := packFields [(16, cid), (8, r.status), (8, 0), (18, sq), (14, 0), (16, idx), (16, r.detail), (160, r.result)] }] } })

/-- What is written to a register, a queue or a memory reads back, and nothing else changes (R12). In a canonical table or memory, the entry written at a
key reads as the value written and every other key reads as before; the table stays canonical. The register file, the queue table, the interrupt
sources and the memories are such tables. -/
def Obligations.TablesAndMemoriesReadBack : Prop :=
  (∀ (s : State) (a : Nat) (v : Word), Tidy s → (s.setReg a v).reg a = v ∧ ∀ b, b ≠ a → (s.setReg a v).reg b = s.reg b) ∧
  (∀ (s : State) (q : Nat) (f : Queue → Queue), Tidy s → (s.modQueue q f).queue q = f (s.queue q) ∧ ∀ r, r ≠ q → (s.modQueue q f).queue r = s.queue r) ∧
  (∀ (s : State) (n : Nat) (f : IrqSrc → IrqSrc), Tidy s → (s.modSrc n f).src n = f (s.src n) ∧ ∀ m, m ≠ n → (s.modSrc n f).src m = s.src m) ∧
  (∀ (d : Nat → Byte) (m : List Host.Cell) (a : Nat) (v : Byte), Memory.wf d m = true →
    Memory.read d (Memory.write d m a v) a = v ∧ (∀ b, b ≠ a → Memory.read d (Memory.write d m a v) b = Memory.read d m b) ∧
    Memory.wf d (Memory.write d m a v) = true)

/-- NOP, QUEUE_CREATE and QUEUE_DESTROY (R289, R296, R309, R310). NOP completes with OK and changes nothing else. QUEUE_CREATE with a type 0-4, a size of
2^4-2^16 entries, an aligned base and a free QID (or, with QID 0, the lowest free one) makes exactly that queue, empty, and answers its QID; a
submission queue needs a valid completion queue. QUEUE_DESTROY of a queue that nothing uses, with no deferred command outstanding, empties its entry,
drops its fetched entries and the completions held for it and, for a statistics ring, its subscriptions. Nothing else changes. -/
def Obligations.QueuesAreCreatedAndDestroyed : Prop :=
  (∀ (h : CmdHdr) (s : State), s.ready (.nop h) h → exec (.nop h) s = .next (s.answered (s.taken h) h { status := St.ok })) ∧
  (∀ (h : CmdHdr) (q : QueueCreateArgs) (ty : QType) (n : Nat) (s : State), s.ready (.queueCreate h q) h → h.sq = 0 → hostType q.ty.toNat = some ty →
    4 ≤ q.log2.toNat → q.log2.toNat ≤ 16 → q.base.toNat ≠ 0 → q.base.toNat % 4096 = 0 →
    (if q.qid = 0 then s.freeHostQid = some n else q.qid.toNat = n ∧ 65536 ≤ n ∧ (s.queue n).valid = false) →
    (ty = .hsq → (s.queue q.cqid.toNat).valid = true ∧ (s.queue q.cqid.toNat).ty = .hcq) →
    let new : Queue := if ty = .hsq then { valid := true, base := q.base.toNat, ty := .hsq, log2 := q.log2.toNat, cqid := q.cqid.toNat }
      else { valid := true, base := q.base.toNat, ty := ty, log2 := q.log2.toNat, vector := q.vector.toNat, vecEn := q.vecEn, noSnoop := q.noSnoop, coalesceUs := q.coalesceUs.toNat }
    exec (.queueCreate h q) s = .next (s.answered { s.taken h with queues := SMap.set queueReset s.queues n new } h { status := St.ok, result := n })) ∧
  (∀ (h : CmdHdr) (qid : BitVec 18) (s : State), s.ready (.queueDestroy h qid) h → h.sq = 0 → s.host.deferred = [] → 65536 ≤ qid.toNat → (s.queue qid.toNat).valid = true →
    s.hcqBound qid.toNat = false → s.hbrInUse qid.toNat = false → s.heqInUse qid.toNat = false →
    let u := s.taken h
    let codec := if (s.queue qid.toNat).ty = .hsr then { s.codec with subs := s.codec.subs.filter fun x => decide (x.qid ≠ qid.toNat) } else s.codec
    exec (.queueDestroy h qid) s = .next (s.answered { u with queues := SMap.set queueReset s.queues qid.toNat {}, codec := codec, host := { u.host with fetched := u.host.fetched.filter (fun f => decide (f.sq ≠ qid.toNat)), held := u.host.held.filter fun x => decide (x.cq ≠ qid.toNat) } } h { status := St.ok }))

/-- CHANNEL_CREATE and CHANNEL_CONFIGURE (R291, R292, R294). An accepted configuration makes an IDLE channel CONFIGURED with its direction and event queue
(QID 2 where EVQ is 0), or replaces that of a CONFIGURED or STOPPED channel; TAMBOUR, COST and BAND_RATE are answered. No other channel and nothing
else changes. A channel number of 128 or more completes with BAD_CHANNEL, one in a wrong state with BAD_STATE, without effect. -/
def Obligations.ChannelsAreCreatedAndConfigured : Prop :=
  (∀ (h : CmdHdr) (c : BitVec 8) (decode : Bool) (addr : Word64) (evq : BitVec 18) (a : Accepted) (s : State), s.ready (.channelCreate h c decode addr evq) h → c.toNat < 128 →
    s.chanWaits h.sq c.toNat = false → (s.channel c.toNat).state = .idle →
    (evq = 0 ∨ ((s.queue evq.toNat).valid = true ∧ (s.queue evq.toNat).ty = .heq)) → (s.taken h).checkCfg c.toNat decode addr.toNat none = .inr a →
    let new : Channel := { state := .configured, decode := decode, evq := (if evq = 0 then 2 else evq.toNat), cfg := a.cfg, lists := a.lists, listCrc := (if a.cfg.scaling = 2 then crc32c (a.lists.foldr (fun b r => b + 256 * r) 0) a.lists.length else 0), tambour := a.tambour, costQ := a.cfg.costQ, bandRate := a.cfg.bandRate, serviceT := a.cfg.serviceT, budgetHeld := effBudget decode a.cfg, short := decide (effBudget decode a.cfg < a.cfg.bandT) }
    exec (.channelCreate h c decode addr evq) s = .next (s.answered ((s.taken h).modChannel c.toNat fun _ => new) h
      { status := St.ok, result := packFields [(4, a.tambour), (28, a.cfg.costQ), (32, wholeRate a.cfg.bandRate)] })) ∧
  (∀ (h : CmdHdr) (c : BitVec 8) (addr : Word64) (a : Accepted) (s : State), s.ready (.channelConfigure h c addr) h → c.toNat < 128 → s.chanWaits h.sq c.toNat = false →
    ((s.channel c.toNat).state = .configured ∨ (s.channel c.toNat).state = .stopped) →
    (s.taken h).checkCfg c.toNat (s.channel c.toNat).decode addr.toNat (some (s.channel c.toNat).tambour) = .inr a →
    exec (.channelConfigure h c addr) s = .next (s.answered ((s.taken h).modChannel c.toNat fun x => { x with cfg := a.cfg, lists := a.lists, listCrc := (if a.cfg.scaling = 2 then crc32c (a.lists.foldr (fun b r => b + 256 * r) 0) a.lists.length else 0), tambour := a.tambour, costQ := a.cfg.costQ, bandRate := a.cfg.bandRate, serviceT := a.cfg.serviceT, budgetHeld := effBudget x.decode a.cfg, short := decide (effBudget x.decode a.cfg < a.cfg.bandT) }) h
      { status := St.ok, result := packFields [(4, a.tambour), (28, a.cfg.costQ), (32, wholeRate a.cfg.bandRate)] })) ∧
  (∀ (h : CmdHdr) (c : BitVec 8) (decode : Bool) (addr : Word64) (evq : BitVec 18) (s : State), s.chanWaits h.sq c.toNat = false → 128 ≤ c.toNat →
    (s.ready (.channelCreate h c decode addr evq) h → exec (.channelCreate h c decode addr evq) s = .next (s.answered (s.taken h) h (Reply.field St.badChannel 4))) ∧
    (s.ready (.channelConfigure h c addr) h → exec (.channelConfigure h c addr) s = .next (s.answered (s.taken h) h (Reply.field St.badChannel 4)))) ∧
  (∀ (h : CmdHdr) (c : BitVec 8) (decode : Bool) (addr : Word64) (evq : BitVec 18) (s : State), s.chanWaits h.sq c.toNat = false → c.toNat < 128 →
    (s.ready (.channelCreate h c decode addr evq) h → (s.channel c.toNat).state ≠ .idle →
      exec (.channelCreate h c decode addr evq) s = .next (s.answered (s.taken h) h { status := St.badState })) ∧
    (s.ready (.channelConfigure h c addr) h → (s.channel c.toNat).state ≠ .configured → (s.channel c.toNat).state ≠ .stopped →
      exec (.channelConfigure h c addr) s = .next (s.answered (s.taken h) h { status := St.badState })))

/-- CHANNEL_START, CHANNEL_STOP, CHANNEL_DESTROY and FORCE_INTRA (R294, R295, R191, R93, R310). A START that no check refuses arms the channel for its
start time, everything of an earlier run gone, and answers SSRC, SEQ0 and T_PIC0_NS; on a twin channel whose peer has not sent its ARM, the ARM leaves
and the command waits. A STOP of a RUNNING channel sets its stop time, the fetch of its entry at the earliest; an ARMED channel that holds no picture
yet becomes STOPPED with its CH_STOPPED event, a FAULTED one STOPPED without. DESTROY of a channel without bound flows makes it IDLE and ends its
subscriptions. FORCE_INTRA adds the picture it aims at, and answers it. No other channel and nothing else changes; the commands are refused with
BAD_STATE in the other states. -/
def Obligations.ChannelsStartAndStop : Prop :=
  (∀ (h : CmdHdr) (c : BitVec 8) (sec : BitVec 48) (ns : BitVec 32) (s : State), s.ready (.channelStart h c false sec ns) h → c.toNat < 128 → s.chanWaits h.sq c.toNat = false →
    s.twinChannel c.toNat = false → (s.taken h).startRefusal c.toNat false sec.toNat ns.toNat (s.fetchTime h.sq) = none →
    let t0 := 1000000000 * sec.toNat + ns.toNat
    let u := (s.taken h).modChannel c.toNat fun x => { x.arm t0 .inStep false with digest := x.digestAt t0 }
    exec (.channelStart h c false sec ns) s = .next (s.answered u h { status := St.ok, result := (u.channel c.toNat).startResult c.toNat })) ∧
  (∀ (h : CmdHdr) (c : BitVec 8) (sec : BitVec 48) (ns : BitVec 32) (s : State), s.ready (.channelStart h c false sec ns) h → c.toNat < 128 → s.chanWaits h.sq c.toNat = false →
    s.twinChannel c.toNat = true → (s.findDeferred fun o => decide (o = .twinStart) || decide (o = .twinRejoin)) = none →
    s.peerArm c.toNat = none → s.host.deferred.length < 16 → (s.taken h).startRefusal c.toNat false sec.toNat ns.toNat (s.fetchTime h.sq) = none →
    let t0 := 1000000000 * sec.toNat + ns.toNat
    let dg := (s.channel c.toNat).digestAt t0
    let u := ((s.taken h).setOwnArm c.toNat (some (dg, t0))).twSend (.arm c.toNat dg t0)
    exec (.channelStart h c false sec ns) s = .next (s.left (u.addDeferred
      { sq := h.sq, cid := h.cid.toNat, idx := s.indexAfter h.sq, op := .channelStart c.toNat false, since := u.now }) h)) ∧
  (∀ (h : CmdHdr) (c : BitVec 8) (sec : BitVec 48) (ns : BitVec 32) (s : State), s.ready (.channelStop h c sec ns) h → c.toNat < 128 → s.chanWaits h.sq c.toNat = false → ns.toNat < 1000000000 →
    ((s.channel c.toNat).state = .running → exec (.channelStop h c sec ns) s = .next (s.answered ((s.taken h).modChannel c.toNat fun x =>
      { x with stopNs := some (max (s.fetchTime h.sq) (1000000000 * sec.toNat + ns.toNat)) }) h { status := St.ok })) ∧
    ((s.channel c.toNat).state = .faulted → exec (.channelStop h c sec ns) s = .next (s.answered ((s.taken h).modChannel c.toNat fun x =>
      { x with state := .stopped }) h { status := St.ok })) ∧
    ((s.channel c.toNat).state = .armed → (s.channel c.toNat).pics = [] → exec (.channelStop h c sec ns) s = .next (s.answered
      (((s.taken h).modChannel c.toNat fun x => { x with state := .stopped, stopNs := none, rc := { x.rc with pending := [] } }).raise
        (Src.tambour + (s.channel c.toNat).tambour) Kind.chStopped (addrC c.toNat) 0) h { status := St.ok })) ∧
    ((s.channel c.toNat).state ≠ .running → (s.channel c.toNat).state ≠ .faulted → (s.channel c.toNat).state ≠ .armed →
      exec (.channelStop h c sec ns) s = .next (s.answered (s.taken h) h { status := St.badState }))) ∧
  (∀ (h : CmdHdr) (c : BitVec 8) (s : State), s.ready (.channelDestroy h c) h → c.toNat < 128 → s.chanWaits h.sq c.toNat = false →
    (((s.channel c.toNat).state = .configured ∨ (s.channel c.toNat).state = .stopped ∨ (s.channel c.toNat).state = .faulted) →
      s.ingressOf c.toNat = [] → s.egressOf c.toNat = [] →
      exec (.channelDestroy h c) s = .next (s.answered { s.taken h with codec := { s.codec with channels := SMap.set (fun _ => {}) s.codec.channels c.toNat {}, subs := s.codec.subs.filter fun v => !(decide (v.kind = 0) && decide (v.source = c.toNat)) } } h { status := St.ok })) ∧
    (((s.channel c.toNat).state = .idle ∨ (s.channel c.toNat).state.live = true) →
      exec (.channelDestroy h c) s = .next (s.answered (s.taken h) h { status := St.badState }))) ∧
  (∀ (h : CmdHdr) (c : BitVec 8) (s : State), s.ready (.forceIntra h c) h → c.toNat < 128 → s.chanWaits h.sq c.toNat = false → (s.channel c.toNat).decode = false →
    ((s.channel c.toNat).state = .armed ∨ (s.channel c.toNat).state = .running) →
    let p := (s.channel c.toNat).forceTarget
    exec (.forceIntra h c) s = .next (s.answered ((s.taken h).modChannel c.toNat fun x =>
      { x with rc := { x.rc with force := if p ∈ x.rc.force then x.rc.force else x.rc.force ++ [p] } }) h { status := St.ok, result := p % 2 ^ 32 }))

/-- Picture plans from the host, a mailbox and the vendor controller (R128, R129, R130, R131, R132, R135). PICTURE_PLAN reads 192 bytes of host memory; a
plan that the checks of R129 and R132 pass joins the channel's pending plans, in order, and completes with OK; one that they refuse changes nothing
and completes with the status. A mailbox slot with OWN = 1 is taken the same way, and its control word becomes STATUS in bits 15-8 with OWN = 0; a
slot with OWN = 0 is left alone; firmware's writing of a plan is the plan's 192 bytes and OWN = 1. The vendor controller's next plan goes to slot 0 of
an ARMED or RUNNING encode channel that it plans. No other channel, register or byte changes. -/
def Obligations.PlansAreEntered : Prop :=
  (∀ (h : CmdHdr) (c : BitVec 8) (addr : Word64) (v : Nat) (s : State), s.ready (.picturePlan h c addr) h → c.toNat < 128 → s.chanWaits h.sq c.toNat = false →
    s.hostRead addr.toNat 192 = some v →
    let st := (s.channel c.toNat).planStatus c.toNat v (decide ((s.channel c.toNat).cfg.rcSource = 2) && !s.isFollower)
    (st = 0 → exec (.picturePlan h c addr) s = .next (s.answered ((s.taken h).modChannel c.toNat fun x =>
      { x with rc := { x.rc with pending := x.rc.pending ++ [planOf v] } }) h { status := St.ok })) ∧
    (st ≠ 0 → ∃ d, exec (.picturePlan h c addr) s = .next (s.answered (s.taken h) h { status := st, detail := d }))) ∧
  (∀ (c k : Nat) (customer : Bool) (s : State), c < 128 → k < 4 → bitAt (s.shwRead (mailboxSlot c k + 0xC0) 4) 0 = true →
    let v := s.shwRead (mailboxSlot c k) 192
    let st := (s.channel c).planStatus c v (decide ((s.channel c).cfg.rcSource = b2n customer) && !s.isFollower)
    exec (.mailboxPlan c k customer none) s = .next
      ((if st = 0 then s.modChannel c fun x => { x with rc := { x.rc with pending := x.rc.pending ++ [planOf v] } } else s).shwWrite
        (mailboxSlot c k + 0xC0) 4 (256 * st))) ∧
  (∀ (c k : Nat) (customer : Bool) (s : State), c < 128 → k < 4 → bitAt (s.shwRead (mailboxSlot c k + 0xC0) 4) 0 = false →
    exec (.mailboxPlan c k customer none) s = .next s) ∧
  (∀ (c k v : Nat) (customer : Bool) (s : State), c < 128 → k < 4 → exec (.mailboxPlan c k customer (some v)) s =
    exec (.mailboxPlan c k customer none) ((s.shwWrite (mailboxSlot c k) 192 v).shwWrite (mailboxSlot c k + 0xC0) 4 1)) ∧
  (∀ (c : Nat) (s : State), c < 128 → (s.channel c).decode = false → (s.channel c).cfg.rcSource = 0 → (s.channel c).rc.planned = false →
    ((s.channel c).state = .armed ∨ (s.channel c).state = .running) → s.isFollower = false →
    exec (.rcPlan c) s = .next (((s.modChannel c fun x => { x with rc := { x.rc with planned := true } }).shwWrite (mailboxSlot c 0) 192
      (((s.channel c).vendorPlan (s.channel c).planNext).record c)).shwWrite (mailboxSlot c 0 + 0xC0) 4 1)) ∧
  (∀ (c : Nat) (s : State), c < 128 → ((s.channel c).decode = true ∨ (s.channel c).cfg.rcSource ≠ 0 ∨ (s.channel c).rc.planned = true) →
    exec (.rcPlan c) s = .next s)

/-- FLOW_BIND, UNBIND and MEMBERSHIP_REPORT (R296, R360, R361, R362, R363, R369, R304). A 128-byte record that passes the checks binds the flow entry to
the channel and port with the record's fields: an ingress entry with its policer's bucket full, its meters empty and its queue 8,192 + flow, joining
its multicast group when JOIN says so; an egress entry with its queue 10,240 + flow. A LEN of 0 or other than 128, and a bound entry, are refused.
UNBIND of a bound entry whose queue is empty empties entry and queue, and an ingress flow leaves its group; an unbound entry is refused with
BAD_STATE. Firmware's membership report sends the first report due for the flow as a frame of the port's management flow, 2,040 + port; where its
cells are refused the report stays due. -/
def Obligations.FlowsAreBoundAndUnbound : Prop :=
  (∀ (h : CmdHdr) (c : BitVec 8) (flow : BitVec 11) (port : BitVec 3) (addr : Word64) (v : Nat) (s : State), s.ready (.flowBind h c flow false false port addr 128) h → s.chanWaits h.sq c.toNat = false →
    s.hostRead addr.toNat 128 = some v → (s.iflow flow.toNat).bound = false → (iflowOf v).badField = none →
    s.channelFits c.toNat (iflowOf v).kind false = true → s.channelFree c.toNat = true → s.ingressFits c.toNat port.toNat (iflowOf v) = none →
    let f : IFlow := { iflowOf v with bound := true, channel := (if c.toNat = 0xFF then none else some c.toNat), port := port.toNat, bucket := 8000000000 * (iflowOf v).burst }
    let q : Queue := { valid := true, base := 0x1F8000000 + 0x8000 * flow.toNat, space := .hbm, ty := .ifq, log2 := 11, owner := 19 }
    let w := (((s.taken h).modIflow flow.toNat fun _ => f).modQueue (8192 + flow.toNat) fun _ => q).restartInterval 1 flow.toNat
    let u := { w with codec := { w.codec with meters := SMap.set (fun _ => {}) w.codec.meters flow.toNat {}, lastSeq := SMap.set (fun _ => none) w.codec.lastSeq flow.toNat none } }
    exec (.flowBind h c flow false false port addr 128) s = .next (s.answered
      (if f.join && multicast f.ipv6 f.dstAddr then
        { u with net := u.net.joinGroup ⟨port.toNat, f.ipv6, f.dstAddr, (if f.srcAny then 0 else f.srcAddr), flow.toNat, some true, false⟩ } else u) h
      { status := St.ok })) ∧
  (∀ (h : CmdHdr) (c : BitVec 8) (flow : BitVec 11) (solo : Bool) (port : BitVec 3) (addr : Word64) (v : Nat) (s : State), s.ready (.flowBind h c flow true solo port addr 128) h →
    s.chanWaits h.sq c.toNat = false → s.hostRead addr.toNat 128 = some v → flow.toNat < 2032 → (s.eflow flow.toNat).bound = false →
    (eflowOf v).badField = none → s.channelFits c.toNat (eflowOf v).kind true = true → s.channelFree c.toNat = true →
    (c.toNat = 0xFF ∨ ((s.egressOf c.toNat).filter fun (e : Nat × EFlow) => e.2.solo == solo).length < 4) →
    (c.toNat = 0xFF ∨ (eflowOf v).largest (s.channel c.toNat).cfg ≤ s.portFrame port.toNat) →
    (solo = true → c.toNat ≠ 0xFF ∧ s.twinChannel c.toNat = true) →
    ((eflowOf v).kind = 0 → c.toNat ≠ 0xFF → ∀ e ∈ s.egressOf c.toNat, e.2.kind = 0 → e.2.ssrc = (eflowOf v).ssrc ∧ e.2.pt = (eflowOf v).pt) →
    let f : EFlow := { eflowOf v with bound := true, channel := (if c.toNat = 0xFF then none else some c.toNat), port := port.toNat, solo := solo }
    let q : Queue := { valid := true, base := 0x1FC000000 + 0x8000 * flow.toNat, space := .hbm, ty := .efq, log2 := 11, owner := 19 }
    exec (.flowBind h c flow true solo port addr 128) s = .next (s.answered
      (((s.taken h).modEflow flow.toNat fun _ => f).modQueue (10240 + flow.toNat) fun _ => q) h { status := St.ok })) ∧
  (∀ (h : CmdHdr) (c : BitVec 8) (flow : BitVec 11) (egress solo : Bool) (port : BitVec 3) (addr : Word64) (len : BitVec 24) (s : State), s.ready (.flowBind h c flow egress solo port addr len) h →
    s.chanWaits h.sq c.toNat = false →
    (len = 0 → exec (.flowBind h c flow egress solo port addr len) s = .next (s.answered (s.taken h) h (Reply.field St.lenZero 0x18))) ∧
    (len ≠ 0 → len ≠ 128 → exec (.flowBind h c flow egress solo port addr len) s = .next (s.answered (s.taken h) h (Reply.field St.badFormat 0x18)))) ∧
  (∀ (h : CmdHdr) (flow : BitVec 11) (s : State), s.ready (.unbind h flow false) h → (s.iflow flow.toNat).bound = true → (s.queue (8192 + flow.toNat)).isEmpty = true →
    let u := ((s.taken h).modIflow flow.toNat fun _ => {}).modQueue (8192 + flow.toNat) fun _ => {}
    exec (.unbind h flow false) s = .next (s.answered { u with net := u.net.leaveGroup flow.toNat } h { status := St.ok })) ∧
  (∀ (h : CmdHdr) (flow : BitVec 11) (s : State), s.ready (.unbind h flow true) h → flow.toNat < 2032 → (s.eflow flow.toNat).bound = true →
    (s.queue (10240 + flow.toNat)).isEmpty = true →
    exec (.unbind h flow true) s = .next (s.answered (((s.taken h).modEflow flow.toNat fun _ => {}).modQueue (10240 + flow.toNat) fun _ => {}) h
      { status := St.ok })) ∧
  (∀ (h : CmdHdr) (flow : BitVec 11) (s : State),
    (s.ready (.unbind h flow false) h → (s.iflow flow.toNat).bound = false → exec (.unbind h flow false) s = .next (s.answered (s.taken h) h (Reply.field St.badState 8))) ∧
    (s.ready (.unbind h flow true) h → (s.eflow flow.toNat).bound = false → exec (.unbind h flow true) s = .next (s.answered (s.taken h) h (Reply.field St.badState 8)))) ∧
  (∀ (flow : Nat) (m : Member) (rest : List Member) (s : State), flow < 2048 → s.net.members = m :: rest → m.flow = flow → m.due ≠ none →
    let r := s.fwSend (2040 + m.port) (s.reportFrame m)
    r.1.net.members = s.net.members ∧
    (r.2 = true → m.due = some false → exec (.membershipReport flow) s = .next { r.1 with net := { r.1.net with reports := (m.port, m.group, false) :: r.1.net.reports, members := rest } }) ∧
    (r.2 = true → m.due = some true → m ∉ rest → exec (.membershipReport flow) s = .next { r.1 with net := { r.1.net with reports := (m.port, m.group, true) :: r.1.net.reports, members := { m with due := none, answer := false } :: rest } }) ∧
    (r.2 = false → exec (.membershipReport flow) s = .next r.1))

/-- GATE_LIST_LOAD, GATE_SWITCH, GATE_ENTRY_END, SHAPER_SET and SHAPER_REFILL (R296, R372, R373, R376, R379, R380). A gate list that R376 accepts is read
from host memory and becomes the port's pending list, for the first cycle at least 2 us on, or waits behind a pending list that switches sooner. At
its switch time the pending list comes into force, based at that time, with the windows of its classes, and GATE_SWITCH is raised; the list that
waited becomes pending. At an entry's end the entry in force shows on the port. SHAPER_SET of a bound flow with a burst of at least its largest frame
and 20 bytes and a rate of at most 100 Gbit/s waits for its refill boundary; the refill adds the tokens of the ticks that have passed. No other port,
flow or state changes. -/
def Obligations.GatesAndShapersAreSet : Prop :=
  (∀ (h : CmdHdr) (port : BitVec 3) (count : BitVec 10) (addr : Word64) (sec : BitVec 48) (ns cycle : BitVec 32) (v : Nat) (s : State), s.ready (.gateListLoad h port count addr sec ns cycle) h → h.sq = 0 →
    s.hostRead addr.toNat (8 * (count.toNat + 1)) = some v →
    let es := (List.range (count.toNat + 1)).map fun i => (bitsAt v (64 * i) 8, bitsAt v (64 * i + 32) 32)
    gateListRefusal es ns.toNat cycle.toNat = none →
    let l : GateList := { entries := es, base := 1000000000 * sec.toNat + ns.toNat, cycle := cycle.toNat }
    let e := (l, firstCycle l.base l.cycle (s.now + 2000))
    exec (.gateListLoad h port count addr sec ns cycle) s = .next (s.answered ((s.taken h).modGate port.toNat fun g =>
      match g.pending with
      | none => { g with pending := some e }
      | some p => if p.2 < s.now + 2000 then { g with next := some e } else { g with pending := some e, next := none }) h { status := St.ok })) ∧
  (∀ (port : Nat) (l : GateList) (sw : Nat) (s : State), port < 8 → (s.gate port).pending = some (l, sw) → sw ≤ s.now →
    ∃ g : Gate, exec (.gateSwitch port) s = .next ((s.modGate port fun _ => g).raise (Src.gate + port) Kind.gateSwitch 0 (flowDetail 0 port)) ∧
      g.oper = some { l with base := sw } ∧ g.pending = (s.gate port).next ∧ g.next = none ∧
      g.windows = (List.range 8).map { l with base := sw : GateList }.window) ∧
  (∀ (port : Nat) (s : State), port < 8 → ((s.gate port).pending = none ∨ ∃ p, (s.gate port).pending = some p ∧ s.now < p.2) →
    exec (.gateSwitch port) s = .next s) ∧
  (∀ (port : Nat) (l : GateList) (s : State), port < 8 → (s.gate port).oper = some l →
    ((s.gate port).entry ≠ (l.at_ s.now).1 ∨ (s.gate port).gates ≠ (l.at_ s.now).2.1) →
    exec (.gateEntryEnd port) s = .next (s.modGate port fun g => { g with entry := (l.at_ s.now).1, gates := (l.at_ s.now).2.1, since := s.now })) ∧
  (∀ (h : CmdHdr) (flow : BitVec 11) (k : BitVec 4) (rate : BitVec 40) (burst : BitVec 24) (s : State), s.ready (.shaperSet h flow k rate burst) h → (s.eflow flow.toNat).bound = true →
    burst ≠ 0 → s.largestFrame (s.eflow flow.toNat) + 20 ≤ burst.toNat → rate.toNat ≤ 100000000000 →
    let g := (s.eflow flow.toNat).refill s.ptpTicks
    exec (.shaperSet h flow k rate burst) s = .next (s.answered ((s.taken h).modEflow flow.toNat fun _ =>
      { g with pendSet := some ⟨k.toNat, rate.toNat, burst.toNat⟩, lastRef := if g.rate = 0 then s.ptpTicks else g.lastRef }) h
      { status := St.ok })) ∧
  (∀ (h : CmdHdr) (flow : BitVec 11) (k : BitVec 4) (rate : BitVec 40) (burst : BitVec 24) (s : State), s.ready (.shaperSet h flow k rate burst) h →
    ((s.eflow flow.toNat).bound = false → exec (.shaperSet h flow k rate burst) s = .next (s.answered (s.taken h) h (Reply.field St.badState 8))) ∧
    ((s.eflow flow.toNat).bound = true → burst = 0 → exec (.shaperSet h flow k rate burst) s = .next (s.answered (s.taken h) h (Reply.field St.lenZero 0x18)))) ∧
  (∀ (flow n : Nat) (s : State), flow < 2048 → (s.eflow flow).bound = true → (s.eflow flow).pendSet = none → (s.eflow flow).rate ≠ 0 →
    (s.eflow flow).lastRef ≤ s.ptpTicks → n = s.ptpTicks / 2 ^ (s.eflow flow).k - (s.eflow flow).lastRef / 2 ^ (s.eflow flow).k →
    n ≠ 0 →
    let gain := n * ((s.eflow flow).rate * 2 ^ (s.eflow flow).k * 40) + (s.eflow flow).carry
    exec (.shaperRefill flow) s = .next (s.modEflow flow fun f => { f with tokens := min (8 * f.burst) (f.tokens + gain / 1000000000), carry := gain % 1000000000, lastRef := s.ptpTicks / 2 ^ f.k * 2 ^ f.k }))

/-- STATS_SUBSCRIBE, STATS_UNSUBSCRIBE and STATS_INTERVAL_END (R183, R186, R187, R298). A subscription that the checks pass joins the others, replacing
its own earlier one (an interval in progress of a flow or port ends then, with PARTIAL), and starts its ring's sequence when it is the ring's first;
its end takes it away. At the end of the one interval of a flow or port that is due on its ring, its record goes to its ring while the flow is bound
or the port enabled, and the next interval begins where this one ended. Subscriptions of other sources stay. -/
def Obligations.SubscriptionsAndIntervals : Prop :=
  (∀ (h : CmdHdr) (qid : BitVec 18) (kind : BitVec 2) (source : BitVec 11) (classes : BitVec 3) (ms : BitVec 14) (us : BitVec 10) (s : State), s.ready (.statsSubscribe h qid kind source classes ms us) h →
    (kind = 0 → s.chanWaits h.sq source.toNat = false ∧ (s.channel source.toNat).state ≠ .idle ∧ classes ≠ 0 ∧ (bitAt classes.toNat 2 = true → bitAt classes.toNat 1 = true)) →
    (kind ≠ 0 → ms ≠ 0 ∧ ms.toNat ≤ 10000) → s.subSourceCheck qid.toNat kind.toNat source.toNat = none →
    let mine (v : Sub) : Bool := decide (v.kind = kind.toNat) && decide (v.source = source.toNat)
    (s.codec.subs.any (fun v => mine v && decide (v.qid = qid.toNat)) = true ∨ ((s.codec.subs.filter mine).length < 4 ∧ s.codec.subs.length < 4096)) →
    (kind = 0 ∨ s.codec.subs.any (fun v => mine v && decide (v.qid = qid.toNat)) = false) →
    let new : Sub := { kind := kind.toNat, source := source.toNat, qid := qid.toNat, classes := (if kind = 0 then classes.toNat else 0), interval := (if kind = 0 then 0 else ms.toNat), coalesce := us.toNat, since := s.now }
    let u := { s.taken h with codec := { s.codec with subs := (s.codec.subs.filter fun v => !(mine v && decide (v.qid = qid.toNat))) ++ [new] } }
    exec (.statsSubscribe h qid kind source classes ms us) s = .next (s.answered
      (if s.codec.subs.any (fun v => decide (v.qid = qid.toNat)) then u else u.modQueue qid.toNat fun v => { v with seq := 0, afterLoss := false }) h
      { status := St.ok })) ∧
  (∀ (h : CmdHdr) (qid : BitVec 18) (kind : BitVec 2) (source : BitVec 11) (classes : BitVec 3) (ms : BitVec 14) (us : BitVec 10) (v : Sub) (s : State),
    s.ready (.statsSubscribe h qid kind source classes ms us) h → kind ≠ 0 → ms ≠ 0 → ms.toNat ≤ 10000 → s.subSourceCheck qid.toNat kind.toNat source.toNat = none →
    (s.codec.subs.filter fun v => decide (v.kind = kind.toNat) && decide (v.source = source.toNat) && decide (v.qid = qid.toNat)) = [v] →
    let new : Sub := { kind := kind.toNat, source := source.toNat, qid := qid.toNat, interval := ms.toNat, coalesce := us.toNat, since := s.now }
    let t := (s.taken h).closeInterval v true s.now
    exec (.statsSubscribe h qid kind source classes ms us) s = .next (s.answered { t with codec := { t.codec with subs := (s.codec.subs.filter fun v => decide (¬(v.kind = kind.toNat ∧ v.source = source.toNat ∧ v.qid = qid.toNat))) ++ [new] } } h { status := St.ok })) ∧
  (∀ (h : CmdHdr) (qid : BitVec 18) (kind : BitVec 2) (source : BitVec 11) (s : State), s.ready (.statsUnsubscribe h qid kind source) h → (kind = 0 → s.chanWaits h.sq source.toNat = false) →
    s.subSourceCheck qid.toNat kind.toNat source.toNat = none → (kind = 0 → (s.channel source.toNat).state ≠ .idle) →
    exec (.statsUnsubscribe h qid kind source) s = .next (s.answered { s.taken h with codec := { s.codec with subs := s.codec.subs.filter fun v => decide (¬(v.kind = kind.toNat ∧ v.source = source.toNat ∧ v.qid = qid.toNat)) } } h { status := St.ok })) ∧
  (∀ (kind source : Nat) (v : Sub) (s : State), ((kind = 1 ∧ source < 2048) ∨ (kind = 2 ∧ source < 8)) →
    (s.codec.subs.filter fun x => decide (x.kind = kind) && decide (x.source = source) && decide (x.ends ≤ s.now)) = [v] →
    (s.codec.subs.filter fun x => decide (x.kind ≠ 0) && decide (x.ends ≤ s.now) && decide (x.qid = v.qid)) = [v] → s.now < v.ends + v.span → v.interval ≠ 0 →
    let b := if v.kind = 1 then s.drainFlow v.source v.ends else s
    let w := b.subOf v
    let p := w.isPartial || !(b.port (b.sourcePort w)).linkUp
    let r := if s.recordsFlow v = false then b else if v.kind = 1 then b.putRecord v.qid v.coalesce 4 1 (b.flowRecord w p)
      else b.putRecord v.qid v.coalesce 5 1 (b.portRecord w)
    exec (.statsIntervalEnd kind source) s = .next { r with codec := { r.codec with subs := r.codec.subs.map fun x => if x.kind = v.kind ∧ x.source = v.source ∧ x.qid = v.qid then { x with since := v.ends, isPartial := false, meas := x.meas.next } else x } })

/-- PRICKING_LOAD and FIRMWARE_LOAD, and their ends (R251, R255, R290, R297, R415). A load whose container is read and passes every check begins its write
step and completes later, as one of at most 16 deferred commands; the region of each named store is LOADING meanwhile, but for a patch of an open
region that holds no image; another load of the same store, or of the same target, waits. At the end of the step the stores hold the words, the load
is over, and its command completes with OK; a firmware image is in the shared window, its cores have restarted, and the vendor's image restarts the
clock servo. With 16 commands outstanding the load completes with BUSY. -/
def Obligations.LoadsOfStoresAndFirmware : Prop :=
  (∀ (h : CmdHdr) (mask : BitVec 8) (addr : Word64) (len : BitVec 24) (l : List Nat) (s : State), s.ready (.prickingLoad h mask addr len) h → h.sq = 0 → (s.prkLoad.any fun l => decide (l.mask &&& mask.toNat ≠ 0)) = false → mask ≠ 0 →
    s.host.deferred.length < 16 → (s.taken h).readContainer addr.toNat len.toNat = .inr l → (s.taken h).prkRefusal mask.toNat l = none →
    let ld := prkLoadOf mask.toNat l
    let u := (s.taken h).modStores mask.toNat fun p => if ld.opened then { p with oState := if ld.patch = true ∧ p.oState ≠ 2 then p.oState else 1 } else { p with vState := 1 }
    exec (.prickingLoad h mask addr len) s = .next (s.left ({ u with prkLoad := s.prkLoad ++ [ld] }.addDeferred
      { sq := h.sq, cid := h.cid.toNat, idx := s.indexAfter h.sq, op := .prickingLoad mask.toNat, since := s.now }) h)) ∧
  (∀ (h : CmdHdr) (mask : BitVec 8) (addr : Word64) (len : BitVec 24) (s : State), s.ready (.prickingLoad h mask addr len) h → h.sq = 0 → (s.prkLoad.any fun l => decide (l.mask &&& mask.toNat ≠ 0)) = false → mask ≠ 0 →
    16 ≤ s.host.deferred.length → exec (.prickingLoad h mask addr len) s = .next (s.answered
      ((s.taken h).modStores mask.toNat fun p => { p with lastStatus := St.busy }) h { status := St.busy })) ∧
  (∀ (l : PrkLoad) (rest : List PrkLoad) (s : State), s.prkLoad = l :: rest →
    let u := ({ s with prkLoad := rest }.modStores l.mask fun p => p.write l).modStores l.mask fun p => { p with lastStatus := St.ok }
    ((u.findDeferred fun o => decide (o = .prickingLoad l.mask)) = none → exec .prickingLoadWriteEnd s = .next u) ∧
    (∀ d, (u.findDeferred fun o => decide (o = .prickingLoad l.mask)) = some d →
      exec .prickingLoadWriteEnd s = .next ({ u with host := { u.host with deferred := u.host.deferred.erase d } }.postCompletion d.sq d.cid (s.indexAfter d.sq)
        { status := St.ok }))) ∧
  (∀ (h : CmdHdr) (customer : Bool) (addr : Word64) (len : BitVec 24) (l : List Nat) (s : State), s.ready (.firmwareLoad h customer addr len) h → h.sq = 0 → (s.fw.load.any fun l => decide (l.1 = customer)) = false →
    s.host.deferred.length < 16 → (s.taken h).readContainer addr.toNat len.toNat = .inr l → (s.taken h).fwRefusal customer l = none →
    exec (.firmwareLoad h customer addr len) s = .next (s.left
      ({ s.taken h with fw := { s.fw with load := s.fw.load ++ [(customer, conBody l, conVersion l)] } }.addDeferred
        { sq := h.sq, cid := h.cid.toNat, idx := s.indexAfter h.sq, op := .firmwareLoad customer, since := s.now }) h)) ∧
  (∀ (h : CmdHdr) (customer : Bool) (addr : Word64) (len : BitVec 24) (s : State), s.ready (.firmwareLoad h customer addr len) h → h.sq = 0 → (s.fw.load.any fun l => decide (l.1 = customer)) = false →
    16 ≤ s.host.deferred.length → exec (.firmwareLoad h customer addr len) s = .next (s.answered (s.taken h) h { status := St.busy })) ∧
  (∀ (customer : Bool) (body : List Nat) (version : Nat) (rest : List (Bool × List Nat × Nat)) (s : State), s.fw.load = (customer, body, version) :: rest →
    let u := { s with fw := { s.fw with load := rest } }.placeFirmware customer body version
    let u := if customer then u else { u with time := u.time.fwRestart u.now }
    ((u.findDeferred fun o => decide (o = .firmwareLoad customer)) = none → exec .firmwareLoadEnd s = .next u) ∧
    (∀ d, (u.findDeferred fun o => decide (o = .firmwareLoad customer)) = some d →
      exec .firmwareLoadEnd s = .next ({ u with host := { u.host with deferred := u.host.deferred.erase d } }.postCompletion d.sq d.cid (s.indexAfter d.sq)
        { status := St.ok })) ∧
    u.shw = Memory.writeBytes zeroDefault s.shw (if customer then 0x600000 else 0) (body.map (BitVec.ofNat 8)) ∧
    (customer = true → u.fw.ctrlVer = version ∧ u.fw.ctrlLoaded = true ∧ u.fw.ctrlSha = sha256 body ∧ u.time = s.time) ∧
    (customer = false → u.fw.vendorVer = version ∧ u.fw.vendorSha = sha256 body ∧ u.time.slavePort = none ∧
      (s.time.servo = .locked → u.time.servo = .holdover)))

/-- TIME_CONTROL CLOCK, PORT, REFERENCE, SET_TIME and TIMECODE (R402, R404, R298). CLOCK with a DOMAIN of at most 127 and a listed role, TIMECODE always,
PORT with intervals in range (and on an ordinary clock no other enabled port) and REFERENCE with values in range take their settings; the ports of a
clock that may only be a master that were SLAVE are MASTER; such a clock, and a disabled slave port, leave the time base without a port to follow; the
servo then takes the state that its reference gives it. SET_TIME makes a step of the time base pending and the time VALID, refused with BAD_STATE
while channels run without FORCE and on a twin follower. Each completes with OK and changes nothing else; a field out of range completes with
BAD_FORMAT and its offset, without effect. -/
def Obligations.TimeControlTakesItsSettings : Prop :=
  (∀ (h : CmdHdr) (p : ClockArgs) (s : State), s.ready (.timeControlClock h p) h → h.sq = 0 →
    (p.domain.toNat ≤ 127 → p.role ≠ 3 → exec (.timeControlClock h p) s = .next (s.answered ({ s.taken h with time := { s.time with slavePort := (if p.role = 2 then none else s.time.slavePort), ptp := s.time.ptp.map (fun (e : Nat × PtpLive) => (e.1, e.2.inRole p.role.toNat)), clock := { domain := p.domain.toNat, role := p.role.toNat, slaveOnly := p.slaveOnly, timeSource := p.timeSource.toNat, priority1 := p.priority1.toNat, priority2 := p.priority2.toNat, classLocked := p.classLocked.toNat, classHoldover := p.classHoldover.toNat, classFree := p.classFree.toNat, accuracy := p.accuracy.toNat, variance := p.variance.toNat, holdoverS := p.holdoverS.toNat } } }.servoReview) h { status := St.ok })) ∧
    ((127 < p.domain.toNat ∨ p.role = 3) → exec (.timeControlClock h p) s = .next (s.answered (s.taken h) h (Reply.field St.badFormat 0x0C)))) ∧
  (∀ (h : CmdHdr) (p : PtpPortArgs) (s : State), s.ready (.timeControlPort h p) h → h.sq = 0 → p.transport ≠ 3 →
    let an := signedByte p.logAnnounce
    let sy := signedByte p.logSync
    let dr := signedByte p.logDelayReq
    an ≤ 1 → -3 ≤ an → -7 ≤ sy → sy ≤ -1 → sy ≤ dr → dr ≤ sy + 5 → 2 ≤ p.announceTimeout.toNat → p.announceTimeout.toNat ≤ 10 →
    (p.enable = true → s.time.clock.role = 0 → ∀ e ∈ s.time.ports, e.2.enable = true → e.1 = p.port.toNat) →
    exec (.timeControlPort h p) s = .next (s.answered ({ s.taken h with time := { s.time with slavePort := (if p.enable = false ∧ s.time.slavePort = some p.port.toNat then none else s.time.slavePort), ports := SMap.set (fun _ => {}) s.time.ports p.port.toNat { enable := p.enable, twoStep := p.twoStep, transport := p.transport.toNat, hybrid := p.hybrid, vid := p.vid.toNat, vlan := p.vlan, pcp := p.pcp.toNat, dscp := p.dscp.toNat, logAnnounce := an, logSync := sy, logDelayReq := dr, announceTimeout := p.announceTimeout.toNat, addr := p.addr.toNat }, ptp := SMap.modify (fun _ => {}) s.time.ptp p.port.toNat fun v => { v with portState := if p.enable = false then 3 else if v.portState = 3 then 4 else v.portState } } }.servoReview) h { status := St.ok })) ∧
  (∀ (h : CmdHdr) (p : PtpPortArgs) (s : State), s.ready (.timeControlPort h p) h → h.sq = 0 → p.transport = 3 →
    exec (.timeControlPort h p) s = .next (s.answered (s.taken h) h (Reply.field St.badFormat 0x0C))) ∧
  (∀ (h : CmdHdr) (p : ReferenceArgs) (s : State), s.ready (.timeControlReference h p) h → h.sq = 0 →
    (p.lockNs ≠ 0 → p.lockNs.toNat < p.unlockNs.toNat → 1000 ≤ p.stepNs.toNat → p.rateLimitPpm ≠ 0 → p.rateLimitPpm.toNat ≤ 1000 →
      exec (.timeControlReference h p) s = .next (s.answered ({ s.taken h with time := { s.time with ref := { source := p.source.toNat, steer := p.steer, stepAny := p.stepAny, lockNs := p.lockNs.toNat, unlockNs := p.unlockNs.toNat, stepNs := p.stepNs.toNat, rateLimitPpm := p.rateLimitPpm.toNat } } }.servoReview) h { status := St.ok })) ∧
    ((p.lockNs = 0 ∨ p.unlockNs.toNat ≤ p.lockNs.toNat) →
      exec (.timeControlReference h p) s = .next (s.answered (s.taken h) h (Reply.field St.badFormat 0x10)))) ∧
  (∀ (h : CmdHdr) (relative force : Bool) (sec : BitVec 64) (ns : BitVec 32) (s : State), s.ready (.setTime h relative force sec ns) h → h.sq = 0 →
    (relative = true ∨ ns.toNat < 1000000000) →
    (s.time.follower = false → (s.anyLive = false ∨ force = true) →
      exec (.setTime h relative force sec ns) s = .next (s.answered { s.taken h with time := { s.time with valid := true, step := some (if relative then .by (toSigned 64 sec.toNat) else .to (sec.toNat % 2 ^ 48 * 1000000000 + ns.toNat)) } } h { status := St.ok })) ∧
    ((s.time.follower = true ∨ (s.anyLive = true ∧ force = false)) →
      exec (.setTime h relative force sec ns) s = .next (s.answered (s.taken h) h { status := St.badState }))) ∧
  (∀ (h : CmdHdr) (p : TimecodeArgs) (s : State), s.ready (.timecode h p) h → h.sq = 0 →
    exec (.timecode h p) s = .next (s.answered { s.taken h with time := { s.time with hostTc := timecodeCfg p } } h { status := St.ok }))

/-- QUERY, RESET and DEV_RESET (R270, R290, R294, R299, R300, R307, R503, R506, R507). QUERY, in diagnostic hold too, writes the reply bytes of its
selector to the buffer and answers their number: the 64 bytes of the device, the 192 of a channel that is not IDLE, the 16 of a queue, the session
description of an encode channel, the entries of the fault log oldest first, the 64 of the self-test record. A channel number of 128 or more completes
with BAD_CHANNEL, an IDLE channel with BAD_STATE, a selector of 6 or more with BAD_FORMAT, a buffer of length 0 with LEN_ZERO and one that is too
short with LEN_OVER_BUFFER, each without effect. RESET with a level of 1 or 2 first completes with OK and then asserts the software full reset source:
the sequence is HELD with the source asserted, at most at that level, the safe state is entered, FAULT_N and YIELD_N are driven, and the completion
stays in host memory; another level completes with BAD_FORMAT. DEV_RESET with the key and a level of 1 or 2 does the same to the source; any other
write has no effect. -/
def Obligations.QueriesAndResetsFromTheHost : Prop :=
  (∀ (h : CmdHdr) (obj : BitVec 18) (addr : Word64) (len : BitVec 24) (s : State), h.badCopies = 0 →
    let u := s.taken h
    let free := (List.range 8).map u.freeQ
    (s.canTake (.query h 0 obj addr len) h = true → 64 ≤ len.toNat → exec (.query h 0 obj addr len) s = .next (s.answered { u with hostMem := Memory.writeBytes zeroDefault s.hostMem addr.toNat (bytesOf (packFields ([(32, u.devIdent), (32, u.devCaps), (8, countIn s.codec.channels fun _ x => decide (x.state ≠ .idle)), (24, 0), (10, free.sum), (22, 0)] ++ free.map (fun v => (8, v)) ++ [(32, s.fw.vendorVer), (32, s.fw.ctrlVer), (256, u.fwDigest)])) 64) } h { status := St.ok, result := 64 })) ∧
    (s.canTake (.query h 2 obj addr len) h = true → 16 ≤ len.toNat → exec (.query h 2 obj addr len) s = .next (s.answered { u with hostMem := Memory.writeBytes zeroDefault s.hostMem addr.toNat (bytesOf (s.queue obj.toNat).image 16) } h { status := St.ok, result := 16 })) ∧
    (s.canTake (.query h 4 obj addr len) h = true → 16 * min s.flt.logTotal 256 ≤ len.toNat → len ≠ 0 → exec (.query h 4 obj addr len) s = .next (s.answered { u with hostMem := Memory.writeBytes zeroDefault s.hostMem addr.toNat ((List.range (min s.flt.logTotal 256)).flatMap fun k => bytesOf (SMap.get (fun _ => 0) s.flt.log ((s.flt.logNext + 256 - min s.flt.logTotal 256 + k) % 256)) 16) } h
      { status := St.ok, result := 16 * min s.flt.logTotal 256 })) ∧
    (s.canTake (.query h 5 obj addr len) h = true → 64 ≤ len.toNat → exec (.query h 5 obj addr len) s = .next (s.answered { u with hostMem := Memory.writeBytes zeroDefault s.hostMem addr.toNat (bytesOf s.rst.selfTest 64) } h { status := St.ok, result := 64 }))) ∧
  (∀ (h : CmdHdr) (obj : BitVec 18) (addr : Word64) (len : BitVec 24) (s : State), h.badCopies = 0 →
    s.chanWaits h.sq obj.toNat = false → obj.toNat < 128 → (s.channel obj.toNat).state ≠ .idle →
    let u := s.taken h
    let g := u.gmBytes
    (s.canTake (.query h 1 obj addr len) h = true → 192 ≤ len.toNat → exec (.query h 1 obj addr len) s = .next (s.answered { u with hostMem := Memory.writeBytes zeroDefault s.hostMem addr.toNat (bytesOf (u.channelReply obj.toNat) 192) } h { status := St.ok, result := 192 })) ∧
    (s.canTake (.query h 3 obj addr len) h = true → (s.channel obj.toNat).decode = false → (g.2.sdpText obj.toNat g.1).length ≤ len.toNat → len ≠ 0 →
      exec (.query h 3 obj addr len) s = .next (s.answered { g.2 with hostMem := Memory.writeBytes zeroDefault s.hostMem addr.toNat ((g.2.sdpText obj.toNat g.1).map (BitVec.ofNat 8)) } h
        { status := St.ok, result := (g.2.sdpText obj.toNat g.1).length }))) ∧
  (∀ (h : CmdHdr) (sel : BitVec 4) (obj : BitVec 18) (addr : Word64) (len : BitVec 24) (s : State), s.canTake (.query h sel obj addr len) h = true → h.badCopies = 0 →
    (sel = 1 ∨ sel = 3 → s.chanWaits h.sq obj.toNat = false) →
    (len = 0 → exec (.query h sel obj addr len) s = .next (s.answered (s.taken h) h (Reply.field St.lenZero 0x18))) ∧
    (len ≠ 0 → (sel = 1 ∨ sel = 3) → 128 ≤ obj.toNat →
      exec (.query h sel obj addr len) s = .next (s.answered (s.taken h) h (Reply.field St.badChannel 0x0C))) ∧
    (len ≠ 0 → (sel = 1 ∨ sel = 3) → obj.toNat < 128 → (s.channel obj.toNat).state = .idle →
      exec (.query h sel obj addr len) s = .next (s.answered (s.taken h) h { status := St.badState })) ∧
    (len ≠ 0 → 6 ≤ sel.toNat → exec (.query h sel obj addr len) s = .next (s.answered (s.taken h) h (Reply.field St.badFormat 8))) ∧
    (len ≠ 0 → ((sel = 0 ∨ sel = 5) ∧ len.toNat < 64 ∨ sel = 2 ∧ len.toNat < 16 ∨
        sel = 1 ∧ len.toNat < 192 ∧ obj.toNat < 128 ∧ (s.channel obj.toNat).state ≠ .idle ∨ sel = 4 ∧ len.toNat < 16 * min s.flt.logTotal 256) →
      exec (.query h sel obj addr len) s = .next (s.answered (s.taken h) h (Reply.field St.lenOverBuffer 0x18)))) ∧
  (∀ (h : CmdHdr) (level : BitVec 2) (s : State), s.canTake (.reset h level) h = true → s.noRoom 1 = false → h.sq = 0 → h.badCopies = 0 →
    ((level = 1 ∨ level = 2) → ∃ t, exec (.reset h level) s = .next t ∧ t.rst.state = .held ∧ t.rst.asserted = s.rst.asserted ||| 0x20 ∧
      t.rst.swLevel = level.toNat ∧ t.flt.safe = true ∧ t.faultN = true ∧ t.yieldN = true ∧
      t.rst.deepest = min ({ s with rst := { s.rst with swLevel := level.toNat } }.sourceLevel 5)
        (if s.rst.state = .running ∨ s.rst.state = .selfTest ∨ s.rst.state = .diagHold then 2 else s.rst.deepest) ∧
      t.hostMem = (s.answered (s.taken h) h { status := St.ok }).hostMem) ∧
    ((level = 0 ∨ level = 3) → exec (.reset h level) s = .next (s.answered (s.taken h) h (Reply.field St.badFormat 8)))) ∧
  (∀ (level : BitVec 8) (key : BitVec 24) (s : State),
    (key = 0x525354 → (level = 1 ∨ level = 2) → ∃ t, exec (.devReset level key) s = .next t ∧ t.rst.state = .held ∧
      t.rst.asserted = s.rst.asserted ||| 0x20 ∧ t.rst.swLevel = level.toNat ∧ t.flt.safe = true ∧ t.faultN = true ∧ t.yieldN = true ∧
      t.rst.deepest = min ({ s with rst := { s.rst with swLevel := level.toNat } }.sourceLevel 5)
        (if s.rst.state = .running ∨ s.rst.state = .selfTest ∨ s.rst.state = .diagHold then 2 else s.rst.deepest) ∧
      t.hostMem = s.hostMem) ∧
    ((key ≠ 0x525354 ∨ (level ≠ 1 ∧ level ≠ 2)) → exec (.devReset level key) s = .next s))

/-- TWIN_CONTROL START, STOP, YIELD, REJOIN and RESET_PEER (R190, R198, R201, R220, R221). Without an outstanding twin operation and without the peer's
HELLO, START of a DISABLED device with no live encode channel makes it LINKING in its role, a leader's SESSION being an open value; REJOIN makes a
survivor offer a rejoin as leader and a DISABLED device LINKING as follower; HELLO leaves when the link is up, and the command waits. STOP with no
START or REJOIN outstanding sends BYE and makes the device DISABLED. YIELD of a TWINNED device stops its running channels now and waits. RESET_PEER
sends the request. In the other states the commands complete with BAD_STATE, without effect. -/
def Obligations.TwinCommands : Prop :=
  (∀ (h : CmdHdr) (s : State), h.sq = 0 → s.twinOut = false → s.host.deferred.length < 16 → s.twin.peerHello = none →
    let begun (op : DeferredOp) (phase : TwinPhase) (follower rejoin : Bool) : State :=
      let u := { s.taken h with freeCount := (if follower then s.freeCount else s.freeCount + 1), twin := { s.twin with phase := phase, follower := follower, rejoin := rejoin, startedAt := s.now, refuse := 0, timeLocked := false, lockRun := 0, skewRun := 0, session := (if follower then s.twin.session else Config.freeValue s.freeCount % 2 ^ 32), yielding := false, resyncDue := [], joinDue := [], ownArm := [], peerArm := [] } }
      let u := u.addDeferred { sq := h.sq, cid := h.cid.toNat, idx := s.indexAfter h.sq, op := op, since := s.now }
      if s.twin.link.up then u.twSend (.hello 1 (if follower then 0 else u.twin.session) u.twinReady (!follower)) else u
    (s.ready (.twinStart h) h → s.twin.phase = .disabled → s.encodeLive = false →
      exec (.twinStart h) s = .next (s.left (begun .twinStart .linking s.roleFollower false) h)) ∧
    (s.ready (.rejoin h) h → s.twin.phase = .survivor → exec (.rejoin h) s = .next (s.left (begun .twinRejoin .survivor false true) h)) ∧
    (s.ready (.rejoin h) h → s.twin.phase = .disabled → exec (.rejoin h) s = .next (s.left (begun .twinRejoin .linking true true) h))) ∧
  (∀ (h : CmdHdr) (s : State), s.ready (.twinStop h) h → h.sq = 0 → (s.findDeferred fun o => decide (o = .twinYield)) = none →
    ((s.twin.phase = .disabled ∨ s.encodeLive = false) → s.twinStartOut = none → s.time.follower = false →
      let u := (s.taken h).twSend .bye
      exec (.twinStop h) s = .next (s.answered { u with twin := { u.twin with phase := .disabled, follower := false, rejoin := false, peerHello := none, yielding := false, timeLocked := false } } h { status := St.ok })) ∧
    (s.twin.phase ≠ .disabled → s.encodeLive = true → exec (.twinStop h) s = .next (s.answered (s.taken h) h { status := St.badState }))) ∧
  (∀ (h : CmdHdr) (c : Nat) (x : Channel) (s : State), s.ready (.yield h) h → h.sq = 0 → s.twinOut = false → s.twin.phase = .twinned → s.host.deferred.length < 16 →
    s.codec.channels = [(c, x)] → x.decode = false → x.state = .running →
    exec (.yield h) s = .next (s.left (({ s.taken h with twin := { s.twin with yielding := true } }.modChannel c fun x =>
      { x with stopNs := some s.now }).addDeferred { sq := h.sq, cid := h.cid.toNat, idx := s.indexAfter h.sq, op := .twinYield, since := s.now }) h)) ∧
  (∀ (h : CmdHdr) (s : State), h.sq = 0 → s.twinOut = false →
    (s.ready (.resetPeer h) h → (s.twin.phase = .twinned ∨ s.twin.phase = .survivor) → s.twin.link.up = true →
      exec (.resetPeer h) s = .next (s.answered ((s.taken h).twSend .resetPeer) h { status := St.ok })) ∧
    (s.ready (.resetPeer h) h → (s.twin.link.up = false ∨ (s.twin.phase ≠ .twinned ∧ s.twin.phase ≠ .survivor)) →
      exec (.resetPeer h) s = .next (s.answered (s.taken h) h { status := St.badState })) ∧
    (s.ready (.yield h) h → s.twin.phase ≠ .twinned → exec (.yield h) s = .next (s.answered (s.taken h) h { status := St.badState })) ∧
    (s.ready (.twinStart h) h → (s.twin.phase ≠ .disabled ∨ s.encodeLive = true) → exec (.twinStart h) s = .next (s.answered (s.taken h) h { status := St.badState })) ∧
    (s.ready (.rejoin h) h → s.twin.phase ≠ .disabled → s.twin.phase ≠ .survivor → exec (.rejoin h) s = .next (s.answered (s.taken h) h { status := St.badState })))

/-- The Twilan link comes up, sends, receives and goes down (R192, R193, R194, R195, R199, R223). A link that comes up is fresh and asserts interrupt
source 48, and a device that starts offers HELLO; one that goes down drops what was outstanding and waiting, with the same source. An idle sender
transmits a LINK frame 500 ns after the last frame; a frame that has been outstanding for 4 us is sent again and counted; the bytes of a frame are its
16-byte header, with HCRC, its payload and PCRC. A frame with a bad HCRC, or a bad PCRC, is counted and raised, and what it carries is not taken; the
next frame in order that is whole is accepted, its payload stored in the cells it gets, and its message delivered. -/
def Obligations.TwilanLinkEvents : Prop :=
  (∀ s : State, s.twin.link.up = false →
    let u := { s with twin := { s.twin with link := { up := true, wire := s.twin.link.wire, lastTx := s.now } } }.assertIrq 48
    exec .twilanLinkUp s = .next (if u.awaitsHello then u.twSend u.helloMsg else u)) ∧
  (∀ s : State, s.twin.link.up = true →
    exec .twilanLinkUp s = .next s ∧
    exec .twilanLinkDown s = .next ({ s with twin := { s.twin with peerHello := none, link := { s.twin.link with up := false, outstanding := [], waiting := [] } } }.assertIrq 48)) ∧
  (∀ s : State, s.twin.link.up = false → exec .twilanLinkDown s = .next s) ∧
  (∀ s : State, s.twin.link.up = true → s.flt.safe = false → s.twin.link.waiting = [] → s.twin.link.lastTx + 500 ≤ s.now →
    exec .twilanLinkFrame s = .next { s with twin := { s.twin with link := { s.twin.link with lastTx := s.now, wire := twSent s.twin.link.nextFseq false false s.twin.link.expect s.twin.session none :: s.twin.link.wire } } }) ∧
  (∀ (o : TwFrame) (rest : List TwFrame) (s : State), s.twin.link.up = true → s.flt.safe = false → s.twin.link.outstanding = o :: rest → o.fseq < 65536 →
    o.sentAt + 4000 ≤ s.now → (∀ p ∈ rest, p.fseq ≠ o.fseq) →
    exec (.twilanRetransmit o.fseq) s = .next ({ s with twin := { s.twin with link := { s.twin.link with outstanding := { o with sentAt := s.now } :: rest, lastTx := s.now, wire := twSent o.fseq true false s.twin.link.expect s.twin.session (some o.msg) :: s.twin.link.wire } } }.count (Reg.twn + 0x28) 16 1)) ∧
  (∀ (fseq ack session : Nat) (retx nak : Bool) (msg : Option TwMsg),
    let p := match msg with | some m => twPayload m | none => []
    let h := packFields [(4, match msg with | some m => twClass m | none => 0), (4, 1), (1, b2n retx), (1, b2n nak), (6, 0), (16, fseq), (16, ack), (13, p.length), (3, 0),
      (32, session), (24, 0)]
    (twSent fseq retx nak ack session msg).frame = recBytes h 15 ++ [twHcrc h (twPcrc p)] ++ p ++ recBytes (twPcrc p) 4 ∧
    (msg.isSome = true → (twSent fseq retx nak ack session msg).frame.length = 20 + p.length)) ∧
  (∀ (f : RxTwilan) (s : State), s.twin.link.up = true →
    (twHcrcOk f = false → exec (.twilanFrameReceive f) s = .next ((s.count (Reg.twn + 0x20) 16 1).raise Src.twilan Kind.hdrDamaged 0 (twHdrFseq f.hdr))) ∧
    (twHcrcOk f = true → twPcrcOk f = false → (twHdrClass f.hdr = 0 ∨ s.twin.link.accepted (twHdrFseq f.hdr) = true) →
      exec (.twilanFrameReceive f) s = .next ((s.count (Reg.twn + 0x24) 16 1).raise Src.twilan Kind.payloadDamaged 0 (twHdrFseq f.hdr))) ∧
    (twHcrcOk f = true → twPcrcOk f = true → s.sessionOk f = false → exec (.twilanFrameReceive f) s = .next s)) ∧
  (∀ (f : RxTwilan) (m : TwMsg) (cells : List Nat) (t s : State), s.twin.link.up = true → twHcrcOk f = true → twPcrcOk f = true → s.sessionOk f = true →
    s.twin.link.outstanding = [] → s.twin.link.waiting = [] → s.twin.link.above = [] → twHdrNak f.hdr = false →
    twHdrFseq f.hdr = s.twin.link.expect → s.twin.link.expect < 65536 → twHdrVersion f.hdr = 1 → twHdrClass f.hdr ≠ 0 → twHdrClass f.hdr < 8 →
    twMessage f = some m → State.allocCells (chainLen f.payload.length) s 18 [] = (t, some cells) →
    exec (.twilanFrameReceive f) s = .next ((t.storeFrame cells f.payload).modLink fun l =>
      { l.mark (twHdrFseq f.hdr) with delivered := l.delivered ++ [{ msg := m, cells := cells, at_ := s.nowQ }] })) ∧
  (∀ (v : Nat) (f : RxTwilan), v < 2 ^ 128 → twHdrClass f.hdr = 5 → f.payload = (recBytes v 16).map (BitVec.ofNat 8) → twMessage f = some (.heartbeat v)) ∧
  (∀ l : TwilanSt, l.above = [] → l.mark l.expect =
    { l with expect := (l.expect + 1) % 65536, nakAt := SMap.set (fun _ => none) l.nakAt l.expect none })

/-- HELLO, CHECK, TIME, the TWINNED notice, ARM and START_TIMEOUT (R191, R199, R200, R201, R224, R409). A HELLO with READY brings a device that starts
into CHECKING with its CHECK sent, a follower taking the leader's SESSION; a CHECK that fails refuses the start with its cause, one that passes brings
LOCKING. A follower asks for the time, 10 us after the request before at the earliest, the leader answers with the arrival and sending times, and the
follower takes half the difference of the two delays as its offset and half their sum as the path delay, stepping above 1 us. The notice brings a
leader in LOCKING to TWINNED. The peer's ARM is kept, or meets this device's: equal, the channel is armed; different, the start completes with
TWIN_REFUSED; a withdrawn ARM is gone. A start that waits too long completes with TIMEOUT. -/
def Obligations.TwinStartSequence : Prop :=
  (∀ (v session at_ : Nat) (ready leader : Bool) (cells : List Nat) (rest : List TwDelivered) (s : State),
    let d : TwDelivered := ⟨.hello v session ready leader, cells, at_⟩
    s.twin.link.delivered = d :: rest →
    let b := s.tookMsg d rest
    let u := { b with twin := { b.twin with peerHello := some (session, ready), session := if b.twin.follower && leader && b.awaitsHello then session else b.twin.session } }
    exec .hello s = .next (if ready && u.awaitsHello && u.twin.link.up then
      { u with twin := { u.twin with phase := .checking, peerHello := none } }.twSend u.checkMsg else u)) ∧
  (∀ (version part firmware at_ : Nat) (vendor opened : List Nat) (leader : Bool) (cells : List Nat) (rest : List TwDelivered) (s : State), s.twin.phase = .checking →
    let d : TwDelivered := ⟨.check version part leader vendor opened firmware, cells, at_⟩
    s.twin.link.delivered = d :: rest →
    let b := s.tookMsg d rest
    let cause := b.checkCause version part leader vendor opened firmware
    (cause ≠ 0 → exec .check s = .next ({ b with twin := { b.twin with phase := .refused, refuse := cause } }.endTwinStart St.twinRefused)) ∧
    (cause = 0 → b.twin.follower = false → exec .check s = .next { b with twin := { b.twin with phase := .locking, lockRun := 0, skewRun := 0 } }) ∧
    (cause = 0 → b.twin.follower = true →
      let u := { b with twin := { b.twin with phase := .locking, lockRun := 0, skewRun := 0 }, time := { b.time with follower := true } }.servoTo .acquiring
      exec .check s = .next { u with time := { u.time with entryRate := u.incAdj } })) ∧
  (∀ s : State, s.twin.follower = true → (s.twin.phase = .locking ∨ s.twin.phase = .twinned) →
    (∀ t, s.twin.timeSent = some t → t + 10000 ≤ s.now) →
    exec .timeExchange s = .next ({ s with twin := { s.twin with timeSent := some s.now } }.twSend (.timeRequest s.nowQ))) ∧
  (∀ (t : Nat) (s : State), (s.twin.follower = false ∨ s.twin.timeSent = some t ∧ t ≤ s.now ∧ s.now < t + 10000) → exec .timeExchange s = .next s) ∧
  (∀ (t1 at_ : Nat) (cells : List Nat) (rest : List TwDelivered) (s : State),
    let d : TwDelivered := ⟨.timeRequest t1, cells, at_⟩
    s.twin.link.delivered = d :: rest → (s.tookMsg d rest).twin.follower = false →
    exec .time s = .next ((s.tookMsg d rest).twSend (.timeResponse t1 at_ (s.tookMsg d rest).nowQ))) ∧
  (∀ (t1 t2 t3 t4 : Nat) (cells : List Nat) (rest : List TwDelivered) (s : State),
    let d : TwDelivered := ⟨.timeResponse t1 t2 t3, cells, t4⟩
    s.twin.link.delivered = d :: rest →
    let b := s.tookMsg d rest
    let o : Int := Int.tdiv (((t4 : Int) - t3) - ((t2 : Int) - t1)) 2
    let delay : Int := Int.tdiv (((t2 : Int) - t1) + ((t4 : Int) - t3)) 2
    b.twin.follower = true → b.twin.phase = .twinned →
    (b.field Reg.timeCfg 0 1 = 1 → |o| ≤ 16 → exec .time s = .next { b with twin := { b.twin with timeDelay := delay, timeOfs := o, skewRun := 0 } }) ∧
    (b.field Reg.timeCfg 0 1 = 0 → 4000 < |o| → b.twin.skewRun = 0 →
      exec .time s = .next { b with twin := { b.twin with timeDelay := delay, timeOfs := o, skewRun := 1 }, time := { b.time with step := some (.by (-(Int.tdiv o 4))), valid := true } })) ∧
  (∀ (at_ : Nat) (cells : List Nat) (rest : List TwDelivered) (s : State),
    let d : TwDelivered := ⟨.twinned, cells, at_⟩
    s.twin.link.delivered = d :: rest →
    let b := s.tookMsg d rest
    b.twin.phase = .locking → b.twin.follower = false →
    exec .twinnedNotice s = .next ({ b with twin := { b.twin with phase := .twinned, timeLocked := true, skewRun := 0, hbJudged := b.now, hbMissed := 0 } }.endTwinStart St.ok)) ∧
  (∀ (c dg startNs at_ : Nat) (cells : List Nat) (rest : List TwDelivered) (s : State), c < 128 →
    let d : TwDelivered := ⟨.arm c dg startNs, cells, at_⟩
    s.twin.link.delivered = d :: rest →
    let b := s.tookMsg d rest
    (b.startOf c = none → b.twin.rejoin = false → exec .arm s = .next (b.setPeerArm c (some (dg, startNs)))) ∧
    (∀ (k : Deferred) (join : Bool), b.startOf c = some k → k.op = .channelStart c join →
      let n := (b.setOwnArm c none).setPeerArm c none
      (b.ownArm c = some (dg, startNs) →
        let u := n.modChannel c fun x => { x.arm startNs (if join then .joining else .inStep) join with digest := x.digestAt startNs }
        exec .arm s = .next (u.endDeferred k { status := St.ok, result := (u.channel c).startResult c })) ∧
      (∀ own, b.ownArm c = some own → own ≠ (dg, startNs) → exec .arm s = .next (n.endDeferred k { status := St.twinRefused })))) ∧
  (∀ (c at_ : Nat) (cells : List Nat) (rest : List TwDelivered) (s : State), c < 128 →
    let d : TwDelivered := ⟨.armWithdraw c, cells, at_⟩
    s.twin.link.delivered = d :: rest → exec .arm s = .next ((s.tookMsg d rest).setPeerArm c none)) ∧
  (∀ (k : Deferred) (c : Nat) (join : Bool) (s : State), s.host.deferred = [k] → k.op = .channelStart c join →
    k.since + 10000000 * max 1 (s.field (Reg.twn + 8) 8 8) ≤ s.now →
    exec .startTimeout s = .next (((s.setOwnArm c none).twSend (.armWithdraw c)).endDeferred k { status := St.timeout })) ∧
  (∀ (k : Deferred) (s : State), s.host.deferred = [k] → k.op = .twinStart → s.twin.phase = .linking → s.twin.rejoin = false → s.time.follower = false →
    s.twin.startedAt + 10000000 * max 1 (s.field (Reg.twn + 8) 8 8) ≤ s.now →
    exec .startTimeout s = .next ({ s with twin := { s.twin with phase := .disabled, rejoin := false, refuse := 8, follower := false, timeLocked := false } }.endDeferred k { status := St.timeout }))

/-- Heartbeats, BYE, the yield input, peer reset and yield (R197, R217, R218, R220, R222). A heartbeat leaves once for every multiple of 10 us, at the
first tick of 40 ns from it on, with that time, the next alive value, the state and READY; one that is received in order shows the peer ready, and
counts as seen when it was accepted by 6 us after its time; one that is missing when it is judged is counted, and the third in a row loses the peer.
BYE in TWINNED, and the yield input, lose the peer: a device without live encode channels raises TWIN_LOST, whose DETAIL is open, and becomes
SURVIVOR. A peer's reset request asserts reset source 12 when PEER_RESET_EN allows it. A yield stops the running channels; when none is live, it
asserts TWIN_YIELD_N, sends BYE and leaves the device YIELDED. -/
def Obligations.TwinIsWatchedAndLost : Prop :=
  (∀ s : State, let at_ := s.now / 10000 * 10000
    s.twin.link.up = true → s.now % 10000 ≤ 40 → s.twin.hbSent ≠ some at_ →
    let v := SMap.get (fun _ => 0) s.twin.link.aliveTx 256
    let u := { s with twin := { s.twin with hbSent := some at_, link := { s.twin.link with aliveTx := SMap.set (fun _ => 0) s.twin.link.aliveTx 256 ((v + 1) % 256) } } }
    exec .heartbeatSend s = .next (u.twSend (.heartbeat (packFields [(8, v), (3, s.twin.phase.code), (1, b2n s.twinReady), (1, b2n s.twin.follower), (51, 0),
      (64, at_)])))) ∧
  (∀ s : State, (s.twin.link.up = false ∨ 40 < s.now % 10000 ∨ s.twin.hbSent = some (s.now / 10000 * 10000)) → exec .heartbeatSend s = .next s) ∧
  (∀ (v at_ : Nat) (cells : List Nat) (rest : List TwDelivered) (s : State),
    let d : TwDelivered := ⟨.heartbeat v, cells, at_⟩
    s.twin.link.delivered = d :: rest →
    let b := s.tookMsg d rest
    SMap.get (fun _ => none) b.twin.link.aliveRx 256 = none → bitAt v 11 = true →
    exec .heartbeat s = .next { b with twin := { b.twin with peerReady := true, peerTwinned := decide (bitsAt v 8 3 = 4), hbSeen := (if at_ ≤ 4 * (bitsAt v 64 64 / 10000 * 10000 + 6000) then bitsAt v 64 64 / 10000 * 10000 :: b.twin.hbSeen.take 63 else b.twin.hbSeen), link := { b.twin.link with aliveRx := SMap.set (fun _ => none) b.twin.link.aliveRx 256 (some (v % 256)) } } }) ∧
  (∀ s : State, let due := (s.twin.hbJudged / 10000 + 1) * 10000
    s.twin.phase = .twinned → due + 6000 ≤ s.now →
    (due ∈ s.twin.hbSeen → exec .heartbeatMiss s = .next { s with twin := { s.twin with hbJudged := due, hbMissed := 0 } }) ∧
    (due ∉ s.twin.hbSeen → s.twin.hbMissed < 2 →
      exec .heartbeatMiss s = .next ({ s with twin := { s.twin with hbJudged := due, hbMissed := s.twin.hbMissed + 1 } }.count (Reg.twn + 0x34) 16 1)) ∧
    (due ∉ s.twin.hbSeen → 2 ≤ s.twin.hbMissed →
      exec .heartbeatMiss s = .next ({ s with twin := { s.twin with hbJudged := due, hbMissed := s.twin.hbMissed + 1 } }.count (Reg.twn + 0x34) 16 1).peerLost)) ∧
  (∀ (at_ : Nat) (cells : List Nat) (rest : List TwDelivered) (s : State),
    let d : TwDelivered := ⟨.bye, cells, at_⟩
    s.twin.link.delivered = d :: rest →
    let b := { s.tookMsg d rest with twin := { (s.tookMsg d rest).twin with peerHello := none } }
    (b.twin.phase = .twinned → exec .bye s = .next b.peerLost) ∧
    (b.twin.phase ≠ .twinned → b.twinStartOut = none → exec .bye s = .next b)) ∧
  (∀ s : State, s.twin.phase = .twinned → s.codec.channels = [] → s.time.follower = false →
    let u := { s with freeCount := s.freeCount + 1 }.raise Src.twin Kind.twinLost 0 (Config.freeValue s.freeCount)
    s.peerLost = { u with twin := { s.twin with phase := .survivor, follower := false, rejoin := false, lostAt := s.now, hbMissed := 0, resyncDue := [], joinDue := [], peerHello := none, timeLocked := false } }) ∧
  (∀ (at_ : Nat) (cells : List Nat) (rest : List TwDelivered) (s : State),
    let d : TwDelivered := ⟨.resetPeer, cells, at_⟩
    s.twin.link.delivered = d :: rest →
    let b := s.tookMsg d rest
    (b.field Reg.twn 3 1 = 1 → exec .resetPeerRequest s = .next (b.assertSource 12)) ∧
    (b.field Reg.twn 3 1 = 0 → exec .resetPeerRequest s = .next b)) ∧
  (∀ (a : Bool) (s : State), let t := { s with twin := { s.twin with yieldIn := a } }
    (s.twin.yieldIn ≠ a → (a = false ∨ s.twin.phase ≠ .twinned) → exec (.twinYieldNInput a) s = .next (t.assertIrq 49)) ∧
    (s.twin.yieldIn = a → (a = false ∨ s.twin.phase ≠ .twinned) → exec (.twinYieldNInput a) s = .next s) ∧
    (s.twin.yieldIn = false → a = true → s.twin.phase = .twinned → exec (.twinYieldNInput a) s = .next (t.assertIrq 49).peerLost)) ∧
  (∀ s : State, s.twin.yielding = true → s.encodeLive = false → s.twin.phase = .twinned → s.time.follower = false →
    let b := s.twSend .bye
    let u := { b with yieldN := true, twin := { b.twin with phase := .yielded, yielding := false, timeLocked := false } }
    ((s.findDeferred fun o => decide (o = .twinYield)) = none → exec .yieldComplete s = .next u) ∧
    (∀ k, (s.findDeferred fun o => decide (o = .twinYield)) = some k → exec .yieldComplete s = .next (u.endDeferred k { status := St.ok }))) ∧
  (∀ s : State, (s.twin.yielding = false ∨ s.encodeLive = true) → exec .yieldComplete s = .next s) ∧
  (∀ (c : Nat) (x : Channel) (s : State), s.twin.phase = .twinned → s.codec.channels = [(c, x)] → x.decode = false → x.state = .running →
    exec .twnCtrlYield s = .next ({ s with twin := { s.twin with yielding := true } }.modChannel c fun x => { x with stopNs := some s.now })) ∧
  (∀ s : State, s.twin.phase ≠ .twinned → exec .twnCtrlYield s = .next s)

/-- AO_TICK advances the time base by 40 ns and the rate adjustment, and takes a pending step (R392, R393, R394, R361, R503). With no step pending and no
reset pulse running, a tick changes the time base, the policers' buckets and, while the device runs, the power sequencer's queue alone, and the time
it shows advances by exactly 40 ns and the rate adjustment in units of 2^-32 ns, as long as it stays in the 48-bit range of seconds. A pending step by
a number of nanoseconds is added, and an absolute one sets the time with fraction 0; either is counted and raised with its size, asserts interrupt
source 53, moves the timing outputs on, and leaves the frames on the wires their time. A reset pulse counts down a tick, and after the last its source
is released. -/
def Obligations.TheTimeBaseTicks : Prop :=
  (∀ s : State, s.time.step = none → s.rst.pulses = [] →
    ∃ v : TimeSt, exec .aoTick s = .next { s with time := v, net := { s.net with iflows := s.net.iflows.map fun (e : Nat × IFlow) => (e.1, e.2.refill) } }.powerSweep ∧
      v = { s.time with sec := v.sec, ns := v.ns, frac := v.frac, tick := s.time.tick + 1 } ∧ v.ns < 1000000000 ∧ v.frac < 2 ^ 32 ∧ v.sec < 2 ^ 48 ∧
      (0 ≤ s.time.units + 40 * 2 ^ 32 + s.incAdj → s.time.units + 40 * 2 ^ 32 + s.incAdj < 2 ^ 48 * secUnits →
        v.units = s.time.units + 40 * 2 ^ 32 + s.incAdj)) ∧
  (∀ (r : StepReq) (s : State), s.time.step = some r → s.rst.pulses = [] → s.codec.subs = [] →
    let x := s.time.units + 40 * 2 ^ 32 + s.incAdj
    let y : Int := match r with | .by ns => x + ns * 2 ^ 32 | .to ns => (ns : Int) * 2 ^ 32
    let size : Int := match r with | .by ns => ns | .to ns => (ns : Int) - x / 2 ^ 32
    let v : TimeSt := { s.time with tick := s.time.tick + 1, step := none, sec := ofSigned 48 (y / secUnits), ns := (y % secUnits / 2 ^ 32).toNat, frac := (y % 2 ^ 32).toNat }
    let u := (List.range 8).foldl (fun w p => w.modGate p fun g => g.stepped size { s with time := v }.nowC) { s with time := v }
    let u := { u with time := { v with touts := v.touts.map fun (e : Nat × Tout) => (e.1, e.2.stepped u.nowQ) } }
    let u := ((u.count Reg.timeSteps 16 1).raise Src.time Kind.timeStepped 0 (stepDetail size)).assertIrq 53
    exec .aoTick s = .next { u with net := { u.net with iflows := u.net.iflows.map fun (e : Nat × IFlow) => (e.1, e.2.refill) } }.powerSweep) ∧
  (∀ s : State, (s.rst.state ≠ .running → s.powerSweep = s) ∧ ∃ q : List SlewReq, s.powerSweep = { s with pwr := { s.pwr with queue := q } }) ∧
  (∀ (i n : Nat) (s : State), s.time.step = none → s.rst.pulses = [(i, n)] →
    Does .aoTick s fun t => (2 ≤ n → t.rst = { s.rst with pulses := SMap.set (fun _ => 0) s.rst.pulses i (n - 1) }) ∧
      (n ≤ 1 → t.rst = { s.rst with asserted := s.rst.asserted &&& ~~~(BitVec.ofNat 16 (2 ^ i)), pulses := SMap.set (fun _ => 0) s.rst.pulses i 0 }))

/-- The rate, a step, the latch and the oscillator code (R393, R394, R395, R407, R408, R417, R423). Who may steer (the host with HOST_STEER = 1, firmware
otherwise) writes the rate adjustment, clamped to its range; commits a step of the 64-bit signed nanoseconds with the word held for the pair; and
sends an oscillator code, of the low BITS bits, at once or behind the frame under way, where it replaces the one held. The other requester's write has
no effect. The latch copies the whole time base into its four registers. At a frame's end the held code is sent. -/
def Obligations.SteeringRegisters : Prop :=
  (∀ (who : Requester) (v : Word) (s : State), s.maySteer who = true →
    exec (.timeIncAdjWrite who v) s = .next (s.setRegN Reg.timeIncAdj (ofSigned 32 (max (-171798691) (min 171798691 (toSigned 32 v.toNat)))))) ∧
  (∀ (who : Requester) (hi : Word) (s : State), s.maySteer who = true →
    let lo := match SMap.get (fun _ => none) s.heldLow (reqKey who Reg.timeStepLo) with | some w => w | none => s.reg Reg.timeStepLo
    let u := { s with heldLow := SMap.set (fun _ => none) s.heldLow (reqKey who Reg.timeStepLo) none }
    exec (.timeStepWrite who hi) s = .next { (u.setReg Reg.timeStepLo lo).setReg (Reg.timeStepLo + 4) hi with time := { s.time with step := some (.by (toSigned 64 (lo.toNat + 2 ^ 32 * hi.toNat))) } }) ∧
  (∀ (who : Requester) (code : Word) (s : State), s.maySteer who = true →
    let b := s.field Reg.timeOscCfg 4 5
    let c := code.toNat % 2 ^ (if b < 8 then 24 else b)
    (s.time.oscBusy = none → exec (.timeOscCode who code) s = .next { s with time := { s.time with oscBusy := some c } }) ∧
    (s.time.oscBusy ≠ none → exec (.timeOscCode who code) s = .next { s with time := { s.time with oscHeld := some c } })) ∧
  (∀ (who : Requester) (v : Word) (s : State), s.maySteer who = false →
    exec (.timeIncAdjWrite who v) s = .next s ∧ exec (.timeStepWrite who v) s = .next s ∧ exec (.timeOscCode who v) s = .next s) ∧
  (∀ s : State, (∀ c, s.maySteer (.core c) = !s.maySteer .host)) ∧
  (∀ s : State, Tidy s → Does .timeLatch s fun t =>
    t.regN Reg.timeLFrac = s.time.frac % 2 ^ 32 ∧ t.regN Reg.timeLNs = s.time.ns % 2 ^ 32 ∧ t.regN Reg.timeLSecLo = s.time.sec % 2 ^ 32 ∧
    t.regN Reg.timeLSecHi = s.time.sec / 2 ^ 32 % 2 ^ 32 ∧ t = { s with regs := t.regs } ∧
    ∀ a, a ≠ Reg.timeLFrac → a ≠ Reg.timeLNs → a ≠ Reg.timeLSecLo → a ≠ Reg.timeLSecHi → t.reg a = s.reg a) ∧
  (∀ (c : Nat) (s : State), s.time.oscBusy = some c → exec .oscSpiFrameEnd s = .next { s with time := { s.time with oscBusy := s.time.oscHeld, oscHeld := none } }) ∧
  (∀ s : State, s.time.oscBusy = none → exec .oscSpiFrameEnd s = .next s)

/-- PTP messages, samples, references and timeouts (R399, R400, R403, R404, R405, R406, R409, R410). Every change of the servo's state raises SERVO_CHANGE
with the old and the new one. A message on an enabled port gives the SLAVE port and the parent, a new parent being raised; a loss of the SLAVE port,
or of the selected reference, takes a locked servo that the host does not steer to HOLDOVER; HOLDOVER ends after HOLDOVER_S. An offset within LOCK_NS
counts towards lock and its rate, kept within the limit of the entry rate, becomes the rate adjustment; an offset above STEP_NS with no channel
running, or with STEP_ANY, is a step, and one that may not be stepped is slewed at the limit of the rate. The active PPS edge is stamped with DELAY
and asserts source 50. The parent's time-code values end 5 s after the last TLV. A twin follower takes no sample. A sample of REF10M_IN beyond 10 ppm
takes REF10M_OK away, which is a loss of it. With SOURCE 2 or 3 the offset is the PPS_IN timestamp less the nearest whole second, in nanoseconds
(rounding: log entry 147). -/
def Obligations.TheServoFollowsItsReference : Prop :=
  (∀ (v : Servo) (s : State), s.time.servo = v → s.servoTo v = s) ∧
  (∀ (v : Servo) (s : State), s.time.servo ≠ v → v ≠ .holdover →
    let u := s.raise Src.time Kind.servoChange 0 (s.time.servo.code + 8 * v.code)
    s.servoTo v = { u with time := { s.time with servo := v, lockRun := 0, unlockRun := 0, entryRate := (if v = .acquiring then s.incAdj else s.time.entryRate), rateLog := (if v = .locked ∨ v = .following then [(s.time.tick, s.incAdj)] else []) } }) ∧
  (∀ (q : Nat) (s : State), s.time.follower = false → s.field Reg.timeCfg 0 1 = 0 → s.time.ref.source = 1 → (s.time.servo = .locked ∨ s.time.servo = .following) →
    s.time.slavePort = some q →
    let u := if s.time.parent = 0 then s else s.raise Src.time Kind.ptpParentChange 0 q
    exec .announceReceiptTimeout s = .next ({ u with time := { s.time with slavePort := none, parent := 0, ptp := SMap.modify (fun _ => {}) s.time.ptp q fun v => { v with portState := if s.time.clock.role = 0 ∧ s.time.clock.slaveOnly = true then 4 else 6 } } }.servoTo .holdover)) ∧
  (∀ s : State, s.time.slavePort = none → exec .announceReceiptTimeout s = .next s.servoReview) ∧
  (∀ s : State, (s.time.follower = true → s.servoReview = s) ∧
    (s.time.follower = false → s.field Reg.timeCfg 0 1 = 1 → s.time.servo ≠ .locked → s.servoReview = s.servoTo .acquiring) ∧
    (s.time.follower = false → s.field Reg.timeCfg 0 1 = 0 → s.time.ref.source = 0 → s.servoReview = s.servoTo .freeRunning) ∧
    (s.time.follower = false → s.field Reg.timeCfg 0 1 = 0 → s.sourceAvailable = true → (s.time.servo = .freeRunning ∨ s.time.servo = .holdover) →
      s.servoReview = s.servoTo .acquiring) ∧
    (s.time.follower = false → s.field Reg.timeCfg 0 1 = 0 → s.time.ref.source ≠ 0 → s.sourceAvailable = false → (s.time.servo = .locked ∨ s.time.servo = .following) →
      s.servoReview = s.servoTo .holdover)) ∧
  (∀ (port : Nat) (d : PtpDecision) (s : State), port < 8 → s.net.fwRx.find? (fun e => decide (e.1 = port)) = none → (s.ptpPort port).enable = true →
    s.time.clock.role ≠ 2 → d.tlv = none →
    let u := s.meterPtp port d
    let u := if d.parent ≠ s.time.parent then u.raise Src.time Kind.ptpParentChange 0 port else u
    exec (.ptpMessageReceive port d) s = .next ({ u with time := { u.time with slavePort := d.slave, parent := d.parent } }.servoReview)) ∧
  (∀ (port : Nat) (d : PtpDecision) (v : TimecodeArgs) (s : State), port < 8 → s.net.fwRx.find? (fun e => decide (e.1 = port)) = none → (s.ptpPort port).enable = true →
    s.time.clock.role ≠ 2 → d.tlv = some v →
    let u := s.meterPtp port d
    let u := if d.parent ≠ s.time.parent then u.raise Src.time Kind.ptpParentChange 0 port else u
    let t := { u with time := { u.time with slavePort := d.slave, parent := d.parent } }
    (d.slave = some port → s.time.ref.source = 1 → s.time.follower = false →
      exec (.ptpMessageReceive port d) s = .next { t with time := { t.time with tlvTc := some (timecodeCfg v), tlvAt := s.now } }.servoReview) ∧
    ((d.slave ≠ some port ∨ s.time.ref.source ≠ 1 ∨ s.time.follower = true) → exec (.ptpMessageReceive port d) s = .next t.servoReview)) ∧
  (∀ (port : Nat) (d : PtpDecision) (s : State), port < 8 → s.net.fwRx.find? (fun e => decide (e.1 = port)) = none → (s.ptpPort port).enable = false →
    exec (.ptpMessageReceive port d) s = .next s) ∧
  (∀ (offset rate : Int) (s : State), s.time.follower = true → exec (.servoSample offset ⟨rate, none⟩) s = .next s) ∧
  (∀ (offset rate ppb : Int) (s : State), let u := { s with time := { s.time with ref10mPpb := ofSigned 32 (max (-2147483647) (min 2147483647 ppb)), ref10mOk := decide (|ppb| ≤ 10000) } }
    exec (.servoSample offset ⟨rate, some ppb⟩) s =
      exec (.servoSample offset ⟨rate, none⟩) (if s.time.ref10mOk = true ∧ 10000 < |ppb| then u.loseRef true else u)) ∧
  (∀ (offset rate : Int) (s : State), s.time.follower = false → s.time.ref.source = 1 → s.time.slavePort ≠ none → s.time.servo = .acquiring →
    s.field Reg.timeCfg 0 1 = 0 → s.time.lockRun < 15 → |offset| ≤ s.time.ref.lockNs → |offset| ≤ s.time.ref.unlockNs → |offset| ≤ s.time.ref.stepNs →
    let r := max (s.time.entryRate - s.rateSpan) (min (s.time.entryRate + s.rateSpan) rate)
    exec (.servoSample offset ⟨rate, none⟩) s = .next { s.setRegN Reg.timeIncAdj (if s.time.ref.steer then 0 else ofSigned 32 (clampAdj r)) with time := { s.time with lockRun := s.time.lockRun + 1, unlockRun := 0, valid := true } }) ∧
  (∀ (offset rate : Int) (s : State), s.time.follower = false → s.time.ref.source = 1 → s.time.slavePort ≠ none → s.time.servo = .acquiring →
    s.field Reg.timeCfg 0 1 = 0 → (s.anyLive = false ∨ s.time.ref.stepAny = true) → (s.time.ref.lockNs : Int) < |offset| → (s.time.ref.stepNs : Int) < |offset| →
    exec (.servoSample offset ⟨rate, none⟩) s = .next { s with time := { s.time with lockRun := 0, unlockRun := (if (s.time.ref.unlockNs : Int) < |offset| then s.time.unlockRun + 1 else 0), step := some (.by (-offset)), valid := true } }) ∧
  (∀ (offset rate : Int) (s : State), s.time.follower = false → s.time.ref.source = 1 → s.time.slavePort ≠ none → s.time.servo = .acquiring →
    s.field Reg.timeCfg 0 1 = 0 → s.anyLive = true → s.time.ref.stepAny = false → (s.time.ref.lockNs : Int) < |offset| → |offset| ≤ s.time.ref.unlockNs →
    (s.time.ref.stepNs : Int) < |offset| →
    let r := if 0 < offset then s.time.entryRate - s.rateSpan else s.time.entryRate + s.rateSpan
    let r := max (s.time.entryRate - s.rateSpan) (min (s.time.entryRate + s.rateSpan) r)
    exec (.servoSample offset ⟨rate, none⟩) s = .next { s.setRegN Reg.timeIncAdj (if s.time.ref.steer then 0 else ofSigned 32 (clampAdj r)) with time := { s.time with lockRun := 0, unlockRun := 0, valid := true } }) ∧
  (∀ s : State, (s.time.servo = .holdover → s.time.clock.holdoverS ≠ 0 → s.time.holdFrom + 1000000000 * s.time.clock.holdoverS ≤ s.now →
      exec .holdoverExpire s = .next (s.servoTo .freeRunning)) ∧
    ((s.time.servo ≠ .holdover ∨ s.time.clock.holdoverS = 0) → exec .holdoverExpire s = .next s)) ∧
  (∀ (falling : Bool) (ts : Nat) (s : State), (falling = true ↔ s.field Reg.timePpsCfg 0 1 = 1) →
    exec (.ppsInEdge falling ts) s = .next (({ s with time := { s.time with ppsAt := some s.now, ppsTs := ofSigned 64 ((ts : Int) + toSigned 24 (s.field Reg.timePpsCfg 8 24)) } }.assertIrq 50).servoReview)) ∧
  (∀ (falling : Bool) (ts : Nat) (s : State), ¬(falling = true ↔ s.field Reg.timePpsCfg 0 1 = 1) → exec (.ppsInEdge falling ts) s = .next s) ∧
  (∀ s : State, s.time.ref.source ≠ 2 → s.time.ref.source ≠ 3 →
    exec (.refLost false) s = .next { s with time := { s.time with ppsAt := none } } ∧
    exec (.refLost true) s = .next { s with time := { s.time with ref10mOk := false, ref10mPpb := 0x80000000 } }) ∧
  (∀ s : State, s.time.ref.source = 3 → s.time.follower = false → s.field Reg.timeCfg 0 1 = 0 → (s.time.servo = .locked ∨ s.time.servo = .following) →
    exec (.refLost false) s = .next (({ s with time := { s.time with ppsAt := none } }.raise Src.time Kind.refLost 0 2).servoTo .holdover) ∧
    exec (.refLost true) s = .next { s with time := { s.time with ref10mOk := false, ref10mPpb := 0x80000000 } }) ∧
  (∀ s : State, s.time.ref.source = 2 → s.field Reg.timeCfg 0 1 = 1 →
    exec (.refLost false) s = .next ({ s with time := { s.time with ppsAt := none } }.raise Src.time Kind.refLost 0 2)) ∧
  (∀ s : State, s.time.ref.source = 2 → s.time.follower = false → s.field Reg.timeCfg 0 1 = 0 → (s.time.servo = .locked ∨ s.time.servo = .following) →
    exec (.refLost false) s = .next (({ s with time := { s.time with ppsAt := none } }.raise Src.time Kind.refLost 0 2).servoTo .holdover) ∧
    exec (.refLost true) s = .next (({ s with time := { s.time with ref10mOk := false, ref10mPpb := 0x80000000 } }.raise Src.time Kind.refLost 0 3).servoTo
      .holdover)) ∧
  (∀ s : State, (5000000000 + s.time.tlvAt ≤ s.now → exec .tlvTimeout s = .next { s with time := { s.time with tlvTc := none } }) ∧
    (s.now < 5000000000 + s.time.tlvAt → exec .tlvTimeout s = .next s)) ∧
  (∀ (offset : Int) (s : State), s.time.ref.source ≠ 2 → s.time.ref.source ≠ 3 → s.servoOffset offset = offset) ∧
  (∀ (offset : Int) (s : State), (s.time.ref.source = 2 ∨ s.time.ref.source = 3) → ∃ k d : Int, (s.time.ppsTs : Int) = 4000000000 * k + d ∧ -2000000000 ≤ d ∧
    d < 2000000000 ∧ |4 * s.servoOffset offset - d| ≤ 2) ∧
  (∀ (offset rate : Int) (s : State), s.time.ref.source = 3 → s.sourceAvailable = true → s.time.follower = false → s.field Reg.timeCfg 0 1 = 0 →
    (s.time.servo = .locked ∨ s.time.servo = .following) → let o := s.servoOffset offset
    exec (.servoSample offset ⟨rate, none⟩) s = .next ((s.judgeOffset o).steer o rate))

/-- TIME_TOUT_EN and the edges of the timing outputs (R411, R412, R413, R425, R426). A bit of TIME_TOUT_EN that becomes 1 loads its generator from its
registers, at its IDLE level, its first active edge at least 2 us on; a bit that becomes 0 stops the generator and lets a pulse finish; a write that
changes no bit changes no generator. An active edge that is due sets the output active and fixes its return edge; a return edge that is due sets it
idle; the mode without edges holds it idle. No other output changes. -/
def Obligations.TimingOutputsToggle : Prop :=
  (∀ (n : Nat) (s : State), n < 8 → s.regN Reg.timeToutEn = 0 →
    let b := Reg.timeTout + 0x20 * n
    let g : Tout := { running := true, cfg := s.regN b, width := s.field (b + 4) 0 24, phase := toSigned 32 (s.regN (b + 8)), perNs := s.regN (b + 12), perFrac := s.regN (b + 16), notBefore := s.nowQ + 8000, nextK := 0, returnAt := none, level := bitAt (s.regN b) 3 }
    exec (.timeToutEnWrite (BitVec.ofNat 8 (2 ^ n))) s = .next ({ s with time := { s.time with touts := SMap.set (fun _ => {}) s.time.touts n g } }.setRegN Reg.timeToutEn (2 ^ n))) ∧
  (∀ (n : Nat) (s : State), n < 8 → s.regN Reg.timeToutEn = 2 ^ n →
    exec (.timeToutEnWrite 0) s = .next ({ s with time := { s.time with touts := SMap.modify (fun _ => {}) s.time.touts n fun o => { o with running := false } } }.setRegN Reg.timeToutEn 0)) ∧
  (∀ (en : BitVec 8) (s : State), s.regN Reg.timeToutEn = en.toNat → exec (.timeToutEnWrite en) s = .next (s.setRegN Reg.timeToutEn en.toNat)) ∧
  (∀ (n : Nat) (p : Nat × Nat) (s : State), n < 8 → (s.tout n).period = some p → (s.tout n).running = true → (s.tout n).returnAt = none →
    let k := (s.tout n).firstEdge p (s.tout n).notBefore
    (s.tout n).edge p k ≤ s.nowQ →
    exec (.timingOutputEdge n) s = .next { s with time := { s.time with touts := SMap.modify (fun _ => {}) s.time.touts n fun o => { o with level := !bitAt o.cfg 3, returnAt := some (o.returnEdge p k).toNat, nextK := k + 1, notBefore := (o.edge p k).toNat + 1 } } }) ∧
  (∀ (n r : Nat) (p : Nat × Nat) (s : State), n < 8 → (s.tout n).period = some p → (s.tout n).running = false → (s.tout n).returnAt = some r → r ≤ s.nowQ →
    exec (.timingOutputEdge n) s = .next { s with time := { s.time with touts := SMap.modify (fun _ => {}) s.time.touts n fun o => { o with level := bitAt o.cfg 3, returnAt := none } } }) ∧
  (∀ (n : Nat) (s : State), n < 8 → (s.tout n).period = none →
    exec (.timingOutputEdge n) s = .next { s with time := { s.time with touts := SMap.modify (fun _ => {}) s.time.touts n fun o => { o with level := bitAt o.cfg 3, returnAt := none } } })

/-- LEDGER_POINT, LEDGER, TOKEN_DUE and DIVERGE (R203, R204, R205, R216, R226). At the ledger point of a picture that is not yet named, a TWINNED leader
makes the token of a channel in step, keeps it and sends it with the next alive value (PLAN_LATE is raised when its plan is carried over); at any
other phase, and on a follower, nothing happens. The follower keeps a token that comes in time, and settles a GOP 3 group by it. A token that is
missing when it is due makes the follower diverge, report it and tell the leader, which reports it and, unless its resync picture is chosen already,
resyncs the channel. -/
def Obligations.LedgerTokens : Prop :=
  (∀ (c p : Nat) (s : State), c < 128 → s.twin.phase = .twinned → s.twin.follower = false → c ∉ s.twin.joinDue → c ∉ s.twin.resyncDue →
    let x := s.channel c
    x.decode = false → (x.state = .armed ∨ x.state = .running) → x.twinState = .inStep → SMap.get (fun _ => none) x.tokens p = none →
    (x.pic p).named = false → x.ledgerAt p ≤ s.nowT →
    let r := x.makeToken c p x.sentPkts false false
    let u := s.modChannel c fun _ => r.1
    let u := if r.2.carried then u.raise (Src.tambour + x.tambour) Kind.planLate (addrP c p 0xFF) x.tambour else u
    let n := SMap.get (fun _ => 0) u.twin.link.aliveTx (128 + c)
    exec (.ledgerPoint c p) s = .next ({ u with twin := { u.twin with link := { u.twin.link with aliveTx := SMap.set (fun _ => 0) u.twin.link.aliveTx (128 + c) ((n + 1) % 256) } } }.twSend (.ledger (r.2.record c n)))) ∧
  (∀ (c p : Nat) (s : State), c < 128 → (s.twin.phase ≠ .twinned ∨ s.twin.follower = true ∨ (s.channel c).decode = true) →
    exec (.ledgerPoint c p) s = .next s) ∧
  (∀ (v at_ : Nat) (cells : List Nat) (rest : List TwDelivered) (s : State),
    let d : TwDelivered := ⟨.ledger v, cells, at_⟩
    s.twin.link.delivered = d :: rest →
    let b := s.tookMsg d rest
    let c := planChannel v
    let x := b.channel c
    let p := x.picOf32 (tokenOf v).plan.picture
    b.twin.phase = .twinned → b.twin.follower = true → SMap.get (fun _ => none) b.twin.link.aliveRx (128 + c) = none →
    x.decode = false → x.state.live = true → x.twinState ≠ .joining → p ∉ x.tokenLate → b.nowT ≤ x.tokenDueAt p →
    exec .ledger s = .next ({ b with twin := { b.twin with link := { b.twin.link with aliveRx := SMap.set (fun _ => none) b.twin.link.aliveRx (128 + c) (some (bitsAt v 1536 8)) } } }.modChannel c fun x =>
      { x.settleToken p (tokenOf v) with tokens := SMap.set (fun _ => none) x.tokens p (some (tokenOf v)) })) ∧
  (∀ (c p : Nat) (s : State), c < 128 → s.twin.phase = .twinned → s.twin.follower = true →
    let x := s.channel c
    x.decode = false → (x.state = .armed ∨ x.state = .running) → x.twinState = .inStep → x.joinPic ≤ p → SMap.get (fun _ => none) x.tokens p = none →
    p ∉ x.tokenLate → (x.pic p).named = false → x.tokenDueAt p ≤ s.nowT →
    let u := { s with freeCount := s.freeCount + 1 }.modChannel c fun x => { x with tokenLate := x.tokenLate ++ [p] }
    exec (.tokenDue c p) s = .next (((u.enterDiverged c).reportDiverge c p 0xFF 4 (Config.freeValue s.freeCount % 8)).twSend (.diverge c p x.tambour))) ∧
  (∀ (c p : Nat) (s : State), c < 128 → (s.twin.phase ≠ .twinned ∨ s.twin.follower = false) → exec (.tokenDue c p) s = .next s) ∧
  (∀ (c p peerT at_ : Nat) (cells : List Nat) (rest : List TwDelivered) (s : State), c < 128 →
    let d : TwDelivered := ⟨.diverge c p peerT, cells, at_⟩
    s.twin.link.delivered = d :: rest →
    let b := s.tookMsg d rest
    (b.twin.phase = .twinned → b.twin.follower = false → b.resyncChosen ⟨c, p, 0⟩ = false →
      exec .diverge s = .next ((b.reportDiverge c p 0xFF 4 (peerT % 8)).resync c)) ∧
    (b.twin.phase = .twinned → b.twin.follower = false → b.resyncChosen ⟨c, p, 0⟩ = true → exec .diverge s = .next (b.reportDiverge c p 0xFF 4 (peerT % 8))) ∧
    (b.twin.phase ≠ .twinned → exec .diverge s = .next b))

/-- RECONCILE, RELEASE and MIRROR messages (R206, R207, R208, R209, R212, R214, R215). A request of the peer's waits for this device's own input deadline,
and is answered ABSENT for the positions that its snapshot does not hold; ABSENT and DATA count the positions asked for down, and with none left, or
at its time with TWIN_RECON_LATE, the reconcile closes and the band is READY. The peer's release record of a paired band is kept, and bands that it
settles are released. A mirror request is answered with the slice, or with GONE when it is not held; the pieces that come are kept until the slice is
whole, and a whole slice with the right length and CRC takes the band's place. Slices are kept until their time. Nothing else of the twin changes. -/
def Obligations.ReconcileAndMirror : Prop :=
  (∀ (v at_ : Nat) (l : List Nat) (cells : List Nat) (rest : List TwDelivered) (s : State), headOp v = 0 →
    let d : TwDelivered := ⟨.reconcile v l, cells, at_⟩
    s.twin.link.delivered = d :: rest →
    let b := s.tookMsg d rest
    let i := b.headBandId v
    (b.pairedBand i = false → exec .reconcileRequest s = .next b) ∧
    (b.pairedBand i = true → b.nowT < (b.channel i.ch).inputDeadline i.pic i.b →
      exec .reconcileRequest s = .next { b with twin := { b.twin with reconWait := b.twin.reconWait ++ [v] } }) ∧
    (b.pairedBand i = true → (b.channel i.ch).inputDeadline i.pic i.b ≤ b.nowT →
      let ks := ((List.range 64).filter (bitAt (reconMask v))).map (· + reconBase v)
      ks ≠ [] → (∀ k ∈ ks, ((b.channel i.ch).pic i.pic).heldFor i.b k = false) →
      exec .reconcileRequest s = .next ((b.modBand i fun u => { u with recon := satAdd 16 u.recon 0 }).twSend
        (.reconcile (reconHead 2 i.ch i.b i.pic (reconBase v) 0 0 ((ks.map fun k => 2 ^ (k - reconBase v)).sum)) [])))) ∧
  (∀ (v at_ : Nat) (l : List Nat) (cells : List Nat) (rest : List TwDelivered) (s : State), headOp v ≠ 0 →
    let d : TwDelivered := ⟨.reconcile v l, cells, at_⟩
    s.twin.link.delivered = d :: rest →
    let b := s.tookMsg d rest
    let i := b.headBandId v
    ((b.band i).reconOpen = false → exec .reconcileData s = .next b) ∧
    ((b.band i).reconOpen = true → (b.band i).state = .arriving →
      (headOp v = 2 →
        let u := b.modBand i fun u => { u with asked := u.asked.filter fun k => !(decide (reconBase v ≤ k) && bitAt (reconMask v) (k - reconBase v)) }
        ((u.band i).asked ≠ [] → exec .reconcileData s = .next u) ∧
        ((u.band i).asked = [] → exec .reconcileData s = .next (u.closeRecon i))) ∧
      (headOp v ≠ 2 → reconBase v ∈ (b.band i).asked →
        let u := b.modBand i fun u => { u with pieces := u.pieces ++ [(reconBase v, reconTotal v, reconOffset v, l)] }
        (u.band i).wholePosition (reconBase v) (reconTotal v) = none → (u.band i).asked ≠ [] → exec .reconcileData s = .next u))) ∧
  (∀ (c p b : Nat) (s : State), c < 128 → let i : BandId := ⟨c, p, b⟩
    ((s.band i).reconOpen = false → exec (.reconcileClose c p b) s = .next s) ∧
    ((s.band i).reconOpen = true → (s.band i).state = .arriving → (s.band i).asked = [] →
      let u := s.modBand i fun u => { u with reconOpen := false, pieces := [], asked := [] }
      exec (.reconcileClose c p b) s = .next (u.readyNow i ((u.channel c).inputDeadline p b))) ∧
    ((s.band i).reconOpen = true → (s.band i).state = .arriving → (s.band i).asked ≠ [] →
      (s.channel c).inputDeadline p b + s.reconLimit ≤ s.nowT →
      let u := (s.raise Src.twin Kind.twinReconLate (addrP c p b) 0).modBand i fun u => { u with reconOpen := false, pieces := [], asked := [] }
      exec (.reconcileClose c p b) s = .next (u.readyNow i ((u.channel c).inputDeadline p b)))) ∧
  (∀ (v at_ : Nat) (cells : List Nat) (rest : List TwDelivered) (s : State),
    let d : TwDelivered := ⟨.release [v], cells, at_⟩
    s.twin.link.delivered = d :: rest →
    let b := s.tookMsg d rest
    let c := recCh v
    let u := { b with twin := { b.twin with link := { b.twin.link with aliveRx := SMap.set (fun _ => none) b.twin.link.aliveRx c (some (recAlive v)) } } }
    let i : BandId := ⟨c, (b.channel c).picOf32 (recPic v), recBand v⟩
    SMap.get (fun _ => none) b.twin.link.aliveRx c = none → u.pairedBand i = true → (b.channel c).state.live = true →
    recBand v < (b.channel c).cfg.bandCount → (b.band i).peerRec = none →
    exec .release s = .next (((u.modBand i fun x => { x with peerRec := some v }).settle c).releaseDue c)) ∧
  (∀ (v at_ : Nat) (l : List Nat) (cells : List Nat) (rest : List TwDelivered) (s : State), headOp v = 0 →
    let d : TwDelivered := ⟨.mirror v l, cells, at_⟩
    s.twin.link.delivered = d :: rest →
    let b := s.tookMsg d rest
    let held := b.twin.mirror.find? fun e => decide (e.ch = headCh v) && decide (e.band = headBand v) && decide (e.pic % 2 ^ 32 = headPic v)
    (held = none → exec .mirrorRequest s = .next (b.twSend (.mirror (mirrorHead 2 (headCh v) (headBand v) (headPic v) 0 0) []))) ∧
    (∀ e, held = some e → e.nal ≠ [] → e.nal.length ≤ 4076 →
      exec .mirrorRequest s = .next (b.twSend (.mirror (mirrorHead 1 e.ch e.band e.pic 0 e.nal.length) e.nal)))) ∧
  (∀ (v at_ : Nat) (l : List Nat) (cells : List Nat) (rest : List TwDelivered) (g : MirrorGet) (s : State), headOp v ≠ 0 → headOp v ≠ 2 →
    let d : TwDelivered := ⟨.mirror v l, cells, at_⟩
    s.twin.link.delivered = d :: rest →
    let b := s.tookMsg d rest
    let i := b.headBandId v
    (b.band i).mirror = some g → g.pieces = [] →
    (l.length < mirrorTotal v → exec .mirrorData s = .next (b.modBand i fun u => { u with mirror := some { g with pieces := [(mirrorOffset v, l)] } })) ∧
    (mirrorTotal v = g.len → l.length = g.len → crc32cOf l = g.crc → exec .mirrorData s = .next (b.useMirror i g l))) ∧
  (∀ s : State, exec .mirrorBufferExpire s = .next { s with twin := { s.twin with mirror := s.twin.mirror.filter fun e => decide (s.now < e.until_) } })

/-- A received frame passes the checks of R357 in order (R357, R358, R359, R361, R364). On a port whose link is down nothing is received. Each frame wakes
the port's classifier, adds what the FEC decoder corrected and could not correct to its counters, shows HI_SER, and adds one to RX_FRAMES; the first
check that fails counts the frame in its own counter and drops it; a frame above its flow's bucket is counted in the flow, in its interval and as
POLICER_DROP; one that passes is metered, is put in cells of its port, and its entry joins the flow's IFQ. A PTP message waits for firmware in cells
of owner 19. What the parser reads is taken from the frame's bytes (log entry 126). -/
def Obligations.ReceivedFramesPassTheChecks : Prop :=
  ∀ (port : Nat) (f : RxFrame) (s : State), port < 8 →
    let c := ((s.wakeBlock (Src.port + port)).takeFec port f).rxCount Reg.netRxFrames port
    ((s.port port).linkUp = false → exec (.frameReceive port f) s = .next s) ∧
    ((s.port port).linkUp = true → (f.fcsOk = false ∨ f.fecUncorr ≠ 0) → exec (.frameReceive port f) s = .next (c.rxCount Reg.netRxFcsErr port)) ∧
    let i := parseFrame f.bytes
    ((s.port port).linkUp = true → f.fcsOk = true → f.fecUncorr = 0 → (f.bytes.length + 4 < 64 ∨ c.portFrame port < f.bytes.length + 4) →
      exec (.frameReceive port f) s = .next (c.rxCount Reg.netRxSizeErr port)) ∧
    ((s.port port).linkUp = true → f.fcsOk = true → f.fecUncorr = 0 → 60 ≤ f.bytes.length → f.bytes.length + 4 ≤ c.portFrame port →
      (i.pause = true → exec (.frameReceive port f) s = .next (c.rxCount Reg.netRxPause port)) ∧
      (i.pause = false → i.csumOk = false → exec (.frameReceive port f) s = .next (c.rxCount Reg.netRxCsumErr port)) ∧
      (i.pause = false → i.csumOk = true → (i.keys = none ∨ ∃ k, i.keys = some k ∧ c.classify port k = none) →
        (c.forFirmware port f i = false → exec (.frameReceive port f) s = .next (c.rxCount Reg.netRxNoFlow port)) ∧
        (i.firmware = 1 → ∀ t cells, c.landFrame port 19 f.bytes = (t, some cells) → exec (.frameReceive port f) s = .next { t with net := { t.net with fwRx := t.net.fwRx ++ [(port, ifqEntry (cells.headD 0) cells.length f.bytes.length 0 port i.rtpOfs (c.rxStamp port f.rxTs))] } })) ∧
      (∀ k n, i.pause = false → i.csumOk = true → i.keys = some k → c.classify port k = some n →
        ((c.iflow n).rate ≠ 0 → (c.iflow n).bucket < (f.bytes.length + 4) * bucketUnit → exec (.frameReceive port f) s = .next
          ((((c.endIntervals 1 n).modIflow n fun w => { w with drops := w.drops + 1 }).meter 1 n fun m => { m with drops := satInc 32 m.drops }).raise Src.ingress
            Kind.policerDrop 0 (flowDetail n port))) ∧
        ((c.iflow n).rate = 0 → let m := c.meterPacket port n f i
          (m.iflow n).kind ≠ 2 → ∀ t cells, m.landFrame port port f.bytes = (t, some cells) → (t.queue (ifqId n)).full = false →
            exec (.frameReceive port f) s = .next (t.putEntry (ifqId n)
              (ifqEntry (cells.headD 0) cells.length f.bytes.length n port i.rtpOfs (m.rxStamp port f.rxTs))))))

/-- INGRESS_WRITE lands the packet at the head of a flow's IFQ (R365, R366, R367). An empty IFQ, one at whose head another frame stands than the one
named, or an ingress writer whose clock is gated leaves the state. Of a channel's copies the one received first is taken first. The head frame of
another queue is taken and its cells are freed; a frame of an unbound flow has no other effect. A packet of one segment for a picture that is in time,
at a position not yet received and in bands that still take samples, is written into the picture, with the decimated samples that are now complete,
its position is marked, and bands now complete record the time. -/
def Obligations.IngressPacketsLand : Prop :=
  ∀ (flow : Nat) (s : State), flow < 2048 →
    (∀ cell, ((s.queue (ifqId flow)).isEmpty = true ∨ cell ≠ s.headCell flow) → exec (.ingressWrite flow cell) s = .next s) ∧
    (s.asleep Src.ingress = true → ∀ cell, exec (.ingressWrite flow cell) s = .next s) ∧
    (∀ t v, s.asleep Src.ingress = false → s.earlierCopy flow = none → s.takeIfq flow = (t, some v) → (t.iflow flow).channel = none → exec (.ingressWrite flow (s.headCell flow)) s = .next t) ∧
    (∀ g, s.asleep Src.ingress = false → (s.queue (ifqId flow)).isEmpty = false → s.earlierCopy flow = some g → (s.ingressWrite g).earlierCopy flow = none →
      exec (.ingressWrite flow (s.headCell flow)) s = .next ((s.ingressWrite g).ingressWrite flow)) ∧
    (∀ t v c p g, s.asleep Src.ingress = false → s.earlierCopy flow = none → s.takeIfq flow = (t, some v) → (t.iflow flow).channel = some c → (t.iflow flow).kind = 0 →
      let x := t.channel c
      let pkt := x.cfg.videoPacket (s.loadFrame (s.chainCells (bitsAt v 14 3) (bitsAt v 0 14)).1 (bitsAt v 17 14)) (bitsAt v 48 7)
      x.decode = false → x.state.live = true → x.state ≠ .draining → x.picOfTs t.nowT pkt.timestamp = some p →
      pkt.segments = [g] → pkt.overrun = false → x.cfg.segmentFits g = true → x.cfg.deadlineAt (x.tPic p) 0 ≤ t.nowT + x.cfg.periodT →
      let k := (g.row * x.cfg.width + g.offset) / t.pktPixels c
      let y := x.pic p
      SMap.get (fun _ => none) y.arrived k = none → y.segmentOpen x.cfg g = true →
      exec (.ingressWrite flow (s.headCell flow)) s = .next (t.modPic c p fun _ =>
        ({ y.writeSegment x.cfg g with arrived := SMap.set (fun _ => none) (y.writeSegment x.cfg g).arrived k (some pkt) }.decimateLanded x.cfg (t.pktPixels c) k).markComplete
          x.cfg (t.pktPixels c) t.nowT (x.cfg.bandsOfPos (t.pktPixels c) k)))

/-- DEPACKETIZE, SEQUENCE_LOST and INJECT_ENTRY (R122, R150, R151, R152, R153). DEPACKETIZE on an empty IFQ, or while the depacketizer's clock is gated,
leaves the state; an unbound flow's frame is freed; a second copy of a packet still outstanding is freed when it is the same, a first copy is placed
in its access unit, and one of a number that is lost already is late. SEQUENCE_LOST declares a due number lost and looks again at what waits for it.
No entry is taken before the start time (the model's choice, log entry 144). INJECT_ENTRY returns an empty entry with LEN_ZERO and its number lost;
the data of another goes to pages of owner 21 and on to the open unit, and the entry returns with status 0. -/
def Obligations.PacketsOfADecodeChannelAreMerged : Prop :=
  (∀ (flow : Nat) (n : StreamNote) (s : State), flow < 2048 →
    (((s.queue (ifqId flow)).isEmpty = true ∨ s.asleep Src.depacketizer = true) → exec (.depacketize flow n) s = .next s) ∧
    (s.asleep Src.depacketizer = false → (s.queue (ifqId flow)).isEmpty = false → (s.iflow flow).channel = none → exec (.depacketize flow n) s = .next (s.takeIfq flow).1) ∧
    (∀ c, s.asleep Src.depacketizer = false → (s.queue (ifqId flow)).isEmpty = false → (s.iflow flow).channel = some c → (s.iflow flow).kind = 1 →
      let x := s.channel c
      let v := s.headEntry (ifqId flow)
      let r := s.chainCells (bitsAt v 14 3) (bitsAt v 0 14)
      let pkt := s.mergePktOf v (s.loadFrame r.1 (bitsAt v 17 14))
      let k := ((x.merge.highest : Int) + x.merge.ahead pkt.seq).toNat
      x.decode = true → x.state.live = true → x.cfg.injectQid = 0 → r.2 = true → x.merge.ssrc = some pkt.ssrc → x.merge.jumps pkt.ssrc pkt.seq = false →
      x.unitOf k = none →
      (∀ first, SMap.get (fun _ => none) x.merge.got k = some first → first.1 = pkt.kept.1 → exec (.depacketize flow n) s = .next (s.takeIfq flow).1) ∧
      (∀ t, SMap.get (fun _ => none) x.merge.got k = none → x.merge.isLost k = false → x.overdue k (x.unitAt pkt.ts k) pkt.arrival = false → s.placePacket c k pkt n = (t, true) →
        exec (.depacketize flow n) s = .next (t.takeIfq flow).1) ∧
      (SMap.get (fun _ => none) x.merge.got k = none → x.merge.isLost k = true →
        exec (.depacketize flow n) s = .next ((s.mergeLate c k).takeIfq flow).1))) ∧
  (∀ (c q : Nat) (s : State), c < 128 →
    ((s.channel c).decode = true → (s.channel c).state.live = true → (s.channel c).cfg.injectQid = 0 → s.lossDue c q = true →
      exec (.sequenceLost c q) s = .next ((s.declareLost c q).recheckSeq c q)) ∧
    (s.lossDue c q = false → exec (.sequenceLost c q) s = .next s)) ∧
  (∀ (c : Nat) (n : StreamNote) (s : State), c < 128 →
    let x := s.channel c
    let q := x.cfg.injectQid
    x.decode = true → x.state.live = true → q ≠ 0 → (s.queue q).valid = true →
    (s.nowT ≤ x.startNs * tauNs → exec (.injectEntry c n) s = .next s) ∧
    (s.ownedEntry q = none → exec (.injectEntry c n) s = .next s) ∧
    (∀ v, x.startNs * tauNs < s.nowT → s.ownedEntry q = some v → bitAt v 176 = false → x.merge.highest ≠ 0 →
      let k := x.merge.highest + 1
      (bitsAt v 96 24 = 0 → exec (.injectEntry c n) s = .next (((s.modChannel c fun x => { x with merge := { x.merge with highest := max x.merge.highest k } }).declareLost c k |>.recheckSeq c k).returnEntry q (injectReturn v c St.lenZero))) ∧
      (∀ d p t, bitsAt v 96 24 ≠ 0 → bitsAt v 96 24 ≤ bitsAt v 64 24 → s.hostRead (bitsAt v 0 64) (bitsAt v 96 24) = some d → x.merge.openUnit = some p → (x.pic p).lostAll = false → (x.pic p).closed = false →
        s.morePages (bitsAt v 96 24 / 65536 + 2) c p 21 (bitsAt v 96 24) = (t, true) →
        exec (.injectEntry c n) s = .next (((t.receiveSeq c k (d, t.now)).placeBytes c p k (recBytes d (bitsAt v 96 24)) (bitAt v 177) n).returnEntry q
          (injectReturn v c St.ok)))))

/-- OUTPUT_SLOT and EGRESS_BAND_START (R155, R156, R157, R166). When a slot of a live decode channel comes, it joins the slots that are being sent and the
next is a period later. No band starts in the safe state, while the egress reader's clock is gated, or before its time. A slot settled without a
picture ends; a band of its settled picture is sent at its time, and one of a channel without egress flows is over at once. -/
def Obligations.DecodedPicturesAreSent : Prop :=
  (∀ (c t : Nat) (s : State), c < 128 → (s.channel c).decode = true → (s.channel c).state.live = true → (s.channel c).out.nextSlot = some t →
    (t ≤ s.nowT → exec (.outputSlot c) s = .next (s.modChannel c fun x =>
      { x with out := { x.out with nextSlot := some (t + x.cfg.periodT), active := x.out.active ++ [{ slotT := t }] } })) ∧
    (s.nowT < t → exec (.outputSlot c) s = .next s)) ∧
  (∀ (c : Nat) (s : State), c < 128 → (s.flt.safe = true ∨ s.asleep Src.egress = true) → exec (.egressBandStart c) s = .next s) ∧
  (∀ (c t : Nat) (q : OutSlot) (rest : List OutSlot) (s : State), c < 128 → (s.channel c).decode = true → (s.channel c).state.live = true → s.flt.safe = false → s.asleep Src.egress = false →
    (s.channel c).out.active = q :: rest → (s.channel c).bandStart q q.nextBand = some t →
    (s.nowT < t → exec (.egressBandStart c) s = .next s) ∧
    (t ≤ s.nowT → q.chosen = true → q.pic = none →
      exec (.egressBandStart c) s = .next (s.modChannel c fun x => { x with out := { x.out with active := rest } })) ∧
    (∀ p, t ≤ s.nowT → q.chosen = true → q.pic = some p → exec (.egressBandStart c) s = .next (s.sendOut c p q.nextBand t q) ∧
      (s.egressOf c = [] → exec (.egressBandStart c) s = .next (s.endOutBand c p q.nextBand (q.isRepeat || q.second) 0 none))))

/-- GATE_PICK, PTP_MESSAGE_SEND, NET_PORT_ENABLE, LINK_UP and LINK_DOWN (R370, R371, R378, R381, R382, R383, R391, R399). A port in the safe state, still
busy with a frame, or whose gate scheduler's clock is gated, picks nothing, and so does a port with no queue to send from. The one waiting head of a
port that is eligible, in the open gate of its class and inside the guard band, is sent, and its queue is refilled. A PTP message of an enabled port
is built in cells of owner 19 and joins firmware's egress flow; a port not enabled sends none. NET_PORT_ENABLE writes ENABLE of NET_PORT_CFG and
leaves the other bits; with 0 a link that is up goes down. On an enabled port LINK_UP sets the link, marks the intervals of the port's sources asserts
the port's interrupt source and raises LINK_UP; on a disabled port, or with the link up, nothing happens. LINK_DOWN clears the link, marks the
intervals, asserts the source and raises LINK_DOWN; a link that is down stays as it is. -/
def Obligations.PortsSendAndTheirLinks : Prop :=
  (∀ (port : Nat) (s : State), port < 8 →
    ((s.flt.safe = true ∨ s.nowC < (s.gate port).freeAt ∨ s.asleep (Src.gate + port) = true) → exec (.gatePick port) s = .next s) ∧
    (s.flt.safe = false → s.asleep (Src.gate + port) = false → (s.gate port).freeAt ≤ s.nowC → s.net.passWait = [] →
      (s.portFlows port = [] → exec (.gatePick port) s = .next s) ∧
      (∀ f, s.portFlows port = [f] → (s.gateFlow f).classOf < 8 → s.headDrop port f = none → s.headEligible f = true →
        s.gateOpen port (s.gateFlow f).classOf = true → s.guardLets port f = true → exec (.gatePick port) s = .next (s.sendHead port f)))) ∧
  (∀ (port : Nat) (k : PtpKind) (s : State), port < 8 →
    (((s.ptpPort port).enable = false ∨ s.flt.safe = true) → exec (.ptpMessageSend port k) s = .next s) ∧
    ((s.ptpPort port).enable = true → s.flt.safe = false → (k ≠ .delayReq ∨ s.time.slavePort ≠ some port) →
      let seq := (s.time.ptpSent.filter fun e => decide (e = (port, ptpKindCode k))).length
      let r := State.ptpFrame { s with time := { s.time with ptpSent := (port, ptpKindCode k) :: s.time.ptpSent } } port k seq
      (∀ t, State.allocCells (chainLen r.2.length) r.1 19 [] = (t, none) → exec (.ptpMessageSend port k) s = .next t) ∧
      (∀ t cells, State.allocCells (chainLen r.2.length) r.1 19 [] = (t, some cells) →
        let u := t.storeFrame cells (r.2.map (BitVec.ofNat 8))
        (u.queue (efqId (2032 + port))).valid = true →
        exec (.ptpMessageSend port k) s = .next (u.efqPut (2032 + port) (efqEntry (cells.headD 0) cells.length r.2.length false 19 0 0 false))))) ∧
  (∀ (port : Nat) (s : State), port < 8 →
    let a := Reg.netPortCfg + 0x1000 * port
    let t (on : Bool) := s.setRegN a (s.regN a / 2 * 2 + b2n on)
    let down (u : State) := (((u.modPort port fun p => { p with linkUp := false, anDone := false, hiSer := false }).linkPartial port).assertIrq (32 + port)).raise (Src.port + port) Kind.linkDown 0 port
    exec (.netPortEnable port true) s = .next (t true) ∧
    ((s.port port).linkUp = true → exec (.netPortEnable port false) s = .next (down (t false)) ∧ exec (.linkDown port) s = .next (down s)) ∧
    ((s.port port).linkUp = false → exec (.netPortEnable port false) s = .next (t false) ∧ exec (.linkDown port) s = .next s) ∧
    (bitAt (s.regN a) 0 = true → (s.port port).linkUp = false → exec (.linkUp port) s = .next
      ((((s.modPort port fun p => { p with linkUp := true, anDone := bitAt (s.regN a) 5 && decide (bitsAt (s.regN a) 1 2 ≠ 2) }).linkPartial port).assertIrq (32 + port)).raise (Src.port + port)
        Kind.linkUp 0 port)) ∧
    ((bitAt (s.regN a) 0 = false ∨ (s.port port).linkUp = true) → exec (.linkUp port) s = .next s))

/-- CH_RUNNING, STOP_TIME_REACHED and CH_FAULTED (R294, R55, R132, R560). An ARMED channel whose start time has come is RUNNING, with the CH_RUNNING
event; a RUNNING channel whose stop time has come is DRAINING, gives back the pages of access units that have not started, discards its pending plans
and its pictures that have not started, and is looked at for being drained; before its time neither changes anything. A channel that the reaction in
progress has taken in is FAULTED with its kind, and the reaction ends when it was the last; without such a channel nothing happens. -/
def Obligations.ChannelsReachTheirStates : Prop :=
  ∀ (c : Nat) (s : State), c < 128 →
    ((s.channel c).state = .armed → (s.channel c).startNs ≤ s.now → exec (.chRunning c) s = .next
      ((s.modChannel c fun x => { x with state := .running }).raise (Src.tambour + (s.channel c).tambour) Kind.chRunning (addrC c) 0)) ∧
    (((s.channel c).state ≠ .armed ∨ s.now < (s.channel c).startNs) → exec (.chRunning c) s = .next s) ∧
    (∀ t, (s.channel c).stopNs = some t → (s.channel c).state = .running → t ≤ s.now → exec (.stopTimeReached c) s = .next
      (((s.freeUnits c fun y => !(y.started || y.decoded)).modChannel c fun x =>
        { x with state := .draining, stopNs := none, rc := { x.rc with pending := [] }, pics := x.pics.filter fun e => e.2.started || e.2.decoded }).checkDrained c)) ∧
    ((s.channel c).stopNs = none → exec (.stopTimeReached c) s = .next s) ∧
    (∀ t, (s.channel c).stopNs = some t → ((s.channel c).state ≠ .running ∨ s.now < t) → exec (.stopTimeReached c) s = .next s) ∧
    (s.flt.reaction = none → exec (.chFaulted c) s = .next s) ∧
    (∀ r k, s.flt.reaction = some r → r.channels.find? (fun e => e.1 = c) = some (c, k) →
      let u := (s.setReaction { r with channels := r.channels.filter (fun e => e.1 ≠ c) }).modChannel c fun x => { x with state := .faulted, faultKind := k, stopNs := none }
      exec (.chFaulted c) s = .next ((u.raise (Src.tambour + (u.channel c).tambour) Kind.chFaulted (addrC c) k).endClass2))

/-- BAND_WINDOW_OPEN, BAND_INPUT_DEADLINE and INPUT_COMPLEXITY (R36, R55, R68, R206, R368). An ARRIVING band of a channel that runs becomes READY as its
window opens when its input is complete; a band whose input is not complete waits. At its input deadline an ARRIVING band becomes READY with what has
come; a paired encode band with positions missing asks the peer for them first, and requests of the peer that waited are answered. A decode unit of
which no slice header has come is lost entirely at its first band's deadline. The complexity of an encode band that is READY, NAMED or in CODING is
measured once, and its entry of the vector written. -/
def Obligations.BandsBecomeReady : Prop :=
  ∀ (c p b : Nat) (s : State), c < 128 →
    let i : BandId := ⟨c, p, b⟩
    let x := s.channel c
    let u := s.band i
    (u.complete = none → exec (.bandWindowOpen c p b) s = .next s) ∧
    (∀ done, u.complete = some done → s.bandRuns i = true → u.state = .arriving →
      (x.windowOpen p b ≤ s.nowT → exec (.bandWindowOpen c p b) s = .next (s.readyNow i done)) ∧
      (s.nowT < x.windowOpen p b → exec (.bandWindowOpen c p b) s = .next s)) ∧
    let unseen := x.decode && decide (b = 0) && decide ((x.pic p).ptype = 0) && x.pics.any fun e => decide (e.1 = p)
    (unseen = true → x.inputDeadline p b ≤ s.nowT → exec (.bandInputDeadline c p b) s = .next (s.loseWhole c p)) ∧
    ((s.nowT < x.inputDeadline p b ∨ unseen = false ∧ s.bandRuns i = false) → exec (.bandInputDeadline c p b) s = .next s) ∧
    (x.inputDeadline p b ≤ s.nowT → unseen = false → s.bandRuns i = true → u.state = .arriving → u.reconOpen = false →
      (x.decode = true → exec (.bandInputDeadline c p b) s = .next (s.readyNow i (u.complete.getD (x.inputDeadline p b)))) ∧
      (x.decode = false → (s.pairedBand i = false ∨ u.complete ≠ none) →
        exec (.bandInputDeadline c p b) s = .next ((s.readyNow i (u.complete.getD (x.inputDeadline p b))).answerWaiting i)) ∧
      (x.decode = false → s.pairedBand i = true → u.complete = none → exec (.bandInputDeadline c p b) s = .next ((s.openReconcile i).answerWaiting i))) ∧
    (x.decode = false → (u.state = .ready ∨ u.state = .named ∨ u.state = .coding) → b < x.cfg.bandCount →
      (u.cplx = none → exec (.inputComplexity c p b) s = .next ((s.modBand i fun u => { u with cplx := some ((x.pic p).complexity x.cfg b) }).rcvReady i)) ∧
      (∀ v, u.cplx = some v → exec (.inputComplexity c p b) s = .next s))

/-- CONTEXT_PRELOAD_DONE, BANK_WRITEBACK_DONE and SWITCH_COMPLETE (R46, R47, R48, R56, R66, R69, R96, R331, R350). The bank whose preload runs, or the
half of the hoop window that is fetched, is ready, and the 96 ns of an idle tambour's switch that waited for its band count from now (that one command
tells of either is the model's choice, log entry 136); the bank that is written back is free, the scheduler names and the tambour may sleep; a switch
takes place on a clocked tambour without a band in CODING or a repair pass, outside the safe state, 96 ns after the time from which it counts, and
enters the next band, which is abandoned instead when its abandon point has come. A preload or writeback that ends is a descriptor of the tambour's
context pump that ends: its slot is passed and its status stands. Where nothing loads, is written back or is due, nothing changes. -/
def Obligations.BanksAndSwitches : Prop :=
  ∀ (t : Nat) (s : State), t < 8 →
    let x := s.tamb t
    let freed (b : Bank) : Bank := if b.phase = .writing then {} else b
    (∀ k rest, x.loads = k :: rest → (x.bank k).phase = .loading →
      let y := { x.setBank k { x.bank k with phase := .loaded } with loads := rest }
      let s' := s.contextEnd t St.ok
      (∀ i, x.coding = none → s.firstBand x.namedBands = some i → (x.bank k).band = some i →
        exec (.contextPreloadDone ⟨t, false⟩) s = .next (s'.modTamb t fun _ => { y with freeAt := s.nowT })) ∧
      ((x.coding.isSome = true ∨ ∃ i j, (x.bank k).band = some i ∧ s.firstBand x.namedBands = some j ∧ i ≠ j) →
        exec (.contextPreloadDone ⟨t, false⟩) s = .next (s'.modTamb t fun _ => y))) ∧
    (x.loads = [] → exec (.contextPreloadDone ⟨t, false⟩) s = .next s) ∧
    (∀ w, x.windows.find? (fun w => !w.ready) = some w →
      let y := { x with windows := x.windows.map fun v => if v.band = w.band then { v with ready := true } else v }
      exec (.contextPreloadDone ⟨t, true⟩) s = .next (s.modTamb t fun _ =>
        if x.coding = none ∧ s.firstBand x.namedBands = some w.band then { y with freeAt := s.nowT } else y)) ∧
    (x.windows.find? (fun w => !w.ready) = none → exec (.contextPreloadDone ⟨t, true⟩) s = .next s) ∧
    ((x.bankA.phase = .writing ∨ x.bankB.phase = .writing) → exec (.bankWritebackDone t) s = .next
      ((((s.contextEnd t St.ok).modTamb t fun x => { x with bankA := freed x.bankA, bankB := freed x.bankB }).name t).sleep t)) ∧
    (x.bankA.phase ≠ .writing → x.bankB.phase ≠ .writing → exec (.bankWritebackDone t) s = .next s) ∧
    (s.nextBand t = none → exec (.switchComplete t) s = .next s) ∧
    (∀ i k, s.nextBand t = some (i, k) →
      (x.coding = none → x.repairs = [] → s.clocked t = true → s.flt.safe = false → x.freeAt + 96 * tauNs ≤ s.nowT →
        exec (.switchComplete t) s = .next (if (s.channel i.ch).abandonAt i.pic i.b ≤ s.nowT then s.abandonNow i else ((s.enterCoding t k i).name t).settle i.ch)) ∧
      ((x.coding.isSome = true ∨ x.repairs ≠ [] ∨ s.clocked t = false ∨ s.flt.safe = true ∨ s.nowT < x.freeAt + 96 * tauNs) →
        exec (.switchComplete t) s = .next s)) ∧
    (∀ st, s.contextEnd t st =
      let u := s.modPump (8 + t) fun p => { p with lastStatus := st, done := if st = St.ok then (p.done + 1) % 2 ^ 32 else p.done }
      if (u.queue (24 + t)).valid then u.modQueue (24 + t) fun q => { q with head := (q.head + 1) % 2 ^ 32, tail := (q.tail + 1) % 2 ^ 32 } else u)

/-- MICROWORD_EXECUTE and HOOK_OVERRUN (R231, R232, R243). While a band is in CODING a running sequencer executes the word at its address, with nothing
else of the state changed but the count of HOOK_STATS calls that have returned and the note that HOOK_POST_BAND has; a vendor transfer alone takes a
value that the manual leaves open. Without a band, stopped, or with a call whose limit is used up, no word executes. A call whose limit is used up is
returned, counted, and raised as HOOK_OVERRUN; a call with some of its limit left goes on. -/
def Obligations.TheSequencerRuns : Prop :=
  ∀ (t : Nat) (view : SeqView) (s : State), t < 8 →
    let q := (s.tamb t).seqr
    ((s.tamb t).coding = none → exec (.microwordExecute t view) s = .next s ∧ exec (.hookOverrun t) s = .next s) ∧
    (∀ i, (s.tamb t).coding = some i →
      ((q.running = false ∨ q.spent = true) → exec (.microwordExecute t view) s = .next s) ∧
      (q.running = true → q.spent = false → (mwMoveOp ((s.store t).word q.addr) ≠ 15 ∨ openBase ≤ q.addr) →
        exec (.microwordExecute t view) s = .next (s.modTamb t fun x => x.stepTo (s.runWord t i view 0))) ∧
      (q.running = true → q.spent = false → mwMoveOp ((s.store t).word q.addr) = 15 → q.addr < openBase →
        exec (.microwordExecute t view) s = .next (({ s with freeCount := s.freeCount + 1 }).modTamb t fun x =>
          x.stepTo (s.runWord t i view (Config.freeValue s.freeCount % 2 ^ 32)))) ∧
      (q.hook = none → exec (.hookOverrun t) s = .next s) ∧
      (∀ k, q.hook = some k →
        (k.left ≠ 0 → exec (.hookOverrun t) s = .next s) ∧
        (k.left = 0 → exec (.hookOverrun t) s = .next (((s.modTamb t fun x => x.stepTo (q.leave (x.currentBlock (s.channel i.ch).decode k.hook))).count
          (Reg.prk + 0x100 * t + 0x10) 16 1).raise
          (Src.tambour + t) Kind.hookOverrun (addrP i.ch i.pic i.b) t)))) ∧
    (∀ x : Tamb, x = s.tamb t → ∀ q : Sequencer, (x.stepTo q).seqr = q ∧ x.stepTo q = { x with seqr := q, coder := (x.stepTo q).coder } ∧
      ((∀ k, x.seqr.hook = some k → k.hook = 3 → q.hook = none → (x.stepTo q).coder = { x.coder with statsN := x.coder.statsN + 1 }) ∧
       (∀ k, x.seqr.hook = some k → k.hook = 2 → q.hook = none → (x.stepTo q).coder = { x.coder with postDone := true }) ∧
       ((x.seqr.hook = none ∨ q.hook.isSome = true ∨ ∃ k, x.seqr.hook = some k ∧ k.hook ≠ 3 ∧ k.hook ≠ 2) → (x.stepTo q).coder = x.coder)))

/-- BLOCK_SLOT, BAND_ABANDON and REPAIR_PASS_END (R65, R55, R50, R164, R342, R240). Without a band in CODING no block passes, and a slot after the abandon
point abandons the band, unless its last word is in the spout. The bytes that wait go to the spout as it has room; with bytes left, or a hook that is
due, the stitches stall; else each stitch passes its block on, and the bytes of a CTU that E0 has written follow; the band is CODED when its last word
is in the spout and its last hook has returned. A block of a decode band passes, and the band is CODED with its last block. At its abandon point a
band that is READY, NAMED or in CODING is abandoned, unless its last word is in the spout already; one that waited for a late clock reports that too;
and its tambour sleeps when nothing is left for it. The regions a repaired band has left are concealed and its pass ends; without a repair nothing
happens. -/
def Obligations.BlocksPass : Prop :=
  (∀ (t : Nat) (w : BlockWork) (s : State), t < 8 → (s.tamb t).coding = none → exec (.blockSlot t w) s = .next s) ∧
  (∀ (t : Nat) (i : BandId) (w : BlockWork) (s : State), t < 8 → (s.tamb t).coding = some i → (s.channel i.ch).abandonAt i.pic i.b < s.nowT → (w = .enc → (s.tamb t).coder.ended = false) →
    exec (.blockSlot t w) s = .next (((((s.wakeMissed i).abandon i).name (s.channel i.ch).tambour).sleep (s.channel i.ch).tambour).settle i.ch)) ∧
  (∀ (t : Nat) (i : BandId) (s : State), t < 8 → (s.tamb t).coding = some i → (s.channel i.ch).decode = false →
    (s.nowT ≤ (s.channel i.ch).abandonAt i.pic i.b ∨ (s.tamb t).coder.ended = true) →
    let u := s.pour t i
    let v := (u.pipeline t i).pour t i
    let z := (u.tamb t).coder
    let wrap (w : State) : State := if w.bandOver t i then (w.encodeDone t i).settle i.ch else w
    ((z.queue ≠ [] ∨ z.closes = true ∨ z.ended = true ∨ u.hooksDue t i = true) → exec (.blockSlot t .enc) s = .next (wrap u)) ∧
    (z.queue = [] → z.closes = false → z.ended = false → u.hooksDue t i = false → exec (.blockSlot t .enc) s = .next (wrap v))) ∧
  (∀ (t : Nat) (i : BandId) (d : DecBlock) (s : State), t < 8 → (s.tamb t).coding = some i → (s.channel i.ch).decode = true →
    s.nowT ≤ (s.channel i.ch).abandonAt i.pic i.b →
    let n := ((s.channel i.ch).cfgOf i.pic).bandBlocks i.b
    (s.tamb t).blocks < n →
    let u := s.decodeBlock t i d
    ((u.tamb t).blocks < n → exec (.blockSlot t (.dec d)) s = .next u) ∧
    (n ≤ (u.tamb t).blocks → exec (.blockSlot t (.dec d)) s = .next (u.decodeDone t i))) ∧
  (∀ (t : Nat) (i : BandId) (w : BlockWork) (s : State), t < 8 → (s.tamb t).coding = some i → s.nowT ≤ (s.channel i.ch).abandonAt i.pic i.b →
    (w = .enc ↔ (s.channel i.ch).decode = true) → exec (.blockSlot t w) s = .next s) ∧
  (∀ (t : Nat) (i : BandId) (s : State), s.bandOver t i = ((s.tamb t).coder.ended && !s.hooksDue t i && (!s.hookOn t i 2 || (s.tamb t).coder.postDone))) ∧
  (∀ (c p b : Nat) (s : State), c < 128 →
    let i : BandId := ⟨c, p, b⟩
    ((s.band i).state = .ready ∨ (s.band i).state = .named ∨ (s.band i).state = .coding) →
    let z := s.tamb (s.channel c).tambour
    ((s.channel c).abandonAt p b ≤ s.nowT → (z.coding ≠ some i ∨ z.coder.ended = false) →
      exec (.bandAbandon c p b) s = .next (((((s.wakeMissed i).abandon i).name (s.channel c).tambour).sleep (s.channel c).tambour).settle c)) ∧
    ((s.nowT < (s.channel c).abandonAt p b ∨ z.coding = some i ∧ z.coder.ended = true) → exec (.bandAbandon c p b) s = .next s)) ∧
  (∀ (t : Nat) (s : State), t < 8 →
    ((s.tamb t).repairs = [] → exec (.repairPassEnd t) s = .next s) ∧
    (∀ i rest, (s.tamb t).repairs = i :: rest →
      let x := s.channel i.ch
      let left := x.repairOrder i (s.band i).blocks
      let u := s.concealAll i (fun r => x.regionDone i (s.band i).blocks r && !left.contains r) left
      let u := u.modBand i fun u => { u with findings := if bitAt u.findings 4 then u.findings else u.findings + 16 }
      exec (.repairPassEnd t) s = .next ((((u.modTamb t fun y => { y with repairs := rest, freeAt := u.nowT }).pictureDecoded i.ch i.pic).name t).sleep t)))

/-- PACKETIZER_DRAIN, BAND_RELEASE, STATS_BAND_RECORD and PICTURE_TIME (R342, R346, R115, R36, R55, R187, R111). No word drains in the safe state, while
the spout's drain side or the packetizer is gated, or without a closed bank; a word of a band that is being coded joins its slice, and a word of no
such band, or an ABANDON word, is taken alone. A word whose bytes fill packets takes their cells, and stays while a cell is refused. The last word of
a slice stays while a queue of the channel is full or cells are refused; else the slice's packets are formed and it is drained. At the time of release
the one due band of an encode channel is sent when its step says go, or kept unsent after a failed mirror of an earlier band, and waits when it must.
A decode band without an active flow is SENT from the time of its last packet on. A band whose outcome is settled retires after those before it, with
its hook record and a record in each subscription's queue. The timecode of a source picture is kept once, at its picture time. -/
def Obligations.BandsDrainReleaseAndRetire : Prop :=
  (∀ (n corrected : Nat) (bad : Bool) (s : State), n < 8 →
    (s.flt.safe = true ∨ s.asleep (Src.spout + n) = true ∨ s.asleep Src.packetizer = true ∨ (s.spout n).closed = []) → exec (.packetizerDrain n corrected bad) s = .next s) ∧
  (∀ (n corrected k : Nat) (bad : Bool) (rest : List Nat) (e : Nat × SpoutWord) (s : State), n < 8 → s.flt.safe = false →
    s.asleep (Src.spout + n) = false → s.asleep Src.packetizer = false → (s.spout n).closed = k :: rest →
    (s.spout n).words.find? (fun e => decide (e.1 = k)) = some e →
    let i : BandId := ⟨e.2.ch, e.2.pic, e.2.band⟩
    let taken (s : State) : State := ((s.wordChecks n k i corrected bad).modSpout n fun p => p.take k).pumpMirrors 2 n
    (s.wordLives i e.2 = false → exec (.packetizerDrain n corrected bad) s = .next (taken s)) ∧
    (s.wordLives i e.2 = true → e.2.last = false → (bad = true ∨ (s.band i).damaged = true ∨ (s.band i).corrupt = true) →
      exec (.packetizerDrain n corrected bad) s = .next ((taken s).modBand i fun u => { u with nal := (s.band i).nal ++ spoutBytes e.2 })) ∧
    (s.wordLives i e.2 = true → e.2.last = false → bad = false → (s.band i).damaged = false → (s.band i).corrupt = false →
      let f := s.cellsFor i ((s.band i).nal ++ spoutBytes e.2).length
      (f.2 = true → exec (.packetizerDrain n corrected bad) s = .next ((taken f.1).modBand i fun u => { u with nal := (s.band i).nal ++ spoutBytes e.2 })) ∧
      (f.2 = false → exec (.packetizerDrain n corrected bad) s = .next f.1)) ∧
    (s.wordLives i e.2 = true → e.2.last = true → bad = false → (s.band i).damaged = false → (s.band i).corrupt = false →
      (s.backedUp e.2.ch = true → exec (.packetizerDrain n corrected bad) s = .next s) ∧
      (∀ f, s.backedUp e.2.ch = false → (s.giveCells i).formPackets i ((s.band i).nal ++ spoutBytes e.2) = (f, false) → exec (.packetizerDrain n corrected bad) s = .next f) ∧
      (∀ f, s.backedUp e.2.ch = false → (s.giveCells i).formPackets i ((s.band i).nal ++ spoutBytes e.2) = (f, true) → exec (.packetizerDrain n corrected bad) s = .next
        (((taken f).modBand i fun u => { u with nal := (s.band i).nal ++ spoutBytes e.2 }).sliceDrained i)))) ∧
  (∀ (c p b : Nat) (s : State), c < 128 → (s.nowT < (s.channel c).releaseAt p b ∨ (s.channel c).decode = true) → exec (.bandRelease c p b) s = .next s) ∧
  (∀ (c p b : Nat) (s : State), c < 128 → (s.channel c).decode = false → (s.channel c).state.live = true → (s.channel c).releaseAt p b ≤ s.nowT →
    let i : BandId := ⟨c, p, b⟩
    s.dueBands c = [i] → (s.band i).released = false →
    (s.releaseStep i = .go → ((s.channel c).pic p).unsentFrom b = false → (s.band i).packets ≠ [] → exec (.bandRelease c p b) s = .next (s.releaseBand i)) ∧
    (s.releaseStep i = .go → ((s.channel c).pic p).unsentFrom b = true → exec (.bandRelease c p b) s = .next (s.keepUnsent i)) ∧
    (s.releaseStep i = .wait → exec (.bandRelease c p b) s = .next s)) ∧
  (∀ (c p b : Nat) (s : State), c < 128 →
    let i : BandId := ⟨c, p, b⟩
    let x := s.channel c
    (∀ v, (s.band i).state = .coded → (s.band i).sentAt = some v → v ≤ s.nowT →
      exec (.statsBandRecord c p b) s = exec (.statsBandRecord c p b) (s.modBand i fun u => { u with state := .sent, released := true })) ∧
    ((s.band i).sentAt = none → (s.outcomeSettled i = false ∨ x.earlierRetired i = false ∨ (x.cfgOf p).bandCount ≤ b) → exec (.statsBandRecord c p b) s = .next s) ∧
    ((s.band i).sentAt = none → s.outcomeSettled i = true → x.earlierRetired i = true → b + 1 < (x.cfgOf p).bandCount → (x.state = .running ∨ x.state = .draining) →
      let h := s.putHookStats i
      let r := (h.channelSubs c 0).foldl (fun t u => t.putRecord u.qid u.coalesce 1 1 (x.bandRecord c p b)) h
      exec (.statsBandRecord c p b) s = .next ((r.modBand i fun u => { u with state := .retired }).checkDrained c))) ∧
  (∀ (c p : Nat) (s : State), c < 128 → (s.channel c).decode = false → (s.channel c).state.live = true →
    ((s.channel c).tPic p ≤ s.nowT → ((s.channel c).pic p).tc = none → exec (.pictureTime c p) s = .next (s.modPic c p fun y => { y with tc := some s.timeCode })) ∧
    ((s.nowT < (s.channel c).tPic p ∨ ((s.channel c).pic p).tc.isSome = true) → exec (.pictureTime c p) s = .next s))

/-- WAKE_START, SLEW_GRANT and HOOP_CLOCK_GOOD (R27, R56, R516, R532). One wake latency before a hoop's next opening, with its PLL when that is off, a
wake of the hoop and of its enabled, gated tambours is asked for, for the earliest time that needs it, and what is awake stays so; before that, or
without an opening, nothing happens. The governor grants the first waiting request when its time has come: the block switches and the next grant is
|step| / LIMIT later; a tambour counts as clocked its wake latency after the grant. When a hoop's clock is good its bit is set; once a tambour's gate
is open and its hoop's clock good, the bands that a late wake has kept are marked WAKE_LATE, and the wake is over once its latency has passed; a hoop
whose PLL is off stays. -/
def Obligations.PowerStepsAreGranted : Prop :=
  (∀ (h : Nat) (s : State), h < 4 → s.hoopOpening h = none → exec (.wakeStart h) s = .next s) ∧
  (∀ (h v : Nat) (s : State), h < 4 → s.hoopOpening h = some v →
    let lat := if bitAt s.pwr.hoopPll.toNat h then 500 else 20000
    let wake (s : State) (t : Nat) : State :=
      if s.tambEnabled t = false then s
      else
        let u := if bitAt s.pwr.hoopPll.toNat h then s.keepAwake (.hoop h) else s.askPower (.hoop h) true (v / tauNs)
        let u := if bitAt s.pwr.tambClk.toNat t then u.keepAwake (.tambour t) else u.askPower (.tambour t) true (v / tauNs)
        if s.clocked t then u.modTamb t fun x => { x with wakeAt := none } else u.modTamb t fun x => { x with wakeAt := some (match x.wakeAt with | some w => min w (v / tauNs) | none => v / tauNs) }
    (s.nowT + lat * tauNs < v → exec (.wakeStart h) s = .next s) ∧
    (v ≤ s.nowT + lat * tauNs → exec (.wakeStart h) s = .next (wake (wake s (2 * h)) (2 * h + 1)))) ∧
  (∀ s : State, (1000 * s.now < s.pwr.nextFree ∨ s.pwr.queue = []) → exec .slewGrant s = .next s) ∧
  (∀ (r : SlewReq) (s : State), s.pwr.nextFree ≤ 1000 * s.now → firstReq s.pwr.queue = some r →
    let p := { s.pwr.switch r.block r.wake with queue := s.pwr.queue.erase r, nextFree := 1000 * s.now + r.block.step.1 * 1000 / s.slewLimit }
    let u := { s with pwr := p }
    let u := u.setRegN Reg.pwrGrantMax (max (u.regN Reg.pwrGrantMax) (min (s.now - r.asked) (2 ^ 32 - 1)))
    let u := if r.wake = true ∧ r.needed < s.now + r.block.step.2 then u.count Reg.pwrWakeLate 32 1 else u
    (r.wake = false → exec .slewGrant s = .next u) ∧
    (r.wake = true → (∀ n, r.block ≠ .tambour n) → exec .slewGrant s = .next u.releasePending) ∧
    (∀ n, r.wake = true → r.block = .tambour n →
      exec .slewGrant s = .next ((u.releasePending.modTamb n fun x => { x with clkFrom := s.now + r.block.step.2 }).clockArrives n))) ∧
  (∀ (h : Nat) (s : State), h < 4 →
    (bitAt s.pwr.hoopPll.toNat h = false → exec (.hoopClockGood h) s = .next s) ∧
    (bitAt s.pwr.hoopPll.toNat h = true →
      let v := { s with pwr := { s.pwr with clkGood := s.pwr.clkGood ||| BitVec.ofNat 12 (2 ^ (1 + h)) } }
      exec (.hoopClockGood h) s = .next ((v.clockArrives (2 * h)).clockArrives (2 * h + 1)))) ∧
  (∀ (t : Nat) (s : State), t < 8 →
    ((bitAt s.pwr.tambClk.toNat t = false ∨ bitAt s.pwr.clkGood.toNat (1 + t / 2) = false) → s.clockArrives t = s) ∧
    (∀ w, bitAt s.pwr.tambClk.toNat t = true → bitAt s.pwr.clkGood.toNat (1 + t / 2) = true → (s.tamb t).wakeAt = some w →
      let woken (u : State) : State := u.modTamb t fun x => { x with wakeAt := if x.clkFrom ≤ u.now then none else x.wakeAt }
      (max s.now (s.tamb t).clkFrom ≤ w → s.clockArrives t = woken s) ∧
      (w < max s.now (s.tamb t).clkFrom → s.clockArrives t = woken ((s.readyBands t ++ (s.tamb t).namedBands).foldl (fun s i => s.wakeLateFor t i) s))))

/-- The well arbiter takes the first waiting owner after the one it took last (R318). Among the owners that wait it takes the one whose ID comes first in
ID order, counting on modulo 64 from the one after the last taken; it takes none only when no owner waits. -/
def Obligations.TheArbiterTakesTurns : Prop :=
  (∀ (l : List Nat) (last : Nat), (∀ o ∈ l, o < 64) → (nextOwner l last = none ↔ l = [])) ∧
  (∀ (l : List Nat) (last o : Nat), nextOwner l last = some o →
    o ∈ l ∧ o < 64 ∧ ∀ p ∈ l, p < 64 → ∀ j k, j < 64 → k < 64 → (last + 1 + j) % 64 = o → (last + 1 + k) % 64 = p → j ≤ k)

/-- WELL_ALLOCATE (R311, R314, R316, R317, R318, R322, R327, R329). The new requests join those that wait, and the one of the owner that is next is taken,
the others wait on. It is refused and counted above its limit, in a cell rebuild, and with the store empty, and firmware receives the status of a
refused one of its own; a cell whose link word fails starts a rebuild; otherwise the owner gets the head of the free list, or the page freed last, of
a cache that is filled first when it is empty, and the side table names it. A free that comes with it goes straight to the owner. With no owner
waiting nothing happens. -/
def Obligations.WellsAllocate : Prop :=
  (∀ (w : WellSel) (s : State), (s.well w).waiting = [] → exec (.wellAllocate w [] none) s = .next s) ∧
  (∀ (w : WellSel) (l : List Nat) (o : Nat) (s : State), (∀ k ∈ l, k < 64) → nextOwner ((s.well w).waiting ++ l) (s.well w).lastTaken = some o →
    let t := s.modWell w fun x => { x with waiting := (x.waiting ++ l).erase o, lastTaken := o }
    let told (st : Nat) (u : State) : State := if o = 19 ∨ 32 ≤ o then u.modWell w fun x => { x with answers := x.answers ++ [(o, st)] } else u
    ((w = .page ∨ t.cellWell.rebuild = false) → t.allocRule w o = .quotaExceeded →
      exec (.wellAllocate w l none) s = .next (told St.quotaExceeded (t.count Reg.welQuotaCnt 32 1))) ∧
    ((w = .page ∨ t.cellWell.rebuild = false) → t.allocRule w o = .wellEmpty → exec (.wellAllocate w l none) s = .next (told St.wellEmpty (t.count Reg.welEmptyCnt 32 1))) ∧
    (w = .cell → t.cellWell.rebuild = true → exec (.wellAllocate w l none) s = .next (told St.wellEmpty (t.count Reg.welEmptyCnt 32 1))) ∧
    (w = .page → t.allocRule w o = .grant →
      let c := if t.pageWell.cache = [] then t.refill 256 else t
      (c.pageWell.cache = [] → c.allocRule w o ≠ .quotaExceeded → exec (.wellAllocate w l none) s = .next (told St.wellEmpty (c.count Reg.welEmptyCnt 32 1))) ∧
      (∀ i rest, c.pageWell.cache = i :: rest → exec (.wellAllocate w l none) s = .next
        ({ c with pageWell := { c.pageWell with cache := rest } }.giveBuffer .page i o))) ∧
    (w = .cell → t.cellWell.rebuild = false → t.allocRule w o = .grant →
      let i := t.cellWell.head
      (i = 0xFFFF → exec (.wellAllocate w l none) s = .next (told St.wellEmpty (t.count Reg.welEmptyCnt 32 1))) ∧
      (i ≠ 0xFFFF → t.linkBad i = true → exec (.wellAllocate w l none) s = .next
        (told St.wellEmpty (({ t with cellWell := { t.cellWell with rebuild := true, scanFrom := 40 * t.time.tick, late := [] } }.raise Src.cellWell Kind.wellLinkBad (0x800 * i) o).count
          Reg.welEmptyCnt 32 1))) ∧
      (i ≠ 0xFFFF → t.linkBad i = false → exec (.wellAllocate w l none) s = .next
        ({ t with cellWell := { t.cellWell with head := t.sramRead (0x800 * i) 2 } }.giveBuffer .cell i o))) ∧
    (∀ a p, w = .cell → t.cellWell.rebuild = false → t.freeCheck .cell a p = none →
      let u := t.modWell .cell fun x => { x with owners := SMap.set (fun _ => none) x.owners (a / 0x800) none }
      u.allocRule .cell o = .grant → exec (.wellAllocate w l (some (a, p))) s = .next (u.giveBuffer .cell (a / 0x800) o)))

/-- WELL_FREE, rebuilds, PAGE_CACHE_REFILL and PAGE_CACHE_SPILL, WEL_QUOTA_WRITE and PAGE_UNITS_WRITE (R314, R316, R320, R321, R322, R324, R328). A free
that fails a check is counted and raised with the kind of its first failed check, and changes nothing else of the well. A freed cell is the head of
the free list with its link word written, or in a rebuild is marked free alone, and one that the scan has passed is kept for its end; a freed page is
the first of the cache. A rebuild of the cell well links every free cell in index order, behind those freed after the scan had passed them; one of the
page well rewrites the ring with every free page outside the cache. Below 256 pages the cache takes up to 256 from the ring; above 768 it puts the 256
longest held there. A quota write that keeps the rules of R320 is taken; one that breaks a rule sets QUOTA_REJ alone. A new page count is taken with
no page allocated and room for every page reserve, and the free store then holds the pages of the new count; otherwise QUOTA_REJ is set alone. -/
def Obligations.WellsTakeFreesAndQuotas : Prop :=
  (∀ (w : WellSel) (a o : Nat) (s : State), o < 64 →
    let i := bufferIndex w a
    let t := s.modWell w fun x => { x with owners := SMap.set (fun _ => none) x.owners i none }
    (∀ k, s.freeCheck w a o = some k → exec (.wellFree w a o) s = .next
      ((s.count Reg.welFreeRej 32 1).raise (match w with | .cell => Src.cellWell | .page => Src.pageWell) k a o)) ∧
    (s.freeCheck w a o = none →
      (w = .cell → s.cellWell.rebuild = true → 40 * s.time.tick - s.cellWell.scanFrom ≤ i → exec (.wellFree w a o) s = .next t) ∧
      (w = .cell → s.cellWell.rebuild = true → i < 40 * s.time.tick - s.cellWell.scanFrom →
        exec (.wellFree w a o) s = .next { t with cellWell := { t.cellWell with late := t.cellWell.late ++ [i] } }) ∧
      (w = .cell → s.cellWell.rebuild = false →
        let u := t.sramWrite (0x800 * i) 8 (linkWord i s.cellWell.head)
        exec (.wellFree w a o) s = .next { u with cellWell := { u.cellWell with head := i } }) ∧
      (w = .page → t.pageWell.cache.length < 1024 → exec (.wellFree w a o) s = .next { t with pageWell := { t.pageWell with cache := i :: t.pageWell.cache } }) ∧
      (w = .page → 1024 ≤ t.pageWell.cache.length →
        exec (.wellFree w a o) s = .next { t with pageWell := { t.pageWell with freeWait := t.pageWell.freeWait ++ [i] } }))) ∧
  (∀ s : State,
    (s.cellWell.rebuild = false → exec .cellRebuildEnd s = .next s) ∧
    (s.cellWell.rebuild = true → exec .cellRebuildEnd s = .next (s.cellWell.late.foldl State.pushCell ((List.range cellCount).foldr (fun i t =>
      if (t.cellWell.owner i).isSome || s.cellWell.late.contains i then t else t.pushCell i)
      { s with cellWell := { s.cellWell with head := 0xFFFF, rebuild := false, late := [] } }))) ∧
    (s.pageWell.rebuild = false → exec .pageRebuildEnd s = .next s) ∧
    (s.pageWell.rebuild = true → exec .pageRebuildEnd s = .next (((List.range (s.wellSize .page)).filter fun i =>
      !((s.pageWell.owner i).isSome || s.pageWell.cache.contains i || s.pageWell.freeWait.contains i)).foldl State.ringPush
      { s with pageWell := { s.pageWell with ringHead := 0, ringCount := 0, rebuild := false } })) ∧
    ((256 ≤ s.pageWell.cache.length ∨ s.pageWell.rebuild = true ∨ s.pageWell.ringCount = 0) → exec .pageCacheRefill s = .next s) ∧
    (s.pageWell.cache.length < 256 → s.pageWell.rebuild = false → exec .pageCacheRefill s = .next (s.refill 256)) ∧
    ((s.pageWell.cache.length ≤ 768 ∨ s.pageWell.rebuild = true) → exec .pageCacheSpill s = .next s) ∧
    (768 < s.pageWell.cache.length → s.pageWell.rebuild = false →
      let k := s.pageWell.cache.length - 256
      let t := (s.pageWell.cache.drop k).foldl State.ringPush { s with pageWell := { s.pageWell with cache := s.pageWell.cache.take k } }
      exec .pageCacheSpill s = .next (t.drainFreeWait s.pageWell.freeWait.length))) ∧
  (∀ (o : Nat) (v : Word) (s : State), o < 64 →
    let cell := s.quotaOk .cell o (bitsAt v.toNat 0 14) (bitsAt v.toNat 16 14)
    let res := s.quotaOk .page o (bitsAt v.toNat 0 18) (s.limit .page o)
    let lim := s.quotaOk .page o (s.reserve .page o) (bitsAt v.toNat 0 18)
    (cell = true → exec (.welQuotaWrite .cellQuota o v) s = .next
      (s.setRegN (Reg.welCquota + 4 * o) (packFields [(14, v.toNat), (2, 0), (14, bitsAt v.toNat 16 14)]))) ∧
    (cell = false → exec (.welQuotaWrite .cellQuota o v) s = .next (s.setBits Reg.welStatus 4)) ∧
    (res = true → exec (.welQuotaWrite .pageReserve o v) s = .next (s.setRegN (Reg.welPres + 4 * o) (bitsAt v.toNat 0 18))) ∧
    (res = false → exec (.welQuotaWrite .pageReserve o v) s = .next (s.setBits Reg.welStatus 4)) ∧
    (lim = true → exec (.welQuotaWrite .pageLimit o v) s = .next (s.setRegN (Reg.welPlim + 4 * o) (bitsAt v.toNat 0 18))) ∧
    (lim = false → exec (.welQuotaWrite .pageLimit o v) s = .next (s.setBits Reg.welStatus 4))) ∧
  (∀ (units : BitVec 8) (s : State),
    let n := 1024 * pageUnits units.toNat
    ((s.pageWell.owners ≠ [] ∨ n < s.reserveSum .page 64 0) → exec (.pageUnitsWrite units) s = .next (s.setBits Reg.welStatus 4)) ∧
    (s.pageWell.owners = [] → s.reserveSum .page 64 0 ≤ n →
      let t := s.setRegN Reg.welCfg (s.field Reg.welCfg 0 8 + 256 * units.toNat)
      exec (.pageUnitsWrite units) s = .next { t with hbmMem := t.hbmMem.filter (fun e => decide (e.1 < pageRingBase) || decide (pageRingBase + 0x80000 ≤ e.1)), pageWell := { t.pageWell with cache := List.range (min 512 n), ringHead := 512, ringCount := n - 512, freeWait := [] } }))

/-- PUMP_DESCRIPTOR_START, PUMP_DONE and PUMP_ERROR (R331, R333, R336, R338, R339, R340, R46, R26). A busy or gated pump, one with no descriptor, and one
that serves a band scheduler starts nothing; a descriptor that firmware puts joins the queue first. One that fails a check ends with its status and
PUMP_REJECT; a move onto itself ends at once; another runs, through the staging area when its hulls meet. When every element has moved it ends with
status 0: the destination holds what the source held, HEAD advances, the count of descriptors done rises and its line pulses with TAG at the unit that
listens there. A read that fails moves the elements before it, ends it with DMA_ERROR and ERR and raises the fault at the failing address. Without a
running descriptor neither happens, but that an error of a context pump ends its tambour's preload or writeback as rejected, with the fault and
CTX_FAIL. How long STAGING is shown is the model's choice (log entry 142). -/
def Obligations.PumpsMoveDescriptors : Prop :=
  ∀ (n : Nat) (s : State), n < 16 →
    let q := s.queue (16 + n)
    let d := pumpDescOf (s.headEntry (16 + n))
    let ended (u : State) (d : PumpDesc) (st : Nat) : State :=
      let v := u.modQueue (16 + n) fun w => { w with head := (w.head + 1) % 2 ^ 32 }
      let v := v.modPump n fun p => { p with running := none, staging := false, lastStatus := st, done := if st = St.ok then (p.done + 1) % 2 ^ 32 else p.done }
      let v := if st = St.ok then v else v.count (Reg.pmpRejects + 0x10 * n) 32 1
      let v := { v with pulses := { line := d.evtLine, tag := d.tag, err := decide (st ≠ St.ok) } :: v.pulses }
      if st = St.ok then v.pulseDone d.evtLine d else v.pulseError d.evtLine d
    let moved (u : State) (d : PumpDesc) (staging : Bool) (k : Nat) : State :=
      let l := d.elements
      let data := l.map fun e => u.bytesFrom d.srcSpace e.1 (d.elem + 1)
      if staging then ((l.zip data).take k).foldl (fun t e => t.bytesTo d.dstSpace e.1.2 e.2) (u.bytesTo 1 (stagingBase n) data.flatten)
      else (l.take k).foldl (fun t e => t.bytesTo d.dstSpace e.2 (t.bytesFrom d.srcSpace e.1 (d.elem + 1))) u
    ((8 ≤ n ∨ s.pwr.awake.contains (.pump n) = false ∨ (s.pump n).running.isSome = true ∨ q.valid = false ∨ q.isEmpty = true) →
      exec (.pumpDescriptorStart n none) s = .next s) ∧
    (∀ v, n < 8 → q.valid = true → q.full = false → exec (.pumpDescriptorStart n (some v)) s = exec (.pumpDescriptorStart n none) (s.putEntry (16 + n) v)) ∧
    (∀ v, (8 ≤ n ∨ q.valid = false ∨ q.full = true) → exec (.pumpDescriptorStart n (some v)) s = exec (.pumpDescriptorStart n none) s) ∧
    (n < 8 → s.pwr.awake.contains (.pump n) = true → (s.pump n).running = none → q.valid = true → q.isEmpty = false →
      (∀ st, d.check n = .reject st → st ≠ St.ok →
        exec (.pumpDescriptorStart n none) s = .next ((ended s d st).raise (Src.pump + n) Kind.pumpReject (q.slot q.head) st)) ∧
      (d.check n = .noOp → exec (.pumpDescriptorStart n none) s = .next (ended s d St.ok)) ∧
      (∀ st, d.check n = .move st → exec (.pumpDescriptorStart n none) s = .next (s.modPump n fun p =>
        { p with running := some d, staging := st, readTill := if st then s.now + d.elements.length * ((d.elem + 64) / 64 + 1) else p.readTill }))) ∧
    ((s.pump n).running = none → exec (.pumpDone n) s = .next s ∧ ∀ w h a,
      ((n < 8 ∨ (s.tamb (n - 8)).moving = none) → exec (.pumpError n w h a) s = .next s) ∧
      (∀ i, 8 ≤ n → (s.tamb (n - 8)).moving = some i → exec (.pumpError n w h a) s = .next
        ((((s.contextEnd (n - 8) St.dmaError).count (Reg.pmpRejects + 0x10 * n) 32 1).raise (Src.pump + n) (if h then Kind.hostDmaErr else Kind.eccUncorr) a 0).raise
          (Src.tambour + (n - 8)) Kind.ctxFail (addrC i.ch) (n - 8)))) ∧
    (∀ r, (s.pump n).running = some r →
      let u := s.noteAttrs r
      let part (w : Nat) : State := if w = 0 then u else moved u r (s.pump n).staging w
      let sev (w : Nat) : Nat := if r.srcSpace = 1 ∨ (s.pump n).staging = true ∧ w ≠ 0 then 3 else 0
      (s.badElement r = none → exec (.pumpDone n) s = .next (ended (moved u r (s.pump n).staging r.elements.length) r St.ok)) ∧
      (∀ k a, s.badElement r = some (k, a) →
        exec (.pumpDone n) s = .next ((ended (part (if (s.pump n).staging then 0 else k)) r St.dmaError).raise (Src.pump + n) Kind.hostDmaErr a 0)) ∧
      (∀ w a,
        exec (.pumpError n w true a) s = .next ((ended (part w) r St.dmaError).raise (Src.pump + n) Kind.hostDmaErr a 0) ∧
        exec (.pumpError n w false a) s = .next ((ended (part w) r St.dmaError).raise (Src.pump + n) Kind.eccUncorr a (sev w)))) ∧
    (∀ l r, l < 32 → s.pulseDone l r = s ∧ s.pulseError l r = s)

/-- The commands of the HBM controller (R429, R431, R432, R433, R435, R436, R437, R438, R440, R441, R445). A request that a port accepts joins those that
wait. A pseudo-channel of a trained stack refreshes a bank that can wait no longer, else issues the request it picks; untrained, in training or in
self-refresh it issues nothing. A read that returns is measured from its acceptance and its severity counted and raised; a poisoned block abandons the
encode band in CODING, is a finding of a decode band and cuts the packets of an output band; a verifying read that differs from the ledger of a sealed
row is ROW_CHECK_BAD. A due refresh is postponed under a request at urgency 3, four times at most. A row that has been idle for OPEN_IDLE closes. The
temperature sets the refresh range, with HBM_TEMP_HIGH on entry above 95 degrees. A stack without requests and reads for SR_IDLE microseconds enters
self-refresh with its rows closed, and leaves it for a wake or a waiting request. Training starts with no live channel and no busy pump, else
TRAIN_REJ is set; it ends with the lanes repaired and, for a channel with too many bad lanes, HBM_TRAIN_FAIL. A channel of a trained stack re-tracks.
A port's target is always taken, its reservation only while the sum stays at 208. -/
def Obligations.TheMemoryController : Prop :=
  (∀ (pc : Nat) (r : HbmReqArgs) (s : State), pc < 32 → s.hbm.trained = false → r.port < 8 → r.port ≠ 2 → r.port ≠ 3 → r.addr < 0x400000000 →
    exec (.hbmCommandIssue pc [r]) s = .next { s with hbm := { s.hbm with reqs := s.hbm.reqs ++ [{ port := r.port, addr := r.addr / 64 * 64, write := r.write, open_ := r.open_ || decide (4 ≤ r.port), at_ := s.now }], idleSince := s.now, exiting := s.hbm.exiting || s.hbm.selfRefresh } }) ∧
  (∀ (pc : Nat) (s : State), pc < 32 →
    ((s.hbm.trained = false ∨ s.hbm.training = true ∨ s.hbm.selfRefresh = true) → exec (.hbmCommandIssue pc []) s = .next s) ∧
    (s.hbm.trained = true → s.hbm.training = false → s.hbm.selfRefresh = false →
      (∀ b, s.forcedBank pc = some b → exec (.hbmCommandIssue pc []) s = .next (s.refreshBank pc b)) ∧
      (s.forcedBank pc = none → s.pickReq pc = none → exec (.hbmCommandIssue pc []) s = .next s) ∧
      (∀ r, s.forcedBank pc = none → s.pickReq pc = some r → exec (.hbmCommandIssue pc []) s = .next (s.issueReq pc r)))) ∧
  (∀ (port addr lat : Nat) (sev : BitVec 2) (s : State), port < 8 →
    let t := match s.hbm.reads.find? fun r => decide (r.port = port) && decide (r.addr = addr / 64 * 64) with
      | some r => { s with hbm := { s.hbm with reads := s.hbm.reads.erase r, idleSince := s.now } }.noteLatency port (s.now - r.at_)
      | none => s.noteLatency port lat
    let c := pcOf addr / 2
    (sev = 0 → exec (.hbmReadReturn port addr lat sev .plain) s = .next t) ∧
    (sev ≠ 0 → sev ≠ 3 → exec (.hbmReadReturn port addr lat sev .plain) s = .next
      ((t.count (Reg.hbmEccCorr + 4 * c) 32 1).raise (Src.hbmChannel + c) Kind.eccCorr addr sev.toNat)) ∧
    (sev = 3 → exec (.hbmReadReturn port addr lat sev .plain) s = .next
      ((t.count (Reg.hbmEccUncorr + 4 * c) 32 1).raise (Src.hbmChannel + c) Kind.eccUncorr addr 3)) ∧
    (sev = 3 → let u := (t.count (Reg.hbmEccUncorr + 4 * c) 32 1).raise (Src.hbmChannel + c) Kind.eccUncorr addr 3
      (∀ n i, (u.tamb n).coding = some i → (u.channel i.ch).decode = false → exec (.hbmReadReturn port addr lat sev (.encode n none)) s = .next (((u.abandon i).name n).settle i.ch)) ∧
      (∀ n i rs, (u.tamb n).coding = some i → (u.channel i.ch).decode = true →
        exec (.hbmReadReturn port addr lat sev (.decode n rs)) s = .next (u.modBand i fun b => { b with poisoned := b.poisoned ++ rs })) ∧
      (∀ ch px, (u.channel ch).decode = true →
        exec (.hbmReadReturn port addr lat sev (.egress ch px)) s = .next (u.modChannel ch fun x => { x with out := { x.out with poison := some px } }))) ∧
    (∀ ch k r first value p, sev = 0 → (t.channel ch).inSlot k = some p → 32 * r < ((t.channel ch).cfgOf p).codedLines → (t.channel ch).rowSealed p r = true → (t.channel ch).decode = true →
      SMap.get (fun _ => 0) t.hbm.ledger (ledgerKey ch k r) ≠ value % 2 ^ 32 →
      let u := { t with hbm := { t.hbm with lastBad := some (ch, k, r) } }
      let u := (u.count Reg.hbmLedgerBad 32 1).raise Src.hbm Kind.rowCheckBad first (packFields [(7, ch), (1, 1), (5, k), (7, r), (12, 0)])
      exec (.hbmReadReturn port addr lat sev (.verify ch k r first value)) s = .next (u.modPic ch p fun y => y.taintRow ((t.channel ch).cfgOf p) r)) ∧
    (∀ ch k r first value p, sev = 0 → (t.channel ch).inSlot k = some p → SMap.get (fun _ => 0) t.hbm.ledger (ledgerKey ch k r) = value % 2 ^ 32 →
      exec (.hbmReadReturn port addr lat sev (.verify ch k r first value)) s = .next t)) ∧
  (∀ (pc b : Nat) (s : State), pc < 32 → b < 16 →
    let k := s.hbmBank pc b
    let urgent := s.hbm.reqs.any fun r => decide (pcOf r.addr = pc) && decide (bankOf r.addr = b) && decide (s.urgency r.port = 3)
    ((s.now < k.refDue ∨ s.hbm.selfRefresh = true ∨ s.hbm.trained = false) → exec (.hbmRefresh pc b) s = .next s) ∧
    (k.refDue ≤ s.now → s.hbm.selfRefresh = false → s.hbm.trained = true →
      (urgent = true → k.postponed < 4 → exec (.hbmRefresh pc b) s = .next
        (s.modBank pc b fun k => { k with postponed := k.postponed + 1, refDue := s.now + s.refreshNs })) ∧
      ((urgent = false ∨ 4 ≤ k.postponed) → exec (.hbmRefresh pc b) s = .next
        (s.modBank pc b fun k => { k with row := none, postponed := 0, refDue := s.now + s.refreshNs }))) ∧
    (k.row.isSome = true → k.lastUse + 8 * max 1 (s.field Reg.hbmCfg 8 8) ≤ s.now →
      exec (.openRowIdleClose pc b) s = .next (s.modBank pc b fun k => { k with row := none })) ∧
    ((k.row = none ∨ s.now < k.lastUse + 8 * max 1 (s.field Reg.hbmCfg 8 8)) → exec (.openRowIdleClose pc b) s = .next s)) ∧
  (∀ (t : Int) (s : State),
    (t ≤ 95 → exec (.hbmTempRead t) s = .next { s with hbm := { s.hbm with temp := t, tempRange := if 85 < t then 1 else 0 } }) ∧
    (95 < t → let u := { s with hbm := { s.hbm with temp := t, tempRange := 2 } }
      (s.hbm.tempRange = 2 → exec (.hbmTempRead t) s = .next u) ∧
      (s.hbm.tempRange ≠ 2 → exec (.hbmTempRead t) s = .next (u.raise Src.hbm Kind.hbmTempHigh 0 (ofSigned 32 t))))) ∧
  (∀ s : State,
    let idle := s.field Reg.hbmCfg 0 8
    (s.hbm.trained = true → s.hbm.training = false → s.hbm.selfRefresh = false → s.hbm.reqs = [] → s.hbm.reads = [] → idle ≠ 0 → s.hbm.idleSince + 1000 * idle ≤ s.now →
      exec .selfRefreshEntry s = .next { s with hbm := { s.hbm with selfRefresh := true, exiting := false, banks := s.hbm.banks.filterMap fun e => if { e.2 with row := none } = ({} : HbmBank) then none else some (e.1, { e.2 with row := none }) } }) ∧
    ((s.hbm.trained = false ∨ s.hbm.training = true ∨ s.hbm.selfRefresh = true ∨ s.hbm.reqs ≠ [] ∨ s.hbm.reads ≠ [] ∨ idle = 0 ∨ s.now < s.hbm.idleSince + 1000 * idle) →
      exec .selfRefreshEntry s = .next s) ∧
    (∀ wake, s.hbm.selfRefresh = true → (wake = true ∨ s.hbm.exiting = true) →
      exec (.selfRefreshExit wake) s = .next { s with hbm := { s.hbm with selfRefresh := false, exiting := false, idleSince := s.now } }) ∧
    (∀ wake, (s.hbm.selfRefresh = false ∨ (wake = false ∧ s.hbm.exiting = false)) → exec (.selfRefreshExit wake) s = .next s)) ∧
  (∀ s : State,
    let busy := (s.pumps.any fun e => e.2.running.isSome) || (List.range 8).any fun t => (s.tamb t).moving.isSome
    (s.anyLive = false → busy = false → s.hbm.training = false → exec .hbmTrain s = .next { s with hbm := { s.hbm with training := true, selfRefresh := false } }) ∧
    ((s.anyLive = true ∨ busy = true ∨ s.hbm.training = true) → exec .hbmTrain s = .next (s.setBits Reg.hbmStatus 0x40))) ∧
  (∀ (lanes : BitVec 8) (c : Nat) (s : State),
    (s.hbm.training = false → exec (.hbmTrainingEnd none lanes) s = .next s ∧ exec (.hbmTrainingEnd (some c) lanes) s = .next s) ∧
    (s.hbm.training = true →
      exec (.hbmTrainingEnd none lanes) s = .next { s with hbm := { s.hbm with training := false, trained := true, lanesRepaired := lanes.toNat, idleSince := s.now } } ∧
      exec (.hbmTrainingEnd (some c) lanes) s = .next ({ s with hbm := { s.hbm with training := false, trained := false, lanesRepaired := lanes.toNat, idleSince := s.now } }.raise Src.hbm Kind.hbmTrainFail 0 c))) ∧
  (∀ (c : Nat) (s : State), c < 16 →
    (s.hbm.trained = true → exec (.wckRetrack c) s = .next { s with hbm := { s.hbm with retracks := SMap.modify (fun _ => 0) s.hbm.retracks c (· + 1) } }) ∧
    (s.hbm.trained = false → exec (.wckRetrack c) s = .next s)) ∧
  (∀ (n : Nat) (v : Word) (s : State), n < 8 →
    let rsv := bitsAt v.toNat 16 8
    let sum := ((List.range 8).map fun k => if k = n then rsv else s.portRsv k).sum
    let a := Reg.hbmPortCfg + 4 * n
    (sum ≤ 208 → exec (.hbmPortCfgWrite n v) s = .next (s.setRegN a (bitsAt v.toNat 0 16 + 65536 * rsv))) ∧
    (208 < sum → exec (.hbmPortCfgWrite n v) s = .next ((s.setRegN a (bitsAt v.toNat 0 16 + 65536 * s.portRsv n)).setBits Reg.hbmStatus 0x20)))

/-- Assertions, claims, software interrupts, fallback heads and MSI-X messages (R452, R453, R454, R455, R457, R459, R461, R462, R463, R466, R287). A claim
by a core returns the highest-numbered source that is pending, not in service and routed to it, moves it to in service by that core, and no later
claim returns it while it stays so; with none it returns 0 and changes nothing else. The rise of a line that is low is an assertion: the source is
counted, becomes pending when its sensing says so, and records are written; a high line does not rise. A falling line leaves what is pending. A
pending flag is cleared, and a level source samples its line. IRQ_SWI asserts sources 4 to 7. A core's HEAD between HEAD and TAIL is taken, and the
line of its queue falls when that empties (INVERT turns a line over); another one is DB_INVALID. A message that has waited its coalescing time is
sent; unmasking a vector sends the message it held. -/
def Obligations.InterruptSourcesAndClaims : Prop :=
  (∀ (c : Nat) (s : State), c < 4 → Tidy s →
    let can (n : Nat) : Prop := (s.src n).pending = true ∧ (s.src n).inService = false ∧ (s.src n).claimRoute c = true
    ((∀ n, 1 ≤ n → ¬ can n) → exec (.irqClaim c) s = .next { s with lastRead := 0 }) ∧
    (∀ n, 1 ≤ n → n ≤ 511 → can n → (∀ m, n < m → ¬ can m) →
      let t := { s with lastRead := BitVec.ofNat 32 n }.modSrc n fun i => { i with pending := false, inService := true, owner := c }
      exec (.irqClaim c) s = .next t ∧ ∀ d, t.claimable d ≠ n)) ∧
  (∀ (n : Nat) (s : State), assertable n = true →
    ((s.src n).line = true → exec (.interruptAssertion n) s = .next s) ∧
    ((s.src n).line = false → exec (.interruptAssertion n) s = .next ((s.modSrc n fun i => { i with line := true }).assertIrq n)) ∧
    (∀ (u : State) (high : Bool), u.rawLine n high = if high = (u.src n).invert then u.modSrc n fun i => { i with line := false }
      else if (u.src n).line = true then u else (u.modSrc n fun i => { i with line := true }).assertIrq n) ∧
    (∀ u : State, u.assertIrq n = ((u.count (Reg.irqCnt + 4 * n) 8 1).modSrc n fun i => if i.level then i.sample else { i with pending := true }).recordAssertion n) ∧
    exec (.filteredLineFall n) s = .next (s.modSrc n fun i => { i with line := false })) ∧
  (∀ (n : Nat) (s : State), 1 ≤ n → n ≤ 511 → exec (.irqPendingClear n) s = .next (s.modSrc n fun i =>
    { i with pending := i.level && i.line && !i.inService })) ∧
  (∀ (m : BitVec 4) (s : State), exec (.irqSwi m) s = .next
    (let f (t : State) (c : Nat) : State := if bitAt m.toNat c then t.assertIrq (4 + c) else t; f (f (f (f s 0) 1) 2) 3)) ∧
  (∀ (c : Nat) (v : Word) (s : State), c < 4 →
    let q := s.queue (fbQueue c)
    let t := s.modQueue (fbQueue c) fun u => { u with head := v.toNat }
    (q.fill < idxSub v.toNat q.head → exec (.irqEvqHead c v) s = .next (s.raise Src.irq Kind.dbInvalid 0 (fbQueue c))) ∧
    (idxSub v.toNat q.head ≤ q.fill →
      ((t.queue (fbQueue c)).isEmpty = true → exec (.irqEvqHead c v) s = .next (t.rawLine (8 + c) false)) ∧
      ((t.queue (fbQueue c)).isEmpty = false → exec (.irqEvqHead c v) s = .next t))) ∧
  (∀ (q : Nat) (s : State), q < 262144 →
    let u := s.queue q
    let t := s.modQueue q fun u => { u with msiDue := false, lastMsi := some s.now }
    ((u.valid = false ∨ u.msiDue = false ∨ s.now < u.lastMsi.getD 0 + 1000 * u.dueUs) → exec (.msixMessage q) s = .next s) ∧
    (u.valid = true → u.msiDue = true → u.lastMsi.getD 0 + 1000 * u.dueUs ≤ s.now →
      (u.space = .host → exec (.msixMessage q) s = .next (t.msixSend u.vector)) ∧
      (u.space ≠ .host → exec (.msixMessage q) s = .next (t.assertIrq (256 + u.vector))))) ∧
  (∀ (v : Nat) (s : State), v < 64 →
    let h := { s.host with unmasked := SMap.set (fun _ => false) s.host.unmasked v true }
    let held := SMap.get (fun _ => false) s.host.vecPend v && s.host.msixEnable && !s.host.funcMask
    (held = false → exec (.msixUnmask v) s = .next { s with host := h }) ∧
    (held = true → exec (.msixUnmask v) s = .next { s with host := { h with vecPend := SMap.set (fun _ => false) h.vecPend v false, msiSent := SMap.modify (fun _ => 0) h.msiSent v (· + 1) } }))

/-- A complete takes effect for the core that holds the source, and no other (R458). A write of source number s to IRQ_COMPLETE by core c completes s when
s is in service by c: an edge source leaves in service with what became pending meanwhile, a level source is pending exactly when its filtered line is
high then. A write that names a source not in service, one in service by another core, or number 0 (the field has 9 bits, so no number above 511) has
no effect but IRQ_BAD_COMPLETE with s in DETAIL. The effect is there with the command, within the 4 fclk of the rule. -/
def Obligations.CompletesReleaseTheSource : Prop :=
  ∀ (c : Nat) (v : Word) (s : State), c < 4 → Tidy s →
    let n := v.toNat % 512
    (1 ≤ n → (s.src n).inService = true → (s.src n).owner = c → ∃ t, exec (.irqComplete c v) s = .next t ∧
      t = s.modSrc n IrqSrc.complete ∧ (t.src n).inService = false ∧ (∀ m, m ≠ n → t.src m = s.src m) ∧
      (t.src n).pending = (if (s.src n).level then (s.src n).line else (s.src n).pending)) ∧
    ((n = 0 ∨ (s.src n).inService = false ∨ (s.src n).owner ≠ c) → ∃ t, exec (.irqComplete c v) s = .next t ∧
      t = { s with flt := t.flt } ∧ ∃ m, t.flt.inFlight = s.flt.inFlight ++ [m] ∧ m.source = Src.irq ∧ m.kind = Kind.irqBadComplete ∧ m.detail = n)

/-- HOST_ENABLE, windlass passes and halts, held completions, and register accesses (R9, R10, R11, R12, R266, R271, R275, R276, R278, R283, R288, R464).
HOST_ENABLE before READY or once ENABLED has no effect; it is kept in HST_CTRL; with a cause it stores it in HST_ERR; else the admin rings exist and
the windlass waits. A pass starts at a poll tick, one tick for each pass; one that finds nothing set, or the epoch unchanged, waits again; an access
of it that completes with an error halts it. Held completions are looked at once a poll tick, written while there is room, and the HSQs bound to the
HCQ are fetched again. A misaligned access reads 0, writes nothing and raises BAR_MISALIGNED. A write that nothing answers, or of a locked register,
has no effect; a plain register takes its RW bits and clears the W1C bits written 1; the low word of a pair is held and the high word commits both; a
write that inverts a source's line moves the line, and one of the poll interval keeps the tick that is due. A read of a register that does not respond
gives 0; a counter is read and its RC bits clear; the low word of a pair latches the high one. -/
def Obligations.RingsRegistersAndTheWindlass : Prop :=
  (∀ (epoch : Bool) (s : State),
    ((s.host.enabled = true ∨ s.host.ready = false) → exec (.hostEnable epoch) s = .next s) ∧
    (s.host.enabled = false → s.host.ready = true →
      let c := s.setRegN Reg.hstCtrl (1 + 2 * b2n epoch)
      (s.enableCause epoch ≠ 0 → exec (.hostEnable epoch) s = .next { c with host := { c.host with errCause := s.enableCause epoch } }) ∧
      (s.enableCause epoch = 0 → let t := c.adminRings
        exec (.hostEnable epoch) s = .next { t with host := { t.host with enabled := true, errCause := 0, epochMode := epoch, wsw := .waiting, lastEpoch := 0, lastGe := [], nextPoll := t.pollTime } }))) ∧
  (∀ (stores : List HostStore) (bad : List (Nat × Nat)) (s : State),
    let t := { s with hostBad := bad, hostMem := stores.foldl (fun m w => Memory.writeBytes zeroDefault m w.addr w.bytes) s.hostMem }
    let p := { t with host := { t.host with nextPoll := t.dueTick + t.pollEvery } }
    let ran (u : State) : State := u.setRegN Reg.wswPasses (u.regN Reg.wswPasses + 1)
    ((s.host.wsw ≠ .waiting ∨ 40 * s.time.tick < s.host.nextPoll) → exec (.windlassPass stores bad) s = .next t) ∧
    (s.host.wsw = .waiting → s.host.nextPoll ≤ 40 * s.time.tick → s.host.epochMode = false →
      (t.hostRead t.dbArea 8 = none → exec (.windlassPass stores bad) s = .next (p.haltWindlass 6)) ∧
      (t.hostRead t.dbArea 8 = some 0 → exec (.windlassPass stores bad) s = .next (p.hostWrite t.dbArea 8 0)) ∧
      (∀ v, t.hostRead t.dbArea 8 = some v → v ≠ 0 →
        exec (.windlassPass stores bad) s = .next (((setBitsOf v).foldl (fun t j => t.unlessHalted fun t => t.swapGroup j)
          (ran (p.hostWrite t.dbArea 8 0))).passEnd))) ∧
    (s.host.wsw = .waiting → s.host.nextPoll ≤ 40 * s.time.tick → s.host.epochMode = true →
      (t.hostRead (t.dbArea + 8) 8 = none → exec (.windlassPass stores bad) s = .next (p.haltWindlass 5)) ∧
      (t.hostRead (t.dbArea + 8) 8 = some s.host.lastEpoch → exec (.windlassPass stores bad) s = .next p) ∧
      (∀ e, t.hostRead (t.dbArea + 8) 8 = some e → e ≠ s.host.lastEpoch →
        ((ran p).hostRead ((ran p).dbArea + 0x240) 512 = none → exec (.windlassPass stores bad) s = .next ((ran p).haltWindlass 5)) ∧
        (∀ g, (ran p).hostRead ((ran p).dbArea + 0x240) 512 = some g →
          let u := (List.range 64).foldl (fun v j => if bitsAt g (64 * j) 64 = SMap.get (fun _ => 0) s.host.lastGe j then v else v.unlessHalted fun v => v.epochGroup j) (ran p)
          let ge := (List.range 64).foldl (fun m j => SMap.set (fun _ => 0) m j (bitsAt g (64 * j) 64)) s.host.lastGe
          exec (.windlassPass stores bad) s = .next { u with host := { u.host with lastEpoch := e, lastGe := ge } }.passEnd)))) ∧
  (∀ s : State,
    ((s.host.wsw ≠ .waiting ∨ 40 * s.time.tick < s.host.nextPoll) → exec (.windlassHalt false) s = .next s ∧ exec (.windlassHalt true) s = .next s) ∧
    (s.host.wsw = .waiting → s.host.nextPoll ≤ 40 * s.time.tick →
      let halt (k : Nat) : State := ({ s with host := { s.host with nextPoll := s.dueTick + s.pollEvery, wsw := .halted, errCause := k } }.raise
        Src.hostIf Kind.hostDmaErr 0 k).rawLine 52 true
      exec (.windlassHalt false) s = .next (halt 5) ∧ exec (.windlassHalt true) s = .next (halt 6))) ∧
  (∀ (cq : Nat) (x : HeldCpl) (s : State), cq < 262144 →
    let t := { s with host := { s.host with heldTry := SMap.set (fun _ => 0) s.host.heldTry cq (s.lastTick + 1) } }.refreshRoom cq
    let again (u : State) : State := ((u.queues.filter fun e => e.2.valid && decide (e.2.ty = .hsq)).map Prod.fst).foldl
      (fun v q => if v.cqOf q = cq then v.unlessHalted fun v => v.fetchAll q else v) u
    (s.lastTick < SMap.get (fun _ => 0) s.host.heldTry cq → exec (.heldCompletionWrite cq) s = .next s) ∧
    (SMap.get (fun _ => 0) s.host.heldTry cq ≤ s.lastTick →
      (t.host.held = [] → exec (.heldCompletionWrite cq) s = .next (again t)) ∧
      (t.host.held = [x] → x.cq = cq → ((t.queue cq).full = true ∨ (t.queue cq).valid = false ∨ t.host.busMaster = false) →
        exec (.heldCompletionWrite cq) s = .next (again t)) ∧
      (t.host.held = [x] → x.cq = cq → (t.queue cq).full = false → (t.queue cq).valid = true → t.host.busMaster = true →
        exec (.heldCompletionWrite cq) s = .next (again
          ({ t with host := { t.host with held := [] } }.putEntry cq (x.bits + 2 ^ 24 * (t.queue cq).phase (t.queue cq).tail)))))) ∧
  (∀ (a : Nat) (s : State), exec (.barMisaligned a) s = .next ({ s with lastRead := 0 }.raise Src.hostIf Kind.barMisaligned a 0)) ∧
  (∀ (who : Requester) (a : Nat) (v : Word) (s : State),
    ((s.responds a = false ∨ s.writeLocked who a = true) → exec (.registerWrite who a v) s = .next s) ∧
    (s.responds a = true → s.writeLocked who a = false → 0x100000 ≤ a → exec (.registerWrite who a v) s = .next (s.writeOutside a v.toNat)) ∧
    (s.responds a = true → s.writeLocked who a = false → a < 0x100000 →
      (∀ n, n < 8 → a = Reg.netPortCfg + 0x1000 * n → exec (.registerWrite who a v) s = .next (s.writePortCfg n v.toNat)) ∧
      (¬ (0x4004 ≤ a ∧ a < 0x4800 ∧ a % 4 = 0) → inRegs a Reg.netPortCfg 0x1000 8 = false → a ≠ Reg.wswPoll →
        (regRow a = none → exec (.registerWrite who a v) s = .next s) ∧
        (∀ r, regRow a = some r → r.lo = true → exec (.registerWrite who a v) s = .next (s.holdLow who a (BitVec.ofNat 32 (v.toNat &&& r.rw)))) ∧
        (∀ r, regRow a = some r → r.lo = false → r.hi = true → (a < Reg.ck ∨ Reg.timeCfg ≤ a) →
          exec (.registerWrite who a v) s = .next (s.commitPair who (a - 4) (BitVec.ofNat 32 (v.toNat &&& r.rw)))) ∧
        (∀ r, regRow a = some r → r.lo = false → r.hi = false → exec (.registerWrite who a v) s = .next (s.setRegN a (plainWrite r (s.regN a) v.toNat)))) ∧
      (∀ n, a = 0x4000 + 4 * n → 1 ≤ n → n ≤ 511 → exec (.registerWrite who a v) s = .next (let t := s.modSrc n fun i =>
        { i with route := bitsAt v.toNat 0 8, level := if 8 ≤ n ∧ n ≤ 11 ∨ 256 ≤ n then i.level else bitAt v.toNat 8, filter := bitsAt v.toNat 9 4, invert := bitAt v.toNat 13, pending := i.pending && !bitAt v.toNat 14 }.sample
        if (s.src n).invert = bitAt v.toNat 13 then t else if (s.src n).line = true then t.dropLine n else t.raiseLine n)) ∧
      (∀ r, a = Reg.wswPoll → regRow a = some r →
        exec (.registerWrite who a v) s = .next ({ s with host := { s.host with nextPoll := s.dueTick } }.setRegN a (plainWrite r (s.regN a) v.toNat))))) ∧
  (∀ (who : Requester) (a : Nat) (s : State),
    (s.responds a = false → exec (.rcRead who a) s = .next { s with lastRead := 0 }) ∧
    (s.responds a = true → a < 0x100000 → s.viewPair a = none → s.viewPair (a - 4) = none → s.view a = none →
      (∀ r, regRow a = some r → r.lo = false → r.hi = false → inRegs a (Reg.ck + 0x2C) 0x100 16 = false → r.rc ≠ 0 →
        exec (.rcRead who a) s = .next { s.setRegN a (s.regN a &&& (allBits ^^^ r.rc)) with lastRead := s.reg a }) ∧
      (∀ r, regRow a = some r → r.lo = true → exec (.rcRead who a) s = .next { s with lastRead := s.reg a, latchedHi := SMap.set (fun _ => none) s.latchedHi (reqKey who a) (some (s.reg (a + 4))) })))

/-- FAULT_MESSAGE, FLT_INJECT and FLT_LOG_CLR (R483, R486, R488, R489, R494, R499, R500). The oldest message on its way is taken, of those that arrive
with it the one of the lowest source; with none, and while the collector is asleep (its clock gated in RUNNING), none is taken. It is counted; a class
0 message is logged, a class 1 message is logged and notified, a class 2 message with no reaction in progress stops the channel it names, and a class
3 message, alone or while a channel is being stopped, drives the safe state and asks for a reset. While a reset holds the blocks a message is merged
into the reaction that the reset ended, or logged. A detected message of a listed kind is taken at once, or joins those on their way, with the next
sequence number of its source; a code that is not listed is not raised. An injection with the key raises a message of its kind from the requester,
else INJ_REJ is set. A clear empties the log. -/
def Obligations.FaultMessagesAreTaken : Prop :=
  (∀ s : State, (s.flt.inFlight = [] ∨ s.collectorSleeps = true) → exec (.faultMessage none) s = .next s) ∧
  (∀ (r : RaisedMsg) (s : State),
    (kindInfo r.kind.toNat = none → exec (.faultMessage (some r)) s = .next s) ∧
    ((kindInfo r.kind.toNat).isSome = true →
      let n := SMap.get (fun _ => 0) s.flt.seqs r.source.toNat
      let m : FaultMsg := { source := r.source.toNat, kind := r.kind.toNat, cls := kindDefault r.kind.toNat, address := r.address.toNat % 2 ^ 48, detail := r.detail.toNat % 2 ^ 32, tick := s.time.tick % 2 ^ 24, seq := n, timeNs := s.now }
      let t : State := { s with flt := { s.flt with seqs := SMap.set (fun _ => 0) s.flt.seqs r.source.toNat ((n + 1) % 16) } }
      (s.collectorSleeps = false → exec (.faultMessage (some r)) s = .next (t.accept m)) ∧
      (s.collectorSleeps = true → exec (.faultMessage (some r)) s = .next { t with flt := { t.flt with inFlight := t.flt.inFlight ++ [m] } }))) ∧
  (∀ (x m : FaultMsg) (rest : List FaultMsg), nextMessage (x :: rest) = some m →
    m ∈ x :: rest ∧ m.timeNs = x.timeNs ∧ ∀ y ∈ x :: rest, y.timeNs = x.timeNs → m.source ≤ y.source) ∧
  (∀ (m : FaultMsg) (s : State), nextMessage s.flt.inFlight = some m → (s.rst.state = .held ∨ s.rst.state = .releasing) →
    let b := { s with flt := { s.flt with inFlight := s.flt.inFlight.erase m } }
    let cls := handledClass (b.kindClass m.kind) m
    let c := b.count (Reg.fltCnt + 4 * m.kind) 16 1
    ((cls < 2 ∨ s.flt.mergeRst = false) → exec (.faultMessage none) s = .next (c.logMessage m cls)) ∧
    (2 ≤ cls → s.flt.mergeRst = true → exec (.faultMessage none) s = .next { c with flt := { c.flt with lastMrg := min (s.flt.lastMrg + 1) 255, lastSec := if s.flt.lastSec = 0 then m.kind else s.flt.lastSec } })) ∧
  (∀ (m : FaultMsg) (s : State), nextMessage s.flt.inFlight = some m → s.rst.state ≠ .held → s.rst.state ≠ .releasing → s.collectorSleeps = false →
    let b := { s with flt := { s.flt with inFlight := s.flt.inFlight.erase m } }
    let cls := handledClass (b.kindClass m.kind) m
    let c := b.count (Reg.fltCnt + 4 * m.kind) 16 1
    (cls = 0 → exec (.faultMessage none) s = .next (c.logMessage m 0)) ∧
    (cls = 1 → exec (.faultMessage none) s = .next ((c.logMessage m 1).notify m 1)) ∧
    (s.flt.reaction = none → cls = 2 → exec (.faultMessage none) s = .next ((((c.logMessage m 2).notify m 2).takeIn { first := m, cls := 2 } m).endClass2)) ∧
    (s.flt.reaction = none → cls = 3 → exec (.faultMessage none) s = .next ((((c.logMessage m 3).notify m 3).setReaction { first := m, cls := 3 }).enterSafe.requestReset)) ∧
    (∀ r, s.flt.reaction = some r → r.cls = 2 → cls = 3 → exec (.faultMessage none) s = .next
      ((({ c with flt := c.flt.logWrite (m.entry 3) }.notify m 3).setReaction { r with cls := 3 }).enterSafe.requestReset)) ∧
    (∀ r, s.flt.reaction = some r → r.cls = 3 → cls = 3 → exec (.faultMessage none) s = .next
      (c.setReaction { r with merged := r.merged + 1, secondary := (if r.secondary = 0 then m.kind else r.secondary) }))) ∧
  (∀ (who : Requester) (kind : BitVec 8) (cls : BitVec 2) (key : BitVec 16) (s : State),
    (key = 0x464C → (kindInfo kind.toNat).isSome = true → exec (.fltInject who kind cls key) s = .next
      (s.raise (match who with | .host => Src.hostInject | .core c => Src.firmware + c) kind.toNat 0 0)) ∧
    ((key ≠ 0x464C ∨ kindInfo kind.toNat = none) → exec (.fltInject who kind cls key) s = .next (s.setBits Reg.fltStatus 0x20))) ∧
  (∀ s : State, exec (.fltLogClr true) s = .next { s with flt := { s.flt with log := [], logNext := 0, logTotal := 0 } } ∧ exec (.fltLogClr false) s = .next s)

/-- A kind's class is set at or above its floor, and no lower (R487). The floor of a kind is its default class when that is 2 or 3, and 0 otherwise. A
write of FLT_KINDk.CLASS at or above the floor sets the class that messages accepted from then on are given, and no other kind's class; a write below
the floor has no effect and sets OVR_REJ, bit 4 of FLT_STATUS. -/
def Obligations.ClassesStayAboveTheirFloor : Prop :=
  ∀ (kind : BitVec 8) (cls : BitVec 2) (i : KindInfo) (s : State), kindInfo kind.toNat = some i →
    let floor := if i.cls = 2 ∨ i.cls = 3 then i.cls else 0
    (floor ≤ cls.toNat → SMap.wf kindDefault s.flt.classes = true → ∃ t, exec (.fltKindWrite kind cls) s = .next t ∧
      t = { s with flt := { s.flt with classes := t.flt.classes } } ∧ t.kindClass kind.toNat = cls.toNat ∧ ∀ k, k ≠ kind.toNat → t.kindClass k = s.kindClass k) ∧
    (cls.toNat < floor → exec (.fltKindWrite kind cls) s = .next (s.setReg Reg.fltStatus (s.reg Reg.fltStatus ||| 0x10)))

/-- The level of a reset source (R505). A source's level is the value of its field in RST_MAP, a value from 4 on acting as 0 and level 3 giving 2; a link
source (2, 3 or 4) that names 2 or 3 gets 1; source 5 takes the deeper, which is the lower number, of the software's level and its field. Field 0
reads 0. A write changes a field only to a lower value. With blank fuse words the map is 0x22211110 and 0x00021222, and a level 0 release that loads
the option words loads the map from them. -/
def Obligations.LevelsOfResetSources : Prop :=
  (∀ (i : Nat) (s : State), 1 ≤ i → i < 16 →
    let f := if i < 8 then s.field Reg.rstMap0 (4 * i) 4 else s.field Reg.rstMap1 (4 * (i - 8)) 4
    let v := if f = 0 ∨ 4 ≤ f then 0 else if f = 3 then 2 else f
    (i ≠ 2 → i ≠ 3 → i ≠ 4 → i ≠ 5 → s.sourceLevel i = v) ∧
    (i = 2 ∨ i = 3 ∨ i = 4 → s.sourceLevel i = if f = 2 ∨ f = 3 then 1 else v) ∧
    (i = 5 → s.sourceLevel i = min v s.rst.swLevel)) ∧
  (∀ s : State, s.sourceLevel 0 = 0) ∧
  (∀ (hi : Bool) (v : Word) (s : State), Tidy s →
    let a := if hi then Reg.rstMap1 else Reg.rstMap0
    ∃ t, exec (.rstMapWrite hi v) s = .next t ∧ (∃ w, t = s.setReg a w) ∧
      ∀ k, k < 8 → t.field a (4 * k) 4 = if bitsAt v.toNat (4 * k) 4 < s.field a (4 * k) 4 then bitsAt v.toNat (4 * k) 4 else s.field a (4 * k) 4) ∧
  (State.reset.regN Reg.rstMap0 = 0x22211110 ∧ State.reset.regN Reg.rstMap1 = 0x00021222) ∧
  (∀ f : FuseSt, (∀ k, k < 3 → f.copy 2 k = 0 ∧ f.copy 3 k = 0) → f.optWord 2 = some (0x22211110, false) ∧ f.optWord 3 = some (0x00021222, false)) ∧
  (∀ (role : Bool) (sh : SMap Nat) (n : Nat) (key : Bool) (s : State), Tidy s → s.rst.state = .held → s.rst.asserted = 0 → s.fuse.inPulse = false →
    s.rst.deepest = 0 → s.fuse.load 128 0 [] 0 false = .inr (sh, n, key) → ∃ t, exec (.resetRelease false role) s = .next t ∧
      t.regN Reg.rstMap0 = SMap.get (fun _ => 0) sh 2 % 2 ^ 32 / 16 * 16 ∧ t.regN Reg.rstMap1 = SMap.get (fun _ => 0) sh 3 % 2 ^ 20)

/-- Every reset source, and what its assertion does (R503, R504, R505, R506, R507, R531). The rails, RST_N and PERST_N assert and release sources 0, 1 and
2; a hot reset asserts source 3 and a lost link source 4, unless source 2 or 3 has taken the link down; a write of a watchdog's period starts its
count; when the count comes to the period WDOG_EXPIRE is raised and source 6 + c asserted, half of it interrupts by 12 + c once, and a watchdog
without a period, or before its time, does neither; one that ran before the blocks were held counts on while they are, until release begins. In
RUNNING an asserted source begins an episode: the device is held at the source's level with that source first, FAULT_N and TWIN_YIELD_N low and the
device safe; the queue of waiting commands, host memory and the fuse rows stay. -/
def Obligations.ResetSourcesAreAsserted : Prop :=
  (∀ s : State, exec (.por true) s = .next (s.assertSource 0) ∧ exec (.por false) s = .next (s.releaseSource 0) ∧
    exec (.rstN true) s = .next (s.assertSource 1) ∧ exec (.rstN false) s = .next (s.releaseSource 1) ∧
    exec (.perstN true) s = .next (s.assertSource 2) ∧ exec (.perstN false) s = .next (s.releaseSource 2) ∧
    exec .pcieHotReset s = .next (s.assertSource 3) ∧
    (s.rst.asserted &&& 0x000C = 0 → exec .pcieLinkDown s = .next (s.assertSource 4)) ∧
    (s.rst.asserted &&& 0x000C ≠ 0 → exec .pcieLinkDown s = .next s)) ∧
  (∀ (c : Nat) (us : BitVec 24) (s : State), c < 4 →
    let d := s.wdog c
    let ran := s.time.tick - d.start
    (∃ t, exec (.rstWdogWrite c us) s = .next t ∧ t = { s.setRegN (Reg.rstWdog + 4 * c) us.toNat with rst := t.rst } ∧ t.wdog c = { period := us.toNat, start := s.time.tick, half := false } ∧
      ∀ e, e ≠ c → Tidy s → t.wdog e = s.wdog e) ∧
    ((d.period = 0 ∨ ran < 25 * d.period) → exec (.wdogExpire c) s = .next s) ∧
    ((d.period = 0 ∨ 2 * ran < 25 * d.period ∨ d.half = true) → exec (.watchdogHalf c) s = .next s) ∧
    (d.period ≠ 0 → 25 * d.period ≤ ran → exec (.wdogExpire c) s = .next
      (((s.setWdog c { period := 0, start := 0, half := false }).raise (Src.firmware + c) Kind.wdogExpire 0 c).assertSource (6 + c))) ∧
    (d.period ≠ 0 → 25 * d.period ≤ 2 * ran → d.half = false → exec (.watchdogHalf c) s = .next ((s.setWdog c { d with half := true }).assertIrq (12 + c)))) ∧
  (∀ (i : Nat) (s : State), s.rst.state = .running → i < 16 →
    let t := s.assertSource i
    t.rst.state = .held ∧ t.rst.first = i ∧ t.rst.level = s.sourceLevel i ∧ t.rst.deepest = s.sourceLevel i ∧
    t.rst.asserted = s.rst.asserted ||| BitVec.ofNat 16 (2 ^ i) ∧ t.faultN = true ∧ t.yieldN = true ∧ t.flt.safe = true ∧
    t.pending = s.pending ∧ t.hostMem = s.hostMem ∧ t.fuse.rows = s.fuse.rows)

/-- RESET_RELEASE, CLOCK_GOOD, CLK_LOST and SELF_TEST_END (R507, R508, R509, R511, R514, R519, R521, R522). Release waits while a source is asserted or a
fuse pulse is in progress; at level 1 or 2 it goes on to RELEASING, at level 0 after the option words have been loaded, and a failed load ends in
diagnostic hold with the words loaded before the failing one kept; a source asserted during the load stops it. A good clock takes its blocks out of
those held, a block release that waits for it goes on, and a hoop's clock wakes its tambours; with the fabric and the core clock good in RELEASING
self-test begins. A lost clock is counted; but for HELD and RELEASING, the loss of fclk drives the safe state and source 10, that of XTAL_25M asserts
source 0, and another holds its blocks again with CLK_LOST for each. A self-test whose every step passed makes the device RUNNING and READY, with the
safe state and both pins released; a failed step, or a vendor image of the flash that fails its checks, is raised and the device enters diagnostic
hold. -/
def Obligations.ReleaseClocksAndSelfTest : Prop :=
  (∀ (cut role : Bool) (s : State),
    ((s.rst.state ≠ .held ∨ s.rst.asserted ≠ 0) → exec (.resetRelease cut role) s = .next s) ∧
    (s.rst.state = .held → s.rst.asserted = 0 →
      (s.fuse.inPulse = true → exec (.resetRelease cut role) s = .next { s with rst := { s.rst with fuseWait := true } }) ∧
      (s.fuse.inPulse = false → s.rst.deepest = 2 → exec (.resetRelease cut role) s = .next
        { s with rst := { s.rst with state := .releasing, wdogs := [] }, pwr := { s.pwr with pllOn := true } }) ∧
      (s.fuse.inPulse = false → s.rst.deepest = 1 → exec (.resetRelease cut role) s = .next
        { s with rst := { s.rst with state := .releasing, wdogs := [], twinRole := role }, pwr := { s.pwr with pllOn := true } }) ∧
      (s.fuse.inPulse = false → s.rst.deepest = 0 →
        let u := { s with rst := { s.rst with wdogs := [], twinRole := role } }
        (cut = true → exec (.resetRelease cut role) s = .next { u with rst := { u.rst with optRestart := true } }) ∧
        (cut = false → u.optionLoad.fuse.loaded = true → exec (.resetRelease cut role) s = .next
          { u.optionLoad with rst := { u.optionLoad.rst with state := .releasing }, pwr := { u.optionLoad.pwr with pllOn := true } }) ∧
        (∀ i sh n key, cut = false → s.fuse.load 128 0 [] 0 false = .inl (i, sh, n, key) →
          let v := { u with fuse := { s.fuse with shadow := sh, openKey := key, single := n, loaded := false, failWord := i } }.raise Src.fuse Kind.optionFail 0 (1 + 256 * i)
          exec (.resetRelease cut role) s = .next { v with rst := { v.rst with state := .diagHold, selfTest := optionFailRecord i n }, host := { v.host with ready := true } })))) ∧
  (∀ (k : Nat) (s : State), k < 12 →
    let good := s.pwr.clkGood ||| BitVec.ofNat 12 (2 ^ k)
    let u := { s with pwr := { s.pwr with clkGood := good }, rst := { s.rst with clkHeld := s.rst.clkHeld.filter fun id => blockClock id ≠ k } }
    let u := if s.rst.blk.pendingClk && bitAt good.toNat (blockClock s.rst.blk.block) && !s.gated s.rst.blk.block then
      { u with rst := { u.rst with blk := { s.rst.blk with pendingClk := false, busy := false, heldAt := none } } } else u
    let u := if 1 ≤ k ∧ k ≤ 4 then (u.clockArrives (2 * k - 2)).clockArrives (2 * k - 1) else u
    (s.rst.state = .releasing → good &&& 0x021 = 0x021 → exec (.clockGood k) s = .next
      { u with rst := { u.rst with state := .selfTest }, pwr := { u.pwr with coreClk := 0xF, awake := .corePll :: u.pwr.awake.filter (· ≠ .corePll) } }) ∧
    ((s.rst.state ≠ .releasing ∨ good &&& 0x021 ≠ 0x021) → exec (.clockGood k) s = .next u) ∧
    (∃ v, exec (.clockGood k) s = .next v ∧ v.pwr.clkGood = good ∧ v.rst.clkHeld = s.rst.clkHeld.filter (fun id => blockClock id ≠ k) ∧
      v.rst.state = if s.rst.state = .releasing ∧ good &&& 0x021 = 0x021 then .selfTest else s.rst.state)) ∧
  (∀ (k : Nat) (s : State), k < 12 →
    (bitAt s.pwr.clkGood.toNat k = false → exec (.clkLost k) s = .next s) ∧
    (bitAt s.pwr.clkGood.toNat k = true →
      let u := { s with pwr := { s.pwr with clkGood := s.pwr.clkGood &&& ~~~(BitVec.ofNat 12 (2 ^ k)) } }.count Reg.clkLostCnt 16 1
      ((s.rst.state = .held ∨ s.rst.state = .releasing) → exec (.clkLost k) s = .next u) ∧
      (s.rst.state ≠ .held → s.rst.state ≠ .releasing →
        (k = 0 → exec (.clkLost k) s = .next (u.enterSafe.assertSource 10)) ∧
        (k = 11 → exec (.clkLost k) s = .next (u.assertSource 0)) ∧
        (k ≠ 0 → k ≠ 11 → exec (.clkLost k) s = .next ((clockBlocks k).foldl (fun t id =>
          { t with rst := { t.rst with clkHeld := t.rst.clkHeld ++ [id] } }.raise Src.reset Kind.clkLost 0 id) u))) ∧
      (∃ v, exec (.clkLost k) s = .next v ∧ (k ≠ 0 → k ≠ 11 → v.rst.clkHeld = s.rst.clkHeld ++
        if s.rst.state = .held ∨ s.rst.state = .releasing then [] else clockBlocks k)))) ∧
  (∀ (r : SelfTestResult) (s : State),
    (s.rst.state ≠ .selfTest → exec (.selfTestEnd r) s = .next s) ∧
    (s.rst.state = .selfTest →
      let rec_ (k : Option Nat) : Nat := selfTestRecord { r with failStep := k } s.rst.level (s.field Reg.rstSelftestCfg 0 1) s.fuse.single 0xFF
      let ends (u : State) (k : Option Nat) : State := { u with rst := { u.rst with selfTest := rec_ k } }
      let held (u : State) (k : Nat) : State := { ends u (some k) with rst := { (ends u (some k)).rst with state := .diagHold }, host := { u.host with ready := true } }
      let f := s.flashRun r.flash
      (r.failStep = none → f.2 = true → exec (.selfTestEnd r) s = .next ((ends f.1 none).becomeReady r.lanesRepaired.toNat)) ∧
      (r.failStep = none → f.2 = false → exec (.selfTestEnd r) s = .next ((held f.1 6).raise Src.reset Kind.selftestFail 0 6)) ∧
      (∀ k, r.failStep = some k → k < 6 →
        ((k ≠ 4 ∨ r.hbmTrainFail = none) → exec (.selfTestEnd r) s = .next ((held s k).raise Src.reset Kind.selftestFail 0 k)) ∧
        (∀ c, k = 4 → r.hbmTrainFail = some c → exec (.selfTestEnd r) s = .next ((held s 4).raise Src.hbm Kind.hbmTrainFail 0 c))))) ∧
  (∀ (n : Nat) (s : State), let t := s.becomeReady n
    t.rst.state = .running ∧ t.host.ready = true ∧ t.flt.safe = false ∧ t.faultN = false ∧ t.yieldN = false ∧ t.hbm.trained = true ∧ t.rst.selfTest = s.rst.selfTest)

/-- Block resets, fuse programming, THERMAL_SAMPLE and the SMBus target (R510, R512, R527, R535, R550, R555, R556, R557, R485). A core's request for a
block that may be reset, while none is BUSY and the device is RUNNING, is taken, and a gated block is held at once; any other is REJ, and a host write
has no effect. An idle block is held and cleared, and any when RST_IDLE_TIMEOUT has passed since the request (0 acting as 1 microsecond), with
IDLE_TIMEOUT. 16 ticks after the hold the block is released when its clock is good, else the release is pending. A refused programming sets PROG_REJ
alone; another begins the pulses of the blank copies, and each pulse's end writes its copy. A valid reading is kept with the highest; at 100 degrees
it warns and raises the line of source 51, at 115 it trips, below 97 it warns no more. The SMBus target answers the codes 0x00 to 0x10 and 0x20 to
0x22 with the words of R550, none while source 0 is asserted, and no other code; SMB_ALERT_N is asserted while a sensor warns or an episode of source
11 lasts, and its address answers the alert response. -/
def Obligations.BlocksFusesAndSensors : Prop :=
  (∀ (c : Nat) (b : BitVec 10) (s : State),
    exec (.rstBlock .host b) s = .next s ∧
    ((resettable b.toNat = false ∨ s.rst.blk.busy = true ∨ s.rst.state ≠ .running) →
      exec (.rstBlock (.core c) b) s = .next { s with rst := { s.rst with blk := { s.rst.blk with rej := true } } }) ∧
    (resettable b.toNat = true → s.rst.blk.busy = false → s.rst.state = .running →
      let t := { s with rst := { s.rst with blk := { block := b.toNat, busy := true, askedAt := s.time.tick } } }
      (s.gated b.toNat = false → exec (.rstBlock (.core c) b) s = .next t) ∧
      (s.gated b.toNat = true → exec (.rstBlock (.core c) b) s = .next t.holdBlock))) ∧
  (∀ s : State,
    ((s.rst.blk.busy = false ∨ s.rst.blk.heldAt.isSome = true) → exec .blockIdle s = .next s ∧ exec .idleTimeout s = .next s) ∧
    (s.time.tick < s.rst.blk.askedAt + 25 * max 1 (s.field Reg.rstIdleTimeout 0 16) → exec .idleTimeout s = .next s) ∧
    (s.rst.blk.busy = true → s.rst.blk.heldAt = none →
      exec .blockIdle s = .next { s.clearBlock s.rst.blk.block with rst := { s.rst with blk := { s.rst.blk with heldAt := some s.time.tick } } } ∧
      (s.rst.blk.askedAt + 25 * max 1 (s.field Reg.rstIdleTimeout 0 16) ≤ s.time.tick → exec .idleTimeout s = .next ({ s with rst := { s.rst with blk := { s.rst.blk with timeout := true } } }.holdBlock.raise Src.reset Kind.idleTimeout 0 s.rst.blk.block))) ∧
    (s.rst.blk.heldAt = none → exec .blockRelease s = .next s) ∧
    (∀ k, s.rst.blk.heldAt = some k → s.rst.blk.busy = true →
      let free := bitAt s.pwr.clkGood.toNat (blockClock s.rst.blk.block) && !s.gated s.rst.blk.block
      (s.time.tick < k + 16 → exec .blockRelease s = .next s) ∧
      (k + 16 ≤ s.time.tick → free = true → exec .blockRelease s = .next
        { s with rst := { s.rst with blk := { s.rst.blk with busy := false, pendingClk := false, heldAt := none } } }) ∧
      (k + 16 ≤ s.time.tick → free = false → exec .blockRelease s = .next { s with rst := { s.rst with blk := { s.rst.blk with pendingClk := true } } }))) ∧
  (∀ (w : BitVec 7) (key : BitVec 16) (s : State),
    (s.fuseRefused w.toNat key.toNat = true → exec (.fuseProgCmd w key) s = .next (s.setBits Reg.fuseStatus 0x20000)) ∧
    (s.fuseRefused w.toNat key.toNat = false →
      let d := s.regN Reg.fuseProgData
      let blank := [0, 1, 2].filter fun k => decide (s.fuse.copy w.toNat k = 0)
      exec (.fuseProgCmd w key) s = .next { s with fuse := { s.fuse with progWord := w.toNat, progCopy := d + 2 ^ 32 * crc8 d 4, toPulse := blank, inPulse := !blank.isEmpty } })) ∧
  (∀ s : State,
    (s.fuse.inPulse = false → exec .fusePulseEnd s = .next s) ∧
    (∀ k rest, s.fuse.inPulse = true → s.fuse.toPulse = k :: rest → exec .fusePulseEnd s = .next { s with fuse := { s.fuse with rows := SMap.set (fun _ => 0) s.fuse.rows (128 * k + s.fuse.progWord) s.fuse.progCopy, toPulse := rest, inPulse := !rest.isEmpty } })) ∧
  (∀ (n : Nat) (temp : Int) (s : State), n < 16 →
    let o := s.sensor n
    let now (warn : Bool) : State := { s with sensors := SMap.set (fun _ => {}) s.sensors n { temp := temp, valid := true, read := true, warn := warn, failed := false } }
    let top (t : State) : State := if toSigned 11 (t.field Reg.pwrTempMax 0 11) < temp then t.setRegN Reg.pwrTempMax (ofSigned 11 temp + 65536 * n) else t
    let anyWarn (t : State) : Bool := (List.range 16).any fun k => (t.sensor k).warn
    let allRead (t : State) : Bool := (List.range 16).all fun k => (t.sensor k).read
    (temp < 388 → anyWarn (now false) = false → allRead (now false) = false →
      exec (.thermalSample n temp true) s = .next ((top (now false)).rawLine 51 false)) ∧
    (temp < 388 → anyWarn (now false) = false → allRead (now false) = true →
      exec (.thermalSample n temp true) s = .next ((top (now false)).rawLine 51 false).tripState) ∧
    (400 ≤ temp → temp < 460 → o.warn = false → anyWarn (now true) = true → allRead (now true) = false →
      exec (.thermalSample n temp true) s = .next ((top ((now true).raise (Src.sensor + n) Kind.thermWarn 0 (thermDetail n temp))).rawLine 51 true)) ∧
    (460 ≤ temp → o.warn = true → (o.valid = false ∨ o.temp < 460) → anyWarn (now true) = true → allRead (now true) = false → bitAt s.rst.asserted.toNat 11 = false →
      exec (.thermalSample n temp true) s = .next ((((top (now true)).rawLine 51 true).raise (Src.sensor + n) Kind.thermTrip 0 (thermDetail n temp)).assertSource 11))) ∧
  (∀ (k : Nat) (s : State),
    (bitAt s.rst.asserted.toNat 0 = true → s.smbAnswer k = none ∧ s.smbAra = none) ∧
    (bitAt s.rst.asserted.toNat 0 = false →
      (k < 16 → s.smbAnswer k = some (bytesOf ((s.viewRst (0x140 + 4 * k)).getD 0) 2)) ∧
      s.smbAnswer 0x10 = some (bytesOf (s.regN Reg.pwrTempMax) 2) ∧
      (s.fuse.loaded = true → s.smbAnswer 0x20 = some (bytesOf (s.devIdent + 2 ^ 32 * s.devCaps) 8)) ∧
      s.smbAnswer 0x21 = some (bytesOf ((s.viewRst 0).getD 0 + 2 ^ 32 * (s.viewRst 4).getD 0) 8) ∧
      s.smbAnswer 0x22 = some (bytesOf ((s.viewRst 0x180).getD 0) 4) ∧
      (16 < k → k ≠ 0x20 → k ≠ 0x21 → k ≠ 0x22 → s.smbAnswer k = none) ∧
      s.smbAra = if s.smbAlert then some 0x4D else none) ∧
    ((∃ n, n < 16 ∧ (s.sensor n).warn = true) → s.smbAlert = true) ∧
    ((∀ n, n < 16 → (s.sensor n).warn = false) → s.rst.state = .running → s.smbAlert = bitAt s.rst.asserted.toNat 11))

/-- CFG, START, DATA, a restored VALUE and the alive counters of a check unit (R470, R471, R473, R474, R475, R476, R478). A CFG write with preset 1 to 5
loads its parameters and starts; with another it takes the fields as written and cuts every pair to the width. START makes the running value INIT;
DATA feeds BYTES bytes. A unit with the same parameters in which a saved value is written back, low word first, continues exactly as the unit from
which it was saved. An alive value is judged FIRST, OK, REPEAT or GAP by the table of R476, with the slot, the counts and the notices it gives; a
clear unsets the slots of its mask. -/
def Obligations.CheckUnitsComputeAndWatch : Prop :=
  (∀ (n : Nat) (v : Word) (s : State), n < 16 →
    (∀ m, crcPreset (bitsAt v.toNat 8 3) = some m →
      let c := s.setRegN (ckBase n) (packFields [(6, m.width - 1), (1, b2n m.refin), (1, b2n m.refout), (3, 0), (3, bitsAt v.toNat 11 3)])
      exec (.ckCfgWrite n v) s = .next ((((c.setPair (ckBase n + 0x10) m.width m.poly).setPair (ckBase n + 0x18) m.width m.init).setPair (ckBase n + 0x20) m.width
        m.xorout).setPair (ckBase n + 0x28) m.width m.init)) ∧
    (crcPreset (bitsAt v.toNat 8 3) = none → exec (.ckCfgWrite n v) s = .next
      ((s.setRegN (ckBase n) (packFields [(8, v.toNat), (3, 0), (3, bitsAt v.toNat 11 3)])).ckTruncate n (bitsAt v.toNat 0 6 + 1))) ∧
    exec (.ckStart n) s = .next (s.setPair (ckBase n + 0x28) (s.ckWidth n) (s.pair (ckBase n + 0x18))) ∧
    exec (.ckData n v) s = .next ((s.setPair (ckBase n + 0x28) (s.ckWidth n) (crcFeed (s.ckModel n) (s.ckValue n) (recBytes v.toNat (s.ckBytes n)))).wakeBlock (Src.checkUnit + n))) ∧
  (∀ (n : Nat) (who : Requester) (s u : State), n < 16 → Tidy s → Tidy u → u.rst.state = .running →
    s.ckValue n < 2 ^ s.ckWidth n → u.regN (ckBase n) = s.regN (ckBase n) → u.ckModel n = s.ckModel n → ∃ u1 t,
      exec (.registerWrite who (ckBase n + 0x28) (BitVec.ofNat 32 (s.ckValue n))) u = .next u1 ∧
      exec (.ckValueRestore who n (BitVec.ofNat 32 (s.ckValue n / 2 ^ 32))) u1 = .next t ∧
      t.ckValue n = s.ckValue n ∧ t.ckResult n = s.ckResult n ∧
      ∀ d, ∃ s2 t2, exec (.ckData n d) s = .next s2 ∧ exec (.ckData n d) t = .next t2 ∧ t2.ckValue n = s2.ckValue n ∧ t2.ckResult n = s2.ckResult n) ∧
  (∀ (n : Nat) (k : BitVec 5) (v : BitVec 8) (s : State), n < 16 →
    let l := s.aliveSlot n k.toNat
    let stat (code missing : Nat) : State := s.setRegN (ckBase n + 0x44) (packFields [(2, code), (5, k.toNat), (1, 0), (8, missing)])
    (l = none → exec (.ckAlive n k v) s = .next (((stat 1 0).setAlive n k.toNat (some v.toNat)).wakeBlock (Src.checkUnit + n))) ∧
    (∀ w, l = some w → v.toNat = (w + 1) % 256 → exec (.ckAlive n k v) s = .next (((stat 0 0).setAlive n k.toNat (some v.toNat)).wakeBlock (Src.checkUnit + n))) ∧
    (∀ w, l = some w → w < 256 → v.toNat = w → exec (.ckAlive n k v) s = .next
      ((((stat 2 0).count (ckBase n + 0x4C) 16 1).raise (Src.checkUnit + n) Kind.repeat_ 0 k.toNat).wakeBlock (Src.checkUnit + n))) ∧
    (∀ w g, l = some w → w < 256 → v.toNat ≠ w → v.toNat ≠ (w + 1) % 256 → g < 256 → (w + 1 + g) % 256 = v.toNat → exec (.ckAlive n k v) s = .next
      (((((stat 3 g).setAlive n k.toNat (some v.toNat)).count (ckBase n + 0x50) 16 1).raise (Src.checkUnit + n) Kind.gap 0 g).wakeBlock (Src.checkUnit + n)))) ∧
  (∀ (n : Nat) (m : Word) (s : State), n < 16 → exec (.ckAliveClr n m) s = .next
    (((List.range 32).filter fun k => bitAt m.toNat k).foldl (fun t k => t.setAlive n k none) s))

/-- What a level 0 reset leaves (R12, R304, R311, R314, R316, R429, R451, R490, R505, R508, R513). The device is held with source 0 asserted, FAULT_N and
TWIN_YIELD_N low and the safe state on; the rings are not enabled, the windlass is disabled and no queue is valid; every channel is IDLE and the twin
disabled; no interrupt source is pending, in service or routed, and a source is level-sensed as R451 says; no buffer has an owner, the first cell is
free, and 512 of 131,072 pages are in the cache; the quotas, the port latencies, the reset map and the check units hold the reset values of their
rules. What memory that nothing has written reads as, and every value that the spec leaves open at reset, is the model's choice (log entries 8, 12, 63
and 121) and is not stated; that 512 pages are in the cache is the model's choice (log entry 11). -/
def Obligations.ResetLeaves : Prop :=
  let s := State.reset
  s.rst.state = .held ∧ s.rst.asserted = 1 ∧ s.faultN = true ∧ s.yieldN = true ∧ s.flt.safe = true ∧ s.flt.inFlight = [] ∧ s.flt.reaction = none ∧
  s.host.enabled = false ∧ s.host.ready = false ∧ s.host.wsw = .disabled ∧ (∀ q, (s.queue q).valid = false) ∧
  (∀ c, (s.channel c).state = .idle) ∧ s.twin.phase = .disabled ∧ s.hbm.trained = false ∧
  (∀ n, (s.src n).pending = false ∧ (s.src n).inService = false ∧ (s.src n).route = 0 ∧
    ((s.src n).level = true ↔ (8 ≤ n ∧ n ≤ 11) ∨ (16 ≤ n ∧ n ≤ 31) ∨ n = 51 ∨ n = 52)) ∧
  s.cellWell.owners = [] ∧ s.pageWell.owners = [] ∧ s.pageWell.cache.length + s.pageWell.ringCount = 131072 ∧ s.pageWell.cache.length = 512 ∧
  (∀ p, p < 8 → (s.reserve .cell p, s.limit .cell p) = (768, 3072)) ∧ (∀ t, t < 8 → (s.reserve .cell (8 + t), s.limit .cell (8 + t)) = (256, 1536)) ∧
  (s.reserve .cell 16, s.limit .cell 16) = (1024, 4096) ∧ (s.reserve .page 17, s.limit .page 17) = (32768, 131072) ∧ (s.reserve .page 21, s.limit .page 21) = (8192, 32768) ∧
  s.regN Reg.rstMap0 = 0x22211110 ∧ s.regN Reg.rstMap1 = 0x00021222 ∧
  (∀ n, n < 16 → s.ckModel n = { width := 32, poly := 0x1EDC6F41, init := 0xFFFFFFFF, xorout := 0xFFFFFFFF, refin := true, refout := true } ∧ s.ckBytes n = 4)

end
end

