-- ==== Sys2Proof/Laws/State.lean ====
section
/-!
SUPPORT. What each named update of the state leaves as it was: one lemma per field, and one per accessor, true by unfolding.
-/
namespace Sys2Proof.Machine

/-! ## setReg changes regs -/

@[simp] theorem State.setReg_pending (s : State) (a : Nat) (v : Word) : (s.setReg a v).pending = s.pending := rfl
@[simp] theorem State.setReg_heldLow (s : State) (a : Nat) (v : Word) : (s.setReg a v).heldLow = s.heldLow := rfl
@[simp] theorem State.setReg_latchedHi (s : State) (a : Nat) (v : Word) : (s.setReg a v).latchedHi = s.latchedHi := rfl
@[simp] theorem State.setReg_lastRead (s : State) (a : Nat) (v : Word) : (s.setReg a v).lastRead = s.lastRead := rfl
@[simp] theorem State.setReg_hostMem (s : State) (a : Nat) (v : Word) : (s.setReg a v).hostMem = s.hostMem := rfl
@[simp] theorem State.setReg_hostBad (s : State) (a : Nat) (v : Word) : (s.setReg a v).hostBad = s.hostBad := rfl
@[simp] theorem State.setReg_hbmMem (s : State) (a : Nat) (v : Word) : (s.setReg a v).hbmMem = s.hbmMem := rfl
@[simp] theorem State.setReg_sram (s : State) (a : Nat) (v : Word) : (s.setReg a v).sram = s.sram := rfl
@[simp] theorem State.setReg_shw (s : State) (a : Nat) (v : Word) : (s.setReg a v).shw = s.shw := rfl
@[simp] theorem State.setReg_ctx (s : State) (a : Nat) (v : Word) : (s.setReg a v).ctx = s.ctx := rfl
@[simp] theorem State.setReg_host (s : State) (a : Nat) (v : Word) : (s.setReg a v).host = s.host := rfl
@[simp] theorem State.setReg_queues (s : State) (a : Nat) (v : Word) : (s.setReg a v).queues = s.queues := rfl
@[simp] theorem State.setReg_irq (s : State) (a : Nat) (v : Word) : (s.setReg a v).irq = s.irq := rfl
@[simp] theorem State.setReg_flt (s : State) (a : Nat) (v : Word) : (s.setReg a v).flt = s.flt := rfl
@[simp] theorem State.setReg_cellWell (s : State) (a : Nat) (v : Word) : (s.setReg a v).cellWell = s.cellWell := rfl
@[simp] theorem State.setReg_pageWell (s : State) (a : Nat) (v : Word) : (s.setReg a v).pageWell = s.pageWell := rfl
@[simp] theorem State.setReg_rst (s : State) (a : Nat) (v : Word) : (s.setReg a v).rst = s.rst := rfl
@[simp] theorem State.setReg_fuse (s : State) (a : Nat) (v : Word) : (s.setReg a v).fuse = s.fuse := rfl
@[simp] theorem State.setReg_pwr (s : State) (a : Nat) (v : Word) : (s.setReg a v).pwr = s.pwr := rfl
@[simp] theorem State.setReg_sensors (s : State) (a : Nat) (v : Word) : (s.setReg a v).sensors = s.sensors := rfl
@[simp] theorem State.setReg_time (s : State) (a : Nat) (v : Word) : (s.setReg a v).time = s.time := rfl
@[simp] theorem State.setReg_hbm (s : State) (a : Nat) (v : Word) : (s.setReg a v).hbm = s.hbm := rfl
@[simp] theorem State.setReg_pumps (s : State) (a : Nat) (v : Word) : (s.setReg a v).pumps = s.pumps := rfl
@[simp] theorem State.setReg_pulses (s : State) (a : Nat) (v : Word) : (s.setReg a v).pulses = s.pulses := rfl
@[simp] theorem State.setReg_spouts (s : State) (a : Nat) (v : Word) : (s.setReg a v).spouts = s.spouts := rfl
@[simp] theorem State.setReg_net (s : State) (a : Nat) (v : Word) : (s.setReg a v).net = s.net := rfl
@[simp] theorem State.setReg_ck (s : State) (a : Nat) (v : Word) : (s.setReg a v).ck = s.ck := rfl
@[simp] theorem State.setReg_codec (s : State) (a : Nat) (v : Word) : (s.setReg a v).codec = s.codec := rfl
@[simp] theorem State.setReg_twin (s : State) (a : Nat) (v : Word) : (s.setReg a v).twin = s.twin := rfl
@[simp] theorem State.setReg_prk (s : State) (a : Nat) (v : Word) : (s.setReg a v).prk = s.prk := rfl
@[simp] theorem State.setReg_prkLoad (s : State) (a : Nat) (v : Word) : (s.setReg a v).prkLoad = s.prkLoad := rfl
@[simp] theorem State.setReg_fw (s : State) (a : Nat) (v : Word) : (s.setReg a v).fw = s.fw := rfl
@[simp] theorem State.setReg_faultN (s : State) (a : Nat) (v : Word) : (s.setReg a v).faultN = s.faultN := rfl
@[simp] theorem State.setReg_yieldN (s : State) (a : Nat) (v : Word) : (s.setReg a v).yieldN = s.yieldN := rfl
@[simp] theorem State.setReg_freeCount (s : State) (a : Nat) (v : Word) : (s.setReg a v).freeCount = s.freeCount := rfl
@[simp] theorem State.setReg_queue (s : State) (a : Nat) (v : Word) (x : Nat) : (s.setReg a v).queue x = s.queue x := rfl
@[simp] theorem State.setReg_src (s : State) (a : Nat) (v : Word) (x : Nat) : (s.setReg a v).src x = s.src x := rfl
@[simp] theorem State.setReg_channel (s : State) (a : Nat) (v : Word) (x : Nat) : (s.setReg a v).channel x = s.channel x := rfl
@[simp] theorem State.setReg_tamb (s : State) (a : Nat) (v : Word) (x : Nat) : (s.setReg a v).tamb x = s.tamb x := rfl
@[simp] theorem State.setReg_iflow (s : State) (a : Nat) (v : Word) (x : Nat) : (s.setReg a v).iflow x = s.iflow x := rfl
@[simp] theorem State.setReg_eflow (s : State) (a : Nat) (v : Word) (x : Nat) : (s.setReg a v).eflow x = s.eflow x := rfl
@[simp] theorem State.setReg_gate (s : State) (a : Nat) (v : Word) (x : Nat) : (s.setReg a v).gate x = s.gate x := rfl
@[simp] theorem State.setReg_port (s : State) (a : Nat) (v : Word) (x : Nat) : (s.setReg a v).port x = s.port x := rfl
@[simp] theorem State.setReg_pump (s : State) (a : Nat) (v : Word) (x : Nat) : (s.setReg a v).pump x = s.pump x := rfl
@[simp] theorem State.setReg_spout (s : State) (a : Nat) (v : Word) (x : Nat) : (s.setReg a v).spout x = s.spout x := rfl
@[simp] theorem State.setReg_now (s : State) (a : Nat) (v : Word) : (s.setReg a v).now = s.now := rfl
@[simp] theorem State.setReg_hostRead (s : State) (a : Nat) (v : Word) (x y : Nat) : (s.setReg a v).hostRead x y = s.hostRead x y := rfl

/-! ## setRegN changes regs -/

@[simp] theorem State.setRegN_pending (s : State) (a v : Nat) : (s.setRegN a v).pending = s.pending := rfl
@[simp] theorem State.setRegN_heldLow (s : State) (a v : Nat) : (s.setRegN a v).heldLow = s.heldLow := rfl
@[simp] theorem State.setRegN_latchedHi (s : State) (a v : Nat) : (s.setRegN a v).latchedHi = s.latchedHi := rfl
@[simp] theorem State.setRegN_lastRead (s : State) (a v : Nat) : (s.setRegN a v).lastRead = s.lastRead := rfl
@[simp] theorem State.setRegN_hostMem (s : State) (a v : Nat) : (s.setRegN a v).hostMem = s.hostMem := rfl
@[simp] theorem State.setRegN_hostBad (s : State) (a v : Nat) : (s.setRegN a v).hostBad = s.hostBad := rfl
@[simp] theorem State.setRegN_hbmMem (s : State) (a v : Nat) : (s.setRegN a v).hbmMem = s.hbmMem := rfl
@[simp] theorem State.setRegN_sram (s : State) (a v : Nat) : (s.setRegN a v).sram = s.sram := rfl
@[simp] theorem State.setRegN_shw (s : State) (a v : Nat) : (s.setRegN a v).shw = s.shw := rfl
@[simp] theorem State.setRegN_ctx (s : State) (a v : Nat) : (s.setRegN a v).ctx = s.ctx := rfl
@[simp] theorem State.setRegN_host (s : State) (a v : Nat) : (s.setRegN a v).host = s.host := rfl
@[simp] theorem State.setRegN_queues (s : State) (a v : Nat) : (s.setRegN a v).queues = s.queues := rfl
@[simp] theorem State.setRegN_irq (s : State) (a v : Nat) : (s.setRegN a v).irq = s.irq := rfl
@[simp] theorem State.setRegN_flt (s : State) (a v : Nat) : (s.setRegN a v).flt = s.flt := rfl
@[simp] theorem State.setRegN_cellWell (s : State) (a v : Nat) : (s.setRegN a v).cellWell = s.cellWell := rfl
@[simp] theorem State.setRegN_pageWell (s : State) (a v : Nat) : (s.setRegN a v).pageWell = s.pageWell := rfl
@[simp] theorem State.setRegN_rst (s : State) (a v : Nat) : (s.setRegN a v).rst = s.rst := rfl
@[simp] theorem State.setRegN_fuse (s : State) (a v : Nat) : (s.setRegN a v).fuse = s.fuse := rfl
@[simp] theorem State.setRegN_pwr (s : State) (a v : Nat) : (s.setRegN a v).pwr = s.pwr := rfl
@[simp] theorem State.setRegN_sensors (s : State) (a v : Nat) : (s.setRegN a v).sensors = s.sensors := rfl
@[simp] theorem State.setRegN_time (s : State) (a v : Nat) : (s.setRegN a v).time = s.time := rfl
@[simp] theorem State.setRegN_hbm (s : State) (a v : Nat) : (s.setRegN a v).hbm = s.hbm := rfl
@[simp] theorem State.setRegN_pumps (s : State) (a v : Nat) : (s.setRegN a v).pumps = s.pumps := rfl
@[simp] theorem State.setRegN_pulses (s : State) (a v : Nat) : (s.setRegN a v).pulses = s.pulses := rfl
@[simp] theorem State.setRegN_spouts (s : State) (a v : Nat) : (s.setRegN a v).spouts = s.spouts := rfl
@[simp] theorem State.setRegN_net (s : State) (a v : Nat) : (s.setRegN a v).net = s.net := rfl
@[simp] theorem State.setRegN_ck (s : State) (a v : Nat) : (s.setRegN a v).ck = s.ck := rfl
@[simp] theorem State.setRegN_codec (s : State) (a v : Nat) : (s.setRegN a v).codec = s.codec := rfl
@[simp] theorem State.setRegN_twin (s : State) (a v : Nat) : (s.setRegN a v).twin = s.twin := rfl
@[simp] theorem State.setRegN_prk (s : State) (a v : Nat) : (s.setRegN a v).prk = s.prk := rfl
@[simp] theorem State.setRegN_prkLoad (s : State) (a v : Nat) : (s.setRegN a v).prkLoad = s.prkLoad := rfl
@[simp] theorem State.setRegN_fw (s : State) (a v : Nat) : (s.setRegN a v).fw = s.fw := rfl
@[simp] theorem State.setRegN_faultN (s : State) (a v : Nat) : (s.setRegN a v).faultN = s.faultN := rfl
@[simp] theorem State.setRegN_yieldN (s : State) (a v : Nat) : (s.setRegN a v).yieldN = s.yieldN := rfl
@[simp] theorem State.setRegN_freeCount (s : State) (a v : Nat) : (s.setRegN a v).freeCount = s.freeCount := rfl
@[simp] theorem State.setRegN_queue (s : State) (a v : Nat) (x : Nat) : (s.setRegN a v).queue x = s.queue x := rfl
@[simp] theorem State.setRegN_src (s : State) (a v : Nat) (x : Nat) : (s.setRegN a v).src x = s.src x := rfl
@[simp] theorem State.setRegN_channel (s : State) (a v : Nat) (x : Nat) : (s.setRegN a v).channel x = s.channel x := rfl
@[simp] theorem State.setRegN_tamb (s : State) (a v : Nat) (x : Nat) : (s.setRegN a v).tamb x = s.tamb x := rfl
@[simp] theorem State.setRegN_iflow (s : State) (a v : Nat) (x : Nat) : (s.setRegN a v).iflow x = s.iflow x := rfl
@[simp] theorem State.setRegN_eflow (s : State) (a v : Nat) (x : Nat) : (s.setRegN a v).eflow x = s.eflow x := rfl
@[simp] theorem State.setRegN_gate (s : State) (a v : Nat) (x : Nat) : (s.setRegN a v).gate x = s.gate x := rfl
@[simp] theorem State.setRegN_port (s : State) (a v : Nat) (x : Nat) : (s.setRegN a v).port x = s.port x := rfl
@[simp] theorem State.setRegN_pump (s : State) (a v : Nat) (x : Nat) : (s.setRegN a v).pump x = s.pump x := rfl
@[simp] theorem State.setRegN_spout (s : State) (a v : Nat) (x : Nat) : (s.setRegN a v).spout x = s.spout x := rfl
@[simp] theorem State.setRegN_now (s : State) (a v : Nat) : (s.setRegN a v).now = s.now := rfl
@[simp] theorem State.setRegN_hostRead (s : State) (a v : Nat) (x y : Nat) : (s.setRegN a v).hostRead x y = s.hostRead x y := rfl

/-! ## setBits changes regs -/

@[simp] theorem State.setBits_pending (s : State) (a : Nat) (m : Word) : (s.setBits a m).pending = s.pending := rfl
@[simp] theorem State.setBits_heldLow (s : State) (a : Nat) (m : Word) : (s.setBits a m).heldLow = s.heldLow := rfl
@[simp] theorem State.setBits_latchedHi (s : State) (a : Nat) (m : Word) : (s.setBits a m).latchedHi = s.latchedHi := rfl
@[simp] theorem State.setBits_lastRead (s : State) (a : Nat) (m : Word) : (s.setBits a m).lastRead = s.lastRead := rfl
@[simp] theorem State.setBits_hostMem (s : State) (a : Nat) (m : Word) : (s.setBits a m).hostMem = s.hostMem := rfl
@[simp] theorem State.setBits_hostBad (s : State) (a : Nat) (m : Word) : (s.setBits a m).hostBad = s.hostBad := rfl
@[simp] theorem State.setBits_hbmMem (s : State) (a : Nat) (m : Word) : (s.setBits a m).hbmMem = s.hbmMem := rfl
@[simp] theorem State.setBits_sram (s : State) (a : Nat) (m : Word) : (s.setBits a m).sram = s.sram := rfl
@[simp] theorem State.setBits_shw (s : State) (a : Nat) (m : Word) : (s.setBits a m).shw = s.shw := rfl
@[simp] theorem State.setBits_ctx (s : State) (a : Nat) (m : Word) : (s.setBits a m).ctx = s.ctx := rfl
@[simp] theorem State.setBits_host (s : State) (a : Nat) (m : Word) : (s.setBits a m).host = s.host := rfl
@[simp] theorem State.setBits_queues (s : State) (a : Nat) (m : Word) : (s.setBits a m).queues = s.queues := rfl
@[simp] theorem State.setBits_irq (s : State) (a : Nat) (m : Word) : (s.setBits a m).irq = s.irq := rfl
@[simp] theorem State.setBits_flt (s : State) (a : Nat) (m : Word) : (s.setBits a m).flt = s.flt := rfl
@[simp] theorem State.setBits_cellWell (s : State) (a : Nat) (m : Word) : (s.setBits a m).cellWell = s.cellWell := rfl
@[simp] theorem State.setBits_pageWell (s : State) (a : Nat) (m : Word) : (s.setBits a m).pageWell = s.pageWell := rfl
@[simp] theorem State.setBits_rst (s : State) (a : Nat) (m : Word) : (s.setBits a m).rst = s.rst := rfl
@[simp] theorem State.setBits_fuse (s : State) (a : Nat) (m : Word) : (s.setBits a m).fuse = s.fuse := rfl
@[simp] theorem State.setBits_pwr (s : State) (a : Nat) (m : Word) : (s.setBits a m).pwr = s.pwr := rfl
@[simp] theorem State.setBits_sensors (s : State) (a : Nat) (m : Word) : (s.setBits a m).sensors = s.sensors := rfl
@[simp] theorem State.setBits_time (s : State) (a : Nat) (m : Word) : (s.setBits a m).time = s.time := rfl
@[simp] theorem State.setBits_hbm (s : State) (a : Nat) (m : Word) : (s.setBits a m).hbm = s.hbm := rfl
@[simp] theorem State.setBits_pumps (s : State) (a : Nat) (m : Word) : (s.setBits a m).pumps = s.pumps := rfl
@[simp] theorem State.setBits_pulses (s : State) (a : Nat) (m : Word) : (s.setBits a m).pulses = s.pulses := rfl
@[simp] theorem State.setBits_spouts (s : State) (a : Nat) (m : Word) : (s.setBits a m).spouts = s.spouts := rfl
@[simp] theorem State.setBits_net (s : State) (a : Nat) (m : Word) : (s.setBits a m).net = s.net := rfl
@[simp] theorem State.setBits_ck (s : State) (a : Nat) (m : Word) : (s.setBits a m).ck = s.ck := rfl
@[simp] theorem State.setBits_codec (s : State) (a : Nat) (m : Word) : (s.setBits a m).codec = s.codec := rfl
@[simp] theorem State.setBits_twin (s : State) (a : Nat) (m : Word) : (s.setBits a m).twin = s.twin := rfl
@[simp] theorem State.setBits_prk (s : State) (a : Nat) (m : Word) : (s.setBits a m).prk = s.prk := rfl
@[simp] theorem State.setBits_prkLoad (s : State) (a : Nat) (m : Word) : (s.setBits a m).prkLoad = s.prkLoad := rfl
@[simp] theorem State.setBits_fw (s : State) (a : Nat) (m : Word) : (s.setBits a m).fw = s.fw := rfl
@[simp] theorem State.setBits_faultN (s : State) (a : Nat) (m : Word) : (s.setBits a m).faultN = s.faultN := rfl
@[simp] theorem State.setBits_yieldN (s : State) (a : Nat) (m : Word) : (s.setBits a m).yieldN = s.yieldN := rfl
@[simp] theorem State.setBits_freeCount (s : State) (a : Nat) (m : Word) : (s.setBits a m).freeCount = s.freeCount := rfl
@[simp] theorem State.setBits_queue (s : State) (a : Nat) (m : Word) (x : Nat) : (s.setBits a m).queue x = s.queue x := rfl
@[simp] theorem State.setBits_src (s : State) (a : Nat) (m : Word) (x : Nat) : (s.setBits a m).src x = s.src x := rfl
@[simp] theorem State.setBits_channel (s : State) (a : Nat) (m : Word) (x : Nat) : (s.setBits a m).channel x = s.channel x := rfl
@[simp] theorem State.setBits_tamb (s : State) (a : Nat) (m : Word) (x : Nat) : (s.setBits a m).tamb x = s.tamb x := rfl
@[simp] theorem State.setBits_iflow (s : State) (a : Nat) (m : Word) (x : Nat) : (s.setBits a m).iflow x = s.iflow x := rfl
@[simp] theorem State.setBits_eflow (s : State) (a : Nat) (m : Word) (x : Nat) : (s.setBits a m).eflow x = s.eflow x := rfl
@[simp] theorem State.setBits_gate (s : State) (a : Nat) (m : Word) (x : Nat) : (s.setBits a m).gate x = s.gate x := rfl
@[simp] theorem State.setBits_port (s : State) (a : Nat) (m : Word) (x : Nat) : (s.setBits a m).port x = s.port x := rfl
@[simp] theorem State.setBits_pump (s : State) (a : Nat) (m : Word) (x : Nat) : (s.setBits a m).pump x = s.pump x := rfl
@[simp] theorem State.setBits_spout (s : State) (a : Nat) (m : Word) (x : Nat) : (s.setBits a m).spout x = s.spout x := rfl
@[simp] theorem State.setBits_now (s : State) (a : Nat) (m : Word) : (s.setBits a m).now = s.now := rfl
@[simp] theorem State.setBits_hostRead (s : State) (a : Nat) (m : Word) (x y : Nat) : (s.setBits a m).hostRead x y = s.hostRead x y := rfl

/-! ## hostWrite changes hostMem -/

@[simp] theorem State.hostWrite_pending (s : State) (a n v : Nat) : (s.hostWrite a n v).pending = s.pending := rfl
@[simp] theorem State.hostWrite_regs (s : State) (a n v : Nat) : (s.hostWrite a n v).regs = s.regs := rfl
@[simp] theorem State.hostWrite_heldLow (s : State) (a n v : Nat) : (s.hostWrite a n v).heldLow = s.heldLow := rfl
@[simp] theorem State.hostWrite_latchedHi (s : State) (a n v : Nat) : (s.hostWrite a n v).latchedHi = s.latchedHi := rfl
@[simp] theorem State.hostWrite_lastRead (s : State) (a n v : Nat) : (s.hostWrite a n v).lastRead = s.lastRead := rfl
@[simp] theorem State.hostWrite_hostBad (s : State) (a n v : Nat) : (s.hostWrite a n v).hostBad = s.hostBad := rfl
@[simp] theorem State.hostWrite_hbmMem (s : State) (a n v : Nat) : (s.hostWrite a n v).hbmMem = s.hbmMem := rfl
@[simp] theorem State.hostWrite_sram (s : State) (a n v : Nat) : (s.hostWrite a n v).sram = s.sram := rfl
@[simp] theorem State.hostWrite_shw (s : State) (a n v : Nat) : (s.hostWrite a n v).shw = s.shw := rfl
@[simp] theorem State.hostWrite_ctx (s : State) (a n v : Nat) : (s.hostWrite a n v).ctx = s.ctx := rfl
@[simp] theorem State.hostWrite_host (s : State) (a n v : Nat) : (s.hostWrite a n v).host = s.host := rfl
@[simp] theorem State.hostWrite_queues (s : State) (a n v : Nat) : (s.hostWrite a n v).queues = s.queues := rfl
@[simp] theorem State.hostWrite_irq (s : State) (a n v : Nat) : (s.hostWrite a n v).irq = s.irq := rfl
@[simp] theorem State.hostWrite_flt (s : State) (a n v : Nat) : (s.hostWrite a n v).flt = s.flt := rfl
@[simp] theorem State.hostWrite_cellWell (s : State) (a n v : Nat) : (s.hostWrite a n v).cellWell = s.cellWell := rfl
@[simp] theorem State.hostWrite_pageWell (s : State) (a n v : Nat) : (s.hostWrite a n v).pageWell = s.pageWell := rfl
@[simp] theorem State.hostWrite_rst (s : State) (a n v : Nat) : (s.hostWrite a n v).rst = s.rst := rfl
@[simp] theorem State.hostWrite_fuse (s : State) (a n v : Nat) : (s.hostWrite a n v).fuse = s.fuse := rfl
@[simp] theorem State.hostWrite_pwr (s : State) (a n v : Nat) : (s.hostWrite a n v).pwr = s.pwr := rfl
@[simp] theorem State.hostWrite_sensors (s : State) (a n v : Nat) : (s.hostWrite a n v).sensors = s.sensors := rfl
@[simp] theorem State.hostWrite_time (s : State) (a n v : Nat) : (s.hostWrite a n v).time = s.time := rfl
@[simp] theorem State.hostWrite_hbm (s : State) (a n v : Nat) : (s.hostWrite a n v).hbm = s.hbm := rfl
@[simp] theorem State.hostWrite_pumps (s : State) (a n v : Nat) : (s.hostWrite a n v).pumps = s.pumps := rfl
@[simp] theorem State.hostWrite_pulses (s : State) (a n v : Nat) : (s.hostWrite a n v).pulses = s.pulses := rfl
@[simp] theorem State.hostWrite_spouts (s : State) (a n v : Nat) : (s.hostWrite a n v).spouts = s.spouts := rfl
@[simp] theorem State.hostWrite_net (s : State) (a n v : Nat) : (s.hostWrite a n v).net = s.net := rfl
@[simp] theorem State.hostWrite_ck (s : State) (a n v : Nat) : (s.hostWrite a n v).ck = s.ck := rfl
@[simp] theorem State.hostWrite_codec (s : State) (a n v : Nat) : (s.hostWrite a n v).codec = s.codec := rfl
@[simp] theorem State.hostWrite_twin (s : State) (a n v : Nat) : (s.hostWrite a n v).twin = s.twin := rfl
@[simp] theorem State.hostWrite_prk (s : State) (a n v : Nat) : (s.hostWrite a n v).prk = s.prk := rfl
@[simp] theorem State.hostWrite_prkLoad (s : State) (a n v : Nat) : (s.hostWrite a n v).prkLoad = s.prkLoad := rfl
@[simp] theorem State.hostWrite_fw (s : State) (a n v : Nat) : (s.hostWrite a n v).fw = s.fw := rfl
@[simp] theorem State.hostWrite_faultN (s : State) (a n v : Nat) : (s.hostWrite a n v).faultN = s.faultN := rfl
@[simp] theorem State.hostWrite_yieldN (s : State) (a n v : Nat) : (s.hostWrite a n v).yieldN = s.yieldN := rfl
@[simp] theorem State.hostWrite_freeCount (s : State) (a n v : Nat) : (s.hostWrite a n v).freeCount = s.freeCount := rfl
@[simp] theorem State.hostWrite_reg (s : State) (a n v : Nat) (x : Nat) : (s.hostWrite a n v).reg x = s.reg x := rfl
@[simp] theorem State.hostWrite_regN (s : State) (a n v : Nat) (x : Nat) : (s.hostWrite a n v).regN x = s.regN x := rfl
@[simp] theorem State.hostWrite_queue (s : State) (a n v : Nat) (x : Nat) : (s.hostWrite a n v).queue x = s.queue x := rfl
@[simp] theorem State.hostWrite_src (s : State) (a n v : Nat) (x : Nat) : (s.hostWrite a n v).src x = s.src x := rfl
@[simp] theorem State.hostWrite_channel (s : State) (a n v : Nat) (x : Nat) : (s.hostWrite a n v).channel x = s.channel x := rfl
@[simp] theorem State.hostWrite_tamb (s : State) (a n v : Nat) (x : Nat) : (s.hostWrite a n v).tamb x = s.tamb x := rfl
@[simp] theorem State.hostWrite_iflow (s : State) (a n v : Nat) (x : Nat) : (s.hostWrite a n v).iflow x = s.iflow x := rfl
@[simp] theorem State.hostWrite_eflow (s : State) (a n v : Nat) (x : Nat) : (s.hostWrite a n v).eflow x = s.eflow x := rfl
@[simp] theorem State.hostWrite_gate (s : State) (a n v : Nat) (x : Nat) : (s.hostWrite a n v).gate x = s.gate x := rfl
@[simp] theorem State.hostWrite_port (s : State) (a n v : Nat) (x : Nat) : (s.hostWrite a n v).port x = s.port x := rfl
@[simp] theorem State.hostWrite_pump (s : State) (a n v : Nat) (x : Nat) : (s.hostWrite a n v).pump x = s.pump x := rfl
@[simp] theorem State.hostWrite_spout (s : State) (a n v : Nat) (x : Nat) : (s.hostWrite a n v).spout x = s.spout x := rfl
@[simp] theorem State.hostWrite_now (s : State) (a n v : Nat) : (s.hostWrite a n v).now = s.now := rfl

/-! ## sramWrite changes sram -/

@[simp] theorem State.sramWrite_pending (s : State) (a n v : Nat) : (s.sramWrite a n v).pending = s.pending := rfl
@[simp] theorem State.sramWrite_regs (s : State) (a n v : Nat) : (s.sramWrite a n v).regs = s.regs := rfl
@[simp] theorem State.sramWrite_heldLow (s : State) (a n v : Nat) : (s.sramWrite a n v).heldLow = s.heldLow := rfl
@[simp] theorem State.sramWrite_latchedHi (s : State) (a n v : Nat) : (s.sramWrite a n v).latchedHi = s.latchedHi := rfl
@[simp] theorem State.sramWrite_lastRead (s : State) (a n v : Nat) : (s.sramWrite a n v).lastRead = s.lastRead := rfl
@[simp] theorem State.sramWrite_hostMem (s : State) (a n v : Nat) : (s.sramWrite a n v).hostMem = s.hostMem := rfl
@[simp] theorem State.sramWrite_hostBad (s : State) (a n v : Nat) : (s.sramWrite a n v).hostBad = s.hostBad := rfl
@[simp] theorem State.sramWrite_hbmMem (s : State) (a n v : Nat) : (s.sramWrite a n v).hbmMem = s.hbmMem := rfl
@[simp] theorem State.sramWrite_shw (s : State) (a n v : Nat) : (s.sramWrite a n v).shw = s.shw := rfl
@[simp] theorem State.sramWrite_ctx (s : State) (a n v : Nat) : (s.sramWrite a n v).ctx = s.ctx := rfl
@[simp] theorem State.sramWrite_host (s : State) (a n v : Nat) : (s.sramWrite a n v).host = s.host := rfl
@[simp] theorem State.sramWrite_queues (s : State) (a n v : Nat) : (s.sramWrite a n v).queues = s.queues := rfl
@[simp] theorem State.sramWrite_irq (s : State) (a n v : Nat) : (s.sramWrite a n v).irq = s.irq := rfl
@[simp] theorem State.sramWrite_flt (s : State) (a n v : Nat) : (s.sramWrite a n v).flt = s.flt := rfl
@[simp] theorem State.sramWrite_cellWell (s : State) (a n v : Nat) : (s.sramWrite a n v).cellWell = s.cellWell := rfl
@[simp] theorem State.sramWrite_pageWell (s : State) (a n v : Nat) : (s.sramWrite a n v).pageWell = s.pageWell := rfl
@[simp] theorem State.sramWrite_rst (s : State) (a n v : Nat) : (s.sramWrite a n v).rst = s.rst := rfl
@[simp] theorem State.sramWrite_fuse (s : State) (a n v : Nat) : (s.sramWrite a n v).fuse = s.fuse := rfl
@[simp] theorem State.sramWrite_pwr (s : State) (a n v : Nat) : (s.sramWrite a n v).pwr = s.pwr := rfl
@[simp] theorem State.sramWrite_sensors (s : State) (a n v : Nat) : (s.sramWrite a n v).sensors = s.sensors := rfl
@[simp] theorem State.sramWrite_time (s : State) (a n v : Nat) : (s.sramWrite a n v).time = s.time := rfl
@[simp] theorem State.sramWrite_hbm (s : State) (a n v : Nat) : (s.sramWrite a n v).hbm = s.hbm := rfl
@[simp] theorem State.sramWrite_pumps (s : State) (a n v : Nat) : (s.sramWrite a n v).pumps = s.pumps := rfl
@[simp] theorem State.sramWrite_pulses (s : State) (a n v : Nat) : (s.sramWrite a n v).pulses = s.pulses := rfl
@[simp] theorem State.sramWrite_spouts (s : State) (a n v : Nat) : (s.sramWrite a n v).spouts = s.spouts := rfl
@[simp] theorem State.sramWrite_net (s : State) (a n v : Nat) : (s.sramWrite a n v).net = s.net := rfl
@[simp] theorem State.sramWrite_ck (s : State) (a n v : Nat) : (s.sramWrite a n v).ck = s.ck := rfl
@[simp] theorem State.sramWrite_codec (s : State) (a n v : Nat) : (s.sramWrite a n v).codec = s.codec := rfl
@[simp] theorem State.sramWrite_twin (s : State) (a n v : Nat) : (s.sramWrite a n v).twin = s.twin := rfl
@[simp] theorem State.sramWrite_prk (s : State) (a n v : Nat) : (s.sramWrite a n v).prk = s.prk := rfl
@[simp] theorem State.sramWrite_prkLoad (s : State) (a n v : Nat) : (s.sramWrite a n v).prkLoad = s.prkLoad := rfl
@[simp] theorem State.sramWrite_fw (s : State) (a n v : Nat) : (s.sramWrite a n v).fw = s.fw := rfl
@[simp] theorem State.sramWrite_faultN (s : State) (a n v : Nat) : (s.sramWrite a n v).faultN = s.faultN := rfl
@[simp] theorem State.sramWrite_yieldN (s : State) (a n v : Nat) : (s.sramWrite a n v).yieldN = s.yieldN := rfl
@[simp] theorem State.sramWrite_freeCount (s : State) (a n v : Nat) : (s.sramWrite a n v).freeCount = s.freeCount := rfl
@[simp] theorem State.sramWrite_reg (s : State) (a n v : Nat) (x : Nat) : (s.sramWrite a n v).reg x = s.reg x := rfl
@[simp] theorem State.sramWrite_regN (s : State) (a n v : Nat) (x : Nat) : (s.sramWrite a n v).regN x = s.regN x := rfl
@[simp] theorem State.sramWrite_queue (s : State) (a n v : Nat) (x : Nat) : (s.sramWrite a n v).queue x = s.queue x := rfl
@[simp] theorem State.sramWrite_src (s : State) (a n v : Nat) (x : Nat) : (s.sramWrite a n v).src x = s.src x := rfl
@[simp] theorem State.sramWrite_channel (s : State) (a n v : Nat) (x : Nat) : (s.sramWrite a n v).channel x = s.channel x := rfl
@[simp] theorem State.sramWrite_tamb (s : State) (a n v : Nat) (x : Nat) : (s.sramWrite a n v).tamb x = s.tamb x := rfl
@[simp] theorem State.sramWrite_iflow (s : State) (a n v : Nat) (x : Nat) : (s.sramWrite a n v).iflow x = s.iflow x := rfl
@[simp] theorem State.sramWrite_eflow (s : State) (a n v : Nat) (x : Nat) : (s.sramWrite a n v).eflow x = s.eflow x := rfl
@[simp] theorem State.sramWrite_gate (s : State) (a n v : Nat) (x : Nat) : (s.sramWrite a n v).gate x = s.gate x := rfl
@[simp] theorem State.sramWrite_port (s : State) (a n v : Nat) (x : Nat) : (s.sramWrite a n v).port x = s.port x := rfl
@[simp] theorem State.sramWrite_pump (s : State) (a n v : Nat) (x : Nat) : (s.sramWrite a n v).pump x = s.pump x := rfl
@[simp] theorem State.sramWrite_spout (s : State) (a n v : Nat) (x : Nat) : (s.sramWrite a n v).spout x = s.spout x := rfl
@[simp] theorem State.sramWrite_now (s : State) (a n v : Nat) : (s.sramWrite a n v).now = s.now := rfl
@[simp] theorem State.sramWrite_hostRead (s : State) (a n v : Nat) (x y : Nat) : (s.sramWrite a n v).hostRead x y = s.hostRead x y := rfl

/-! ## hbmWrite changes hbmMem -/

@[simp] theorem State.hbmWrite_pending (s : State) (a n v : Nat) : (s.hbmWrite a n v).pending = s.pending := rfl
@[simp] theorem State.hbmWrite_regs (s : State) (a n v : Nat) : (s.hbmWrite a n v).regs = s.regs := rfl
@[simp] theorem State.hbmWrite_heldLow (s : State) (a n v : Nat) : (s.hbmWrite a n v).heldLow = s.heldLow := rfl
@[simp] theorem State.hbmWrite_latchedHi (s : State) (a n v : Nat) : (s.hbmWrite a n v).latchedHi = s.latchedHi := rfl
@[simp] theorem State.hbmWrite_lastRead (s : State) (a n v : Nat) : (s.hbmWrite a n v).lastRead = s.lastRead := rfl
@[simp] theorem State.hbmWrite_hostMem (s : State) (a n v : Nat) : (s.hbmWrite a n v).hostMem = s.hostMem := rfl
@[simp] theorem State.hbmWrite_hostBad (s : State) (a n v : Nat) : (s.hbmWrite a n v).hostBad = s.hostBad := rfl
@[simp] theorem State.hbmWrite_sram (s : State) (a n v : Nat) : (s.hbmWrite a n v).sram = s.sram := rfl
@[simp] theorem State.hbmWrite_shw (s : State) (a n v : Nat) : (s.hbmWrite a n v).shw = s.shw := rfl
@[simp] theorem State.hbmWrite_ctx (s : State) (a n v : Nat) : (s.hbmWrite a n v).ctx = s.ctx := rfl
@[simp] theorem State.hbmWrite_host (s : State) (a n v : Nat) : (s.hbmWrite a n v).host = s.host := rfl
@[simp] theorem State.hbmWrite_queues (s : State) (a n v : Nat) : (s.hbmWrite a n v).queues = s.queues := rfl
@[simp] theorem State.hbmWrite_irq (s : State) (a n v : Nat) : (s.hbmWrite a n v).irq = s.irq := rfl
@[simp] theorem State.hbmWrite_flt (s : State) (a n v : Nat) : (s.hbmWrite a n v).flt = s.flt := rfl
@[simp] theorem State.hbmWrite_cellWell (s : State) (a n v : Nat) : (s.hbmWrite a n v).cellWell = s.cellWell := rfl
@[simp] theorem State.hbmWrite_pageWell (s : State) (a n v : Nat) : (s.hbmWrite a n v).pageWell = s.pageWell := rfl
@[simp] theorem State.hbmWrite_rst (s : State) (a n v : Nat) : (s.hbmWrite a n v).rst = s.rst := rfl
@[simp] theorem State.hbmWrite_fuse (s : State) (a n v : Nat) : (s.hbmWrite a n v).fuse = s.fuse := rfl
@[simp] theorem State.hbmWrite_pwr (s : State) (a n v : Nat) : (s.hbmWrite a n v).pwr = s.pwr := rfl
@[simp] theorem State.hbmWrite_sensors (s : State) (a n v : Nat) : (s.hbmWrite a n v).sensors = s.sensors := rfl
@[simp] theorem State.hbmWrite_time (s : State) (a n v : Nat) : (s.hbmWrite a n v).time = s.time := rfl
@[simp] theorem State.hbmWrite_hbm (s : State) (a n v : Nat) : (s.hbmWrite a n v).hbm = s.hbm := rfl
@[simp] theorem State.hbmWrite_pumps (s : State) (a n v : Nat) : (s.hbmWrite a n v).pumps = s.pumps := rfl
@[simp] theorem State.hbmWrite_pulses (s : State) (a n v : Nat) : (s.hbmWrite a n v).pulses = s.pulses := rfl
@[simp] theorem State.hbmWrite_spouts (s : State) (a n v : Nat) : (s.hbmWrite a n v).spouts = s.spouts := rfl
@[simp] theorem State.hbmWrite_net (s : State) (a n v : Nat) : (s.hbmWrite a n v).net = s.net := rfl
@[simp] theorem State.hbmWrite_ck (s : State) (a n v : Nat) : (s.hbmWrite a n v).ck = s.ck := rfl
@[simp] theorem State.hbmWrite_codec (s : State) (a n v : Nat) : (s.hbmWrite a n v).codec = s.codec := rfl
@[simp] theorem State.hbmWrite_twin (s : State) (a n v : Nat) : (s.hbmWrite a n v).twin = s.twin := rfl
@[simp] theorem State.hbmWrite_prk (s : State) (a n v : Nat) : (s.hbmWrite a n v).prk = s.prk := rfl
@[simp] theorem State.hbmWrite_prkLoad (s : State) (a n v : Nat) : (s.hbmWrite a n v).prkLoad = s.prkLoad := rfl
@[simp] theorem State.hbmWrite_fw (s : State) (a n v : Nat) : (s.hbmWrite a n v).fw = s.fw := rfl
@[simp] theorem State.hbmWrite_faultN (s : State) (a n v : Nat) : (s.hbmWrite a n v).faultN = s.faultN := rfl
@[simp] theorem State.hbmWrite_yieldN (s : State) (a n v : Nat) : (s.hbmWrite a n v).yieldN = s.yieldN := rfl
@[simp] theorem State.hbmWrite_freeCount (s : State) (a n v : Nat) : (s.hbmWrite a n v).freeCount = s.freeCount := rfl
@[simp] theorem State.hbmWrite_reg (s : State) (a n v : Nat) (x : Nat) : (s.hbmWrite a n v).reg x = s.reg x := rfl
@[simp] theorem State.hbmWrite_regN (s : State) (a n v : Nat) (x : Nat) : (s.hbmWrite a n v).regN x = s.regN x := rfl
@[simp] theorem State.hbmWrite_queue (s : State) (a n v : Nat) (x : Nat) : (s.hbmWrite a n v).queue x = s.queue x := rfl
@[simp] theorem State.hbmWrite_src (s : State) (a n v : Nat) (x : Nat) : (s.hbmWrite a n v).src x = s.src x := rfl
@[simp] theorem State.hbmWrite_channel (s : State) (a n v : Nat) (x : Nat) : (s.hbmWrite a n v).channel x = s.channel x := rfl
@[simp] theorem State.hbmWrite_tamb (s : State) (a n v : Nat) (x : Nat) : (s.hbmWrite a n v).tamb x = s.tamb x := rfl
@[simp] theorem State.hbmWrite_iflow (s : State) (a n v : Nat) (x : Nat) : (s.hbmWrite a n v).iflow x = s.iflow x := rfl
@[simp] theorem State.hbmWrite_eflow (s : State) (a n v : Nat) (x : Nat) : (s.hbmWrite a n v).eflow x = s.eflow x := rfl
@[simp] theorem State.hbmWrite_gate (s : State) (a n v : Nat) (x : Nat) : (s.hbmWrite a n v).gate x = s.gate x := rfl
@[simp] theorem State.hbmWrite_port (s : State) (a n v : Nat) (x : Nat) : (s.hbmWrite a n v).port x = s.port x := rfl
@[simp] theorem State.hbmWrite_pump (s : State) (a n v : Nat) (x : Nat) : (s.hbmWrite a n v).pump x = s.pump x := rfl
@[simp] theorem State.hbmWrite_spout (s : State) (a n v : Nat) (x : Nat) : (s.hbmWrite a n v).spout x = s.spout x := rfl
@[simp] theorem State.hbmWrite_now (s : State) (a n v : Nat) : (s.hbmWrite a n v).now = s.now := rfl
@[simp] theorem State.hbmWrite_hostRead (s : State) (a n v : Nat) (x y : Nat) : (s.hbmWrite a n v).hostRead x y = s.hostRead x y := rfl

/-! ## shwWrite changes shw -/

@[simp] theorem State.shwWrite_pending (s : State) (a n v : Nat) : (s.shwWrite a n v).pending = s.pending := rfl
@[simp] theorem State.shwWrite_regs (s : State) (a n v : Nat) : (s.shwWrite a n v).regs = s.regs := rfl
@[simp] theorem State.shwWrite_heldLow (s : State) (a n v : Nat) : (s.shwWrite a n v).heldLow = s.heldLow := rfl
@[simp] theorem State.shwWrite_latchedHi (s : State) (a n v : Nat) : (s.shwWrite a n v).latchedHi = s.latchedHi := rfl
@[simp] theorem State.shwWrite_lastRead (s : State) (a n v : Nat) : (s.shwWrite a n v).lastRead = s.lastRead := rfl
@[simp] theorem State.shwWrite_hostMem (s : State) (a n v : Nat) : (s.shwWrite a n v).hostMem = s.hostMem := rfl
@[simp] theorem State.shwWrite_hostBad (s : State) (a n v : Nat) : (s.shwWrite a n v).hostBad = s.hostBad := rfl
@[simp] theorem State.shwWrite_hbmMem (s : State) (a n v : Nat) : (s.shwWrite a n v).hbmMem = s.hbmMem := rfl
@[simp] theorem State.shwWrite_sram (s : State) (a n v : Nat) : (s.shwWrite a n v).sram = s.sram := rfl
@[simp] theorem State.shwWrite_ctx (s : State) (a n v : Nat) : (s.shwWrite a n v).ctx = s.ctx := rfl
@[simp] theorem State.shwWrite_host (s : State) (a n v : Nat) : (s.shwWrite a n v).host = s.host := rfl
@[simp] theorem State.shwWrite_queues (s : State) (a n v : Nat) : (s.shwWrite a n v).queues = s.queues := rfl
@[simp] theorem State.shwWrite_irq (s : State) (a n v : Nat) : (s.shwWrite a n v).irq = s.irq := rfl
@[simp] theorem State.shwWrite_flt (s : State) (a n v : Nat) : (s.shwWrite a n v).flt = s.flt := rfl
@[simp] theorem State.shwWrite_cellWell (s : State) (a n v : Nat) : (s.shwWrite a n v).cellWell = s.cellWell := rfl
@[simp] theorem State.shwWrite_pageWell (s : State) (a n v : Nat) : (s.shwWrite a n v).pageWell = s.pageWell := rfl
@[simp] theorem State.shwWrite_rst (s : State) (a n v : Nat) : (s.shwWrite a n v).rst = s.rst := rfl
@[simp] theorem State.shwWrite_fuse (s : State) (a n v : Nat) : (s.shwWrite a n v).fuse = s.fuse := rfl
@[simp] theorem State.shwWrite_pwr (s : State) (a n v : Nat) : (s.shwWrite a n v).pwr = s.pwr := rfl
@[simp] theorem State.shwWrite_sensors (s : State) (a n v : Nat) : (s.shwWrite a n v).sensors = s.sensors := rfl
@[simp] theorem State.shwWrite_time (s : State) (a n v : Nat) : (s.shwWrite a n v).time = s.time := rfl
@[simp] theorem State.shwWrite_hbm (s : State) (a n v : Nat) : (s.shwWrite a n v).hbm = s.hbm := rfl
@[simp] theorem State.shwWrite_pumps (s : State) (a n v : Nat) : (s.shwWrite a n v).pumps = s.pumps := rfl
@[simp] theorem State.shwWrite_pulses (s : State) (a n v : Nat) : (s.shwWrite a n v).pulses = s.pulses := rfl
@[simp] theorem State.shwWrite_spouts (s : State) (a n v : Nat) : (s.shwWrite a n v).spouts = s.spouts := rfl
@[simp] theorem State.shwWrite_net (s : State) (a n v : Nat) : (s.shwWrite a n v).net = s.net := rfl
@[simp] theorem State.shwWrite_ck (s : State) (a n v : Nat) : (s.shwWrite a n v).ck = s.ck := rfl
@[simp] theorem State.shwWrite_codec (s : State) (a n v : Nat) : (s.shwWrite a n v).codec = s.codec := rfl
@[simp] theorem State.shwWrite_twin (s : State) (a n v : Nat) : (s.shwWrite a n v).twin = s.twin := rfl
@[simp] theorem State.shwWrite_prk (s : State) (a n v : Nat) : (s.shwWrite a n v).prk = s.prk := rfl
@[simp] theorem State.shwWrite_prkLoad (s : State) (a n v : Nat) : (s.shwWrite a n v).prkLoad = s.prkLoad := rfl
@[simp] theorem State.shwWrite_fw (s : State) (a n v : Nat) : (s.shwWrite a n v).fw = s.fw := rfl
@[simp] theorem State.shwWrite_faultN (s : State) (a n v : Nat) : (s.shwWrite a n v).faultN = s.faultN := rfl
@[simp] theorem State.shwWrite_yieldN (s : State) (a n v : Nat) : (s.shwWrite a n v).yieldN = s.yieldN := rfl
@[simp] theorem State.shwWrite_freeCount (s : State) (a n v : Nat) : (s.shwWrite a n v).freeCount = s.freeCount := rfl
@[simp] theorem State.shwWrite_reg (s : State) (a n v : Nat) (x : Nat) : (s.shwWrite a n v).reg x = s.reg x := rfl
@[simp] theorem State.shwWrite_regN (s : State) (a n v : Nat) (x : Nat) : (s.shwWrite a n v).regN x = s.regN x := rfl
@[simp] theorem State.shwWrite_queue (s : State) (a n v : Nat) (x : Nat) : (s.shwWrite a n v).queue x = s.queue x := rfl
@[simp] theorem State.shwWrite_src (s : State) (a n v : Nat) (x : Nat) : (s.shwWrite a n v).src x = s.src x := rfl
@[simp] theorem State.shwWrite_channel (s : State) (a n v : Nat) (x : Nat) : (s.shwWrite a n v).channel x = s.channel x := rfl
@[simp] theorem State.shwWrite_tamb (s : State) (a n v : Nat) (x : Nat) : (s.shwWrite a n v).tamb x = s.tamb x := rfl
@[simp] theorem State.shwWrite_iflow (s : State) (a n v : Nat) (x : Nat) : (s.shwWrite a n v).iflow x = s.iflow x := rfl
@[simp] theorem State.shwWrite_eflow (s : State) (a n v : Nat) (x : Nat) : (s.shwWrite a n v).eflow x = s.eflow x := rfl
@[simp] theorem State.shwWrite_gate (s : State) (a n v : Nat) (x : Nat) : (s.shwWrite a n v).gate x = s.gate x := rfl
@[simp] theorem State.shwWrite_port (s : State) (a n v : Nat) (x : Nat) : (s.shwWrite a n v).port x = s.port x := rfl
@[simp] theorem State.shwWrite_pump (s : State) (a n v : Nat) (x : Nat) : (s.shwWrite a n v).pump x = s.pump x := rfl
@[simp] theorem State.shwWrite_spout (s : State) (a n v : Nat) (x : Nat) : (s.shwWrite a n v).spout x = s.spout x := rfl
@[simp] theorem State.shwWrite_now (s : State) (a n v : Nat) : (s.shwWrite a n v).now = s.now := rfl
@[simp] theorem State.shwWrite_hostRead (s : State) (a n v : Nat) (x y : Nat) : (s.shwWrite a n v).hostRead x y = s.hostRead x y := rfl

/-! ## modQueue changes queues -/

@[simp] theorem State.modQueue_pending (s : State) (q : Nat) (f : Queue → Queue) : (s.modQueue q f).pending = s.pending := rfl
@[simp] theorem State.modQueue_regs (s : State) (q : Nat) (f : Queue → Queue) : (s.modQueue q f).regs = s.regs := rfl
@[simp] theorem State.modQueue_heldLow (s : State) (q : Nat) (f : Queue → Queue) : (s.modQueue q f).heldLow = s.heldLow := rfl
@[simp] theorem State.modQueue_latchedHi (s : State) (q : Nat) (f : Queue → Queue) : (s.modQueue q f).latchedHi = s.latchedHi := rfl
@[simp] theorem State.modQueue_lastRead (s : State) (q : Nat) (f : Queue → Queue) : (s.modQueue q f).lastRead = s.lastRead := rfl
@[simp] theorem State.modQueue_hostMem (s : State) (q : Nat) (f : Queue → Queue) : (s.modQueue q f).hostMem = s.hostMem := rfl
@[simp] theorem State.modQueue_hostBad (s : State) (q : Nat) (f : Queue → Queue) : (s.modQueue q f).hostBad = s.hostBad := rfl
@[simp] theorem State.modQueue_hbmMem (s : State) (q : Nat) (f : Queue → Queue) : (s.modQueue q f).hbmMem = s.hbmMem := rfl
@[simp] theorem State.modQueue_sram (s : State) (q : Nat) (f : Queue → Queue) : (s.modQueue q f).sram = s.sram := rfl
@[simp] theorem State.modQueue_shw (s : State) (q : Nat) (f : Queue → Queue) : (s.modQueue q f).shw = s.shw := rfl
@[simp] theorem State.modQueue_ctx (s : State) (q : Nat) (f : Queue → Queue) : (s.modQueue q f).ctx = s.ctx := rfl
@[simp] theorem State.modQueue_host (s : State) (q : Nat) (f : Queue → Queue) : (s.modQueue q f).host = s.host := rfl
@[simp] theorem State.modQueue_irq (s : State) (q : Nat) (f : Queue → Queue) : (s.modQueue q f).irq = s.irq := rfl
@[simp] theorem State.modQueue_flt (s : State) (q : Nat) (f : Queue → Queue) : (s.modQueue q f).flt = s.flt := rfl
@[simp] theorem State.modQueue_cellWell (s : State) (q : Nat) (f : Queue → Queue) : (s.modQueue q f).cellWell = s.cellWell := rfl
@[simp] theorem State.modQueue_pageWell (s : State) (q : Nat) (f : Queue → Queue) : (s.modQueue q f).pageWell = s.pageWell := rfl
@[simp] theorem State.modQueue_rst (s : State) (q : Nat) (f : Queue → Queue) : (s.modQueue q f).rst = s.rst := rfl
@[simp] theorem State.modQueue_fuse (s : State) (q : Nat) (f : Queue → Queue) : (s.modQueue q f).fuse = s.fuse := rfl
@[simp] theorem State.modQueue_pwr (s : State) (q : Nat) (f : Queue → Queue) : (s.modQueue q f).pwr = s.pwr := rfl
@[simp] theorem State.modQueue_sensors (s : State) (q : Nat) (f : Queue → Queue) : (s.modQueue q f).sensors = s.sensors := rfl
@[simp] theorem State.modQueue_time (s : State) (q : Nat) (f : Queue → Queue) : (s.modQueue q f).time = s.time := rfl
@[simp] theorem State.modQueue_hbm (s : State) (q : Nat) (f : Queue → Queue) : (s.modQueue q f).hbm = s.hbm := rfl
@[simp] theorem State.modQueue_pumps (s : State) (q : Nat) (f : Queue → Queue) : (s.modQueue q f).pumps = s.pumps := rfl
@[simp] theorem State.modQueue_pulses (s : State) (q : Nat) (f : Queue → Queue) : (s.modQueue q f).pulses = s.pulses := rfl
@[simp] theorem State.modQueue_spouts (s : State) (q : Nat) (f : Queue → Queue) : (s.modQueue q f).spouts = s.spouts := rfl
@[simp] theorem State.modQueue_net (s : State) (q : Nat) (f : Queue → Queue) : (s.modQueue q f).net = s.net := rfl
@[simp] theorem State.modQueue_ck (s : State) (q : Nat) (f : Queue → Queue) : (s.modQueue q f).ck = s.ck := rfl
@[simp] theorem State.modQueue_codec (s : State) (q : Nat) (f : Queue → Queue) : (s.modQueue q f).codec = s.codec := rfl
@[simp] theorem State.modQueue_twin (s : State) (q : Nat) (f : Queue → Queue) : (s.modQueue q f).twin = s.twin := rfl
@[simp] theorem State.modQueue_prk (s : State) (q : Nat) (f : Queue → Queue) : (s.modQueue q f).prk = s.prk := rfl
@[simp] theorem State.modQueue_prkLoad (s : State) (q : Nat) (f : Queue → Queue) : (s.modQueue q f).prkLoad = s.prkLoad := rfl
@[simp] theorem State.modQueue_fw (s : State) (q : Nat) (f : Queue → Queue) : (s.modQueue q f).fw = s.fw := rfl
@[simp] theorem State.modQueue_faultN (s : State) (q : Nat) (f : Queue → Queue) : (s.modQueue q f).faultN = s.faultN := rfl
@[simp] theorem State.modQueue_yieldN (s : State) (q : Nat) (f : Queue → Queue) : (s.modQueue q f).yieldN = s.yieldN := rfl
@[simp] theorem State.modQueue_freeCount (s : State) (q : Nat) (f : Queue → Queue) : (s.modQueue q f).freeCount = s.freeCount := rfl
@[simp] theorem State.modQueue_reg (s : State) (q : Nat) (f : Queue → Queue) (x : Nat) : (s.modQueue q f).reg x = s.reg x := rfl
@[simp] theorem State.modQueue_regN (s : State) (q : Nat) (f : Queue → Queue) (x : Nat) : (s.modQueue q f).regN x = s.regN x := rfl
@[simp] theorem State.modQueue_src (s : State) (q : Nat) (f : Queue → Queue) (x : Nat) : (s.modQueue q f).src x = s.src x := rfl
@[simp] theorem State.modQueue_channel (s : State) (q : Nat) (f : Queue → Queue) (x : Nat) : (s.modQueue q f).channel x = s.channel x := rfl
@[simp] theorem State.modQueue_tamb (s : State) (q : Nat) (f : Queue → Queue) (x : Nat) : (s.modQueue q f).tamb x = s.tamb x := rfl
@[simp] theorem State.modQueue_iflow (s : State) (q : Nat) (f : Queue → Queue) (x : Nat) : (s.modQueue q f).iflow x = s.iflow x := rfl
@[simp] theorem State.modQueue_eflow (s : State) (q : Nat) (f : Queue → Queue) (x : Nat) : (s.modQueue q f).eflow x = s.eflow x := rfl
@[simp] theorem State.modQueue_gate (s : State) (q : Nat) (f : Queue → Queue) (x : Nat) : (s.modQueue q f).gate x = s.gate x := rfl
@[simp] theorem State.modQueue_port (s : State) (q : Nat) (f : Queue → Queue) (x : Nat) : (s.modQueue q f).port x = s.port x := rfl
@[simp] theorem State.modQueue_pump (s : State) (q : Nat) (f : Queue → Queue) (x : Nat) : (s.modQueue q f).pump x = s.pump x := rfl
@[simp] theorem State.modQueue_spout (s : State) (q : Nat) (f : Queue → Queue) (x : Nat) : (s.modQueue q f).spout x = s.spout x := rfl
@[simp] theorem State.modQueue_now (s : State) (q : Nat) (f : Queue → Queue) : (s.modQueue q f).now = s.now := rfl
@[simp] theorem State.modQueue_hostRead (s : State) (q : Nat) (f : Queue → Queue) (x y : Nat) : (s.modQueue q f).hostRead x y = s.hostRead x y := rfl

/-! ## modSrc changes irq -/

@[simp] theorem State.modSrc_pending (s : State) (n : Nat) (f : IrqSrc → IrqSrc) : (s.modSrc n f).pending = s.pending := rfl
@[simp] theorem State.modSrc_regs (s : State) (n : Nat) (f : IrqSrc → IrqSrc) : (s.modSrc n f).regs = s.regs := rfl
@[simp] theorem State.modSrc_heldLow (s : State) (n : Nat) (f : IrqSrc → IrqSrc) : (s.modSrc n f).heldLow = s.heldLow := rfl
@[simp] theorem State.modSrc_latchedHi (s : State) (n : Nat) (f : IrqSrc → IrqSrc) : (s.modSrc n f).latchedHi = s.latchedHi := rfl
@[simp] theorem State.modSrc_lastRead (s : State) (n : Nat) (f : IrqSrc → IrqSrc) : (s.modSrc n f).lastRead = s.lastRead := rfl
@[simp] theorem State.modSrc_hostMem (s : State) (n : Nat) (f : IrqSrc → IrqSrc) : (s.modSrc n f).hostMem = s.hostMem := rfl
@[simp] theorem State.modSrc_hostBad (s : State) (n : Nat) (f : IrqSrc → IrqSrc) : (s.modSrc n f).hostBad = s.hostBad := rfl
@[simp] theorem State.modSrc_hbmMem (s : State) (n : Nat) (f : IrqSrc → IrqSrc) : (s.modSrc n f).hbmMem = s.hbmMem := rfl
@[simp] theorem State.modSrc_sram (s : State) (n : Nat) (f : IrqSrc → IrqSrc) : (s.modSrc n f).sram = s.sram := rfl
@[simp] theorem State.modSrc_shw (s : State) (n : Nat) (f : IrqSrc → IrqSrc) : (s.modSrc n f).shw = s.shw := rfl
@[simp] theorem State.modSrc_ctx (s : State) (n : Nat) (f : IrqSrc → IrqSrc) : (s.modSrc n f).ctx = s.ctx := rfl
@[simp] theorem State.modSrc_host (s : State) (n : Nat) (f : IrqSrc → IrqSrc) : (s.modSrc n f).host = s.host := rfl
@[simp] theorem State.modSrc_queues (s : State) (n : Nat) (f : IrqSrc → IrqSrc) : (s.modSrc n f).queues = s.queues := rfl
@[simp] theorem State.modSrc_flt (s : State) (n : Nat) (f : IrqSrc → IrqSrc) : (s.modSrc n f).flt = s.flt := rfl
@[simp] theorem State.modSrc_cellWell (s : State) (n : Nat) (f : IrqSrc → IrqSrc) : (s.modSrc n f).cellWell = s.cellWell := rfl
@[simp] theorem State.modSrc_pageWell (s : State) (n : Nat) (f : IrqSrc → IrqSrc) : (s.modSrc n f).pageWell = s.pageWell := rfl
@[simp] theorem State.modSrc_rst (s : State) (n : Nat) (f : IrqSrc → IrqSrc) : (s.modSrc n f).rst = s.rst := rfl
@[simp] theorem State.modSrc_fuse (s : State) (n : Nat) (f : IrqSrc → IrqSrc) : (s.modSrc n f).fuse = s.fuse := rfl
@[simp] theorem State.modSrc_pwr (s : State) (n : Nat) (f : IrqSrc → IrqSrc) : (s.modSrc n f).pwr = s.pwr := rfl
@[simp] theorem State.modSrc_sensors (s : State) (n : Nat) (f : IrqSrc → IrqSrc) : (s.modSrc n f).sensors = s.sensors := rfl
@[simp] theorem State.modSrc_time (s : State) (n : Nat) (f : IrqSrc → IrqSrc) : (s.modSrc n f).time = s.time := rfl
@[simp] theorem State.modSrc_hbm (s : State) (n : Nat) (f : IrqSrc → IrqSrc) : (s.modSrc n f).hbm = s.hbm := rfl
@[simp] theorem State.modSrc_pumps (s : State) (n : Nat) (f : IrqSrc → IrqSrc) : (s.modSrc n f).pumps = s.pumps := rfl
@[simp] theorem State.modSrc_pulses (s : State) (n : Nat) (f : IrqSrc → IrqSrc) : (s.modSrc n f).pulses = s.pulses := rfl
@[simp] theorem State.modSrc_spouts (s : State) (n : Nat) (f : IrqSrc → IrqSrc) : (s.modSrc n f).spouts = s.spouts := rfl
@[simp] theorem State.modSrc_net (s : State) (n : Nat) (f : IrqSrc → IrqSrc) : (s.modSrc n f).net = s.net := rfl
@[simp] theorem State.modSrc_ck (s : State) (n : Nat) (f : IrqSrc → IrqSrc) : (s.modSrc n f).ck = s.ck := rfl
@[simp] theorem State.modSrc_codec (s : State) (n : Nat) (f : IrqSrc → IrqSrc) : (s.modSrc n f).codec = s.codec := rfl
@[simp] theorem State.modSrc_twin (s : State) (n : Nat) (f : IrqSrc → IrqSrc) : (s.modSrc n f).twin = s.twin := rfl
@[simp] theorem State.modSrc_prk (s : State) (n : Nat) (f : IrqSrc → IrqSrc) : (s.modSrc n f).prk = s.prk := rfl
@[simp] theorem State.modSrc_prkLoad (s : State) (n : Nat) (f : IrqSrc → IrqSrc) : (s.modSrc n f).prkLoad = s.prkLoad := rfl
@[simp] theorem State.modSrc_fw (s : State) (n : Nat) (f : IrqSrc → IrqSrc) : (s.modSrc n f).fw = s.fw := rfl
@[simp] theorem State.modSrc_faultN (s : State) (n : Nat) (f : IrqSrc → IrqSrc) : (s.modSrc n f).faultN = s.faultN := rfl
@[simp] theorem State.modSrc_yieldN (s : State) (n : Nat) (f : IrqSrc → IrqSrc) : (s.modSrc n f).yieldN = s.yieldN := rfl
@[simp] theorem State.modSrc_freeCount (s : State) (n : Nat) (f : IrqSrc → IrqSrc) : (s.modSrc n f).freeCount = s.freeCount := rfl
@[simp] theorem State.modSrc_reg (s : State) (n : Nat) (f : IrqSrc → IrqSrc) (x : Nat) : (s.modSrc n f).reg x = s.reg x := rfl
@[simp] theorem State.modSrc_regN (s : State) (n : Nat) (f : IrqSrc → IrqSrc) (x : Nat) : (s.modSrc n f).regN x = s.regN x := rfl
@[simp] theorem State.modSrc_queue (s : State) (n : Nat) (f : IrqSrc → IrqSrc) (x : Nat) : (s.modSrc n f).queue x = s.queue x := rfl
@[simp] theorem State.modSrc_channel (s : State) (n : Nat) (f : IrqSrc → IrqSrc) (x : Nat) : (s.modSrc n f).channel x = s.channel x := rfl
@[simp] theorem State.modSrc_tamb (s : State) (n : Nat) (f : IrqSrc → IrqSrc) (x : Nat) : (s.modSrc n f).tamb x = s.tamb x := rfl
@[simp] theorem State.modSrc_iflow (s : State) (n : Nat) (f : IrqSrc → IrqSrc) (x : Nat) : (s.modSrc n f).iflow x = s.iflow x := rfl
@[simp] theorem State.modSrc_eflow (s : State) (n : Nat) (f : IrqSrc → IrqSrc) (x : Nat) : (s.modSrc n f).eflow x = s.eflow x := rfl
@[simp] theorem State.modSrc_gate (s : State) (n : Nat) (f : IrqSrc → IrqSrc) (x : Nat) : (s.modSrc n f).gate x = s.gate x := rfl
@[simp] theorem State.modSrc_port (s : State) (n : Nat) (f : IrqSrc → IrqSrc) (x : Nat) : (s.modSrc n f).port x = s.port x := rfl
@[simp] theorem State.modSrc_pump (s : State) (n : Nat) (f : IrqSrc → IrqSrc) (x : Nat) : (s.modSrc n f).pump x = s.pump x := rfl
@[simp] theorem State.modSrc_spout (s : State) (n : Nat) (f : IrqSrc → IrqSrc) (x : Nat) : (s.modSrc n f).spout x = s.spout x := rfl
@[simp] theorem State.modSrc_now (s : State) (n : Nat) (f : IrqSrc → IrqSrc) : (s.modSrc n f).now = s.now := rfl
@[simp] theorem State.modSrc_hostRead (s : State) (n : Nat) (f : IrqSrc → IrqSrc) (x y : Nat) : (s.modSrc n f).hostRead x y = s.hostRead x y := rfl

/-! ## modChannel changes codec.channels -/

@[simp] theorem State.modChannel_pending (s : State) (c : Nat) (f : Channel → Channel) : (s.modChannel c f).pending = s.pending := rfl
@[simp] theorem State.modChannel_regs (s : State) (c : Nat) (f : Channel → Channel) : (s.modChannel c f).regs = s.regs := rfl
@[simp] theorem State.modChannel_heldLow (s : State) (c : Nat) (f : Channel → Channel) : (s.modChannel c f).heldLow = s.heldLow := rfl
@[simp] theorem State.modChannel_latchedHi (s : State) (c : Nat) (f : Channel → Channel) : (s.modChannel c f).latchedHi = s.latchedHi := rfl
@[simp] theorem State.modChannel_lastRead (s : State) (c : Nat) (f : Channel → Channel) : (s.modChannel c f).lastRead = s.lastRead := rfl
@[simp] theorem State.modChannel_hostMem (s : State) (c : Nat) (f : Channel → Channel) : (s.modChannel c f).hostMem = s.hostMem := rfl
@[simp] theorem State.modChannel_hostBad (s : State) (c : Nat) (f : Channel → Channel) : (s.modChannel c f).hostBad = s.hostBad := rfl
@[simp] theorem State.modChannel_hbmMem (s : State) (c : Nat) (f : Channel → Channel) : (s.modChannel c f).hbmMem = s.hbmMem := rfl
@[simp] theorem State.modChannel_sram (s : State) (c : Nat) (f : Channel → Channel) : (s.modChannel c f).sram = s.sram := rfl
@[simp] theorem State.modChannel_shw (s : State) (c : Nat) (f : Channel → Channel) : (s.modChannel c f).shw = s.shw := rfl
@[simp] theorem State.modChannel_ctx (s : State) (c : Nat) (f : Channel → Channel) : (s.modChannel c f).ctx = s.ctx := rfl
@[simp] theorem State.modChannel_host (s : State) (c : Nat) (f : Channel → Channel) : (s.modChannel c f).host = s.host := rfl
@[simp] theorem State.modChannel_queues (s : State) (c : Nat) (f : Channel → Channel) : (s.modChannel c f).queues = s.queues := rfl
@[simp] theorem State.modChannel_irq (s : State) (c : Nat) (f : Channel → Channel) : (s.modChannel c f).irq = s.irq := rfl
@[simp] theorem State.modChannel_flt (s : State) (c : Nat) (f : Channel → Channel) : (s.modChannel c f).flt = s.flt := rfl
@[simp] theorem State.modChannel_cellWell (s : State) (c : Nat) (f : Channel → Channel) : (s.modChannel c f).cellWell = s.cellWell := rfl
@[simp] theorem State.modChannel_pageWell (s : State) (c : Nat) (f : Channel → Channel) : (s.modChannel c f).pageWell = s.pageWell := rfl
@[simp] theorem State.modChannel_rst (s : State) (c : Nat) (f : Channel → Channel) : (s.modChannel c f).rst = s.rst := rfl
@[simp] theorem State.modChannel_fuse (s : State) (c : Nat) (f : Channel → Channel) : (s.modChannel c f).fuse = s.fuse := rfl
@[simp] theorem State.modChannel_pwr (s : State) (c : Nat) (f : Channel → Channel) : (s.modChannel c f).pwr = s.pwr := rfl
@[simp] theorem State.modChannel_sensors (s : State) (c : Nat) (f : Channel → Channel) : (s.modChannel c f).sensors = s.sensors := rfl
@[simp] theorem State.modChannel_time (s : State) (c : Nat) (f : Channel → Channel) : (s.modChannel c f).time = s.time := rfl
@[simp] theorem State.modChannel_hbm (s : State) (c : Nat) (f : Channel → Channel) : (s.modChannel c f).hbm = s.hbm := rfl
@[simp] theorem State.modChannel_pumps (s : State) (c : Nat) (f : Channel → Channel) : (s.modChannel c f).pumps = s.pumps := rfl
@[simp] theorem State.modChannel_pulses (s : State) (c : Nat) (f : Channel → Channel) : (s.modChannel c f).pulses = s.pulses := rfl
@[simp] theorem State.modChannel_spouts (s : State) (c : Nat) (f : Channel → Channel) : (s.modChannel c f).spouts = s.spouts := rfl
@[simp] theorem State.modChannel_net (s : State) (c : Nat) (f : Channel → Channel) : (s.modChannel c f).net = s.net := rfl
@[simp] theorem State.modChannel_ck (s : State) (c : Nat) (f : Channel → Channel) : (s.modChannel c f).ck = s.ck := rfl
@[simp] theorem State.modChannel_twin (s : State) (c : Nat) (f : Channel → Channel) : (s.modChannel c f).twin = s.twin := rfl
@[simp] theorem State.modChannel_prk (s : State) (c : Nat) (f : Channel → Channel) : (s.modChannel c f).prk = s.prk := rfl
@[simp] theorem State.modChannel_prkLoad (s : State) (c : Nat) (f : Channel → Channel) : (s.modChannel c f).prkLoad = s.prkLoad := rfl
@[simp] theorem State.modChannel_fw (s : State) (c : Nat) (f : Channel → Channel) : (s.modChannel c f).fw = s.fw := rfl
@[simp] theorem State.modChannel_faultN (s : State) (c : Nat) (f : Channel → Channel) : (s.modChannel c f).faultN = s.faultN := rfl
@[simp] theorem State.modChannel_yieldN (s : State) (c : Nat) (f : Channel → Channel) : (s.modChannel c f).yieldN = s.yieldN := rfl
@[simp] theorem State.modChannel_freeCount (s : State) (c : Nat) (f : Channel → Channel) : (s.modChannel c f).freeCount = s.freeCount := rfl
@[simp] theorem State.modChannel_codec_tambs (s : State) (c : Nat) (f : Channel → Channel) : (s.modChannel c f).codec.tambs = s.codec.tambs := rfl
@[simp] theorem State.modChannel_codec_subs (s : State) (c : Nat) (f : Channel → Channel) : (s.modChannel c f).codec.subs = s.codec.subs := rfl
@[simp] theorem State.modChannel_codec_lastSeq (s : State) (c : Nat) (f : Channel → Channel) : (s.modChannel c f).codec.lastSeq = s.codec.lastSeq := rfl
@[simp] theorem State.modChannel_reg (s : State) (c : Nat) (f : Channel → Channel) (x : Nat) : (s.modChannel c f).reg x = s.reg x := rfl
@[simp] theorem State.modChannel_regN (s : State) (c : Nat) (f : Channel → Channel) (x : Nat) : (s.modChannel c f).regN x = s.regN x := rfl
@[simp] theorem State.modChannel_queue (s : State) (c : Nat) (f : Channel → Channel) (x : Nat) : (s.modChannel c f).queue x = s.queue x := rfl
@[simp] theorem State.modChannel_src (s : State) (c : Nat) (f : Channel → Channel) (x : Nat) : (s.modChannel c f).src x = s.src x := rfl
@[simp] theorem State.modChannel_tamb (s : State) (c : Nat) (f : Channel → Channel) (x : Nat) : (s.modChannel c f).tamb x = s.tamb x := rfl
@[simp] theorem State.modChannel_iflow (s : State) (c : Nat) (f : Channel → Channel) (x : Nat) : (s.modChannel c f).iflow x = s.iflow x := rfl
@[simp] theorem State.modChannel_eflow (s : State) (c : Nat) (f : Channel → Channel) (x : Nat) : (s.modChannel c f).eflow x = s.eflow x := rfl
@[simp] theorem State.modChannel_gate (s : State) (c : Nat) (f : Channel → Channel) (x : Nat) : (s.modChannel c f).gate x = s.gate x := rfl
@[simp] theorem State.modChannel_port (s : State) (c : Nat) (f : Channel → Channel) (x : Nat) : (s.modChannel c f).port x = s.port x := rfl
@[simp] theorem State.modChannel_pump (s : State) (c : Nat) (f : Channel → Channel) (x : Nat) : (s.modChannel c f).pump x = s.pump x := rfl
@[simp] theorem State.modChannel_spout (s : State) (c : Nat) (f : Channel → Channel) (x : Nat) : (s.modChannel c f).spout x = s.spout x := rfl
@[simp] theorem State.modChannel_now (s : State) (c : Nat) (f : Channel → Channel) : (s.modChannel c f).now = s.now := rfl
@[simp] theorem State.modChannel_hostRead (s : State) (c : Nat) (f : Channel → Channel) (x y : Nat) : (s.modChannel c f).hostRead x y = s.hostRead x y := rfl

/-! ## modTamb changes codec.tambs -/

@[simp] theorem State.modTamb_pending (s : State) (k : Nat) (f : Tamb → Tamb) : (s.modTamb k f).pending = s.pending := rfl
@[simp] theorem State.modTamb_regs (s : State) (k : Nat) (f : Tamb → Tamb) : (s.modTamb k f).regs = s.regs := rfl
@[simp] theorem State.modTamb_heldLow (s : State) (k : Nat) (f : Tamb → Tamb) : (s.modTamb k f).heldLow = s.heldLow := rfl
@[simp] theorem State.modTamb_latchedHi (s : State) (k : Nat) (f : Tamb → Tamb) : (s.modTamb k f).latchedHi = s.latchedHi := rfl
@[simp] theorem State.modTamb_lastRead (s : State) (k : Nat) (f : Tamb → Tamb) : (s.modTamb k f).lastRead = s.lastRead := rfl
@[simp] theorem State.modTamb_hostMem (s : State) (k : Nat) (f : Tamb → Tamb) : (s.modTamb k f).hostMem = s.hostMem := rfl
@[simp] theorem State.modTamb_hostBad (s : State) (k : Nat) (f : Tamb → Tamb) : (s.modTamb k f).hostBad = s.hostBad := rfl
@[simp] theorem State.modTamb_hbmMem (s : State) (k : Nat) (f : Tamb → Tamb) : (s.modTamb k f).hbmMem = s.hbmMem := rfl
@[simp] theorem State.modTamb_sram (s : State) (k : Nat) (f : Tamb → Tamb) : (s.modTamb k f).sram = s.sram := rfl
@[simp] theorem State.modTamb_shw (s : State) (k : Nat) (f : Tamb → Tamb) : (s.modTamb k f).shw = s.shw := rfl
@[simp] theorem State.modTamb_ctx (s : State) (k : Nat) (f : Tamb → Tamb) : (s.modTamb k f).ctx = s.ctx := rfl
@[simp] theorem State.modTamb_host (s : State) (k : Nat) (f : Tamb → Tamb) : (s.modTamb k f).host = s.host := rfl
@[simp] theorem State.modTamb_queues (s : State) (k : Nat) (f : Tamb → Tamb) : (s.modTamb k f).queues = s.queues := rfl
@[simp] theorem State.modTamb_irq (s : State) (k : Nat) (f : Tamb → Tamb) : (s.modTamb k f).irq = s.irq := rfl
@[simp] theorem State.modTamb_flt (s : State) (k : Nat) (f : Tamb → Tamb) : (s.modTamb k f).flt = s.flt := rfl
@[simp] theorem State.modTamb_cellWell (s : State) (k : Nat) (f : Tamb → Tamb) : (s.modTamb k f).cellWell = s.cellWell := rfl
@[simp] theorem State.modTamb_pageWell (s : State) (k : Nat) (f : Tamb → Tamb) : (s.modTamb k f).pageWell = s.pageWell := rfl
@[simp] theorem State.modTamb_rst (s : State) (k : Nat) (f : Tamb → Tamb) : (s.modTamb k f).rst = s.rst := rfl
@[simp] theorem State.modTamb_fuse (s : State) (k : Nat) (f : Tamb → Tamb) : (s.modTamb k f).fuse = s.fuse := rfl
@[simp] theorem State.modTamb_pwr (s : State) (k : Nat) (f : Tamb → Tamb) : (s.modTamb k f).pwr = s.pwr := rfl
@[simp] theorem State.modTamb_sensors (s : State) (k : Nat) (f : Tamb → Tamb) : (s.modTamb k f).sensors = s.sensors := rfl
@[simp] theorem State.modTamb_time (s : State) (k : Nat) (f : Tamb → Tamb) : (s.modTamb k f).time = s.time := rfl
@[simp] theorem State.modTamb_hbm (s : State) (k : Nat) (f : Tamb → Tamb) : (s.modTamb k f).hbm = s.hbm := rfl
@[simp] theorem State.modTamb_pumps (s : State) (k : Nat) (f : Tamb → Tamb) : (s.modTamb k f).pumps = s.pumps := rfl
@[simp] theorem State.modTamb_pulses (s : State) (k : Nat) (f : Tamb → Tamb) : (s.modTamb k f).pulses = s.pulses := rfl
@[simp] theorem State.modTamb_spouts (s : State) (k : Nat) (f : Tamb → Tamb) : (s.modTamb k f).spouts = s.spouts := rfl
@[simp] theorem State.modTamb_net (s : State) (k : Nat) (f : Tamb → Tamb) : (s.modTamb k f).net = s.net := rfl
@[simp] theorem State.modTamb_ck (s : State) (k : Nat) (f : Tamb → Tamb) : (s.modTamb k f).ck = s.ck := rfl
@[simp] theorem State.modTamb_twin (s : State) (k : Nat) (f : Tamb → Tamb) : (s.modTamb k f).twin = s.twin := rfl
@[simp] theorem State.modTamb_prk (s : State) (k : Nat) (f : Tamb → Tamb) : (s.modTamb k f).prk = s.prk := rfl
@[simp] theorem State.modTamb_prkLoad (s : State) (k : Nat) (f : Tamb → Tamb) : (s.modTamb k f).prkLoad = s.prkLoad := rfl
@[simp] theorem State.modTamb_fw (s : State) (k : Nat) (f : Tamb → Tamb) : (s.modTamb k f).fw = s.fw := rfl
@[simp] theorem State.modTamb_faultN (s : State) (k : Nat) (f : Tamb → Tamb) : (s.modTamb k f).faultN = s.faultN := rfl
@[simp] theorem State.modTamb_yieldN (s : State) (k : Nat) (f : Tamb → Tamb) : (s.modTamb k f).yieldN = s.yieldN := rfl
@[simp] theorem State.modTamb_freeCount (s : State) (k : Nat) (f : Tamb → Tamb) : (s.modTamb k f).freeCount = s.freeCount := rfl
@[simp] theorem State.modTamb_codec_channels (s : State) (k : Nat) (f : Tamb → Tamb) : (s.modTamb k f).codec.channels = s.codec.channels := rfl
@[simp] theorem State.modTamb_codec_subs (s : State) (k : Nat) (f : Tamb → Tamb) : (s.modTamb k f).codec.subs = s.codec.subs := rfl
@[simp] theorem State.modTamb_codec_lastSeq (s : State) (k : Nat) (f : Tamb → Tamb) : (s.modTamb k f).codec.lastSeq = s.codec.lastSeq := rfl
@[simp] theorem State.modTamb_reg (s : State) (k : Nat) (f : Tamb → Tamb) (x : Nat) : (s.modTamb k f).reg x = s.reg x := rfl
@[simp] theorem State.modTamb_regN (s : State) (k : Nat) (f : Tamb → Tamb) (x : Nat) : (s.modTamb k f).regN x = s.regN x := rfl
@[simp] theorem State.modTamb_queue (s : State) (k : Nat) (f : Tamb → Tamb) (x : Nat) : (s.modTamb k f).queue x = s.queue x := rfl
@[simp] theorem State.modTamb_src (s : State) (k : Nat) (f : Tamb → Tamb) (x : Nat) : (s.modTamb k f).src x = s.src x := rfl
@[simp] theorem State.modTamb_channel (s : State) (k : Nat) (f : Tamb → Tamb) (x : Nat) : (s.modTamb k f).channel x = s.channel x := rfl
@[simp] theorem State.modTamb_iflow (s : State) (k : Nat) (f : Tamb → Tamb) (x : Nat) : (s.modTamb k f).iflow x = s.iflow x := rfl
@[simp] theorem State.modTamb_eflow (s : State) (k : Nat) (f : Tamb → Tamb) (x : Nat) : (s.modTamb k f).eflow x = s.eflow x := rfl
@[simp] theorem State.modTamb_gate (s : State) (k : Nat) (f : Tamb → Tamb) (x : Nat) : (s.modTamb k f).gate x = s.gate x := rfl
@[simp] theorem State.modTamb_port (s : State) (k : Nat) (f : Tamb → Tamb) (x : Nat) : (s.modTamb k f).port x = s.port x := rfl
@[simp] theorem State.modTamb_pump (s : State) (k : Nat) (f : Tamb → Tamb) (x : Nat) : (s.modTamb k f).pump x = s.pump x := rfl
@[simp] theorem State.modTamb_spout (s : State) (k : Nat) (f : Tamb → Tamb) (x : Nat) : (s.modTamb k f).spout x = s.spout x := rfl
@[simp] theorem State.modTamb_now (s : State) (k : Nat) (f : Tamb → Tamb) : (s.modTamb k f).now = s.now := rfl
@[simp] theorem State.modTamb_hostRead (s : State) (k : Nat) (f : Tamb → Tamb) (x y : Nat) : (s.modTamb k f).hostRead x y = s.hostRead x y := rfl

/-! ## modIflow changes net.iflows -/

@[simp] theorem State.modIflow_pending (s : State) (n : Nat) (f : IFlow → IFlow) : (s.modIflow n f).pending = s.pending := rfl
@[simp] theorem State.modIflow_regs (s : State) (n : Nat) (f : IFlow → IFlow) : (s.modIflow n f).regs = s.regs := rfl
@[simp] theorem State.modIflow_heldLow (s : State) (n : Nat) (f : IFlow → IFlow) : (s.modIflow n f).heldLow = s.heldLow := rfl
@[simp] theorem State.modIflow_latchedHi (s : State) (n : Nat) (f : IFlow → IFlow) : (s.modIflow n f).latchedHi = s.latchedHi := rfl
@[simp] theorem State.modIflow_lastRead (s : State) (n : Nat) (f : IFlow → IFlow) : (s.modIflow n f).lastRead = s.lastRead := rfl
@[simp] theorem State.modIflow_hostMem (s : State) (n : Nat) (f : IFlow → IFlow) : (s.modIflow n f).hostMem = s.hostMem := rfl
@[simp] theorem State.modIflow_hostBad (s : State) (n : Nat) (f : IFlow → IFlow) : (s.modIflow n f).hostBad = s.hostBad := rfl
@[simp] theorem State.modIflow_hbmMem (s : State) (n : Nat) (f : IFlow → IFlow) : (s.modIflow n f).hbmMem = s.hbmMem := rfl
@[simp] theorem State.modIflow_sram (s : State) (n : Nat) (f : IFlow → IFlow) : (s.modIflow n f).sram = s.sram := rfl
@[simp] theorem State.modIflow_shw (s : State) (n : Nat) (f : IFlow → IFlow) : (s.modIflow n f).shw = s.shw := rfl
@[simp] theorem State.modIflow_ctx (s : State) (n : Nat) (f : IFlow → IFlow) : (s.modIflow n f).ctx = s.ctx := rfl
@[simp] theorem State.modIflow_host (s : State) (n : Nat) (f : IFlow → IFlow) : (s.modIflow n f).host = s.host := rfl
@[simp] theorem State.modIflow_queues (s : State) (n : Nat) (f : IFlow → IFlow) : (s.modIflow n f).queues = s.queues := rfl
@[simp] theorem State.modIflow_irq (s : State) (n : Nat) (f : IFlow → IFlow) : (s.modIflow n f).irq = s.irq := rfl
@[simp] theorem State.modIflow_flt (s : State) (n : Nat) (f : IFlow → IFlow) : (s.modIflow n f).flt = s.flt := rfl
@[simp] theorem State.modIflow_cellWell (s : State) (n : Nat) (f : IFlow → IFlow) : (s.modIflow n f).cellWell = s.cellWell := rfl
@[simp] theorem State.modIflow_pageWell (s : State) (n : Nat) (f : IFlow → IFlow) : (s.modIflow n f).pageWell = s.pageWell := rfl
@[simp] theorem State.modIflow_rst (s : State) (n : Nat) (f : IFlow → IFlow) : (s.modIflow n f).rst = s.rst := rfl
@[simp] theorem State.modIflow_fuse (s : State) (n : Nat) (f : IFlow → IFlow) : (s.modIflow n f).fuse = s.fuse := rfl
@[simp] theorem State.modIflow_pwr (s : State) (n : Nat) (f : IFlow → IFlow) : (s.modIflow n f).pwr = s.pwr := rfl
@[simp] theorem State.modIflow_sensors (s : State) (n : Nat) (f : IFlow → IFlow) : (s.modIflow n f).sensors = s.sensors := rfl
@[simp] theorem State.modIflow_time (s : State) (n : Nat) (f : IFlow → IFlow) : (s.modIflow n f).time = s.time := rfl
@[simp] theorem State.modIflow_hbm (s : State) (n : Nat) (f : IFlow → IFlow) : (s.modIflow n f).hbm = s.hbm := rfl
@[simp] theorem State.modIflow_pumps (s : State) (n : Nat) (f : IFlow → IFlow) : (s.modIflow n f).pumps = s.pumps := rfl
@[simp] theorem State.modIflow_pulses (s : State) (n : Nat) (f : IFlow → IFlow) : (s.modIflow n f).pulses = s.pulses := rfl
@[simp] theorem State.modIflow_spouts (s : State) (n : Nat) (f : IFlow → IFlow) : (s.modIflow n f).spouts = s.spouts := rfl
@[simp] theorem State.modIflow_ck (s : State) (n : Nat) (f : IFlow → IFlow) : (s.modIflow n f).ck = s.ck := rfl
@[simp] theorem State.modIflow_codec (s : State) (n : Nat) (f : IFlow → IFlow) : (s.modIflow n f).codec = s.codec := rfl
@[simp] theorem State.modIflow_twin (s : State) (n : Nat) (f : IFlow → IFlow) : (s.modIflow n f).twin = s.twin := rfl
@[simp] theorem State.modIflow_prk (s : State) (n : Nat) (f : IFlow → IFlow) : (s.modIflow n f).prk = s.prk := rfl
@[simp] theorem State.modIflow_prkLoad (s : State) (n : Nat) (f : IFlow → IFlow) : (s.modIflow n f).prkLoad = s.prkLoad := rfl
@[simp] theorem State.modIflow_fw (s : State) (n : Nat) (f : IFlow → IFlow) : (s.modIflow n f).fw = s.fw := rfl
@[simp] theorem State.modIflow_faultN (s : State) (n : Nat) (f : IFlow → IFlow) : (s.modIflow n f).faultN = s.faultN := rfl
@[simp] theorem State.modIflow_yieldN (s : State) (n : Nat) (f : IFlow → IFlow) : (s.modIflow n f).yieldN = s.yieldN := rfl
@[simp] theorem State.modIflow_freeCount (s : State) (n : Nat) (f : IFlow → IFlow) : (s.modIflow n f).freeCount = s.freeCount := rfl
@[simp] theorem State.modIflow_net_eflows (s : State) (n : Nat) (f : IFlow → IFlow) : (s.modIflow n f).net.eflows = s.net.eflows := rfl
@[simp] theorem State.modIflow_net_ports (s : State) (n : Nat) (f : IFlow → IFlow) : (s.modIflow n f).net.ports = s.net.ports := rfl
@[simp] theorem State.modIflow_net_gates (s : State) (n : Nat) (f : IFlow → IFlow) : (s.modIflow n f).net.gates = s.net.gates := rfl
@[simp] theorem State.modIflow_net_members (s : State) (n : Nat) (f : IFlow → IFlow) : (s.modIflow n f).net.members = s.net.members := rfl
@[simp] theorem State.modIflow_net_shares (s : State) (n : Nat) (f : IFlow → IFlow) : (s.modIflow n f).net.shares = s.net.shares := rfl
@[simp] theorem State.modIflow_net_efqWait (s : State) (n : Nat) (f : IFlow → IFlow) : (s.modIflow n f).net.efqWait = s.net.efqWait := rfl
@[simp] theorem State.modIflow_net_passWait (s : State) (n : Nat) (f : IFlow → IFlow) : (s.modIflow n f).net.passWait = s.net.passWait := rfl
@[simp] theorem State.modIflow_net_fwRx (s : State) (n : Nat) (f : IFlow → IFlow) : (s.modIflow n f).net.fwRx = s.net.fwRx := rfl
@[simp] theorem State.modIflow_net_txTs (s : State) (n : Nat) (f : IFlow → IFlow) : (s.modIflow n f).net.txTs = s.net.txTs := rfl
@[simp] theorem State.modIflow_net_sent (s : State) (n : Nat) (f : IFlow → IFlow) : (s.modIflow n f).net.sent = s.net.sent := rfl
@[simp] theorem State.modIflow_net_reports (s : State) (n : Nat) (f : IFlow → IFlow) : (s.modIflow n f).net.reports = s.net.reports := rfl
@[simp] theorem State.modIflow_reg (s : State) (n : Nat) (f : IFlow → IFlow) (x : Nat) : (s.modIflow n f).reg x = s.reg x := rfl
@[simp] theorem State.modIflow_regN (s : State) (n : Nat) (f : IFlow → IFlow) (x : Nat) : (s.modIflow n f).regN x = s.regN x := rfl
@[simp] theorem State.modIflow_queue (s : State) (n : Nat) (f : IFlow → IFlow) (x : Nat) : (s.modIflow n f).queue x = s.queue x := rfl
@[simp] theorem State.modIflow_src (s : State) (n : Nat) (f : IFlow → IFlow) (x : Nat) : (s.modIflow n f).src x = s.src x := rfl
@[simp] theorem State.modIflow_channel (s : State) (n : Nat) (f : IFlow → IFlow) (x : Nat) : (s.modIflow n f).channel x = s.channel x := rfl
@[simp] theorem State.modIflow_tamb (s : State) (n : Nat) (f : IFlow → IFlow) (x : Nat) : (s.modIflow n f).tamb x = s.tamb x := rfl
@[simp] theorem State.modIflow_eflow (s : State) (n : Nat) (f : IFlow → IFlow) (x : Nat) : (s.modIflow n f).eflow x = s.eflow x := rfl
@[simp] theorem State.modIflow_gate (s : State) (n : Nat) (f : IFlow → IFlow) (x : Nat) : (s.modIflow n f).gate x = s.gate x := rfl
@[simp] theorem State.modIflow_port (s : State) (n : Nat) (f : IFlow → IFlow) (x : Nat) : (s.modIflow n f).port x = s.port x := rfl
@[simp] theorem State.modIflow_pump (s : State) (n : Nat) (f : IFlow → IFlow) (x : Nat) : (s.modIflow n f).pump x = s.pump x := rfl
@[simp] theorem State.modIflow_spout (s : State) (n : Nat) (f : IFlow → IFlow) (x : Nat) : (s.modIflow n f).spout x = s.spout x := rfl
@[simp] theorem State.modIflow_now (s : State) (n : Nat) (f : IFlow → IFlow) : (s.modIflow n f).now = s.now := rfl
@[simp] theorem State.modIflow_hostRead (s : State) (n : Nat) (f : IFlow → IFlow) (x y : Nat) : (s.modIflow n f).hostRead x y = s.hostRead x y := rfl

/-! ## modEflow changes net.eflows -/

@[simp] theorem State.modEflow_pending (s : State) (n : Nat) (f : EFlow → EFlow) : (s.modEflow n f).pending = s.pending := rfl
@[simp] theorem State.modEflow_regs (s : State) (n : Nat) (f : EFlow → EFlow) : (s.modEflow n f).regs = s.regs := rfl
@[simp] theorem State.modEflow_heldLow (s : State) (n : Nat) (f : EFlow → EFlow) : (s.modEflow n f).heldLow = s.heldLow := rfl
@[simp] theorem State.modEflow_latchedHi (s : State) (n : Nat) (f : EFlow → EFlow) : (s.modEflow n f).latchedHi = s.latchedHi := rfl
@[simp] theorem State.modEflow_lastRead (s : State) (n : Nat) (f : EFlow → EFlow) : (s.modEflow n f).lastRead = s.lastRead := rfl
@[simp] theorem State.modEflow_hostMem (s : State) (n : Nat) (f : EFlow → EFlow) : (s.modEflow n f).hostMem = s.hostMem := rfl
@[simp] theorem State.modEflow_hostBad (s : State) (n : Nat) (f : EFlow → EFlow) : (s.modEflow n f).hostBad = s.hostBad := rfl
@[simp] theorem State.modEflow_hbmMem (s : State) (n : Nat) (f : EFlow → EFlow) : (s.modEflow n f).hbmMem = s.hbmMem := rfl
@[simp] theorem State.modEflow_sram (s : State) (n : Nat) (f : EFlow → EFlow) : (s.modEflow n f).sram = s.sram := rfl
@[simp] theorem State.modEflow_shw (s : State) (n : Nat) (f : EFlow → EFlow) : (s.modEflow n f).shw = s.shw := rfl
@[simp] theorem State.modEflow_ctx (s : State) (n : Nat) (f : EFlow → EFlow) : (s.modEflow n f).ctx = s.ctx := rfl
@[simp] theorem State.modEflow_host (s : State) (n : Nat) (f : EFlow → EFlow) : (s.modEflow n f).host = s.host := rfl
@[simp] theorem State.modEflow_queues (s : State) (n : Nat) (f : EFlow → EFlow) : (s.modEflow n f).queues = s.queues := rfl
@[simp] theorem State.modEflow_irq (s : State) (n : Nat) (f : EFlow → EFlow) : (s.modEflow n f).irq = s.irq := rfl
@[simp] theorem State.modEflow_flt (s : State) (n : Nat) (f : EFlow → EFlow) : (s.modEflow n f).flt = s.flt := rfl
@[simp] theorem State.modEflow_cellWell (s : State) (n : Nat) (f : EFlow → EFlow) : (s.modEflow n f).cellWell = s.cellWell := rfl
@[simp] theorem State.modEflow_pageWell (s : State) (n : Nat) (f : EFlow → EFlow) : (s.modEflow n f).pageWell = s.pageWell := rfl
@[simp] theorem State.modEflow_rst (s : State) (n : Nat) (f : EFlow → EFlow) : (s.modEflow n f).rst = s.rst := rfl
@[simp] theorem State.modEflow_fuse (s : State) (n : Nat) (f : EFlow → EFlow) : (s.modEflow n f).fuse = s.fuse := rfl
@[simp] theorem State.modEflow_pwr (s : State) (n : Nat) (f : EFlow → EFlow) : (s.modEflow n f).pwr = s.pwr := rfl
@[simp] theorem State.modEflow_sensors (s : State) (n : Nat) (f : EFlow → EFlow) : (s.modEflow n f).sensors = s.sensors := rfl
@[simp] theorem State.modEflow_time (s : State) (n : Nat) (f : EFlow → EFlow) : (s.modEflow n f).time = s.time := rfl
@[simp] theorem State.modEflow_hbm (s : State) (n : Nat) (f : EFlow → EFlow) : (s.modEflow n f).hbm = s.hbm := rfl
@[simp] theorem State.modEflow_pumps (s : State) (n : Nat) (f : EFlow → EFlow) : (s.modEflow n f).pumps = s.pumps := rfl
@[simp] theorem State.modEflow_pulses (s : State) (n : Nat) (f : EFlow → EFlow) : (s.modEflow n f).pulses = s.pulses := rfl
@[simp] theorem State.modEflow_spouts (s : State) (n : Nat) (f : EFlow → EFlow) : (s.modEflow n f).spouts = s.spouts := rfl
@[simp] theorem State.modEflow_ck (s : State) (n : Nat) (f : EFlow → EFlow) : (s.modEflow n f).ck = s.ck := rfl
@[simp] theorem State.modEflow_codec (s : State) (n : Nat) (f : EFlow → EFlow) : (s.modEflow n f).codec = s.codec := rfl
@[simp] theorem State.modEflow_twin (s : State) (n : Nat) (f : EFlow → EFlow) : (s.modEflow n f).twin = s.twin := rfl
@[simp] theorem State.modEflow_prk (s : State) (n : Nat) (f : EFlow → EFlow) : (s.modEflow n f).prk = s.prk := rfl
@[simp] theorem State.modEflow_prkLoad (s : State) (n : Nat) (f : EFlow → EFlow) : (s.modEflow n f).prkLoad = s.prkLoad := rfl
@[simp] theorem State.modEflow_fw (s : State) (n : Nat) (f : EFlow → EFlow) : (s.modEflow n f).fw = s.fw := rfl
@[simp] theorem State.modEflow_faultN (s : State) (n : Nat) (f : EFlow → EFlow) : (s.modEflow n f).faultN = s.faultN := rfl
@[simp] theorem State.modEflow_yieldN (s : State) (n : Nat) (f : EFlow → EFlow) : (s.modEflow n f).yieldN = s.yieldN := rfl
@[simp] theorem State.modEflow_freeCount (s : State) (n : Nat) (f : EFlow → EFlow) : (s.modEflow n f).freeCount = s.freeCount := rfl
@[simp] theorem State.modEflow_net_iflows (s : State) (n : Nat) (f : EFlow → EFlow) : (s.modEflow n f).net.iflows = s.net.iflows := rfl
@[simp] theorem State.modEflow_net_ports (s : State) (n : Nat) (f : EFlow → EFlow) : (s.modEflow n f).net.ports = s.net.ports := rfl
@[simp] theorem State.modEflow_net_gates (s : State) (n : Nat) (f : EFlow → EFlow) : (s.modEflow n f).net.gates = s.net.gates := rfl
@[simp] theorem State.modEflow_net_members (s : State) (n : Nat) (f : EFlow → EFlow) : (s.modEflow n f).net.members = s.net.members := rfl
@[simp] theorem State.modEflow_net_shares (s : State) (n : Nat) (f : EFlow → EFlow) : (s.modEflow n f).net.shares = s.net.shares := rfl
@[simp] theorem State.modEflow_net_efqWait (s : State) (n : Nat) (f : EFlow → EFlow) : (s.modEflow n f).net.efqWait = s.net.efqWait := rfl
@[simp] theorem State.modEflow_net_passWait (s : State) (n : Nat) (f : EFlow → EFlow) : (s.modEflow n f).net.passWait = s.net.passWait := rfl
@[simp] theorem State.modEflow_net_fwRx (s : State) (n : Nat) (f : EFlow → EFlow) : (s.modEflow n f).net.fwRx = s.net.fwRx := rfl
@[simp] theorem State.modEflow_net_txTs (s : State) (n : Nat) (f : EFlow → EFlow) : (s.modEflow n f).net.txTs = s.net.txTs := rfl
@[simp] theorem State.modEflow_net_sent (s : State) (n : Nat) (f : EFlow → EFlow) : (s.modEflow n f).net.sent = s.net.sent := rfl
@[simp] theorem State.modEflow_net_reports (s : State) (n : Nat) (f : EFlow → EFlow) : (s.modEflow n f).net.reports = s.net.reports := rfl
@[simp] theorem State.modEflow_reg (s : State) (n : Nat) (f : EFlow → EFlow) (x : Nat) : (s.modEflow n f).reg x = s.reg x := rfl
@[simp] theorem State.modEflow_regN (s : State) (n : Nat) (f : EFlow → EFlow) (x : Nat) : (s.modEflow n f).regN x = s.regN x := rfl
@[simp] theorem State.modEflow_queue (s : State) (n : Nat) (f : EFlow → EFlow) (x : Nat) : (s.modEflow n f).queue x = s.queue x := rfl
@[simp] theorem State.modEflow_src (s : State) (n : Nat) (f : EFlow → EFlow) (x : Nat) : (s.modEflow n f).src x = s.src x := rfl
@[simp] theorem State.modEflow_channel (s : State) (n : Nat) (f : EFlow → EFlow) (x : Nat) : (s.modEflow n f).channel x = s.channel x := rfl
@[simp] theorem State.modEflow_tamb (s : State) (n : Nat) (f : EFlow → EFlow) (x : Nat) : (s.modEflow n f).tamb x = s.tamb x := rfl
@[simp] theorem State.modEflow_iflow (s : State) (n : Nat) (f : EFlow → EFlow) (x : Nat) : (s.modEflow n f).iflow x = s.iflow x := rfl
@[simp] theorem State.modEflow_gate (s : State) (n : Nat) (f : EFlow → EFlow) (x : Nat) : (s.modEflow n f).gate x = s.gate x := rfl
@[simp] theorem State.modEflow_port (s : State) (n : Nat) (f : EFlow → EFlow) (x : Nat) : (s.modEflow n f).port x = s.port x := rfl
@[simp] theorem State.modEflow_pump (s : State) (n : Nat) (f : EFlow → EFlow) (x : Nat) : (s.modEflow n f).pump x = s.pump x := rfl
@[simp] theorem State.modEflow_spout (s : State) (n : Nat) (f : EFlow → EFlow) (x : Nat) : (s.modEflow n f).spout x = s.spout x := rfl
@[simp] theorem State.modEflow_now (s : State) (n : Nat) (f : EFlow → EFlow) : (s.modEflow n f).now = s.now := rfl
@[simp] theorem State.modEflow_hostRead (s : State) (n : Nat) (f : EFlow → EFlow) (x y : Nat) : (s.modEflow n f).hostRead x y = s.hostRead x y := rfl

/-! ## modGate changes net.gates -/

@[simp] theorem State.modGate_pending (s : State) (n : Nat) (f : Gate → Gate) : (s.modGate n f).pending = s.pending := rfl
@[simp] theorem State.modGate_regs (s : State) (n : Nat) (f : Gate → Gate) : (s.modGate n f).regs = s.regs := rfl
@[simp] theorem State.modGate_heldLow (s : State) (n : Nat) (f : Gate → Gate) : (s.modGate n f).heldLow = s.heldLow := rfl
@[simp] theorem State.modGate_latchedHi (s : State) (n : Nat) (f : Gate → Gate) : (s.modGate n f).latchedHi = s.latchedHi := rfl
@[simp] theorem State.modGate_lastRead (s : State) (n : Nat) (f : Gate → Gate) : (s.modGate n f).lastRead = s.lastRead := rfl
@[simp] theorem State.modGate_hostMem (s : State) (n : Nat) (f : Gate → Gate) : (s.modGate n f).hostMem = s.hostMem := rfl
@[simp] theorem State.modGate_hostBad (s : State) (n : Nat) (f : Gate → Gate) : (s.modGate n f).hostBad = s.hostBad := rfl
@[simp] theorem State.modGate_hbmMem (s : State) (n : Nat) (f : Gate → Gate) : (s.modGate n f).hbmMem = s.hbmMem := rfl
@[simp] theorem State.modGate_sram (s : State) (n : Nat) (f : Gate → Gate) : (s.modGate n f).sram = s.sram := rfl
@[simp] theorem State.modGate_shw (s : State) (n : Nat) (f : Gate → Gate) : (s.modGate n f).shw = s.shw := rfl
@[simp] theorem State.modGate_ctx (s : State) (n : Nat) (f : Gate → Gate) : (s.modGate n f).ctx = s.ctx := rfl
@[simp] theorem State.modGate_host (s : State) (n : Nat) (f : Gate → Gate) : (s.modGate n f).host = s.host := rfl
@[simp] theorem State.modGate_queues (s : State) (n : Nat) (f : Gate → Gate) : (s.modGate n f).queues = s.queues := rfl
@[simp] theorem State.modGate_irq (s : State) (n : Nat) (f : Gate → Gate) : (s.modGate n f).irq = s.irq := rfl
@[simp] theorem State.modGate_flt (s : State) (n : Nat) (f : Gate → Gate) : (s.modGate n f).flt = s.flt := rfl
@[simp] theorem State.modGate_cellWell (s : State) (n : Nat) (f : Gate → Gate) : (s.modGate n f).cellWell = s.cellWell := rfl
@[simp] theorem State.modGate_pageWell (s : State) (n : Nat) (f : Gate → Gate) : (s.modGate n f).pageWell = s.pageWell := rfl
@[simp] theorem State.modGate_rst (s : State) (n : Nat) (f : Gate → Gate) : (s.modGate n f).rst = s.rst := rfl
@[simp] theorem State.modGate_fuse (s : State) (n : Nat) (f : Gate → Gate) : (s.modGate n f).fuse = s.fuse := rfl
@[simp] theorem State.modGate_pwr (s : State) (n : Nat) (f : Gate → Gate) : (s.modGate n f).pwr = s.pwr := rfl
@[simp] theorem State.modGate_sensors (s : State) (n : Nat) (f : Gate → Gate) : (s.modGate n f).sensors = s.sensors := rfl
@[simp] theorem State.modGate_time (s : State) (n : Nat) (f : Gate → Gate) : (s.modGate n f).time = s.time := rfl
@[simp] theorem State.modGate_hbm (s : State) (n : Nat) (f : Gate → Gate) : (s.modGate n f).hbm = s.hbm := rfl
@[simp] theorem State.modGate_pumps (s : State) (n : Nat) (f : Gate → Gate) : (s.modGate n f).pumps = s.pumps := rfl
@[simp] theorem State.modGate_pulses (s : State) (n : Nat) (f : Gate → Gate) : (s.modGate n f).pulses = s.pulses := rfl
@[simp] theorem State.modGate_spouts (s : State) (n : Nat) (f : Gate → Gate) : (s.modGate n f).spouts = s.spouts := rfl
@[simp] theorem State.modGate_ck (s : State) (n : Nat) (f : Gate → Gate) : (s.modGate n f).ck = s.ck := rfl
@[simp] theorem State.modGate_codec (s : State) (n : Nat) (f : Gate → Gate) : (s.modGate n f).codec = s.codec := rfl
@[simp] theorem State.modGate_twin (s : State) (n : Nat) (f : Gate → Gate) : (s.modGate n f).twin = s.twin := rfl
@[simp] theorem State.modGate_prk (s : State) (n : Nat) (f : Gate → Gate) : (s.modGate n f).prk = s.prk := rfl
@[simp] theorem State.modGate_prkLoad (s : State) (n : Nat) (f : Gate → Gate) : (s.modGate n f).prkLoad = s.prkLoad := rfl
@[simp] theorem State.modGate_fw (s : State) (n : Nat) (f : Gate → Gate) : (s.modGate n f).fw = s.fw := rfl
@[simp] theorem State.modGate_faultN (s : State) (n : Nat) (f : Gate → Gate) : (s.modGate n f).faultN = s.faultN := rfl
@[simp] theorem State.modGate_yieldN (s : State) (n : Nat) (f : Gate → Gate) : (s.modGate n f).yieldN = s.yieldN := rfl
@[simp] theorem State.modGate_freeCount (s : State) (n : Nat) (f : Gate → Gate) : (s.modGate n f).freeCount = s.freeCount := rfl
@[simp] theorem State.modGate_net_iflows (s : State) (n : Nat) (f : Gate → Gate) : (s.modGate n f).net.iflows = s.net.iflows := rfl
@[simp] theorem State.modGate_net_eflows (s : State) (n : Nat) (f : Gate → Gate) : (s.modGate n f).net.eflows = s.net.eflows := rfl
@[simp] theorem State.modGate_net_ports (s : State) (n : Nat) (f : Gate → Gate) : (s.modGate n f).net.ports = s.net.ports := rfl
@[simp] theorem State.modGate_net_members (s : State) (n : Nat) (f : Gate → Gate) : (s.modGate n f).net.members = s.net.members := rfl
@[simp] theorem State.modGate_net_shares (s : State) (n : Nat) (f : Gate → Gate) : (s.modGate n f).net.shares = s.net.shares := rfl
@[simp] theorem State.modGate_net_efqWait (s : State) (n : Nat) (f : Gate → Gate) : (s.modGate n f).net.efqWait = s.net.efqWait := rfl
@[simp] theorem State.modGate_net_passWait (s : State) (n : Nat) (f : Gate → Gate) : (s.modGate n f).net.passWait = s.net.passWait := rfl
@[simp] theorem State.modGate_net_fwRx (s : State) (n : Nat) (f : Gate → Gate) : (s.modGate n f).net.fwRx = s.net.fwRx := rfl
@[simp] theorem State.modGate_net_txTs (s : State) (n : Nat) (f : Gate → Gate) : (s.modGate n f).net.txTs = s.net.txTs := rfl
@[simp] theorem State.modGate_net_sent (s : State) (n : Nat) (f : Gate → Gate) : (s.modGate n f).net.sent = s.net.sent := rfl
@[simp] theorem State.modGate_net_reports (s : State) (n : Nat) (f : Gate → Gate) : (s.modGate n f).net.reports = s.net.reports := rfl
@[simp] theorem State.modGate_reg (s : State) (n : Nat) (f : Gate → Gate) (x : Nat) : (s.modGate n f).reg x = s.reg x := rfl
@[simp] theorem State.modGate_regN (s : State) (n : Nat) (f : Gate → Gate) (x : Nat) : (s.modGate n f).regN x = s.regN x := rfl
@[simp] theorem State.modGate_queue (s : State) (n : Nat) (f : Gate → Gate) (x : Nat) : (s.modGate n f).queue x = s.queue x := rfl
@[simp] theorem State.modGate_src (s : State) (n : Nat) (f : Gate → Gate) (x : Nat) : (s.modGate n f).src x = s.src x := rfl
@[simp] theorem State.modGate_channel (s : State) (n : Nat) (f : Gate → Gate) (x : Nat) : (s.modGate n f).channel x = s.channel x := rfl
@[simp] theorem State.modGate_tamb (s : State) (n : Nat) (f : Gate → Gate) (x : Nat) : (s.modGate n f).tamb x = s.tamb x := rfl
@[simp] theorem State.modGate_iflow (s : State) (n : Nat) (f : Gate → Gate) (x : Nat) : (s.modGate n f).iflow x = s.iflow x := rfl
@[simp] theorem State.modGate_eflow (s : State) (n : Nat) (f : Gate → Gate) (x : Nat) : (s.modGate n f).eflow x = s.eflow x := rfl
@[simp] theorem State.modGate_port (s : State) (n : Nat) (f : Gate → Gate) (x : Nat) : (s.modGate n f).port x = s.port x := rfl
@[simp] theorem State.modGate_pump (s : State) (n : Nat) (f : Gate → Gate) (x : Nat) : (s.modGate n f).pump x = s.pump x := rfl
@[simp] theorem State.modGate_spout (s : State) (n : Nat) (f : Gate → Gate) (x : Nat) : (s.modGate n f).spout x = s.spout x := rfl
@[simp] theorem State.modGate_now (s : State) (n : Nat) (f : Gate → Gate) : (s.modGate n f).now = s.now := rfl
@[simp] theorem State.modGate_hostRead (s : State) (n : Nat) (f : Gate → Gate) (x y : Nat) : (s.modGate n f).hostRead x y = s.hostRead x y := rfl

/-! ## modPort changes net.ports -/

@[simp] theorem State.modPort_pending (s : State) (n : Nat) (f : PortSt → PortSt) : (s.modPort n f).pending = s.pending := rfl
@[simp] theorem State.modPort_regs (s : State) (n : Nat) (f : PortSt → PortSt) : (s.modPort n f).regs = s.regs := rfl
@[simp] theorem State.modPort_heldLow (s : State) (n : Nat) (f : PortSt → PortSt) : (s.modPort n f).heldLow = s.heldLow := rfl
@[simp] theorem State.modPort_latchedHi (s : State) (n : Nat) (f : PortSt → PortSt) : (s.modPort n f).latchedHi = s.latchedHi := rfl
@[simp] theorem State.modPort_lastRead (s : State) (n : Nat) (f : PortSt → PortSt) : (s.modPort n f).lastRead = s.lastRead := rfl
@[simp] theorem State.modPort_hostMem (s : State) (n : Nat) (f : PortSt → PortSt) : (s.modPort n f).hostMem = s.hostMem := rfl
@[simp] theorem State.modPort_hostBad (s : State) (n : Nat) (f : PortSt → PortSt) : (s.modPort n f).hostBad = s.hostBad := rfl
@[simp] theorem State.modPort_hbmMem (s : State) (n : Nat) (f : PortSt → PortSt) : (s.modPort n f).hbmMem = s.hbmMem := rfl
@[simp] theorem State.modPort_sram (s : State) (n : Nat) (f : PortSt → PortSt) : (s.modPort n f).sram = s.sram := rfl
@[simp] theorem State.modPort_shw (s : State) (n : Nat) (f : PortSt → PortSt) : (s.modPort n f).shw = s.shw := rfl
@[simp] theorem State.modPort_ctx (s : State) (n : Nat) (f : PortSt → PortSt) : (s.modPort n f).ctx = s.ctx := rfl
@[simp] theorem State.modPort_host (s : State) (n : Nat) (f : PortSt → PortSt) : (s.modPort n f).host = s.host := rfl
@[simp] theorem State.modPort_queues (s : State) (n : Nat) (f : PortSt → PortSt) : (s.modPort n f).queues = s.queues := rfl
@[simp] theorem State.modPort_irq (s : State) (n : Nat) (f : PortSt → PortSt) : (s.modPort n f).irq = s.irq := rfl
@[simp] theorem State.modPort_flt (s : State) (n : Nat) (f : PortSt → PortSt) : (s.modPort n f).flt = s.flt := rfl
@[simp] theorem State.modPort_cellWell (s : State) (n : Nat) (f : PortSt → PortSt) : (s.modPort n f).cellWell = s.cellWell := rfl
@[simp] theorem State.modPort_pageWell (s : State) (n : Nat) (f : PortSt → PortSt) : (s.modPort n f).pageWell = s.pageWell := rfl
@[simp] theorem State.modPort_rst (s : State) (n : Nat) (f : PortSt → PortSt) : (s.modPort n f).rst = s.rst := rfl
@[simp] theorem State.modPort_fuse (s : State) (n : Nat) (f : PortSt → PortSt) : (s.modPort n f).fuse = s.fuse := rfl
@[simp] theorem State.modPort_pwr (s : State) (n : Nat) (f : PortSt → PortSt) : (s.modPort n f).pwr = s.pwr := rfl
@[simp] theorem State.modPort_sensors (s : State) (n : Nat) (f : PortSt → PortSt) : (s.modPort n f).sensors = s.sensors := rfl
@[simp] theorem State.modPort_time (s : State) (n : Nat) (f : PortSt → PortSt) : (s.modPort n f).time = s.time := rfl
@[simp] theorem State.modPort_hbm (s : State) (n : Nat) (f : PortSt → PortSt) : (s.modPort n f).hbm = s.hbm := rfl
@[simp] theorem State.modPort_pumps (s : State) (n : Nat) (f : PortSt → PortSt) : (s.modPort n f).pumps = s.pumps := rfl
@[simp] theorem State.modPort_pulses (s : State) (n : Nat) (f : PortSt → PortSt) : (s.modPort n f).pulses = s.pulses := rfl
@[simp] theorem State.modPort_spouts (s : State) (n : Nat) (f : PortSt → PortSt) : (s.modPort n f).spouts = s.spouts := rfl
@[simp] theorem State.modPort_ck (s : State) (n : Nat) (f : PortSt → PortSt) : (s.modPort n f).ck = s.ck := rfl
@[simp] theorem State.modPort_codec (s : State) (n : Nat) (f : PortSt → PortSt) : (s.modPort n f).codec = s.codec := rfl
@[simp] theorem State.modPort_twin (s : State) (n : Nat) (f : PortSt → PortSt) : (s.modPort n f).twin = s.twin := rfl
@[simp] theorem State.modPort_prk (s : State) (n : Nat) (f : PortSt → PortSt) : (s.modPort n f).prk = s.prk := rfl
@[simp] theorem State.modPort_prkLoad (s : State) (n : Nat) (f : PortSt → PortSt) : (s.modPort n f).prkLoad = s.prkLoad := rfl
@[simp] theorem State.modPort_fw (s : State) (n : Nat) (f : PortSt → PortSt) : (s.modPort n f).fw = s.fw := rfl
@[simp] theorem State.modPort_faultN (s : State) (n : Nat) (f : PortSt → PortSt) : (s.modPort n f).faultN = s.faultN := rfl
@[simp] theorem State.modPort_yieldN (s : State) (n : Nat) (f : PortSt → PortSt) : (s.modPort n f).yieldN = s.yieldN := rfl
@[simp] theorem State.modPort_freeCount (s : State) (n : Nat) (f : PortSt → PortSt) : (s.modPort n f).freeCount = s.freeCount := rfl
@[simp] theorem State.modPort_net_iflows (s : State) (n : Nat) (f : PortSt → PortSt) : (s.modPort n f).net.iflows = s.net.iflows := rfl
@[simp] theorem State.modPort_net_eflows (s : State) (n : Nat) (f : PortSt → PortSt) : (s.modPort n f).net.eflows = s.net.eflows := rfl
@[simp] theorem State.modPort_net_gates (s : State) (n : Nat) (f : PortSt → PortSt) : (s.modPort n f).net.gates = s.net.gates := rfl
@[simp] theorem State.modPort_net_members (s : State) (n : Nat) (f : PortSt → PortSt) : (s.modPort n f).net.members = s.net.members := rfl
@[simp] theorem State.modPort_net_shares (s : State) (n : Nat) (f : PortSt → PortSt) : (s.modPort n f).net.shares = s.net.shares := rfl
@[simp] theorem State.modPort_net_efqWait (s : State) (n : Nat) (f : PortSt → PortSt) : (s.modPort n f).net.efqWait = s.net.efqWait := rfl
@[simp] theorem State.modPort_net_passWait (s : State) (n : Nat) (f : PortSt → PortSt) : (s.modPort n f).net.passWait = s.net.passWait := rfl
@[simp] theorem State.modPort_net_fwRx (s : State) (n : Nat) (f : PortSt → PortSt) : (s.modPort n f).net.fwRx = s.net.fwRx := rfl
@[simp] theorem State.modPort_net_txTs (s : State) (n : Nat) (f : PortSt → PortSt) : (s.modPort n f).net.txTs = s.net.txTs := rfl
@[simp] theorem State.modPort_net_sent (s : State) (n : Nat) (f : PortSt → PortSt) : (s.modPort n f).net.sent = s.net.sent := rfl
@[simp] theorem State.modPort_net_reports (s : State) (n : Nat) (f : PortSt → PortSt) : (s.modPort n f).net.reports = s.net.reports := rfl
@[simp] theorem State.modPort_reg (s : State) (n : Nat) (f : PortSt → PortSt) (x : Nat) : (s.modPort n f).reg x = s.reg x := rfl
@[simp] theorem State.modPort_regN (s : State) (n : Nat) (f : PortSt → PortSt) (x : Nat) : (s.modPort n f).regN x = s.regN x := rfl
@[simp] theorem State.modPort_queue (s : State) (n : Nat) (f : PortSt → PortSt) (x : Nat) : (s.modPort n f).queue x = s.queue x := rfl
@[simp] theorem State.modPort_src (s : State) (n : Nat) (f : PortSt → PortSt) (x : Nat) : (s.modPort n f).src x = s.src x := rfl
@[simp] theorem State.modPort_channel (s : State) (n : Nat) (f : PortSt → PortSt) (x : Nat) : (s.modPort n f).channel x = s.channel x := rfl
@[simp] theorem State.modPort_tamb (s : State) (n : Nat) (f : PortSt → PortSt) (x : Nat) : (s.modPort n f).tamb x = s.tamb x := rfl
@[simp] theorem State.modPort_iflow (s : State) (n : Nat) (f : PortSt → PortSt) (x : Nat) : (s.modPort n f).iflow x = s.iflow x := rfl
@[simp] theorem State.modPort_eflow (s : State) (n : Nat) (f : PortSt → PortSt) (x : Nat) : (s.modPort n f).eflow x = s.eflow x := rfl
@[simp] theorem State.modPort_gate (s : State) (n : Nat) (f : PortSt → PortSt) (x : Nat) : (s.modPort n f).gate x = s.gate x := rfl
@[simp] theorem State.modPort_pump (s : State) (n : Nat) (f : PortSt → PortSt) (x : Nat) : (s.modPort n f).pump x = s.pump x := rfl
@[simp] theorem State.modPort_spout (s : State) (n : Nat) (f : PortSt → PortSt) (x : Nat) : (s.modPort n f).spout x = s.spout x := rfl
@[simp] theorem State.modPort_now (s : State) (n : Nat) (f : PortSt → PortSt) : (s.modPort n f).now = s.now := rfl
@[simp] theorem State.modPort_hostRead (s : State) (n : Nat) (f : PortSt → PortSt) (x y : Nat) : (s.modPort n f).hostRead x y = s.hostRead x y := rfl

/-! ## modPump changes pumps -/

@[simp] theorem State.modPump_pending (s : State) (n : Nat) (f : Pump → Pump) : (s.modPump n f).pending = s.pending := rfl
@[simp] theorem State.modPump_regs (s : State) (n : Nat) (f : Pump → Pump) : (s.modPump n f).regs = s.regs := rfl
@[simp] theorem State.modPump_heldLow (s : State) (n : Nat) (f : Pump → Pump) : (s.modPump n f).heldLow = s.heldLow := rfl
@[simp] theorem State.modPump_latchedHi (s : State) (n : Nat) (f : Pump → Pump) : (s.modPump n f).latchedHi = s.latchedHi := rfl
@[simp] theorem State.modPump_lastRead (s : State) (n : Nat) (f : Pump → Pump) : (s.modPump n f).lastRead = s.lastRead := rfl
@[simp] theorem State.modPump_hostMem (s : State) (n : Nat) (f : Pump → Pump) : (s.modPump n f).hostMem = s.hostMem := rfl
@[simp] theorem State.modPump_hostBad (s : State) (n : Nat) (f : Pump → Pump) : (s.modPump n f).hostBad = s.hostBad := rfl
@[simp] theorem State.modPump_hbmMem (s : State) (n : Nat) (f : Pump → Pump) : (s.modPump n f).hbmMem = s.hbmMem := rfl
@[simp] theorem State.modPump_sram (s : State) (n : Nat) (f : Pump → Pump) : (s.modPump n f).sram = s.sram := rfl
@[simp] theorem State.modPump_shw (s : State) (n : Nat) (f : Pump → Pump) : (s.modPump n f).shw = s.shw := rfl
@[simp] theorem State.modPump_ctx (s : State) (n : Nat) (f : Pump → Pump) : (s.modPump n f).ctx = s.ctx := rfl
@[simp] theorem State.modPump_host (s : State) (n : Nat) (f : Pump → Pump) : (s.modPump n f).host = s.host := rfl
@[simp] theorem State.modPump_queues (s : State) (n : Nat) (f : Pump → Pump) : (s.modPump n f).queues = s.queues := rfl
@[simp] theorem State.modPump_irq (s : State) (n : Nat) (f : Pump → Pump) : (s.modPump n f).irq = s.irq := rfl
@[simp] theorem State.modPump_flt (s : State) (n : Nat) (f : Pump → Pump) : (s.modPump n f).flt = s.flt := rfl
@[simp] theorem State.modPump_cellWell (s : State) (n : Nat) (f : Pump → Pump) : (s.modPump n f).cellWell = s.cellWell := rfl
@[simp] theorem State.modPump_pageWell (s : State) (n : Nat) (f : Pump → Pump) : (s.modPump n f).pageWell = s.pageWell := rfl
@[simp] theorem State.modPump_rst (s : State) (n : Nat) (f : Pump → Pump) : (s.modPump n f).rst = s.rst := rfl
@[simp] theorem State.modPump_fuse (s : State) (n : Nat) (f : Pump → Pump) : (s.modPump n f).fuse = s.fuse := rfl
@[simp] theorem State.modPump_pwr (s : State) (n : Nat) (f : Pump → Pump) : (s.modPump n f).pwr = s.pwr := rfl
@[simp] theorem State.modPump_sensors (s : State) (n : Nat) (f : Pump → Pump) : (s.modPump n f).sensors = s.sensors := rfl
@[simp] theorem State.modPump_time (s : State) (n : Nat) (f : Pump → Pump) : (s.modPump n f).time = s.time := rfl
@[simp] theorem State.modPump_hbm (s : State) (n : Nat) (f : Pump → Pump) : (s.modPump n f).hbm = s.hbm := rfl
@[simp] theorem State.modPump_pulses (s : State) (n : Nat) (f : Pump → Pump) : (s.modPump n f).pulses = s.pulses := rfl
@[simp] theorem State.modPump_spouts (s : State) (n : Nat) (f : Pump → Pump) : (s.modPump n f).spouts = s.spouts := rfl
@[simp] theorem State.modPump_net (s : State) (n : Nat) (f : Pump → Pump) : (s.modPump n f).net = s.net := rfl
@[simp] theorem State.modPump_ck (s : State) (n : Nat) (f : Pump → Pump) : (s.modPump n f).ck = s.ck := rfl
@[simp] theorem State.modPump_codec (s : State) (n : Nat) (f : Pump → Pump) : (s.modPump n f).codec = s.codec := rfl
@[simp] theorem State.modPump_twin (s : State) (n : Nat) (f : Pump → Pump) : (s.modPump n f).twin = s.twin := rfl
@[simp] theorem State.modPump_prk (s : State) (n : Nat) (f : Pump → Pump) : (s.modPump n f).prk = s.prk := rfl
@[simp] theorem State.modPump_prkLoad (s : State) (n : Nat) (f : Pump → Pump) : (s.modPump n f).prkLoad = s.prkLoad := rfl
@[simp] theorem State.modPump_fw (s : State) (n : Nat) (f : Pump → Pump) : (s.modPump n f).fw = s.fw := rfl
@[simp] theorem State.modPump_faultN (s : State) (n : Nat) (f : Pump → Pump) : (s.modPump n f).faultN = s.faultN := rfl
@[simp] theorem State.modPump_yieldN (s : State) (n : Nat) (f : Pump → Pump) : (s.modPump n f).yieldN = s.yieldN := rfl
@[simp] theorem State.modPump_freeCount (s : State) (n : Nat) (f : Pump → Pump) : (s.modPump n f).freeCount = s.freeCount := rfl
@[simp] theorem State.modPump_reg (s : State) (n : Nat) (f : Pump → Pump) (x : Nat) : (s.modPump n f).reg x = s.reg x := rfl
@[simp] theorem State.modPump_regN (s : State) (n : Nat) (f : Pump → Pump) (x : Nat) : (s.modPump n f).regN x = s.regN x := rfl
@[simp] theorem State.modPump_queue (s : State) (n : Nat) (f : Pump → Pump) (x : Nat) : (s.modPump n f).queue x = s.queue x := rfl
@[simp] theorem State.modPump_src (s : State) (n : Nat) (f : Pump → Pump) (x : Nat) : (s.modPump n f).src x = s.src x := rfl
@[simp] theorem State.modPump_channel (s : State) (n : Nat) (f : Pump → Pump) (x : Nat) : (s.modPump n f).channel x = s.channel x := rfl
@[simp] theorem State.modPump_tamb (s : State) (n : Nat) (f : Pump → Pump) (x : Nat) : (s.modPump n f).tamb x = s.tamb x := rfl
@[simp] theorem State.modPump_iflow (s : State) (n : Nat) (f : Pump → Pump) (x : Nat) : (s.modPump n f).iflow x = s.iflow x := rfl
@[simp] theorem State.modPump_eflow (s : State) (n : Nat) (f : Pump → Pump) (x : Nat) : (s.modPump n f).eflow x = s.eflow x := rfl
@[simp] theorem State.modPump_gate (s : State) (n : Nat) (f : Pump → Pump) (x : Nat) : (s.modPump n f).gate x = s.gate x := rfl
@[simp] theorem State.modPump_port (s : State) (n : Nat) (f : Pump → Pump) (x : Nat) : (s.modPump n f).port x = s.port x := rfl
@[simp] theorem State.modPump_spout (s : State) (n : Nat) (f : Pump → Pump) (x : Nat) : (s.modPump n f).spout x = s.spout x := rfl
@[simp] theorem State.modPump_now (s : State) (n : Nat) (f : Pump → Pump) : (s.modPump n f).now = s.now := rfl
@[simp] theorem State.modPump_hostRead (s : State) (n : Nat) (f : Pump → Pump) (x y : Nat) : (s.modPump n f).hostRead x y = s.hostRead x y := rfl

/-! ## modSpout changes spouts -/

@[simp] theorem State.modSpout_pending (s : State) (n : Nat) (f : Spout → Spout) : (s.modSpout n f).pending = s.pending := rfl
@[simp] theorem State.modSpout_regs (s : State) (n : Nat) (f : Spout → Spout) : (s.modSpout n f).regs = s.regs := rfl
@[simp] theorem State.modSpout_heldLow (s : State) (n : Nat) (f : Spout → Spout) : (s.modSpout n f).heldLow = s.heldLow := rfl
@[simp] theorem State.modSpout_latchedHi (s : State) (n : Nat) (f : Spout → Spout) : (s.modSpout n f).latchedHi = s.latchedHi := rfl
@[simp] theorem State.modSpout_lastRead (s : State) (n : Nat) (f : Spout → Spout) : (s.modSpout n f).lastRead = s.lastRead := rfl
@[simp] theorem State.modSpout_hostMem (s : State) (n : Nat) (f : Spout → Spout) : (s.modSpout n f).hostMem = s.hostMem := rfl
@[simp] theorem State.modSpout_hostBad (s : State) (n : Nat) (f : Spout → Spout) : (s.modSpout n f).hostBad = s.hostBad := rfl
@[simp] theorem State.modSpout_hbmMem (s : State) (n : Nat) (f : Spout → Spout) : (s.modSpout n f).hbmMem = s.hbmMem := rfl
@[simp] theorem State.modSpout_sram (s : State) (n : Nat) (f : Spout → Spout) : (s.modSpout n f).sram = s.sram := rfl
@[simp] theorem State.modSpout_shw (s : State) (n : Nat) (f : Spout → Spout) : (s.modSpout n f).shw = s.shw := rfl
@[simp] theorem State.modSpout_ctx (s : State) (n : Nat) (f : Spout → Spout) : (s.modSpout n f).ctx = s.ctx := rfl
@[simp] theorem State.modSpout_host (s : State) (n : Nat) (f : Spout → Spout) : (s.modSpout n f).host = s.host := rfl
@[simp] theorem State.modSpout_queues (s : State) (n : Nat) (f : Spout → Spout) : (s.modSpout n f).queues = s.queues := rfl
@[simp] theorem State.modSpout_irq (s : State) (n : Nat) (f : Spout → Spout) : (s.modSpout n f).irq = s.irq := rfl
@[simp] theorem State.modSpout_flt (s : State) (n : Nat) (f : Spout → Spout) : (s.modSpout n f).flt = s.flt := rfl
@[simp] theorem State.modSpout_cellWell (s : State) (n : Nat) (f : Spout → Spout) : (s.modSpout n f).cellWell = s.cellWell := rfl
@[simp] theorem State.modSpout_pageWell (s : State) (n : Nat) (f : Spout → Spout) : (s.modSpout n f).pageWell = s.pageWell := rfl
@[simp] theorem State.modSpout_rst (s : State) (n : Nat) (f : Spout → Spout) : (s.modSpout n f).rst = s.rst := rfl
@[simp] theorem State.modSpout_fuse (s : State) (n : Nat) (f : Spout → Spout) : (s.modSpout n f).fuse = s.fuse := rfl
@[simp] theorem State.modSpout_pwr (s : State) (n : Nat) (f : Spout → Spout) : (s.modSpout n f).pwr = s.pwr := rfl
@[simp] theorem State.modSpout_sensors (s : State) (n : Nat) (f : Spout → Spout) : (s.modSpout n f).sensors = s.sensors := rfl
@[simp] theorem State.modSpout_time (s : State) (n : Nat) (f : Spout → Spout) : (s.modSpout n f).time = s.time := rfl
@[simp] theorem State.modSpout_hbm (s : State) (n : Nat) (f : Spout → Spout) : (s.modSpout n f).hbm = s.hbm := rfl
@[simp] theorem State.modSpout_pumps (s : State) (n : Nat) (f : Spout → Spout) : (s.modSpout n f).pumps = s.pumps := rfl
@[simp] theorem State.modSpout_pulses (s : State) (n : Nat) (f : Spout → Spout) : (s.modSpout n f).pulses = s.pulses := rfl
@[simp] theorem State.modSpout_net (s : State) (n : Nat) (f : Spout → Spout) : (s.modSpout n f).net = s.net := rfl
@[simp] theorem State.modSpout_ck (s : State) (n : Nat) (f : Spout → Spout) : (s.modSpout n f).ck = s.ck := rfl
@[simp] theorem State.modSpout_codec (s : State) (n : Nat) (f : Spout → Spout) : (s.modSpout n f).codec = s.codec := rfl
@[simp] theorem State.modSpout_twin (s : State) (n : Nat) (f : Spout → Spout) : (s.modSpout n f).twin = s.twin := rfl
@[simp] theorem State.modSpout_prk (s : State) (n : Nat) (f : Spout → Spout) : (s.modSpout n f).prk = s.prk := rfl
@[simp] theorem State.modSpout_prkLoad (s : State) (n : Nat) (f : Spout → Spout) : (s.modSpout n f).prkLoad = s.prkLoad := rfl
@[simp] theorem State.modSpout_fw (s : State) (n : Nat) (f : Spout → Spout) : (s.modSpout n f).fw = s.fw := rfl
@[simp] theorem State.modSpout_faultN (s : State) (n : Nat) (f : Spout → Spout) : (s.modSpout n f).faultN = s.faultN := rfl
@[simp] theorem State.modSpout_yieldN (s : State) (n : Nat) (f : Spout → Spout) : (s.modSpout n f).yieldN = s.yieldN := rfl
@[simp] theorem State.modSpout_freeCount (s : State) (n : Nat) (f : Spout → Spout) : (s.modSpout n f).freeCount = s.freeCount := rfl
@[simp] theorem State.modSpout_reg (s : State) (n : Nat) (f : Spout → Spout) (x : Nat) : (s.modSpout n f).reg x = s.reg x := rfl
@[simp] theorem State.modSpout_regN (s : State) (n : Nat) (f : Spout → Spout) (x : Nat) : (s.modSpout n f).regN x = s.regN x := rfl
@[simp] theorem State.modSpout_queue (s : State) (n : Nat) (f : Spout → Spout) (x : Nat) : (s.modSpout n f).queue x = s.queue x := rfl
@[simp] theorem State.modSpout_src (s : State) (n : Nat) (f : Spout → Spout) (x : Nat) : (s.modSpout n f).src x = s.src x := rfl
@[simp] theorem State.modSpout_channel (s : State) (n : Nat) (f : Spout → Spout) (x : Nat) : (s.modSpout n f).channel x = s.channel x := rfl
@[simp] theorem State.modSpout_tamb (s : State) (n : Nat) (f : Spout → Spout) (x : Nat) : (s.modSpout n f).tamb x = s.tamb x := rfl
@[simp] theorem State.modSpout_iflow (s : State) (n : Nat) (f : Spout → Spout) (x : Nat) : (s.modSpout n f).iflow x = s.iflow x := rfl
@[simp] theorem State.modSpout_eflow (s : State) (n : Nat) (f : Spout → Spout) (x : Nat) : (s.modSpout n f).eflow x = s.eflow x := rfl
@[simp] theorem State.modSpout_gate (s : State) (n : Nat) (f : Spout → Spout) (x : Nat) : (s.modSpout n f).gate x = s.gate x := rfl
@[simp] theorem State.modSpout_port (s : State) (n : Nat) (f : Spout → Spout) (x : Nat) : (s.modSpout n f).port x = s.port x := rfl
@[simp] theorem State.modSpout_pump (s : State) (n : Nat) (f : Spout → Spout) (x : Nat) : (s.modSpout n f).pump x = s.pump x := rfl
@[simp] theorem State.modSpout_now (s : State) (n : Nat) (f : Spout → Spout) : (s.modSpout n f).now = s.now := rfl
@[simp] theorem State.modSpout_hostRead (s : State) (n : Nat) (f : Spout → Spout) (x y : Nat) : (s.modSpout n f).hostRead x y = s.hostRead x y := rfl

/-! ## modLink changes twin.link -/

@[simp] theorem State.modLink_pending (s : State) (f : TwilanSt → TwilanSt) : (s.modLink f).pending = s.pending := rfl
@[simp] theorem State.modLink_regs (s : State) (f : TwilanSt → TwilanSt) : (s.modLink f).regs = s.regs := rfl
@[simp] theorem State.modLink_heldLow (s : State) (f : TwilanSt → TwilanSt) : (s.modLink f).heldLow = s.heldLow := rfl
@[simp] theorem State.modLink_latchedHi (s : State) (f : TwilanSt → TwilanSt) : (s.modLink f).latchedHi = s.latchedHi := rfl
@[simp] theorem State.modLink_lastRead (s : State) (f : TwilanSt → TwilanSt) : (s.modLink f).lastRead = s.lastRead := rfl
@[simp] theorem State.modLink_hostMem (s : State) (f : TwilanSt → TwilanSt) : (s.modLink f).hostMem = s.hostMem := rfl
@[simp] theorem State.modLink_hostBad (s : State) (f : TwilanSt → TwilanSt) : (s.modLink f).hostBad = s.hostBad := rfl
@[simp] theorem State.modLink_hbmMem (s : State) (f : TwilanSt → TwilanSt) : (s.modLink f).hbmMem = s.hbmMem := rfl
@[simp] theorem State.modLink_sram (s : State) (f : TwilanSt → TwilanSt) : (s.modLink f).sram = s.sram := rfl
@[simp] theorem State.modLink_shw (s : State) (f : TwilanSt → TwilanSt) : (s.modLink f).shw = s.shw := rfl
@[simp] theorem State.modLink_ctx (s : State) (f : TwilanSt → TwilanSt) : (s.modLink f).ctx = s.ctx := rfl
@[simp] theorem State.modLink_host (s : State) (f : TwilanSt → TwilanSt) : (s.modLink f).host = s.host := rfl
@[simp] theorem State.modLink_queues (s : State) (f : TwilanSt → TwilanSt) : (s.modLink f).queues = s.queues := rfl
@[simp] theorem State.modLink_irq (s : State) (f : TwilanSt → TwilanSt) : (s.modLink f).irq = s.irq := rfl
@[simp] theorem State.modLink_flt (s : State) (f : TwilanSt → TwilanSt) : (s.modLink f).flt = s.flt := rfl
@[simp] theorem State.modLink_cellWell (s : State) (f : TwilanSt → TwilanSt) : (s.modLink f).cellWell = s.cellWell := rfl
@[simp] theorem State.modLink_pageWell (s : State) (f : TwilanSt → TwilanSt) : (s.modLink f).pageWell = s.pageWell := rfl
@[simp] theorem State.modLink_rst (s : State) (f : TwilanSt → TwilanSt) : (s.modLink f).rst = s.rst := rfl
@[simp] theorem State.modLink_fuse (s : State) (f : TwilanSt → TwilanSt) : (s.modLink f).fuse = s.fuse := rfl
@[simp] theorem State.modLink_pwr (s : State) (f : TwilanSt → TwilanSt) : (s.modLink f).pwr = s.pwr := rfl
@[simp] theorem State.modLink_sensors (s : State) (f : TwilanSt → TwilanSt) : (s.modLink f).sensors = s.sensors := rfl
@[simp] theorem State.modLink_time (s : State) (f : TwilanSt → TwilanSt) : (s.modLink f).time = s.time := rfl
@[simp] theorem State.modLink_hbm (s : State) (f : TwilanSt → TwilanSt) : (s.modLink f).hbm = s.hbm := rfl
@[simp] theorem State.modLink_pumps (s : State) (f : TwilanSt → TwilanSt) : (s.modLink f).pumps = s.pumps := rfl
@[simp] theorem State.modLink_pulses (s : State) (f : TwilanSt → TwilanSt) : (s.modLink f).pulses = s.pulses := rfl
@[simp] theorem State.modLink_spouts (s : State) (f : TwilanSt → TwilanSt) : (s.modLink f).spouts = s.spouts := rfl
@[simp] theorem State.modLink_net (s : State) (f : TwilanSt → TwilanSt) : (s.modLink f).net = s.net := rfl
@[simp] theorem State.modLink_ck (s : State) (f : TwilanSt → TwilanSt) : (s.modLink f).ck = s.ck := rfl
@[simp] theorem State.modLink_codec (s : State) (f : TwilanSt → TwilanSt) : (s.modLink f).codec = s.codec := rfl
@[simp] theorem State.modLink_prk (s : State) (f : TwilanSt → TwilanSt) : (s.modLink f).prk = s.prk := rfl
@[simp] theorem State.modLink_prkLoad (s : State) (f : TwilanSt → TwilanSt) : (s.modLink f).prkLoad = s.prkLoad := rfl
@[simp] theorem State.modLink_fw (s : State) (f : TwilanSt → TwilanSt) : (s.modLink f).fw = s.fw := rfl
@[simp] theorem State.modLink_faultN (s : State) (f : TwilanSt → TwilanSt) : (s.modLink f).faultN = s.faultN := rfl
@[simp] theorem State.modLink_yieldN (s : State) (f : TwilanSt → TwilanSt) : (s.modLink f).yieldN = s.yieldN := rfl
@[simp] theorem State.modLink_freeCount (s : State) (f : TwilanSt → TwilanSt) : (s.modLink f).freeCount = s.freeCount := rfl
@[simp] theorem State.modLink_twin_phase (s : State) (f : TwilanSt → TwilanSt) : (s.modLink f).twin.phase = s.twin.phase := rfl
@[simp] theorem State.modLink_twin_follower (s : State) (f : TwilanSt → TwilanSt) : (s.modLink f).twin.follower = s.twin.follower := rfl
@[simp] theorem State.modLink_twin_rejoin (s : State) (f : TwilanSt → TwilanSt) : (s.modLink f).twin.rejoin = s.twin.rejoin := rfl
@[simp] theorem State.modLink_twin_session (s : State) (f : TwilanSt → TwilanSt) : (s.modLink f).twin.session = s.twin.session := rfl
@[simp] theorem State.modLink_twin_peerHello (s : State) (f : TwilanSt → TwilanSt) : (s.modLink f).twin.peerHello = s.twin.peerHello := rfl
@[simp] theorem State.modLink_twin_startedAt (s : State) (f : TwilanSt → TwilanSt) : (s.modLink f).twin.startedAt = s.twin.startedAt := rfl
@[simp] theorem State.modLink_twin_peerReady (s : State) (f : TwilanSt → TwilanSt) : (s.modLink f).twin.peerReady = s.twin.peerReady := rfl
@[simp] theorem State.modLink_twin_peerTwinned (s : State) (f : TwilanSt → TwilanSt) : (s.modLink f).twin.peerTwinned = s.twin.peerTwinned := rfl
@[simp] theorem State.modLink_twin_yieldIn (s : State) (f : TwilanSt → TwilanSt) : (s.modLink f).twin.yieldIn = s.twin.yieldIn := rfl
@[simp] theorem State.modLink_twin_yielding (s : State) (f : TwilanSt → TwilanSt) : (s.modLink f).twin.yielding = s.twin.yielding := rfl
@[simp] theorem State.modLink_twin_timeLocked (s : State) (f : TwilanSt → TwilanSt) : (s.modLink f).twin.timeLocked = s.twin.timeLocked := rfl
@[simp] theorem State.modLink_twin_refuse (s : State) (f : TwilanSt → TwilanSt) : (s.modLink f).twin.refuse = s.twin.refuse := rfl
@[simp] theorem State.modLink_twin_timeOfs (s : State) (f : TwilanSt → TwilanSt) : (s.modLink f).twin.timeOfs = s.twin.timeOfs := rfl
@[simp] theorem State.modLink_twin_lockRun (s : State) (f : TwilanSt → TwilanSt) : (s.modLink f).twin.lockRun = s.twin.lockRun := rfl
@[simp] theorem State.modLink_twin_skewRun (s : State) (f : TwilanSt → TwilanSt) : (s.modLink f).twin.skewRun = s.twin.skewRun := rfl
@[simp] theorem State.modLink_twin_hbSeen (s : State) (f : TwilanSt → TwilanSt) : (s.modLink f).twin.hbSeen = s.twin.hbSeen := rfl
@[simp] theorem State.modLink_twin_hbJudged (s : State) (f : TwilanSt → TwilanSt) : (s.modLink f).twin.hbJudged = s.twin.hbJudged := rfl
@[simp] theorem State.modLink_twin_hbMissed (s : State) (f : TwilanSt → TwilanSt) : (s.modLink f).twin.hbMissed = s.twin.hbMissed := rfl
@[simp] theorem State.modLink_twin_ownArm (s : State) (f : TwilanSt → TwilanSt) : (s.modLink f).twin.ownArm = s.twin.ownArm := rfl
@[simp] theorem State.modLink_twin_peerArm (s : State) (f : TwilanSt → TwilanSt) : (s.modLink f).twin.peerArm = s.twin.peerArm := rfl
@[simp] theorem State.modLink_twin_resyncDue (s : State) (f : TwilanSt → TwilanSt) : (s.modLink f).twin.resyncDue = s.twin.resyncDue := rfl
@[simp] theorem State.modLink_twin_joinDue (s : State) (f : TwilanSt → TwilanSt) : (s.modLink f).twin.joinDue = s.twin.joinDue := rfl
@[simp] theorem State.modLink_twin_mirror (s : State) (f : TwilanSt → TwilanSt) : (s.modLink f).twin.mirror = s.twin.mirror := rfl
@[simp] theorem State.modLink_twin_reconWait (s : State) (f : TwilanSt → TwilanSt) : (s.modLink f).twin.reconWait = s.twin.reconWait := rfl
@[simp] theorem State.modLink_twin_divLast (s : State) (f : TwilanSt → TwilanSt) : (s.modLink f).twin.divLast = s.twin.divLast := rfl
@[simp] theorem State.modLink_twin_lostAt (s : State) (f : TwilanSt → TwilanSt) : (s.modLink f).twin.lostAt = s.twin.lostAt := rfl
@[simp] theorem State.modLink_reg (s : State) (f : TwilanSt → TwilanSt) (x : Nat) : (s.modLink f).reg x = s.reg x := rfl
@[simp] theorem State.modLink_regN (s : State) (f : TwilanSt → TwilanSt) (x : Nat) : (s.modLink f).regN x = s.regN x := rfl
@[simp] theorem State.modLink_queue (s : State) (f : TwilanSt → TwilanSt) (x : Nat) : (s.modLink f).queue x = s.queue x := rfl
@[simp] theorem State.modLink_src (s : State) (f : TwilanSt → TwilanSt) (x : Nat) : (s.modLink f).src x = s.src x := rfl
@[simp] theorem State.modLink_channel (s : State) (f : TwilanSt → TwilanSt) (x : Nat) : (s.modLink f).channel x = s.channel x := rfl
@[simp] theorem State.modLink_tamb (s : State) (f : TwilanSt → TwilanSt) (x : Nat) : (s.modLink f).tamb x = s.tamb x := rfl
@[simp] theorem State.modLink_iflow (s : State) (f : TwilanSt → TwilanSt) (x : Nat) : (s.modLink f).iflow x = s.iflow x := rfl
@[simp] theorem State.modLink_eflow (s : State) (f : TwilanSt → TwilanSt) (x : Nat) : (s.modLink f).eflow x = s.eflow x := rfl
@[simp] theorem State.modLink_gate (s : State) (f : TwilanSt → TwilanSt) (x : Nat) : (s.modLink f).gate x = s.gate x := rfl
@[simp] theorem State.modLink_port (s : State) (f : TwilanSt → TwilanSt) (x : Nat) : (s.modLink f).port x = s.port x := rfl
@[simp] theorem State.modLink_pump (s : State) (f : TwilanSt → TwilanSt) (x : Nat) : (s.modLink f).pump x = s.pump x := rfl
@[simp] theorem State.modLink_spout (s : State) (f : TwilanSt → TwilanSt) (x : Nat) : (s.modLink f).spout x = s.spout x := rfl
@[simp] theorem State.modLink_now (s : State) (f : TwilanSt → TwilanSt) : (s.modLink f).now = s.now := rfl
@[simp] theorem State.modLink_hostRead (s : State) (f : TwilanSt → TwilanSt) (x y : Nat) : (s.modLink f).hostRead x y = s.hostRead x y := rfl

/-! ## setOwnArm changes twin.ownArm -/

@[simp] theorem State.setOwnArm_pending (s : State) (c : Nat) (v : Option (Nat × Nat)) : (s.setOwnArm c v).pending = s.pending := rfl
@[simp] theorem State.setOwnArm_regs (s : State) (c : Nat) (v : Option (Nat × Nat)) : (s.setOwnArm c v).regs = s.regs := rfl
@[simp] theorem State.setOwnArm_heldLow (s : State) (c : Nat) (v : Option (Nat × Nat)) : (s.setOwnArm c v).heldLow = s.heldLow := rfl
@[simp] theorem State.setOwnArm_latchedHi (s : State) (c : Nat) (v : Option (Nat × Nat)) : (s.setOwnArm c v).latchedHi = s.latchedHi := rfl
@[simp] theorem State.setOwnArm_lastRead (s : State) (c : Nat) (v : Option (Nat × Nat)) : (s.setOwnArm c v).lastRead = s.lastRead := rfl
@[simp] theorem State.setOwnArm_hostMem (s : State) (c : Nat) (v : Option (Nat × Nat)) : (s.setOwnArm c v).hostMem = s.hostMem := rfl
@[simp] theorem State.setOwnArm_hostBad (s : State) (c : Nat) (v : Option (Nat × Nat)) : (s.setOwnArm c v).hostBad = s.hostBad := rfl
@[simp] theorem State.setOwnArm_hbmMem (s : State) (c : Nat) (v : Option (Nat × Nat)) : (s.setOwnArm c v).hbmMem = s.hbmMem := rfl
@[simp] theorem State.setOwnArm_sram (s : State) (c : Nat) (v : Option (Nat × Nat)) : (s.setOwnArm c v).sram = s.sram := rfl
@[simp] theorem State.setOwnArm_shw (s : State) (c : Nat) (v : Option (Nat × Nat)) : (s.setOwnArm c v).shw = s.shw := rfl
@[simp] theorem State.setOwnArm_ctx (s : State) (c : Nat) (v : Option (Nat × Nat)) : (s.setOwnArm c v).ctx = s.ctx := rfl
@[simp] theorem State.setOwnArm_host (s : State) (c : Nat) (v : Option (Nat × Nat)) : (s.setOwnArm c v).host = s.host := rfl
@[simp] theorem State.setOwnArm_queues (s : State) (c : Nat) (v : Option (Nat × Nat)) : (s.setOwnArm c v).queues = s.queues := rfl
@[simp] theorem State.setOwnArm_irq (s : State) (c : Nat) (v : Option (Nat × Nat)) : (s.setOwnArm c v).irq = s.irq := rfl
@[simp] theorem State.setOwnArm_flt (s : State) (c : Nat) (v : Option (Nat × Nat)) : (s.setOwnArm c v).flt = s.flt := rfl
@[simp] theorem State.setOwnArm_cellWell (s : State) (c : Nat) (v : Option (Nat × Nat)) : (s.setOwnArm c v).cellWell = s.cellWell := rfl
@[simp] theorem State.setOwnArm_pageWell (s : State) (c : Nat) (v : Option (Nat × Nat)) : (s.setOwnArm c v).pageWell = s.pageWell := rfl
@[simp] theorem State.setOwnArm_rst (s : State) (c : Nat) (v : Option (Nat × Nat)) : (s.setOwnArm c v).rst = s.rst := rfl
@[simp] theorem State.setOwnArm_fuse (s : State) (c : Nat) (v : Option (Nat × Nat)) : (s.setOwnArm c v).fuse = s.fuse := rfl
@[simp] theorem State.setOwnArm_pwr (s : State) (c : Nat) (v : Option (Nat × Nat)) : (s.setOwnArm c v).pwr = s.pwr := rfl
@[simp] theorem State.setOwnArm_sensors (s : State) (c : Nat) (v : Option (Nat × Nat)) : (s.setOwnArm c v).sensors = s.sensors := rfl
@[simp] theorem State.setOwnArm_time (s : State) (c : Nat) (v : Option (Nat × Nat)) : (s.setOwnArm c v).time = s.time := rfl
@[simp] theorem State.setOwnArm_hbm (s : State) (c : Nat) (v : Option (Nat × Nat)) : (s.setOwnArm c v).hbm = s.hbm := rfl
@[simp] theorem State.setOwnArm_pumps (s : State) (c : Nat) (v : Option (Nat × Nat)) : (s.setOwnArm c v).pumps = s.pumps := rfl
@[simp] theorem State.setOwnArm_pulses (s : State) (c : Nat) (v : Option (Nat × Nat)) : (s.setOwnArm c v).pulses = s.pulses := rfl
@[simp] theorem State.setOwnArm_spouts (s : State) (c : Nat) (v : Option (Nat × Nat)) : (s.setOwnArm c v).spouts = s.spouts := rfl
@[simp] theorem State.setOwnArm_net (s : State) (c : Nat) (v : Option (Nat × Nat)) : (s.setOwnArm c v).net = s.net := rfl
@[simp] theorem State.setOwnArm_ck (s : State) (c : Nat) (v : Option (Nat × Nat)) : (s.setOwnArm c v).ck = s.ck := rfl
@[simp] theorem State.setOwnArm_codec (s : State) (c : Nat) (v : Option (Nat × Nat)) : (s.setOwnArm c v).codec = s.codec := rfl
@[simp] theorem State.setOwnArm_prk (s : State) (c : Nat) (v : Option (Nat × Nat)) : (s.setOwnArm c v).prk = s.prk := rfl
@[simp] theorem State.setOwnArm_prkLoad (s : State) (c : Nat) (v : Option (Nat × Nat)) : (s.setOwnArm c v).prkLoad = s.prkLoad := rfl
@[simp] theorem State.setOwnArm_fw (s : State) (c : Nat) (v : Option (Nat × Nat)) : (s.setOwnArm c v).fw = s.fw := rfl
@[simp] theorem State.setOwnArm_faultN (s : State) (c : Nat) (v : Option (Nat × Nat)) : (s.setOwnArm c v).faultN = s.faultN := rfl
@[simp] theorem State.setOwnArm_yieldN (s : State) (c : Nat) (v : Option (Nat × Nat)) : (s.setOwnArm c v).yieldN = s.yieldN := rfl
@[simp] theorem State.setOwnArm_freeCount (s : State) (c : Nat) (v : Option (Nat × Nat)) : (s.setOwnArm c v).freeCount = s.freeCount := rfl
@[simp] theorem State.setOwnArm_twin_phase (s : State) (c : Nat) (v : Option (Nat × Nat)) : (s.setOwnArm c v).twin.phase = s.twin.phase := rfl
@[simp] theorem State.setOwnArm_twin_follower (s : State) (c : Nat) (v : Option (Nat × Nat)) : (s.setOwnArm c v).twin.follower = s.twin.follower := rfl
@[simp] theorem State.setOwnArm_twin_rejoin (s : State) (c : Nat) (v : Option (Nat × Nat)) : (s.setOwnArm c v).twin.rejoin = s.twin.rejoin := rfl
@[simp] theorem State.setOwnArm_twin_link (s : State) (c : Nat) (v : Option (Nat × Nat)) : (s.setOwnArm c v).twin.link = s.twin.link := rfl
@[simp] theorem State.setOwnArm_twin_session (s : State) (c : Nat) (v : Option (Nat × Nat)) : (s.setOwnArm c v).twin.session = s.twin.session := rfl
@[simp] theorem State.setOwnArm_twin_peerHello (s : State) (c : Nat) (v : Option (Nat × Nat)) : (s.setOwnArm c v).twin.peerHello = s.twin.peerHello := rfl
@[simp] theorem State.setOwnArm_twin_startedAt (s : State) (c : Nat) (v : Option (Nat × Nat)) : (s.setOwnArm c v).twin.startedAt = s.twin.startedAt := rfl
@[simp] theorem State.setOwnArm_twin_peerReady (s : State) (c : Nat) (v : Option (Nat × Nat)) : (s.setOwnArm c v).twin.peerReady = s.twin.peerReady := rfl
@[simp] theorem State.setOwnArm_twin_peerTwinned (s : State) (c : Nat) (v : Option (Nat × Nat)) : (s.setOwnArm c v).twin.peerTwinned = s.twin.peerTwinned := rfl
@[simp] theorem State.setOwnArm_twin_yieldIn (s : State) (c : Nat) (v : Option (Nat × Nat)) : (s.setOwnArm c v).twin.yieldIn = s.twin.yieldIn := rfl
@[simp] theorem State.setOwnArm_twin_yielding (s : State) (c : Nat) (v : Option (Nat × Nat)) : (s.setOwnArm c v).twin.yielding = s.twin.yielding := rfl
@[simp] theorem State.setOwnArm_twin_timeLocked (s : State) (c : Nat) (v : Option (Nat × Nat)) : (s.setOwnArm c v).twin.timeLocked = s.twin.timeLocked := rfl
@[simp] theorem State.setOwnArm_twin_refuse (s : State) (c : Nat) (v : Option (Nat × Nat)) : (s.setOwnArm c v).twin.refuse = s.twin.refuse := rfl
@[simp] theorem State.setOwnArm_twin_timeOfs (s : State) (c : Nat) (v : Option (Nat × Nat)) : (s.setOwnArm c v).twin.timeOfs = s.twin.timeOfs := rfl
@[simp] theorem State.setOwnArm_twin_lockRun (s : State) (c : Nat) (v : Option (Nat × Nat)) : (s.setOwnArm c v).twin.lockRun = s.twin.lockRun := rfl
@[simp] theorem State.setOwnArm_twin_skewRun (s : State) (c : Nat) (v : Option (Nat × Nat)) : (s.setOwnArm c v).twin.skewRun = s.twin.skewRun := rfl
@[simp] theorem State.setOwnArm_twin_hbSeen (s : State) (c : Nat) (v : Option (Nat × Nat)) : (s.setOwnArm c v).twin.hbSeen = s.twin.hbSeen := rfl
@[simp] theorem State.setOwnArm_twin_hbJudged (s : State) (c : Nat) (v : Option (Nat × Nat)) : (s.setOwnArm c v).twin.hbJudged = s.twin.hbJudged := rfl
@[simp] theorem State.setOwnArm_twin_hbMissed (s : State) (c : Nat) (v : Option (Nat × Nat)) : (s.setOwnArm c v).twin.hbMissed = s.twin.hbMissed := rfl
@[simp] theorem State.setOwnArm_twin_peerArm (s : State) (c : Nat) (v : Option (Nat × Nat)) : (s.setOwnArm c v).twin.peerArm = s.twin.peerArm := rfl
@[simp] theorem State.setOwnArm_twin_resyncDue (s : State) (c : Nat) (v : Option (Nat × Nat)) : (s.setOwnArm c v).twin.resyncDue = s.twin.resyncDue := rfl
@[simp] theorem State.setOwnArm_twin_joinDue (s : State) (c : Nat) (v : Option (Nat × Nat)) : (s.setOwnArm c v).twin.joinDue = s.twin.joinDue := rfl
@[simp] theorem State.setOwnArm_twin_mirror (s : State) (c : Nat) (v : Option (Nat × Nat)) : (s.setOwnArm c v).twin.mirror = s.twin.mirror := rfl
@[simp] theorem State.setOwnArm_twin_reconWait (s : State) (c : Nat) (v : Option (Nat × Nat)) : (s.setOwnArm c v).twin.reconWait = s.twin.reconWait := rfl
@[simp] theorem State.setOwnArm_twin_divLast (s : State) (c : Nat) (v : Option (Nat × Nat)) : (s.setOwnArm c v).twin.divLast = s.twin.divLast := rfl
@[simp] theorem State.setOwnArm_twin_lostAt (s : State) (c : Nat) (v : Option (Nat × Nat)) : (s.setOwnArm c v).twin.lostAt = s.twin.lostAt := rfl
@[simp] theorem State.setOwnArm_reg (s : State) (c : Nat) (v : Option (Nat × Nat)) (x : Nat) : (s.setOwnArm c v).reg x = s.reg x := rfl
@[simp] theorem State.setOwnArm_regN (s : State) (c : Nat) (v : Option (Nat × Nat)) (x : Nat) : (s.setOwnArm c v).regN x = s.regN x := rfl
@[simp] theorem State.setOwnArm_queue (s : State) (c : Nat) (v : Option (Nat × Nat)) (x : Nat) : (s.setOwnArm c v).queue x = s.queue x := rfl
@[simp] theorem State.setOwnArm_src (s : State) (c : Nat) (v : Option (Nat × Nat)) (x : Nat) : (s.setOwnArm c v).src x = s.src x := rfl
@[simp] theorem State.setOwnArm_channel (s : State) (c : Nat) (v : Option (Nat × Nat)) (x : Nat) : (s.setOwnArm c v).channel x = s.channel x := rfl
@[simp] theorem State.setOwnArm_tamb (s : State) (c : Nat) (v : Option (Nat × Nat)) (x : Nat) : (s.setOwnArm c v).tamb x = s.tamb x := rfl
@[simp] theorem State.setOwnArm_iflow (s : State) (c : Nat) (v : Option (Nat × Nat)) (x : Nat) : (s.setOwnArm c v).iflow x = s.iflow x := rfl
@[simp] theorem State.setOwnArm_eflow (s : State) (c : Nat) (v : Option (Nat × Nat)) (x : Nat) : (s.setOwnArm c v).eflow x = s.eflow x := rfl
@[simp] theorem State.setOwnArm_gate (s : State) (c : Nat) (v : Option (Nat × Nat)) (x : Nat) : (s.setOwnArm c v).gate x = s.gate x := rfl
@[simp] theorem State.setOwnArm_port (s : State) (c : Nat) (v : Option (Nat × Nat)) (x : Nat) : (s.setOwnArm c v).port x = s.port x := rfl
@[simp] theorem State.setOwnArm_pump (s : State) (c : Nat) (v : Option (Nat × Nat)) (x : Nat) : (s.setOwnArm c v).pump x = s.pump x := rfl
@[simp] theorem State.setOwnArm_spout (s : State) (c : Nat) (v : Option (Nat × Nat)) (x : Nat) : (s.setOwnArm c v).spout x = s.spout x := rfl
@[simp] theorem State.setOwnArm_now (s : State) (c : Nat) (v : Option (Nat × Nat)) : (s.setOwnArm c v).now = s.now := rfl
@[simp] theorem State.setOwnArm_hostRead (s : State) (c : Nat) (v : Option (Nat × Nat)) (x y : Nat) : (s.setOwnArm c v).hostRead x y = s.hostRead x y := rfl

/-! ## setPeerArm changes twin.peerArm -/

@[simp] theorem State.setPeerArm_pending (s : State) (c : Nat) (v : Option (Nat × Nat)) : (s.setPeerArm c v).pending = s.pending := rfl
@[simp] theorem State.setPeerArm_regs (s : State) (c : Nat) (v : Option (Nat × Nat)) : (s.setPeerArm c v).regs = s.regs := rfl
@[simp] theorem State.setPeerArm_heldLow (s : State) (c : Nat) (v : Option (Nat × Nat)) : (s.setPeerArm c v).heldLow = s.heldLow := rfl
@[simp] theorem State.setPeerArm_latchedHi (s : State) (c : Nat) (v : Option (Nat × Nat)) : (s.setPeerArm c v).latchedHi = s.latchedHi := rfl
@[simp] theorem State.setPeerArm_lastRead (s : State) (c : Nat) (v : Option (Nat × Nat)) : (s.setPeerArm c v).lastRead = s.lastRead := rfl
@[simp] theorem State.setPeerArm_hostMem (s : State) (c : Nat) (v : Option (Nat × Nat)) : (s.setPeerArm c v).hostMem = s.hostMem := rfl
@[simp] theorem State.setPeerArm_hostBad (s : State) (c : Nat) (v : Option (Nat × Nat)) : (s.setPeerArm c v).hostBad = s.hostBad := rfl
@[simp] theorem State.setPeerArm_hbmMem (s : State) (c : Nat) (v : Option (Nat × Nat)) : (s.setPeerArm c v).hbmMem = s.hbmMem := rfl
@[simp] theorem State.setPeerArm_sram (s : State) (c : Nat) (v : Option (Nat × Nat)) : (s.setPeerArm c v).sram = s.sram := rfl
@[simp] theorem State.setPeerArm_shw (s : State) (c : Nat) (v : Option (Nat × Nat)) : (s.setPeerArm c v).shw = s.shw := rfl
@[simp] theorem State.setPeerArm_ctx (s : State) (c : Nat) (v : Option (Nat × Nat)) : (s.setPeerArm c v).ctx = s.ctx := rfl
@[simp] theorem State.setPeerArm_host (s : State) (c : Nat) (v : Option (Nat × Nat)) : (s.setPeerArm c v).host = s.host := rfl
@[simp] theorem State.setPeerArm_queues (s : State) (c : Nat) (v : Option (Nat × Nat)) : (s.setPeerArm c v).queues = s.queues := rfl
@[simp] theorem State.setPeerArm_irq (s : State) (c : Nat) (v : Option (Nat × Nat)) : (s.setPeerArm c v).irq = s.irq := rfl
@[simp] theorem State.setPeerArm_flt (s : State) (c : Nat) (v : Option (Nat × Nat)) : (s.setPeerArm c v).flt = s.flt := rfl
@[simp] theorem State.setPeerArm_cellWell (s : State) (c : Nat) (v : Option (Nat × Nat)) : (s.setPeerArm c v).cellWell = s.cellWell := rfl
@[simp] theorem State.setPeerArm_pageWell (s : State) (c : Nat) (v : Option (Nat × Nat)) : (s.setPeerArm c v).pageWell = s.pageWell := rfl
@[simp] theorem State.setPeerArm_rst (s : State) (c : Nat) (v : Option (Nat × Nat)) : (s.setPeerArm c v).rst = s.rst := rfl
@[simp] theorem State.setPeerArm_fuse (s : State) (c : Nat) (v : Option (Nat × Nat)) : (s.setPeerArm c v).fuse = s.fuse := rfl
@[simp] theorem State.setPeerArm_pwr (s : State) (c : Nat) (v : Option (Nat × Nat)) : (s.setPeerArm c v).pwr = s.pwr := rfl
@[simp] theorem State.setPeerArm_sensors (s : State) (c : Nat) (v : Option (Nat × Nat)) : (s.setPeerArm c v).sensors = s.sensors := rfl
@[simp] theorem State.setPeerArm_time (s : State) (c : Nat) (v : Option (Nat × Nat)) : (s.setPeerArm c v).time = s.time := rfl
@[simp] theorem State.setPeerArm_hbm (s : State) (c : Nat) (v : Option (Nat × Nat)) : (s.setPeerArm c v).hbm = s.hbm := rfl
@[simp] theorem State.setPeerArm_pumps (s : State) (c : Nat) (v : Option (Nat × Nat)) : (s.setPeerArm c v).pumps = s.pumps := rfl
@[simp] theorem State.setPeerArm_pulses (s : State) (c : Nat) (v : Option (Nat × Nat)) : (s.setPeerArm c v).pulses = s.pulses := rfl
@[simp] theorem State.setPeerArm_spouts (s : State) (c : Nat) (v : Option (Nat × Nat)) : (s.setPeerArm c v).spouts = s.spouts := rfl
@[simp] theorem State.setPeerArm_net (s : State) (c : Nat) (v : Option (Nat × Nat)) : (s.setPeerArm c v).net = s.net := rfl
@[simp] theorem State.setPeerArm_ck (s : State) (c : Nat) (v : Option (Nat × Nat)) : (s.setPeerArm c v).ck = s.ck := rfl
@[simp] theorem State.setPeerArm_codec (s : State) (c : Nat) (v : Option (Nat × Nat)) : (s.setPeerArm c v).codec = s.codec := rfl
@[simp] theorem State.setPeerArm_prk (s : State) (c : Nat) (v : Option (Nat × Nat)) : (s.setPeerArm c v).prk = s.prk := rfl
@[simp] theorem State.setPeerArm_prkLoad (s : State) (c : Nat) (v : Option (Nat × Nat)) : (s.setPeerArm c v).prkLoad = s.prkLoad := rfl
@[simp] theorem State.setPeerArm_fw (s : State) (c : Nat) (v : Option (Nat × Nat)) : (s.setPeerArm c v).fw = s.fw := rfl
@[simp] theorem State.setPeerArm_faultN (s : State) (c : Nat) (v : Option (Nat × Nat)) : (s.setPeerArm c v).faultN = s.faultN := rfl
@[simp] theorem State.setPeerArm_yieldN (s : State) (c : Nat) (v : Option (Nat × Nat)) : (s.setPeerArm c v).yieldN = s.yieldN := rfl
@[simp] theorem State.setPeerArm_freeCount (s : State) (c : Nat) (v : Option (Nat × Nat)) : (s.setPeerArm c v).freeCount = s.freeCount := rfl
@[simp] theorem State.setPeerArm_twin_phase (s : State) (c : Nat) (v : Option (Nat × Nat)) : (s.setPeerArm c v).twin.phase = s.twin.phase := rfl
@[simp] theorem State.setPeerArm_twin_follower (s : State) (c : Nat) (v : Option (Nat × Nat)) : (s.setPeerArm c v).twin.follower = s.twin.follower := rfl
@[simp] theorem State.setPeerArm_twin_rejoin (s : State) (c : Nat) (v : Option (Nat × Nat)) : (s.setPeerArm c v).twin.rejoin = s.twin.rejoin := rfl
@[simp] theorem State.setPeerArm_twin_link (s : State) (c : Nat) (v : Option (Nat × Nat)) : (s.setPeerArm c v).twin.link = s.twin.link := rfl
@[simp] theorem State.setPeerArm_twin_session (s : State) (c : Nat) (v : Option (Nat × Nat)) : (s.setPeerArm c v).twin.session = s.twin.session := rfl
@[simp] theorem State.setPeerArm_twin_peerHello (s : State) (c : Nat) (v : Option (Nat × Nat)) : (s.setPeerArm c v).twin.peerHello = s.twin.peerHello := rfl
@[simp] theorem State.setPeerArm_twin_startedAt (s : State) (c : Nat) (v : Option (Nat × Nat)) : (s.setPeerArm c v).twin.startedAt = s.twin.startedAt := rfl
@[simp] theorem State.setPeerArm_twin_peerReady (s : State) (c : Nat) (v : Option (Nat × Nat)) : (s.setPeerArm c v).twin.peerReady = s.twin.peerReady := rfl
@[simp] theorem State.setPeerArm_twin_peerTwinned (s : State) (c : Nat) (v : Option (Nat × Nat)) : (s.setPeerArm c v).twin.peerTwinned = s.twin.peerTwinned := rfl
@[simp] theorem State.setPeerArm_twin_yieldIn (s : State) (c : Nat) (v : Option (Nat × Nat)) : (s.setPeerArm c v).twin.yieldIn = s.twin.yieldIn := rfl
@[simp] theorem State.setPeerArm_twin_yielding (s : State) (c : Nat) (v : Option (Nat × Nat)) : (s.setPeerArm c v).twin.yielding = s.twin.yielding := rfl
@[simp] theorem State.setPeerArm_twin_timeLocked (s : State) (c : Nat) (v : Option (Nat × Nat)) : (s.setPeerArm c v).twin.timeLocked = s.twin.timeLocked := rfl
@[simp] theorem State.setPeerArm_twin_refuse (s : State) (c : Nat) (v : Option (Nat × Nat)) : (s.setPeerArm c v).twin.refuse = s.twin.refuse := rfl
@[simp] theorem State.setPeerArm_twin_timeOfs (s : State) (c : Nat) (v : Option (Nat × Nat)) : (s.setPeerArm c v).twin.timeOfs = s.twin.timeOfs := rfl
@[simp] theorem State.setPeerArm_twin_lockRun (s : State) (c : Nat) (v : Option (Nat × Nat)) : (s.setPeerArm c v).twin.lockRun = s.twin.lockRun := rfl
@[simp] theorem State.setPeerArm_twin_skewRun (s : State) (c : Nat) (v : Option (Nat × Nat)) : (s.setPeerArm c v).twin.skewRun = s.twin.skewRun := rfl
@[simp] theorem State.setPeerArm_twin_hbSeen (s : State) (c : Nat) (v : Option (Nat × Nat)) : (s.setPeerArm c v).twin.hbSeen = s.twin.hbSeen := rfl
@[simp] theorem State.setPeerArm_twin_hbJudged (s : State) (c : Nat) (v : Option (Nat × Nat)) : (s.setPeerArm c v).twin.hbJudged = s.twin.hbJudged := rfl
@[simp] theorem State.setPeerArm_twin_hbMissed (s : State) (c : Nat) (v : Option (Nat × Nat)) : (s.setPeerArm c v).twin.hbMissed = s.twin.hbMissed := rfl
@[simp] theorem State.setPeerArm_twin_ownArm (s : State) (c : Nat) (v : Option (Nat × Nat)) : (s.setPeerArm c v).twin.ownArm = s.twin.ownArm := rfl
@[simp] theorem State.setPeerArm_twin_resyncDue (s : State) (c : Nat) (v : Option (Nat × Nat)) : (s.setPeerArm c v).twin.resyncDue = s.twin.resyncDue := rfl
@[simp] theorem State.setPeerArm_twin_joinDue (s : State) (c : Nat) (v : Option (Nat × Nat)) : (s.setPeerArm c v).twin.joinDue = s.twin.joinDue := rfl
@[simp] theorem State.setPeerArm_twin_mirror (s : State) (c : Nat) (v : Option (Nat × Nat)) : (s.setPeerArm c v).twin.mirror = s.twin.mirror := rfl
@[simp] theorem State.setPeerArm_twin_reconWait (s : State) (c : Nat) (v : Option (Nat × Nat)) : (s.setPeerArm c v).twin.reconWait = s.twin.reconWait := rfl
@[simp] theorem State.setPeerArm_twin_divLast (s : State) (c : Nat) (v : Option (Nat × Nat)) : (s.setPeerArm c v).twin.divLast = s.twin.divLast := rfl
@[simp] theorem State.setPeerArm_twin_lostAt (s : State) (c : Nat) (v : Option (Nat × Nat)) : (s.setPeerArm c v).twin.lostAt = s.twin.lostAt := rfl
@[simp] theorem State.setPeerArm_reg (s : State) (c : Nat) (v : Option (Nat × Nat)) (x : Nat) : (s.setPeerArm c v).reg x = s.reg x := rfl
@[simp] theorem State.setPeerArm_regN (s : State) (c : Nat) (v : Option (Nat × Nat)) (x : Nat) : (s.setPeerArm c v).regN x = s.regN x := rfl
@[simp] theorem State.setPeerArm_queue (s : State) (c : Nat) (v : Option (Nat × Nat)) (x : Nat) : (s.setPeerArm c v).queue x = s.queue x := rfl
@[simp] theorem State.setPeerArm_src (s : State) (c : Nat) (v : Option (Nat × Nat)) (x : Nat) : (s.setPeerArm c v).src x = s.src x := rfl
@[simp] theorem State.setPeerArm_channel (s : State) (c : Nat) (v : Option (Nat × Nat)) (x : Nat) : (s.setPeerArm c v).channel x = s.channel x := rfl
@[simp] theorem State.setPeerArm_tamb (s : State) (c : Nat) (v : Option (Nat × Nat)) (x : Nat) : (s.setPeerArm c v).tamb x = s.tamb x := rfl
@[simp] theorem State.setPeerArm_iflow (s : State) (c : Nat) (v : Option (Nat × Nat)) (x : Nat) : (s.setPeerArm c v).iflow x = s.iflow x := rfl
@[simp] theorem State.setPeerArm_eflow (s : State) (c : Nat) (v : Option (Nat × Nat)) (x : Nat) : (s.setPeerArm c v).eflow x = s.eflow x := rfl
@[simp] theorem State.setPeerArm_gate (s : State) (c : Nat) (v : Option (Nat × Nat)) (x : Nat) : (s.setPeerArm c v).gate x = s.gate x := rfl
@[simp] theorem State.setPeerArm_port (s : State) (c : Nat) (v : Option (Nat × Nat)) (x : Nat) : (s.setPeerArm c v).port x = s.port x := rfl
@[simp] theorem State.setPeerArm_pump (s : State) (c : Nat) (v : Option (Nat × Nat)) (x : Nat) : (s.setPeerArm c v).pump x = s.pump x := rfl
@[simp] theorem State.setPeerArm_spout (s : State) (c : Nat) (v : Option (Nat × Nat)) (x : Nat) : (s.setPeerArm c v).spout x = s.spout x := rfl
@[simp] theorem State.setPeerArm_now (s : State) (c : Nat) (v : Option (Nat × Nat)) : (s.setPeerArm c v).now = s.now := rfl
@[simp] theorem State.setPeerArm_hostRead (s : State) (c : Nat) (v : Option (Nat × Nat)) (x y : Nat) : (s.setPeerArm c v).hostRead x y = s.hostRead x y := rfl

/-! ## dropFetched changes host.fetched -/

@[simp] theorem State.dropFetched_pending (s : State) (q : Nat) : (s.dropFetched q).pending = s.pending := rfl
@[simp] theorem State.dropFetched_regs (s : State) (q : Nat) : (s.dropFetched q).regs = s.regs := rfl
@[simp] theorem State.dropFetched_heldLow (s : State) (q : Nat) : (s.dropFetched q).heldLow = s.heldLow := rfl
@[simp] theorem State.dropFetched_latchedHi (s : State) (q : Nat) : (s.dropFetched q).latchedHi = s.latchedHi := rfl
@[simp] theorem State.dropFetched_lastRead (s : State) (q : Nat) : (s.dropFetched q).lastRead = s.lastRead := rfl
@[simp] theorem State.dropFetched_hostMem (s : State) (q : Nat) : (s.dropFetched q).hostMem = s.hostMem := rfl
@[simp] theorem State.dropFetched_hostBad (s : State) (q : Nat) : (s.dropFetched q).hostBad = s.hostBad := rfl
@[simp] theorem State.dropFetched_hbmMem (s : State) (q : Nat) : (s.dropFetched q).hbmMem = s.hbmMem := rfl
@[simp] theorem State.dropFetched_sram (s : State) (q : Nat) : (s.dropFetched q).sram = s.sram := rfl
@[simp] theorem State.dropFetched_shw (s : State) (q : Nat) : (s.dropFetched q).shw = s.shw := rfl
@[simp] theorem State.dropFetched_ctx (s : State) (q : Nat) : (s.dropFetched q).ctx = s.ctx := rfl
@[simp] theorem State.dropFetched_queues (s : State) (q : Nat) : (s.dropFetched q).queues = s.queues := rfl
@[simp] theorem State.dropFetched_irq (s : State) (q : Nat) : (s.dropFetched q).irq = s.irq := rfl
@[simp] theorem State.dropFetched_flt (s : State) (q : Nat) : (s.dropFetched q).flt = s.flt := rfl
@[simp] theorem State.dropFetched_cellWell (s : State) (q : Nat) : (s.dropFetched q).cellWell = s.cellWell := rfl
@[simp] theorem State.dropFetched_pageWell (s : State) (q : Nat) : (s.dropFetched q).pageWell = s.pageWell := rfl
@[simp] theorem State.dropFetched_rst (s : State) (q : Nat) : (s.dropFetched q).rst = s.rst := rfl
@[simp] theorem State.dropFetched_fuse (s : State) (q : Nat) : (s.dropFetched q).fuse = s.fuse := rfl
@[simp] theorem State.dropFetched_pwr (s : State) (q : Nat) : (s.dropFetched q).pwr = s.pwr := rfl
@[simp] theorem State.dropFetched_sensors (s : State) (q : Nat) : (s.dropFetched q).sensors = s.sensors := rfl
@[simp] theorem State.dropFetched_time (s : State) (q : Nat) : (s.dropFetched q).time = s.time := rfl
@[simp] theorem State.dropFetched_hbm (s : State) (q : Nat) : (s.dropFetched q).hbm = s.hbm := rfl
@[simp] theorem State.dropFetched_pumps (s : State) (q : Nat) : (s.dropFetched q).pumps = s.pumps := rfl
@[simp] theorem State.dropFetched_pulses (s : State) (q : Nat) : (s.dropFetched q).pulses = s.pulses := rfl
@[simp] theorem State.dropFetched_spouts (s : State) (q : Nat) : (s.dropFetched q).spouts = s.spouts := rfl
@[simp] theorem State.dropFetched_net (s : State) (q : Nat) : (s.dropFetched q).net = s.net := rfl
@[simp] theorem State.dropFetched_ck (s : State) (q : Nat) : (s.dropFetched q).ck = s.ck := rfl
@[simp] theorem State.dropFetched_codec (s : State) (q : Nat) : (s.dropFetched q).codec = s.codec := rfl
@[simp] theorem State.dropFetched_twin (s : State) (q : Nat) : (s.dropFetched q).twin = s.twin := rfl
@[simp] theorem State.dropFetched_prk (s : State) (q : Nat) : (s.dropFetched q).prk = s.prk := rfl
@[simp] theorem State.dropFetched_prkLoad (s : State) (q : Nat) : (s.dropFetched q).prkLoad = s.prkLoad := rfl
@[simp] theorem State.dropFetched_fw (s : State) (q : Nat) : (s.dropFetched q).fw = s.fw := rfl
@[simp] theorem State.dropFetched_faultN (s : State) (q : Nat) : (s.dropFetched q).faultN = s.faultN := rfl
@[simp] theorem State.dropFetched_yieldN (s : State) (q : Nat) : (s.dropFetched q).yieldN = s.yieldN := rfl
@[simp] theorem State.dropFetched_freeCount (s : State) (q : Nat) : (s.dropFetched q).freeCount = s.freeCount := rfl
@[simp] theorem State.dropFetched_host_ready (s : State) (q : Nat) : (s.dropFetched q).host.ready = s.host.ready := rfl
@[simp] theorem State.dropFetched_host_enabled (s : State) (q : Nat) : (s.dropFetched q).host.enabled = s.host.enabled := rfl
@[simp] theorem State.dropFetched_host_errCause (s : State) (q : Nat) : (s.dropFetched q).host.errCause = s.host.errCause := rfl
@[simp] theorem State.dropFetched_host_wsw (s : State) (q : Nat) : (s.dropFetched q).host.wsw = s.host.wsw := rfl
@[simp] theorem State.dropFetched_host_epochMode (s : State) (q : Nat) : (s.dropFetched q).host.epochMode = s.host.epochMode := rfl
@[simp] theorem State.dropFetched_host_lastEpoch (s : State) (q : Nat) : (s.dropFetched q).host.lastEpoch = s.host.lastEpoch := rfl
@[simp] theorem State.dropFetched_host_lastGe (s : State) (q : Nat) : (s.dropFetched q).host.lastGe = s.host.lastGe := rfl
@[simp] theorem State.dropFetched_host_busMaster (s : State) (q : Nat) : (s.dropFetched q).host.busMaster = s.host.busMaster := rfl
@[simp] theorem State.dropFetched_host_atomicReq (s : State) (q : Nat) : (s.dropFetched q).host.atomicReq = s.host.atomicReq := rfl
@[simp] theorem State.dropFetched_host_msixEnable (s : State) (q : Nat) : (s.dropFetched q).host.msixEnable = s.host.msixEnable := rfl
@[simp] theorem State.dropFetched_host_funcMask (s : State) (q : Nat) : (s.dropFetched q).host.funcMask = s.host.funcMask := rfl
@[simp] theorem State.dropFetched_host_unmasked (s : State) (q : Nat) : (s.dropFetched q).host.unmasked = s.host.unmasked := rfl
@[simp] theorem State.dropFetched_host_vecPend (s : State) (q : Nat) : (s.dropFetched q).host.vecPend = s.host.vecPend := rfl
@[simp] theorem State.dropFetched_host_msiSent (s : State) (q : Nat) : (s.dropFetched q).host.msiSent = s.host.msiSent := rfl
@[simp] theorem State.dropFetched_host_deferred (s : State) (q : Nat) : (s.dropFetched q).host.deferred = s.host.deferred := rfl
@[simp] theorem State.dropFetched_host_held (s : State) (q : Nat) : (s.dropFetched q).host.held = s.host.held := rfl
@[simp] theorem State.dropFetched_reg (s : State) (q : Nat) (x : Nat) : (s.dropFetched q).reg x = s.reg x := rfl
@[simp] theorem State.dropFetched_regN (s : State) (q : Nat) (x : Nat) : (s.dropFetched q).regN x = s.regN x := rfl
@[simp] theorem State.dropFetched_queue (s : State) (q : Nat) (x : Nat) : (s.dropFetched q).queue x = s.queue x := rfl
@[simp] theorem State.dropFetched_src (s : State) (q : Nat) (x : Nat) : (s.dropFetched q).src x = s.src x := rfl
@[simp] theorem State.dropFetched_channel (s : State) (q : Nat) (x : Nat) : (s.dropFetched q).channel x = s.channel x := rfl
@[simp] theorem State.dropFetched_tamb (s : State) (q : Nat) (x : Nat) : (s.dropFetched q).tamb x = s.tamb x := rfl
@[simp] theorem State.dropFetched_iflow (s : State) (q : Nat) (x : Nat) : (s.dropFetched q).iflow x = s.iflow x := rfl
@[simp] theorem State.dropFetched_eflow (s : State) (q : Nat) (x : Nat) : (s.dropFetched q).eflow x = s.eflow x := rfl
@[simp] theorem State.dropFetched_gate (s : State) (q : Nat) (x : Nat) : (s.dropFetched q).gate x = s.gate x := rfl
@[simp] theorem State.dropFetched_port (s : State) (q : Nat) (x : Nat) : (s.dropFetched q).port x = s.port x := rfl
@[simp] theorem State.dropFetched_pump (s : State) (q : Nat) (x : Nat) : (s.dropFetched q).pump x = s.pump x := rfl
@[simp] theorem State.dropFetched_spout (s : State) (q : Nat) (x : Nat) : (s.dropFetched q).spout x = s.spout x := rfl
@[simp] theorem State.dropFetched_now (s : State) (q : Nat) : (s.dropFetched q).now = s.now := rfl
@[simp] theorem State.dropFetched_hostRead (s : State) (q : Nat) (x y : Nat) : (s.dropFetched q).hostRead x y = s.hostRead x y := rfl

/-! ## addDeferred changes host.deferred -/

@[simp] theorem State.addDeferred_pending (s : State) (d : Deferred) : (s.addDeferred d).pending = s.pending := rfl
@[simp] theorem State.addDeferred_regs (s : State) (d : Deferred) : (s.addDeferred d).regs = s.regs := rfl
@[simp] theorem State.addDeferred_heldLow (s : State) (d : Deferred) : (s.addDeferred d).heldLow = s.heldLow := rfl
@[simp] theorem State.addDeferred_latchedHi (s : State) (d : Deferred) : (s.addDeferred d).latchedHi = s.latchedHi := rfl
@[simp] theorem State.addDeferred_lastRead (s : State) (d : Deferred) : (s.addDeferred d).lastRead = s.lastRead := rfl
@[simp] theorem State.addDeferred_hostMem (s : State) (d : Deferred) : (s.addDeferred d).hostMem = s.hostMem := rfl
@[simp] theorem State.addDeferred_hostBad (s : State) (d : Deferred) : (s.addDeferred d).hostBad = s.hostBad := rfl
@[simp] theorem State.addDeferred_hbmMem (s : State) (d : Deferred) : (s.addDeferred d).hbmMem = s.hbmMem := rfl
@[simp] theorem State.addDeferred_sram (s : State) (d : Deferred) : (s.addDeferred d).sram = s.sram := rfl
@[simp] theorem State.addDeferred_shw (s : State) (d : Deferred) : (s.addDeferred d).shw = s.shw := rfl
@[simp] theorem State.addDeferred_ctx (s : State) (d : Deferred) : (s.addDeferred d).ctx = s.ctx := rfl
@[simp] theorem State.addDeferred_queues (s : State) (d : Deferred) : (s.addDeferred d).queues = s.queues := rfl
@[simp] theorem State.addDeferred_irq (s : State) (d : Deferred) : (s.addDeferred d).irq = s.irq := rfl
@[simp] theorem State.addDeferred_flt (s : State) (d : Deferred) : (s.addDeferred d).flt = s.flt := rfl
@[simp] theorem State.addDeferred_cellWell (s : State) (d : Deferred) : (s.addDeferred d).cellWell = s.cellWell := rfl
@[simp] theorem State.addDeferred_pageWell (s : State) (d : Deferred) : (s.addDeferred d).pageWell = s.pageWell := rfl
@[simp] theorem State.addDeferred_rst (s : State) (d : Deferred) : (s.addDeferred d).rst = s.rst := rfl
@[simp] theorem State.addDeferred_fuse (s : State) (d : Deferred) : (s.addDeferred d).fuse = s.fuse := rfl
@[simp] theorem State.addDeferred_pwr (s : State) (d : Deferred) : (s.addDeferred d).pwr = s.pwr := rfl
@[simp] theorem State.addDeferred_sensors (s : State) (d : Deferred) : (s.addDeferred d).sensors = s.sensors := rfl
@[simp] theorem State.addDeferred_time (s : State) (d : Deferred) : (s.addDeferred d).time = s.time := rfl
@[simp] theorem State.addDeferred_hbm (s : State) (d : Deferred) : (s.addDeferred d).hbm = s.hbm := rfl
@[simp] theorem State.addDeferred_pumps (s : State) (d : Deferred) : (s.addDeferred d).pumps = s.pumps := rfl
@[simp] theorem State.addDeferred_pulses (s : State) (d : Deferred) : (s.addDeferred d).pulses = s.pulses := rfl
@[simp] theorem State.addDeferred_spouts (s : State) (d : Deferred) : (s.addDeferred d).spouts = s.spouts := rfl
@[simp] theorem State.addDeferred_net (s : State) (d : Deferred) : (s.addDeferred d).net = s.net := rfl
@[simp] theorem State.addDeferred_ck (s : State) (d : Deferred) : (s.addDeferred d).ck = s.ck := rfl
@[simp] theorem State.addDeferred_codec (s : State) (d : Deferred) : (s.addDeferred d).codec = s.codec := rfl
@[simp] theorem State.addDeferred_twin (s : State) (d : Deferred) : (s.addDeferred d).twin = s.twin := rfl
@[simp] theorem State.addDeferred_prk (s : State) (d : Deferred) : (s.addDeferred d).prk = s.prk := rfl
@[simp] theorem State.addDeferred_prkLoad (s : State) (d : Deferred) : (s.addDeferred d).prkLoad = s.prkLoad := rfl
@[simp] theorem State.addDeferred_fw (s : State) (d : Deferred) : (s.addDeferred d).fw = s.fw := rfl
@[simp] theorem State.addDeferred_faultN (s : State) (d : Deferred) : (s.addDeferred d).faultN = s.faultN := rfl
@[simp] theorem State.addDeferred_yieldN (s : State) (d : Deferred) : (s.addDeferred d).yieldN = s.yieldN := rfl
@[simp] theorem State.addDeferred_freeCount (s : State) (d : Deferred) : (s.addDeferred d).freeCount = s.freeCount := rfl
@[simp] theorem State.addDeferred_host_ready (s : State) (d : Deferred) : (s.addDeferred d).host.ready = s.host.ready := rfl
@[simp] theorem State.addDeferred_host_enabled (s : State) (d : Deferred) : (s.addDeferred d).host.enabled = s.host.enabled := rfl
@[simp] theorem State.addDeferred_host_errCause (s : State) (d : Deferred) : (s.addDeferred d).host.errCause = s.host.errCause := rfl
@[simp] theorem State.addDeferred_host_wsw (s : State) (d : Deferred) : (s.addDeferred d).host.wsw = s.host.wsw := rfl
@[simp] theorem State.addDeferred_host_epochMode (s : State) (d : Deferred) : (s.addDeferred d).host.epochMode = s.host.epochMode := rfl
@[simp] theorem State.addDeferred_host_lastEpoch (s : State) (d : Deferred) : (s.addDeferred d).host.lastEpoch = s.host.lastEpoch := rfl
@[simp] theorem State.addDeferred_host_lastGe (s : State) (d : Deferred) : (s.addDeferred d).host.lastGe = s.host.lastGe := rfl
@[simp] theorem State.addDeferred_host_busMaster (s : State) (d : Deferred) : (s.addDeferred d).host.busMaster = s.host.busMaster := rfl
@[simp] theorem State.addDeferred_host_atomicReq (s : State) (d : Deferred) : (s.addDeferred d).host.atomicReq = s.host.atomicReq := rfl
@[simp] theorem State.addDeferred_host_msixEnable (s : State) (d : Deferred) : (s.addDeferred d).host.msixEnable = s.host.msixEnable := rfl
@[simp] theorem State.addDeferred_host_funcMask (s : State) (d : Deferred) : (s.addDeferred d).host.funcMask = s.host.funcMask := rfl
@[simp] theorem State.addDeferred_host_unmasked (s : State) (d : Deferred) : (s.addDeferred d).host.unmasked = s.host.unmasked := rfl
@[simp] theorem State.addDeferred_host_vecPend (s : State) (d : Deferred) : (s.addDeferred d).host.vecPend = s.host.vecPend := rfl
@[simp] theorem State.addDeferred_host_msiSent (s : State) (d : Deferred) : (s.addDeferred d).host.msiSent = s.host.msiSent := rfl
@[simp] theorem State.addDeferred_host_fetched (s : State) (d : Deferred) : (s.addDeferred d).host.fetched = s.host.fetched := rfl
@[simp] theorem State.addDeferred_host_held (s : State) (d : Deferred) : (s.addDeferred d).host.held = s.host.held := rfl
@[simp] theorem State.addDeferred_reg (s : State) (d : Deferred) (x : Nat) : (s.addDeferred d).reg x = s.reg x := rfl
@[simp] theorem State.addDeferred_regN (s : State) (d : Deferred) (x : Nat) : (s.addDeferred d).regN x = s.regN x := rfl
@[simp] theorem State.addDeferred_queue (s : State) (d : Deferred) (x : Nat) : (s.addDeferred d).queue x = s.queue x := rfl
@[simp] theorem State.addDeferred_src (s : State) (d : Deferred) (x : Nat) : (s.addDeferred d).src x = s.src x := rfl
@[simp] theorem State.addDeferred_channel (s : State) (d : Deferred) (x : Nat) : (s.addDeferred d).channel x = s.channel x := rfl
@[simp] theorem State.addDeferred_tamb (s : State) (d : Deferred) (x : Nat) : (s.addDeferred d).tamb x = s.tamb x := rfl
@[simp] theorem State.addDeferred_iflow (s : State) (d : Deferred) (x : Nat) : (s.addDeferred d).iflow x = s.iflow x := rfl
@[simp] theorem State.addDeferred_eflow (s : State) (d : Deferred) (x : Nat) : (s.addDeferred d).eflow x = s.eflow x := rfl
@[simp] theorem State.addDeferred_gate (s : State) (d : Deferred) (x : Nat) : (s.addDeferred d).gate x = s.gate x := rfl
@[simp] theorem State.addDeferred_port (s : State) (d : Deferred) (x : Nat) : (s.addDeferred d).port x = s.port x := rfl
@[simp] theorem State.addDeferred_pump (s : State) (d : Deferred) (x : Nat) : (s.addDeferred d).pump x = s.pump x := rfl
@[simp] theorem State.addDeferred_spout (s : State) (d : Deferred) (x : Nat) : (s.addDeferred d).spout x = s.spout x := rfl
@[simp] theorem State.addDeferred_now (s : State) (d : Deferred) : (s.addDeferred d).now = s.now := rfl
@[simp] theorem State.addDeferred_hostRead (s : State) (d : Deferred) (x y : Nat) : (s.addDeferred d).hostRead x y = s.hostRead x y := rfl

/-! ## taken changes host.fetched -/

@[simp] theorem State.taken_pending (s : State) (h : CmdHdr) : (s.taken h).pending = s.pending := rfl
@[simp] theorem State.taken_regs (s : State) (h : CmdHdr) : (s.taken h).regs = s.regs := rfl
@[simp] theorem State.taken_heldLow (s : State) (h : CmdHdr) : (s.taken h).heldLow = s.heldLow := rfl
@[simp] theorem State.taken_latchedHi (s : State) (h : CmdHdr) : (s.taken h).latchedHi = s.latchedHi := rfl
@[simp] theorem State.taken_lastRead (s : State) (h : CmdHdr) : (s.taken h).lastRead = s.lastRead := rfl
@[simp] theorem State.taken_hostMem (s : State) (h : CmdHdr) : (s.taken h).hostMem = s.hostMem := rfl
@[simp] theorem State.taken_hostBad (s : State) (h : CmdHdr) : (s.taken h).hostBad = s.hostBad := rfl
@[simp] theorem State.taken_hbmMem (s : State) (h : CmdHdr) : (s.taken h).hbmMem = s.hbmMem := rfl
@[simp] theorem State.taken_sram (s : State) (h : CmdHdr) : (s.taken h).sram = s.sram := rfl
@[simp] theorem State.taken_shw (s : State) (h : CmdHdr) : (s.taken h).shw = s.shw := rfl
@[simp] theorem State.taken_ctx (s : State) (h : CmdHdr) : (s.taken h).ctx = s.ctx := rfl
@[simp] theorem State.taken_queues (s : State) (h : CmdHdr) : (s.taken h).queues = s.queues := rfl
@[simp] theorem State.taken_irq (s : State) (h : CmdHdr) : (s.taken h).irq = s.irq := rfl
@[simp] theorem State.taken_flt (s : State) (h : CmdHdr) : (s.taken h).flt = s.flt := rfl
@[simp] theorem State.taken_cellWell (s : State) (h : CmdHdr) : (s.taken h).cellWell = s.cellWell := rfl
@[simp] theorem State.taken_pageWell (s : State) (h : CmdHdr) : (s.taken h).pageWell = s.pageWell := rfl
@[simp] theorem State.taken_rst (s : State) (h : CmdHdr) : (s.taken h).rst = s.rst := rfl
@[simp] theorem State.taken_fuse (s : State) (h : CmdHdr) : (s.taken h).fuse = s.fuse := rfl
@[simp] theorem State.taken_pwr (s : State) (h : CmdHdr) : (s.taken h).pwr = s.pwr := rfl
@[simp] theorem State.taken_sensors (s : State) (h : CmdHdr) : (s.taken h).sensors = s.sensors := rfl
@[simp] theorem State.taken_time (s : State) (h : CmdHdr) : (s.taken h).time = s.time := rfl
@[simp] theorem State.taken_hbm (s : State) (h : CmdHdr) : (s.taken h).hbm = s.hbm := rfl
@[simp] theorem State.taken_pumps (s : State) (h : CmdHdr) : (s.taken h).pumps = s.pumps := rfl
@[simp] theorem State.taken_pulses (s : State) (h : CmdHdr) : (s.taken h).pulses = s.pulses := rfl
@[simp] theorem State.taken_spouts (s : State) (h : CmdHdr) : (s.taken h).spouts = s.spouts := rfl
@[simp] theorem State.taken_net (s : State) (h : CmdHdr) : (s.taken h).net = s.net := rfl
@[simp] theorem State.taken_ck (s : State) (h : CmdHdr) : (s.taken h).ck = s.ck := rfl
@[simp] theorem State.taken_codec (s : State) (h : CmdHdr) : (s.taken h).codec = s.codec := rfl
@[simp] theorem State.taken_twin (s : State) (h : CmdHdr) : (s.taken h).twin = s.twin := rfl
@[simp] theorem State.taken_prk (s : State) (h : CmdHdr) : (s.taken h).prk = s.prk := rfl
@[simp] theorem State.taken_prkLoad (s : State) (h : CmdHdr) : (s.taken h).prkLoad = s.prkLoad := rfl
@[simp] theorem State.taken_fw (s : State) (h : CmdHdr) : (s.taken h).fw = s.fw := rfl
@[simp] theorem State.taken_faultN (s : State) (h : CmdHdr) : (s.taken h).faultN = s.faultN := rfl
@[simp] theorem State.taken_yieldN (s : State) (h : CmdHdr) : (s.taken h).yieldN = s.yieldN := rfl
@[simp] theorem State.taken_freeCount (s : State) (h : CmdHdr) : (s.taken h).freeCount = s.freeCount := rfl
@[simp] theorem State.taken_host_ready (s : State) (h : CmdHdr) : (s.taken h).host.ready = s.host.ready := rfl
@[simp] theorem State.taken_host_enabled (s : State) (h : CmdHdr) : (s.taken h).host.enabled = s.host.enabled := rfl
@[simp] theorem State.taken_host_errCause (s : State) (h : CmdHdr) : (s.taken h).host.errCause = s.host.errCause := rfl
@[simp] theorem State.taken_host_wsw (s : State) (h : CmdHdr) : (s.taken h).host.wsw = s.host.wsw := rfl
@[simp] theorem State.taken_host_epochMode (s : State) (h : CmdHdr) : (s.taken h).host.epochMode = s.host.epochMode := rfl
@[simp] theorem State.taken_host_lastEpoch (s : State) (h : CmdHdr) : (s.taken h).host.lastEpoch = s.host.lastEpoch := rfl
@[simp] theorem State.taken_host_lastGe (s : State) (h : CmdHdr) : (s.taken h).host.lastGe = s.host.lastGe := rfl
@[simp] theorem State.taken_host_busMaster (s : State) (h : CmdHdr) : (s.taken h).host.busMaster = s.host.busMaster := rfl
@[simp] theorem State.taken_host_atomicReq (s : State) (h : CmdHdr) : (s.taken h).host.atomicReq = s.host.atomicReq := rfl
@[simp] theorem State.taken_host_msixEnable (s : State) (h : CmdHdr) : (s.taken h).host.msixEnable = s.host.msixEnable := rfl
@[simp] theorem State.taken_host_funcMask (s : State) (h : CmdHdr) : (s.taken h).host.funcMask = s.host.funcMask := rfl
@[simp] theorem State.taken_host_unmasked (s : State) (h : CmdHdr) : (s.taken h).host.unmasked = s.host.unmasked := rfl
@[simp] theorem State.taken_host_vecPend (s : State) (h : CmdHdr) : (s.taken h).host.vecPend = s.host.vecPend := rfl
@[simp] theorem State.taken_host_msiSent (s : State) (h : CmdHdr) : (s.taken h).host.msiSent = s.host.msiSent := rfl
@[simp] theorem State.taken_host_deferred (s : State) (h : CmdHdr) : (s.taken h).host.deferred = s.host.deferred := rfl
@[simp] theorem State.taken_host_held (s : State) (h : CmdHdr) : (s.taken h).host.held = s.host.held := rfl
@[simp] theorem State.taken_reg (s : State) (h : CmdHdr) (x : Nat) : (s.taken h).reg x = s.reg x := rfl
@[simp] theorem State.taken_regN (s : State) (h : CmdHdr) (x : Nat) : (s.taken h).regN x = s.regN x := rfl
@[simp] theorem State.taken_queue (s : State) (h : CmdHdr) (x : Nat) : (s.taken h).queue x = s.queue x := rfl
@[simp] theorem State.taken_src (s : State) (h : CmdHdr) (x : Nat) : (s.taken h).src x = s.src x := rfl
@[simp] theorem State.taken_channel (s : State) (h : CmdHdr) (x : Nat) : (s.taken h).channel x = s.channel x := rfl
@[simp] theorem State.taken_tamb (s : State) (h : CmdHdr) (x : Nat) : (s.taken h).tamb x = s.tamb x := rfl
@[simp] theorem State.taken_iflow (s : State) (h : CmdHdr) (x : Nat) : (s.taken h).iflow x = s.iflow x := rfl
@[simp] theorem State.taken_eflow (s : State) (h : CmdHdr) (x : Nat) : (s.taken h).eflow x = s.eflow x := rfl
@[simp] theorem State.taken_gate (s : State) (h : CmdHdr) (x : Nat) : (s.taken h).gate x = s.gate x := rfl
@[simp] theorem State.taken_port (s : State) (h : CmdHdr) (x : Nat) : (s.taken h).port x = s.port x := rfl
@[simp] theorem State.taken_pump (s : State) (h : CmdHdr) (x : Nat) : (s.taken h).pump x = s.pump x := rfl
@[simp] theorem State.taken_spout (s : State) (h : CmdHdr) (x : Nat) : (s.taken h).spout x = s.spout x := rfl
@[simp] theorem State.taken_now (s : State) (h : CmdHdr) : (s.taken h).now = s.now := rfl
@[simp] theorem State.taken_hostRead (s : State) (h : CmdHdr) (x y : Nat) : (s.taken h).hostRead x y = s.hostRead x y := rfl

/-! ## What a host command's body reads is what it was before the command was taken -/

@[simp] theorem State.taken_bandRuns (s : State) (h : CmdHdr) (i : BandId) : (s.taken h).bandRuns i = s.bandRuns i := rfl
@[simp] theorem State.taken_clocked (s : State) (h : CmdHdr) (t : Nat) : (s.taken h).clocked t = s.clocked t := rfl
@[simp] theorem State.taken_nextBand (s : State) (h : CmdHdr) (t : Nat) : (s.taken h).nextBand t = s.nextBand t := rfl
@[simp] theorem State.taken_deadlineOf (s : State) (h : CmdHdr) (i : BandId) : (s.taken h).deadlineOf i = s.deadlineOf i := rfl
@[simp] theorem State.taken_bandBefore (s : State) (h : CmdHdr) (i j : BandId) : (s.taken h).bandBefore i j = s.bandBefore i j := rfl
@[simp] theorem State.taken_firstBand (s : State) (h : CmdHdr) (l : List BandId) : (s.taken h).firstBand l = s.firstBand l := rfl
@[simp] theorem State.taken_readyBands (s : State) (h : CmdHdr) (t : Nat) : (s.taken h).readyBands t = s.readyBands t := rfl
@[simp] theorem State.taken_twinChannel (s : State) (h : CmdHdr) (c : Nat) : (s.taken h).twinChannel c = s.twinChannel c := rfl
@[simp] theorem State.taken_planFrom (s : State) (h : CmdHdr) (c p : Nat) : (s.taken h).planFrom c p = s.planFrom c p := rfl
@[simp] theorem State.taken_mayName (s : State) (h : CmdHdr) (t : Nat) (i : BandId) : (s.taken h).mayName t i = s.mayName t i := rfl
@[simp] theorem State.taken_nowT (s : State) (h : CmdHdr) : (s.taken h).nowT = s.nowT := rfl
@[simp] theorem State.taken_residents (s : State) (h : CmdHdr) (t skip : Nat) : (s.taken h).residents t skip = s.residents t skip := rfl
@[simp] theorem State.taken_admitted (s : State) (h : CmdHdr) (t c : Nat) (d : Demand) : (s.taken h).admitted t c d = s.admitted t c d := rfl
@[simp] theorem State.taken_pinBefore (s : State) (h : CmdHdr) (skip a b : Nat) : (s.taken h).pinBefore skip a b = s.pinBefore skip a b := rfl
@[simp] theorem State.taken_noAuto (s : State) (h : CmdHdr) (t : Nat) : (s.taken h).noAuto t = s.noAuto t := rfl
@[simp] theorem State.taken_autoPin (s : State) (h : CmdHdr) (c : Nat) (d : Demand) : (s.taken h).autoPin c d = s.autoPin c d := rfl
@[simp] theorem State.taken_place (s : State) (h : CmdHdr) (c pin : Nat) (present : Option Nat) (d : Demand) : (s.taken h).place c pin present d = s.place c pin present d := rfl
@[simp] theorem State.taken_loadFrame (s : State) (h : CmdHdr) (cells : List Nat) (l : Nat) : (s.taken h).loadFrame cells l = s.loadFrame cells l := rfl
@[simp] theorem State.taken_readLists (s : State) (h : CmdHdr) (c : ChannelCfg) : (s.taken h).readLists c = s.readLists c := rfl
@[simp] theorem State.taken_isHbr (s : State) (h : CmdHdr) (q : Nat) : (s.taken h).isHbr q = s.isHbr q := rfl
@[simp] theorem State.taken_hbrsOk (s : State) (h : CmdHdr) (c : ChannelCfg) : (s.taken h).hbrsOk c = s.hbrsOk c := rfl
@[simp] theorem State.taken_portFrame (s : State) (h : CmdHdr) (n : Nat) : (s.taken h).portFrame n = s.portFrame n := rfl
@[simp] theorem State.taken_flowsFit (s : State) (h : CmdHdr) (ch : Nat) (c : ChannelCfg) : (s.taken h).flowsFit ch c = s.flowsFit ch c := rfl
@[simp] theorem State.taken_bitrateSum (s : State) (h : CmdHdr) (skip : Nat) : (s.taken h).bitrateSum skip = s.bitrateSum skip := rfl
@[simp] theorem State.taken_checkCfg (s : State) (h : CmdHdr) (ch : Nat) (decode : Bool) (addr : Nat) (present : Option Nat) : (s.taken h).checkCfg ch decode addr present = s.checkCfg ch decode addr present := rfl
@[simp] theorem State.taken_store (s : State) (h : CmdHdr) (n : Nat) : (s.taken h).store n = s.store n := rfl
@[simp] theorem State.taken_loading (s : State) (h : CmdHdr) (n : Nat) : (s.taken h).loading n = s.loading n := rfl
@[simp] theorem State.taken_startRefusal (s : State) (h : CmdHdr) (c : Nat) (join : Bool) (sec ns : Nat) : (s.taken h).startRefusal c join sec ns = s.startRefusal c join sec ns := rfl
@[simp] theorem State.taken_isFollower (s : State) (h : CmdHdr) : (s.taken h).isFollower = s.isFollower := rfl
@[simp] theorem State.taken_ckWidth (s : State) (h : CmdHdr) (n : Nat) : (s.taken h).ckWidth n = s.ckWidth n := rfl
@[simp] theorem State.taken_ckModel (s : State) (h : CmdHdr) (n : Nat) : (s.taken h).ckModel n = s.ckModel n := rfl
@[simp] theorem State.taken_ckValue (s : State) (h : CmdHdr) (n : Nat) : (s.taken h).ckValue n = s.ckValue n := rfl
@[simp] theorem State.taken_ckResult (s : State) (h : CmdHdr) (n : Nat) : (s.taken h).ckResult n = s.ckResult n := rfl
@[simp] theorem State.taken_ckBytes (s : State) (h : CmdHdr) (n : Nat) : (s.taken h).ckBytes n = s.ckBytes n := rfl
@[simp] theorem State.taken_aliveSlot (s : State) (h : CmdHdr) (n k : Nat) : (s.taken h).aliveSlot n k = s.aliveSlot n k := rfl
@[simp] theorem State.taken_lossDue (s : State) (h : CmdHdr) (c k : Nat) : (s.taken h).lossDue c k = s.lossDue c k := rfl
@[simp] theorem State.taken_mergePktOf (s : State) (h : CmdHdr) (v : Nat) (bytes : List Byte) : (s.taken h).mergePktOf v bytes = s.mergePktOf v bytes := rfl
@[simp] theorem State.taken_undecoded (s : State) (h : CmdHdr) (i : BandId) : (s.taken h).undecoded i = s.undecoded i := rfl
@[simp] theorem State.taken_blocksDone (s : State) (h : CmdHdr) (i : BandId) : (s.taken h).blocksDone i = s.blocksDone i := rfl
@[simp] theorem State.taken_outRaster (s : State) (h : CmdHdr) (c p b : Nat) : (s.taken h).outRaster c p b = s.outRaster c p b := rfl
@[simp] theorem State.taken_outFlows (s : State) (h : CmdHdr) (c start : Nat) (q : OutSlot) : (s.taken h).outFlows c start q = s.outFlows c start q := rfl
@[simp] theorem State.taken_stoppable (s : State) (h : CmdHdr) (ch : Nat) : (s.taken h).stoppable ch = s.stoppable ch := rfl
@[simp] theorem State.taken_channelFits (s : State) (h : CmdHdr) (ch kind : Nat) (egress : Bool) : (s.taken h).channelFits ch kind egress = s.channelFits ch kind egress := rfl
@[simp] theorem State.taken_ingressOf (s : State) (h : CmdHdr) (ch : Nat) : (s.taken h).ingressOf ch = s.ingressOf ch := rfl
@[simp] theorem State.taken_egressOf (s : State) (h : CmdHdr) (ch : Nat) : (s.taken h).egressOf ch = s.egressOf ch := rfl
@[simp] theorem State.taken_portGroup (s : State) (h : CmdHdr) (n : Nat) : (s.taken h).portGroup n = s.portGroup n := rfl
@[simp] theorem State.taken_channelFree (s : State) (h : CmdHdr) (ch : Nat) : (s.taken h).channelFree ch = s.channelFree ch := rfl
@[simp] theorem State.taken_ingressFits (s : State) (h : CmdHdr) (ch port : Nat) (f : IFlow) : (s.taken h).ingressFits ch port f = s.ingressFits ch port f := rfl
@[simp] theorem State.taken_bindRecord (s : State) (h : CmdHdr) (addr len : Nat) : (s.taken h).bindRecord addr len = s.bindRecord addr len := rfl
@[simp] theorem State.taken_startOf (s : State) (h : CmdHdr) (c : Nat) : (s.taken h).startOf c = s.startOf c := rfl
@[simp] theorem State.taken_hbmBank (s : State) (h : CmdHdr) (pc b : Nat) : (s.taken h).hbmBank pc b = s.hbmBank pc b := rfl
@[simp] theorem State.taken_portTarget (s : State) (h : CmdHdr) (n : Nat) : (s.taken h).portTarget n = s.portTarget n := rfl
@[simp] theorem State.taken_portRsv (s : State) (h : CmdHdr) (n : Nat) : (s.taken h).portRsv n = s.portRsv n := rfl
@[simp] theorem State.taken_urgency (s : State) (h : CmdHdr) (n : Nat) : (s.taken h).urgency n = s.urgency n := rfl
@[simp] theorem State.taken_underRsv (s : State) (h : CmdHdr) (n : Nat) : (s.taken h).underRsv n = s.underRsv n := rfl
@[simp] theorem State.taken_reqRank (s : State) (h : CmdHdr) (pc : Nat) (r : HbmReq) : (s.taken h).reqRank pc r = s.reqRank pc r := rfl
@[simp] theorem State.taken_pickReq (s : State) (h : CmdHdr) (pc : Nat) : (s.taken h).pickReq pc = s.pickReq pc := rfl
@[simp] theorem State.taken_refreshNs (s : State) (h : CmdHdr) : (s.taken h).refreshNs = s.refreshNs := rfl
@[simp] theorem State.taken_forcedBank (s : State) (h : CmdHdr) (pc : Nat) : (s.taken h).forcedBank pc = s.forcedBank pc := rfl
@[simp] theorem State.taken_cqOf (s : State) (h : CmdHdr) (sq : Nat) : (s.taken h).cqOf sq = s.cqOf sq := rfl
@[simp] theorem State.taken_heldFor (s : State) (h : CmdHdr) (sq : Nat) : (s.taken h).heldFor sq = s.heldFor sq := rfl
@[simp] theorem State.taken_cmdReady (s : State) (h : CmdHdr) (sq : Nat) : (s.taken h).cmdReady sq = s.cmdReady sq := rfl
@[simp] theorem State.taken_findDeferred (s : State) (h : CmdHdr) (p : DeferredOp → Bool) : (s.taken h).findDeferred p = s.findDeferred p := rfl
@[simp] theorem State.taken_enableCause (s : State) (h : CmdHdr) (epoch : Bool) : (s.taken h).enableCause epoch = s.enableCause epoch := rfl
@[simp] theorem State.taken_freeHostQid (s : State) (h : CmdHdr) : (s.taken h).freeHostQid = s.freeHostQid := rfl
@[simp] theorem State.taken_checkQueueCreate (s : State) (h : CmdHdr) (q : QueueCreateArgs) : (s.taken h).checkQueueCreate q = s.checkQueueCreate q := rfl
@[simp] theorem State.taken_responds (s : State) (h : CmdHdr) (a : Nat) : (s.taken h).responds a = s.responds a := rfl
@[simp] theorem State.taken_writeLocked (s : State) (h : CmdHdr) (who : Requester) (a : Nat) : (s.taken h).writeLocked who a = s.writeLocked who a := rfl
@[simp] theorem State.taken_claimable (s : State) (h : CmdHdr) (c : Nat) : (s.taken h).claimable c = s.claimable c := rfl
@[simp] theorem State.taken_requestLine (s : State) (h : CmdHdr) (c : Nat) : (s.taken h).requestLine c = s.requestLine c := rfl
@[simp] theorem State.taken_partOk (s : State) (h : CmdHdr) (l : List Nat) : (s.taken h).partOk l = s.partOk l := rfl
@[simp] theorem State.taken_badContainer (s : State) (h : CmdHdr) (l : List Nat) : (s.taken h).badContainer l = s.badContainer l := rfl
@[simp] theorem State.taken_keyDigest (s : State) (h : CmdHdr) (customer : Bool) : (s.taken h).keyDigest customer = s.keyDigest customer := rfl
@[simp] theorem State.taken_signatureOk (s : State) (h : CmdHdr) (l : List Nat) (customer : Bool) : (s.taken h).signatureOk l customer = s.signatureOk l customer := rfl
@[simp] theorem State.taken_tambDrained (s : State) (h : CmdHdr) (n : Nat) : (s.taken h).tambDrained n = s.tambDrained n := rfl
@[simp] theorem State.taken_sameDigest (s : State) (h : CmdHdr) (l : PrkLoad) : (s.taken h).sameDigest l = s.sameDigest l := rfl
@[simp] theorem State.taken_readContainer (s : State) (h : CmdHdr) (addr len : Nat) : (s.taken h).readContainer addr len = s.readContainer addr len := rfl
@[simp] theorem State.taken_prkRefusal (s : State) (h : CmdHdr) (mask : Nat) (l : List Nat) : (s.taken h).prkRefusal mask l = s.prkRefusal mask l := rfl
@[simp] theorem State.taken_badFirmware (s : State) (h : CmdHdr) (customer : Bool) (l : List Nat) : (s.taken h).badFirmware customer l = s.badFirmware customer l := rfl
@[simp] theorem State.taken_fwRefusal (s : State) (h : CmdHdr) (customer : Bool) (l : List Nat) : (s.taken h).fwRefusal customer l = s.fwRefusal customer l := rfl
@[simp] theorem State.taken_runWord (s : State) (h : CmdHdr) (t : Nat) (i : BandId) (view : SeqView) (free : Nat) : (s.taken h).runWord t i view free = s.runWord t i view free := rfl
@[simp] theorem State.taken_classify (s : State) (h : CmdHdr) (port : Nat) (k : RxKeys) : (s.taken h).classify port k = s.classify port k := rfl
@[simp] theorem State.taken_rxStamp (s : State) (h : CmdHdr) (port ts : Nat) : (s.taken h).rxStamp port ts = s.rxStamp port ts := rfl
@[simp] theorem State.taken_ptpTicks (s : State) (h : CmdHdr) : (s.taken h).ptpTicks = s.ptpTicks := rfl
@[simp] theorem State.taken_largestFrame (s : State) (h : CmdHdr) (f : EFlow) : (s.taken h).largestFrame f = s.largestFrame f := rfl
@[simp] theorem State.taken_gateFlow (s : State) (h : CmdHdr) (flow : Nat) : (s.taken h).gateFlow flow = s.gateFlow flow := rfl
@[simp] theorem State.taken_portFlows (s : State) (h : CmdHdr) (port : Nat) : (s.taken h).portFlows port = s.portFlows port := rfl
@[simp] theorem State.taken_timeReached (s : State) (h : CmdHdr) (v : Nat) : (s.taken h).timeReached v = s.timeReached v := rfl
@[simp] theorem State.taken_ageOf (s : State) (h : CmdHdr) (v : Nat) : (s.taken h).ageOf v = s.ageOf v := rfl
@[simp] theorem State.taken_headEligible (s : State) (h : CmdHdr) (flow : Nat) : (s.taken h).headEligible flow = s.headEligible flow := rfl
@[simp] theorem State.taken_nowC (s : State) (h : CmdHdr) : (s.taken h).nowC = s.nowC := rfl
@[simp] theorem State.taken_offer (s : State) (h : CmdHdr) (flows : List Nat) (cls : Nat) : (s.taken h).offer flows cls = s.offer flows cls := rfl
@[simp] theorem State.taken_guardLets (s : State) (h : CmdHdr) (port flow : Nat) : (s.taken h).guardLets port flow = s.guardLets port flow := rfl
@[simp] theorem State.taken_gateOpen (s : State) (h : CmdHdr) (port cls : Nat) : (s.taken h).gateOpen port cls = s.gateOpen port cls := rfl
@[simp] theorem State.taken_ptpOffset (s : State) (h : CmdHdr) (port : Nat) : (s.taken h).ptpOffset port = s.ptpOffset port := rfl
@[simp] theorem State.taken_field (s : State) (h : CmdHdr) (a lo w : Nat) : (s.taken h).field a lo w = s.field a lo w := rfl
@[simp] theorem State.taken_pair (s : State) (h : CmdHdr) (a : Nat) : (s.taken h).pair a = s.pair a := rfl
@[simp] theorem State.taken_lowToCommit (s : State) (h : CmdHdr) (r : Requester) (a : Nat) : (s.taken h).lowToCommit r a = s.lowToCommit r a := rfl
@[simp] theorem State.taken_sramRead (s : State) (h : CmdHdr) (a n : Nat) : (s.taken h).sramRead a n = s.sramRead a n := rfl
@[simp] theorem State.taken_hbmRead (s : State) (h : CmdHdr) (a n : Nat) : (s.taken h).hbmRead a n = s.hbmRead a n := rfl
@[simp] theorem State.taken_shwRead (s : State) (h : CmdHdr) (a n : Nat) : (s.taken h).shwRead a n = s.shwRead a n := rfl
@[simp] theorem State.taken_nowQ (s : State) (h : CmdHdr) : (s.taken h).nowQ = s.nowQ := rfl
@[simp] theorem State.taken_anyLive (s : State) (h : CmdHdr) : (s.taken h).anyLive = s.anyLive := rfl
@[simp] theorem State.taken_kindClass (s : State) (h : CmdHdr) (k : Nat) : (s.taken h).kindClass k = s.kindClass k := rfl
@[simp] theorem State.taken_spaceRead (s : State) (h : CmdHdr) (sp : Space) (a n : Nat) : (s.taken h).spaceRead sp a n = s.spaceRead sp a n := rfl
@[simp] theorem State.taken_dbArea (s : State) (h : CmdHdr) : (s.taken h).dbArea = s.dbArea := rfl
@[simp] theorem State.taken_dbRecord (s : State) (h : CmdHdr) (q : Nat) : (s.taken h).dbRecord q = s.dbRecord q := rfl
@[simp] theorem State.taken_headEntry (s : State) (h : CmdHdr) (q : Nat) : (s.taken h).headEntry q = s.headEntry q := rfl
@[simp] theorem State.taken_eventQueue (s : State) (h : CmdHdr) (ch : Nat) : (s.taken h).eventQueue ch = s.eventQueue ch := rfl
@[simp] theorem State.taken_tambEnabled (s : State) (h : CmdHdr) (n : Nat) : (s.taken h).tambEnabled n = s.tambEnabled n := rfl
@[simp] theorem State.taken_sourceLevel (s : State) (h : CmdHdr) (i : Nat) : (s.taken h).sourceLevel i = s.sourceLevel i := rfl
@[simp] theorem State.taken_wordLives (s : State) (h : CmdHdr) (i : BandId) (w : SpoutWord) : (s.taken h).wordLives i w = s.wordLives i w := rfl
@[simp] theorem State.taken_ownedEntry (s : State) (h : CmdHdr) (q : Nat) : (s.taken h).ownedEntry q = s.ownedEntry q := rfl
@[simp] theorem State.taken_captureInfo (s : State) (h : CmdHdr) (i : BandId) : (s.taken h).captureInfo i = s.captureInfo i := rfl
@[simp] theorem State.taken_soloActive (s : State) (h : CmdHdr) (c p : Nat) : (s.taken h).soloActive c p = s.soloActive c p := rfl
@[simp] theorem State.taken_activeFlows (s : State) (h : CmdHdr) (c p : Nat) : (s.taken h).activeFlows c p = s.activeFlows c p := rfl
@[simp] theorem State.taken_releaseStep (s : State) (h : CmdHdr) (i : BandId) : (s.taken h).releaseStep i = s.releaseStep i := rfl
@[simp] theorem State.taken_dueBands (s : State) (h : CmdHdr) (c : Nat) : (s.taken h).dueBands c = s.dueBands c := rfl
@[simp] theorem State.taken_memOf (s : State) (h : CmdHdr) (sp : Nat) : (s.taken h).memOf sp = s.memOf sp := rfl
@[simp] theorem State.taken_bytesFrom (s : State) (h : CmdHdr) (sp a n : Nat) : (s.taken h).bytesFrom sp a n = s.bytesFrom sp a n := rfl
@[simp] theorem State.taken_mirrorsOf (s : State) (h : CmdHdr) (t : Nat) : (s.taken h).mirrorsOf t = s.mirrorsOf t := rfl
@[simp] theorem State.taken_tpText (s : State) (h : CmdHdr) (c : Nat) : (s.taken h).tpText c = s.tpText c := rfl
@[simp] theorem State.taken_sdpText (s : State) (h : CmdHdr) (c : Nat) (gm : List Nat) : (s.taken h).sdpText c gm = s.sdpText c gm := rfl
@[simp] theorem State.taken_freeQ (s : State) (h : CmdHdr) (t : Nat) : (s.taken h).freeQ t = s.freeQ t := rfl
@[simp] theorem State.taken_deviceReply (s : State) (h : CmdHdr) : (s.taken h).deviceReply = s.deviceReply := rfl
@[simp] theorem State.taken_channelReply (s : State) (h : CmdHdr) (c : Nat) : (s.taken h).channelReply c = s.channelReply c := rfl
@[simp] theorem State.taken_logReply (s : State) (h : CmdHdr) : (s.taken h).logReply = s.logReply := rfl
@[simp] theorem State.taken_heqInUse (s : State) (h : CmdHdr) (q : Nat) : (s.taken h).heqInUse q = s.heqInUse q := rfl
@[simp] theorem State.taken_hbrInUse (s : State) (h : CmdHdr) (q : Nat) : (s.taken h).hbrInUse q = s.hbrInUse q := rfl
@[simp] theorem State.taken_hcqBound (s : State) (h : CmdHdr) (q : Nat) : (s.taken h).hcqBound q = s.hcqBound q := rfl
@[simp] theorem State.taken_destroyRefusal (s : State) (h : CmdHdr) (q : Nat) : (s.taken h).destroyRefusal q = s.destroyRefusal q := rfl
@[simp] theorem State.taken_queueBusy (s : State) (h : CmdHdr) (q : Nat) : (s.taken h).queueBusy q = s.queueBusy q := rfl
@[simp] theorem State.taken_band (s : State) (h : CmdHdr) (i : BandId) : (s.taken h).band i = s.band i := rfl
@[simp] theorem State.taken_pktPixels (s : State) (h : CmdHdr) (c : Nat) : (s.taken h).pktPixels c = s.pktPixels c := rfl
@[simp] theorem State.taken_fuseRefused (s : State) (h : CmdHdr) (w key : Nat) : (s.taken h).fuseRefused w key = s.fuseRefused w key := rfl
@[simp] theorem State.taken_gated (s : State) (h : CmdHdr) (id : Nat) : (s.taken h).gated id = s.gated id := rfl
@[simp] theorem State.taken_slewLimit (s : State) (h : CmdHdr) : (s.taken h).slewLimit = s.slewLimit := rfl
@[simp] theorem State.taken_sensor (s : State) (h : CmdHdr) (n : Nat) : (s.taken h).sensor n = s.sensor n := rfl
@[simp] theorem State.taken_validSensors (s : State) (h : CmdHdr) : (s.taken h).validSensors = s.validSensors := rfl
@[simp] theorem State.taken_channelSubs (s : State) (h : CmdHdr) (c k : Nat) : (s.taken h).channelSubs c k = s.channelSubs c k := rfl
@[simp] theorem State.taken_outcomeSettled (s : State) (h : CmdHdr) (i : BandId) : (s.taken h).outcomeSettled i = s.outcomeSettled i := rfl
@[simp] theorem State.taken_statsRing (s : State) (h : CmdHdr) (q : Nat) : (s.taken h).statsRing q = s.statsRing q := rfl
@[simp] theorem State.taken_subSourceCheck (s : State) (h : CmdHdr) (qid kind source : Nat) : (s.taken h).subSourceCheck qid kind source = s.subSourceCheck qid kind source := rfl
@[simp] theorem State.taken_flowRecord (s : State) (h : CmdHdr) (u : Sub) (part : Bool) : (s.taken h).flowRecord u part = s.flowRecord u part := rfl
@[simp] theorem State.taken_portRecord (s : State) (h : CmdHdr) (u : Sub) : (s.taken h).portRecord u = s.portRecord u := rfl
@[simp] theorem State.taken_recordsFlow (s : State) (h : CmdHdr) (u : Sub) : (s.taken h).recordsFlow u = s.recordsFlow u := rfl
@[simp] theorem State.taken_sourcePort (s : State) (h : CmdHdr) (u : Sub) : (s.taken h).sourcePort u = s.sourcePort u := rfl
@[simp] theorem State.taken_incAdj (s : State) (h : CmdHdr) : (s.taken h).incAdj = s.incAdj := rfl
@[simp] theorem State.taken_maySteer (s : State) (h : CmdHdr) (who : Requester) : (s.taken h).maySteer who = s.maySteer who := rfl
@[simp] theorem State.taken_ptpPort (s : State) (h : CmdHdr) (n : Nat) : (s.taken h).ptpPort n = s.ptpPort n := rfl
@[simp] theorem State.taken_sourceAvailable (s : State) (h : CmdHdr) : (s.taken h).sourceAvailable = s.sourceAvailable := rfl
@[simp] theorem State.taken_timeCode (s : State) (h : CmdHdr) : (s.taken h).timeCode = s.timeCode := rfl
@[simp] theorem State.taken_rateSpan (s : State) (h : CmdHdr) : (s.taken h).rateSpan = s.rateSpan := rfl
@[simp] theorem State.taken_oscCode (s : State) (h : CmdHdr) (c : Nat) : (s.taken h).oscCode c = s.oscCode c := rfl
@[simp] theorem State.taken_tout (s : State) (h : CmdHdr) (n : Nat) : (s.taken h).tout n = s.tout n := rfl
@[simp] theorem State.taken_loadTout (s : State) (h : CmdHdr) (n : Nat) : (s.taken h).loadTout n = s.loadTout n := rfl
@[simp] theorem State.taken_twinReady (s : State) (h : CmdHdr) : (s.taken h).twinReady = s.twinReady := rfl
@[simp] theorem State.taken_helloMsg (s : State) (h : CmdHdr) : (s.taken h).helloMsg = s.helloMsg := rfl
@[simp] theorem State.taken_awaitsHello (s : State) (h : CmdHdr) : (s.taken h).awaitsHello = s.awaitsHello := rfl
@[simp] theorem State.taken_sessionOk (s : State) (h : CmdHdr) (f : RxTwilan) : (s.taken h).sessionOk f = s.sessionOk f := rfl
@[simp] theorem State.taken_beforeResync (s : State) (h : CmdHdr) (i : BandId) : (s.taken h).beforeResync i = s.beforeResync i := rfl
@[simp] theorem State.taken_unjudged (s : State) (h : CmdHdr) (c : Nat) : (s.taken h).unjudged c = s.unjudged c := rfl
@[simp] theorem State.taken_roleFollower (s : State) (h : CmdHdr) : (s.taken h).roleFollower = s.roleFollower := rfl
@[simp] theorem State.taken_encodeLive (s : State) (h : CmdHdr) : (s.taken h).encodeLive = s.encodeLive := rfl
@[simp] theorem State.taken_twinStartOut (s : State) (h : CmdHdr) : (s.taken h).twinStartOut = s.twinStartOut := rfl
@[simp] theorem State.taken_twinOut (s : State) (h : CmdHdr) : (s.taken h).twinOut = s.twinOut := rfl
@[simp] theorem State.taken_fwDigest (s : State) (h : CmdHdr) : (s.taken h).fwDigest = s.fwDigest := rfl
@[simp] theorem State.taken_enabledStores (s : State) (h : CmdHdr) : (s.taken h).enabledStores = s.enabledStores := rfl
@[simp] theorem State.taken_checkMsg (s : State) (h : CmdHdr) : (s.taken h).checkMsg = s.checkMsg := rfl
@[simp] theorem State.taken_checkCause (s : State) (h : CmdHdr) (version part : Nat) (leader : Bool) (vendor opened : List Nat) (firmware : Nat) : (s.taken h).checkCause version part leader vendor opened firmware = s.checkCause version part leader vendor opened firmware := rfl
@[simp] theorem State.taken_startLimit (s : State) (h : CmdHdr) : (s.taken h).startLimit = s.startLimit := rfl
@[simp] theorem State.taken_ownArm (s : State) (h : CmdHdr) (c : Nat) : (s.taken h).ownArm c = s.ownArm c := rfl
@[simp] theorem State.taken_peerArm (s : State) (h : CmdHdr) (c : Nat) : (s.taken h).peerArm c = s.peerArm c := rfl
@[simp] theorem State.taken_headBandId (s : State) (h : CmdHdr) (v : Nat) : (s.taken h).headBandId v = s.headBandId v := rfl
@[simp] theorem State.taken_reconData (s : State) (h : CmdHdr) (i : BandId) (k : Nat) : (s.taken h).reconData i k = s.reconData i k := rfl
@[simp] theorem State.taken_reconLimit (s : State) (h : CmdHdr) : (s.taken h).reconLimit = s.reconLimit := rfl
@[simp] theorem State.taken_paired (s : State) (h : CmdHdr) (c : Nat) : (s.taken h).paired c = s.paired c := rfl
@[simp] theorem State.taken_pairedBand (s : State) (h : CmdHdr) (i : BandId) : (s.taken h).pairedBand i = s.pairedBand i := rfl
@[simp] theorem State.taken_devIdent (s : State) (h : CmdHdr) : (s.taken h).devIdent = s.devIdent := rfl
@[simp] theorem State.taken_devCaps (s : State) (h : CmdHdr) : (s.taken h).devCaps = s.devCaps := rfl
@[simp] theorem State.taken_viewRst (s : State) (h : CmdHdr) (o : Nat) : (s.taken h).viewRst o = s.viewRst o := rfl
@[simp] theorem State.taken_viewFuse (s : State) (h : CmdHdr) (o : Nat) : (s.taken h).viewFuse o = s.viewFuse o := rfl
@[simp] theorem State.taken_viewFlt (s : State) (h : CmdHdr) (o : Nat) : (s.taken h).viewFlt o = s.viewFlt o := rfl
@[simp] theorem State.taken_viewIrq (s : State) (h : CmdHdr) (o : Nat) : (s.taken h).viewIrq o = s.viewIrq o := rfl
@[simp] theorem State.taken_viewTime (s : State) (h : CmdHdr) (o : Nat) : (s.taken h).viewTime o = s.viewTime o := rfl
@[simp] theorem State.taken_viewHost (s : State) (h : CmdHdr) (o : Nat) : (s.taken h).viewHost o = s.viewHost o := rfl
@[simp] theorem State.taken_viewCis (s : State) (h : CmdHdr) (o : Nat) : (s.taken h).viewCis o = s.viewCis o := rfl
@[simp] theorem State.taken_viewWel (s : State) (h : CmdHdr) (o : Nat) : (s.taken h).viewWel o = s.viewWel o := rfl
@[simp] theorem State.taken_viewPmp (s : State) (h : CmdHdr) (o : Nat) : (s.taken h).viewPmp o = s.viewPmp o := rfl
@[simp] theorem State.taken_viewNet (s : State) (h : CmdHdr) (o : Nat) : (s.taken h).viewNet o = s.viewNet o := rfl
@[simp] theorem State.taken_viewTwn (s : State) (h : CmdHdr) (o : Nat) : (s.taken h).viewTwn o = s.viewTwn o := rfl
@[simp] theorem State.taken_viewTmb (s : State) (h : CmdHdr) (t o : Nat) : (s.taken h).viewTmb t o = s.viewTmb t o := rfl
@[simp] theorem State.taken_viewPrk (s : State) (h : CmdHdr) (t o : Nat) : (s.taken h).viewPrk t o = s.viewPrk t o := rfl
@[simp] theorem State.taken_viewHbm (s : State) (h : CmdHdr) (o : Nat) : (s.taken h).viewHbm o = s.viewHbm o := rfl
@[simp] theorem State.taken_viewBar2 (s : State) (h : CmdHdr) (o : Nat) : (s.taken h).viewBar2 o = s.viewBar2 o := rfl
@[simp] theorem State.taken_viewOutside (s : State) (h : CmdHdr) (who : Requester) (a : Nat) : (s.taken h).viewOutside who a = s.viewOutside who a := rfl
@[simp] theorem State.taken_viewPair (s : State) (h : CmdHdr) (a : Nat) : (s.taken h).viewPair a = s.viewPair a := rfl
@[simp] theorem State.taken_well (s : State) (h : CmdHdr) (w : WellSel) : (s.taken h).well w = s.well w := rfl
@[simp] theorem State.taken_wellSize (s : State) (h : CmdHdr) (w : WellSel) : (s.taken h).wellSize w = s.wellSize w := rfl
@[simp] theorem State.taken_reserve (s : State) (h : CmdHdr) (w : WellSel) (o : Nat) : (s.taken h).reserve w o = s.reserve w o := rfl
@[simp] theorem State.taken_limit (s : State) (h : CmdHdr) (w : WellSel) (o : Nat) : (s.taken h).limit w o = s.limit w o := rfl
@[simp] theorem State.taken_wellFree (s : State) (h : CmdHdr) (w : WellSel) : (s.taken h).wellFree w = s.wellFree w := rfl
@[simp] theorem State.taken_unmet (s : State) (h : CmdHdr) (w : WellSel) : (s.taken h).unmet w = s.unmet w := rfl
@[simp] theorem State.taken_allocRule (s : State) (h : CmdHdr) (w : WellSel) (o : Nat) : (s.taken h).allocRule w o = s.allocRule w o := rfl
@[simp] theorem State.taken_linkBad (s : State) (h : CmdHdr) (i : Nat) : (s.taken h).linkBad i = s.linkBad i := rfl
@[simp] theorem State.taken_freeCheck (s : State) (h : CmdHdr) (w : WellSel) (addr owner : Nat) : (s.taken h).freeCheck w addr owner = s.freeCheck w addr owner := rfl
@[simp] theorem State.taken_reserveSum (s : State) (h : CmdHdr) (w : WellSel) (o new : Nat) : (s.taken h).reserveSum w o new = s.reserveSum w o new := rfl
@[simp] theorem State.taken_quotaOk (s : State) (h : CmdHdr) (w : WellSel) (o reserve limit : Nat) : (s.taken h).quotaOk w o reserve limit = s.quotaOk w o reserve limit := rfl
@[simp] theorem State.taken_efqEntries (s : State) (h : CmdHdr) (flow : Nat) : (s.taken h).efqEntries flow = s.efqEntries flow := rfl
@[simp] theorem State.taken_flowHolds (s : State) (h : CmdHdr) (cell flow : Nat) : (s.taken h).flowHolds cell flow = s.flowHolds cell flow := rfl
@[simp] theorem State.taken_refsOf (s : State) (h : CmdHdr) (i : BandId) : (s.taken h).refsOf i = s.refsOf i := rfl
@[simp] theorem State.taken_windowReady (s : State) (h : CmdHdr) (t : Nat) (i : BandId) : (s.taken h).windowReady t i = s.windowReady t i := rfl
@[simp] theorem State.taken_refusedEntry (s : State) (h : CmdHdr) (sq v : Nat) : (s.taken h).refusedEntry sq v = s.refusedEntry sq v := rfl
@[simp] theorem State.taken_pollTime (s : State) (h : CmdHdr) : (s.taken h).pollTime = s.pollTime := rfl
@[simp] theorem State.taken_pollEvery (s : State) (h : CmdHdr) : (s.taken h).pollEvery = s.pollEvery := rfl
@[simp] theorem State.taken_dueTick (s : State) (h : CmdHdr) : (s.taken h).dueTick = s.dueTick := rfl
@[simp] theorem State.taken_pollDue (s : State) (h : CmdHdr) : (s.taken h).pollDue = s.pollDue := rfl
@[simp] theorem State.taken_flowCfg (s : State) (h : CmdHdr) (n : Nat) : (s.taken h).flowCfg n = s.flowCfg n := rfl
@[simp] theorem State.taken_flowCmax (s : State) (h : CmdHdr) (n : Nat) : (s.taken h).flowCmax n = s.flowCmax n := rfl
@[simp] theorem State.taken_flowVrxFull (s : State) (h : CmdHdr) (n : Nat) : (s.taken h).flowVrxFull n = s.flowVrxFull n := rfl
@[simp] theorem State.taken_flowArrival (s : State) (h : CmdHdr) (n at_ ts aligned k : Nat) : (s.taken h).flowArrival n at_ ts aligned k = s.flowArrival n at_ ts aligned k := rfl
@[simp] theorem State.taken_subOf (s : State) (h : CmdHdr) (u : Sub) : (s.taken h).subOf u = s.subOf u := rfl
@[simp] theorem State.taken_enc (s : State) (h : CmdHdr) (t : Nat) (i : BandId) : (s.taken h).enc t i = s.enc t i := rfl
@[simp] theorem State.taken_observed (s : State) (h : CmdHdr) (t : Nat) (i : BandId) : (s.taken h).observed t i = s.observed t i := rfl
@[simp] theorem State.taken_emitted (s : State) (h : CmdHdr) (t : Nat) (i : BandId) : (s.taken h).emitted t i = s.emitted t i := rfl
@[simp] theorem State.taken_observe (s : State) (h : CmdHdr) (tamb : Nat) (i : BandId) (hook n : Nat) : (s.taken h).observe tamb i hook n = s.observe tamb i hook n := rfl
@[simp] theorem State.taken_resyncChosen (s : State) (h : CmdHdr) (i : BandId) : (s.taken h).resyncChosen i = s.resyncChosen i := rfl
@[simp] theorem State.taken_queued (s : State) (h : CmdHdr) (ty : QType) : (s.taken h).queued ty = s.queued ty := rfl
@[simp] theorem State.taken_portQueued (s : State) (h : CmdHdr) (n : Nat) : (s.taken h).portQueued n = s.portQueued n := rfl
@[simp] theorem State.taken_coreBusy (s : State) (h : CmdHdr) (c : Nat) : (s.taken h).coreBusy c = s.coreBusy c := rfl
@[simp] theorem State.taken_fclkBusy (s : State) (h : CmdHdr) (id : Nat) : (s.taken h).fclkBusy id = s.fclkBusy id := rfl
@[simp] theorem State.taken_powerBusy (s : State) (h : CmdHdr) (b : PwrBlock) : (s.taken h).powerBusy b = s.powerBusy b := rfl
@[simp] theorem State.taken_loadedBand (s : State) (h : CmdHdr) (t : Nat) : (s.taken h).loadedBand t = s.loadedBand t := rfl
@[simp] theorem State.taken_backedUp (s : State) (h : CmdHdr) (c : Nat) : (s.taken h).backedUp c = s.backedUp c := rfl
@[simp] theorem State.taken_stampT (s : State) (h : CmdHdr) (v : Nat) : (s.taken h).stampT v = s.stampT v := rfl
@[simp] theorem State.taken_forFirmware (s : State) (h : CmdHdr) (port : Nat) (f : RxFrame) (i : RxInfo) : (s.taken h).forFirmware port f i = s.forFirmware port f i := rfl
@[simp] theorem State.taken_copyOrder (s : State) (h : CmdHdr) (flow : Nat) : (s.taken h).copyOrder flow = s.copyOrder flow := rfl
@[simp] theorem State.taken_earlierCopy (s : State) (h : CmdHdr) (flow : Nat) : (s.taken h).earlierCopy flow = s.earlierCopy flow := rfl
@[simp] theorem State.taken_clockClass (s : State) (h : CmdHdr) : (s.taken h).clockClass = s.clockClass := rfl
@[simp] theorem State.taken_announceBody (s : State) (h : CmdHdr) (identity : Nat) : (s.taken h).announceBody identity = s.announceBody identity := rfl
@[simp] theorem State.taken_metadataBody (s : State) (h : CmdHdr) (rate : List Nat) : (s.taken h).metadataBody rate = s.metadataBody rate := rfl
@[simp] theorem State.taken_vendorDigests (s : State) (h : CmdHdr) : (s.taken h).vendorDigests = s.vendorDigests := rfl
@[simp] theorem State.taken_openDigests (s : State) (h : CmdHdr) : (s.taken h).openDigests = s.openDigests := rfl
@[simp] theorem State.taken_exchangeDue (s : State) (h : CmdHdr) : (s.taken h).exchangeDue = s.exchangeDue := rfl
@[simp] theorem State.taken_flashFine (s : State) (h : CmdHdr) (e : FlashEntry) : (s.taken h).flashFine e = s.flashFine e := rfl

/-! ## State.setWdog (R531) -/

@[simp] theorem State.setWdog_pending (s : State) (c : Nat) (w : Wdog) : (s.setWdog c w).pending = s.pending := rfl
@[simp] theorem State.setWdog_regs (s : State) (c : Nat) (w : Wdog) : (s.setWdog c w).regs = s.regs := rfl
@[simp] theorem State.setWdog_heldLow (s : State) (c : Nat) (w : Wdog) : (s.setWdog c w).heldLow = s.heldLow := rfl
@[simp] theorem State.setWdog_latchedHi (s : State) (c : Nat) (w : Wdog) : (s.setWdog c w).latchedHi = s.latchedHi := rfl
@[simp] theorem State.setWdog_lastRead (s : State) (c : Nat) (w : Wdog) : (s.setWdog c w).lastRead = s.lastRead := rfl
@[simp] theorem State.setWdog_hostMem (s : State) (c : Nat) (w : Wdog) : (s.setWdog c w).hostMem = s.hostMem := rfl
@[simp] theorem State.setWdog_hostBad (s : State) (c : Nat) (w : Wdog) : (s.setWdog c w).hostBad = s.hostBad := rfl
@[simp] theorem State.setWdog_hbmMem (s : State) (c : Nat) (w : Wdog) : (s.setWdog c w).hbmMem = s.hbmMem := rfl
@[simp] theorem State.setWdog_sram (s : State) (c : Nat) (w : Wdog) : (s.setWdog c w).sram = s.sram := rfl
@[simp] theorem State.setWdog_shw (s : State) (c : Nat) (w : Wdog) : (s.setWdog c w).shw = s.shw := rfl
@[simp] theorem State.setWdog_ctx (s : State) (c : Nat) (w : Wdog) : (s.setWdog c w).ctx = s.ctx := rfl
@[simp] theorem State.setWdog_host (s : State) (c : Nat) (w : Wdog) : (s.setWdog c w).host = s.host := rfl
@[simp] theorem State.setWdog_queues (s : State) (c : Nat) (w : Wdog) : (s.setWdog c w).queues = s.queues := rfl
@[simp] theorem State.setWdog_irq (s : State) (c : Nat) (w : Wdog) : (s.setWdog c w).irq = s.irq := rfl
@[simp] theorem State.setWdog_flt (s : State) (c : Nat) (w : Wdog) : (s.setWdog c w).flt = s.flt := rfl
@[simp] theorem State.setWdog_cellWell (s : State) (c : Nat) (w : Wdog) : (s.setWdog c w).cellWell = s.cellWell := rfl
@[simp] theorem State.setWdog_pageWell (s : State) (c : Nat) (w : Wdog) : (s.setWdog c w).pageWell = s.pageWell := rfl
@[simp] theorem State.setWdog_fuse (s : State) (c : Nat) (w : Wdog) : (s.setWdog c w).fuse = s.fuse := rfl
@[simp] theorem State.setWdog_pwr (s : State) (c : Nat) (w : Wdog) : (s.setWdog c w).pwr = s.pwr := rfl
@[simp] theorem State.setWdog_sensors (s : State) (c : Nat) (w : Wdog) : (s.setWdog c w).sensors = s.sensors := rfl
@[simp] theorem State.setWdog_time (s : State) (c : Nat) (w : Wdog) : (s.setWdog c w).time = s.time := rfl
@[simp] theorem State.setWdog_hbm (s : State) (c : Nat) (w : Wdog) : (s.setWdog c w).hbm = s.hbm := rfl
@[simp] theorem State.setWdog_pumps (s : State) (c : Nat) (w : Wdog) : (s.setWdog c w).pumps = s.pumps := rfl
@[simp] theorem State.setWdog_pulses (s : State) (c : Nat) (w : Wdog) : (s.setWdog c w).pulses = s.pulses := rfl
@[simp] theorem State.setWdog_spouts (s : State) (c : Nat) (w : Wdog) : (s.setWdog c w).spouts = s.spouts := rfl
@[simp] theorem State.setWdog_net (s : State) (c : Nat) (w : Wdog) : (s.setWdog c w).net = s.net := rfl
@[simp] theorem State.setWdog_ck (s : State) (c : Nat) (w : Wdog) : (s.setWdog c w).ck = s.ck := rfl
@[simp] theorem State.setWdog_codec (s : State) (c : Nat) (w : Wdog) : (s.setWdog c w).codec = s.codec := rfl
@[simp] theorem State.setWdog_twin (s : State) (c : Nat) (w : Wdog) : (s.setWdog c w).twin = s.twin := rfl
@[simp] theorem State.setWdog_prk (s : State) (c : Nat) (w : Wdog) : (s.setWdog c w).prk = s.prk := rfl
@[simp] theorem State.setWdog_prkLoad (s : State) (c : Nat) (w : Wdog) : (s.setWdog c w).prkLoad = s.prkLoad := rfl
@[simp] theorem State.setWdog_fw (s : State) (c : Nat) (w : Wdog) : (s.setWdog c w).fw = s.fw := rfl
@[simp] theorem State.setWdog_faultN (s : State) (c : Nat) (w : Wdog) : (s.setWdog c w).faultN = s.faultN := rfl
@[simp] theorem State.setWdog_yieldN (s : State) (c : Nat) (w : Wdog) : (s.setWdog c w).yieldN = s.yieldN := rfl
@[simp] theorem State.setWdog_freeCount (s : State) (c : Nat) (w : Wdog) : (s.setWdog c w).freeCount = s.freeCount := rfl
@[simp] theorem State.setWdog_rst_state (s : State) (c : Nat) (w : Wdog) : (s.setWdog c w).rst.state = s.rst.state := rfl
@[simp] theorem State.setWdog_rst_asserted (s : State) (c : Nat) (w : Wdog) : (s.setWdog c w).rst.asserted = s.rst.asserted := rfl
@[simp] theorem State.setWdog_rst_pulses (s : State) (c : Nat) (w : Wdog) : (s.setWdog c w).rst.pulses = s.rst.pulses := rfl
@[simp] theorem State.setWdog_rst_swLevel (s : State) (c : Nat) (w : Wdog) : (s.setWdog c w).rst.swLevel = s.rst.swLevel := rfl
@[simp] theorem State.setWdog_rst_deepest (s : State) (c : Nat) (w : Wdog) : (s.setWdog c w).rst.deepest = s.rst.deepest := rfl
@[simp] theorem State.setWdog_rst_level (s : State) (c : Nat) (w : Wdog) : (s.setWdog c w).rst.level = s.rst.level := rfl
@[simp] theorem State.setWdog_rst_seen (s : State) (c : Nat) (w : Wdog) : (s.setWdog c w).rst.seen = s.rst.seen := rfl
@[simp] theorem State.setWdog_rst_first (s : State) (c : Nat) (w : Wdog) : (s.setWdog c w).rst.first = s.rst.first := rfl
@[simp] theorem State.setWdog_rst_causeLevel (s : State) (c : Nat) (w : Wdog) : (s.setWdog c w).rst.causeLevel = s.rst.causeLevel := rfl
@[simp] theorem State.setWdog_rst_optRestart (s : State) (c : Nat) (w : Wdog) : (s.setWdog c w).rst.optRestart = s.rst.optRestart := rfl
@[simp] theorem State.setWdog_rst_fuseWait (s : State) (c : Nat) (w : Wdog) : (s.setWdog c w).rst.fuseWait = s.rst.fuseWait := rfl
@[simp] theorem State.setWdog_rst_episodes (s : State) (c : Nat) (w : Wdog) : (s.setWdog c w).rst.episodes = s.rst.episodes := rfl
@[simp] theorem State.setWdog_rst_blk (s : State) (c : Nat) (w : Wdog) : (s.setWdog c w).rst.blk = s.rst.blk := rfl
@[simp] theorem State.setWdog_rst_selfTest (s : State) (c : Nat) (w : Wdog) : (s.setWdog c w).rst.selfTest = s.rst.selfTest := rfl
@[simp] theorem State.setWdog_rst_twinRole (s : State) (c : Nat) (w : Wdog) : (s.setWdog c w).rst.twinRole = s.rst.twinRole := rfl
@[simp] theorem State.setWdog_rst_clkHeld (s : State) (c : Nat) (w : Wdog) : (s.setWdog c w).rst.clkHeld = s.rst.clkHeld := rfl
@[simp] theorem State.setWdog_rst_wdogs (s : State) (c : Nat) (w : Wdog) : (s.setWdog c w).rst.wdogs = SMap.set (fun _ => {}) s.rst.wdogs c w := rfl

end Sys2Proof.Machine
end

