-- ==== Sys2Proof/Laws/HostCommands.lean ====
section
/-!
SUPPORT. What a host command does, said once: it waits, it is answered without its body, or its body runs (R284–R290, R477).
-/
namespace Sys2Proof.Machine

/-- A command whose queue is not ready, or whose entry is not the next one there, does nothing. -/
theorem hostCmd_unready (c : Instr) (h : CmdHdr) (admin inHold waits : Bool) (body : Nat → State → State × Option Reply) (s : State) (hr : s.canTake c h = false) :
    hostCmd c h admin inHold waits body s = s := by
  unfold hostCmd
  exact if_pos (.inl hr)

/-- A command that waits for an outstanding deferred command does nothing yet. -/
theorem hostCmd_waits (c : Instr) (h : CmdHdr) (admin inHold : Bool) (body : Nat → State → State × Option Reply) (s : State) :
    hostCmd c h admin inHold true body s = s := by
  unfold hostCmd
  exact if_pos (.inr rfl)

/-- In diagnostic hold a command other than QUERY and RESET is answered with BAD_STATE. -/
theorem hostCmd_hold (c : Instr) (h : CmdHdr) (admin : Bool) (body : Nat → State → State × Option Reply) (s : State) (hr : s.canTake c h = true)
    (hb : h.badCopies = 0) (hd : s.rst.state = .diagHold) :
    hostCmd c h admin false false body s = s.answered (s.taken h) h { status := St.badState } := by
  have hd' : (s.dropFetched h.sq).rst.state = .diagHold := hd
  have n1 : ¬ 1 ≤ h.badCopies := by omega
  have n2 : ¬ 2 ≤ h.badCopies := by omega
  unfold hostCmd
  rw [if_neg (by simp [hr])]
  simp only [n1, n2, if_false, hd', and_self, if_true]
  rfl

/-- An admin command on another queue than QID 0 is answered with BAD_OPCODE. -/
theorem hostCmd_admin (c : Instr) (h : CmdHdr) (inHold : Bool) (body : Nat → State → State × Option Reply) (s : State) (hr : s.ready c h) (hq : h.sq ≠ 0) :
    hostCmd c h true inHold false body s = s.answered (s.taken h) h (Reply.field St.badOpcode 0) := by
  obtain ⟨h1, h2, h3⟩ := hr
  have h3' : (s.dropFetched h.sq).rst.state ≠ .diagHold := h3
  have n1 : ¬ 1 ≤ h.badCopies := by omega
  have n2 : ¬ 2 ≤ h.badCopies := by omega
  unfold hostCmd
  rw [if_neg (by simp [h1])]
  simp only [n1, n2, if_false, h3', false_and, hq, ne_eq, not_false_eq_true, and_self, if_true]
  rfl

/-- A command both of whose copies fail their checks is answered with DMA_ERROR. -/
theorem hostCmd_bad (c : Instr) (h : CmdHdr) (admin inHold : Bool) (body : Nat → State → State × Option Reply) (s : State) (hr : s.canTake c h = true)
    (hb : h.badCopies = 2) (hd : s.rst.state ≠ .diagHold) (ha : admin = false ∨ h.sq = 0) :
    hostCmd c h admin inHold false body s =
      s.answered (((s.taken h).raise Src.cmdCheck Kind.cmdCheckBad (s.entrySlot h.sq) h.sq).raise Src.cmdCheck
        Kind.cmdCheckBad (s.entrySlot h.sq) h.sq) h { status := St.dmaError } := by
  have hd' : ((((s.dropFetched h.sq).raise Src.cmdCheck Kind.cmdCheckBad (s.entrySlot h.sq) h.sq).raise Src.cmdCheck
        Kind.cmdCheckBad (s.entrySlot h.sq) h.sq)).rst.state ≠ .diagHold := hd
  have ha' : ¬ (admin = true ∧ h.sq ≠ 0) := by
    rcases ha with ha | ha <;> simp [ha]
  have h1 : 1 ≤ h.badCopies := by omega
  have h2 : 2 ≤ h.badCopies := by omega
  unfold hostCmd
  rw [if_neg (by simp [hr])]
  simp only [h1, h2, if_true, hd', false_and, if_false, ha']
  rfl

/-- A command that is ready runs its body on the state without its entry, and is answered. -/
theorem hostCmd_answered (c : Instr) (h : CmdHdr) (admin inHold waits : Bool) (body : Nat → State → State × Option Reply) (s : State) (hr : s.ready c h)
    (ha : admin = false ∨ h.sq = 0) (hw : waits = false) (u : State) (r : Reply) (hu : body (s.indexAfter h.sq) (s.taken h) = (u, some r)) :
    hostCmd c h admin inHold waits body s = s.answered u h r := by
  subst hw
  obtain ⟨h1, h2, h3⟩ := hr
  have h3' : (s.dropFetched h.sq).rst.state ≠ .diagHold := h3
  have ha' : ¬ (admin = true ∧ h.sq ≠ 0) := by
    rcases ha with ha | ha <;> simp [ha]
  have hu' : body (s.indexAfter h.sq) (s.dropFetched h.sq) = (u, some r) := hu
  have n1 : ¬ 1 ≤ h.badCopies := by omega
  have n2 : ¬ 2 ≤ h.badCopies := by omega
  unfold hostCmd
  rw [if_neg (by simp [h1])]
  simp only [n1, n2, if_false, h3', false_and, ha', hu']
  rfl

/-- A deferred command that is ready runs its body, and its completion comes later. -/
theorem hostCmd_left (c : Instr) (h : CmdHdr) (admin inHold waits : Bool) (body : Nat → State → State × Option Reply) (s : State) (hr : s.ready c h)
    (ha : admin = false ∨ h.sq = 0) (hw : waits = false) (u : State) (hu : body (s.indexAfter h.sq) (s.taken h) = (u, none)) :
    hostCmd c h admin inHold waits body s = s.left u h := by
  subst hw
  obtain ⟨h1, h2, h3⟩ := hr
  have h3' : (s.dropFetched h.sq).rst.state ≠ .diagHold := h3
  have ha' : ¬ (admin = true ∧ h.sq ≠ 0) := by
    rcases ha with ha | ha <;> simp [ha]
  have hu' : body (s.indexAfter h.sq) (s.dropFetched h.sq) = (u, none) := hu
  have n1 : ¬ 1 ≤ h.badCopies := by omega
  have n2 : ¬ 2 ≤ h.badCopies := by omega
  unfold hostCmd
  rw [if_neg (by simp [h1])]
  simp only [n1, n2, if_false, h3', false_and, ha', hu']
  rfl

/-- A command that always replies at once. -/
theorem plainCmd_answered (c : Instr) (h : CmdHdr) (admin : Bool) (body : State → State × Reply) (s : State) (hr : s.ready c h) (ha : admin = false ∨ h.sq = 0) :
    plainCmd c h admin body s = s.answered (body (s.taken h)).1 h (body (s.taken h)).2 :=
  hostCmd_answered c h admin false false _ s hr ha rfl _ _ rfl

end Sys2Proof.Machine
end

