-- ==== Sys2Proof/Laws/Memory.lean ====
section
/-!
SUPPORT. The canonical form of the tables and of the memories: every operation on them keeps it.
-/
namespace Sys2Proof.Machine

theorem SMap_wfAbove_weaken {V : Type} [DecidableEq V] (d : Nat → V) (m : SMap V) (b c : Option Nat)
    (hb : ∀ x, b = some x → ∃ y, c = some y ∧ x ≤ y) (h : SMap.wfAbove d c m = true) : SMap.wfAbove d b m = true := by
  cases m with
  | nil => rfl
  | cons e m =>
    obtain ⟨j, w⟩ := e
    simp only [SMap.wfAbove, Bool.and_eq_true] at h ⊢
    refine ⟨⟨?_, h.1.2⟩, h.2⟩
    cases b with
    | none => rfl
    | some x =>
      obtain ⟨y, hy, hxy⟩ := hb x rfl
      subst hy
      have h1 : y < j := by simpa using h.1.1
      simp; omega

theorem SMap_keep_wfAbove {V : Type} [DecidableEq V] (d : Nat → V) (p : Nat → Bool) (m : SMap V) (b : Option Nat)
    (h : SMap.wfAbove d b m = true) : SMap.wfAbove d b (SMap.keep p m) = true := by
  induction m generalizing b with
  | nil => rfl
  | cons e m ih =>
    obtain ⟨j, w⟩ := e
    simp only [SMap.wfAbove, Bool.and_eq_true] at h
    unfold SMap.keep at ih ⊢
    rw [List.filter_cons]
    split
    · simp only [SMap.wfAbove, Bool.and_eq_true]
      exact ⟨h.1, ih _ h.2⟩
    · refine SMap_wfAbove_weaken d _ b (some j) ?_ (ih _ h.2)
      intro x hx
      subst hx
      have h1 : x < j := by simpa using h.1.1
      exact ⟨j, rfl, by omega⟩

theorem SMap_set_wfAbove {V : Type} [DecidableEq V] (d : Nat → V) (m : SMap V) (k : Nat) (v : V) (b : Option Nat)
    (hb : ∀ x, b = some x → x < k) (h : SMap.wfAbove d b m = true) : SMap.wfAbove d b (SMap.set d m k v) = true := by
  induction m generalizing b with
  | nil =>
    unfold SMap.set
    split
    · exact h
    · cases b with
      | none => simp_all [SMap.wfAbove]
      | some x => simp_all [SMap.wfAbove]
  | cons e m ih =>
    obtain ⟨j, w⟩ := e
    unfold SMap.set
    unfold SMap.wfAbove at h
    simp only [Bool.and_eq_true] at h
    obtain ⟨⟨h1, h2⟩, h3⟩ := h
    split
    · split
      · simp [SMap.wfAbove, h1, h3]; simpa using h2
      · rename_i hlt hv
        cases b <;> simp_all [SMap.wfAbove]
    · split
      · rename_i hge heq
        subst heq
        split
        · refine SMap_wfAbove_weaken d _ b (some k) ?_ h3
          intro x hx
          exact ⟨k, rfl, Nat.le_of_lt (hb x hx)⟩
        · simp_all [SMap.wfAbove]
      · rename_i h4 h5
        simp only [SMap.wfAbove, Bool.and_eq_true]
        refine ⟨⟨h1, h2⟩, ih (some j) ?_ h3⟩
        intro x hx; cases hx; omega

/-- Writing an entry keeps the canonical form. -/
theorem SMap_set_wf {V : Type} [DecidableEq V] (d : Nat → V) (m : SMap V) (k : Nat) (v : V) (h : SMap.wf d m = true) :
    SMap.wf d (SMap.set d m k v) = true := SMap_set_wfAbove d m k v none (by simp) h

theorem SMap_modify_wf {V : Type} [DecidableEq V] (d : Nat → V) (m : SMap V) (k : Nat) (f : V → V) (h : SMap.wf d m = true) :
    SMap.wf d (SMap.modify d m k f) = true := SMap_set_wf d m k _ h

theorem SMap_keep_wf {V : Type} [DecidableEq V] (d : Nat → V) (p : Nat → Bool) (m : SMap V) (h : SMap.wf d m = true) :
    SMap.wf d (SMap.keep p m) = true := SMap_keep_wfAbove d p m none h

/-- Writing bytes keeps the canonical form of a memory. -/
theorem Memory.writeBytes_wf (d : Nat → Byte) (m : List Host.Cell) (a : Nat) (l : List Byte) (h : Memory.wf d m = true) :
    Memory.wf d (Memory.writeBytes d m a l) = true := by
  induction l generalizing m a with
  | nil => exact h
  | cons b l ih => exact ih _ _ (SMap_set_wf d m a b h)

end Sys2Proof.Machine
end

