-- ==== Sys2Proof/Laws/KeepsOps.lean ====
section
/-!
SUPPORT. What the commands keep (the queue, the fuse rows, the canonical form), for the shared operations: registers, reset operations, rasters, rate control, check units, messages, wells, cells and egress queues.
-/
namespace Sys2Proof.Machine

theorem Cut.trans {f g h : FuseSt} (h1 : Cut f g) (h2 : Cut g h) : Cut f h := by
  obtain ⟨a1, a2, a3, a4, a5⟩ := h1
  obtain ⟨b1, b2, b3, b4, b5⟩ := h2
  refine ⟨b1.trans a1, b2.trans a2, b3.trans a3, b4.trans a4, ?_⟩
  rw [a2] at b5
  rcases b5 with b5 | b5 <;> rcases a5 with a5 | a5
  · exact .inl (b5.trans a5)
  · exact .inr (b5.trans a5)
  · exact .inr (by rw [b5, a5])
  · exact .inr (by rw [b5, a5, List.take_take, Nat.min_self])

/-- What every command but the two fuse commands does to the queue, the fuse unit and the canonical form. -/
structure Keeps (s t : State) : Prop where
  queue : t.pending = s.pending
  fuse : Cut s.fuse t.fuse
  tidy : Tidy s → Tidy t

theorem Keeps.refl (s : State) : Keeps s s := ⟨rfl, ⟨rfl, rfl, rfl, rfl, .inl rfl⟩, id⟩

theorem Keeps.ite {r a b : State} {c : Prop} [Decidable c] (h1 : Keeps r a) (h2 : Keeps r b) : Keeps r (if c then a else b) := by
  split <;> assumption

theorem Keeps.foldl {α : Type} {r s : State} {f : State → α → State} {l : List α} (h : Keeps r s) (hf : ∀ t x, Keeps r t → Keeps r (f t x)) :
    Keeps r (l.foldl f s) := by
  induction l generalizing s with
  | nil => exact h
  | cons a l ih => exact ih (hf _ _ h)

theorem Keeps.bind {r : State} (t : State) {G : Prop} (h1 : Keeps r t) (h2 : Keeps r t → G) : G := h2 h1

theorem Keeps.of_fst {α : Type} {r t : State} {p : State × α} {a : α} (h : p = (t, a)) (hk : Keeps r p.1) : Keeps r t := by
  rw [h] at hk
  exact hk

theorem Keeps.mk' {r X : State} (h : Keeps r X) {heldLow_ : SMap (Option Word)} {latchedHi_ : SMap (Option Word)} {lastRead_ : Word} {hostBad_ : List (Nat × Nat)} {host_ : HostSt} {flt_ : FaultSt} {cellWell_ : WellSt} {pageWell_ : WellSt} {rst_ : ResetSt} {pwr_ : PowerSt} {sensors_ : SMap Sensor} {time_ : TimeSt} {hbm_ : HbmSt} {pumps_ : SMap Pump} {pulses_ : List EvtPulse} {spouts_ : SMap Spout} {net_ : NetSt} {ck_ : SMap CheckUnit} {codec_ : CodecSt} {twin_ : TwinSt} {prk_ : SMap Store} {prkLoad_ : List PrkLoad} {fw_ : FwSt} {faultN_ : Bool} {yieldN_ : Bool} {freeCount_ : Nat} : Keeps r (State.mk X.pending X.regs heldLow_ latchedHi_ lastRead_ X.hostMem hostBad_ X.hbmMem X.sram X.shw X.ctx host_ X.queues X.irq flt_ cellWell_ pageWell_ rst_ X.fuse pwr_ sensors_ time_ hbm_ pumps_ pulses_ spouts_ net_ ck_ codec_ twin_ prk_ prkLoad_ fw_ faultN_ yieldN_ freeCount_) := ⟨h.queue, h.fuse, h.tidy⟩

theorem Keeps.regs {r X : State} (h : Keeps r X) {m : SMap Word} (hm : SMap.wf regReset X.regs = true → SMap.wf regReset m = true) :
    Keeps r { X with regs := m } := ⟨h.queue, h.fuse, fun hr => ⟨hm (h.tidy hr).1, (h.tidy hr).2⟩⟩

theorem Keeps.irq {r X : State} (h : Keeps r X) {m : SMap IrqSrc} (hm : SMap.wf irqReset X.irq = true → SMap.wf irqReset m = true) :
    Keeps r { X with irq := m } := ⟨h.queue, h.fuse, fun hr => ⟨(h.tidy hr).1, hm (h.tidy hr).2.1, (h.tidy hr).2.2⟩⟩

theorem Keeps.queues {r X : State} (h : Keeps r X) {m : SMap Queue}
    (hm : SMap.wf queueReset X.queues = true → SMap.wf queueReset m = true) :
    Keeps r { X with queues := m } := ⟨h.queue, h.fuse, fun hr => ⟨(h.tidy hr).1, (h.tidy hr).2.1, hm (h.tidy hr).2.2.1, (h.tidy hr).2.2.2⟩⟩

theorem Keeps.hostMem {r X : State} (h : Keeps r X) {a : Nat} {l : List Byte} : Keeps r { X with hostMem := Memory.writeBytes zeroDefault X.hostMem a l } :=
  ⟨h.queue, h.fuse, fun hr => by
    obtain ⟨h1, h2, h3, h4, h5, h6, h7, h8⟩ := h.tidy hr
    exact ⟨h1, h2, h3, Memory.writeBytes_wf _ _ _ _ h4, h5, h6, h7, h8⟩⟩

theorem Keeps.hbmMem {r X : State} (h : Keeps r X) {a : Nat} {l : List Byte} : Keeps r { X with hbmMem := Memory.writeBytes hbmDefault X.hbmMem a l } :=
  ⟨h.queue, h.fuse, fun hr => by
    obtain ⟨h1, h2, h3, h4, h5, h6, h7, h8⟩ := h.tidy hr
    exact ⟨h1, h2, h3, h4, Memory.writeBytes_wf _ _ _ _ h5, h6, h7, h8⟩⟩

theorem Keeps.sram {r X : State} (h : Keeps r X) {a : Nat} {l : List Byte} : Keeps r { X with sram := Memory.writeBytes sramDefault X.sram a l } :=
  ⟨h.queue, h.fuse, fun hr => by
    obtain ⟨h1, h2, h3, h4, h5, h6, h7, h8⟩ := h.tidy hr
    exact ⟨h1, h2, h3, h4, h5, Memory.writeBytes_wf _ _ _ _ h6, h7, h8⟩⟩

theorem Keeps.shw {r X : State} (h : Keeps r X) {a : Nat} {l : List Byte} : Keeps r { X with shw := Memory.writeBytes zeroDefault X.shw a l } :=
  ⟨h.queue, h.fuse, fun hr => by
    obtain ⟨h1, h2, h3, h4, h5, h6, h7, h8⟩ := h.tidy hr
    exact ⟨h1, h2, h3, h4, h5, h6, Memory.writeBytes_wf _ _ _ _ h7, h8⟩⟩

theorem Keeps.ctx {r X : State} (h : Keeps r X) {a : Nat} {l : List Byte} : Keeps r { X with ctx := Memory.writeBytes zeroDefault X.ctx a l } :=
  ⟨h.queue, h.fuse, fun hr => by
    obtain ⟨h1, h2, h3, h4, h5, h6, h7, h8⟩ := h.tidy hr
    exact ⟨h1, h2, h3, h4, h5, h6, h7, Memory.writeBytes_wf _ _ _ _ h8⟩⟩

/-! ## Ops -/

theorem State.setReg_keeps (s : State) (a : Nat) (v : Word) {r₀ : State} (hk₀ : Keeps r₀ s) : Keeps r₀ (State.setReg s a v) := by
  unfold State.setReg
  exact hk₀.regs (SMap_set_wf _ _ _ _)

theorem State.setRegN_keeps (s : State) (a v : Nat) {r₀ : State} (hk₀ : Keeps r₀ s) : Keeps r₀ (State.setRegN s a v) := by
  unfold State.setRegN
  repeat' (first
    | assumption
    | with_reducible apply State.setReg_keeps)

theorem State.setBits_keeps (s : State) (a : Nat) (m : Word) {r₀ : State} (hk₀ : Keeps r₀ s) : Keeps r₀ (State.setBits s a m) := by
  unfold State.setBits
  repeat' (first
    | assumption
    | with_reducible apply State.setReg_keeps)

theorem State.count_keeps (s : State) (a w n : Nat) {r₀ : State} (hk₀ : Keeps r₀ s) : Keeps r₀ (State.count s a w n) := by
  unfold State.count
  repeat' (first
    | assumption
    | with_reducible apply State.setRegN_keeps)

theorem State.holdLow_keeps (s : State) (r : Requester) (a : Nat) (v : Word) {r₀ : State} (hk₀ : Keeps r₀ s) : Keeps r₀ (State.holdLow s r a v) := by
  unfold State.holdLow
  repeat' (first
    | assumption
    | with_reducible apply Keeps.ite
    | (with_reducible refine Keeps.foldl ?_ ?_)
    | split
    | with_reducible exact Keeps.mk' (by assumption))

theorem State.commitPair_keeps (s : State) (r : Requester) (a : Nat) (hi : Word) {r₀ : State} (hk₀ : Keeps r₀ s) : Keeps r₀ (State.commitPair s r a hi) := by
  unfold State.commitPair
  repeat' (first
    | assumption
    | with_reducible apply State.setReg_keeps
    | with_reducible apply Keeps.ite
    | (with_reducible refine Keeps.foldl ?_ ?_)
    | split
    | with_reducible exact Keeps.mk' (by assumption))

theorem State.hostWrite_keeps (s : State) (a n v : Nat) {r₀ : State} (hk₀ : Keeps r₀ s) : Keeps r₀ (State.hostWrite s a n v) := by
  unfold State.hostWrite
  repeat' (first
    | assumption
    | with_reducible apply Keeps.ite
    | (with_reducible refine Keeps.foldl ?_ ?_)
    | split
    | with_reducible apply Keeps.hostMem)

theorem State.sramWrite_keeps (s : State) (a n v : Nat) {r₀ : State} (hk₀ : Keeps r₀ s) : Keeps r₀ (State.sramWrite s a n v) := by
  unfold State.sramWrite
  repeat' (first
    | assumption
    | with_reducible apply Keeps.ite
    | (with_reducible refine Keeps.foldl ?_ ?_)
    | split
    | with_reducible apply Keeps.sram)

theorem State.hbmWrite_keeps (s : State) (a n v : Nat) {r₀ : State} (hk₀ : Keeps r₀ s) : Keeps r₀ (State.hbmWrite s a n v) := by
  unfold State.hbmWrite
  repeat' (first
    | assumption
    | with_reducible apply Keeps.ite
    | (with_reducible refine Keeps.foldl ?_ ?_)
    | split
    | with_reducible apply Keeps.hbmMem)

theorem State.shwWrite_keeps (s : State) (a n v : Nat) {r₀ : State} (hk₀ : Keeps r₀ s) : Keeps r₀ (State.shwWrite s a n v) := by
  unfold State.shwWrite
  repeat' (first
    | assumption
    | with_reducible apply Keeps.ite
    | (with_reducible refine Keeps.foldl ?_ ?_)
    | split
    | with_reducible apply Keeps.shw)

theorem State.modQueue_keeps (s : State) (q : Nat) (f : Queue → Queue) {r₀ : State} (hk₀ : Keeps r₀ s) : Keeps r₀ (State.modQueue s q f) := by
  unfold State.modQueue
  exact hk₀.queues (SMap_modify_wf _ _ _ _)

theorem State.modChannel_keeps (s : State) (c : Nat) (f : Channel → Channel) {r₀ : State} (hk₀ : Keeps r₀ s) : Keeps r₀ (State.modChannel s c f) := by
  unfold State.modChannel
  repeat' (first
    | assumption
    | with_reducible apply Keeps.ite
    | (with_reducible refine Keeps.foldl ?_ ?_)
    | split
    | with_reducible exact Keeps.mk' (by assumption))

theorem State.modIflow_keeps (s : State) (f : Nat) (g : IFlow → IFlow) {r₀ : State} (hk₀ : Keeps r₀ s) : Keeps r₀ (State.modIflow s f g) := by
  unfold State.modIflow
  repeat' (first
    | assumption
    | with_reducible apply Keeps.ite
    | (with_reducible refine Keeps.foldl ?_ ?_)
    | split
    | with_reducible exact Keeps.mk' (by assumption))

theorem State.modEflow_keeps (s : State) (f : Nat) (g : EFlow → EFlow) {r₀ : State} (hk₀ : Keeps r₀ s) : Keeps r₀ (State.modEflow s f g) := by
  unfold State.modEflow
  repeat' (first
    | assumption
    | with_reducible apply Keeps.ite
    | (with_reducible refine Keeps.foldl ?_ ?_)
    | split
    | with_reducible exact Keeps.mk' (by assumption))

theorem State.modGate_keeps (s : State) (n : Nat) (f : Gate → Gate) {r₀ : State} (hk₀ : Keeps r₀ s) : Keeps r₀ (State.modGate s n f) := by
  unfold State.modGate
  repeat' (first
    | assumption
    | with_reducible apply Keeps.ite
    | (with_reducible refine Keeps.foldl ?_ ?_)
    | split
    | with_reducible exact Keeps.mk' (by assumption))

theorem State.modPort_keeps (s : State) (n : Nat) (f : PortSt → PortSt) {r₀ : State} (hk₀ : Keeps r₀ s) : Keeps r₀ (State.modPort s n f) := by
  unfold State.modPort
  repeat' (first
    | assumption
    | with_reducible apply Keeps.ite
    | (with_reducible refine Keeps.foldl ?_ ?_)
    | split
    | with_reducible exact Keeps.mk' (by assumption))

theorem State.modPump_keeps (s : State) (n : Nat) (f : Pump → Pump) {r₀ : State} (hk₀ : Keeps r₀ s) : Keeps r₀ (State.modPump s n f) := by
  unfold State.modPump
  repeat' (first
    | assumption
    | with_reducible apply Keeps.ite
    | (with_reducible refine Keeps.foldl ?_ ?_)
    | split
    | with_reducible exact Keeps.mk' (by assumption))

theorem State.modSpout_keeps (s : State) (n : Nat) (f : Spout → Spout) {r₀ : State} (hk₀ : Keeps r₀ s) : Keeps r₀ (State.modSpout s n f) := by
  unfold State.modSpout
  repeat' (first
    | assumption
    | with_reducible apply Keeps.ite
    | (with_reducible refine Keeps.foldl ?_ ?_)
    | split
    | with_reducible exact Keeps.mk' (by assumption))

theorem State.takeFree_keeps (s : State) {r₀ : State} (hk₀ : Keeps r₀ s) : Keeps r₀ (State.takeFree s).2 := by
  unfold State.takeFree
  repeat' (first
    | assumption
    | with_reducible apply Keeps.ite
    | (with_reducible refine Keeps.foldl ?_ ?_)
    | split
    | with_reducible exact Keeps.mk' (by assumption))

theorem State.raise_keeps (s : State) (source kind address detail : Nat) {r₀ : State} (hk₀ : Keeps r₀ s) : Keeps r₀ (State.raise s source kind address detail) := by
  unfold State.raise
  repeat' (first
    | assumption
    | with_reducible apply Keeps.ite
    | (with_reducible refine Keeps.foldl ?_ ?_)
    | split
    | with_reducible exact Keeps.mk' (by assumption))

theorem State.msixSend_keeps (s : State) (v : Nat) {r₀ : State} (hk₀ : Keeps r₀ s) : Keeps r₀ (State.msixSend s v) := by
  unfold State.msixSend
  repeat' (first
    | assumption
    | with_reducible apply Keeps.ite
    | (with_reducible refine Keeps.foldl ?_ ?_)
    | split
    | with_reducible exact Keeps.mk' (by assumption))

theorem State.signalWith_keeps (s : State) (q us : Nat) {r₀ : State} (hk₀ : Keeps r₀ s) : Keeps r₀ (State.signalWith s q us) := by
  unfold State.signalWith
  repeat' (first
    | assumption
    | with_reducible apply State.modQueue_keeps
    | with_reducible apply State.msixSend_keeps
    | with_reducible apply Keeps.ite
    | (with_reducible refine Keeps.foldl ?_ ?_)
    | split)

theorem State.signal_keeps (s : State) (q : Nat) {r₀ : State} (hk₀ : Keeps r₀ s) : Keeps r₀ (State.signal s q) := by
  unfold State.signal
  repeat' (first
    | assumption
    | with_reducible apply State.signalWith_keeps)

theorem State.spaceWrite_keeps (s : State) (sp : Space) (a n v : Nat) {r₀ : State} (hk₀ : Keeps r₀ s) : Keeps r₀ (State.spaceWrite s sp a n v) := by
  unfold State.spaceWrite
  repeat' (first
    | assumption
    | with_reducible apply State.hbmWrite_keeps
    | with_reducible apply State.hostWrite_keeps
    | with_reducible apply State.shwWrite_keeps
    | with_reducible apply Keeps.ite
    | (with_reducible refine Keeps.foldl ?_ ?_)
    | split)

theorem State.putEntry_keeps (s : State) (q : Nat) (v : Nat) {r₀ : State} (hk₀ : Keeps r₀ s) : Keeps r₀ (State.putEntry s q v) := by
  unfold State.putEntry
  repeat' (first
    | assumption
    | with_reducible apply State.modQueue_keeps
    | with_reducible apply State.signal_keeps
    | with_reducible apply State.slot_keeps
    | with_reducible apply State.spaceWrite_keeps)

theorem State.popEntry_keeps (s : State) (q : Nat) {r₀ : State} (hk₀ : Keeps r₀ s) : Keeps r₀ (State.popEntry s q) := by
  unfold State.popEntry
  repeat' (first
    | assumption
    | with_reducible apply State.modQueue_keeps)

theorem State.takeConsumer_keeps (s : State) (q idx : Nat) {r₀ t₀ : State} (h₀ : (State.takeConsumer s q idx) = some t₀) (hk₀ : Keeps r₀ s) : Keeps r₀ t₀ := by
  unfold State.takeConsumer at h₀
  dsimp only at h₀
  split at h₀
  · cases h₀
    exact State.modQueue_keeps _ _ _ hk₀
  · cases h₀

theorem State.dbInvalid_keeps (s : State) (q : Nat) {r₀ : State} (hk₀ : Keeps r₀ s) : Keeps r₀ (State.dbInvalid s q) := by
  unfold State.dbInvalid
  repeat' (first
    | assumption
    | with_reducible apply State.count_keeps
    | with_reducible apply State.raise_keeps)

theorem State.modSrc_keeps (s : State) (n : Nat) (f : IrqSrc → IrqSrc) {r₀ : State} (hk₀ : Keeps r₀ s) : Keeps r₀ (State.modSrc s n f) := by
  unfold State.modSrc
  exact hk₀.irq (SMap_modify_wf _ _ _ _)

theorem State.putFallback_keeps (fuel : Nat) (s : State) (c : Nat) (v : Nat) {r₀ : State} (hk₀ : Keeps r₀ s) : Keeps r₀ (State.putFallback fuel s c v) := by
  induction fuel generalizing s c v with
  | zero => exact hk₀
  | succ k ih =>
    unfold State.putFallback
    dsimp only
    refine Keeps.ite hk₀ (Keeps.ite (State.modQueue_keeps _ _ _ hk₀) ?_)
    have h1 := fun v => State.modQueue_keeps _ (fbQueue c) (fun u => { u with seq := (u.seq + 1) % 2 ^ 16, afterLoss := false }) (State.putEntry_keeps s (fbQueue c) v hk₀)
    refine Keeps.ite (State.modSrc_keeps _ _ _ (h1 _)) (Keeps.ite (h1 _) ?_)
    have h2 := fun v => State.modSrc_keeps _ (8 + c) (fun i => { i with line := true }.sample) (State.count_keeps _ (Reg.irqCnt + 4 * (8 + c)) 8 1 (h1 v))
    exact Keeps.foldl (h2 _) fun t d ht => Keeps.ite (ih _ _ _ ht) ht

theorem State.recordAssertion_keeps (s : State) (n : Nat) {r₀ : State} (hk₀ : Keeps r₀ s) : Keeps r₀ (State.recordAssertion s n) := by
  unfold State.recordAssertion
  refine Keeps.foldl hk₀ fun t x ht => Keeps.ite (State.putFallback_keeps _ _ _ _ ht) ht

theorem State.assertIrq_keeps (s : State) (n : Nat) {r₀ : State} (hk₀ : Keeps r₀ s) : Keeps r₀ (State.assertIrq s n) := by
  unfold State.assertIrq
  repeat' (first
    | assumption
    | with_reducible apply State.count_keeps
    | with_reducible apply State.modSrc_keeps
    | with_reducible apply State.recordAssertion_keeps)

theorem State.raiseLine_keeps (s : State) (n : Nat) {r₀ : State} (hk₀ : Keeps r₀ s) : Keeps r₀ (State.raiseLine s n) := by
  unfold State.raiseLine
  repeat' (first
    | assumption
    | with_reducible apply State.assertIrq_keeps
    | with_reducible apply State.modSrc_keeps
    | with_reducible apply Keeps.ite)

theorem State.dropLine_keeps (s : State) (n : Nat) {r₀ : State} (hk₀ : Keeps r₀ s) : Keeps r₀ (State.dropLine s n) := by
  unfold State.dropLine
  repeat' (first
    | assumption
    | with_reducible apply State.modSrc_keeps)

theorem State.rawLine_keeps (s : State) (n : Nat) (high : Bool) {r₀ : State} (hk₀ : Keeps r₀ s) : Keeps r₀ (State.rawLine s n high) := by
  unfold State.rawLine
  repeat' (first
    | assumption
    | with_reducible apply State.dropLine_keeps
    | with_reducible apply State.raiseLine_keeps
    | with_reducible apply Keeps.ite)

theorem State.haltWindlass_keeps (s : State) (cause : Nat) {r₀ : State} (hk₀ : Keeps r₀ s) : Keeps r₀ (State.haltWindlass s cause) := by
  unfold State.haltWindlass
  repeat' (first
    | assumption
    | with_reducible apply State.raise_keeps
    | with_reducible apply State.rawLine_keeps
    | with_reducible apply Keeps.ite
    | (with_reducible refine Keeps.foldl ?_ ?_)
    | split
    | with_reducible exact Keeps.mk' (by assumption))

theorem State.noteNoWrite_keeps (s : State) {r₀ : State} (hk₀ : Keeps r₀ s) : Keeps r₀ (State.noteNoWrite s) := by
  unfold State.noteNoWrite
  repeat' (first
    | assumption
    | with_reducible apply Keeps.ite
    | (with_reducible refine Keeps.foldl ?_ ?_)
    | split
    | with_reducible exact Keeps.mk' (by assumption))

theorem State.refreshRoom_keeps (s : State) (q : Nat) {r₀ : State} (hk₀ : Keeps r₀ s) : Keeps r₀ (State.refreshRoom s q) := by
  unfold State.refreshRoom
  dsimp only
  refine Keeps.ite ?_ hk₀
  cases s.hostRead (s.dbRecord q) 4 with
  | none => exact State.haltWindlass_keeps _ _ hk₀
  | some i =>
    dsimp only
    cases h : s.takeConsumer q i with
    | none => exact State.dbInvalid_keeps _ _ hk₀
    | some t => exact State.takeConsumer_keeps _ _ _ h hk₀

theorem State.putSignal_keeps (s : State) (q v : Nat) {r₀ : State} (hk₀ : Keeps r₀ s) : Keeps r₀ (State.putSignal s q v) := by
  unfold State.putSignal
  repeat' (first
    | assumption
    | with_reducible apply State.assertIrq_keeps
    | with_reducible apply State.putEntry_keeps
    | with_reducible apply Keeps.ite)

theorem State.postEvent_keeps (s : State) (m : FaultMsg) (cls : Nat) {r₀ : State} (hk₀ : Keeps r₀ s) : Keeps r₀ (State.postEvent s m cls) := by
  unfold State.postEvent
  repeat' (first
    | assumption
    | with_reducible apply State.modQueue_keeps
    | with_reducible apply State.noteNoWrite_keeps
    | with_reducible apply State.putEntry_keeps
    | with_reducible apply State.refreshRoom_keeps
    | with_reducible apply Keeps.ite)

theorem State.askPower_keeps (s : State) (b : PwrBlock) (wake : Bool) (needed : Nat) {r₀ : State} (hk₀ : Keeps r₀ s) : Keeps r₀ (State.askPower s b wake needed) := by
  unfold State.askPower
  repeat' (first
    | assumption
    | with_reducible apply Keeps.ite
    | (with_reducible refine Keeps.foldl ?_ ?_)
    | split
    | with_reducible exact Keeps.mk' (by assumption))

theorem State.keepAwake_keeps (s : State) (b : PwrBlock) {r₀ : State} (hk₀ : Keeps r₀ s) : Keeps r₀ (State.keepAwake s b) := by
  unfold State.keepAwake
  repeat' (first
    | assumption
    | with_reducible apply Keeps.ite
    | (with_reducible refine Keeps.foldl ?_ ?_)
    | split
    | with_reducible exact Keeps.mk' (by assumption))

theorem State.wakeBlock_keeps (s : State) (id : Nat) {r₀ : State} (hk₀ : Keeps r₀ s) : Keeps r₀ (State.wakeBlock s id) := by
  unfold State.wakeBlock
  repeat' (first
    | assumption
    | with_reducible apply State.askPower_keeps
    | with_reducible apply State.keepAwake_keeps
    | with_reducible apply Keeps.ite)

/-! ## ResetOps -/

theorem State.endReactionLog_keeps (s : State) (r : Reaction) {r₀ : State} (hk₀ : Keeps r₀ s) : Keeps r₀ (State.endReactionLog s r) := by
  unfold State.endReactionLog
  repeat' (first
    | assumption
    | with_reducible apply State.count_keeps
    | with_reducible apply Keeps.ite
    | (with_reducible refine Keeps.foldl ?_ ?_)
    | split
    | with_reducible exact Keeps.mk' (by assumption)
    | with_reducible apply Keeps.mk')

theorem State.loadMacs_keeps (s : State) {r₀ : State} (hk₀ : Keeps r₀ s) : Keeps r₀ (State.loadMacs s) := by
  unfold State.loadMacs
  exact Keeps.foldl hk₀ fun t x ht => State.setRegN_keeps _ _ _ (State.setRegN_keeps _ _ _ ht)

theorem State.enterReset_keeps (s : State) (level : Nat) {r₀ : State} (hk₀ : Keeps r₀ s) : Keeps r₀ (State.enterReset s level) := by
  unfold State.enterReset
  extract_lets cls3 s1 z base
  have h1 : Keeps r₀ s1 := by
    dsimp only [s1]
    split
    · exact State.endReactionLog_keeps _ _ hk₀
    · exact hk₀
  clear_value s1 cls3
  have hm : Tidy r₀ → Tidy base := fun h => ⟨rfl, rfl, rfl, (h1.tidy h).2.2.2.1, rfl, rfl, rfl, rfl⟩
  have hm2 : Tidy r₀ → SMap.wf regReset (SMap.keep regKept s1.regs) = true := fun h => SMap_keep_wf _ _ _ (h1.tidy h).1
  have hf : Cut s1.fuse { s1.fuse with toPulse := s1.fuse.toPulse.take (if s1.fuse.inPulse then 1 else 0) } := ⟨rfl, rfl, rfl, rfl, .inr rfl⟩
  split
  · exact ⟨h1.queue, h1.fuse.trans ⟨rfl, rfl, rfl, rfl, .inr rfl⟩, hm⟩
  · exact State.loadMacs_keeps _ ⟨h1.queue, h1.fuse.trans hf, fun h => ⟨hm2 h, (hm h).2⟩⟩

theorem State.assertSource_keeps (s : State) (i : Nat) {r₀ : State} (hk₀ : Keeps r₀ s) : Keeps r₀ (State.assertSource s i) := by
  unfold State.assertSource
  repeat' (first
    | assumption
    | with_reducible apply State.enterReset_keeps
    | with_reducible apply Keeps.ite
    | (with_reducible refine Keeps.foldl ?_ ?_)
    | split
    | with_reducible exact Keeps.mk' (by assumption)
    | with_reducible apply Keeps.mk')

theorem State.releaseSource_keeps (s : State) (i : Nat) {r₀ : State} (hk₀ : Keeps r₀ s) : Keeps r₀ (State.releaseSource s i) := by
  unfold State.releaseSource
  repeat' (first
    | assumption
    | with_reducible apply Keeps.ite
    | (with_reducible refine Keeps.foldl ?_ ?_)
    | split
    | with_reducible exact Keeps.mk' (by assumption))

theorem State.pulseTick_keeps (s : State) {r₀ : State} (hk₀ : Keeps r₀ s) : Keeps r₀ (State.pulseTick s) := by
  unfold State.pulseTick
  repeat' (first
    | assumption
    | with_reducible apply State.releaseSource_keeps
    | with_reducible apply Keeps.ite
    | (with_reducible refine Keeps.foldl ?_ ?_)
    | (intro t x ht; try dsimp only)
    | split
    | with_reducible exact Keeps.mk' (by assumption))

/-! ## Raster -/

theorem State.modPic_keeps (s : State) (c p : Nat) (f : Pic → Pic) {r₀ : State} (hk₀ : Keeps r₀ s) : Keeps r₀ (State.modPic s c p f) := by
  unfold State.modPic
  repeat' (first
    | assumption
    | with_reducible apply State.modChannel_keeps)

theorem State.modBand_keeps (s : State) (i : BandId) (f : Band → Band) {r₀ : State} (hk₀ : Keeps r₀ s) : Keeps r₀ (State.modBand s i f) := by
  unfold State.modBand
  repeat' (first
    | assumption
    | with_reducible apply State.modPic_keeps)

/-! ## RateCtl -/

theorem State.rcvWrite_keeps (s : State) (c ofs n v : Nat) {r₀ : State} (hk₀ : Keeps r₀ s) : Keeps r₀ (State.rcvWrite s c ofs n v) := by
  unfold State.rcvWrite
  repeat' (first
    | assumption
    | with_reducible apply State.hostWrite_keeps
    | with_reducible apply State.shwWrite_keeps
    | with_reducible apply Keeps.ite)

theorem State.rcvReady_keeps (s : State) (i : BandId) {r₀ : State} (hk₀ : Keeps r₀ s) : Keeps r₀ (State.rcvReady s i) := by
  unfold State.rcvReady
  repeat' (first
    | assumption
    | with_reducible apply State.rcvWrite_keeps)

theorem State.rcvOutcome_keeps (s : State) (i : BandId) {r₀ : State} (hk₀ : Keeps r₀ s) : Keeps r₀ (State.rcvOutcome s i) := by
  unfold State.rcvOutcome
  repeat' (first
    | assumption
    | with_reducible apply State.rcvWrite_keeps)

/-! ## Wells -/

theorem State.modWell_keeps (s : State) (w : WellSel) (f : WellSt → WellSt) {r₀ : State} (hk₀ : Keeps r₀ s) : Keeps r₀ (State.modWell s w f) := by
  unfold State.modWell
  repeat' (first
    | assumption
    | with_reducible apply Keeps.ite
    | (with_reducible refine Keeps.foldl ?_ ?_)
    | split
    | with_reducible exact Keeps.mk' (by assumption))

theorem State.pushCell_keeps (s : State) (i : Nat) {r₀ : State} (hk₀ : Keeps r₀ s) : Keeps r₀ (State.pushCell s i) := by
  unfold State.pushCell
  repeat' (first
    | assumption
    | with_reducible apply State.sramWrite_keeps
    | with_reducible apply Keeps.ite
    | (with_reducible refine Keeps.foldl ?_ ?_)
    | split
    | with_reducible exact Keeps.mk' (by assumption)
    | with_reducible apply Keeps.mk')

theorem State.giveBuffer_keeps (s : State) (w : WellSel) (i o : Nat) {r₀ : State} (hk₀ : Keeps r₀ s) : Keeps r₀ (State.giveBuffer s w i o) := by
  unfold State.giveBuffer
  repeat' (first
    | assumption
    | with_reducible apply State.modWell_keeps)

theorem State.refuseAlloc_keeps (s : State) (g : Grant) {r₀ : State} (hk₀ : Keeps r₀ s) : Keeps r₀ (State.refuseAlloc s g) := by
  unfold State.refuseAlloc
  repeat' (first
    | assumption
    | with_reducible apply State.count_keeps
    | with_reducible apply Keeps.ite
    | (with_reducible refine Keeps.foldl ?_ ?_)
    | split)

theorem State.startScan_keeps (s : State) {r₀ : State} (hk₀ : Keeps r₀ s) : Keeps r₀ (State.startScan s) := by
  unfold State.startScan
  repeat' (first
    | assumption
    | with_reducible apply Keeps.ite
    | (with_reducible refine Keeps.foldl ?_ ?_)
    | split
    | with_reducible exact Keeps.mk' (by assumption))

theorem State.takeCell_keeps (s : State) (o : Nat) {r₀ : State} (hk₀ : Keeps r₀ s) : Keeps r₀ (State.takeCell s o) := by
  unfold State.takeCell
  repeat' (first
    | assumption
    | with_reducible apply State.giveBuffer_keeps
    | with_reducible apply State.raise_keeps
    | with_reducible apply State.refuseAlloc_keeps
    | with_reducible apply State.startScan_keeps
    | with_reducible apply Keeps.ite
    | (with_reducible refine Keeps.foldl ?_ ?_)
    | split
    | with_reducible exact Keeps.mk' (by assumption))

theorem State.ringPush_keeps (s : State) (i : Nat) {r₀ : State} (hk₀ : Keeps r₀ s) : Keeps r₀ (State.ringPush s i) := by
  unfold State.ringPush
  repeat' (first
    | assumption
    | with_reducible apply State.hbmWrite_keeps
    | with_reducible apply Keeps.ite
    | (with_reducible refine Keeps.foldl ?_ ?_)
    | split
    | with_reducible exact Keeps.mk' (by assumption)
    | with_reducible apply Keeps.mk')

theorem State.refillOne_keeps (s : State) {r₀ : State} (hk₀ : Keeps r₀ s) : Keeps r₀ (State.refillOne s) := by
  unfold State.refillOne
  repeat' (first
    | assumption
    | with_reducible apply State.raise_keeps
    | with_reducible apply Keeps.ite
    | (with_reducible refine Keeps.foldl ?_ ?_)
    | split
    | with_reducible exact Keeps.mk' (by assumption)
    | with_reducible apply Keeps.mk')

theorem State.refill_keeps (n : Nat) (s : State) {r₀ : State} (hk₀ : Keeps r₀ s) : Keeps r₀ (State.refill n s) := by
  induction n generalizing s with
  | zero =>
    unfold State.refill
    try dsimp only
    repeat' (first
      | assumption)
  | succ k_ ih =>
    unfold State.refill
    try dsimp only
    repeat' (first
      | assumption
      | with_reducible apply ih
      | with_reducible apply State.refillOne_keeps
      | with_reducible apply Keeps.ite)

theorem State.takePage_keeps (s : State) (o : Nat) {r₀ : State} (hk₀ : Keeps r₀ s) : Keeps r₀ (State.takePage s o) := by
  unfold State.takePage
  repeat' (first
    | assumption
    | with_reducible apply State.giveBuffer_keeps
    | with_reducible apply State.refill_keeps
    | with_reducible apply State.refuseAlloc_keeps
    | with_reducible apply Keeps.ite
    | (with_reducible refine Keeps.foldl ?_ ?_)
    | split
    | with_reducible exact Keeps.mk' (by assumption)
    | with_reducible apply Keeps.mk')

theorem State.serveAlloc_keeps (s : State) (w : WellSel) (o : Nat) {r₀ : State} (hk₀ : Keeps r₀ s) : Keeps r₀ (State.serveAlloc s w o) := by
  unfold State.serveAlloc
  repeat' (first
    | assumption
    | with_reducible apply State.refuseAlloc_keeps
    | with_reducible apply State.takeCell_keeps
    | with_reducible apply State.takePage_keeps
    | with_reducible apply Keeps.ite
    | (with_reducible refine Keeps.foldl ?_ ?_)
    | split)

theorem State.pushPage_keeps (s : State) (i : Nat) {r₀ : State} (hk₀ : Keeps r₀ s) : Keeps r₀ (State.pushPage s i) := by
  unfold State.pushPage
  repeat' (first
    | assumption
    | with_reducible apply Keeps.ite
    | (with_reducible refine Keeps.foldl ?_ ?_)
    | split
    | with_reducible exact Keeps.mk' (by assumption))

theorem State.freeBuffer_keeps (s : State) (w : WellSel) (addr owner : Nat) {r₀ : State} (hk₀ : Keeps r₀ s) : Keeps r₀ (State.freeBuffer s w addr owner) := by
  unfold State.freeBuffer
  repeat' (first
    | assumption
    | with_reducible apply State.count_keeps
    | with_reducible apply State.modWell_keeps
    | with_reducible apply State.pushCell_keeps
    | with_reducible apply State.pushPage_keeps
    | with_reducible apply State.raise_keeps
    | with_reducible apply Keeps.ite
    | (with_reducible refine Keeps.foldl ?_ ?_)
    | split
    | with_reducible exact Keeps.mk' (by assumption)
    | with_reducible apply Keeps.mk')

theorem State.allocWithFree_keeps (s : State) (w : WellSel) (o addr owner : Nat) {r₀ : State} (hk₀ : Keeps r₀ s) : Keeps r₀ (State.allocWithFree s w o addr owner) := by
  unfold State.allocWithFree
  repeat' (first
    | assumption
    | with_reducible apply State.freeBuffer_keeps
    | with_reducible apply State.giveBuffer_keeps
    | with_reducible apply State.modWell_keeps
    | with_reducible apply State.pushCell_keeps
    | with_reducible apply State.refuseAlloc_keeps
    | with_reducible apply State.serveAlloc_keeps
    | with_reducible apply Keeps.ite
    | (with_reducible refine Keeps.foldl ?_ ?_)
    | split
    | with_reducible exact Keeps.mk' (by assumption)
    | with_reducible apply Keeps.mk')

theorem State.takeRequest_keeps (s : State) (w : WellSel) (o : Nat) {r₀ : State} (hk₀ : Keeps r₀ s) : Keeps r₀ (State.takeRequest s w o) := by
  unfold State.takeRequest
  repeat' (first
    | assumption
    | with_reducible apply State.modWell_keeps)

theorem State.drainFreeWait_keeps (n : Nat) (s : State) {r₀ : State} (hk₀ : Keeps r₀ s) : Keeps r₀ (State.drainFreeWait n s) := by
  induction n generalizing s with
  | zero => exact hk₀
  | succ k ih =>
    unfold State.drainFreeWait
    cases hw : s.pageWell.freeWait with
    | nil => exact hk₀
    | cons m rest => exact Keeps.ite hk₀ (ih _ (Keeps.mk' hk₀))

/-! ## HostCmd -/

theorem State.postCompletion_keeps (s : State) (sq cid idx : Nat) (r : Reply) {r₀ : State} (hk₀ : Keeps r₀ s) : Keeps r₀ (State.postCompletion s sq cid idx r) := by
  unfold State.postCompletion
  repeat' (first
    | assumption
    | with_reducible apply State.noteNoWrite_keeps
    | with_reducible apply State.putEntry_keeps
    | with_reducible apply State.refreshRoom_keeps
    | with_reducible apply Keeps.ite
    | (with_reducible refine Keeps.foldl ?_ ?_)
    | split
    | with_reducible exact Keeps.mk' (by assumption)
    | with_reducible apply Keeps.mk')

theorem State.dropFetched_keeps (s : State) (sq : Nat) {r₀ : State} (hk₀ : Keeps r₀ s) : Keeps r₀ (State.dropFetched s sq) := by
  unfold State.dropFetched
  repeat' (first
    | assumption
    | with_reducible apply Keeps.ite
    | (with_reducible refine Keeps.foldl ?_ ?_)
    | split
    | with_reducible exact Keeps.mk' (by assumption))

theorem State.flushBadOpcodes_keeps (n : Nat) (s : State) (sq : Nat) {r₀ : State} (hk₀ : Keeps r₀ s) : Keeps r₀ (State.flushBadOpcodes n s sq) := by
  induction n generalizing s sq with
  | zero =>
    unfold State.flushBadOpcodes
    try dsimp only
    repeat' (first
      | assumption)
  | succ k_ ih =>
    unfold State.flushBadOpcodes
    try dsimp only
    repeat' (first
      | assumption
      | with_reducible apply ih
      | with_reducible apply State.dropFetched_keeps
      | with_reducible apply State.postCompletion_keeps
      | with_reducible apply Keeps.ite
      | (with_reducible refine Keeps.foldl ?_ ?_)
      | split)

theorem State.endDeferred_keeps (s : State) (d : Deferred) (r : Reply) {r₀ : State} (hk₀ : Keeps r₀ s) : Keeps r₀ (State.endDeferred s d r) := by
  unfold State.endDeferred
  repeat' (first
    | assumption
    | with_reducible apply State.postCompletion_keeps
    | with_reducible apply Keeps.ite
    | (with_reducible refine Keeps.foldl ?_ ?_)
    | split
    | with_reducible exact Keeps.mk' (by assumption))

theorem State.addDeferred_keeps (s : State) (d : Deferred) {r₀ : State} (hk₀ : Keeps r₀ s) : Keeps r₀ (State.addDeferred s d) := by
  unfold State.addDeferred
  repeat' (first
    | assumption
    | with_reducible apply Keeps.ite
    | (with_reducible refine Keeps.foldl ?_ ?_)
    | split
    | with_reducible exact Keeps.mk' (by assumption))

theorem State.takeTick_keeps (s : State) {r₀ : State} (hk₀ : Keeps r₀ s) : Keeps r₀ (State.takeTick s) := by
  unfold State.takeTick
  repeat' (first
    | assumption
    | with_reducible apply Keeps.ite
    | (with_reducible refine Keeps.foldl ?_ ?_)
    | split
    | with_reducible exact Keeps.mk' (by assumption))

theorem State.fetch_keeps (n : Nat) (s : State) (q : Nat) {r₀ : State} (hk₀ : Keeps r₀ s) : Keeps r₀ (State.fetch n s q) := by
  induction n generalizing s q with
  | zero =>
    unfold State.fetch
    try dsimp only
    repeat' (first
      | assumption)
  | succ k_ ih =>
    unfold State.fetch
    try dsimp only
    repeat' (first
      | assumption
      | with_reducible apply ih
      | with_reducible apply State.haltWindlass_keeps
      | with_reducible apply State.popEntry_keeps
      | with_reducible apply State.slot_keeps
      | with_reducible apply Keeps.ite
      | (with_reducible refine Keeps.foldl ?_ ?_)
      | split
      | with_reducible exact Keeps.mk' (by assumption))

theorem State.fetchAll_keeps (s : State) (q : Nat) {r₀ : State} (hk₀ : Keeps r₀ s) : Keeps r₀ (State.fetchAll s q) := by
  unfold State.fetchAll
  repeat' (first
    | assumption
    | with_reducible apply State.fetch_keeps
    | with_reducible apply State.flushBadOpcodes_keeps
    | with_reducible apply State.refreshRoom_keeps
    | with_reducible apply Keeps.ite)

theorem State.actOnRecord_keeps (s : State) (q : Nat) {r₀ : State} (hk₀ : Keeps r₀ s) : Keeps r₀ (State.actOnRecord s q) := by
  unfold State.actOnRecord
  repeat' (first
    | assumption
    | with_reducible apply State.dbInvalid_keeps
    | with_reducible apply State.fetchAll_keeps
    | with_reducible apply State.haltWindlass_keeps
    | with_reducible apply State.modQueue_keeps
    | refine State.takeConsumer_keeps _ _ _ (by assumption) ?_
    | with_reducible apply Keeps.ite
    | (with_reducible refine Keeps.foldl ?_ ?_)
    | split)

theorem State.swapZero_keeps (s : State) (a : Nat) {r₀ : State} (hk₀ : Keeps r₀ s) : Keeps r₀ (State.swapZero s a).2 := by
  unfold State.swapZero
  repeat' (first
    | assumption
    | with_reducible apply State.hostWrite_keeps
    | with_reducible apply Keeps.ite
    | (with_reducible refine Keeps.foldl ?_ ?_)
    | split)

theorem State.unlessHalted_keeps (s : State) (f : State → State) {r₀ : State} (hk₀ : Keeps r₀ s) (hf : ∀ t, Keeps r₀ t → Keeps r₀ (f t)) : Keeps r₀ (s.unlessHalted f) := by
  unfold State.unlessHalted
  exact Keeps.ite hk₀ (hf _ hk₀)

theorem State.swapGroup_keeps (s : State) (j : Nat) {r₀ : State} (hk₀ : Keeps r₀ s) : Keeps r₀ (State.swapGroup s j) := by
  unfold State.swapGroup
  have h0 := State.swapZero_keeps s (s.dbArea + 0x40 + 8 * j) hk₀
  rcases hz : s.swapZero (s.dbArea + 0x40 + 8 * j) with ⟨_ | m1, t⟩
  · rw [hz] at h0
    exact State.haltWindlass_keeps _ _ h0
  · rw [hz] at h0
    refine Keeps.foldl h0 fun t k ht => State.unlessHalted_keeps _ _ ht fun t ht => ?_
    have h1 := State.swapZero_keeps t (t.dbArea + 0x1000 + 8 * (64 * j + k)) ht
    rcases hy : t.swapZero (t.dbArea + 0x1000 + 8 * (64 * j + k)) with ⟨_ | m0, u⟩
    · rw [hy] at h1
      exact State.haltWindlass_keeps _ _ h1
    · rw [hy] at h1
      exact Keeps.foldl h1 fun t b ht => State.unlessHalted_keeps _ _ ht fun t ht => State.actOnRecord_keeps _ _ ht

theorem State.passEnd_keeps (s : State) {r₀ : State} (hk₀ : Keeps r₀ s) : Keeps r₀ (State.passEnd s) := by
  unfold State.passEnd
  repeat' (first
    | assumption
    | with_reducible apply State.unlessHalted_keeps
    | (intro t ht; try dsimp only)
    | with_reducible apply Keeps.ite
    | (with_reducible refine Keeps.foldl ?_ ?_)
    | split
    | with_reducible exact Keeps.mk' (by assumption))

theorem State.swapPass_keeps (s : State) {r₀ : State} (hk₀ : Keeps r₀ s) : Keeps r₀ (State.swapPass s) := by
  unfold State.swapPass
  have h0 := State.swapZero_keeps s s.dbArea hk₀
  rcases hz : s.swapZero s.dbArea with ⟨_ | m2, t⟩
  · rw [hz] at h0
    exact State.haltWindlass_keeps _ _ h0
  · rw [hz] at h0
    exact Keeps.ite h0 (State.passEnd_keeps _ (Keeps.foldl (State.setRegN_keeps _ _ _ h0) fun t j ht =>
      State.unlessHalted_keeps _ _ ht fun t ht => State.swapGroup_keeps _ _ ht))

theorem State.epochGroup_keeps (s : State) (j : Nat) {r₀ : State} (hk₀ : Keeps r₀ s) : Keeps r₀ (State.epochGroup s j) := by
  unfold State.epochGroup
  split
  · exact State.haltWindlass_keeps _ _ hk₀
  · refine Keeps.foldl hk₀ fun t k ht => State.unlessHalted_keeps _ _ ht fun t ht => ?_
    split
    · exact State.haltWindlass_keeps _ _ ht
    · exact Keeps.foldl ht fun t b ht => State.unlessHalted_keeps _ _ ht fun t ht => State.actOnRecord_keeps _ _ ht

theorem State.epochPass_keeps (s : State) {r₀ : State} (hk₀ : Keeps r₀ s) : Keeps r₀ (State.epochPass s) := by
  unfold State.epochPass
  split
  · exact State.haltWindlass_keeps _ _ hk₀
  · refine Keeps.ite hk₀ ?_
    dsimp only
    have h1 := State.setRegN_keeps s Reg.wswPasses (s.regN Reg.wswPasses + 1) hk₀
    split
    · exact State.haltWindlass_keeps _ _ h1
    · refine State.passEnd_keeps _ (Keeps.mk' ?_)
      exact Keeps.foldl h1 fun t j ht => Keeps.ite ht (State.unlessHalted_keeps _ _ ht fun t ht => State.epochGroup_keeps _ _ ht)

theorem State.writeHeld_keeps (n : Nat) (s : State) (cq : Nat) {r₀ : State} (hk₀ : Keeps r₀ s) : Keeps r₀ (State.writeHeld n s cq) := by
  induction n generalizing s cq with
  | zero =>
    unfold State.writeHeld
    try dsimp only
    repeat' (first
      | assumption)
  | succ k_ ih =>
    unfold State.writeHeld
    try dsimp only
    repeat' (first
      | assumption
      | with_reducible apply ih
      | with_reducible apply State.putEntry_keeps
      | with_reducible apply Keeps.ite
      | (with_reducible refine Keeps.foldl ?_ ?_)
      | split
      | with_reducible exact Keeps.mk' (by assumption))

theorem State.adminRings_keeps (s : State) {r₀ : State} (hk₀ : Keeps r₀ s) : Keeps r₀ (State.adminRings s) := by
  unfold State.adminRings
  repeat' (first
    | assumption
    | with_reducible apply State.modQueue_keeps)

/-! ## Capture -/

theorem State.returnEntry_keeps (s : State) (q v : Nat) {r₀ : State} (hk₀ : Keeps r₀ s) : Keeps r₀ (State.returnEntry s q v) := by
  unfold State.returnEntry
  repeat' (first
    | assumption
    | with_reducible apply State.popEntry_keeps
    | with_reducible apply State.signal_keeps
    | with_reducible apply State.slot_keeps
    | with_reducible apply State.spaceWrite_keeps)

theorem State.captureAbandon_keeps (s : State) (i : BandId) {r₀ : State} (hk₀ : Keeps r₀ s) : Keeps r₀ (State.captureAbandon s i) := by
  unfold State.captureAbandon
  repeat' (first
    | assumption
    | with_reducible apply State.modChannel_keeps
    | with_reducible apply State.returnEntry_keeps
    | with_reducible apply Keeps.ite
    | (with_reducible refine Keeps.foldl ?_ ?_)
    | split)

/-! ## CheckUnits -/

theorem State.setPair_keeps (s : State) (a w v : Nat) {r₀ : State} (hk₀ : Keeps r₀ s) : Keeps r₀ (State.setPair s a w v) := by
  unfold State.setPair
  repeat' (first
    | assumption
    | with_reducible apply State.setRegN_keeps)

theorem State.ckTruncate_keeps (s : State) (n w : Nat) {r₀ : State} (hk₀ : Keeps r₀ s) : Keeps r₀ (State.ckTruncate s n w) := by
  unfold State.ckTruncate
  repeat' (first
    | assumption
    | with_reducible apply State.setPair_keeps
    | with_reducible apply Keeps.ite
    | (with_reducible refine Keeps.foldl ?_ ?_)
    | (intro t x ht; try dsimp only))

theorem State.ckConfigure_keeps (s : State) (n : Nat) (v : Nat) {r₀ : State} (hk₀ : Keeps r₀ s) : Keeps r₀ (State.ckConfigure s n v) := by
  unfold State.ckConfigure
  repeat' (first
    | assumption
    | with_reducible apply State.ckTruncate_keeps
    | with_reducible apply State.setPair_keeps
    | with_reducible apply State.setRegN_keeps
    | with_reducible apply Keeps.ite
    | (with_reducible refine Keeps.foldl ?_ ?_)
    | split)

theorem State.setAlive_keeps (s : State) (n k : Nat) (v : Option Nat) {r₀ : State} (hk₀ : Keeps r₀ s) : Keeps r₀ (State.setAlive s n k v) := by
  unfold State.setAlive
  repeat' (first
    | assumption
    | with_reducible apply Keeps.ite
    | (with_reducible refine Keeps.foldl ?_ ?_)
    | split
    | with_reducible exact Keeps.mk' (by assumption))

theorem State.alive_keeps (s : State) (n k v : Nat) {r₀ : State} (hk₀ : Keeps r₀ s) : Keeps r₀ (State.alive s n k v) := by
  unfold State.alive
  repeat' (first
    | assumption
    | with_reducible apply State.count_keeps
    | with_reducible apply State.raise_keeps
    | with_reducible apply State.setAlive_keeps
    | with_reducible apply State.setRegN_keeps
    | with_reducible apply Keeps.ite
    | (with_reducible refine Keeps.foldl ?_ ?_)
    | split
    | with_reducible exact Keeps.mk' (by assumption)
    | with_reducible apply Keeps.mk')

/-! ## TwinSend -/

theorem State.twTransmit_keeps (s : State) (m : TwMsg) {r₀ : State} (hk₀ : Keeps r₀ s) : Keeps r₀ (State.twTransmit s m) := by
  unfold State.twTransmit
  repeat' (first
    | assumption
    | with_reducible apply Keeps.ite
    | (with_reducible refine Keeps.foldl ?_ ?_)
    | split
    | with_reducible exact Keeps.mk' (by assumption))

theorem State.twSend_keeps (s : State) (m : TwMsg) {r₀ : State} (hk₀ : Keeps r₀ s) : Keeps r₀ (State.twSend s m) := by
  unfold State.twSend
  repeat' (first
    | assumption
    | with_reducible apply State.twTransmit_keeps
    | with_reducible apply Keeps.ite
    | (with_reducible refine Keeps.foldl ?_ ?_)
    | split
    | with_reducible exact Keeps.mk' (by assumption))

theorem State.twPump_keeps (n : Nat) (s : State) {r₀ : State} (hk₀ : Keeps r₀ s) : Keeps r₀ (State.twPump n s) := by
  induction n generalizing s with
  | zero => exact hk₀
  | succ k ih =>
    unfold State.twPump
    cases hw : s.twin.link.waiting with
    | nil => exact hk₀
    | cons m rest =>
      refine Keeps.ite (ih _ ?_) hk₀
      exact State.twTransmit_keeps _ _ (Keeps.mk' hk₀)

theorem State.nextAlive_keeps (s : State) (k : Nat) {r₀ : State} (hk₀ : Keeps r₀ s) : Keeps r₀ (State.nextAlive s k).1 := by
  unfold State.nextAlive
  repeat' (first
    | assumption
    | with_reducible apply Keeps.ite
    | (with_reducible refine Keeps.foldl ?_ ?_)
    | split
    | with_reducible exact Keeps.mk' (by assumption))

theorem State.judgeAlive_keeps (s : State) (k v : Nat) {r₀ : State} (hk₀ : Keeps r₀ s) : Keeps r₀ (State.judgeAlive s k v).1 := by
  unfold State.judgeAlive
  repeat' (first
    | assumption
    | with_reducible apply State.raise_keeps
    | with_reducible apply Keeps.ite
    | (with_reducible refine Keeps.foldl ?_ ?_)
    | (intro t x ht; try dsimp only)
    | split
    | (lift_lets; intro t; refine Keeps.bind t ?_ ?_; focus (dsimp only [t]))
    | (intro ht; clear_value t)
    | (lift_lets; intro t; clear_value t)
    | with_reducible exact Keeps.mk' (by assumption))

theorem State.sendRecord_keeps (s : State) (c v : Nat) {r₀ : State} (hk₀ : Keeps r₀ s) : Keeps r₀ (State.sendRecord s c v) := by
  unfold State.sendRecord
  repeat' (first
    | assumption
    | with_reducible apply State.nextAlive_keeps
    | with_reducible apply State.twSend_keeps)

/-! ## Cells -/

theorem State.arbitrate_keeps (n : Nat) (s : State) (w : WellSel) (o : Nat) {r₀ : State} (hk₀ : Keeps r₀ s) : Keeps r₀ (State.arbitrate n s w o).1 := by
  induction n generalizing s with
  | zero => simpa [State.arbitrate] using hk₀
  | succ k ih =>
    unfold State.arbitrate
    split
    · rename_i k' q h1 h2
      obtain rfl : k = k' := by simpa using h1
      have ht := State.serveAlloc_keeps _ w q (State.takeRequest_keeps s w q hk₀)
      dsimp only
      split
      · refine ih _ ?_
        unfold State.tellFirmware
        exact Keeps.ite (State.modWell_keeps _ _ _ ht) ht
      · split
        · dsimp only
          exact State.modWell_keeps _ _ _ ht
        · exact ht
    · exact hk₀

theorem State.alloc_keeps (s : State) (w : WellSel) (o : Nat) {r₀ : State} (hk₀ : Keeps r₀ s) : Keeps r₀ (State.alloc s w o).1 := by
  unfold State.alloc
  exact State.arbitrate_keeps _ _ _ _ (State.modWell_keeps _ _ _ hk₀)

theorem State.freeCells_keeps (s : State) (l : List Nat) (o : Nat) {r₀ : State} (hk₀ : Keeps r₀ s) : Keeps r₀ (State.freeCells s l o) := by
  unfold State.freeCells
  repeat' (first
    | assumption
    | with_reducible apply State.freeBuffer_keeps
    | with_reducible apply Keeps.ite
    | (with_reducible refine Keeps.foldl ?_ ?_)
    | (intro t x ht; try dsimp only))

theorem State.allocCells_keeps (n : Nat) (s : State) (o : Nat) (got : List Nat) {r₀ : State} (hk₀ : Keeps r₀ s) : Keeps r₀ (State.allocCells n s o got).1 := by
  induction n generalizing s o got with
  | zero =>
    unfold State.allocCells
    try dsimp only
    repeat' (first
      | assumption)
  | succ k_ ih =>
    unfold State.allocCells
    try dsimp only
    repeat' (first
      | assumption
      | with_reducible apply ih
      | with_reducible apply State.alloc_keeps
      | with_reducible apply State.freeCells_keeps
      | refine Keeps.of_fst (by assumption) ?_
      | with_reducible apply Keeps.ite
      | (with_reducible refine Keeps.foldl ?_ ?_)
      | split)

theorem State.storeFrame_keeps (s : State) (cells : List Nat) (bytes : List Byte) {r₀ : State} (hk₀ : Keeps r₀ s) : Keeps r₀ (State.storeFrame s cells bytes) := by
  induction cells generalizing s bytes with
  | nil => exact hk₀
  | cons i l ih =>
    cases l with
    | nil => exact hk₀.sram
    | cons j rest =>
      unfold State.storeFrame
      exact ih _ _ (State.sramWrite_keeps _ _ _ _ hk₀.sram)

/-! ## Efq -/

theorem State.mapEfq_keeps (s : State) (flow : Nat) (g : Nat → Nat) {r₀ : State} (hk₀ : Keeps r₀ s) : Keeps r₀ (State.mapEfq s flow g) := by
  unfold State.mapEfq
  repeat' (first
    | assumption
    | with_reducible apply State.slot_keeps
    | with_reducible apply State.spaceWrite_keeps
    | with_reducible apply Keeps.ite
    | (with_reducible refine Keeps.foldl ?_ ?_)
    | (intro t x ht; try dsimp only)
    | split
    | with_reducible exact Keeps.mk' (by assumption)
    | with_reducible apply Keeps.mk')

theorem State.voidPackets_keeps (s : State) (cells : List Nat) (flow : Nat) {r₀ : State} (hk₀ : Keeps r₀ s) : Keeps r₀ (State.voidPackets s cells flow) := by
  unfold State.voidPackets
  repeat' (first
    | assumption
    | with_reducible apply State.mapEfq_keeps)

theorem State.setEfq_keeps (s : State) (flow : Nat) (l : List Nat) {r₀ : State} (hk₀ : Keeps r₀ s) : Keeps r₀ (State.setEfq s flow l) := by
  unfold State.setEfq
  repeat' (first
    | assumption
    | with_reducible apply State.slot_keeps
    | with_reducible apply State.spaceWrite_keeps
    | with_reducible apply Keeps.ite
    | (with_reducible refine Keeps.foldl ?_ ?_)
    | (intro t x ht; try dsimp only)
    | split
    | with_reducible exact Keeps.mk' (by assumption)
    | with_reducible apply Keeps.mk')

end Sys2Proof.Machine
end

