-- ==== Sys2Proof/Laws/KeepsHost.lean ====
section
/-!
SUPPORT. What the commands keep, for bands, blocks, host commands, interrupts, host registers, statistics and flows.
-/
namespace Sys2Proof.Machine

/-! ## BandOps -/

theorem State.modTamb_keeps (s : State) (t : Nat) (f : Tamb → Tamb) {r₀ : State} (hk₀ : Keeps r₀ s) : Keeps r₀ (State.modTamb s t f) := by
  unfold State.modTamb
  repeat' (first
    | assumption
    | with_reducible apply Keeps.ite
    | (with_reducible refine Keeps.foldl ?_ ?_)
    | split
    | with_reducible exact Keeps.mk' (by assumption))

theorem State.clearLedger_keeps (s : State) (ch k : Nat) {r₀ : State} (hk₀ : Keeps r₀ s) : Keeps r₀ (State.clearLedger s ch k) := by
  unfold State.clearLedger
  repeat' (first
    | assumption
    | with_reducible apply Keeps.ite
    | (with_reducible refine Keeps.foldl ?_ ?_)
    | split
    | with_reducible exact Keeps.mk' (by assumption))

theorem State.beginDecode_keeps (s : State) (c p : Nat) {r₀ : State} (hk₀ : Keeps r₀ s) : Keeps r₀ (State.beginDecode s c p) := by
  unfold State.beginDecode
  repeat' (first
    | assumption
    | with_reducible apply State.clearLedger_keeps
    | with_reducible apply State.modChannel_keeps)

theorem State.freePages_keeps (s : State) (c p : Nat) {r₀ : State} (hk₀ : Keeps r₀ s) : Keeps r₀ (State.freePages s c p) := by
  unfold State.freePages
  repeat' (first
    | assumption
    | with_reducible apply State.freeBuffer_keeps
    | with_reducible apply State.modPic_keeps
    | with_reducible apply Keeps.ite
    | (with_reducible refine Keeps.foldl ?_ ?_)
    | (intro t x ht; try dsimp only))

theorem State.freeUnits_keeps (s : State) (c : Nat) (f : Pic → Bool) {r₀ : State} (hk₀ : Keeps r₀ s) : Keeps r₀ (State.freeUnits s c f) := by
  unfold State.freeUnits
  repeat' (first
    | assumption
    | with_reducible apply State.freePages_keeps
    | refine Keeps.of_fst (by assumption) ?_
    | with_reducible apply Keeps.ite
    | (with_reducible refine Keeps.foldl ?_ ?_)
    | (intro t x ht; try dsimp only))

theorem State.namePic_keeps (s : State) (c p : Nat) {r₀ : State} (hk₀ : Keeps r₀ s) : Keeps r₀ (State.namePic s c p) := by
  unfold State.namePic
  repeat' (first
    | assumption
    | with_reducible apply State.beginDecode_keeps
    | with_reducible apply State.clearLedger_keeps
    | with_reducible apply State.modChannel_keeps
    | with_reducible apply State.raise_keeps
    | with_reducible apply State.slot_keeps
    | with_reducible apply Keeps.ite)

theorem State.pictureDone_keeps (s : State) (c p : Nat) {r₀ : State} (hk₀ : Keeps r₀ s) : Keeps r₀ (State.pictureDone s c p) := by
  unfold State.pictureDone
  repeat' (first
    | assumption
    | with_reducible apply State.assertIrq_keeps
    | with_reducible apply State.modChannel_keeps
    | with_reducible apply State.rcvWrite_keeps
    | with_reducible apply Keeps.ite)

theorem State.ownRecord_keeps (s : State) (i : BandId) (outcome crc len : Nat) {r₀ : State} (hk₀ : Keeps r₀ s) : Keeps r₀ (State.ownRecord s i outcome crc len) := by
  unfold State.ownRecord
  repeat' (first
    | assumption
    | with_reducible apply State.modBand_keeps
    | with_reducible apply State.sendRecord_keeps
    | with_reducible apply Keeps.ite)

theorem State.measureBand_keeps (s : State) (i : BandId) {r₀ : State} (hk₀ : Keeps r₀ s) : Keeps r₀ (State.measureBand s i) := by
  unfold State.measureBand
  repeat' (first
    | assumption
    | with_reducible apply State.modBand_keeps
    | with_reducible apply State.rcvReady_keeps
    | with_reducible apply Keeps.ite)

theorem State.measureInput_keeps (s : State) (i : BandId) {r₀ : State} (hk₀ : Keeps r₀ s) : Keeps r₀ (State.measureInput s i) := by
  unfold State.measureInput
  repeat' (first
    | assumption
    | with_reducible apply State.measureBand_keeps
    | with_reducible apply Keeps.ite)

theorem State.bandOutcome_keeps (s : State) (i : BandId) (st : BandState) {r₀ : State} (hk₀ : Keeps r₀ s) : Keeps r₀ (State.bandOutcome s i st) := by
  unfold State.bandOutcome
  repeat' (first
    | assumption
    | with_reducible apply State.measureBand_keeps
    | with_reducible apply State.modBand_keeps
    | with_reducible apply State.namePic_keeps
    | with_reducible apply State.ownRecord_keeps
    | with_reducible apply State.pictureDone_keeps
    | with_reducible apply State.rcvOutcome_keeps
    | with_reducible apply Keeps.ite)

theorem State.displaceCont_keeps (s : State) (t : Nat) (i : BandId) {r₀ : State} (hk₀ : Keeps r₀ s) : Keeps r₀ (State.displaceCont s t i) := by
  unfold State.displaceCont
  repeat' (first
    | assumption
    | with_reducible apply State.bandOutcome_keeps
    | with_reducible apply State.modBand_keeps
    | with_reducible apply State.modTamb_keeps
    | with_reducible apply Keeps.ite
    | (with_reducible refine Keeps.foldl ?_ ?_)
    | split)

theorem State.giveCells_keeps (s : State) (i : BandId) {r₀ : State} (hk₀ : Keeps r₀ s) : Keeps r₀ (State.giveCells s i) := by
  unfold State.giveCells
  repeat' (first
    | assumption
    | with_reducible apply State.freeCells_keeps
    | with_reducible apply State.modBand_keeps
    | with_reducible apply Keeps.ite)

theorem State.takeOff_keeps (s : State) (i : BandId) (st : BandState) {r₀ : State} (hk₀ : Keeps r₀ s) : Keeps r₀ (State.takeOff s i st) := by
  unfold State.takeOff
  repeat' (first
    | assumption
    | with_reducible apply State.bandOutcome_keeps
    | with_reducible apply State.displaceCont_keeps
    | with_reducible apply State.giveCells_keeps
    | with_reducible apply State.modBand_keeps
    | with_reducible apply State.modSpout_keeps
    | with_reducible apply State.modTamb_keeps
    | with_reducible apply Keeps.ite)

theorem State.discardPackets_keeps (s : State) (i : BandId) {r₀ : State} (hk₀ : Keeps r₀ s) : Keeps r₀ (State.discardPackets s i) := by
  unfold State.discardPackets
  repeat' (first
    | assumption
    | with_reducible apply State.freeCells_keeps
    | with_reducible apply State.giveCells_keeps
    | with_reducible apply State.modBand_keeps
    | with_reducible apply State.voidPackets_keeps
    | with_reducible apply Keeps.ite
    | (with_reducible refine Keeps.foldl ?_ ?_)
    | (intro t x ht; try dsimp only)
    | split
    | with_reducible exact Keeps.mk' (by assumption))

theorem State.withhold_keeps (s : State) (i : BandId) (st : BandState) {r₀ : State} (hk₀ : Keeps r₀ s) : Keeps r₀ (State.withhold s i st) := by
  unfold State.withhold
  repeat' (first
    | assumption
    | with_reducible apply State.bandOutcome_keeps
    | with_reducible apply State.discardPackets_keeps)

theorem State.skipFrom_keeps (s : State) (c p from_ : Nat) (arriving : Bool) {r₀ : State} (hk₀ : Keeps r₀ s) : Keeps r₀ (State.skipFrom s c p from_ arriving) := by
  unfold State.skipFrom
  repeat' (first
    | assumption
    | with_reducible apply State.bandOutcome_keeps
    | with_reducible apply State.takeOff_keeps
    | with_reducible apply State.withhold_keeps
    | with_reducible apply Keeps.ite
    | (with_reducible refine Keeps.foldl ?_ ?_)
    | (intro t x ht; try dsimp only)
    | split)

theorem State.uncommit_keeps (s : State) (c p from_ : Nat) {r₀ : State} (hk₀ : Keeps r₀ s) : Keeps r₀ (State.uncommit s c p from_) := by
  unfold State.uncommit
  repeat' (first
    | assumption
    | with_reducible apply State.modPic_keeps
    | with_reducible apply State.skipFrom_keeps
    | with_reducible apply Keeps.ite
    | (with_reducible refine Keeps.foldl ?_ ?_)
    | (intro t x ht; try dsimp only))

theorem State.reportLate_keeps (s : State) (i : BandId) {r₀ : State} (hk₀ : Keeps r₀ s) : Keeps r₀ (State.reportLate s i) := by
  unfold State.reportLate
  repeat' (first
    | assumption
    | with_reducible apply State.count_keeps
    | with_reducible apply State.modBand_keeps
    | with_reducible apply State.raise_keeps
    | with_reducible apply Keeps.ite)

theorem State.abandon_keeps (s : State) (i : BandId) {r₀ : State} (hk₀ : Keeps r₀ s) : Keeps r₀ (State.abandon s i) := by
  unfold State.abandon
  repeat' (first
    | assumption
    | with_reducible apply State.assertIrq_keeps
    | with_reducible apply State.modPic_keeps
    | with_reducible apply State.reportLate_keeps
    | with_reducible apply State.skipFrom_keeps
    | with_reducible apply State.takeOff_keeps
    | with_reducible apply State.uncommit_keeps
    | with_reducible apply Keeps.ite)

theorem State.makeReady_keeps (s : State) (i : BandId) (done : Nat) {r₀ : State} (hk₀ : Keeps r₀ s) : Keeps r₀ (State.makeReady s i done) := by
  unfold State.makeReady
  repeat' (first
    | assumption
    | with_reducible apply State.bandOutcome_keeps
    | with_reducible apply State.modBand_keeps
    | with_reducible apply State.modPic_keeps
    | with_reducible apply Keeps.ite)

theorem State.needTambour_keeps (s : State) (t need : Nat) {r₀ : State} (hk₀ : Keeps r₀ s) : Keeps r₀ (State.needTambour s t need) := by
  unfold State.needTambour
  repeat' (first
    | assumption
    | with_reducible apply State.askPower_keeps
    | with_reducible apply State.keepAwake_keeps
    | with_reducible apply State.modTamb_keeps
    | with_reducible apply Keeps.ite)

theorem State.wakeLateFor_keeps (s : State) (t : Nat) (i : BandId) {r₀ : State} (hk₀ : Keeps r₀ s) : Keeps r₀ (State.wakeLateFor s t i) := by
  unfold State.wakeLateFor
  repeat' (first
    | assumption
    | with_reducible apply State.count_keeps
    | with_reducible apply State.modBand_keeps
    | with_reducible apply State.raise_keeps
    | with_reducible apply Keeps.ite)

theorem State.tellWakeLate_keeps (s : State) (t : Nat) {r₀ : State} (hk₀ : Keeps r₀ s) : Keeps r₀ (State.tellWakeLate s t) := by
  unfold State.tellWakeLate
  repeat' (first
    | assumption
    | with_reducible apply State.wakeLateFor_keeps
    | with_reducible apply Keeps.ite
    | (with_reducible refine Keeps.foldl ?_ ?_)
    | (intro t x ht; try dsimp only)
    | split
    | with_reducible exact Keeps.mk' (by assumption)
    | with_reducible apply Keeps.mk')

theorem State.clockArrives_keeps (s : State) (t : Nat) {r₀ : State} (hk₀ : Keeps r₀ s) : Keeps r₀ (State.clockArrives s t) := by
  unfold State.clockArrives
  repeat' (first
    | assumption
    | with_reducible apply State.modTamb_keeps
    | with_reducible apply State.tellWakeLate_keeps
    | with_reducible apply Keeps.ite)

theorem State.wakeMissed_keeps (s : State) (i : BandId) {r₀ : State} (hk₀ : Keeps r₀ s) : Keeps r₀ (State.wakeMissed s i) := by
  unfold State.wakeMissed
  repeat' (first
    | assumption
    | with_reducible apply State.wakeLateFor_keeps
    | with_reducible apply Keeps.ite
    | (with_reducible refine Keeps.foldl ?_ ?_)
    | split
    | with_reducible exact Keeps.mk' (by assumption)
    | with_reducible apply Keeps.mk')

theorem State.wakeForWork_keeps (s : State) (t : Nat) {r₀ : State} (hk₀ : Keeps r₀ s) : Keeps r₀ (State.wakeForWork s t) := by
  unfold State.wakeForWork
  repeat' (first
    | assumption
    | with_reducible apply State.needTambour_keeps
    | with_reducible apply State.tellWakeLate_keeps
    | with_reducible apply Keeps.ite)

theorem State.nameInto_keeps (s : State) (t k : Nat) (i : BandId) {r₀ : State} (hk₀ : Keeps r₀ s) : Keeps r₀ (State.nameInto s t k i) := by
  unfold State.nameInto
  repeat' (first
    | assumption
    | with_reducible apply State.modBand_keeps
    | with_reducible apply State.modTamb_keeps)

theorem State.displace_keeps (s : State) (t k : Nat) (i v : BandId) {r₀ : State} (hk₀ : Keeps r₀ s) : Keeps r₀ (State.displace s t k i v) := by
  unfold State.displace
  repeat' (first
    | assumption
    | with_reducible apply State.modBand_keeps
    | with_reducible apply State.nameInto_keeps
    | with_reducible apply Keeps.ite)

theorem State.nameBand_keeps (s : State) (t : Nat) (i : BandId) {r₀ : State} (hk₀ : Keeps r₀ s) : Keeps r₀ (State.nameBand s t i) := by
  unfold State.nameBand
  repeat' (first
    | assumption
    | with_reducible apply State.displace_keeps
    | with_reducible apply State.modBand_keeps
    | with_reducible apply State.modTamb_keeps
    | with_reducible apply State.nameInto_keeps
    | with_reducible apply Keeps.ite
    | (with_reducible refine Keeps.foldl ?_ ?_)
    | split
    | with_reducible exact Keeps.mk' (by assumption)
    | with_reducible apply Keeps.mk')

theorem State.fixPicture_keeps (s : State) (i : BandId) {r₀ : State} (hk₀ : Keeps r₀ s) : Keeps r₀ (State.fixPicture s i) := by
  unfold State.fixPicture
  repeat' (first
    | assumption
    | with_reducible apply State.namePic_keeps
    | with_reducible apply State.skipFrom_keeps
    | with_reducible apply Keeps.ite)

theorem State.nameOnce_keeps (s : State) (t : Nat) {r₀ : State} (hk₀ : Keeps r₀ s) : Keeps r₀ (State.nameOnce s t) := by
  unfold State.nameOnce
  repeat' (first
    | assumption
    | with_reducible apply State.fixPicture_keeps
    | with_reducible apply State.nameBand_keeps
    | with_reducible apply Keeps.ite
    | (with_reducible refine Keeps.foldl ?_ ?_)
    | split)

theorem State.nameTimes_keeps (n : Nat) (s : State) (t : Nat) {r₀ : State} (hk₀ : Keeps r₀ s) : Keeps r₀ (State.nameTimes n s t) := by
  induction n generalizing s t with
  | zero =>
    unfold State.nameTimes
    try dsimp only
    repeat' (first
      | assumption)
  | succ k_ ih =>
    unfold State.nameTimes
    try dsimp only
    repeat' (first
      | assumption
      | with_reducible apply ih
      | with_reducible apply State.nameOnce_keeps)

theorem State.prefetch_keeps (s : State) (t : Nat) {r₀ : State} (hk₀ : Keeps r₀ s) : Keeps r₀ (State.prefetch s t) := by
  unfold State.prefetch
  repeat' (first
    | assumption
    | with_reducible apply State.modTamb_keeps
    | with_reducible apply Keeps.ite)

theorem State.judgeWait_keeps (s : State) (t : Nat) {r₀ : State} (hk₀ : Keeps r₀ s) : Keeps r₀ (State.judgeWait s t) := by
  unfold State.judgeWait
  repeat' (first
    | assumption
    | with_reducible apply State.modTamb_keeps
    | with_reducible apply Keeps.ite
    | (with_reducible refine Keeps.foldl ?_ ?_)
    | split)

theorem State.name_keeps (s : State) (t : Nat) {r₀ : State} (hk₀ : Keeps r₀ s) : Keeps r₀ (State.name s t) := by
  unfold State.name
  repeat' (first
    | assumption
    | with_reducible apply State.judgeWait_keeps
    | with_reducible apply State.nameTimes_keeps
    | with_reducible apply State.prefetch_keeps
    | with_reducible apply State.wakeForWork_keeps)

theorem State.uncommitAndName_keeps (s : State) (c p from_ : Nat) {r₀ : State} (hk₀ : Keeps r₀ s) : Keeps r₀ (State.uncommitAndName s c p from_) := by
  unfold State.uncommitAndName
  repeat' (first
    | assumption
    | with_reducible apply State.name_keeps
    | with_reducible apply State.uncommit_keeps)

theorem State.leaveCoding_keeps (s : State) (t : Nat) {r₀ : State} (hk₀ : Keeps r₀ s) : Keeps r₀ (State.leaveCoding s t) := by
  unfold State.leaveCoding
  repeat' (first
    | assumption
    | with_reducible apply State.modBand_keeps
    | with_reducible apply State.modTamb_keeps
    | with_reducible apply Keeps.ite
    | (with_reducible refine Keeps.foldl ?_ ?_)
    | split)

theorem State.flushAbandons_keeps (s : State) (c : Nat) {r₀ : State} (hk₀ : Keeps r₀ s) : Keeps r₀ (State.flushAbandons s c) := by
  unfold State.flushAbandons
  repeat' (first
    | assumption
    | with_reducible apply State.captureAbandon_keeps
    | with_reducible apply State.modBand_keeps
    | with_reducible apply Keeps.ite
    | (with_reducible refine Keeps.foldl ?_ ?_)
    | (intro t x ht; try dsimp only))

theorem State.streamStop_keeps (s : State) (c : Nat) {r₀ : State} (hk₀ : Keeps r₀ s) : Keeps r₀ (State.streamStop s c) := by
  unfold State.streamStop
  refine State.name_keeps _ _ (State.flushAbandons_keeps _ _ (State.modChannel_keeps _ _ _ (State.freeUnits_keeps _ _ _ ?_)))
  refine Keeps.foldl ?_ fun t p ht => Keeps.foldl ht fun t b ht => Keeps.ite (State.bandOutcome_keeps _ _ _ ht) ht
  refine Keeps.foldl ?_ fun t i ht => State.withhold_keeps _ _ _ ht
  exact Keeps.foldl hk₀ fun t i ht => Keeps.ite (State.abandon_keeps _ _ ht) ht

theorem State.haltTambours_keeps (s : State) {r₀ : State} (hk₀ : Keeps r₀ s) : Keeps r₀ (State.haltTambours s) := by
  unfold State.haltTambours
  repeat' (first
    | assumption
    | with_reducible apply State.abandon_keeps
    | with_reducible apply State.assertIrq_keeps
    | with_reducible apply Keeps.ite
    | (with_reducible refine Keeps.foldl ?_ ?_)
    | (intro t x ht; try dsimp only)
    | split)

theorem State.abandonCoding_keeps (s : State) (t : Nat) {r₀ : State} (hk₀ : Keeps r₀ s) : Keeps r₀ (State.abandonCoding s t) := by
  unfold State.abandonCoding
  repeat' (first
    | assumption
    | with_reducible apply State.abandon_keeps
    | with_reducible apply Keeps.ite
    | (with_reducible refine Keeps.foldl ?_ ?_)
    | split)

theorem State.refCorrupt_keeps (s : State) (c q : Nat) {r₀ : State} (hk₀ : Keeps r₀ s) : Keeps r₀ (State.refCorrupt s c q) := by
  unfold State.refCorrupt
  repeat' (first
    | with_reducible assumption
    | with_reducible apply State.modBand_keeps
    | with_reducible apply State.modPic_keeps
    | with_reducible apply State.uncommitAndName_keeps
    | with_reducible apply Keeps.ite
    | (with_reducible refine Keeps.foldl ?_ ?_)
    | split
    | with_reducible exact Keeps.mk' (by assumption)
    | with_reducible apply Keeps.mk')

/-! ## BlockOps -/

theorem State.ledgerBlock_keeps (s : State) (ch k : Nat) (c : ChannelCfg) (old : Option (SMap Nat)) (new : SMap Nat) (x y : Nat) {r₀ : State} (hk₀ : Keeps r₀ s) : Keeps r₀ (State.ledgerBlock s ch k c old new x y) := by
  unfold State.ledgerBlock
  repeat' (first
    | assumption
    | with_reducible apply Keeps.ite
    | (with_reducible refine Keeps.foldl ?_ ?_)
    | split
    | with_reducible exact Keeps.mk' (by assumption))

/-! ## Irq -/

theorem State.lineRise_keeps (s : State) (n : Nat) {r₀ : State} (hk₀ : Keeps r₀ s) : Keeps r₀ (State.lineRise s n) := by
  unfold State.lineRise
  repeat' (first
    | assumption
    | with_reducible apply State.assertIrq_keeps
    | with_reducible apply State.modSrc_keeps
    | with_reducible apply Keeps.ite)

theorem State.claim_keeps (s : State) (c : Nat) {r₀ : State} (hk₀ : Keeps r₀ s) : Keeps r₀ (State.claim s c) := by
  unfold State.claim
  repeat' (first
    | assumption
    | with_reducible apply State.modSrc_keeps
    | with_reducible apply Keeps.ite
    | (with_reducible refine Keeps.foldl ?_ ?_)
    | split
    | with_reducible exact Keeps.mk' (by assumption))

theorem State.complete_keeps (s : State) (c n : Nat) {r₀ : State} (hk₀ : Keeps r₀ s) : Keeps r₀ (State.complete s c n) := by
  unfold State.complete
  repeat' (first
    | assumption
    | with_reducible apply State.modSrc_keeps
    | with_reducible apply State.raise_keeps
    | with_reducible apply Keeps.ite)

theorem State.returnRecords_keeps (s : State) (c head : Nat) {r₀ : State} (hk₀ : Keeps r₀ s) : Keeps r₀ (State.returnRecords s c head) := by
  unfold State.returnRecords
  cases h : s.takeConsumer (fbQueue c) head with
  | none => exact State.raise_keeps _ _ _ _ _ hk₀
  | some t =>
    have ht := State.takeConsumer_keeps _ _ _ h hk₀
    exact Keeps.ite (State.rawLine_keeps _ _ _ ht) ht

theorem State.msixClearMask_keeps (s : State) (v : Nat) {r₀ : State} (hk₀ : Keeps r₀ s) : Keeps r₀ (State.msixClearMask s v) := by
  unfold State.msixClearMask
  repeat' (first
    | assumption
    | with_reducible apply Keeps.ite
    | (with_reducible refine Keeps.foldl ?_ ?_)
    | split
    | with_reducible exact Keeps.mk' (by assumption))

/-! ## HostRegs -/

theorem State.writePortCfg_keeps (s : State) (n v : Nat) {r₀ : State} (hk₀ : Keeps r₀ s) : Keeps r₀ (State.writePortCfg s n v) := by
  unfold State.writePortCfg
  repeat' (first
    | assumption
    | with_reducible apply State.setRegN_keeps
    | with_reducible apply Keeps.ite)

theorem State.writeIrqSrc_keeps (s : State) (n v : Nat) {r₀ : State} (hk₀ : Keeps r₀ s) : Keeps r₀ (State.writeIrqSrc s n v) := by
  unfold State.writeIrqSrc
  repeat' (first
    | assumption
    | with_reducible apply State.dropLine_keeps
    | with_reducible apply State.modSrc_keeps
    | with_reducible apply State.raiseLine_keeps
    | with_reducible apply Keeps.ite)

theorem State.clearFuncMask_keeps (s : State) {r₀ : State} (hk₀ : Keeps r₀ s) : Keeps r₀ (State.clearFuncMask s) := by
  unfold State.clearFuncMask
  repeat' (first
    | assumption
    | with_reducible apply State.msixClearMask_keeps
    | with_reducible apply Keeps.ite
    | (with_reducible refine Keeps.foldl ?_ ?_)
    | (intro t x ht; try dsimp only)
    | split
    | with_reducible exact Keeps.mk' (by assumption))

theorem State.writeOutside_keeps (s : State) (a v : Nat) {r₀ : State} (hk₀ : Keeps r₀ s) : Keeps r₀ (State.writeOutside s a v) := by
  unfold State.writeOutside
  repeat' (first
    | assumption
    | with_reducible apply State.clearFuncMask_keeps
    | with_reducible apply State.msixClearMask_keeps
    | with_reducible apply Keeps.ite
    | (with_reducible refine Keeps.foldl ?_ ?_)
    | split
    | with_reducible exact Keeps.mk' (by assumption))

theorem State.writeFile_keeps (s : State) (who : Requester) (a v : Nat) {r₀ : State} (hk₀ : Keeps r₀ s) : Keeps r₀ (State.writeFile s who a v) := by
  unfold State.writeFile
  repeat' (first
    | assumption
    | with_reducible apply State.commitPair_keeps
    | with_reducible apply State.holdLow_keeps
    | with_reducible apply State.setPair_keeps
    | with_reducible apply State.setRegN_keeps
    | with_reducible apply Keeps.ite
    | (with_reducible refine Keeps.foldl ?_ ?_)
    | split)

/-! ## StatsRing -/

theorem State.refreshFor_keeps (s : State) (q need : Nat) {r₀ : State} (hk₀ : Keeps r₀ s) : Keeps r₀ (State.refreshFor s q need) := by
  unfold State.refreshFor
  repeat' (first
    | assumption
    | with_reducible apply State.dbInvalid_keeps
    | refine State.takeConsumer_keeps _ _ _ (by assumption) ?_
    | with_reducible apply State.haltWindlass_keeps
    | with_reducible apply Keeps.ite
    | split)

theorem State.signalRing_keeps (s : State) (q us : Nat) {r₀ : State} (hk₀ : Keeps r₀ s) : Keeps r₀ (State.signalRing s q us) := by
  unfold State.signalRing
  repeat' (first
    | assumption
    | with_reducible apply State.assertIrq_keeps
    | with_reducible apply State.modQueue_keeps
    | with_reducible apply State.signalWith_keeps
    | with_reducible apply Keeps.ite
    | (with_reducible refine Keeps.foldl ?_ ?_)
    | split)

theorem State.putRecord_keeps (s : State) (q us ty slots body : Nat) {r₀ : State} (hk₀ : Keeps r₀ s) : Keeps r₀ (State.putRecord s q us ty slots body) := by
  unfold State.putRecord
  repeat' (first
    | assumption
    | with_reducible apply State.modQueue_keeps
    | with_reducible apply State.refreshFor_keeps
    | with_reducible apply State.signalRing_keeps
    | with_reducible apply State.slot_keeps
    | with_reducible apply State.spaceWrite_keeps
    | with_reducible apply Keeps.ite)

theorem State.modSubs_keeps (s : State) (kind source : Nat) (f : Sub → Sub) {r₀ : State} (hk₀ : Keeps r₀ s) : Keeps r₀ (State.modSubs s kind source f) := by
  unfold State.modSubs
  repeat' (first
    | assumption
    | with_reducible apply Keeps.ite
    | (with_reducible refine Keeps.foldl ?_ ?_)
    | split
    | with_reducible exact Keeps.mk' (by assumption))

theorem State.meter_keeps (s : State) (kind source : Nat) (f : Measure → Measure) {r₀ : State} (hk₀ : Keeps r₀ s) : Keeps r₀ (State.meter s kind source f) := by
  unfold State.meter
  repeat' (first
    | assumption
    | with_reducible apply State.modSubs_keeps)

theorem State.markPartial_keeps (s : State) (kind source : Nat) {r₀ : State} (hk₀ : Keeps r₀ s) : Keeps r₀ (State.markPartial s kind source) := by
  unfold State.markPartial
  repeat' (first
    | assumption
    | with_reducible apply State.modSubs_keeps)

theorem State.restartInterval_keeps (s : State) (kind source : Nat) {r₀ : State} (hk₀ : Keeps r₀ s) : Keeps r₀ (State.restartInterval s kind source) := by
  unfold State.restartInterval
  repeat' (first
    | assumption
    | with_reducible apply State.modSubs_keeps)

theorem State.drainFlow_keeps (s : State) (n t : Nat) {r₀ : State} (hk₀ : Keeps r₀ s) : Keeps r₀ (State.drainFlow s n t) := by
  unfold State.drainFlow
  repeat' (first
    | assumption
    | with_reducible apply State.meter_keeps
    | with_reducible apply Keeps.ite
    | (with_reducible refine Keeps.foldl ?_ ?_)
    | split
    | with_reducible exact Keeps.mk' (by assumption))

theorem State.closeInterval_keeps (s : State) (u : Sub) (part : Bool) (next : Nat) {r₀ : State} (hk₀ : Keeps r₀ s) : Keeps r₀ (State.closeInterval s u part next) := by
  unfold State.closeInterval
  repeat' (first
    | assumption
    | with_reducible apply State.drainFlow_keeps
    | with_reducible apply State.putRecord_keeps
    | with_reducible apply Keeps.ite
    | (with_reducible refine Keeps.foldl ?_ ?_)
    | split
    | with_reducible exact Keeps.mk' (by assumption)
    | with_reducible apply Keeps.mk')

theorem State.stepIntervals_keeps (s : State) (now : Nat) {r₀ : State} (hk₀ : Keeps r₀ s) : Keeps r₀ (State.stepIntervals s now) := by
  unfold State.stepIntervals
  repeat' (first
    | assumption
    | with_reducible apply State.closeInterval_keeps
    | with_reducible apply Keeps.ite
    | (with_reducible refine Keeps.foldl ?_ ?_)
    | (intro t x ht; try dsimp only))

theorem State.endDue_keeps (n : Nat) (s : State) (want : Sub → Bool) {r₀ : State} (hk₀ : Keeps r₀ s) : Keeps r₀ (State.endDue n s want) := by
  induction n generalizing s want with
  | zero =>
    unfold State.endDue
    try dsimp only
    repeat' (first
      | assumption)
  | succ k_ ih =>
    unfold State.endDue
    try dsimp only
    repeat' (first
      | assumption
      | with_reducible apply ih
      | with_reducible apply State.closeInterval_keeps
      | with_reducible apply Keeps.ite
      | (with_reducible refine Keeps.foldl ?_ ?_)
      | split)

theorem State.endIntervals_keeps (s : State) (kind source : Nat) {r₀ : State} (hk₀ : Keeps r₀ s) : Keeps r₀ (State.endIntervals s kind source) := by
  unfold State.endIntervals
  repeat' (first
    | assumption
    | with_reducible apply State.endDue_keeps
    | with_reducible apply Keeps.ite)

/-! ## FlowOps -/

theorem State.dropChain_keeps (s : State) (first n owner : Nat) {r₀ : State} (hk₀ : Keeps r₀ s) : Keeps r₀ (State.dropChain s first n owner) := by
  unfold State.dropChain
  repeat' (first
    | assumption
    | with_reducible apply State.freeCells_keeps
    | with_reducible apply Keeps.ite
    | (with_reducible refine Keeps.foldl ?_ ?_)
    | split
    | with_reducible exact Keeps.mk' (by assumption))

theorem State.bindIngress_keeps (s : State) (flow ch port : Nat) (f : IFlow) {r₀ : State} (hk₀ : Keeps r₀ s) : Keeps r₀ (State.bindIngress s flow ch port f) := by
  unfold State.bindIngress
  repeat' (first
    | assumption
    | with_reducible apply State.modIflow_keeps
    | with_reducible apply State.modQueue_keeps
    | with_reducible apply State.restartInterval_keeps
    | with_reducible apply Keeps.ite
    | (with_reducible refine Keeps.foldl ?_ ?_)
    | split
    | with_reducible exact Keeps.mk' (by assumption)
    | with_reducible apply Keeps.mk')

theorem State.bindEgress_keeps (s : State) (flow ch port : Nat) (solo : Bool) (f : EFlow) {r₀ : State} (hk₀ : Keeps r₀ s) : Keeps r₀ (State.bindEgress s flow ch port solo f) := by
  unfold State.bindEgress
  repeat' (first
    | assumption
    | with_reducible apply State.modEflow_keeps
    | with_reducible apply State.modQueue_keeps)

theorem State.drainIfq_keeps (n : Nat) (s : State) (flow : Nat) {r₀ : State} (hk₀ : Keeps r₀ s) : Keeps r₀ (State.drainIfq n s flow) := by
  induction n generalizing s flow with
  | zero =>
    unfold State.drainIfq
    try dsimp only
    repeat' (first
      | assumption)
  | succ k_ ih =>
    unfold State.drainIfq
    try dsimp only
    repeat' (first
      | assumption
      | with_reducible apply ih
      | with_reducible apply State.freeCells_keeps
      | with_reducible apply State.popEntry_keeps
      | with_reducible apply Keeps.ite)

theorem State.packetGone_keeps (s : State) (flow cell : Nat) {r₀ : State} (hk₀ : Keeps r₀ s) : Keeps r₀ (State.packetGone s flow cell) := by
  unfold State.packetGone
  repeat' (first
    | assumption
    | with_reducible apply State.modBand_keeps
    | with_reducible apply Keeps.ite
    | (with_reducible refine Keeps.foldl ?_ ?_)
    | split)

theorem State.efqPut_keeps (s : State) (flow v : Nat) {r₀ : State} (hk₀ : Keeps r₀ s) : Keeps r₀ (State.efqPut s flow v) := by
  unfold State.efqPut
  repeat' (first
    | assumption
    | with_reducible apply State.putEntry_keeps
    | with_reducible apply Keeps.ite
    | (with_reducible refine Keeps.foldl ?_ ?_)
    | split
    | with_reducible exact Keeps.mk' (by assumption))

theorem State.efqInsert_keeps (s : State) (flow v : Nat) (later : List Nat) {r₀ : State} (hk₀ : Keeps r₀ s) : Keeps r₀ (State.efqInsert s flow v later) := by
  unfold State.efqInsert
  repeat' (first
    | assumption
    | with_reducible apply State.efqPut_keeps
    | with_reducible apply State.setEfq_keeps
    | with_reducible apply Keeps.ite)

theorem State.efqRefill_keeps (s : State) (flow : Nat) {r₀ : State} (hk₀ : Keeps r₀ s) : Keeps r₀ (State.efqRefill s flow) := by
  unfold State.efqRefill
  repeat' (first
    | assumption
    | with_reducible apply State.putEntry_keeps
    | with_reducible apply Keeps.ite
    | (with_reducible refine Keeps.foldl ?_ ?_)
    | split
    | with_reducible exact Keeps.mk' (by assumption))

theorem State.dropEntry_keeps (s : State) (flow v : Nat) {r₀ : State} (hk₀ : Keeps r₀ s) : Keeps r₀ (State.dropEntry s flow v) := by
  unfold State.dropEntry
  repeat' (first
    | assumption
    | with_reducible apply State.dropChain_keeps
    | with_reducible apply State.packetGone_keeps
    | with_reducible apply Keeps.ite)

theorem State.drainEfq_keeps (n : Nat) (s : State) (flow : Nat) {r₀ : State} (hk₀ : Keeps r₀ s) : Keeps r₀ (State.drainEfq n s flow) := by
  induction n generalizing s flow with
  | zero =>
    unfold State.drainEfq
    try dsimp only
    repeat' (first
      | assumption)
  | succ k_ ih =>
    unfold State.drainEfq
    try dsimp only
    repeat' (first
      | assumption
      | with_reducible apply ih
      | with_reducible apply State.dropEntry_keeps
      | with_reducible apply State.efqRefill_keeps
      | with_reducible apply State.popEntry_keeps
      | with_reducible apply Keeps.ite)

theorem State.unbindIngress_keeps (s : State) (flow : Nat) {r₀ : State} (hk₀ : Keeps r₀ s) : Keeps r₀ (State.unbindIngress s flow) := by
  unfold State.unbindIngress
  repeat' (first
    | assumption
    | with_reducible apply State.drainIfq_keeps
    | with_reducible apply State.modIflow_keeps
    | with_reducible apply State.modQueue_keeps
    | with_reducible apply Keeps.ite
    | (with_reducible refine Keeps.foldl ?_ ?_)
    | split
    | with_reducible exact Keeps.mk' (by assumption)
    | with_reducible apply Keeps.mk')

theorem State.unbindEgress_keeps (s : State) (flow : Nat) {r₀ : State} (hk₀ : Keeps r₀ s) : Keeps r₀ (State.unbindEgress s flow) := by
  unfold State.unbindEgress
  repeat' (first
    | assumption
    | with_reducible apply State.drainEfq_keeps
    | with_reducible apply State.modEflow_keeps
    | with_reducible apply State.modQueue_keeps)

theorem State.unbindChannel_keeps (s : State) (ch : Nat) {r₀ : State} (hk₀ : Keeps r₀ s) : Keeps r₀ (State.unbindChannel s ch) := by
  unfold State.unbindChannel
  repeat' (first
    | assumption
    | with_reducible apply State.unbindEgress_keeps
    | with_reducible apply State.unbindIngress_keeps
    | with_reducible apply Keeps.ite
    | (with_reducible refine Keeps.foldl ?_ ?_)
    | (intro t x ht; try dsimp only))

theorem State.bindIn_keeps (s : State) (flow ch port : Nat) (solo : Bool) (v : Nat) {r₀ : State} (hk₀ : Keeps r₀ s) : Keeps r₀ (State.bindIn s flow ch port solo v).1 := by
  unfold State.bindIn
  repeat' (first
    | assumption
    | with_reducible apply State.bindIngress_keeps
    | with_reducible apply Keeps.ite
    | (with_reducible refine Keeps.foldl ?_ ?_)
    | split
    | (lift_lets; intro t; refine Keeps.bind t ?_ ?_; focus (dsimp only [t]))
    | (intro ht; clear_value t)
    | (lift_lets; intro t; clear_value t))

theorem State.bindOut_keeps (s : State) (flow ch port : Nat) (solo : Bool) (v : Nat) {r₀ : State} (hk₀ : Keeps r₀ s) : Keeps r₀ (State.bindOut s flow ch port solo v).1 := by
  unfold State.bindOut
  repeat' (first
    | assumption
    | with_reducible apply State.bindEgress_keeps
    | with_reducible apply Keeps.ite
    | (with_reducible refine Keeps.foldl ?_ ?_)
    | (intro t x ht; try dsimp only)
    | split
    | (lift_lets; intro t; refine Keeps.bind t ?_ ?_; focus (dsimp only [t]))
    | (intro ht; clear_value t)
    | (lift_lets; intro t; clear_value t)
    | with_reducible exact Keeps.mk' (by assumption)
    | with_reducible apply Keeps.mk')

end Sys2Proof.Machine
end

