-- ==== Sys2Proof/Laws/KeepsReactions.lean ====
section
/-!
SUPPORT. What the commands keep, for the twin link, channels, the encoder, microcode, the fault collector, power, resets and time.
-/
namespace Sys2Proof.Machine

/-! ## TwinLink -/

theorem State.setOwnArm_keeps (s : State) (c : Nat) (v : Option (Nat × Nat)) {r₀ : State} (hk₀ : Keeps r₀ s) : Keeps r₀ (State.setOwnArm s c v) := by
  unfold State.setOwnArm
  repeat' (first
    | assumption
    | with_reducible apply Keeps.ite
    | (with_reducible refine Keeps.foldl ?_ ?_)
    | split
    | with_reducible exact Keeps.mk' (by assumption))

theorem State.setPeerArm_keeps (s : State) (c : Nat) (v : Option (Nat × Nat)) {r₀ : State} (hk₀ : Keeps r₀ s) : Keeps r₀ (State.setPeerArm s c v) := by
  unfold State.setPeerArm
  repeat' (first
    | assumption
    | with_reducible apply Keeps.ite
    | (with_reducible refine Keeps.foldl ?_ ?_)
    | split
    | with_reducible exact Keeps.mk' (by assumption))

theorem State.withdrawStart_keeps (s : State) (c : Nat) (r : Reply) {r₀ : State} (hk₀ : Keeps r₀ s) : Keeps r₀ (State.withdrawStart s c r) := by
  unfold State.withdrawStart
  repeat' (first
    | assumption
    | with_reducible apply State.endDeferred_keeps
    | with_reducible apply State.setOwnArm_keeps
    | with_reducible apply State.twSend_keeps
    | with_reducible apply Keeps.ite
    | (with_reducible refine Keeps.foldl ?_ ?_)
    | split)

theorem State.armChannel_keeps (s : State) (c startNs : Nat) (join : Bool) {r₀ : State} (hk₀ : Keeps r₀ s) : Keeps r₀ (State.armChannel s c startNs join).1 := by
  unfold State.armChannel
  repeat' (first
    | assumption
    | with_reducible apply State.modChannel_keeps)

theorem State.matchArms_keeps (s : State) (c : Nat) (own peer : Nat × Nat) (join : Bool) {r₀ : State} (hk₀ : Keeps r₀ s) : Keeps r₀ (State.matchArms s c own peer join).1 := by
  unfold State.matchArms
  repeat' (first
    | assumption
    | with_reducible apply State.armChannel_keeps
    | with_reducible apply State.setOwnArm_keeps
    | with_reducible apply State.setPeerArm_keeps
    | with_reducible apply Keeps.ite
    | (with_reducible refine Keeps.foldl ?_ ?_)
    | split)

/-! ## Channels -/

theorem State.createChannel_keeps (s : State) (c : Nat) (decode : Bool) (addr evq : Nat) {r₀ : State} (hk₀ : Keeps r₀ s) : Keeps r₀ (State.createChannel s c decode addr evq).1 := by
  unfold State.createChannel
  repeat' (first
    | assumption
    | with_reducible apply State.modChannel_keeps
    | with_reducible apply Keeps.ite
    | (with_reducible refine Keeps.foldl ?_ ?_)
    | split)

theorem State.configureChannel_keeps (s : State) (c addr : Nat) {r₀ : State} (hk₀ : Keeps r₀ s) : Keeps r₀ (State.configureChannel s c addr).1 := by
  unfold State.configureChannel
  repeat' (first
    | assumption
    | with_reducible apply State.modChannel_keeps
    | with_reducible apply Keeps.ite
    | (with_reducible refine Keeps.foldl ?_ ?_)
    | split
    | (lift_lets; intro t; refine Keeps.bind t ?_ ?_; focus (dsimp only [t]))
    | (intro ht; clear_value t)
    | (lift_lets; intro t; clear_value t))

theorem State.startChannel_keeps (s : State) (h : CmdHdr) (idx c : Nat) (join : Bool) (sec ns fetchedAt : Nat) {r₀ : State} (hk₀ : Keeps r₀ s) : Keeps r₀ (State.startChannel s h idx c join sec ns fetchedAt).1 := by
  unfold State.startChannel
  split
  · exact hk₀
  · dsimp only
    split
    · exact State.armChannel_keeps _ _ _ _ hk₀
    · split
      · exact hk₀
      · split
        · exact State.matchArms_keeps _ _ _ _ _ (State.twSend_keeps _ _ (State.setOwnArm_keeps _ _ _ hk₀))
        · exact State.addDeferred_keeps _ _ (State.twSend_keeps _ _ (State.setOwnArm_keeps _ _ _ hk₀))

theorem State.channelStopped_keeps (s : State) (c : Nat) {r₀ : State} (hk₀ : Keeps r₀ s) : Keeps r₀ (State.channelStopped s c) := by
  unfold State.channelStopped
  repeat' (first
    | assumption
    | with_reducible apply State.flushAbandons_keeps
    | with_reducible apply State.freeUnits_keeps
    | with_reducible apply State.modChannel_keeps
    | with_reducible apply State.raise_keeps)

theorem State.stopChannel_keeps (s : State) (c sec ns fetchedAt : Nat) {r₀ : State} (hk₀ : Keeps r₀ s) : Keeps r₀ (State.stopChannel s c sec ns fetchedAt).1 := by
  unfold State.stopChannel
  repeat' (first
    | assumption
    | with_reducible apply State.channelStopped_keeps
    | with_reducible apply State.modChannel_keeps
    | with_reducible apply Keeps.ite
    | (with_reducible refine Keeps.foldl ?_ ?_)
    | split)

theorem State.destroyChannel_keeps (s : State) (c : Nat) {r₀ : State} (hk₀ : Keeps r₀ s) : Keeps r₀ (State.destroyChannel s c).1 := by
  unfold State.destroyChannel
  repeat' (first
    | assumption
    | with_reducible apply State.modChannel_keeps
    | with_reducible apply State.unbindChannel_keeps
    | with_reducible apply Keeps.ite
    | (with_reducible refine Keeps.foldl ?_ ?_)
    | split
    | with_reducible exact Keeps.mk' (by assumption)
    | with_reducible apply Keeps.mk')

theorem State.channelRunning_keeps (s : State) (c : Nat) {r₀ : State} (hk₀ : Keeps r₀ s) : Keeps r₀ (State.channelRunning s c) := by
  unfold State.channelRunning
  repeat' (first
    | assumption
    | with_reducible apply State.modChannel_keeps
    | with_reducible apply State.raise_keeps
    | with_reducible apply Keeps.ite)

theorem State.checkDrained_keeps (s : State) (c : Nat) {r₀ : State} (hk₀ : Keeps r₀ s) : Keeps r₀ (State.checkDrained s c) := by
  unfold State.checkDrained
  repeat' (first
    | assumption
    | with_reducible apply State.channelStopped_keeps
    | with_reducible apply Keeps.ite)

theorem State.stopTime_keeps (s : State) (c : Nat) {r₀ : State} (hk₀ : Keeps r₀ s) : Keeps r₀ (State.stopTime s c) := by
  unfold State.stopTime
  repeat' (first
    | assumption
    | with_reducible apply State.checkDrained_keeps
    | with_reducible apply State.freeUnits_keeps
    | with_reducible apply State.modChannel_keeps
    | with_reducible apply Keeps.ite
    | (with_reducible refine Keeps.foldl ?_ ?_)
    | split
    | with_reducible exact Keeps.mk' (by assumption)
    | with_reducible apply Keeps.mk')

theorem State.forceIntra_keeps (s : State) (c : Nat) {r₀ : State} (hk₀ : Keeps r₀ s) : Keeps r₀ (State.forceIntra s c).1 := by
  unfold State.forceIntra
  repeat' (first
    | assumption
    | with_reducible apply State.modChannel_keeps
    | with_reducible apply Keeps.ite
    | (with_reducible refine Keeps.foldl ?_ ?_)
    | (intro t x ht; try dsimp only)
    | split
    | (lift_lets; intro t; refine Keeps.bind t ?_ ?_; focus (dsimp only [t]))
    | (intro ht; clear_value t)
    | (lift_lets; intro t; clear_value t))

theorem State.receivePlan_keeps (s : State) (c v : Nat) (source : Bool) {r₀ : State} (hk₀ : Keeps r₀ s) : Keeps r₀ (State.receivePlan s c v source).1 := by
  unfold State.receivePlan
  repeat' (first
    | assumption
    | with_reducible apply State.modChannel_keeps
    | with_reducible apply Keeps.ite)

theorem State.picturePlan_keeps (s : State) (c addr : Nat) {r₀ : State} (hk₀ : Keeps r₀ s) : Keeps r₀ (State.picturePlan s c addr).1 := by
  unfold State.picturePlan
  repeat' (first
    | assumption
    | with_reducible apply State.receivePlan_keeps
    | with_reducible apply Keeps.ite
    | (with_reducible refine Keeps.foldl ?_ ?_)
    | split)

theorem State.mailboxPut_keeps (s : State) (c k v : Nat) {r₀ : State} (hk₀ : Keeps r₀ s) : Keeps r₀ (State.mailboxPut s c k v) := by
  unfold State.mailboxPut
  exact State.shwWrite_keeps _ _ _ _ (State.shwWrite_keeps _ _ _ _ hk₀)

theorem State.mailboxTake_keeps (s : State) (c k : Nat) (customer : Bool) {r₀ : State} (hk₀ : Keeps r₀ s) : Keeps r₀ (State.mailboxTake s c k customer) := by
  unfold State.mailboxTake
  repeat' (first
    | assumption
    | with_reducible apply State.receivePlan_keeps
    | with_reducible apply State.shwWrite_keeps
    | with_reducible apply Keeps.ite)

theorem State.rcPlan_keeps (s : State) (c : Nat) {r₀ : State} (hk₀ : Keeps r₀ s) : Keeps r₀ (State.rcPlan s c) := by
  unfold State.rcPlan
  exact Keeps.ite (State.mailboxPut_keeps _ _ _ _ (State.modChannel_keeps _ _ _ hk₀)) hk₀

/-! ## EncSlice -/

theorem State.modCoder_keeps (s : State) (t : Nat) (f : Coder → Coder) {r₀ : State} (hk₀ : Keeps r₀ s) : Keeps r₀ (State.modCoder s t f) := by
  unfold State.modCoder
  repeat' (first
    | assumption
    | with_reducible apply State.modTamb_keeps)

theorem State.e0Write_keeps (s : State) (t : Nat) (i : BandId) (bs : List Nat) (last : Bool) {r₀ : State} (hk₀ : Keeps r₀ s) : Keeps r₀ (State.e0Write s t i bs last) := by
  unfold State.e0Write
  repeat' (first
    | assumption
    | with_reducible apply State.modBand_keeps
    | with_reducible apply State.modCoder_keeps)

theorem State.e0Data_keeps (s : State) (t : Nat) (i : BandId) (bs : List Nat) (rowEnd last : Bool) {r₀ : State} (hk₀ : Keeps r₀ s) : Keeps r₀ (State.e0Data s t i bs rowEnd last) := by
  unfold State.e0Data
  repeat' (first
    | assumption
    | with_reducible apply State.e0Write_keeps
    | with_reducible apply State.modCoder_keeps
    | with_reducible apply Keeps.ite)

theorem State.e0Ctu_keeps (s : State) (t : Nat) (i : BandId) (code : CtuCode) (last : Bool) {r₀ : State} (hk₀ : Keeps r₀ s) : Keeps r₀ (State.e0Ctu s t i code last) := by
  unfold State.e0Ctu
  repeat' (first
    | assumption
    | with_reducible apply State.e0Data_keeps
    | with_reducible apply State.modCoder_keeps)

theorem State.pour_keeps (s : State) (t : Nat) (i : BandId) {r₀ : State} (hk₀ : Keeps r₀ s) : Keeps r₀ (State.pour s t i) := by
  unfold State.pour
  repeat' (first
    | assumption
    | with_reducible apply State.modCoder_keeps
    | with_reducible apply State.modSpout_keeps
    | with_reducible apply Keeps.ite)

theorem State.startSlice_keeps (s : State) (t : Nat) (i : BandId) {r₀ : State} (hk₀ : Keeps r₀ s) : Keeps r₀ (State.startSlice s t i) := by
  unfold State.startSlice
  repeat' (first
    | assumption
    | with_reducible apply State.e0Write_keeps
    | with_reducible apply State.measureInput_keeps
    | with_reducible apply State.modBand_keeps
    | with_reducible apply State.modChannel_keeps
    | with_reducible apply State.modCoder_keeps
    | with_reducible apply State.modPic_keeps
    | with_reducible apply Keeps.ite)

theorem State.tripGuard_keeps (s : State) (i : BandId) {r₀ : State} (hk₀ : Keeps r₀ s) : Keeps r₀ (State.tripGuard s i) := by
  unfold State.tripGuard
  repeat' (first
    | assumption
    | with_reducible apply State.modBand_keeps
    | with_reducible apply State.modChannel_keeps
    | with_reducible apply State.modPic_keeps
    | with_reducible apply Keeps.ite)

theorem State.decideCtu_keeps (s : State) (t : Nat) (i : BandId) (k : Nat) {r₀ : State} (hk₀ : Keeps r₀ s) : Keeps r₀ (State.decideCtu s t i k) := by
  unfold State.decideCtu
  repeat' (first
    | assumption
    | with_reducible apply State.modCoder_keeps
    | with_reducible apply State.modPic_keeps
    | with_reducible apply State.tripGuard_keeps
    | with_reducible apply Keeps.ite)

theorem State.f0Ctu_keeps (s : State) (t : Nat) (i : BandId) (d : CtuDue) {r₀ : State} (hk₀ : Keeps r₀ s) : Keeps r₀ (State.f0Ctu s t i d).1 := by
  unfold State.f0Ctu
  repeat' (first
    | assumption
    | with_reducible apply State.ledgerBlock_keeps
    | with_reducible apply State.modPic_keeps
    | with_reducible apply State.slot_keeps
    | with_reducible apply Keeps.ite
    | (with_reducible refine Keeps.foldl ?_ ?_)
    | (intro t x ht; try dsimp only))

theorem State.f0Block_keeps (s : State) (t : Nat) (i : BandId) (k : Nat) {r₀ : State} (hk₀ : Keeps r₀ s) : Keeps r₀ (State.f0Block s t i k) := by
  unfold State.f0Block
  repeat' (first
    | assumption
    | with_reducible apply State.modPic_keeps
    | with_reducible apply State.modTamb_keeps)

theorem State.writeCtu_keeps (s : State) (t : Nat) (i : BandId) (k : Nat) {r₀ : State} (hk₀ : Keeps r₀ s) : Keeps r₀ (State.writeCtu s t i k) := by
  unfold State.writeCtu
  repeat' (first
    | assumption
    | with_reducible apply State.e0Ctu_keeps
    | with_reducible apply State.f0Block_keeps
    | with_reducible apply State.f0Ctu_keeps
    | with_reducible apply State.modCoder_keeps
    | with_reducible apply Keeps.ite
    | (with_reducible refine Keeps.foldl ?_ ?_)
    | (intro t x ht; try dsimp only)
    | split)

theorem State.pipeline_keeps (s : State) (t : Nat) (i : BandId) {r₀ : State} (hk₀ : Keeps r₀ s) : Keeps r₀ (State.pipeline s t i) := by
  unfold State.pipeline
  repeat' (first
    | assumption
    | with_reducible apply State.decideCtu_keeps
    | with_reducible apply State.modCoder_keeps
    | with_reducible apply State.writeCtu_keeps
    | with_reducible apply Keeps.ite
    | (with_reducible refine Keeps.foldl ?_ ?_)
    | split)

theorem State.encodeSlot_keeps (s : State) (t : Nat) (i : BandId) {r₀ : State} (hk₀ : Keeps r₀ s) : Keeps r₀ (State.encodeSlot s t i) := by
  unfold State.encodeSlot
  repeat' (first
    | assumption
    | with_reducible apply State.pipeline_keeps
    | with_reducible apply State.pour_keeps
    | with_reducible apply Keeps.ite)

/-! ## Microcode -/

theorem State.microword_keeps (s : State) (t : Nat) (view : SeqView) {r₀ : State} (hk₀ : Keeps r₀ s) : Keeps r₀ (State.microword s t view) := by
  unfold State.microword
  repeat' (first
    | assumption
    | with_reducible apply State.modTamb_keeps
    | with_reducible apply State.takeFree_keeps
    | with_reducible apply Keeps.ite
    | (with_reducible refine Keeps.foldl ?_ ?_)
    | split)

theorem State.overrun_keeps (s : State) (t : Nat) {r₀ : State} (hk₀ : Keeps r₀ s) : Keeps r₀ (State.overrun s t) := by
  unfold State.overrun
  repeat' (first
    | assumption
    | with_reducible apply State.count_keeps
    | with_reducible apply State.modTamb_keeps
    | with_reducible apply State.raise_keeps
    | with_reducible apply Keeps.ite
    | (with_reducible refine Keeps.foldl ?_ ?_)
    | split
    | with_reducible exact Keeps.mk' (by assumption)
    | with_reducible apply Keeps.mk')

/-! ## TwinBands -/

theorem State.reportDiverge_keeps (s : State) (c p b cause peerT : Nat) {r₀ : State} (hk₀ : Keeps r₀ s) : Keeps r₀ (State.reportDiverge s c p b cause peerT) := by
  unfold State.reportDiverge
  repeat' (first
    | assumption
    | with_reducible apply State.count_keeps
    | with_reducible apply State.raise_keeps
    | with_reducible apply Keeps.ite
    | (with_reducible refine Keeps.foldl ?_ ?_)
    | split
    | with_reducible exact Keeps.mk' (by assumption))

theorem State.enterDiverged_keeps (s : State) (c : Nat) {r₀ : State} (hk₀ : Keeps r₀ s) : Keeps r₀ (State.enterDiverged s c) := by
  unfold State.enterDiverged
  repeat' (first
    | assumption
    | with_reducible apply State.modChannel_keeps)

theorem State.resync_keeps (s : State) (c : Nat) {r₀ : State} (hk₀ : Keeps r₀ s) : Keeps r₀ (State.resync s c) := by
  unfold State.resync
  repeat' (first
    | assumption
    | with_reducible apply Keeps.ite
    | (with_reducible refine Keeps.foldl ?_ ?_)
    | split
    | with_reducible exact Keeps.mk' (by assumption))

theorem State.skipNumbers_keeps (s : State) (i : BandId) (len : Nat) {r₀ : State} (hk₀ : Keeps r₀ s) : Keeps r₀ (State.skipNumbers s i len) := by
  unfold State.skipNumbers
  repeat' (first
    | assumption
    | with_reducible apply State.modBand_keeps)

theorem State.requestMirror_keeps (s : State) (i : BandId) (v : Nat) {r₀ : State} (hk₀ : Keeps r₀ s) : Keeps r₀ (State.requestMirror s i v) := by
  unfold State.requestMirror
  repeat' (first
    | assumption
    | with_reducible apply State.modBand_keeps
    | with_reducible apply State.skipNumbers_keeps
    | with_reducible apply State.twSend_keeps
    | with_reducible apply Keeps.ite)

theorem State.allow_keeps (s : State) (i : BandId) {r₀ : State} (hk₀ : Keeps r₀ s) : Keeps r₀ (State.allow s i) := by
  unfold State.allow
  repeat' (first
    | assumption
    | with_reducible apply State.modBand_keeps)

theorem State.skipRest_keeps (s : State) (i : BandId) {r₀ : State} (hk₀ : Keeps r₀ s) : Keeps r₀ (State.skipRest s i) := by
  unfold State.skipRest
  repeat' (first
    | assumption
    | with_reducible apply State.name_keeps
    | with_reducible apply State.skipFrom_keeps
    | with_reducible apply State.uncommit_keeps)

theorem State.countAbandoned_keeps (s : State) (i : BandId) {r₀ : State} (hk₀ : Keeps r₀ s) : Keeps r₀ (State.countAbandoned s i) := by
  unfold State.countAbandoned
  repeat' (first
    | with_reducible assumption
    | with_reducible apply State.reportLate_keeps
    | with_reducible apply State.uncommitAndName_keeps
    | with_reducible apply State.withhold_keeps
    | with_reducible apply Keeps.ite
    | (with_reducible refine Keeps.foldl ?_ ?_)
    | split)

theorem State.learnDiverged_keeps (s : State) (i : BandId) {r₀ : State} (hk₀ : Keeps r₀ s) : Keeps r₀ (State.learnDiverged s i) := by
  unfold State.learnDiverged
  repeat' (first
    | assumption
    | with_reducible apply State.resync_keeps
    | with_reducible apply Keeps.ite)

theorem State.judgeLeader_keeps (s : State) (i : BandId) (own peer : Nat) {r₀ : State} (hk₀ : Keeps r₀ s) : Keeps r₀ (State.judgeLeader s i own peer) := by
  unfold State.judgeLeader
  repeat' (first
    | with_reducible assumption
    | with_reducible apply State.allow_keeps
    | with_reducible apply State.countAbandoned_keeps
    | with_reducible apply State.learnDiverged_keeps
    | with_reducible apply State.reportDiverge_keeps
    | with_reducible apply State.reportLate_keeps
    | with_reducible apply State.requestMirror_keeps
    | with_reducible apply State.takeFree_keeps
    | with_reducible apply Keeps.ite
    | (with_reducible refine Keeps.foldl ?_ ?_)
    | split)

theorem State.judgeFollower_keeps (s : State) (i : BandId) (own lead : Nat) {r₀ : State} (hk₀ : Keeps r₀ s) : Keeps r₀ (State.judgeFollower s i own lead) := by
  unfold State.judgeFollower
  repeat' (first
    | with_reducible assumption
    | with_reducible apply State.allow_keeps
    | with_reducible apply State.countAbandoned_keeps
    | with_reducible apply State.enterDiverged_keeps
    | with_reducible apply State.modBand_keeps
    | with_reducible apply State.raise_keeps
    | with_reducible apply State.reportDiverge_keeps
    | with_reducible apply State.reportLate_keeps
    | with_reducible apply State.requestMirror_keeps
    | with_reducible apply State.skipRest_keeps
    | with_reducible apply State.takeFree_keeps
    | with_reducible apply State.withhold_keeps
    | with_reducible apply Keeps.ite
    | (with_reducible refine Keeps.foldl ?_ ?_)
    | split)

theorem State.judgePair_keeps (s : State) (i : BandId) {r₀ : State} (hk₀ : Keeps r₀ s) : Keeps r₀ (State.judgePair s i) := by
  unfold State.judgePair
  repeat' (first
    | assumption
    | with_reducible apply State.judgeFollower_keeps
    | with_reducible apply State.judgeLeader_keeps
    | with_reducible apply State.modBand_keeps
    | with_reducible apply Keeps.ite
    | (with_reducible refine Keeps.foldl ?_ ?_)
    | split
    | with_reducible exact Keeps.mk' (by assumption)
    | with_reducible apply Keeps.mk')

theorem State.settlePairs_keeps (n : Nat) (s : State) (c : Nat) {r₀ : State} (hk₀ : Keeps r₀ s) : Keeps r₀ (State.settlePairs n s c) := by
  induction n generalizing s c with
  | zero =>
    unfold State.settlePairs
    try dsimp only
    repeat' (first
      | assumption)
  | succ k_ ih =>
    unfold State.settlePairs
    try dsimp only
    repeat' (first
      | assumption
      | with_reducible apply ih
      | with_reducible apply State.judgePair_keeps
      | with_reducible apply Keeps.ite
      | (with_reducible refine Keeps.foldl ?_ ?_)
      | split)

theorem State.settle_keeps (s : State) (c : Nat) {r₀ : State} (hk₀ : Keeps r₀ s) : Keeps r₀ (State.settle s c) := by
  unfold State.settle
  repeat' (first
    | assumption
    | with_reducible apply State.settlePairs_keeps
    | with_reducible apply Keeps.ite)

theorem State.readyNow_keeps (s : State) (i : BandId) (done : Nat) {r₀ : State} (hk₀ : Keeps r₀ s) : Keeps r₀ (State.readyNow s i done) := by
  unfold State.readyNow
  repeat' (first
    | with_reducible assumption
    | with_reducible apply State.makeReady_keeps
    | with_reducible apply State.modPic_keeps
    | with_reducible apply State.name_keeps
    | with_reducible apply State.settle_keeps
    | with_reducible apply Keeps.ite)

theorem State.openReconcile_keeps (s : State) (i : BandId) {r₀ : State} (hk₀ : Keeps r₀ s) : Keeps r₀ (State.openReconcile s i) := by
  unfold State.openReconcile
  repeat' (first
    | assumption
    | with_reducible apply State.modBand_keeps
    | with_reducible apply State.twSend_keeps
    | with_reducible apply Keeps.ite
    | (with_reducible refine Keeps.foldl ?_ ?_)
    | (intro t x ht; try dsimp only))

/-! ## FaultColl -/

theorem State.logMessage_keeps (s : State) (m : FaultMsg) (cls : Nat) {r₀ : State} (hk₀ : Keeps r₀ s) : Keeps r₀ (State.logMessage s m cls) := by
  unfold State.logMessage
  repeat' (first
    | assumption
    | with_reducible apply Keeps.ite
    | (with_reducible refine Keeps.foldl ?_ ?_)
    | split
    | with_reducible exact Keeps.mk' (by assumption))

theorem State.notify_keeps (s : State) (m : FaultMsg) (cls : Nat) {r₀ : State} (hk₀ : Keeps r₀ s) : Keeps r₀ (State.notify s m cls) := by
  unfold State.notify
  repeat' (first
    | assumption
    | with_reducible apply State.assertIrq_keeps
    | with_reducible apply State.postEvent_keeps
    | with_reducible apply State.putFallback_keeps)

theorem State.cutFrames_keeps (s : State) {r₀ : State} (hk₀ : Keeps r₀ s) : Keeps r₀ (State.cutFrames s) := by
  unfold State.cutFrames
  repeat' (first
    | assumption
    | with_reducible apply Keeps.ite
    | (with_reducible refine Keeps.foldl ?_ ?_)
    | split
    | with_reducible exact Keeps.mk' (by assumption))

theorem State.enterSafe_keeps (s : State) {r₀ : State} (hk₀ : Keeps r₀ s) : Keeps r₀ (State.enterSafe s) := by
  unfold State.enterSafe
  repeat' (first
    | assumption
    | with_reducible apply State.cutFrames_keeps
    | with_reducible apply State.haltTambours_keeps
    | with_reducible apply State.setReg_keeps
    | with_reducible apply Keeps.ite
    | (with_reducible refine Keeps.foldl ?_ ?_)
    | split
    | with_reducible exact Keeps.mk' (by assumption))

theorem State.requestReset_keeps (s : State) {r₀ : State} (hk₀ : Keeps r₀ s) : Keeps r₀ (State.requestReset s) := by
  unfold State.requestReset
  repeat' (first
    | assumption
    | with_reducible apply State.assertSource_keeps
    | with_reducible apply Keeps.ite
    | (with_reducible refine Keeps.foldl ?_ ?_)
    | split
    | with_reducible exact Keeps.mk' (by assumption))

theorem State.endClass2_keeps (s : State) {r₀ : State} (hk₀ : Keeps r₀ s) : Keeps r₀ (State.endClass2 s) := by
  unfold State.endClass2
  repeat' (first
    | assumption
    | with_reducible apply State.endReactionLog_keeps
    | with_reducible apply State.putFallback_keeps
    | with_reducible apply Keeps.ite
    | (with_reducible refine Keeps.foldl ?_ ?_)
    | split)

theorem State.setReaction_keeps (s : State) (r : Reaction) {r₀ : State} (hk₀ : Keeps r₀ s) : Keeps r₀ (State.setReaction s r) := by
  unfold State.setReaction
  repeat' (first
    | assumption
    | with_reducible apply Keeps.ite
    | (with_reducible refine Keeps.foldl ?_ ?_)
    | split
    | with_reducible exact Keeps.mk' (by assumption))

theorem State.takeIn_keeps (s : State) (r : Reaction) (m : FaultMsg) {r₀ : State} (hk₀ : Keeps r₀ s) : Keeps r₀ (State.takeIn s r m) := by
  unfold State.takeIn
  exact Keeps.ite (State.streamStop_keeps _ _ (State.setReaction_keeps _ _ hk₀)) (State.setReaction_keeps _ _ hk₀)

theorem State.accept_keeps (s : State) (m : FaultMsg) {r₀ : State} (hk₀ : Keeps r₀ s) : Keeps r₀ (State.accept s m) := by
  unfold State.accept
  dsimp only
  have hc := State.count_keeps s (Reg.fltCnt + 4 * m.kind) 16 1 hk₀
  have hl := fun k => State.logMessage_keeps _ m k hc
  refine Keeps.ite (Keeps.ite (Keeps.mk' hc) (hl _)) (Keeps.ite (hl _) (Keeps.ite (State.notify_keeps _ _ _ (hl _)) ?_))
  split
  · exact Keeps.ite (State.endClass2_keeps _ (State.takeIn_keeps _ _ _ (State.notify_keeps _ _ _ (hl _))))
      (State.requestReset_keeps _ (State.enterSafe_keeps _ (State.setReaction_keeps _ _ (State.notify_keeps _ _ _ (hl _)))))
  · refine Keeps.ite ?_ (Keeps.ite (State.takeIn_keeps _ _ _ hc) (State.setReaction_keeps _ _ hc))
    exact State.requestReset_keeps _ (State.enterSafe_keeps _ (State.setReaction_keeps _ _ (State.notify_keeps _ _ _ (Keeps.mk' hc))))

theorem State.channelFaulted_keeps (s : State) (c : Nat) {r₀ : State} (hk₀ : Keeps r₀ s) : Keeps r₀ (State.channelFaulted s c) := by
  unfold State.channelFaulted
  repeat' (first
    | assumption
    | with_reducible apply State.endClass2_keeps
    | with_reducible apply State.modChannel_keeps
    | with_reducible apply State.raise_keeps
    | with_reducible apply State.setReaction_keeps
    | with_reducible apply Keeps.ite
    | (with_reducible refine Keeps.foldl ?_ ?_)
    | split)

/-! ## Power -/

theorem State.demandPower_keeps (s : State) (b : PwrBlock) {r₀ : State} (hk₀ : Keeps r₀ s) : Keeps r₀ (State.demandPower s b) := by
  unfold State.demandPower
  repeat' (first
    | assumption
    | with_reducible apply State.askPower_keeps
    | with_reducible apply State.keepAwake_keeps
    | with_reducible apply Keeps.ite
    | (with_reducible refine Keeps.foldl ?_ ?_)
    | split)

theorem State.sleep_keeps (s : State) (t : Nat) {r₀ : State} (hk₀ : Keeps r₀ s) : Keeps r₀ (State.sleep s t) := by
  unfold State.sleep
  repeat' (first
    | assumption
    | with_reducible apply State.askPower_keeps
    | with_reducible apply Keeps.ite)

theorem State.powerSweep_keeps (s : State) {r₀ : State} (hk₀ : Keeps r₀ s) : Keeps r₀ (State.powerSweep s) := by
  unfold State.powerSweep
  exact Keeps.ite (Keeps.foldl (Keeps.foldl hk₀ fun t b ht => State.demandPower_keeps _ _ ht) fun t n ht => State.sleep_keeps _ _ ht) hk₀

/-! ## Reset -/

theorem State.levelSource_keeps (s : State) (i : Nat) (on : Bool) {r₀ : State} (hk₀ : Keeps r₀ s) : Keeps r₀ (State.levelSource s i on) := by
  unfold State.levelSource
  repeat' (first
    | assumption
    | with_reducible apply State.assertSource_keeps
    | with_reducible apply State.releaseSource_keeps
    | with_reducible apply Keeps.ite)

theorem State.softReset_keeps (s : State) (level : Nat) {r₀ : State} (hk₀ : Keeps r₀ s) : Keeps r₀ (State.softReset s level) := by
  unfold State.softReset
  repeat' (first
    | assumption
    | with_reducible apply State.assertSource_keeps
    | with_reducible apply Keeps.ite
    | (with_reducible refine Keeps.foldl ?_ ?_)
    | split
    | with_reducible exact Keeps.mk' (by assumption))

theorem State.setWdog_keeps (s : State) (c : Nat) (w : Wdog) {r₀ : State} (hk₀ : Keeps r₀ s) : Keeps r₀ (State.setWdog s c w) := by
  unfold State.setWdog
  repeat' (first
    | assumption
    | with_reducible apply Keeps.ite
    | (with_reducible refine Keeps.foldl ?_ ?_)
    | split
    | with_reducible exact Keeps.mk' (by assumption))

theorem State.optionLoad_keeps (s : State) {r₀ : State} (hk₀ : Keeps r₀ s) : Keeps r₀ (State.optionLoad s) := by
  unfold State.optionLoad
  split
  · exact State.loadMacs_keeps _ (State.setRegN_keeps _ _ _ (State.setRegN_keeps _ _ _ ⟨hk₀.queue, hk₀.fuse.trans ⟨rfl, rfl, rfl, rfl, .inl rfl⟩, hk₀.tidy⟩))
  · exact State.raise_keeps _ _ _ _ _ ⟨hk₀.queue, hk₀.fuse.trans ⟨rfl, rfl, rfl, rfl, .inl rfl⟩, hk₀.tidy⟩

theorem State.beginRelease_keeps (s : State) (cut role : Bool) {r₀ : State} (hk₀ : Keeps r₀ s) : Keeps r₀ (State.beginRelease s cut role) := by
  unfold State.beginRelease
  repeat' (first
    | assumption
    | with_reducible apply State.optionLoad_keeps
    | with_reducible apply Keeps.ite
    | (with_reducible refine Keeps.foldl ?_ ?_)
    | split
    | with_reducible exact Keeps.mk' (by assumption)
    | with_reducible apply Keeps.mk')

theorem State.releasePending_keeps (s : State) {r₀ : State} (hk₀ : Keeps r₀ s) : Keeps r₀ (State.releasePending s) := by
  unfold State.releasePending
  repeat' (first
    | assumption
    | with_reducible apply Keeps.ite
    | (with_reducible refine Keeps.foldl ?_ ?_)
    | split
    | with_reducible exact Keeps.mk' (by assumption))

theorem State.clockIsGood_keeps (s : State) (k : Nat) {r₀ : State} (hk₀ : Keeps r₀ s) : Keeps r₀ (State.clockIsGood s k) := by
  unfold State.clockIsGood
  repeat' (first
    | assumption
    | with_reducible apply State.clockArrives_keeps
    | with_reducible apply State.releasePending_keeps
    | with_reducible apply Keeps.ite
    | (with_reducible refine Keeps.foldl ?_ ?_)
    | split
    | with_reducible exact Keeps.mk' (by assumption)
    | with_reducible apply Keeps.mk')

theorem State.clockIsLost_keeps (s : State) (k : Nat) {r₀ : State} (hk₀ : Keeps r₀ s) : Keeps r₀ (State.clockIsLost s k) := by
  unfold State.clockIsLost
  dsimp only
  have h1 := State.count_keeps { s with pwr := { s.pwr with clkGood := s.pwr.clkGood &&& ~~~(BitVec.ofNat 12 (2 ^ k)) } } Reg.clkLostCnt 16 1 (Keeps.mk' hk₀)
  exact Keeps.ite hk₀ (Keeps.ite h1 (Keeps.ite (State.assertSource_keeps _ _ (State.enterSafe_keeps _ h1)) (Keeps.ite (State.assertSource_keeps _ _ h1)
    (Keeps.foldl h1 fun t i ht => State.raise_keeps _ _ _ _ _ (Keeps.mk' ht)))))

theorem State.bootQueues_keeps (s : State) {r₀ : State} (hk₀ : Keeps r₀ s) : Keeps r₀ (State.bootQueues s) := by
  unfold State.bootQueues
  exact Keeps.foldl (Keeps.foldl hk₀ fun t q ht => State.modQueue_keeps _ _ _ ht) fun t q ht => State.modQueue_keeps _ _ _ ht

theorem State.becomeReady_keeps (s : State) (lanes : Nat) {r₀ : State} (hk₀ : Keeps r₀ s) : Keeps r₀ (State.becomeReady s lanes) := by
  unfold State.becomeReady
  exact Keeps.mk' (State.bootQueues_keeps _ hk₀)

theorem State.clearRegs_keeps (s : State) (lo hi : Nat) {r₀ : State} (hk₀ : Keeps r₀ s) : Keeps r₀ (State.clearRegs s lo hi) := by
  unfold State.clearRegs
  exact hk₀.regs (SMap_keep_wf _ _ _)

theorem State.coreReset_keeps (s : State) (c : Nat) {r₀ : State} (hk₀ : Keeps r₀ s) : Keeps r₀ (State.coreReset s c) := by
  unfold State.coreReset
  exact Keeps.foldl hk₀ fun t x ht => Keeps.ite (State.modSrc_keeps _ _ _ ht) ht

theorem State.resetTamb_keeps (s : State) (t : Nat) {r₀ : State} (hk₀ : Keeps r₀ s) : Keeps r₀ (State.resetTamb s t) := by
  unfold State.resetTamb
  repeat' (first
    | assumption
    | with_reducible apply State.abandon_keeps
    | with_reducible apply State.modBand_keeps
    | with_reducible apply State.modTamb_keeps
    | with_reducible apply Keeps.ite
    | (with_reducible refine Keeps.foldl ?_ ?_)
    | (intro t x ht; try dsimp only)
    | split)

theorem State.clearBlock_keeps (s : State) (id : Nat) {r₀ : State} (hk₀ : Keeps r₀ s) : Keeps r₀ (State.clearBlock s id) := by
  unfold State.clearBlock
  repeat' with_reducible apply Keeps.ite
  · exact State.clearRegs_keeps _ _ _ (State.resetTamb_keeps _ _ hk₀)
  · exact State.clearRegs_keeps _ _ _ (State.modSpout_keeps _ _ _ hk₀)
  · exact State.clearRegs_keeps _ _ _ (State.modPump_keeps _ _ _ hk₀)
  · exact State.clearRegs_keeps _ _ _ (State.modPort_keeps _ _ _ hk₀)
  · exact State.clearRegs_keeps _ _ _ (State.modGate_keeps _ _ _ hk₀)
  · exact hk₀.queues fun _ => rfl
  · exact ⟨hk₀.queue, hk₀.fuse, fun h => ⟨(hk₀.tidy h).1, (hk₀.tidy h).2.1, (hk₀.tidy h).2.2.1, (hk₀.tidy h).2.2.2.1, (hk₀.tidy h).2.2.2.2.1, rfl, (hk₀.tidy h).2.2.2.2.2.2⟩⟩
  · exact ⟨hk₀.queue, hk₀.fuse, hk₀.tidy⟩
  · exact State.clearRegs_keeps _ _ _ ⟨hk₀.queue, hk₀.fuse, hk₀.tidy⟩
  · exact State.coreReset_keeps _ _ hk₀
  · exact State.clearRegs_keeps _ _ _ (hk₀.irq fun _ => rfl)
  · exact hk₀

theorem State.holdBlock_keeps (s : State) {r₀ : State} (hk₀ : Keeps r₀ s) : Keeps r₀ (State.holdBlock s) := by
  unfold State.holdBlock
  repeat' (first
    | assumption
    | with_reducible apply State.clearBlock_keeps
    | with_reducible apply Keeps.ite
    | (with_reducible refine Keeps.foldl ?_ ?_)
    | split
    | with_reducible exact Keeps.mk' (by assumption)
    | with_reducible apply Keeps.mk')

theorem State.grantSlew_keeps (s : State) {r₀ : State} (hk₀ : Keeps r₀ s) : Keeps r₀ (State.grantSlew s) := by
  unfold State.grantSlew
  repeat' (first
    | assumption
    | with_reducible apply State.clockArrives_keeps
    | with_reducible apply State.count_keeps
    | with_reducible apply State.modTamb_keeps
    | with_reducible apply State.releasePending_keeps
    | with_reducible apply State.setRegN_keeps
    | with_reducible apply State.switch_keeps
    | with_reducible apply Keeps.ite
    | (with_reducible refine Keeps.foldl ?_ ?_)
    | split
    | with_reducible exact Keeps.mk' (by assumption))

theorem State.tripState_keeps (s : State) {r₀ : State} (hk₀ : Keeps r₀ s) : Keeps r₀ (State.tripState s) := by
  unfold State.tripState
  repeat' (first
    | assumption
    | with_reducible apply State.assertSource_keeps
    | with_reducible apply State.releaseSource_keeps
    | with_reducible apply Keeps.ite)

theorem State.sampleSensor_keeps (s : State) (n : Nat) (temp : Int) (valid : Bool) {r₀ : State} (hk₀ : Keeps r₀ s) : Keeps r₀ (State.sampleSensor s n temp valid) := by
  unfold State.sampleSensor
  repeat' (first
    | assumption
    | with_reducible apply State.assertSource_keeps
    | with_reducible apply State.raise_keeps
    | with_reducible apply State.rawLine_keeps
    | with_reducible apply State.setRegN_keeps
    | with_reducible apply State.tripState_keeps
    | with_reducible apply Keeps.ite
    | (with_reducible refine Keeps.foldl ?_ ?_)
    | split
    | with_reducible exact Keeps.mk' (by assumption))

/-! ## TimeBase -/

theorem State.stepped_keeps (s : State) (ns : Int) {r₀ : State} (hk₀ : Keeps r₀ s) : Keeps r₀ (State.stepped s ns) := by
  unfold State.stepped
  repeat' (first
    | with_reducible assumption
    | with_reducible apply State.assertIrq_keeps
    | with_reducible apply State.count_keeps
    | with_reducible apply State.modGate_keeps
    | with_reducible apply State.raise_keeps
    | with_reducible apply Keeps.ite
    | (with_reducible refine Keeps.foldl ?_ ?_)
    | (intro t x ht; try dsimp only)
    | split
    | with_reducible exact Keeps.mk' (by assumption)
    | with_reducible apply Keeps.mk')

theorem State.tickTime_keeps (s : State) {r₀ : State} (hk₀ : Keeps r₀ s) : Keeps r₀ (State.tickTime s) := by
  unfold State.tickTime
  repeat' (first
    | assumption
    | with_reducible apply State.stepIntervals_keeps
    | with_reducible apply State.stepped_keeps
    | with_reducible apply Keeps.ite
    | (with_reducible refine Keeps.foldl ?_ ?_)
    | split
    | with_reducible exact Keeps.mk' (by assumption)
    | with_reducible apply Keeps.mk')

theorem State.servoTo_keeps (s : State) (v : Servo) {r₀ : State} (hk₀ : Keeps r₀ s) : Keeps r₀ (State.servoTo s v) := by
  unfold State.servoTo
  repeat' (first
    | assumption
    | with_reducible apply State.raise_keeps
    | with_reducible apply State.setRegN_keeps
    | with_reducible apply Keeps.ite
    | (with_reducible refine Keeps.foldl ?_ ?_)
    | split
    | with_reducible exact Keeps.mk' (by assumption)
    | with_reducible apply Keeps.mk')

theorem State.servoReview_keeps (s : State) {r₀ : State} (hk₀ : Keeps r₀ s) : Keeps r₀ (State.servoReview s) := by
  unfold State.servoReview
  repeat' (first
    | assumption
    | with_reducible apply State.servoTo_keeps
    | with_reducible apply Keeps.ite)

theorem State.meterPtp_keeps (s : State) (port : Nat) (d : PtpDecision) {r₀ : State} (hk₀ : Keeps r₀ s) : Keeps r₀ (State.meterPtp s port d) := by
  unfold State.meterPtp
  repeat' (first
    | assumption
    | with_reducible apply State.endIntervals_keeps
    | with_reducible apply State.meter_keeps
    | with_reducible apply Keeps.ite
    | (with_reducible refine Keeps.foldl ?_ ?_)
    | split
    | with_reducible exact Keeps.mk' (by assumption)
    | with_reducible apply Keeps.mk')

theorem State.takePtpFrame_keeps (s : State) (n : Nat) {r₀ : State} (hk₀ : Keeps r₀ s) : Keeps r₀ (State.takePtpFrame s n) := by
  unfold State.takePtpFrame
  repeat' (first
    | assumption
    | with_reducible apply State.freeCells_keeps
    | with_reducible apply Keeps.ite
    | (with_reducible refine Keeps.foldl ?_ ?_)
    | split
    | with_reducible exact Keeps.mk' (by assumption))

theorem State.logRate_keeps (s : State) {r₀ : State} (hk₀ : Keeps r₀ s) : Keeps r₀ (State.logRate s) := by
  unfold State.logRate
  repeat' (first
    | assumption
    | with_reducible apply Keeps.ite
    | (with_reducible refine Keeps.foldl ?_ ?_)
    | split
    | with_reducible exact Keeps.mk' (by assumption))

theorem State.steer_keeps (s : State) (offset rate : Int) {r₀ : State} (hk₀ : Keeps r₀ s) : Keeps r₀ (State.steer s offset rate) := by
  unfold State.steer
  repeat' (first
    | assumption
    | with_reducible apply State.logRate_keeps
    | with_reducible apply State.setRegN_keeps
    | with_reducible apply Keeps.ite
    | (with_reducible refine Keeps.foldl ?_ ?_)
    | split
    | with_reducible exact Keeps.mk' (by assumption)
    | with_reducible apply Keeps.mk')

theorem State.judgeOffset_keeps (s : State) (offset : Int) {r₀ : State} (hk₀ : Keeps r₀ s) : Keeps r₀ (State.judgeOffset s offset) := by
  unfold State.judgeOffset
  repeat' (first
    | assumption
    | with_reducible apply State.servoTo_keeps
    | with_reducible apply Keeps.ite
    | (with_reducible refine Keeps.foldl ?_ ?_)
    | split
    | with_reducible exact Keeps.mk' (by assumption))

theorem State.measureRef_keeps (s : State) (ppb : Int) {r₀ : State} (hk₀ : Keeps r₀ s) : Keeps r₀ (State.measureRef s ppb) := by
  unfold State.measureRef
  repeat' (first
    | assumption
    | with_reducible apply Keeps.ite
    | (with_reducible refine Keeps.foldl ?_ ?_)
    | split
    | with_reducible exact Keeps.mk' (by assumption))

theorem State.loseRef_keeps (s : State) (ref10m : Bool) {r₀ : State} (hk₀ : Keeps r₀ s) : Keeps r₀ (State.loseRef s ref10m) := by
  unfold State.loseRef
  repeat' (first
    | assumption
    | with_reducible apply State.raise_keeps
    | with_reducible apply State.servoTo_keeps
    | with_reducible apply Keeps.ite)

end Sys2Proof.Machine
end

