-- ==== Sys2Proof/Laws/KeepsNet.lean ====
section
/-!
SUPPORT. What the commands keep, for band events, packets, reception, sending and statistics.
-/
namespace Sys2Proof.Machine

/-! ## BandEvents -/

theorem State.windowOpens_keeps (s : State) (i : BandId) {r₀ : State} (hk₀ : Keeps r₀ s) : Keeps r₀ (State.windowOpens s i) := by
  unfold State.windowOpens
  repeat' (first
    | with_reducible assumption
    | with_reducible apply State.complete_keeps
    | with_reducible apply State.readyNow_keeps
    | with_reducible apply Keeps.ite
    | (with_reducible refine Keeps.foldl ?_ ?_)
    | split)

theorem State.prefetchDone_keeps (s : State) (t : Nat) {r₀ : State} (hk₀ : Keeps r₀ s) : Keeps r₀ (State.prefetchDone s t) := by
  unfold State.prefetchDone
  repeat' (first
    | assumption
    | with_reducible apply State.modTamb_keeps
    | with_reducible apply Keeps.ite
    | (with_reducible refine Keeps.foldl ?_ ?_)
    | split
    | with_reducible exact Keeps.mk' (by assumption)
    | with_reducible apply Keeps.mk')

theorem State.contextEnd_keeps (s : State) (t status : Nat) {r₀ : State} (hk₀ : Keeps r₀ s) : Keeps r₀ (State.contextEnd s t status) := by
  unfold State.contextEnd
  repeat' (first
    | assumption
    | with_reducible apply State.modPump_keeps
    | with_reducible apply State.modQueue_keeps
    | with_reducible apply Keeps.ite)

theorem State.preloadDone_keeps (s : State) (t : Nat) {r₀ : State} (hk₀ : Keeps r₀ s) : Keeps r₀ (State.preloadDone s t) := by
  unfold State.preloadDone
  repeat' (first
    | assumption
    | with_reducible apply State.contextEnd_keeps
    | with_reducible apply State.modTamb_keeps
    | with_reducible apply Keeps.ite
    | (with_reducible refine Keeps.foldl ?_ ?_)
    | split
    | with_reducible exact Keeps.mk' (by assumption)
    | with_reducible apply Keeps.mk')

theorem State.writebackDone_keeps (s : State) (t : Nat) {r₀ : State} (hk₀ : Keeps r₀ s) : Keeps r₀ (State.writebackDone s t) := by
  unfold State.writebackDone
  repeat' (first
    | assumption
    | with_reducible apply State.contextEnd_keeps
    | with_reducible apply State.modTamb_keeps
    | with_reducible apply State.name_keeps
    | with_reducible apply State.sleep_keeps
    | with_reducible apply Keeps.ite)

theorem State.enterCodingTwin_keeps (s : State) (i : BandId) {r₀ : State} (hk₀ : Keeps r₀ s) : Keeps r₀ (State.enterCodingTwin s i) := by
  unfold State.enterCodingTwin
  repeat' (first
    | assumption
    | with_reducible apply State.modChannel_keeps
    | with_reducible apply State.resync_keeps
    | with_reducible apply Keeps.ite)

theorem State.enterCoding_keeps (s : State) (t k : Nat) (i : BandId) {r₀ : State} (hk₀ : Keeps r₀ s) : Keeps r₀ (State.enterCoding s t k i) := by
  unfold State.enterCoding
  dsimp only
  refine State.enterCodingTwin_keeps _ _ ?_
  have h1 : ∀ {u : State} {c : Prop} [Decidable c], Keeps r₀ u → Keeps r₀ (if c then u.count (Reg.tmb + 0x2000 * t + 0x18) 16 1 else u) :=
    fun hu => Keeps.ite (State.count_keeps _ _ _ _ hu) hu
  have h2 := State.measureInput_keeps s i hk₀
  refine Keeps.ite ?_ (State.startSlice_keeps _ _ _ ?_)
  all_goals exact h1 (State.modBand_keeps _ _ _ (State.modTamb_keeps _ _ _ h2))

theorem State.abandonNow_keeps (s : State) (i : BandId) {r₀ : State} (hk₀ : Keeps r₀ s) : Keeps r₀ (State.abandonNow s i) := by
  unfold State.abandonNow
  repeat' (first
    | with_reducible assumption
    | with_reducible apply State.abandon_keeps
    | with_reducible apply State.name_keeps
    | with_reducible apply State.settle_keeps
    | with_reducible apply State.sleep_keeps
    | with_reducible apply State.wakeMissed_keeps)

theorem State.switch_keeps (s : State) (t : Nat) {r₀ : State} (hk₀ : Keeps r₀ s) : Keeps r₀ (State.switch s t) := by
  unfold State.switch
  dsimp only
  split
  · exact Keeps.ite (Keeps.ite (State.abandonNow_keeps _ _ hk₀) (State.settle_keeps _ _ (State.name_keeps _ _ (State.enterCoding_keeps _ _ _ _ hk₀)))) hk₀
  · exact hk₀

theorem State.encodeDone_keeps (s : State) (t : Nat) (i : BandId) {r₀ : State} (hk₀ : Keeps r₀ s) : Keeps r₀ (State.encodeDone s t i) := by
  unfold State.encodeDone
  repeat' (first
    | with_reducible assumption
    | with_reducible apply State.leaveCoding_keeps
    | with_reducible apply State.measureBand_keeps
    | with_reducible apply State.modBand_keeps
    | with_reducible apply State.modChannel_keeps
    | with_reducible apply State.modPic_keeps
    | with_reducible apply State.modTamb_keeps
    | with_reducible apply State.name_keeps
    | with_reducible apply State.pictureDone_keeps
    | with_reducible apply State.rcvOutcome_keeps
    | with_reducible apply State.setRegN_keeps
    | with_reducible apply Keeps.ite)

theorem State.finding_keeps (s : State) (i : BandId) (f : Nat) {r₀ : State} (hk₀ : Keeps r₀ s) : Keeps r₀ (State.finding s i f) := by
  unfold State.finding
  repeat' (first
    | assumption
    | with_reducible apply State.modBand_keeps
    | with_reducible apply State.raise_keeps
    | with_reducible apply Keeps.ite)

theorem State.concealRegion_keeps (s : State) (i : BandId) (r : Nat) (done : Nat → Bool) {r₀ : State} (hk₀ : Keeps r₀ s) : Keeps r₀ (State.concealRegion s i r done) := by
  unfold State.concealRegion
  repeat' (first
    | assumption
    | with_reducible apply State.ledgerBlock_keeps
    | with_reducible apply State.modBand_keeps
    | with_reducible apply State.modPic_keeps)

theorem State.concealAll_keeps (s : State) (i : BandId) (done : Nat → Bool) (l : List Nat) {r₀ : State} (hk₀ : Keeps r₀ s) : Keeps r₀ (State.concealAll s i done l) := by
  induction l generalizing s i done with
  | nil =>
    unfold State.concealAll
    try dsimp only
    repeat' (first
      | assumption)
  | cons a_ l_ ih =>
    unfold State.concealAll
    try dsimp only
    repeat' (first
      | assumption
      | with_reducible apply ih
      | with_reducible apply State.concealRegion_keeps)

theorem State.decodeBlock_keeps (s : State) (t : Nat) (i : BandId) (d : DecBlock) {r₀ : State} (hk₀ : Keeps r₀ s) : Keeps r₀ (State.decodeBlock s t i d) := by
  unfold State.decodeBlock
  repeat' (first
    | assumption
    | with_reducible apply State.concealRegion_keeps
    | with_reducible apply State.finding_keeps
    | with_reducible apply State.ledgerBlock_keeps
    | with_reducible apply State.modBand_keeps
    | with_reducible apply State.modPic_keeps
    | with_reducible apply State.modTamb_keeps
    | with_reducible apply State.poisoned_keeps
    | with_reducible apply State.raise_keeps
    | with_reducible apply State.slot_keeps
    | with_reducible apply Keeps.ite
    | (with_reducible refine Keeps.foldl ?_ ?_)
    | split)

theorem State.pictureDecoded_keeps (s : State) (c p : Nat) {r₀ : State} (hk₀ : Keeps r₀ s) : Keeps r₀ (State.pictureDecoded s c p) := by
  unfold State.pictureDecoded
  repeat' (first
    | assumption
    | with_reducible apply State.freePages_keeps
    | with_reducible apply State.modChannel_keeps
    | with_reducible apply State.raise_keeps
    | with_reducible apply Keeps.ite)

theorem State.decodeDone_keeps (s : State) (t : Nat) (i : BandId) {r₀ : State} (hk₀ : Keeps r₀ s) : Keeps r₀ (State.decodeDone s t i) := by
  unfold State.decodeDone
  repeat' (first
    | with_reducible assumption
    | with_reducible apply State.leaveCoding_keeps
    | with_reducible apply State.modBand_keeps
    | with_reducible apply State.modChannel_keeps
    | with_reducible apply State.modTamb_keeps
    | with_reducible apply State.name_keeps
    | with_reducible apply State.pictureDecoded_keeps
    | with_reducible apply State.setRegN_keeps)

theorem State.slot_keeps (s : State) (t : Nat) (w : BlockWork) {r₀ : State} (hk₀ : Keeps r₀ s) : Keeps r₀ (State.slot s t w) := by
  unfold State.slot
  split
  · refine Keeps.ite (State.abandonNow_keeps _ _ hk₀) (Keeps.ite hk₀ ?_)
    exact Keeps.ite (State.settle_keeps _ _ (State.encodeDone_keeps _ _ _ (State.encodeSlot_keeps _ _ _ hk₀))) (State.encodeSlot_keeps _ _ _ hk₀)
  · refine Keeps.ite (State.abandonNow_keeps _ _ hk₀) (Keeps.ite hk₀ ?_)
    dsimp only
    have h1 : ∀ {u v : State} {c : Prop} [Decidable c], Keeps r₀ u → Keeps r₀ v → Keeps r₀ (if c then u else v) := fun hu hv => Keeps.ite hu hv
    exact h1 (State.decodeDone_keeps _ _ _ (h1 (State.decodeBlock_keeps _ _ _ _ hk₀) hk₀)) (h1 (State.decodeBlock_keeps _ _ _ _ hk₀) hk₀)
  · exact hk₀

theorem State.abandonDue_keeps (s : State) (i : BandId) {r₀ : State} (hk₀ : Keeps r₀ s) : Keeps r₀ (State.abandonDue s i) := by
  unfold State.abandonDue
  repeat' (first
    | with_reducible assumption
    | with_reducible apply State.abandonNow_keeps
    | with_reducible apply Keeps.ite)

theorem State.repairEnd_keeps (s : State) (t : Nat) {r₀ : State} (hk₀ : Keeps r₀ s) : Keeps r₀ (State.repairEnd s t) := by
  unfold State.repairEnd
  repeat' (first
    | with_reducible assumption
    | with_reducible apply State.concealAll_keeps
    | with_reducible apply State.modBand_keeps
    | with_reducible apply State.modTamb_keeps
    | with_reducible apply State.name_keeps
    | with_reducible apply State.pictureDecoded_keeps
    | with_reducible apply State.sleep_keeps
    | with_reducible apply Keeps.ite
    | (with_reducible refine Keeps.foldl ?_ ?_)
    | split)

theorem State.wakeHoop_keeps (s : State) (h : Nat) {r₀ : State} (hk₀ : Keeps r₀ s) : Keeps r₀ (State.wakeHoop s h) := by
  unfold State.wakeHoop
  repeat' (first
    | assumption
    | with_reducible apply State.needTambour_keeps
    | with_reducible apply Keeps.ite
    | (with_reducible refine Keeps.foldl ?_ ?_)
    | (intro t x ht; try dsimp only)
    | split)

theorem State.hoopGood_keeps (s : State) (h : Nat) {r₀ : State} (hk₀ : Keeps r₀ s) : Keeps r₀ (State.hoopGood s h) := by
  unfold State.hoopGood
  repeat' (first
    | assumption
    | with_reducible apply State.clockArrives_keeps
    | with_reducible apply Keeps.ite
    | (with_reducible refine Keeps.foldl ?_ ?_)
    | (intro t x ht; try dsimp only)
    | split
    | with_reducible exact Keeps.mk' (by assumption))

/-! ## Packets -/

theorem State.placePackets_keeps (s : State) (o : Nat) (ps : List (List Byte × Bool)) (got : List PktRec) {r₀ : State} (hk₀ : Keeps r₀ s) : Keeps r₀ (State.placePackets s o ps got).1 := by
  induction ps generalizing s o got with
  | nil =>
    unfold State.placePackets
    try dsimp only
    repeat' (first
      | assumption)
  | cons a_ l_ ih =>
    unfold State.placePackets
    try dsimp only
    repeat' (first
      | assumption
      | with_reducible apply ih
      | with_reducible apply State.allocCells_keeps
      | with_reducible apply State.freeCells_keeps
      | with_reducible apply State.storeFrame_keeps
      | refine Keeps.of_fst (by assumption) ?_
      | with_reducible apply Keeps.ite
      | (with_reducible refine Keeps.foldl ?_ ?_)
      | (intro t x ht; try dsimp only)
      | split)

theorem State.sendPacket_keeps (s : State) (owner eligible : Nat) (hold : Bool) (flows later : List Nat) (k : PktRec) {r₀ : State} (hk₀ : Keeps r₀ s) : Keeps r₀ (State.sendPacket s owner eligible hold flows later k) := by
  unfold State.sendPacket
  repeat' (first
    | assumption
    | with_reducible apply State.efqInsert_keeps
    | with_reducible apply Keeps.ite
    | (with_reducible refine Keeps.foldl ?_ ?_)
    | (intro t x ht; try dsimp only)
    | split
    | with_reducible exact Keeps.mk' (by assumption))

theorem State.formPackets_keeps (s : State) (i : BandId) (nal : List Nat) {r₀ : State} (hk₀ : Keeps r₀ s) : Keeps r₀ (State.formPackets s i nal).1 := by
  unfold State.formPackets
  dsimp only
  repeat' (first
    | assumption
    | with_reducible apply State.modBand_keeps
    | with_reducible apply State.modPic_keeps
    | with_reducible apply State.placePackets_keeps
    | with_reducible apply State.sendPacket_keeps
    | refine Keeps.of_fst (by assumption) ?_
    | with_reducible apply Keeps.ite
    | (with_reducible refine Keeps.foldl ?_ ?_)
    | (intro t x ht; try dsimp only)
    | split)

theorem State.withholdRest_keeps (s : State) (i : BandId) {r₀ : State} (hk₀ : Keeps r₀ s) : Keeps r₀ (State.withholdRest s i) := by
  unfold State.withholdRest
  repeat' (first
    | with_reducible assumption
    | with_reducible apply State.uncommitAndName_keeps
    | with_reducible apply State.withhold_keeps)

theorem State.dropMirror_keeps (s : State) (i : BandId) (len : Nat) {r₀ : State} (hk₀ : Keeps r₀ s) : Keeps r₀ (State.dropMirror s i len) := by
  unfold State.dropMirror
  repeat' (first
    | assumption
    | with_reducible apply State.raise_keeps
    | with_reducible apply State.skipNumbers_keeps
    | with_reducible apply State.withhold_keeps
    | with_reducible apply Keeps.ite
    | (with_reducible refine Keeps.foldl ?_ ?_)
    | split
    | with_reducible exact Keeps.mk' (by assumption)
    | with_reducible apply Keeps.mk')

theorem State.mirrorFail_keeps (s : State) (i : BandId) (len : Nat) {r₀ : State} (hk₀ : Keeps r₀ s) : Keeps r₀ (State.mirrorFail s i len) := by
  unfold State.mirrorFail
  repeat' (first
    | assumption
    | with_reducible apply State.dropMirror_keeps
    | with_reducible apply State.modPic_keeps)

theorem State.keepMirror_keeps (s : State) (i : BandId) (nal : List Nat) {r₀ : State} (hk₀ : Keeps r₀ s) : Keeps r₀ (State.keepMirror s i nal) := by
  unfold State.keepMirror
  repeat' (first
    | assumption
    | with_reducible apply Keeps.ite
    | (with_reducible refine Keeps.foldl ?_ ?_)
    | split
    | with_reducible exact Keeps.mk' (by assumption))

theorem State.captureBytes_keeps (n : Nat) (s : State) (q : Nat) (c : CaptureInfo) (lastBand begun : Bool) (bs : List Nat) {r₀ : State} (hk₀ : Keeps r₀ s) : Keeps r₀ (State.captureBytes n s q c lastBand begun bs) := by
  induction n generalizing s q c lastBand begun bs with
  | zero =>
    unfold State.captureBytes
    try dsimp only
    repeat' (first
      | assumption)
  | succ k_ ih =>
    unfold State.captureBytes
    try dsimp only
    repeat' (first
      | assumption
      | with_reducible apply ih
      | with_reducible apply State.hostWrite_keeps
      | with_reducible apply State.modChannel_keeps
      | with_reducible apply State.returnEntry_keeps
      | with_reducible apply Keeps.ite
      | (with_reducible refine Keeps.foldl ?_ ?_)
      | split)

theorem State.capture_keeps (s : State) (i : BandId) {r₀ : State} (hk₀ : Keeps r₀ s) : Keeps r₀ (State.capture s i) := by
  unfold State.capture
  repeat' (first
    | assumption
    | with_reducible apply State.captureBytes_keeps
    | with_reducible apply Keeps.ite)

theorem State.writeSeqs_keeps (s : State) (ps : List PktRec) (seq : Nat) {r₀ : State} (hk₀ : Keeps r₀ s) : Keeps r₀ (State.writeSeqs s ps seq) := by
  induction ps generalizing s seq with
  | nil =>
    unfold State.writeSeqs
    try dsimp only
    repeat' (first
      | assumption)
  | cons a_ l_ ih =>
    unfold State.writeSeqs
    try dsimp only
    repeat' (first
      | assumption
      | with_reducible apply ih
      | with_reducible apply Keeps.ite
      | (with_reducible refine Keeps.foldl ?_ ?_)
      | split
      | with_reducible apply Keeps.sram)

theorem State.giveUp_keeps (s : State) (owner : Nat) (ps : List PktRec) (f : Nat) {r₀ : State} (hk₀ : Keeps r₀ s) : Keeps r₀ (State.giveUp s owner ps f) := by
  unfold State.giveUp
  repeat' (first
    | assumption
    | with_reducible apply State.dropChain_keeps
    | with_reducible apply State.voidPackets_keeps
    | with_reducible apply Keeps.ite
    | (with_reducible refine Keeps.foldl ?_ ?_)
    | (intro t x ht; try dsimp only))

theorem State.clearHold_keeps (s : State) (ps : List PktRec) (f : Nat) {r₀ : State} (hk₀ : Keeps r₀ s) : Keeps r₀ (State.clearHold s ps f) := by
  unfold State.clearHold
  repeat' (first
    | assumption
    | with_reducible apply State.mapEfq_keeps)

theorem State.releaseBand_keeps (s : State) (i : BandId) {r₀ : State} (hk₀ : Keeps r₀ s) : Keeps r₀ (State.releaseBand s i) := by
  unfold State.releaseBand
  repeat' (first
    | assumption
    | with_reducible apply State.capture_keeps
    | with_reducible apply State.clearHold_keeps
    | with_reducible apply State.freeCells_keeps
    | with_reducible apply State.giveUp_keeps
    | with_reducible apply State.modBand_keeps
    | with_reducible apply State.modChannel_keeps
    | with_reducible apply State.writeSeqs_keeps
    | with_reducible apply Keeps.ite
    | (with_reducible refine Keeps.foldl ?_ ?_)
    | (intro t x ht; try dsimp only))

theorem State.tellLate_keeps (s : State) (i : BandId) {r₀ : State} (hk₀ : Keeps r₀ s) : Keeps r₀ (State.tellLate s i) := by
  unfold State.tellLate
  repeat' (first
    | assumption
    | with_reducible apply State.count_keeps
    | with_reducible apply State.modBand_keeps
    | with_reducible apply State.raise_keeps
    | with_reducible apply Keeps.ite)

theorem State.keepUnsent_keeps (s : State) (i : BandId) {r₀ : State} (hk₀ : Keeps r₀ s) : Keeps r₀ (State.keepUnsent s i) := by
  unfold State.keepUnsent
  repeat' (first
    | assumption
    | with_reducible apply State.modBand_keeps
    | with_reducible apply State.modChannel_keeps
    | with_reducible apply State.withhold_keeps)

theorem State.releaseOne_keeps (s : State) (i : BandId) {r₀ : State} (hk₀ : Keeps r₀ s) : Keeps r₀ (State.releaseOne s i).1 := by
  unfold State.releaseOne
  dsimp only
  repeat' (first
    | assumption
    | with_reducible apply State.captureAbandon_keeps
    | with_reducible apply State.formPackets_keeps
    | with_reducible apply State.keepUnsent_keeps
    | with_reducible apply State.modBand_keeps
    | with_reducible apply State.modChannel_keeps
    | with_reducible apply State.releaseBand_keeps
    | with_reducible apply State.tellLate_keeps
    | refine Keeps.of_fst (by assumption) ?_
    | with_reducible apply Keeps.ite
    | (with_reducible refine Keeps.foldl ?_ ?_)
    | split)

theorem State.releaseDue_keeps (s : State) (c : Nat) {r₀ : State} (hk₀ : Keeps r₀ s) : Keeps r₀ (State.releaseDue s c) := by
  unfold State.releaseDue
  have key : ∀ (l : List BandId) (p : State × Bool), Keeps r₀ p.1 →
      Keeps r₀ (l.foldl (fun (r : State × Bool) i => if r.2 && !(r.1.band i).released then r.1.releaseOne i else r) p).1 := by
    intro l
    induction l with
    | nil => exact fun p hp => hp
    | cons i l ih =>
      intro p hp
      refine ih _ ?_
      show Keeps r₀ (if p.2 && !(p.1.band i).released then p.1.releaseOne i else p).1
      split
      · exact State.releaseOne_keeps _ _ hp
      · exact hp
  exact key _ (s, true) hk₀

theorem State.wordChecks_keeps (s : State) (n k : Nat) (i : BandId) (corrected : Nat) (bad : Bool) {r₀ : State} (hk₀ : Keeps r₀ s) : Keeps r₀ (State.wordChecks s n k i corrected bad) := by
  unfold State.wordChecks
  repeat' (first
    | assumption
    | with_reducible apply State.count_keeps
    | with_reducible apply State.modBand_keeps
    | with_reducible apply State.raise_keeps
    | with_reducible apply Keeps.ite
    | (with_reducible refine Keeps.foldl ?_ ?_)
    | (intro t x ht; try dsimp only))

theorem State.pumpMirrors_keeps (k : Nat) (s : State) (n : Nat) {r₀ : State} (hk₀ : Keeps r₀ s) : Keeps r₀ (State.pumpMirrors k s n) := by
  induction k generalizing s n with
  | zero =>
    unfold State.pumpMirrors
    try dsimp only
    repeat' (first
      | assumption)
  | succ k_ ih =>
    unfold State.pumpMirrors
    try dsimp only
    repeat' (first
      | assumption
      | with_reducible apply ih
      | with_reducible apply State.modSpout_keeps
      | with_reducible apply Keeps.ite
      | (with_reducible refine Keeps.foldl ?_ ?_)
      | split
      | with_reducible exact Keeps.mk' (by assumption)
      | with_reducible apply Keeps.mk')

theorem State.cellsFor_keeps (s : State) (i : BandId) (n : Nat) {r₀ : State} (hk₀ : Keeps r₀ s) : Keeps r₀ (State.cellsFor s i n).1 := by
  unfold State.cellsFor
  dsimp only
  repeat' (first
    | with_reducible assumption
    | with_reducible apply State.allocCells_keeps
    | with_reducible apply State.modBand_keeps
    | refine Keeps.of_fst (by assumption) ?_
    | with_reducible apply Keeps.ite
    | (with_reducible refine Keeps.foldl ?_ ?_)
    | split)

theorem State.sliceDrained_keeps (s : State) (i : BandId) {r₀ : State} (hk₀ : Keeps r₀ s) : Keeps r₀ (State.sliceDrained s i) := by
  unfold State.sliceDrained
  repeat' (first
    | with_reducible assumption
    | with_reducible apply State.keepMirror_keeps
    | with_reducible apply State.mirrorFail_keeps
    | with_reducible apply State.modBand_keeps
    | with_reducible apply State.ownRecord_keeps
    | with_reducible apply State.releaseDue_keeps
    | with_reducible apply State.settle_keeps
    | with_reducible apply State.withholdRest_keeps
    | with_reducible apply Keeps.ite)

theorem State.drainWord_keeps (s : State) (n corrected : Nat) (bad : Bool) {r₀ : State} (hk₀ : Keeps r₀ s) : Keeps r₀ (State.drainWord s n corrected bad) := by
  unfold State.drainWord
  dsimp only
  repeat' (first
    | with_reducible assumption
    | with_reducible apply State.cellsFor_keeps
    | with_reducible apply State.formPackets_keeps
    | with_reducible apply State.giveCells_keeps
    | with_reducible apply State.modBand_keeps
    | with_reducible apply State.modSpout_keeps
    | with_reducible apply State.pumpMirrors_keeps
    | with_reducible apply State.sliceDrained_keeps
    | with_reducible apply State.wordChecks_keeps
    | with_reducible apply Keeps.ite
    | (with_reducible refine Keeps.foldl ?_ ?_)
    | split)

/-! ## TwilanRx -/

theorem State.modLink_keeps (s : State) (f : TwilanSt → TwilanSt) {r₀ : State} (hk₀ : Keeps r₀ s) : Keeps r₀ (State.modLink s f) := by
  unfold State.modLink
  repeat' (first
    | assumption
    | with_reducible apply Keeps.ite
    | (with_reducible refine Keeps.foldl ?_ ?_)
    | split
    | with_reducible exact Keeps.mk' (by assumption))

theorem State.twResend_keeps (s : State) (fseq : Nat) {r₀ : State} (hk₀ : Keeps r₀ s) : Keeps r₀ (State.twResend s fseq) := by
  unfold State.twResend
  repeat' (first
    | assumption
    | with_reducible apply State.count_keeps
    | with_reducible apply State.modLink_keeps
    | with_reducible apply Keeps.ite
    | (with_reducible refine Keeps.foldl ?_ ?_)
    | split)

theorem State.sendNak_keeps (s : State) (fseq : Nat) {r₀ : State} (hk₀ : Keeps r₀ s) : Keeps r₀ (State.sendNak s fseq) := by
  have hg : Keeps r₀ (State.sendNak.go fseq s) := by
    unfold State.sendNak.go
    exact Keeps.ite hk₀ (State.modLink_keeps _ _ hk₀)
  unfold State.sendNak
  split
  · exact Keeps.ite hk₀ hg
  · exact hg

theorem State.takeAck_keeps (s : State) (ack : Nat) {r₀ : State} (hk₀ : Keeps r₀ s) : Keeps r₀ (State.takeAck s ack) := by
  unfold State.takeAck
  repeat' (first
    | assumption
    | with_reducible apply State.modLink_keeps
    | with_reducible apply State.twPump_keeps)

theorem State.takeFrame_keeps (s : State) (f : RxTwilan) {r₀ : State} (hk₀ : Keeps r₀ s) : Keeps r₀ (State.takeFrame s f) := by
  unfold State.takeFrame
  repeat' (first
    | assumption
    | with_reducible apply State.allocCells_keeps
    | with_reducible apply State.modLink_keeps
    | with_reducible apply State.sendNak_keeps
    | with_reducible apply State.storeFrame_keeps
    | with_reducible apply State.takeAck_keeps
    | with_reducible apply State.twResend_keeps
    | refine Keeps.of_fst (by assumption) ?_
    | with_reducible apply Keeps.ite
    | (with_reducible refine Keeps.foldl ?_ ?_)
    | (intro t x ht; try dsimp only)
    | split)

theorem State.receiveTwilan_keeps (s : State) (f : RxTwilan) {r₀ : State} (hk₀ : Keeps r₀ s) : Keeps r₀ (State.receiveTwilan s f) := by
  unfold State.receiveTwilan
  repeat' (first
    | assumption
    | with_reducible apply State.count_keeps
    | with_reducible apply State.raise_keeps
    | with_reducible apply State.sendNak_keeps
    | with_reducible apply State.takeFrame_keeps
    | with_reducible apply Keeps.ite)

theorem State.takeMsg_keeps (s : State) (f : TwMsg → Bool) {r₀ : State} (hk₀ : Keeps r₀ s) : Keeps r₀ (State.takeMsg s f).1 := by
  unfold State.takeMsg
  repeat' (first
    | assumption
    | with_reducible apply State.freeCells_keeps
    | with_reducible apply State.modLink_keeps
    | with_reducible apply Keeps.ite
    | (with_reducible refine Keeps.foldl ?_ ?_)
    | split)

theorem State.onMsg_keeps (s : State) (p : TwMsg → Bool) (f : State → TwDelivered → State) {r₀ : State} (hk₀ : Keeps r₀ s) (hf : ∀ t d, Keeps r₀ t → Keeps r₀ (f t d)) : Keeps r₀ (s.onMsg p f) := by
  unfold State.onMsg
  have h := State.takeMsg_keeps s p hk₀
  rcases hz : s.takeMsg p with ⟨t, _ | d⟩
  · exact hk₀
  · rw [hz] at h
    exact hf _ _ h

/-! ## NetRx -/

theorem State.meterPacket_keeps (s : State) (port n : Nat) (f : RxFrame) (i : RxInfo) {r₀ : State} (hk₀ : Keeps r₀ s) : Keeps r₀ (State.meterPacket s port n f i) := by
  unfold State.meterPacket
  repeat' (first
    | assumption
    | with_reducible apply State.endIntervals_keeps
    | with_reducible apply State.meter_keeps
    | with_reducible apply Keeps.ite
    | (with_reducible refine Keeps.foldl ?_ ?_)
    | split
    | with_reducible exact Keeps.mk' (by assumption)
    | with_reducible apply Keeps.mk')

theorem State.rxCount_keeps (s : State) (reg port : Nat) {r₀ : State} (hk₀ : Keeps r₀ s) : Keeps r₀ (State.rxCount s reg port) := by
  unfold State.rxCount
  repeat' (first
    | assumption
    | with_reducible apply State.count_keeps)

theorem State.landFrame_keeps (s : State) (port o : Nat) (bytes : List Byte) {r₀ : State} (hk₀ : Keeps r₀ s) : Keeps r₀ (State.landFrame s port o bytes).1 := by
  unfold State.landFrame
  repeat' (first
    | assumption
    | with_reducible apply State.allocCells_keeps
    | with_reducible apply State.rxCount_keeps
    | with_reducible apply State.storeFrame_keeps
    | refine Keeps.of_fst (by assumption) ?_
    | with_reducible apply Keeps.ite
    | (with_reducible refine Keeps.foldl ?_ ?_)
    | split)

theorem State.passFrame_keeps (s : State) (out v : Nat) {r₀ : State} (hk₀ : Keeps r₀ s) : Keeps r₀ (State.passFrame s out v).1 := by
  unfold State.passFrame
  dsimp only
  repeat' (first
    | assumption
    | with_reducible apply State.allocCells_keeps
    | with_reducible apply State.efqPut_keeps
    | with_reducible apply State.freeCells_keeps
    | with_reducible apply State.raise_keeps
    | with_reducible apply State.storeFrame_keeps
    | refine Keeps.of_fst (by assumption) ?_
    | with_reducible apply Keeps.ite
    | (with_reducible refine Keeps.foldl ?_ ?_)
    | split)

theorem State.retryPass_keeps (n : Nat) (s : State) {r₀ : State} (hk₀ : Keeps r₀ s) : Keeps r₀ (State.retryPass n s) := by
  induction n generalizing s with
  | zero => unfold State.retryPass; exact hk₀
  | succ k ih =>
    unfold State.retryPass
    split
    · rename_i k' out v rest hn hp
      cases hn
      split
      · rename_i t h
        exact ih _ (Keeps.of_fst h (State.passFrame_keeps _ _ _ (Keeps.mk' hk₀)))
      · rename_i t h
        exact Keeps.mk' (Keeps.of_fst h (State.passFrame_keeps _ _ _ (Keeps.mk' hk₀)))
    · exact hk₀

theorem State.admitFrame_keeps (s : State) (port n : Nat) (f : RxFrame) (i : RxInfo) {r₀ : State} (hk₀ : Keeps r₀ s) : Keeps r₀ (State.admitFrame s port n f i) := by
  unfold State.admitFrame
  repeat' (first
    | assumption
    | with_reducible apply State.freeCells_keeps
    | with_reducible apply State.landFrame_keeps
    | with_reducible apply State.putEntry_keeps
    | with_reducible apply State.retryPass_keeps
    | with_reducible apply State.rxCount_keeps
    | refine Keeps.of_fst (by assumption) ?_
    | with_reducible apply Keeps.ite
    | (with_reducible refine Keeps.foldl ?_ ?_)
    | split
    | with_reducible exact Keeps.mk' (by assumption)
    | with_reducible apply Keeps.mk')

theorem State.policeFrame_keeps (s : State) (port n : Nat) (f : RxFrame) (i : RxInfo) {r₀ : State} (hk₀ : Keeps r₀ s) : Keeps r₀ (State.policeFrame s port n f i) := by
  unfold State.policeFrame
  repeat' (first
    | assumption
    | with_reducible apply State.admitFrame_keeps
    | with_reducible apply State.endIntervals_keeps
    | with_reducible apply State.meter_keeps
    | with_reducible apply State.meterPacket_keeps
    | with_reducible apply State.modIflow_keeps
    | with_reducible apply State.raise_keeps
    | with_reducible apply Keeps.ite)

theorem State.firmwareFrame_keeps (s : State) (port : Nat) (f : RxFrame) (i : RxInfo) {r₀ : State} (hk₀ : Keeps r₀ s) : Keeps r₀ (State.firmwareFrame s port f i) := by
  unfold State.firmwareFrame
  repeat' (first
    | assumption
    | with_reducible apply State.freeCells_keeps
    | with_reducible apply State.landFrame_keeps
    | refine Keeps.of_fst (by assumption) ?_
    | with_reducible apply Keeps.ite
    | (with_reducible refine Keeps.foldl ?_ ?_)
    | split
    | with_reducible exact Keeps.mk' (by assumption)
    | with_reducible apply Keeps.mk')

theorem State.takeFec_keeps (s : State) (port : Nat) (f : RxFrame) {r₀ : State} (hk₀ : Keeps r₀ s) : Keeps r₀ (State.takeFec s port f) := by
  unfold State.takeFec
  repeat' (first
    | assumption
    | with_reducible apply State.count_keeps
    | with_reducible apply State.modPort_keeps)

theorem State.receiveFrame_keeps (s : State) (port : Nat) (f : RxFrame) {r₀ : State} (hk₀ : Keeps r₀ s) : Keeps r₀ (State.receiveFrame s port f) := by
  unfold State.receiveFrame
  repeat' (first
    | assumption
    | with_reducible apply State.firmwareFrame_keeps
    | with_reducible apply State.policeFrame_keeps
    | with_reducible apply State.rxCount_keeps
    | with_reducible apply State.takeFec_keeps
    | with_reducible apply Keeps.ite
    | (with_reducible refine Keeps.foldl ?_ ?_)
    | split)

theorem State.landNotice_keeps (s : State) (kind flow : Nat) {r₀ : State} (hk₀ : Keeps r₀ s) : Keeps r₀ (State.landNotice s kind flow) := by
  unfold State.landNotice
  repeat' (first
    | assumption
    | with_reducible apply State.raise_keeps)

theorem State.landPacket_keeps (s : State) (flow c p : Nat) (pkt : VideoPacket) {r₀ : State} (hk₀ : Keeps r₀ s) : Keeps r₀ (State.landPacket s flow c p pkt) := by
  unfold State.landPacket
  repeat' (first
    | assumption
    | with_reducible apply State.landNotice_keeps
    | with_reducible apply State.modPic_keeps
    | with_reducible apply State.overrun_keeps
    | with_reducible apply Keeps.ite
    | (with_reducible refine Keeps.foldl ?_ ?_)
    | split
    | with_reducible exact Keeps.mk' (by assumption)
    | with_reducible apply Keeps.mk')

theorem State.takeIfq_keeps (s : State) (flow : Nat) {r₀ : State} (hk₀ : Keeps r₀ s) : Keeps r₀ (State.takeIfq s flow).1 := by
  unfold State.takeIfq
  repeat' (first
    | assumption
    | with_reducible apply State.freeCells_keeps
    | with_reducible apply State.popEntry_keeps
    | with_reducible apply State.raise_keeps
    | with_reducible apply Keeps.ite
    | (with_reducible refine Keeps.foldl ?_ ?_)
    | (intro t x ht; try dsimp only)
    | split
    | (lift_lets; intro t; refine Keeps.bind t ?_ ?_; focus (dsimp only [t]))
    | (intro ht; clear_value t)
    | (lift_lets; intro t; clear_value t)
    | with_reducible exact Keeps.mk' (by assumption)
    | with_reducible apply Keeps.mk')

theorem State.ingressWrite_keeps (s : State) (flow : Nat) {r₀ : State} (hk₀ : Keeps r₀ s) : Keeps r₀ (State.ingressWrite s flow) := by
  unfold State.ingressWrite
  repeat' (first
    | assumption
    | with_reducible apply State.landPacket_keeps
    | with_reducible apply State.takeIfq_keeps
    | refine Keeps.of_fst (by assumption) ?_
    | with_reducible apply Keeps.ite
    | (with_reducible refine Keeps.foldl ?_ ?_)
    | split
    | with_reducible exact Keeps.mk' (by assumption)
    | with_reducible apply Keeps.mk')

theorem State.ingressTo_keeps (n : Nat) (s : State) (flow : Nat) {r₀ : State} (hk₀ : Keeps r₀ s) : Keeps r₀ (State.ingressTo n s flow) := by
  induction n generalizing s flow with
  | zero =>
    unfold State.ingressTo
    try dsimp only
    repeat' (first
      | assumption)
  | succ k_ ih =>
    unfold State.ingressTo
    try dsimp only
    repeat' (first
      | assumption
      | with_reducible apply ih
      | with_reducible apply State.ingressWrite_keeps
      | with_reducible apply Keeps.ite
      | (with_reducible refine Keeps.foldl ?_ ?_)
      | split)

/-! ## NetTx -/

theorem State.setShaper_keeps (s : State) (flow k rate burst : Nat) {r₀ : State} (hk₀ : Keeps r₀ s) : Keeps r₀ (State.setShaper s flow k rate burst).1 := by
  unfold State.setShaper
  repeat' (first
    | assumption
    | with_reducible apply State.modEflow_keeps
    | with_reducible apply State.refill_keeps
    | with_reducible apply Keeps.ite
    | (with_reducible refine Keeps.foldl ?_ ?_)
    | split
    | (lift_lets; intro t; refine Keeps.bind t ?_ ?_; focus (dsimp only [t]))
    | (intro ht; clear_value t)
    | (lift_lets; intro t; clear_value t))

theorem State.loadGates_keeps (s : State) (port count addr sec ns cycle : Nat) {r₀ : State} (hk₀ : Keeps r₀ s) : Keeps r₀ (State.loadGates s port count addr sec ns cycle).1 := by
  unfold State.loadGates
  repeat' (first
    | assumption
    | with_reducible apply State.count_keeps
    | with_reducible apply State.modGate_keeps
    | with_reducible apply Keeps.ite
    | (with_reducible refine Keeps.foldl ?_ ?_)
    | split
    | (lift_lets; intro t; refine Keeps.bind t ?_ ?_; focus (dsimp only [t]))
    | (intro ht; clear_value t)
    | (lift_lets; intro t; clear_value t))

theorem State.dropHead_keeps (s : State) (port flow : Nat) (d : HeadDrop) {r₀ : State} (hk₀ : Keeps r₀ s) : Keeps r₀ (State.dropHead s port flow d) := by
  unfold State.dropHead
  repeat' (first
    | assumption
    | with_reducible apply State.count_keeps
    | with_reducible apply State.dropEntry_keeps
    | with_reducible apply State.efqRefill_keeps
    | with_reducible apply State.popEntry_keeps
    | with_reducible apply State.raise_keeps
    | with_reducible apply Keeps.ite
    | (with_reducible refine Keeps.foldl ?_ ?_)
    | split)

theorem State.purgeFlow_keeps (n : Nat) (s : State) (port flow : Nat) {r₀ : State} (hk₀ : Keeps r₀ s) : Keeps r₀ (State.purgeFlow n s port flow) := by
  induction n generalizing s port flow with
  | zero =>
    unfold State.purgeFlow
    try dsimp only
    repeat' (first
      | assumption)
  | succ k_ ih =>
    unfold State.purgeFlow
    try dsimp only
    repeat' (first
      | assumption
      | with_reducible apply ih
      | with_reducible apply State.dropHead_keeps
      | with_reducible apply Keeps.ite
      | (with_reducible refine Keeps.foldl ?_ ?_)
      | split)

theorem State.holdFrame_keeps (s : State) (port flow : Nat) {r₀ : State} (hk₀ : Keeps r₀ s) : Keeps r₀ (State.holdFrame s port flow) := by
  unfold State.holdFrame
  repeat' (first
    | assumption
    | with_reducible apply State.count_keeps
    | with_reducible apply State.modGate_keeps
    | with_reducible apply Keeps.ite)

theorem State.choose_keeps (n : Nat) (s : State) (port : Nat) (flows : List Nat) {r₀ : State} (hk₀ : Keeps r₀ s) : Keeps r₀ (State.choose n s port flows).1 := by
  induction n generalizing s port flows with
  | zero =>
    unfold State.choose
    try dsimp only
    repeat' (first
      | assumption)
  | succ k_ ih =>
    unfold State.choose
    try dsimp only
    repeat' (first
      | assumption
      | with_reducible apply ih
      | with_reducible apply State.holdFrame_keeps
      | with_reducible apply Keeps.ite
      | (with_reducible refine Keeps.foldl ?_ ?_)
      | split)

theorem State.sendHead_keeps (s : State) (port flow : Nat) {r₀ : State} (hk₀ : Keeps r₀ s) : Keeps r₀ (State.sendHead s port flow) := by
  unfold State.sendHead
  repeat' (first
    | assumption
    | with_reducible apply State.count_keeps
    | with_reducible apply State.dropEntry_keeps
    | with_reducible apply State.efqRefill_keeps
    | with_reducible apply State.modEflow_keeps
    | with_reducible apply State.modGate_keeps
    | with_reducible apply State.popEntry_keeps
    | with_reducible apply State.takeFree_keeps
    | with_reducible apply Keeps.ite
    | (with_reducible refine Keeps.foldl ?_ ?_)
    | split
    | with_reducible exact Keeps.mk' (by assumption)
    | with_reducible apply Keeps.mk')

theorem State.gatePick_keeps (s : State) (port : Nat) {r₀ : State} (hk₀ : Keeps r₀ s) : Keeps r₀ (State.gatePick s port) := by
  unfold State.gatePick
  repeat' (first
    | assumption
    | with_reducible apply State.choose_keeps
    | with_reducible apply State.purgeFlow_keeps
    | with_reducible apply State.retryPass_keeps
    | with_reducible apply State.sendHead_keeps
    | with_reducible apply Keeps.ite
    | (with_reducible refine Keeps.foldl ?_ ?_)
    | (intro t x ht; try dsimp only)
    | split
    | with_reducible exact Keeps.mk' (by assumption)
    | with_reducible apply Keeps.mk')

theorem State.linkPartial_keeps (s : State) (port : Nat) {r₀ : State} (hk₀ : Keeps r₀ s) : Keeps r₀ (State.linkPartial s port) := by
  unfold State.linkPartial
  repeat' (first
    | assumption
    | with_reducible apply Keeps.ite
    | (with_reducible refine Keeps.foldl ?_ ?_)
    | split
    | with_reducible exact Keeps.mk' (by assumption))

theorem State.linkFalls_keeps (s : State) (port : Nat) {r₀ : State} (hk₀ : Keeps r₀ s) : Keeps r₀ (State.linkFalls s port) := by
  unfold State.linkFalls
  repeat' (first
    | assumption
    | with_reducible apply State.assertIrq_keeps
    | with_reducible apply State.linkPartial_keeps
    | with_reducible apply State.modPort_keeps
    | with_reducible apply State.raise_keeps
    | with_reducible apply Keeps.ite)

theorem State.freeBytes_keeps (n : Nat) (s : State) (got : List Nat) {r₀ : State} (hk₀ : Keeps r₀ s) : Keeps r₀ (State.freeBytes n s got).1 := by
  induction n generalizing s got with
  | zero =>
    unfold State.freeBytes
    try dsimp only
    repeat' (first
      | assumption)
  | succ k_ ih =>
    unfold State.freeBytes
    try dsimp only
    repeat' (first
      | assumption
      | with_reducible apply ih
      | with_reducible apply State.takeFree_keeps)

theorem State.fwSend_keeps (s : State) (flow : Nat) (bs : List Nat) {r₀ : State} (hk₀ : Keeps r₀ s) : Keeps r₀ (State.fwSend s flow bs).1 := by
  unfold State.fwSend
  repeat' (first
    | assumption
    | with_reducible apply State.allocCells_keeps
    | with_reducible apply State.efqPut_keeps
    | with_reducible apply State.modQueue_keeps
    | with_reducible apply State.storeFrame_keeps
    | refine Keeps.of_fst (by assumption) ?_
    | with_reducible apply Keeps.ite
    | (with_reducible refine Keeps.foldl ?_ ?_)
    | split)

theorem State.ptpFrame_keeps (s : State) (port : Nat) (kind : PtpKind) (seq : Nat) {r₀ : State} (hk₀ : Keeps r₀ s) : Keeps r₀ (State.ptpFrame s port kind seq).1 := by
  unfold State.ptpFrame
  repeat' (first
    | assumption
    | with_reducible apply State.freeBytes_keeps)

theorem State.ptpSend_keeps (s : State) (port : Nat) (kind : PtpKind) {r₀ : State} (hk₀ : Keeps r₀ s) : Keeps r₀ (State.ptpSend s port kind) := by
  have h0 : Keeps r₀ (if kind = .delayReq ∧ s.time.slavePort = some port then s.meter 2 port fun m => { m with delayReq := satInc 16 m.delayReq } else s) := by
    split
    · exact State.meter_keeps _ _ _ _ hk₀
    · exact hk₀
  unfold State.ptpSend
  dsimp only
  refine Keeps.ite hk₀ ?_
  exact State.fwSend_keeps _ _ _ (State.ptpFrame_keeps _ _ _ _ (Keeps.mk' h0))

/-! ## Stats -/

theorem State.putPicture_keeps (s : State) (c p : Nat) (rep : Bool) {r₀ : State} (hk₀ : Keeps r₀ s) : Keeps r₀ (State.putPicture s c p rep) := by
  unfold State.putPicture
  repeat' (first
    | assumption
    | with_reducible apply State.putRecord_keeps
    | with_reducible apply Keeps.ite
    | (with_reducible refine Keeps.foldl ?_ ?_)
    | (intro t x ht; try dsimp only))

theorem State.putHookStats_keeps (s : State) (i : BandId) {r₀ : State} (hk₀ : Keeps r₀ s) : Keeps r₀ (State.putHookStats s i) := by
  unfold State.putHookStats
  exact Keeps.ite hk₀ (State.shwWrite_keeps _ _ _ _ hk₀)

theorem State.sentByTime_keeps (s : State) (i : BandId) {r₀ : State} (hk₀ : Keeps r₀ s) : Keeps r₀ (State.sentByTime s i) := by
  unfold State.sentByTime
  repeat' (first
    | assumption
    | with_reducible apply State.modBand_keeps
    | with_reducible apply Keeps.ite
    | (with_reducible refine Keeps.foldl ?_ ?_)
    | split)

theorem State.retire_keeps (s : State) (i : BandId) {r₀ : State} (hk₀ : Keeps r₀ s) : Keeps r₀ (State.retire s i) := by
  unfold State.retire
  repeat' (first
    | assumption
    | with_reducible apply State.checkDrained_keeps
    | with_reducible apply State.modBand_keeps
    | with_reducible apply State.modPic_keeps
    | with_reducible apply State.putHookStats_keeps
    | with_reducible apply State.putPicture_keeps
    | with_reducible apply State.putRecord_keeps
    | with_reducible apply State.sentByTime_keeps
    | with_reducible apply Keeps.ite
    | (with_reducible refine Keeps.foldl ?_ ?_)
    | (intro t x ht; try dsimp only))

theorem State.subscribe_keeps (s : State) (qid kind source classes interval us : Nat) {r₀ : State} (hk₀ : Keeps r₀ s) : Keeps r₀ (State.subscribe s qid kind source classes interval us).1 := by
  unfold State.subscribe
  repeat' (first
    | assumption
    | with_reducible apply State.closeInterval_keeps
    | with_reducible apply State.modQueue_keeps
    | with_reducible apply Keeps.ite
    | (with_reducible refine Keeps.foldl ?_ ?_)
    | (intro t x ht; try dsimp only)
    | split
    | (lift_lets; intro t; refine Keeps.bind t ?_ ?_; focus (dsimp only [t]))
    | (intro ht; clear_value t)
    | (lift_lets; intro t; clear_value t)
    | with_reducible exact Keeps.mk' (by assumption)
    | with_reducible apply Keeps.mk')

end Sys2Proof.Machine
end

