-- ==== Sys2Proof/Laws/KeepsRest.lean ====
section
/-!
SUPPORT. What the commands keep, for the twin, received samples, output, the memory controller, queries, loads and pumps, and for a host command as a whole.
-/
namespace Sys2Proof.Machine

/-! ## Views -/

theorem State.readHigh_keeps (s : State) (who : Requester) (lo : Nat) (v : Word) {r₀ : State} (hk₀ : Keeps r₀ s) : Keeps r₀ (State.readHigh s who lo v) := by
  unfold State.readHigh
  repeat' (first
    | assumption
    | with_reducible apply Keeps.ite
    | (with_reducible refine Keeps.foldl ?_ ?_)
    | split
    | with_reducible exact Keeps.mk' (by assumption))

theorem State.readLow_keeps (s : State) (who : Requester) (lo : Nat) (v hi : Word) {r₀ : State} (hk₀ : Keeps r₀ s) : Keeps r₀ (State.readLow s who lo v hi) := by
  unfold State.readLow
  repeat' (first
    | assumption
    | with_reducible apply Keeps.ite
    | (with_reducible refine Keeps.foldl ?_ ?_)
    | split
    | with_reducible exact Keeps.mk' (by assumption))

theorem State.readFile_keeps (s : State) (who : Requester) (a : Nat) {r₀ : State} (hk₀ : Keeps r₀ s) : Keeps r₀ (State.readFile s who a) := by
  unfold State.readFile
  repeat' (first
    | assumption
    | with_reducible apply State.readHigh_keeps
    | with_reducible apply State.readLow_keeps
    | with_reducible apply State.setRegN_keeps
    | with_reducible apply Keeps.ite
    | (with_reducible refine Keeps.foldl ?_ ?_)
    | split
    | with_reducible exact Keeps.mk' (by assumption)
    | with_reducible apply Keeps.mk')

theorem State.readWord_keeps (s : State) (who : Requester) (a : Nat) {r₀ : State} (hk₀ : Keeps r₀ s) : Keeps r₀ (State.readWord s who a) := by
  unfold State.readWord
  repeat' (first
    | assumption
    | with_reducible apply State.readFile_keeps
    | with_reducible apply State.readHigh_keeps
    | with_reducible apply State.readLow_keeps
    | with_reducible apply Keeps.ite
    | (with_reducible refine Keeps.foldl ?_ ?_)
    | split
    | with_reducible exact Keeps.mk' (by assumption))

/-! ## TwinCtl -/

theorem State.leaveTwinTime_keeps (s : State) {r₀ : State} (hk₀ : Keeps r₀ s) : Keeps r₀ (State.leaveTwinTime s) := by
  unfold State.leaveTwinTime
  repeat' (first
    | assumption
    | with_reducible apply State.servoTo_keeps
    | with_reducible apply Keeps.ite
    | (with_reducible refine Keeps.foldl ?_ ?_)
    | split
    | with_reducible exact Keeps.mk' (by assumption)
    | with_reducible apply Keeps.mk')

theorem State.enterTwinTime_keeps (s : State) {r₀ : State} (hk₀ : Keeps r₀ s) : Keeps r₀ (State.enterTwinTime s) := by
  unfold State.enterTwinTime
  repeat' (first
    | assumption
    | with_reducible apply State.servoTo_keeps
    | with_reducible apply Keeps.ite
    | (with_reducible refine Keeps.foldl ?_ ?_)
    | split
    | with_reducible exact Keeps.mk' (by assumption)
    | with_reducible apply Keeps.mk')

theorem State.endTwinStart_keeps (s : State) (status : Nat) {r₀ : State} (hk₀ : Keeps r₀ s) : Keeps r₀ (State.endTwinStart s status) := by
  unfold State.endTwinStart
  repeat' (first
    | assumption
    | with_reducible apply State.endDeferred_keeps
    | with_reducible apply Keeps.ite
    | (with_reducible refine Keeps.foldl ?_ ?_)
    | split)

theorem State.tryCheck_keeps (s : State) {r₀ : State} (hk₀ : Keeps r₀ s) : Keeps r₀ (State.tryCheck s) := by
  unfold State.tryCheck
  repeat' (first
    | assumption
    | with_reducible apply State.twSend_keeps
    | with_reducible apply Keeps.ite
    | (with_reducible refine Keeps.foldl ?_ ?_)
    | split
    | with_reducible exact Keeps.mk' (by assumption))

theorem State.onHello_keeps (s : State) (session : Nat) (ready leader : Bool) {r₀ : State} (hk₀ : Keeps r₀ s) : Keeps r₀ (State.onHello s session ready leader) := by
  unfold State.onHello
  repeat' (first
    | assumption
    | with_reducible apply State.tryCheck_keeps
    | with_reducible apply Keeps.ite
    | (with_reducible refine Keeps.foldl ?_ ?_)
    | split
    | with_reducible exact Keeps.mk' (by assumption))

theorem State.onCheck_keeps (s : State) (cause : Nat) {r₀ : State} (hk₀ : Keeps r₀ s) : Keeps r₀ (State.onCheck s cause) := by
  unfold State.onCheck
  repeat' (first
    | assumption
    | with_reducible apply State.endTwinStart_keeps
    | with_reducible apply State.enterTwinTime_keeps
    | with_reducible apply Keeps.ite
    | (with_reducible refine Keeps.foldl ?_ ?_)
    | split
    | with_reducible exact Keeps.mk' (by assumption))

theorem State.beginTwin_keeps (s : State) (h : CmdHdr) (idx : Nat) (op : DeferredOp) (phase : TwinPhase) (follower rejoin : Bool) {r₀ : State} (hk₀ : Keeps r₀ s) : Keeps r₀ (State.beginTwin s h idx op phase follower rejoin) := by
  unfold State.beginTwin
  repeat' (first
    | assumption
    | with_reducible apply State.addDeferred_keeps
    | with_reducible apply State.takeFree_keeps
    | with_reducible apply State.tryCheck_keeps
    | with_reducible apply State.twSend_keeps
    | with_reducible apply Keeps.ite
    | (with_reducible refine Keeps.foldl ?_ ?_)
    | split
    | with_reducible exact Keeps.mk' (by assumption)
    | with_reducible apply Keeps.mk')

theorem State.twinStart_keeps (s : State) (h : CmdHdr) (idx : Nat) {r₀ : State} (hk₀ : Keeps r₀ s) : Keeps r₀ (State.twinStart s h idx).1 := by
  unfold State.twinStart
  repeat' (first
    | assumption
    | with_reducible apply State.beginTwin_keeps
    | with_reducible apply Keeps.ite
    | (with_reducible refine Keeps.foldl ?_ ?_)
    | split)

theorem State.stopTwin_keeps (s : State) {r₀ : State} (hk₀ : Keeps r₀ s) : Keeps r₀ (State.stopTwin s) := by
  unfold State.stopTwin
  repeat' (first
    | assumption
    | with_reducible apply State.endTwinStart_keeps
    | with_reducible apply State.leaveTwinTime_keeps
    | with_reducible apply State.twSend_keeps
    | with_reducible apply Keeps.ite
    | (with_reducible refine Keeps.foldl ?_ ?_)
    | split
    | with_reducible exact Keeps.mk' (by assumption)
    | with_reducible apply Keeps.mk')

theorem State.twinRejoin_keeps (s : State) (h : CmdHdr) (idx : Nat) {r₀ : State} (hk₀ : Keeps r₀ s) : Keeps r₀ (State.twinRejoin s h idx).1 := by
  unfold State.twinRejoin
  repeat' (first
    | assumption
    | with_reducible apply State.beginTwin_keeps
    | with_reducible apply Keeps.ite
    | (with_reducible refine Keeps.foldl ?_ ?_)
    | split)

theorem State.enterTwinned_keeps (s : State) {r₀ : State} (hk₀ : Keeps r₀ s) : Keeps r₀ (State.enterTwinned s) := by
  unfold State.enterTwinned
  repeat' (first
    | assumption
    | with_reducible apply State.endTwinStart_keeps
    | with_reducible apply Keeps.ite
    | (with_reducible refine Keeps.foldl ?_ ?_)
    | split
    | with_reducible exact Keeps.mk' (by assumption))

theorem State.steerTwin_keeps (s : State) (offset : Int) {r₀ : State} (hk₀ : Keeps r₀ s) : Keeps r₀ (State.steerTwin s offset) := by
  unfold State.steerTwin
  repeat' (first
    | assumption
    | with_reducible apply State.steer_keeps
    | with_reducible apply State.takeFree_keeps
    | with_reducible apply Keeps.ite
    | (with_reducible refine Keeps.foldl ?_ ?_)
    | split
    | with_reducible exact Keeps.mk' (by assumption))

theorem State.judgeTwinOffset_keeps (s : State) (offset : Int) {r₀ : State} (hk₀ : Keeps r₀ s) : Keeps r₀ (State.judgeTwinOffset s offset) := by
  unfold State.judgeTwinOffset
  repeat' (first
    | assumption
    | with_reducible apply State.enterTwinned_keeps
    | with_reducible apply State.raise_keeps
    | with_reducible apply State.servoTo_keeps
    | with_reducible apply State.twSend_keeps
    | with_reducible apply Keeps.ite
    | (with_reducible refine Keeps.foldl ?_ ?_)
    | split
    | with_reducible exact Keeps.mk' (by assumption)
    | with_reducible apply Keeps.mk')

theorem State.onTime_keeps (s : State) (d : TwDelivered) {r₀ : State} (hk₀ : Keeps r₀ s) : Keeps r₀ (State.onTime s d) := by
  unfold State.onTime
  repeat' (first
    | assumption
    | with_reducible apply State.judgeTwinOffset_keeps
    | with_reducible apply State.steerTwin_keeps
    | with_reducible apply State.twSend_keeps
    | with_reducible apply Keeps.ite
    | (with_reducible refine Keeps.foldl ?_ ?_)
    | split
    | with_reducible exact Keeps.mk' (by assumption))

theorem State.twinTimeout_keeps (s : State) {r₀ : State} (hk₀ : Keeps r₀ s) : Keeps r₀ (State.twinTimeout s) := by
  unfold State.twinTimeout
  repeat' (first
    | assumption
    | with_reducible apply State.endTwinStart_keeps
    | with_reducible apply State.leaveTwinTime_keeps
    | with_reducible apply Keeps.ite
    | (with_reducible refine Keeps.foldl ?_ ?_)
    | split
    | with_reducible exact Keeps.mk' (by assumption))

theorem State.channelTimeouts_keeps (s : State) {r₀ : State} (hk₀ : Keeps r₀ s) : Keeps r₀ (State.channelTimeouts s) := by
  unfold State.channelTimeouts
  repeat' (first
    | assumption
    | with_reducible apply State.withdrawStart_keeps
    | with_reducible apply Keeps.ite
    | (with_reducible refine Keeps.foldl ?_ ?_)
    | (intro t x ht; try dsimp only)
    | split)

theorem State.onArm_keeps (s : State) (c : Nat) (peer : Nat × Nat) {r₀ : State} (hk₀ : Keeps r₀ s) : Keeps r₀ (State.onArm s c peer) := by
  unfold State.onArm
  repeat' (first
    | assumption
    | with_reducible apply State.endDeferred_keeps
    | with_reducible apply State.matchArms_keeps
    | with_reducible apply State.setPeerArm_keeps
    | with_reducible apply State.twSend_keeps
    | with_reducible apply Keeps.ite
    | (with_reducible refine Keeps.foldl ?_ ?_)
    | split
    | with_reducible exact Keeps.mk' (by assumption)
    | with_reducible apply Keeps.mk')

theorem State.skipUncoded_keeps (s : State) (c p : Nat) {r₀ : State} (hk₀ : Keeps r₀ s) : Keeps r₀ (State.skipUncoded s c p) := by
  unfold State.skipUncoded
  repeat' (first
    | assumption
    | with_reducible apply State.bandOutcome_keeps
    | with_reducible apply State.takeOff_keeps
    | with_reducible apply Keeps.ite
    | (with_reducible refine Keeps.foldl ?_ ?_)
    | (intro t x ht; try dsimp only)
    | split)

theorem State.closeAtLoss_keeps (s : State) (i : BandId) {r₀ : State} (hk₀ : Keeps r₀ s) : Keeps r₀ (State.closeAtLoss s i) := by
  unfold State.closeAtLoss
  repeat' (first
    | with_reducible assumption
    | with_reducible apply State.modBand_keeps
    | with_reducible apply State.raise_keeps
    | with_reducible apply State.readyNow_keeps
    | with_reducible apply Keeps.ite)

theorem State.bandAtLoss_keeps (s : State) (i : BandId) {r₀ : State} (hk₀ : Keeps r₀ s) : Keeps r₀ (State.bandAtLoss s i) := by
  unfold State.bandAtLoss
  repeat' (first
    | with_reducible assumption
    | with_reducible apply State.countAbandoned_keeps
    | with_reducible apply State.dropMirror_keeps
    | with_reducible apply State.uncommitAndName_keeps
    | with_reducible apply Keeps.ite
    | (with_reducible refine Keeps.foldl ?_ ?_)
    | split)

theorem State.channelAtLoss_keeps (s : State) (c : Nat) {r₀ : State} (hk₀ : Keeps r₀ s) : Keeps r₀ (State.channelAtLoss s c) := by
  unfold State.channelAtLoss
  repeat' (first
    | assumption
    | with_reducible apply State.bandAtLoss_keeps
    | with_reducible apply State.closeAtLoss_keeps
    | with_reducible apply State.modChannel_keeps
    | with_reducible apply State.skipUncoded_keeps
    | refine Keeps.of_fst (by assumption) ?_
    | with_reducible apply Keeps.ite
    | (with_reducible refine Keeps.foldl ?_ ?_)
    | (intro t x ht; try dsimp only))

theorem State.cutLedger_keeps (s : State) (c : Nat) {r₀ : State} (hk₀ : Keeps r₀ s) : Keeps r₀ (State.cutLedger s c) := by
  unfold State.cutLedger
  repeat' (first
    | assumption
    | with_reducible apply State.modChannel_keeps
    | with_reducible apply Keeps.ite)

theorem State.peerLost_keeps (s : State) {r₀ : State} (hk₀ : Keeps r₀ s) : Keeps r₀ (State.peerLost s) := by
  unfold State.peerLost
  repeat' (first
    | assumption
    | with_reducible apply State.channelAtLoss_keeps
    | with_reducible apply State.cutLedger_keeps
    | with_reducible apply State.leaveTwinTime_keeps
    | with_reducible apply State.raise_keeps
    | with_reducible apply State.releaseDue_keeps
    | with_reducible apply State.takeFree_keeps
    | with_reducible apply Keeps.ite
    | (with_reducible refine Keeps.foldl ?_ ?_)
    | (intro t x ht; try dsimp only)
    | split
    | with_reducible exact Keeps.mk' (by assumption)
    | with_reducible apply Keeps.mk')

theorem State.sendHeartbeat_keeps (s : State) {r₀ : State} (hk₀ : Keeps r₀ s) : Keeps r₀ (State.sendHeartbeat s) := by
  unfold State.sendHeartbeat
  repeat' (first
    | assumption
    | with_reducible apply State.nextAlive_keeps
    | with_reducible apply State.twSend_keeps
    | with_reducible apply Keeps.ite
    | (with_reducible refine Keeps.foldl ?_ ?_)
    | split
    | with_reducible exact Keeps.mk' (by assumption))

theorem State.onHeartbeat_keeps (s : State) (v at_ : Nat) {r₀ : State} (hk₀ : Keeps r₀ s) : Keeps r₀ (State.onHeartbeat s v at_) := by
  unfold State.onHeartbeat
  repeat' (first
    | assumption
    | with_reducible apply State.judgeAlive_keeps
    | with_reducible apply State.peerLost_keeps
    | with_reducible apply Keeps.ite
    | (with_reducible refine Keeps.foldl ?_ ?_)
    | split
    | with_reducible exact Keeps.mk' (by assumption)
    | with_reducible apply Keeps.mk')

theorem State.judgeHeartbeat_keeps (s : State) {r₀ : State} (hk₀ : Keeps r₀ s) : Keeps r₀ (State.judgeHeartbeat s) := by
  unfold State.judgeHeartbeat
  repeat' (first
    | assumption
    | with_reducible apply State.count_keeps
    | with_reducible apply State.peerLost_keeps
    | with_reducible apply Keeps.ite
    | (with_reducible refine Keeps.foldl ?_ ?_)
    | split
    | with_reducible exact Keeps.mk' (by assumption))

theorem State.onBye_keeps (s : State) {r₀ : State} (hk₀ : Keeps r₀ s) : Keeps r₀ (State.onBye s) := by
  unfold State.onBye
  repeat' (first
    | assumption
    | with_reducible apply State.leaveTwinTime_keeps
    | with_reducible apply State.peerLost_keeps
    | with_reducible apply State.twSend_keeps
    | with_reducible apply Keeps.ite
    | (with_reducible refine Keeps.foldl ?_ ?_)
    | split
    | with_reducible exact Keeps.mk' (by assumption)
    | with_reducible apply Keeps.mk')

theorem State.startYield_keeps (s : State) {r₀ : State} (hk₀ : Keeps r₀ s) : Keeps r₀ (State.startYield s) := by
  unfold State.startYield
  repeat' (first
    | assumption
    | with_reducible apply State.channelStopped_keeps
    | with_reducible apply State.modChannel_keeps
    | with_reducible apply Keeps.ite
    | (with_reducible refine Keeps.foldl ?_ ?_)
    | (intro t x ht; try dsimp only)
    | split
    | with_reducible exact Keeps.mk' (by assumption))

theorem State.endYield_keeps (s : State) (status : Nat) {r₀ : State} (hk₀ : Keeps r₀ s) : Keeps r₀ (State.endYield s status) := by
  unfold State.endYield
  repeat' (first
    | assumption
    | with_reducible apply State.endDeferred_keeps
    | with_reducible apply Keeps.ite
    | (with_reducible refine Keeps.foldl ?_ ?_)
    | split)

theorem State.completeYield_keeps (s : State) {r₀ : State} (hk₀ : Keeps r₀ s) : Keeps r₀ (State.completeYield s) := by
  unfold State.completeYield
  repeat' (first
    | assumption
    | with_reducible apply State.endYield_keeps
    | with_reducible apply State.leaveTwinTime_keeps
    | with_reducible apply State.twSend_keeps
    | with_reducible apply Keeps.ite
    | (with_reducible refine Keeps.foldl ?_ ?_)
    | split
    | with_reducible exact Keeps.mk' (by assumption)
    | with_reducible apply Keeps.mk')

/-! ## TwinRows -/

theorem State.ledgerPoint_keeps (s : State) (c p : Nat) {r₀ : State} (hk₀ : Keeps r₀ s) : Keeps r₀ (State.ledgerPoint s c p) := by
  unfold State.ledgerPoint
  dsimp only
  refine Keeps.ite ?_ hk₀
  refine State.twSend_keeps _ _ (State.nextAlive_keeps _ _ ?_)
  have h1 : ∀ (c1 : Prop) [Decidable c1] (n : Nat), Keeps r₀ (if c1 then (s.takeFree.1, s.takeFree.2) else (n, s)).2 := by
    intro c1 _ n
    split
    · exact State.takeFree_keeps _ hk₀
    · exact hk₀
  repeat' (first
    | exact h1 _ _
    | with_reducible apply Keeps.ite
    | with_reducible apply State.raise_keeps
    | with_reducible apply State.modChannel_keeps
    | with_reducible apply Keeps.mk')

theorem State.onLedger_keeps (s : State) (v : Nat) {r₀ : State} (hk₀ : Keeps r₀ s) : Keeps r₀ (State.onLedger s v) := by
  unfold State.onLedger
  repeat' (first
    | assumption
    | with_reducible apply State.judgeAlive_keeps
    | with_reducible apply State.modChannel_keeps
    | with_reducible apply Keeps.ite)

theorem State.tokenMissing_keeps (s : State) (c p : Nat) {r₀ : State} (hk₀ : Keeps r₀ s) : Keeps r₀ (State.tokenMissing s c p) := by
  unfold State.tokenMissing
  repeat' (first
    | assumption
    | with_reducible apply State.enterDiverged_keeps
    | with_reducible apply State.modChannel_keeps
    | with_reducible apply State.reportDiverge_keeps
    | with_reducible apply State.takeFree_keeps
    | with_reducible apply State.twSend_keeps
    | with_reducible apply Keeps.ite)

theorem State.onDiverge_keeps (s : State) (c p peerT : Nat) {r₀ : State} (hk₀ : Keeps r₀ s) : Keeps r₀ (State.onDiverge s c p peerT) := by
  unfold State.onDiverge
  repeat' (first
    | assumption
    | with_reducible apply State.learnDiverged_keeps
    | with_reducible apply State.reportDiverge_keeps
    | with_reducible apply Keeps.ite)

theorem State.answerRecon_keeps (s : State) (v : Nat) {r₀ : State} (hk₀ : Keeps r₀ s) : Keeps r₀ (State.answerRecon s v) := by
  unfold State.answerRecon
  repeat' (first
    | assumption
    | with_reducible apply State.modBand_keeps
    | with_reducible apply State.twSend_keeps
    | with_reducible apply Keeps.ite
    | (with_reducible refine Keeps.foldl ?_ ?_)
    | (intro t x ht; try dsimp only))

theorem State.onReconRequest_keeps (s : State) (v : Nat) {r₀ : State} (hk₀ : Keeps r₀ s) : Keeps r₀ (State.onReconRequest s v) := by
  unfold State.onReconRequest
  repeat' (first
    | assumption
    | with_reducible apply State.answerRecon_keeps
    | with_reducible apply Keeps.ite
    | (with_reducible refine Keeps.foldl ?_ ?_)
    | split
    | with_reducible exact Keeps.mk' (by assumption))

theorem State.answerWaiting_keeps (s : State) (i : BandId) {r₀ : State} (hk₀ : Keeps r₀ s) : Keeps r₀ (State.answerWaiting s i) := by
  unfold State.answerWaiting
  repeat' (first
    | assumption
    | with_reducible apply State.answerRecon_keeps
    | with_reducible apply Keeps.ite
    | (with_reducible refine Keeps.foldl ?_ ?_)
    | (intro t x ht; try dsimp only)
    | split
    | with_reducible exact Keeps.mk' (by assumption))

theorem State.closeRecon_keeps (s : State) (i : BandId) {r₀ : State} (hk₀ : Keeps r₀ s) : Keeps r₀ (State.closeRecon s i) := by
  unfold State.closeRecon
  repeat' (first
    | with_reducible assumption
    | with_reducible apply State.modBand_keeps
    | with_reducible apply State.readyNow_keeps)

theorem State.takePosition_keeps (s : State) (i : BandId) (k : Nat) (l : List Nat) {r₀ : State} (hk₀ : Keeps r₀ s) : Keeps r₀ (State.takePosition s i k l) := by
  unfold State.takePosition
  repeat' (first
    | assumption
    | with_reducible apply State.modBand_keeps
    | with_reducible apply State.modPic_keeps)

theorem State.onReconAnswer_keeps (s : State) (v : Nat) (data : List Nat) {r₀ : State} (hk₀ : Keeps r₀ s) : Keeps r₀ (State.onReconAnswer s v data) := by
  unfold State.onReconAnswer
  repeat' (first
    | with_reducible assumption
    | with_reducible apply State.closeRecon_keeps
    | with_reducible apply State.modBand_keeps
    | with_reducible apply State.takePosition_keeps
    | with_reducible apply Keeps.ite
    | (with_reducible refine Keeps.foldl ?_ ?_)
    | split
    | with_reducible exact Keeps.mk' (by assumption)
    | with_reducible apply Keeps.mk')

theorem State.reconTime_keeps (s : State) (i : BandId) {r₀ : State} (hk₀ : Keeps r₀ s) : Keeps r₀ (State.reconTime s i) := by
  unfold State.reconTime
  repeat' (first
    | with_reducible assumption
    | with_reducible apply State.closeRecon_keeps
    | with_reducible apply State.raise_keeps
    | with_reducible apply Keeps.ite)

theorem State.onRecord_keeps (s : State) (v : Nat) {r₀ : State} (hk₀ : Keeps r₀ s) : Keeps r₀ (State.onRecord s v) := by
  unfold State.onRecord
  repeat' (first
    | assumption
    | with_reducible apply State.judgeAlive_keeps
    | with_reducible apply State.modBand_keeps
    | with_reducible apply State.releaseDue_keeps
    | with_reducible apply State.settle_keeps
    | with_reducible apply Keeps.ite)

theorem State.onMirrorRequest_keeps (s : State) (v : Nat) {r₀ : State} (hk₀ : Keeps r₀ s) : Keeps r₀ (State.onMirrorRequest s v) := by
  unfold State.onMirrorRequest
  repeat' (first
    | assumption
    | with_reducible apply State.twSend_keeps
    | with_reducible apply Keeps.ite
    | (with_reducible refine Keeps.foldl ?_ ?_)
    | (intro t x ht; try dsimp only)
    | split)

theorem State.useMirror_keeps (s : State) (i : BandId) (g : MirrorGet) (l : List Nat) {r₀ : State} (hk₀ : Keeps r₀ s) : Keeps r₀ (State.useMirror s i g l) := by
  unfold State.useMirror
  repeat' (first
    | assumption
    | with_reducible apply State.discardPackets_keeps
    | with_reducible apply State.modBand_keeps
    | with_reducible apply State.modSpout_keeps
    | with_reducible apply State.pumpMirrors_keeps)

theorem State.onMirrorData_keeps (s : State) (v : Nat) (data : List Nat) {r₀ : State} (hk₀ : Keeps r₀ s) : Keeps r₀ (State.onMirrorData s v data) := by
  unfold State.onMirrorData
  repeat' (first
    | assumption
    | with_reducible apply State.mirrorFail_keeps
    | with_reducible apply State.modBand_keeps
    | with_reducible apply State.useMirror_keeps
    | with_reducible apply Keeps.ite
    | (with_reducible refine Keeps.foldl ?_ ?_)
    | split
    | with_reducible exact Keeps.mk' (by assumption)
    | with_reducible apply Keeps.mk')

/-! ## Depack -/

theorem State.recheckBand_keeps (s : State) (i : BandId) {r₀ : State} (hk₀ : Keeps r₀ s) : Keeps r₀ (State.recheckBand s i) := by
  unfold State.recheckBand
  repeat' (first
    | with_reducible assumption
    | with_reducible apply State.complete_keeps
    | with_reducible apply State.modBand_keeps
    | with_reducible apply State.readyNow_keeps
    | with_reducible apply Keeps.ite)

theorem State.recheckUnit_keeps (s : State) (c p : Nat) {r₀ : State} (hk₀ : Keeps r₀ s) : Keeps r₀ (State.recheckUnit s c p) := by
  unfold State.recheckUnit
  repeat' (first
    | assumption
    | with_reducible apply State.recheckBand_keeps
    | with_reducible apply Keeps.ite
    | (with_reducible refine Keeps.foldl ?_ ?_)
    | (intro t x ht; try dsimp only))

theorem State.recheckSeq_keeps (s : State) (c k : Nat) {r₀ : State} (hk₀ : Keeps r₀ s) : Keeps r₀ (State.recheckSeq s c k) := by
  unfold State.recheckSeq
  repeat' (first
    | assumption
    | with_reducible apply State.recheckUnit_keeps
    | with_reducible apply Keeps.ite
    | (with_reducible refine Keeps.foldl ?_ ?_)
    | split)

theorem State.declareLost_keeps (s : State) (c k : Nat) {r₀ : State} (hk₀ : Keeps r₀ s) : Keeps r₀ (State.declareLost s c k) := by
  unfold State.declareLost
  repeat' (first
    | assumption
    | with_reducible apply State.modBand_keeps
    | with_reducible apply State.modChannel_keeps
    | with_reducible apply Keeps.ite
    | (with_reducible refine Keeps.foldl ?_ ?_)
    | split)

theorem State.noteSps_keeps (s : State) (c : Nat) (due : Option SpsNote) {r₀ : State} (hk₀ : Keeps r₀ s) : Keeps r₀ (State.noteSps s c due) := by
  unfold State.noteSps
  repeat' (first
    | assumption
    | with_reducible apply State.raise_keeps
    | with_reducible apply Keeps.ite
    | (with_reducible refine Keeps.foldl ?_ ?_)
    | split)

theorem State.morePages_keeps (n : Nat) (s : State) (c p o len : Nat) {r₀ : State} (hk₀ : Keeps r₀ s) : Keeps r₀ (State.morePages n s c p o len).1 := by
  induction n generalizing s c p o len with
  | zero =>
    unfold State.morePages
    try dsimp only
    repeat' (first
      | assumption
      | with_reducible apply State.alloc_keeps
      | with_reducible apply State.modPic_keeps
      | refine Keeps.of_fst (by assumption) ?_
      | with_reducible apply Keeps.ite
      | (with_reducible refine Keeps.foldl ?_ ?_)
      | split)
  | succ k_ ih =>
    unfold State.morePages
    try dsimp only
    repeat' (first
      | assumption
      | with_reducible apply ih
      | with_reducible apply State.alloc_keeps
      | with_reducible apply State.modPic_keeps
      | refine Keeps.of_fst (by assumption) ?_
      | with_reducible apply Keeps.ite
      | (with_reducible refine Keeps.foldl ?_ ?_)
      | split)

theorem State.pageBytes_keeps (n : Nat) (s : State) (c p : Nat) (l : List Nat) {r₀ : State} (hk₀ : Keeps r₀ s) : Keeps r₀ (State.pageBytes n s c p l) := by
  induction n generalizing s l with
  | zero => unfold State.pageBytes; exact hk₀
  | succ k ih =>
    unfold State.pageBytes
    cases l with
    | nil => exact hk₀
    | cons b rest => exact ih _ _ (State.modPic_keeps _ _ _ _ (Keeps.hbmMem hk₀))

theorem State.loseWhole_keeps (s : State) (c p : Nat) {r₀ : State} (hk₀ : Keeps r₀ s) : Keeps r₀ (State.loseWhole s c p) := by
  unfold State.loseWhole
  repeat' (first
    | assumption
    | with_reducible apply State.freePages_keeps
    | with_reducible apply State.modChannel_keeps
    | with_reducible apply State.modPic_keeps
    | with_reducible apply State.putPicture_keeps
    | with_reducible apply Keeps.ite)

theorem State.loseUnit_keeps (s : State) (c p k : Nat) {r₀ : State} (hk₀ : Keeps r₀ s) : Keeps r₀ (State.loseUnit s c p k) := by
  unfold State.loseUnit
  repeat' (first
    | assumption
    | with_reducible apply State.declareLost_keeps
    | with_reducible apply State.loseWhole_keeps
    | with_reducible apply State.modPic_keeps)

theorem State.receiveSeq_keeps (s : State) (c k : Nat) (v : Nat × Nat) {r₀ : State} (hk₀ : Keeps r₀ s) : Keeps r₀ (State.receiveSeq s c k v) := by
  unfold State.receiveSeq
  repeat' (first
    | assumption
    | with_reducible apply State.modChannel_keeps)

theorem State.placeBytes_keeps (s : State) (c p k : Nat) (l : List Nat) (last : Bool) (n : StreamNote) {r₀ : State} (hk₀ : Keeps r₀ s) : Keeps r₀ (State.placeBytes s c p k l last n) := by
  unfold State.placeBytes
  repeat' (first
    | assumption
    | with_reducible apply State.modChannel_keeps
    | with_reducible apply State.noteSps_keeps
    | with_reducible apply State.pageBytes_keeps
    | with_reducible apply State.recheckUnit_keeps
    | with_reducible apply Keeps.ite
    | (with_reducible refine Keeps.foldl ?_ ?_)
    | split)

theorem State.resyncMerge_keeps (s : State) (c ssrc seq : Nat) {r₀ : State} (hk₀ : Keeps r₀ s) : Keeps r₀ (State.resyncMerge s c ssrc seq) := by
  unfold State.resyncMerge
  repeat' (first
    | assumption
    | with_reducible apply State.declareLost_keeps
    | with_reducible apply State.modChannel_keeps
    | with_reducible apply State.raise_keeps
    | with_reducible apply State.recheckSeq_keeps
    | with_reducible apply State.recheckUnit_keeps
    | with_reducible apply State.resync_keeps
    | with_reducible apply Keeps.ite
    | (with_reducible refine Keeps.foldl ?_ ?_)
    | (intro t x ht; try dsimp only)
    | split
    | with_reducible exact Keeps.mk' (by assumption)
    | with_reducible apply Keeps.mk')

theorem State.mergeNotice_keeps (s : State) (c k kind : Nat) (f : Band → Band) {r₀ : State} (hk₀ : Keeps r₀ s) : Keeps r₀ (State.mergeNotice s c k kind f) := by
  unfold State.mergeNotice
  repeat' (first
    | assumption
    | with_reducible apply State.modBand_keeps
    | with_reducible apply State.raise_keeps
    | with_reducible apply Keeps.ite)

theorem State.mergeLate_keeps (s : State) (c k : Nat) {r₀ : State} (hk₀ : Keeps r₀ s) : Keeps r₀ (State.mergeLate s c k) := by
  unfold State.mergeLate
  repeat' (first
    | assumption
    | with_reducible apply State.mergeNotice_keeps)

theorem State.placePacket_keeps (s : State) (c k : Nat) (pkt : MergePkt) (n : StreamNote) {r₀ : State} (hk₀ : Keeps r₀ s) : Keeps r₀ (State.placePacket s c k pkt n).1 := by
  unfold State.placePacket
  dsimp only
  repeat' (first
    | assumption
    | with_reducible apply State.declareLost_keeps
    | with_reducible apply State.loseUnit_keeps
    | with_reducible apply State.modChannel_keeps
    | with_reducible apply State.morePages_keeps
    | with_reducible apply State.placeBytes_keeps
    | with_reducible apply State.receiveSeq_keeps
    | with_reducible apply State.recheckSeq_keeps
    | refine Keeps.of_fst (by assumption) ?_
    | with_reducible apply Keeps.ite
    | (with_reducible refine Keeps.foldl ?_ ?_)
    | split)

theorem State.mergeSource_keeps (s : State) (c : Nat) (pkt : MergePkt) {r₀ : State} (hk₀ : Keeps r₀ s) : Keeps r₀ (State.mergeSource s c pkt) := by
  unfold State.mergeSource
  repeat' (first
    | assumption
    | with_reducible apply State.modChannel_keeps
    | with_reducible apply State.resyncMerge_keeps
    | with_reducible apply Keeps.ite)

theorem State.mergePacket_keeps (s : State) (c : Nat) (pkt : MergePkt) (n : StreamNote) {r₀ : State} (hk₀ : Keeps r₀ s) : Keeps r₀ (State.mergePacket s c pkt n).1 := by
  unfold State.mergePacket
  have hm := State.mergeSource_keeps s c pkt hk₀
  generalize State.mergeSource s c pkt = u at hm
  dsimp only
  repeat' (first
    | assumption
    | with_reducible apply State.declareLost_keeps
    | with_reducible apply State.mergeLate_keeps
    | with_reducible apply State.mergeNotice_keeps
    | with_reducible apply State.placePacket_keeps
    | with_reducible apply State.recheckSeq_keeps
    | split)

theorem State.depack_keeps (s : State) (flow : Nat) (n : StreamNote) {r₀ : State} (hk₀ : Keeps r₀ s) : Keeps r₀ (State.depack s flow n) := by
  unfold State.depack
  repeat' (first
    | assumption
    | with_reducible apply State.mergePacket_keeps
    | with_reducible apply State.takeIfq_keeps
    | refine Keeps.of_fst (by assumption) ?_
    | with_reducible apply Keeps.ite
    | (with_reducible refine Keeps.foldl ?_ ?_)
    | split)

theorem State.rejectInject_keeps (s : State) (c q v k status : Nat) {r₀ : State} (hk₀ : Keeps r₀ s) : Keeps r₀ (State.rejectInject s c q v k status) := by
  unfold State.rejectInject
  repeat' (first
    | assumption
    | with_reducible apply State.declareLost_keeps
    | with_reducible apply State.modChannel_keeps
    | with_reducible apply State.recheckSeq_keeps
    | with_reducible apply State.recheckUnit_keeps
    | with_reducible apply State.returnEntry_keeps
    | with_reducible apply Keeps.ite
    | (with_reducible refine Keeps.foldl ?_ ?_)
    | split)

theorem State.refuseInject_keeps (s : State) (c q v k status : Nat) {r₀ : State} (hk₀ : Keeps r₀ s) : Keeps r₀ (State.refuseInject s c q v k status) := by
  unfold State.refuseInject
  repeat' (first
    | assumption
    | with_reducible apply State.declareLost_keeps
    | with_reducible apply State.modChannel_keeps
    | with_reducible apply State.recheckSeq_keeps
    | with_reducible apply State.returnEntry_keeps
    | with_reducible apply Keeps.ite)

theorem State.takeInject_keeps (s : State) (c v : Nat) (n : StreamNote) {r₀ : State} (hk₀ : Keeps r₀ s) : Keeps r₀ (State.takeInject s c v n) := by
  unfold State.takeInject
  repeat' (first
    | assumption
    | with_reducible apply State.loseWhole_keeps
    | with_reducible apply State.modChannel_keeps
    | with_reducible apply State.morePages_keeps
    | with_reducible apply State.placeBytes_keeps
    | with_reducible apply State.receiveSeq_keeps
    | with_reducible apply State.refuseInject_keeps
    | with_reducible apply State.rejectInject_keeps
    | with_reducible apply State.returnEntry_keeps
    | refine Keeps.of_fst (by assumption) ?_
    | with_reducible apply Keeps.ite
    | (with_reducible refine Keeps.foldl ?_ ?_)
    | split)

theorem State.inputDue_keeps (s : State) (i : BandId) {r₀ : State} (hk₀ : Keeps r₀ s) : Keeps r₀ (State.inputDue s i) := by
  unfold State.inputDue
  repeat' (first
    | with_reducible assumption
    | with_reducible apply State.answerWaiting_keeps
    | with_reducible apply State.complete_keeps
    | with_reducible apply State.loseWhole_keeps
    | with_reducible apply State.openReconcile_keeps
    | with_reducible apply State.readyNow_keeps
    | refine Keeps.of_fst (by assumption) ?_
    | with_reducible apply Keeps.ite)

/-! ## Egress -/

theorem State.outputSlot_keeps (s : State) (c : Nat) {r₀ : State} (hk₀ : Keeps r₀ s) : Keeps r₀ (State.outputSlot s c) := by
  unfold State.outputSlot
  repeat' (first
    | assumption
    | with_reducible apply State.modChannel_keeps
    | with_reducible apply Keeps.ite
    | (with_reducible refine Keeps.foldl ?_ ?_)
    | split
    | with_reducible exact Keeps.mk' (by assumption)
    | with_reducible apply Keeps.mk')

theorem State.chooseOut_keeps (s : State) (c : Nat) (q : OutSlot) {r₀ : State} (hk₀ : Keeps r₀ s) : Keeps r₀ (State.chooseOut s c q) := by
  unfold State.chooseOut
  repeat' (first
    | assumption
    | with_reducible apply State.modChannel_keeps
    | with_reducible apply State.putPicture_keeps
    | with_reducible apply State.raise_keeps
    | with_reducible apply Keeps.ite
    | (with_reducible refine Keeps.foldl ?_ ?_)
    | split
    | with_reducible exact Keeps.mk' (by assumption)
    | with_reducible apply Keeps.mk')

theorem State.packetFormed_keeps (s : State) (o : OutBand) (rep : Bool) (e : Nat) (k : Option PktRec) {r₀ : State} (hk₀ : Keeps r₀ s) : Keeps r₀ (State.packetFormed s o rep e k) := by
  unfold State.packetFormed
  repeat' (first
    | assumption
    | with_reducible apply State.modBand_keeps
    | with_reducible apply State.modChannel_keeps
    | with_reducible apply Keeps.ite
    | (with_reducible refine Keeps.foldl ?_ ?_)
    | split)

theorem State.formOut_keeps (n : Nat) (s : State) (o : OutBand) {r₀ : State} (hk₀ : Keeps r₀ s) : Keeps r₀ (State.formOut n s o).1 := by
  induction n generalizing s with
  | zero => unfold State.formOut; exact hk₀
  | succ j ih =>
    unfold State.formOut
    dsimp only
    split
    · rename_i j' q rest hn hq
      cases hn
      split
      · exact hk₀
      · split
        · exact ih _ (State.packetFormed_keeps _ _ _ _ _ hk₀)
        · split
          · exact hk₀
          · split
            · rename_i t h; exact Keeps.of_fst h (State.allocCells_keeps _ _ _ _ hk₀)
            · rename_i t cells h
              exact ih _ (State.packetFormed_keeps _ _ _ _ _ (State.sendPacket_keeps _ _ _ _ _ _ _ (State.storeFrame_keeps _ _ _
                (Keeps.of_fst h (State.allocCells_keeps _ _ _ _ hk₀)))))
    · exact hk₀

theorem State.outEarly_keeps (s : State) (i : BandId) {r₀ : State} (hk₀ : Keeps r₀ s) : Keeps r₀ (State.outEarly s i) := by
  unfold State.outEarly
  repeat' (first
    | assumption
    | with_reducible apply State.modBand_keeps
    | with_reducible apply State.raise_keeps
    | with_reducible apply Keeps.ite)

theorem State.endOutBand_keeps (s : State) (c p b : Nat) (rep : Bool) (pkts : Nat) (idle : Option Nat) {r₀ : State} (hk₀ : Keeps r₀ s) : Keeps r₀ (State.endOutBand s c p b rep pkts idle) := by
  unfold State.endOutBand
  repeat' (first
    | assumption
    | with_reducible apply State.modBand_keeps
    | with_reducible apply State.modChannel_keeps
    | with_reducible apply Keeps.ite
    | (with_reducible refine Keeps.foldl ?_ ?_)
    | split)

theorem State.sendOut_keeps (s : State) (c p b start : Nat) (q : OutSlot) {r₀ : State} (hk₀ : Keeps r₀ s) : Keeps r₀ (State.sendOut s c p b start q) := by
  have h0 : ∀ i : BandId, Keeps r₀ (if q.isRepeat = false ∧ q.second = false ∧ s.undecoded i = true then s.outEarly i else s) := by
    intro i
    split
    · exact State.outEarly_keeps _ _ hk₀
    · exact hk₀
  unfold State.sendOut
  dsimp only
  split
  · exact State.endOutBand_keeps _ _ _ _ _ _ _ hk₀
  · refine Keeps.bind _ (h0 ⟨c, p, b⟩) fun h1 => ?_
    split
    · rename_i t h
      refine State.endOutBand_keeps _ _ _ _ _ _ _ ?_
      have h2 : Keeps r₀ t := Keeps.of_fst h (State.formOut_keeps _ _ _ (State.modChannel_keeps _ _ _ h1))
      exact Keeps.ite (State.modChannel_keeps _ _ _ h2) h2
    · rename_i t h
      exact Keeps.of_fst h (State.formOut_keeps _ _ _ (State.modChannel_keeps _ _ _ h1))

theorem State.egressStart_keeps (s : State) (c : Nat) {r₀ : State} (hk₀ : Keeps r₀ s) : Keeps r₀ (State.egressStart s c) := by
  unfold State.egressStart
  repeat' (first
    | assumption
    | with_reducible apply State.chooseOut_keeps
    | with_reducible apply State.modChannel_keeps
    | with_reducible apply State.sendOut_keeps
    | with_reducible apply Keeps.ite
    | (with_reducible refine Keeps.foldl ?_ ?_)
    | split
    | with_reducible exact Keeps.mk' (by assumption)
    | with_reducible apply Keeps.mk')

/-! ## Hbm -/

theorem State.modBank_keeps (s : State) (pc b : Nat) (f : HbmBank → HbmBank) {r₀ : State} (hk₀ : Keeps r₀ s) : Keeps r₀ (State.modBank s pc b f) := by
  unfold State.modBank
  repeat' (first
    | assumption
    | with_reducible apply Keeps.ite
    | (with_reducible refine Keeps.foldl ?_ ?_)
    | split
    | with_reducible exact Keeps.mk' (by assumption))

theorem State.noteLatency_keeps (s : State) (n ns : Nat) {r₀ : State} (hk₀ : Keeps r₀ s) : Keeps r₀ (State.noteLatency s n ns) := by
  unfold State.noteLatency
  repeat' (first
    | assumption
    | with_reducible apply State.count_keeps
    | with_reducible apply State.raise_keeps
    | with_reducible apply State.setRegN_keeps
    | with_reducible apply Keeps.ite)

theorem State.refreshBank_keeps (s : State) (pc b : Nat) {r₀ : State} (hk₀ : Keeps r₀ s) : Keeps r₀ (State.refreshBank s pc b) := by
  unfold State.refreshBank
  repeat' (first
    | assumption
    | with_reducible apply State.modBank_keeps)

theorem State.acceptReqs_keeps (s : State) (l : List HbmReqArgs) {r₀ : State} (hk₀ : Keeps r₀ s) : Keeps r₀ (State.acceptReqs s l) := by
  unfold State.acceptReqs
  repeat' (first
    | assumption
    | with_reducible apply Keeps.ite
    | (with_reducible refine Keeps.foldl ?_ ?_)
    | split
    | with_reducible exact Keeps.mk' (by assumption))

theorem State.issueReq_keeps (s : State) (pc : Nat) (r : HbmReq) {r₀ : State} (hk₀ : Keeps r₀ s) : Keeps r₀ (State.issueReq s pc r) := by
  unfold State.issueReq
  repeat' (first
    | assumption
    | with_reducible apply State.modBank_keeps
    | with_reducible apply State.noteLatency_keeps
    | with_reducible apply Keeps.ite
    | (with_reducible refine Keeps.foldl ?_ ?_)
    | split
    | with_reducible exact Keeps.mk' (by assumption))

theorem State.issueOn_keeps (s : State) (pc : Nat) {r₀ : State} (hk₀ : Keeps r₀ s) : Keeps r₀ (State.issueOn s pc) := by
  unfold State.issueOn
  repeat' (first
    | assumption
    | with_reducible apply State.issueReq_keeps
    | with_reducible apply State.refreshBank_keeps
    | with_reducible apply Keeps.ite
    | (with_reducible refine Keeps.foldl ?_ ?_)
    | split)

theorem State.refreshDue_keeps (s : State) (pc b : Nat) {r₀ : State} (hk₀ : Keeps r₀ s) : Keeps r₀ (State.refreshDue s pc b) := by
  unfold State.refreshDue
  repeat' (first
    | assumption
    | with_reducible apply State.modBank_keeps
    | with_reducible apply State.refreshBank_keeps
    | with_reducible apply Keeps.ite)

theorem State.closeIdle_keeps (s : State) (pc b : Nat) {r₀ : State} (hk₀ : Keeps r₀ s) : Keeps r₀ (State.closeIdle s pc b) := by
  unfold State.closeIdle
  repeat' (first
    | assumption
    | with_reducible apply State.modBank_keeps
    | with_reducible apply Keeps.ite)

theorem State.verifyRow_keeps (s : State) (c k r first value : Nat) {r₀ : State} (hk₀ : Keeps r₀ s) : Keeps r₀ (State.verifyRow s c k r first value) := by
  unfold State.verifyRow
  repeat' (first
    | assumption
    | with_reducible apply State.count_keeps
    | with_reducible apply State.modPic_keeps
    | with_reducible apply State.raise_keeps
    | with_reducible apply State.refCorrupt_keeps
    | with_reducible apply Keeps.ite
    | (with_reducible refine Keeps.foldl ?_ ?_)
    | split
    | with_reducible exact Keeps.mk' (by assumption)
    | with_reducible apply Keeps.mk')

theorem State.poisoned_keeps (s : State) (reader : HbmReader) {r₀ : State} (hk₀ : Keeps r₀ s) : Keeps r₀ (State.poisoned s reader) := by
  unfold State.poisoned
  repeat' (first
    | with_reducible assumption
    | with_reducible apply State.abandon_keeps
    | with_reducible apply State.modBand_keeps
    | with_reducible apply State.modChannel_keeps
    | with_reducible apply State.name_keeps
    | with_reducible apply State.refCorrupt_keeps
    | with_reducible apply State.settle_keeps
    | with_reducible apply Keeps.ite
    | (with_reducible refine Keeps.foldl ?_ ?_)
    | split)

theorem State.readSeverity_keeps (s : State) (addr sev : Nat) {r₀ : State} (hk₀ : Keeps r₀ s) : Keeps r₀ (State.readSeverity s addr sev) := by
  unfold State.readSeverity
  repeat' (first
    | assumption
    | with_reducible apply State.count_keeps
    | with_reducible apply State.raise_keeps
    | with_reducible apply Keeps.ite)

theorem State.endRead_keeps (s : State) (port addr ns : Nat) {r₀ : State} (hk₀ : Keeps r₀ s) : Keeps r₀ (State.endRead s port addr ns) := by
  unfold State.endRead
  repeat' (first
    | assumption
    | with_reducible apply State.noteLatency_keeps
    | with_reducible apply Keeps.ite
    | (with_reducible refine Keeps.foldl ?_ ?_)
    | split
    | with_reducible exact Keeps.mk' (by assumption))

/-! ## Queries -/

theorem State.gmBytes_keeps (s : State) {r₀ : State} (hk₀ : Keeps r₀ s) : Keeps r₀ (State.gmBytes s).2 := by
  unfold State.gmBytes
  repeat' (first
    | assumption
    | with_reducible apply State.takeFree_keeps
    | with_reducible apply Keeps.ite
    | (with_reducible refine Keeps.foldl ?_ ?_)
    | split)

theorem State.answerQuery_keeps (s : State) (selector object addr len : Nat) {r₀ : State} (hk₀ : Keeps r₀ s) : Keeps r₀ (State.answerQuery s selector object addr len).1 := by
  have hq : ∀ l t, s.queryReply selector object = .inr (l, t) → Keeps r₀ t := by
    intro l t h
    unfold State.queryReply at h
    split at h <;> (try dsimp only at h) <;> (repeat' split at h) <;> cases h <;> first | exact hk₀ | exact State.gmBytes_keeps _ hk₀
  unfold State.answerQuery
  split
  · exact hk₀
  · split
    · exact hk₀
    · rename_i l t h
      split
      · exact hk₀
      · exact Keeps.hostMem (hq _ _ h)

theorem State.endWithQueue_keeps (s : State) (d : Deferred) {r₀ : State} (hk₀ : Keeps r₀ s) : Keeps r₀ (State.endWithQueue s d) := by
  unfold State.endWithQueue
  repeat' (first
    | assumption
    | with_reducible apply State.endTwinStart_keeps
    | with_reducible apply State.leaveTwinTime_keeps
    | with_reducible apply State.stopTwin_keeps
    | with_reducible apply State.twinRejoin_keeps
    | with_reducible apply State.twinStart_keeps
    | with_reducible apply State.withdrawStart_keeps
    | with_reducible apply Keeps.ite
    | (with_reducible refine Keeps.foldl ?_ ?_)
    | split
    | with_reducible exact Keeps.mk' (by assumption))

theorem State.destroyQueue_keeps (s : State) (q : Nat) {r₀ : State} (hk₀ : Keeps r₀ s) : Keeps r₀ (State.destroyQueue s q) := by
  unfold State.destroyQueue
  repeat' (first
    | assumption
    | with_reducible apply State.endWithQueue_keeps
    | with_reducible apply State.modQueue_keeps
    | with_reducible apply Keeps.ite
    | (with_reducible refine Keeps.foldl ?_ ?_)
    | (intro t x ht; try dsimp only)
    | split
    | with_reducible exact Keeps.mk' (by assumption)
    | with_reducible apply Keeps.mk')

/-! ## Loads -/

theorem State.modStores_keeps (s : State) (mask : Nat) (f : Store → Store) {r₀ : State} (hk₀ : Keeps r₀ s) : Keeps r₀ (State.modStores s mask f) := by
  unfold State.modStores
  repeat' (first
    | assumption
    | with_reducible apply Keeps.ite
    | (with_reducible refine Keeps.foldl ?_ ?_)
    | split
    | with_reducible exact Keeps.mk' (by assumption))

theorem State.showLoad_keeps (s : State) (mask status : Nat) {r₀ : State} (hk₀ : Keeps r₀ s) : Keeps r₀ (State.showLoad s mask status) := by
  unfold State.showLoad
  repeat' (first
    | assumption
    | with_reducible apply State.modStores_keeps)

theorem State.prickingLoad_keeps (s : State) (h : CmdHdr) (idx mask addr len : Nat) {r₀ : State} (hk₀ : Keeps r₀ s) : Keeps r₀ (State.prickingLoad s h idx mask addr len).1 := by
  unfold State.prickingLoad
  repeat' (first
    | assumption
    | with_reducible apply State.addDeferred_keeps
    | with_reducible apply State.modStores_keeps
    | with_reducible apply State.showLoad_keeps
    | with_reducible apply Keeps.ite
    | (with_reducible refine Keeps.foldl ?_ ?_)
    | split
    | with_reducible exact Keeps.mk' (by assumption)
    | with_reducible apply Keeps.mk')

theorem State.firmwareLoad_keeps (s : State) (h : CmdHdr) (idx : Nat) (customer : Bool) (addr len : Nat) {r₀ : State} (hk₀ : Keeps r₀ s) : Keeps r₀ (State.firmwareLoad s h idx customer addr len).1 := by
  unfold State.firmwareLoad
  repeat' (first
    | assumption
    | with_reducible apply State.addDeferred_keeps
    | with_reducible apply Keeps.ite
    | (with_reducible refine Keeps.foldl ?_ ?_)
    | split
    | with_reducible exact Keeps.mk' (by assumption))

theorem State.placeFirmware_keeps (s : State) (customer : Bool) (body : List Nat) (version : Nat) {r₀ : State} (hk₀ : Keeps r₀ s) : Keeps r₀ (State.placeFirmware s customer body version) := by
  unfold State.placeFirmware
  repeat' (first
    | assumption
    | with_reducible apply Keeps.ite
    | (with_reducible refine Keeps.foldl ?_ ?_)
    | split
    | with_reducible apply Keeps.shw
    | with_reducible exact Keeps.mk' (by assumption)
    | with_reducible apply Keeps.mk')

theorem State.flashEntry_keeps (s : State) (e : FlashEntry) {r₀ : State} (hk₀ : Keeps r₀ s) : Keeps r₀ (State.flashEntry s e) := by
  unfold State.flashEntry
  repeat' (first
    | assumption
    | with_reducible apply State.modStores_keeps
    | with_reducible apply State.placeFirmware_keeps
    | with_reducible apply Keeps.ite)

theorem State.flashRun_keeps (s : State) (l : List FlashEntry) {r₀ : State} (hk₀ : Keeps r₀ s) : Keeps r₀ (State.flashRun s l).1 := by
  unfold State.flashRun
  suffices h : ∀ (a : State × Bool), Keeps r₀ a.1 → Keeps r₀ (l.foldl (fun a e => (a.1.flashEntry e, a.2 && (a.1.flashFine e || !decide (e.target = 0 ∨ e.target = 3)))) a).1 from
    h (s, true) hk₀
  induction l with
  | nil => exact fun a ha => ha
  | cons e l ih => exact fun a ha => ih _ (State.flashEntry_keeps _ _ ha)

theorem State.selfTestEnds_keeps (s : State) (r : SelfTestResult) {r₀ : State} (hk₀ : Keeps r₀ s) : Keeps r₀ (State.selfTestEnds s r) := by
  unfold State.selfTestEnds
  refine Keeps.ite hk₀ ?_
  lift_lets
  intro run
  have h0 : Keeps r₀ run.1 := by
    show Keeps r₀ (if r.failStep.isNone || decide (6 ≤ r.failStep.getD 0) then s.flashRun r.flash else (s, true)).1
    split
    · exact State.flashRun_keeps _ _ hk₀
    · exact hk₀
  clear_value run
  intro failStep
  clear_value failStep
  intro rec_
  clear_value rec_
  intro x0 x1 s1
  have h1 : Keeps r₀ s1 := Keeps.mk' h0
  clear_value s1
  split
  · exact State.becomeReady_keeps _ _ h1
  · intro x2 x3 s2
    have h2 : Keeps r₀ s2 := Keeps.mk' h1
    clear_value s2
    split
    · exact Keeps.ite (State.raise_keeps _ _ _ _ _ h2) (State.raise_keeps _ _ _ _ _ h2)
    · exact State.raise_keeps _ _ _ _ _ h2

/-! ## Pumps -/

theorem State.bytesTo_keeps (s : State) (sp a : Nat) (l : List Byte) {r₀ : State} (hk₀ : Keeps r₀ s) : Keeps r₀ (State.bytesTo s sp a l) := by
  unfold State.bytesTo
  repeat' (first
    | assumption
    | with_reducible apply Keeps.ite
    | (with_reducible refine Keeps.foldl ?_ ?_)
    | split
    | with_reducible apply Keeps.hostMem
    | with_reducible apply Keeps.hbmMem
    | with_reducible apply Keeps.sram
    | with_reducible apply Keeps.ctx)

theorem State.moveElements_keeps (s : State) (n : Nat) (d : PumpDesc) (staging : Bool) (count : Nat) {r₀ : State} (hk₀ : Keeps r₀ s) : Keeps r₀ (State.moveElements s n d staging count) := by
  unfold State.moveElements
  repeat' (first
    | assumption
    | with_reducible apply State.bytesTo_keeps
    | with_reducible apply State.count_keeps
    | with_reducible apply Keeps.ite
    | (with_reducible refine Keeps.foldl ?_ ?_)
    | (intro t x ht; try dsimp only))

theorem State.contextError_keeps (s : State) (t : Nat) {r₀ : State} (hk₀ : Keeps r₀ s) : Keeps r₀ (State.contextError s t) := by
  unfold State.contextError
  repeat' (first
    | assumption
    | with_reducible apply State.raise_keeps
    | with_reducible apply Keeps.ite
    | (with_reducible refine Keeps.foldl ?_ ?_)
    | split)

theorem State.dropPlaced_keeps (s : State) (p k owner : Nat) {r₀ : State} (hk₀ : Keeps r₀ s) : Keeps r₀ (State.dropPlaced s p k owner) := by
  unfold State.dropPlaced
  repeat' (first
    | assumption
    | with_reducible apply State.freeBuffer_keeps
    | with_reducible apply State.freeCells_keeps
    | with_reducible apply State.voidPackets_keeps
    | with_reducible apply Keeps.ite
    | (with_reducible refine Keeps.foldl ?_ ?_)
    | (intro t x ht; try dsimp only)
    | split)

theorem State.pulseDone_keeps (s : State) (line : Nat) (d : PumpDesc) {r₀ : State} (hk₀ : Keeps r₀ s) : Keeps r₀ (State.pulseDone s line d) := by
  unfold State.pulseDone
  repeat' (first
    | assumption
    | with_reducible apply State.clearHold_keeps
    | with_reducible apply State.preloadDone_keeps
    | with_reducible apply State.pumpMirrors_keeps
    | with_reducible apply State.writebackDone_keeps
    | with_reducible apply Keeps.ite
    | (with_reducible refine Keeps.foldl ?_ ?_)
    | (intro t x ht; try dsimp only))

theorem State.pulseError_keeps (s : State) (line : Nat) (d : PumpDesc) {r₀ : State} (hk₀ : Keeps r₀ s) : Keeps r₀ (State.pulseError s line d) := by
  unfold State.pulseError
  repeat' (first
    | assumption
    | with_reducible apply State.contextError_keeps
    | with_reducible apply State.dropPlaced_keeps
    | with_reducible apply State.mirrorFail_keeps
    | with_reducible apply State.returnEntry_keeps
    | with_reducible apply Keeps.ite
    | (with_reducible refine Keeps.foldl ?_ ?_)
    | split)

theorem State.endDescriptor_keeps (s : State) (n : Nat) (d : PumpDesc) (status : Nat) {r₀ : State} (hk₀ : Keeps r₀ s) : Keeps r₀ (State.endDescriptor s n d status) := by
  unfold State.endDescriptor
  repeat' (first
    | assumption
    | with_reducible apply State.count_keeps
    | with_reducible apply State.modPump_keeps
    | with_reducible apply State.popEntry_keeps
    | with_reducible apply State.pulseDone_keeps
    | with_reducible apply State.pulseError_keeps
    | with_reducible apply Keeps.ite
    | (with_reducible refine Keeps.foldl ?_ ?_)
    | split
    | with_reducible exact Keeps.mk' (by assumption)
    | with_reducible apply Keeps.mk')

theorem State.putDescriptor_keeps (s : State) (n : Nat) (put : Option Nat) {r₀ : State} (hk₀ : Keeps r₀ s) : Keeps r₀ (State.putDescriptor s n put) := by
  unfold State.putDescriptor
  repeat' (first
    | assumption
    | with_reducible apply State.putEntry_keeps
    | with_reducible apply Keeps.ite
    | (with_reducible refine Keeps.foldl ?_ ?_)
    | split)

theorem State.startDescriptor_keeps (s : State) (n : Nat) {r₀ : State} (hk₀ : Keeps r₀ s) : Keeps r₀ (State.startDescriptor s n) := by
  unfold State.startDescriptor
  repeat' (first
    | assumption
    | with_reducible apply State.endDescriptor_keeps
    | with_reducible apply State.modPump_keeps
    | with_reducible apply State.raise_keeps
    | with_reducible apply State.slot_keeps
    | with_reducible apply Keeps.ite
    | (with_reducible refine Keeps.foldl ?_ ?_)
    | split
    | with_reducible exact Keeps.mk' (by assumption)
    | with_reducible apply Keeps.mk')

theorem State.noteAttrs_keeps (s : State) (d : PumpDesc) {r₀ : State} (hk₀ : Keeps r₀ s) : Keeps r₀ (State.noteAttrs s d) := by
  unfold State.noteAttrs
  repeat' (first
    | assumption
    | with_reducible apply Keeps.ite
    | (with_reducible refine Keeps.foldl ?_ ?_)
    | split
    | with_reducible exact Keeps.mk' (by assumption))

theorem State.failDescriptor_keeps (s : State) (n : Nat) (d : PumpDesc) (written : Nat) (host : Bool) (addr : Nat) {r₀ : State} (hk₀ : Keeps r₀ s) : Keeps r₀ (State.failDescriptor s n d written host addr) := by
  unfold State.failDescriptor
  repeat' (first
    | assumption
    | with_reducible apply State.endDescriptor_keeps
    | with_reducible apply State.moveElements_keeps
    | with_reducible apply State.noteAttrs_keeps
    | with_reducible apply State.raise_keeps
    | with_reducible apply Keeps.ite)

/-! ## Step -/

theorem State.withFetchWord_keeps (s : State) (nbits w : Nat) {r₀ : State} (hk₀ : Keeps r₀ s) : Keeps r₀ (State.withFetchWord s nbits w) := by
  unfold State.withFetchWord
  repeat' (first
    | assumption)

/-! ## An outcome -/

/-- The next state of an outcome, where it is one, keeps what `Keeps` says. -/
def OutKeeps (r : State) (o : Host.Outcome State Fault Refusal) : Prop := ∀ t, o = .next t → Keeps r t

theorem OutKeeps.next {r t : State} (h : Keeps r t) : OutKeeps r (.next t) := by intro u hu; cases hu; exact h

theorem OutKeeps.fault {r : State} (f : Fault) : OutKeeps r (.fault f) := by intro u hu; cases hu

theorem OutKeeps.ite {r : State} {a b : Host.Outcome State Fault Refusal} {c : Prop} [Decidable c] (h1 : OutKeeps r a) (h2 : OutKeeps r b) : OutKeeps r (if c then a else b) := by
  split <;> assumption

theorem Keeps.ite1 {α : Type} {r : State} {c : Prop} [Decidable c] {a b : State × α} (h1 : Keeps r a.1) (h2 : Keeps r b.1) : Keeps r (if c then a else b).1 := by
  split <;> assumption

theorem hostCmd_keeps (c : Instr) (h : CmdHdr) (admin inHold waits : Bool) (body : Nat → State → State × Option Reply) (s : State) {r : State} (hk : Keeps r s)
    (hb : ∀ i t, Keeps r t → Keeps r (body i t).1) : Keeps r (hostCmd c h admin inHold waits body s) := by
  have hr : ∀ (c : Prop) [Decidable c] (t : State) (k d : Nat), Keeps r t → Keeps r (if c then t.raise Src.cmdCheck Kind.cmdCheckBad k d else t) :=
    fun c _ t k d ht => Keeps.ite (State.raise_keeps _ _ _ _ _ ht) ht
  unfold hostCmd
  refine Keeps.ite hk ?_
  dsimp only
  refine State.flushBadOpcodes_keeps _ _ _ ?_
  have h0 := hr (2 ≤ h.badCopies) _ (s.entrySlot h.sq) h.sq (hr (1 ≤ h.badCopies) _ (s.entrySlot h.sq) h.sq (State.dropFetched_keeps s h.sq hk))
  refine Keeps.bind _ h0 fun h0 => ?_
  split
  · rename_i o ho
    exact State.postCompletion_keeps _ _ _ _ _ (Keeps.ite1 h0 (Keeps.ite1 h0 (Keeps.ite1 h0 (hb _ _ h0))))
  · exact Keeps.ite1 h0 (Keeps.ite1 h0 (Keeps.ite1 h0 (hb _ _ h0)))

theorem plainCmd_keeps (c : Instr) (h : CmdHdr) (admin : Bool) (body : State → State × Reply) (s : State) {r : State} (hk : Keeps r s)
    (hb : ∀ t, Keeps r t → Keeps r (body t).1) : Keeps r (plainCmd c h admin body s) := hostCmd_keeps _ _ _ _ _ _ _ hk fun _ t ht => hb t ht

end Sys2Proof.Machine
end

