-- ==== Sys2Proof/Machine/Sram.lean ====
section
/-!
DEFINITION. The allocation of the on-chip SRAM (R28) and what of it the MK8064 leaves unpowered (R29). `State.sram` holds the bytes of all of it; the
spec gives the place of the cell well only, so what the other users keep stands in the fields of State that name them.
-/
namespace Sys2Proof.Machine

/-- A user of the on-chip SRAM: KiB of each of its parts, the parts of the MK8128, and those that the MK8064 powers. -/
structure SramUser where
  name    : String
  partKib : Nat
  parts   : Nat
  powered : Nat
deriving DecidableEq, Repr

/-- The users of R28 in the order of its table, with the parts of R29. -/
def sramUsers : List SramUser :=
  [⟨"Cell well", 24576, 1, 1⟩, ⟨"Hoop search-window caches", 6144, 4, 2⟩, ⟨"Stream context store", 64, 128, 128⟩,
   ⟨"Control-core shared window", 8192, 1, 1⟩, ⟨"Cistern queue state", 4096, 1, 1⟩, ⟨"Tambour local stores", 512, 8, 4⟩,
   ⟨"Egress reader line buffers", 4096, 1, 1⟩, ⟨"Twilan retransmission and mirror buffers", 4096, 1, 1⟩,
   ⟨"Ingress arrival bitmaps and band tracking", 2048, 1, 1⟩, ⟨"Spout banks", 128, 16, 8⟩, ⟨"Reference row check ledger", 2048, 1, 1⟩,
   ⟨"Packetizer and depacketizer staging", 2048, 1, 1⟩] ++
  [⟨"Decoder damage maps and parse buffers", 2048, 1, 1⟩, ⟨"Pricking stores", 192, 8, 4⟩, ⟨"Control-core local RAM", 256, 4, 4⟩,
   ⟨"Statistics staging", 1024, 1, 1⟩, ⟨"HBM controller read and write buffers", 1024, 1, 1⟩, ⟨"Tambour context banks", 48, 16, 8⟩,
   ⟨"Classifier, flow, shaper and gate tables", 512, 1, 1⟩, ⟨"Well side tables and page-well free cache", 256, 1, 1⟩]

/-- KiB of SRAM on the MK8128 (R28). -/
def sramKib : Nat := (sramUsers.map fun u => u.partKib * u.parts).sum

/-- KiB of SRAM that have power on this part (R29): all of it where T4–T7 are enabled. -/
def State.sramPoweredKib (s : State) : Nat :=
  if s.tambEnabled 4 then sramKib else (sramUsers.map fun u => u.partKib * u.powered).sum

end Sys2Proof.Machine
end

