-- ==== Sys2Proof/Tests/Slice0.lean ====
section
/-!
SUPPORT. Tests: an ill-formed command for each check of `WellFormed`, and for each clause of a statement that has hypotheses a concrete
state and operands that meet all of them together, at a boundary where the clause has one (`test_<statement>`).
-/
namespace Sys2Proof.Tests
open Sys2Proof Sys2Proof.Machine

set_option maxRecDepth 100000
set_option Elab.async false

/-- The check `channel < 128 ∧ slot < 4`: refused at the bound, taken below it. -/
theorem test_ill_formed_channel_and_slot :
    (∀ x2 x3, (Instr.mailboxPlan 128 0 x2 x3).wellFormed = false) ∧
    (∀ x2 x3, (Instr.mailboxPlan 0 4 x2 x3).wellFormed = false) ∧
    (∀ x2 x3, (Instr.mailboxPlan 127 3 x2 x3).wellFormed = true) := by
  refine ⟨?_, ?_, ?_⟩ <;> intros <;> rfl

/-- The check `channel < 128`: refused at the bound, taken below it. -/
theorem test_ill_formed_channel_below_128 :
    ((Instr.rcPlan 128).wellFormed = false) ∧
    ((Instr.rcPlan 127).wellFormed = true) ∧
    ((Instr.chRunning 128).wellFormed = false) ∧
    ((Instr.chRunning 127).wellFormed = true) ∧
    ((Instr.stopTimeReached 128).wellFormed = false) ∧
    ((Instr.stopTimeReached 127).wellFormed = true) ∧
    (∀ x1 x2, (Instr.bandWindowOpen 128 x1 x2).wellFormed = false) ∧
    (∀ x1 x2, (Instr.bandWindowOpen 127 x1 x2).wellFormed = true) ∧
    (∀ x1 x2, (Instr.bandInputDeadline 128 x1 x2).wellFormed = false) ∧
    (∀ x1 x2, (Instr.bandInputDeadline 127 x1 x2).wellFormed = true) ∧
    (∀ x1 x2, (Instr.inputComplexity 128 x1 x2).wellFormed = false) ∧
    (∀ x1 x2, (Instr.inputComplexity 127 x1 x2).wellFormed = true) ∧
    (∀ x1 x2, (Instr.bandAbandon 128 x1 x2).wellFormed = false) ∧
    (∀ x1 x2, (Instr.bandAbandon 127 x1 x2).wellFormed = true) ∧
    (∀ x1 x2, (Instr.bandRelease 128 x1 x2).wellFormed = false) ∧
    (∀ x1 x2, (Instr.bandRelease 127 x1 x2).wellFormed = true) ∧
    (∀ x1 x2, (Instr.statsBandRecord 128 x1 x2).wellFormed = false) ∧
    (∀ x1 x2, (Instr.statsBandRecord 127 x1 x2).wellFormed = true) ∧
    (∀ x1, (Instr.pictureTime 128 x1).wellFormed = false) ∧
    (∀ x1, (Instr.pictureTime 127 x1).wellFormed = true) ∧
    (∀ x1, (Instr.sequenceLost 128 x1).wellFormed = false) ∧
    (∀ x1, (Instr.sequenceLost 127 x1).wellFormed = true) ∧
    (∀ x1, (Instr.injectEntry 128 x1).wellFormed = false) ∧
    (∀ x1, (Instr.injectEntry 127 x1).wellFormed = true) ∧
    ((Instr.outputSlot 128).wellFormed = false) ∧
    ((Instr.outputSlot 127).wellFormed = true) ∧
    ((Instr.egressBandStart 128).wellFormed = false) ∧
    ((Instr.egressBandStart 127).wellFormed = true) ∧
    (∀ x1, (Instr.ledgerPoint 128 x1).wellFormed = false) ∧
    (∀ x1, (Instr.ledgerPoint 127 x1).wellFormed = true) ∧
    (∀ x1, (Instr.tokenDue 128 x1).wellFormed = false) ∧
    (∀ x1, (Instr.tokenDue 127 x1).wellFormed = true) ∧
    (∀ x1 x2, (Instr.reconcileClose 128 x1 x2).wellFormed = false) ∧
    (∀ x1 x2, (Instr.reconcileClose 127 x1 x2).wellFormed = true) ∧
    ((Instr.chFaulted 128).wellFormed = false) ∧
    ((Instr.chFaulted 127).wellFormed = true) := by
  refine ⟨?_, ?_, ?_, ?_, ?_, ?_, ?_, ?_, ?_, ?_, ?_, ?_, ?_, ?_, ?_, ?_, ?_, ?_, ?_, ?_, ?_, ?_, ?_, ?_, ?_, ?_, ?_, ?_, ?_, ?_, ?_, ?_, ?_, ?_, ?_, ?_⟩ <;> intros <;> rfl

/-- The check `cq < 262144`: refused at the bound, taken below it. -/
theorem test_ill_formed_cq_below_262144 :
    ((Instr.heldCompletionWrite 262144).wellFormed = false) ∧
    ((Instr.heldCompletionWrite 262143).wellFormed = true) := by
  refine ⟨?_, ?_⟩ <;> rfl

/-- The check `q < 262144`: refused at the bound, taken below it. -/
theorem test_ill_formed_q_below_262144 :
    ((Instr.msixMessage 262144).wellFormed = false) ∧
    ((Instr.msixMessage 262143).wellFormed = true) := by
  refine ⟨?_, ?_⟩ <;> rfl

/-- The check `v < 64`: refused at the bound, taken below it. -/
theorem test_ill_formed_v_below_64 :
    ((Instr.msixUnmask 64).wellFormed = false) ∧
    ((Instr.msixUnmask 63).wellFormed = true) := by
  refine ⟨?_, ?_⟩ <;> rfl

/-- The check `e.tambour < 8`: refused at the bound, taken below it. -/
theorem test_ill_formed_preload_of_tambour :
    ((Instr.contextPreloadDone ⟨8, false⟩).wellFormed = false) ∧
    ((Instr.contextPreloadDone ⟨7, true⟩).wellFormed = true) := by
  refine ⟨?_, ?_⟩ <;> rfl

/-- The check `tambour < 8`: refused at the bound, taken below it. -/
theorem test_ill_formed_tambour_below_8 :
    ((Instr.bankWritebackDone 8).wellFormed = false) ∧
    ((Instr.bankWritebackDone 7).wellFormed = true) ∧
    ((Instr.switchComplete 8).wellFormed = false) ∧
    ((Instr.switchComplete 7).wellFormed = true) ∧
    (∀ x1, (Instr.microwordExecute 8 x1).wellFormed = false) ∧
    (∀ x1, (Instr.microwordExecute 7 x1).wellFormed = true) ∧
    (∀ x1, (Instr.blockSlot 8 x1).wellFormed = false) ∧
    (∀ x1, (Instr.blockSlot 7 x1).wellFormed = true) ∧
    ((Instr.hookOverrun 8).wellFormed = false) ∧
    ((Instr.hookOverrun 7).wellFormed = true) ∧
    ((Instr.repairPassEnd 8).wellFormed = false) ∧
    ((Instr.repairPassEnd 7).wellFormed = true) ∧
    (∀ x1 x2, (Instr.packetizerDrain 8 x1 x2).wellFormed = false) ∧
    (∀ x1 x2, (Instr.packetizerDrain 7 x1 x2).wellFormed = true) := by
  refine ⟨?_, ?_, ?_, ?_, ?_, ?_, ?_, ?_, ?_, ?_, ?_, ?_, ?_, ?_⟩ <;> intros <;> rfl

/-- The check `hoop < 4`: refused at the bound, taken below it. -/
theorem test_ill_formed_hoop_below_4 :
    ((Instr.wakeStart 4).wellFormed = false) ∧
    ((Instr.wakeStart 3).wellFormed = true) ∧
    ((Instr.hoopClockGood 4).wellFormed = false) ∧
    ((Instr.hoopClockGood 3).wellFormed = true) := by
  refine ⟨?_, ?_, ?_, ?_⟩ <;> rfl

/-- The check `reqs.all (fun o => decide (o < 64))`: refused at the bound, taken below it. -/
theorem test_ill_formed_quota_owner :
    (∀ x0 x2, (Instr.wellAllocate x0 [63, 64] x2).wellFormed = false) ∧
    (∀ x0 x2, (Instr.wellAllocate x0 [0, 63] x2).wellFormed = true) := by
  refine ⟨?_, ?_⟩ <;> intros <;> rfl

/-- The check `owner < 64`: refused at the bound, taken below it. -/
theorem test_ill_formed_owner_below_64 :
    (∀ x0 x1, (Instr.wellFree x0 x1 64).wellFormed = false) ∧
    (∀ x0 x1, (Instr.wellFree x0 x1 63).wellFormed = true) ∧
    (∀ x0 x2, (Instr.welQuotaWrite x0 64 x2).wellFormed = false) ∧
    (∀ x0 x2, (Instr.welQuotaWrite x0 63 x2).wellFormed = true) := by
  refine ⟨?_, ?_, ?_, ?_⟩ <;> intros <;> rfl

/-- The check `n < 16`: refused at the bound, taken below it. -/
theorem test_ill_formed_n_below_16 :
    (∀ x1, (Instr.pumpDescriptorStart 16 x1).wellFormed = false) ∧
    (∀ x1, (Instr.pumpDescriptorStart 15 x1).wellFormed = true) ∧
    ((Instr.pumpDone 16).wellFormed = false) ∧
    ((Instr.pumpDone 15).wellFormed = true) ∧
    (∀ x1 x2 x3, (Instr.pumpError 16 x1 x2 x3).wellFormed = false) ∧
    (∀ x1 x2 x3, (Instr.pumpError 15 x1 x2 x3).wellFormed = true) ∧
    (∀ x1 x2, (Instr.thermalSample 16 x1 x2).wellFormed = false) ∧
    (∀ x1 x2, (Instr.thermalSample 15 x1 x2).wellFormed = true) ∧
    (∀ x1, (Instr.ckCfgWrite 16 x1).wellFormed = false) ∧
    (∀ x1, (Instr.ckCfgWrite 15 x1).wellFormed = true) ∧
    ((Instr.ckStart 16).wellFormed = false) ∧
    ((Instr.ckStart 15).wellFormed = true) ∧
    (∀ x1, (Instr.ckData 16 x1).wellFormed = false) ∧
    (∀ x1, (Instr.ckData 15 x1).wellFormed = true) ∧
    (∀ x0 x2, (Instr.ckValueRestore x0 16 x2).wellFormed = false) ∧
    (∀ x0 x2, (Instr.ckValueRestore x0 15 x2).wellFormed = true) ∧
    (∀ x1 x2, (Instr.ckAlive 16 x1 x2).wellFormed = false) ∧
    (∀ x1 x2, (Instr.ckAlive 15 x1 x2).wellFormed = true) ∧
    (∀ x1, (Instr.ckAliveClr 16 x1).wellFormed = false) ∧
    (∀ x1, (Instr.ckAliveClr 15 x1).wellFormed = true) := by
  refine ⟨?_, ?_, ?_, ?_, ?_, ?_, ?_, ?_, ?_, ?_, ?_, ?_, ?_, ?_, ?_, ?_, ?_, ?_, ?_, ?_⟩ <;> intros <;> rfl

/-- The check `port < 8`: refused at the bound, taken below it. -/
theorem test_ill_formed_port_below_8 :
    (∀ x1, (Instr.frameReceive 8 x1).wellFormed = false) ∧
    (∀ x1, (Instr.frameReceive 7 x1).wellFormed = true) ∧
    ((Instr.gatePick 8).wellFormed = false) ∧
    ((Instr.gatePick 7).wellFormed = true) ∧
    ((Instr.gateEntryEnd 8).wellFormed = false) ∧
    ((Instr.gateEntryEnd 7).wellFormed = true) ∧
    ((Instr.gateSwitch 8).wellFormed = false) ∧
    ((Instr.gateSwitch 7).wellFormed = true) ∧
    (∀ x1, (Instr.netPortEnable 8 x1).wellFormed = false) ∧
    (∀ x1, (Instr.netPortEnable 7 x1).wellFormed = true) ∧
    ((Instr.linkUp 8).wellFormed = false) ∧
    ((Instr.linkUp 7).wellFormed = true) ∧
    ((Instr.linkDown 8).wellFormed = false) ∧
    ((Instr.linkDown 7).wellFormed = true) ∧
    (∀ x1, (Instr.ptpMessageReceive 8 x1).wellFormed = false) ∧
    (∀ x1, (Instr.ptpMessageReceive 7 x1).wellFormed = true) ∧
    (∀ x1, (Instr.ptpMessageSend 8 x1).wellFormed = false) ∧
    (∀ x1, (Instr.ptpMessageSend 7 x1).wellFormed = true) ∧
    (∀ x1 x2 x3 x4, (Instr.hbmReadReturn 8 x1 x2 x3 x4).wellFormed = false) ∧
    (∀ x1 x2 x3 x4, (Instr.hbmReadReturn 7 x1 x2 x3 x4).wellFormed = true) := by
  refine ⟨?_, ?_, ?_, ?_, ?_, ?_, ?_, ?_, ?_, ?_, ?_, ?_, ?_, ?_, ?_, ?_, ?_, ?_, ?_, ?_⟩ <;> intros <;> rfl

/-- The check `flow < 2048`: refused at the bound, taken below it. -/
theorem test_ill_formed_flow_below_2048 :
    (∀ x1, (Instr.ingressWrite 2048 x1).wellFormed = false) ∧
    (∀ x1, (Instr.ingressWrite 2047 x1).wellFormed = true) ∧
    (∀ x1, (Instr.depacketize 2048 x1).wellFormed = false) ∧
    (∀ x1, (Instr.depacketize 2047 x1).wellFormed = true) ∧
    ((Instr.shaperRefill 2048).wellFormed = false) ∧
    ((Instr.shaperRefill 2047).wellFormed = true) ∧
    ((Instr.membershipReport 2048).wellFormed = false) ∧
    ((Instr.membershipReport 2047).wellFormed = true) := by
  refine ⟨?_, ?_, ?_, ?_, ?_, ?_, ?_, ?_⟩ <;> intros <;> rfl

/-- The check `n < 8`: refused at the bound, taken below it. -/
theorem test_ill_formed_n_below_8 :
    ((Instr.timingOutputEdge 8).wellFormed = false) ∧
    ((Instr.timingOutputEdge 7).wellFormed = true) ∧
    (∀ x1, (Instr.hbmPortCfgWrite 8 x1).wellFormed = false) ∧
    (∀ x1, (Instr.hbmPortCfgWrite 7 x1).wellFormed = true) := by
  refine ⟨?_, ?_, ?_, ?_⟩ <;> intros <;> rfl

/-- The check `(kind = 1 ∧ source < 2048) ∨ (kind = 2 ∧ source < 8)`: refused at the bound, taken below it. -/
theorem test_ill_formed_statistics_source :
    ((Instr.statsIntervalEnd 1 2048).wellFormed = false) ∧
    ((Instr.statsIntervalEnd 2 8).wellFormed = false) ∧
    ((Instr.statsIntervalEnd 0 0).wellFormed = false) ∧
    ((Instr.statsIntervalEnd 1 2047).wellFormed = true) ∧
    ((Instr.statsIntervalEnd 2 7).wellFormed = true) := by
  refine ⟨?_, ?_, ?_, ?_, ?_⟩ <;> rfl

/-- The check `fseq < 65536`: refused at the bound, taken below it. -/
theorem test_ill_formed_fseq_below_65536 :
    ((Instr.twilanRetransmit 65536).wellFormed = false) ∧
    ((Instr.twilanRetransmit 65535).wellFormed = true) := by
  refine ⟨?_, ?_⟩ <;> rfl

/-- The check `assertable src`: refused at the bound, taken below it. -/
theorem test_ill_formed_assertable_source :
    ((Instr.interruptAssertion 0).wellFormed = false) ∧
    ((Instr.interruptAssertion 512).wellFormed = false) ∧
    ((Instr.interruptAssertion 54).wellFormed = false) ∧
    ((Instr.interruptAssertion 255).wellFormed = false) ∧
    ((Instr.interruptAssertion 53).wellFormed = true) ∧
    ((Instr.filteredLineFall 0).wellFormed = false) ∧
    ((Instr.filteredLineFall 512).wellFormed = false) ∧
    ((Instr.filteredLineFall 54).wellFormed = false) ∧
    ((Instr.filteredLineFall 255).wellFormed = false) ∧
    ((Instr.filteredLineFall 53).wellFormed = true) := by
  refine ⟨?_, ?_, ?_, ?_, ?_, ?_, ?_, ?_, ?_, ?_⟩ <;> rfl

/-- The check `core < 4`: refused at the bound, taken below it. -/
theorem test_ill_formed_core_below_4 :
    ((Instr.irqClaim 4).wellFormed = false) ∧
    ((Instr.irqClaim 3).wellFormed = true) ∧
    (∀ x1, (Instr.irqComplete 4 x1).wellFormed = false) ∧
    (∀ x1, (Instr.irqComplete 3 x1).wellFormed = true) ∧
    (∀ x1, (Instr.irqEvqHead 4 x1).wellFormed = false) ∧
    (∀ x1, (Instr.irqEvqHead 3 x1).wellFormed = true) ∧
    ((Instr.wdogExpire 4).wellFormed = false) ∧
    ((Instr.wdogExpire 3).wellFormed = true) ∧
    ((Instr.watchdogHalf 4).wellFormed = false) ∧
    ((Instr.watchdogHalf 3).wellFormed = true) ∧
    (∀ x1, (Instr.rstWdogWrite 4 x1).wellFormed = false) ∧
    (∀ x1, (Instr.rstWdogWrite 3 x1).wellFormed = true) := by
  refine ⟨?_, ?_, ?_, ?_, ?_, ?_, ?_, ?_, ?_, ?_, ?_, ?_⟩ <;> intros <;> rfl

/-- The check `1 ≤ src ∧ src ≤ 511`: refused at the bound, taken below it. -/
theorem test_ill_formed_source :
    ((Instr.irqPendingClear 0).wellFormed = false) ∧
    ((Instr.irqPendingClear 512).wellFormed = false) ∧
    ((Instr.irqPendingClear 511).wellFormed = true) := by
  refine ⟨?_, ?_, ?_⟩ <;> rfl

/-- The check `clk < 12`: refused at the bound, taken below it. -/
theorem test_ill_formed_clk_below_12 :
    ((Instr.clockGood 12).wellFormed = false) ∧
    ((Instr.clockGood 11).wellFormed = true) ∧
    ((Instr.clkLost 12).wellFormed = false) ∧
    ((Instr.clkLost 11).wellFormed = true) := by
  refine ⟨?_, ?_, ?_, ?_⟩ <;> rfl

/-- The check `pc < 32`: refused at the bound, taken below it. -/
theorem test_ill_formed_pc_below_32 :
    (∀ x1, (Instr.hbmCommandIssue 32 x1).wellFormed = false) ∧
    (∀ x1, (Instr.hbmCommandIssue 31 x1).wellFormed = true) := by
  refine ⟨?_, ?_⟩ <;> intros <;> rfl

/-- The check `pc < 32 ∧ bank < 16`: refused at the bound, taken below it. -/
theorem test_ill_formed_hbm_bank :
    ((Instr.hbmRefresh 32 0).wellFormed = false) ∧
    ((Instr.hbmRefresh 0 16).wellFormed = false) ∧
    ((Instr.hbmRefresh 31 15).wellFormed = true) ∧
    ((Instr.openRowIdleClose 32 0).wellFormed = false) ∧
    ((Instr.openRowIdleClose 0 16).wellFormed = false) ∧
    ((Instr.openRowIdleClose 31 15).wellFormed = true) := by
  refine ⟨?_, ?_, ?_, ?_, ?_, ?_⟩ <;> rfl

/-- The check `channel < 16`: refused at the bound, taken below it. -/
theorem test_ill_formed_channel_below_16 :
    ((Instr.wckRetrack 16).wellFormed = false) ∧
    ((Instr.wckRetrack 15).wellFormed = true) := by
  refine ⟨?_, ?_⟩ <;> rfl

/-- KiB of SRAM on the MK8128 and with power on the MK8064 (R28, R29). -/
theorem test_sram_totals : sramKib = 98304 ∧ (sramUsers.map fun u => u.partKib * u.powered).sum = 81792 := by decide

/-- The largest half of a search-window cache of the example in R69. -/
theorem test_hoop_window_bytes :
    ({ half := 0, band := ⟨0, 0, 0⟩, ready := true, items := [0, 1].flatMap fun r =>
      [{ ref := r, decimated := false, width := 648, top := 0, height := 328 }, { ref := r, decimated := true, width := 160, top := 0, height := 144 }] } : HoopWindow).bytes
      = 942336 := by decide

/-- The digests of the empty string by RFC 1321, and of "abc" by FIPS 180-4: its first bytes. -/
theorem test_md5_of_nothing :
    md5 [] = [0xd4, 0x1d, 0x8c, 0xd9, 0x8f, 0x00, 0xb2, 0x04, 0xe9, 0x80, 0x09, 0x98, 0xec, 0xf8, 0x42, 0x7e] := rfl
theorem test_sha256_abc : (sha256Form.digest [97, 98, 99]).take 4 = [0xba, 0x78, 0x16, 0xbf] := rfl

/-- A command from queue 0. -/
def hdr : CmdHdr := ⟨0, 1, 0⟩

/-- A device whose rings run: queue 0 is a submission queue of 16 entries, queue 1 its completion queue; one entry is fetched. -/
def up : State :=
  { State.reset with
    rst := { State.reset.rst with state := .running, asserted := 0 },
    flt := { State.reset.flt with safe := false }, host := { State.reset.host with ready := true, enabled := true, busMaster := true, fetched := [⟨0, 3, 0, 0⟩] },
    queues := [(0, { valid := true, base := 0x1000, ty := .hsq, log2 := 4, cqid := 1, head := 4, tail := 4 }),
               (1, { valid := true, base := 0x2000, ty := .hcq, log2 := 4 }), (2, { valid := true, base := 0x3000, ty := .heq, log2 := 4 })],
    prk := [(0, { vState := 2 })], pwr := { State.reset.pwr with awake := fclkBlocks.map .fclkBlock }, fuse := { State.reset.fuse with shadow := [(0, 0xFF000000)] } }

/-- `s` with the entry of command `c` with header `h` as the next one fetched of its queue. -/
def fetch (s : State) (c : Instr) (h : CmdHdr) : State := { s with host := { s.host with fetched := [⟨h.sq, 3, entryBits c h.cid.toNat, 0⟩] } }

/-- `s` with channel `c` as `x` has it. -/
def chan (s : State) (c : Nat) (x : Channel) : State := s.modChannel c fun _ => x

/-- `s` at `n` nanoseconds of PTP time. -/
def atNs (s : State) (n : Nat) : State := { s with time := { s.time with sec := n / 1000000000, ns := n % 1000000000, tick := n / 40 } }

/-- `up` in phase TWINNED with its link up. -/
def twinned : State := { up with twin := { up.twin with phase := .twinned, link := { up.twin.link with up := true } } }

/-- An ingress record: video in packets of 960 pixels, joining group 239.0.0.1. -/
def iRec : Nat := 0x20 + 960 * 2 ^ 160 + 0xEF000001 * 2 ^ 512

/-- An egress record: uncompressed video in packets of 1,800 pixel groups, TTL 64, payload type 96. -/
def eRec : Nat := 64 * 2 ^ 32 + 1800 * 2 ^ 80 + 96 * 2 ^ 128

/-- Clock settings with domain `d`. -/
def clockArgs (d : BitVec 8) : ClockArgs := ⟨d, 0, false, 0x20, 128, 128, 6, 7, 248, 0x21, 0x4E5D, 5⟩

/-- Port settings with transport `t`: announce every 2 s, sync every 1/8 s. -/
def portArgs (t : BitVec 2) : PtpPortArgs := ⟨7, true, true, t, false, 0, false, 0, 0, 1, 0xFD, 2, 10, 0⟩

/-- `up` with 16 deferred commands outstanding. -/
def full16 : State := { up with host := { up.host with deferred := (List.range 16).map fun i => ⟨0, i, 4, .twinStart, 0⟩ } }

/-- A container's bytes: its kind, base, count and body. -/
def container (kind base count : Nat) (body : List Nat) : List Nat :=
  recBytes (packFields [(32, 0x494B5250), (8, 1), (8, kind), (48, 0), (16, base), (16, count), (64, 0), (32, body.length)]) 0xC0 ++ body

/-- `up` with bytes in host memory from 0x8000 on. -/
def withBytes (l : List Nat) : State := { up with hostMem := Memory.writeBytes zeroDefault up.hostMem 0x8000 (l.map (BitVec.ofNat 8)) }

/-- A container of kind 1: an open image of one word, which stops. -/
def openImage : List Nat := container 1 openBase 1 (recBytes (2 * 2 ^ 184) 24)

/-- `up` in a phase of the twin, with its link up. -/
def inPhase (p : TwinPhase) : State := { up with twin := { up.twin with phase := p, link := { up.twin.link with up := true } } }

/-- The same, as a follower. -/
def followerIn (p : TwinPhase) : State := { inPhase p with twin := { (inPhase p).twin with follower := true } }

/-- `s` with one message of the twin that waits. -/
def withMsg (s : State) (d : TwDelivered) : State := s.modLink fun l => { l with delivered := [d] }

/-- `s` with one deferred command. -/
def deferOne (s : State) (d : Deferred) : State := { s with host := { s.host with deferred := [d] } }

/-- A twin channel 3 whose start has sent its ARM. -/
def armed3 : State := (deferOne (chan twinned 3 { state := .configured }) ⟨0, 1, 4, .channelStart 3 false, 0⟩).setOwnArm 3 (some (7, 8))

/-- A frame header of a class and version 1, with FSEQ 0 and no payload, and its HCRC for the PCRC `p`. -/
def hdrOf (c p : Nat) : Nat := 0x10 + c + 2 ^ 120 * crcOf ⟨8, 0x2F, 0xFF, 0xFF, false, false⟩ (recBytes (0x10 + c) 15 ++ recBytes p 4)

/-- A part without tambours, in a phase of the twin. -/
def bare (p : TwinPhase) (follower : Bool) : State :=
  { inPhase p with fuse := State.reset.fuse, twin := { (inPhase p).twin with follower := follower } }

/-- A device that acquires a PTP reference on port 0, firmware steering. -/
def slaved : State :=
  { up.setRegN Reg.timeCfg 0 with time := { up.time with servo := .acquiring, slavePort := some 0, ref := { up.time.ref with source := 1 } } }

/-- A live encode channel in step on a TWINNED leader, at one second. -/
def leading : State := atNs (chan twinned 3 { state := .running }) 1000000000

/-- The same on the follower. -/
def following : State := { leading with twin := { leading.twin with follower := true } }

/-- A band of `leading` that is being reconciled and asks for positions `l`. -/
def asking (l : List Nat) : State :=
  (leading.modIflow 0 fun f => { f with bound := true, channel := some 3, pktPixels := 960 }).modBand ⟨3, 0, 0⟩ fun u => { u with reconOpen := true, asked := l }

/-- A band of `leading` that fetches its slice from the peer. -/
def getting (g : MirrorGet) : State := leading.modBand ⟨3, 0, 0⟩ fun u => { u with mirror := some g }

/-- A UDP frame of 60 bytes over IPv4 for the flow of `bound5`: destination 9.0.0.0, port 8. -/
def frame : RxFrame :=
  { bytes := [0, 0, 0, 0, 0, 0, 0, 0, 0, 0, 0, 0, 8, 0, 0x45, 0, 0, 0x1C, 0, 0, 0, 0, 0x40, 0x11, 0x71, 0xD2, 0, 0, 0, 0, 9, 0, 0, 0, 0, 0, 0, 8, 0, 8] ++
      List.replicate 20 0, fcsOk := true, rxTs := 0 }

/-- A frame of an EtherType, 60 bytes long. -/
def etherFrame (ty : Nat) : RxFrame := { bytes := List.replicate 12 0 ++ [BitVec.ofNat 8 (ty / 256), BitVec.ofNat 8 ty] ++ List.replicate 46 0, fcsOk := true, rxTs := 0 }

/-- Port 7 has a link, and ingress flow 5 of channel 3 is bound to it. -/
def bound5 : State :=
  ((up.modPort 7 fun p => { p with linkUp := true }).modIflow 5 fun f =>
    { f with bound := true, port := 7, channel := some 3, pktPixels := 960, dstAddr := 9, dstPort := 8, srcAny := true, vlanAny := true }).modQueue (ifqId 5)
    fun _ => flowQueue false 5

/-- `bound5` with a frame of 16 zero bytes at the head of the flow's IFQ. -/
def arrived5 : State :=
  ((bound5.landFrame 7 7 (List.replicate 16 0)).1).putEntry (ifqId 5) (ifqEntry (((bound5.landFrame 7 7 (List.replicate 16 0)).2.getD []).headD 0) 1 16 5 7 0 0)

/-- An RTP packet at 1 s of 90 kHz whose one segment is the first pixel group of row 0. -/
def rtp5 : List Byte := [0x80, 0x60, 0, 0, 0, 1, 0x5F, 0x90, 0, 0, 0, 0, 0, 0, 0, 5, 0, 0, 0, 0, 1, 2, 3, 4, 5]

/-- `bound5` at one second, channel 3 running since then, with that packet received by flow `n` at tick `ts`. -/
def landing (s : State) (n ts : Nat) : State :=
  let s := (s.modIflow n fun _ => { bound5.iflow 5 with port := 7 }).modQueue (ifqId n) fun _ => flowQueue false n
  let r := s.landFrame 7 7 rtp5
  atNs (chan (r.1.putEntry (ifqId n) (ifqEntry ((r.2.getD []).headD 0) 1 25 n 7 0 ts)) 3 { state := .running, startNs := 1000000000, index0 := 60 }) 1000000000

/-- The packet in that frame. -/
def mergePkt0 : MergePkt := arrived5.mergePktOf (arrived5.headEntry (ifqId 5)) (arrived5.loadFrame [(arrived5.headEntry (ifqId 5)) % 2 ^ 14] 16)

/-- The same frame on a flow of a decode channel that has received the packets `got`. -/
def merging (got : SMap (Option (Nat × Nat))) : State :=
  chan (arrived5.modIflow 5 fun f => { f with kind := 1 }) 3 { state := .running, decode := true, merge := { ssrc := some 0, got := got } }

/-- A decode channel fed by buffer ring 65540, whose first entry is `l`. -/
def injecting (l : List Byte) : State :=
  (chan { up with hostMem := Memory.writeBytes zeroDefault up.hostMem 0x8000 l } 3 { state := .running, decode := true, cfg := { injectQid := 65540 }, merge := { highest := 4, openUnit := some 0 } }).modQueue 65540
    (fun _ => { valid := true, ty := .hbr, log2 := 4, base := 0x8000, tail := if l = [] then 0 else 1 })

/-- A decode channel at one second that sends slot `q`. -/
def sending (q : OutSlot) : State := atNs (chan up 3 { state := .running, decode := true, out := { active := [q] } }) 1000000000

/-- When the first band of a slot at 0 starts. -/
def slotDue : Nat := ((sending { slotT := 0 }).channel 3).bandStart { slotT := 0 } 0 |>.getD 0

/-- Port 7 with PTP on it and a queue for its messages. -/
def ptpOn : State :=
  { bound5.modQueue (efqId 2039) (fun _ => flowQueue true 2039) with time := { bound5.time with ports := [(7, { enable := true })] } }

/-- The same without a free cell. -/
def noCells : State := { ptpOn with cellWell := { ptpOn.cellWell with rebuild := true } }

/-- The frame that a message of port 7 makes. -/
def ptpSeq (s : State) : State × List Nat :=
  { s with time := { s.time with ptpSent := (7, ptpKindCode .announce) :: s.time.ptpSent } }.ptpFrame 7 .announce 0

/-- A frame of 64 bytes waits in the queue of port 7's messages. -/
def queued2039 : State :=
  (((bound5.landFrame 7 19 (List.replicate 64 0)).1.setRegN (Reg.netPortCfg + 0x7000) 1).modQueue (efqId 2039) fun _ => flowQueue true 2039).putEntry (efqId 2039)
    (efqEntry (((bound5.landFrame 7 19 (List.replicate 64 0)).2.getD []).headD 0) 1 64 false 19 0 0 false)

/-- A reaction that has taken in channel 127, with one to come. -/
def react : Reaction := { first := {}, cls := 2, channels := [(127, 0x20)] }

/-- A live encode channel 3 at one second, with band `u` as the first of its picture 0. -/
def oneBand (u : Band) : State := atNs (chan up 3 { state := .running, pics := [(0, { named := true, bands := [(0, u)] })] }) 1000000000

/-- Tambour 0 with a named band whose bank is loaded, and its clock gates. -/
def switching (clk : BitVec 8) : State :=
  { (oneBand { state := .named }).modTamb 0 fun x => { x with bankA := { phase := .loaded, band := some ⟨3, 0, 0⟩ }, windows := [⟨0, ⟨3, 0, 0⟩, [], true⟩] } with
    pwr := { up.pwr with tambClk := clk, clkGood := 0xFFF } }

/-- Tambour 7 with a band in CODING and its sequencer as `q` has it. -/
def codes (q : Sequencer) : State := (oneBand { state := .coding }).modTamb 7 fun x => { x with coding := some ⟨3, 0, 0⟩, seqr := q }

/-- A word that moves a value the manual leaves open. -/
def transferWord : Nat := 2 ^ 192 - 1

/-- Blocks of the first band of a 1080-line picture. -/
def blocks0 : Nat := ({} : Channel).cfg.bandBlocks 0

/-- A block of a decode band without samples. -/
def decBlock : DecBlock := ⟨[], [], [], [], [], none, [], [], false, 0, none, false, false⟩

/-- Band `u` of `oneBand` just at its release time. -/
def released (u : Band) : State := atNs (oneBand u) (((oneBand u).channel 3).releaseAt 0 0 / tauNs + 1)

/-- A channel on tambour 2 that is armed for ten seconds, just before its first opening. -/
def opened : State := atNs (chan up 3 { state := .armed, startNs := 10000000000, index0 := 600, tambour := 2 }) 9999000000

/-- That opening. -/
def opening : Nat := (opened.hoopOpening 1).getD 0

/-- A waiting request of the power sequencer. -/
def asked (r : SlewReq) : State := { up with pwr := { up.pwr with queue := [r] } }

/-- The same, 300 ns before the opening. -/
def openedSoon : State := { opened with time := (atNs up (opening / tauNs - 300)).time }

/-- Owner 0's cell reserve calls for more than the well has; owner 17 may still ask. -/
def reservedAway : State := (up.setRegN (Reg.welCquota + 4 * 17) (5 * 65536)).setRegN Reg.welCquota 16383

/-- Well `w` as `f` changes it. -/
def wellAs (w : WellSel) (f : WellSt → WellSt) : State := up.modWell w f

/-- Pump 7, awake, with a ring and, where there is one, the descriptor `v` in it. -/
def pumping (v : Option Nat) : State :=
  let s := { up with pwr := { up.pwr with awake := [.pump 7] } }.modQueue 23 fun _ => { valid := true, base := 0x3F000, space := .sram, ty := .pwq, log2 := 4 }
  match v with | some v => s.putEntry 23 v | none => s

/-- A stack that has been trained, at one second. -/
def stack (f : HbmSt → HbmSt) : State := atNs { up with hbm := f { up.hbm with trained := true } } 1000000000

/-- A read that waits at port 7, for pseudo-channel 31 and bank 15. -/
def req7 : HbmReq := ⟨7, 0x79F00, false, true, 0⟩

/-- A decode channel whose picture 0 is coded to its end. -/
def coded0 : State := chan up 3 { state := .running, decode := true, pics := [(0, { named := true, bands := (List.range 70).map fun b => (b, { coded := true }) })] }

/-- Band 1 of picture 0, coded, whose last slice word `w` waits in spout 7. -/
def drains (w : SpoutWord) : State :=
  { (oneBand {}).modBand ⟨3, 0, 1⟩ fun u => { u with state := .coded } with spouts := [(7, { closed := [0], words := [(0, w)], fill := 1 })] }

/-- The last word of that band's slice. -/
def lastWord : SpoutWord := { ch := 3, band := 1, data := 7, valid := 9, last := true }

/-- A band in CODING just after its start on tambour 7, whose stitches are as `z` has them; its slice has used up the band's bytes. -/
def coding0 (z : Coder) : State :=
  ((atNs (codes {}) 0).modBand ⟨3, 0, 0⟩ fun u => { u with bytes := 1000000000 }).modTamb 7 fun x => { x with blocks := blocks0, coder := z }

/-- Source 511 is pending, routed to core 0. -/
def irq511 : State := State.reset.modSrc 511 fun i => { i with pending := true, route := 1 }

/-- A ready device whose rings the host has set up and not enabled. -/
def bringUp : State :=
  let s := { up with host := { up.host with enabled := false } }
  ((((s.setRegN Reg.hstAdminCfg 4228).setRegN Reg.hstAsq 0x1000).setRegN Reg.hstAcq 0x2000).setRegN Reg.hstAeq 0x3000).setRegN Reg.hstDb 0x4000

/-- `up` with its windlass waiting. -/
def waiting : State := { up with host := { up.host with wsw := .waiting } }

/-- A message of kind `k` about channel 3. -/
def aMsg (k : Nat) : FaultMsg := { source := 5, kind := k, address := addrC 3 }

/-- `s` with the message `m` on its way to the collector. -/
def told (s : State) (m : FaultMsg) : State := { s with flt := { s.flt with inFlight := [m] } }

/-- A device in reset from whose sources every one has been released. -/
def held0 : State := { State.reset with rst := { State.reset.rst with asserted := 0 } }

/-- The same with nothing programmed into its fuses. -/
def blankFuses : State := { held0 with fuse := { held0.fuse with rows := [] } }

/-- What the option words of the factory fuses load as. -/
def factoryLoad : SMap Nat × Nat × Bool := match held0.fuse.load 128 0 [] 0 false with | .inr x => x | .inl _ => ([], 0, false)

/-- What fails in blank fuses. -/
def blankFail : Nat × SMap Nat × Nat × Bool := match blankFuses.fuse.load 128 0 [] 0 false with | .inl x => x | .inr _ => (0, [], 0, false)

/-- `s` in reset state `r`. -/
def inRst (s : State) (r : RstState) : State := { s with rst := { s.rst with state := r } }

/-- A device with clock `k` good. -/
def clocks (s : State) (v : BitVec 12) : State := { s with pwr := { s.pwr with clkGood := v } }

/-- What self-test reports where every step passes. -/
def passed : SelfTestResult := ⟨none, none, 0, 0, 0, 3, 0, 0, 0, 0, 0, 0, 0, []⟩

/-- A block reset of block 8 that is under way; the block is held since tick `k`, where there is one. -/
def blocked (k : Option Nat) : State := { up with rst := { up.rst with blk := { block := 8, busy := true, heldAt := k } } }

/-- `up` with sensors whose values are `l`, by number. -/
def sensing (l : List (Nat × Sensor)) : State := { up with sensors := l }

/-- `s` with every tambour's clock on. -/
def ungated (s : State) : State := { s with pwr := { s.pwr with tambClk := 0xFF } }

/-- A membership of port 7 for flow 2047 with a join, or a leave, to send. -/
def member7 (join : Bool) : Member := ⟨7, false, 5, 0, 2047, some join, false⟩

/-- `up` with that membership. -/
def reporting (join : Bool) : State := { up with net := { up.net with members := [member7 join] } }

/-- Time-code values with offset `n`. -/
def codeArgs (n : BitVec 32) : TimecodeArgs := ⟨n, 0, 0, 0, 0, false, false, true, 37⟩

/-- `up` with PTP on port 7 and reference source `n`. -/
def sourcing (n : Nat) : State := { up with time := { up.time with ports := [(7, { enable := true })], ref := { up.time.ref with source := n } } }

/-- A PAUSE frame. -/
def pauseFrame : RxFrame := { etherFrame 0x8808 with bytes := List.replicate 12 0 ++ [0x88, 0x08, 0, 1] ++ List.replicate 44 0 }

/-- `arrived5` on a flow of no channel. -/
def lone5 : State := arrived5.modIflow 5 fun f => { f with channel := none }

/-- `s` with its ingress writer's clock gated. -/
def drowsy (s : State) (id : Nat) : State := { s with pwr := { s.pwr with awake := s.pwr.awake.filter (· ≠ .fclkBlock id) } }

/-- A decode band in CODING on tambour 7, at its start. -/
def decoding : State := atNs (chan (codes {}) 3 { state := .running, decode := true }) 0

/-- A slice word in the middle of a slice. -/
def midWord : SpoutWord := { ch := 3, data := 7, valid := 9 }

/-- The first band of `oneBand`, in CODING, whose word `midWord` waits in spout 7. -/
def midway : State := { oneBand { state := .coding } with spouts := [(7, { closed := [0], words := [(0, midWord)], fill := 1 })] }

/-- `s` without a free cell, for the time of a rebuild. -/
def cellless (s : State) : State := { s with cellWell := { s.cellWell with rebuild := true } }

/-- Band 1 of a picture whose mirror failed at band 0, at its release time. -/
def afterMirror : State :=
  let s := chan up 3 { state := .running, pics := [(0, { named := true, mirrorFailed := some 0, bands := [(0, { state := .sent, released := true }), (1, { state := .coded, drained := true })] })] }
  atNs s ((s.channel 3).releaseAt 0 1 / tauNs + 1)

/-- `waiting` in epoch mode. -/
def epochs : State := { waiting with host := { waiting.host with epochMode := true } }

/-- `up` with one completion of HCQ 1 held. -/
def holding : State := { up with host := { up.host with held := [⟨0, 1, 0⟩] } }

/-- `holding` without a submission queue. -/
def noHsq : State := holding.modQueue 0 fun q => { q with valid := false }

/-- An outcome that is the next state `t`, by deciding equality of states. -/
theorem next_of {o : Host.Outcome State Fault Refusal} {t : State}
    (h : (match o with | .next u => decide (u = t) | _ => false) = true) : o = .next t := by
  cases o <;> simp_all

/-- `StepRunsTheFront`: a state and operands that meet the hypotheses of each clause in turn (clauses 2). -/
theorem test_StepRunsTheFront :
    ∃ (s : State), (s.pending = []) :=
  ⟨State.reset, by decide +kernel⟩

/-- `CompletesExactlyWhenWellFormed`: a state and operands that meet the hypotheses of each clause in turn (clauses 1, 2, 3, 4, 5, 6, 7, 9, 10, 11, 12, 13, 14, 15, 16, 17, 19, 20, 21, 22, 23, 24, 25, 26, 28, 29, 30, 32, 33, 34, 35, 36, 37, 38, 39, 40, 41). -/
theorem test_CompletesExactlyWhenWellFormed :
    (∃ (c : Instr), (c.wellFormed = true)) ∧
    (∃ (c : Instr), (c.wellFormed = false)) ∧
    (∃ (epoch : Bool) (s : State), (s.host.enabled = false) ∧ (s.host.ready = true) ∧ (s.enableCause epoch = 0)) ∧
    (∃ (s : State), (s.host.wsw = .waiting) ∧ (s.pollDue = true) ∧ (s.host.epochMode = false)) ∧
    (∃ (s : State), (s.host.wsw = .waiting) ∧ (s.pollDue = true) ∧ (s.host.epochMode = true)) ∧
    (∃ (s : State), (s.host.wsw = .waiting) ∧ (s.pollDue = true)) ∧
    (∃ (cq : Nat) (x : HeldCpl) (s : State), (cq < 262144) ∧ (SMap.get (fun _ => 0) s.host.heldTry cq ≤ s.lastTick) ∧ (s.host.held = [x]) ∧ (x.cq = cq) ∧ ((s.queue cq).full = false) ∧ ((s.queue cq).valid = true) ∧ (s.host.busMaster = true) ∧ ((∀ e ∈ s.queues, e.2.ty = .hsq → e.2.valid = false)) ∧ ((s.queue cq).space = .host)) ∧
    (∃ (who : Requester) (a : Nat) (r : RegRow) (s : State), (s.responds a = true) ∧ (s.writeLocked who a = false) ∧ (a < 0x4000) ∧ (a ≠ Reg.wswPoll) ∧ (regRow a = some r) ∧ (r.lo = false) ∧ (r.hi = false)) ∧
    (∃ (a : Nat) (s : State), (s.responds a = true)) ∧
    (∃ (q : Nat) (s : State), (q < 262144) ∧ ((s.queue q).valid = true) ∧ ((s.queue q).msiDue = true) ∧ ((s.queue q).lastMsi.getD 0 + 1000 * (s.queue q).dueUs ≤ s.now)) ∧
    (∃ (v : Nat), (v < 64)) ∧
    (∃ (n : Nat) (s : State), (assertable n = true) ∧ ((s.src n).line = false)) ∧
    (∃ (n : Nat), (assertable n = true)) ∧
    (∃ (c : Nat) (v : Word) (s : State), (c < 4) ∧ (idxSub v.toNat (s.queue (fbQueue c)).head < (s.queue (fbQueue c)).fill)) ∧
    (∃ (c : Nat), (c < 4)) ∧
    (∃ (n : Nat), (1 ≤ n) ∧ (n ≤ 511)) ∧
    (∃ (o : Nat), (o < 64)) ∧
    (∃ (s : State), (s.cellWell.rebuild = true)) ∧
    (∃ (s : State), (s.pageWell.rebuild = true)) ∧
    (∃ (s : State), (s.pageWell.rebuild = false) ∧ (s.pageWell.cache.length < 256)) ∧
    (∃ (s : State), (s.pageWell.rebuild = false) ∧ (768 < s.pageWell.cache.length)) ∧
    (∃ (o : Nat) (v : Word) (s : State), (o < 64) ∧ (s.quotaOk .cell o (bitsAt v.toNat 0 14) (bitsAt v.toNat 16 14) = true)) ∧
    (∃ (u : BitVec 8) (s : State), (s.pageWell.owners = []) ∧ (s.reserveSum .page 64 0 ≤ 1024 * pageUnits u.toNat)) ∧
    (∃ (port : Nat) (s : State), (port < 8) ∧ (((s.takePtpFrame port).ptpPort port).enable = true)) ∧
    (∃ (s : State), (s.time.follower = false) ∧ (s.servoReview.time.servo = .acquiring)) ∧
    (∃ (s : State), (s.time.servo = .holdover) ∧ (s.time.clock.holdoverS ≠ 0) ∧ (s.time.holdFrom + 1000000000 * s.time.clock.holdoverS ≤ s.now)) ∧
    (∃ (falling : Bool) (s : State), ((falling = true ↔ s.field Reg.timePpsCfg 0 1 = 1))) ∧
    (∃ (s : State), (5000000000 + s.time.tlvAt ≤ s.now)) ∧
    (∃ (b : BitVec 10) (s : State), (resettable b.toNat = true) ∧ (s.rst.blk.busy = false) ∧ (s.rst.state = .running)) ∧
    (∃ (s : State), (s.rst.blk.busy = true) ∧ (s.rst.blk.heldAt = none) ∧ (s.rst.blk.askedAt + 25 * max 1 (s.field Reg.rstIdleTimeout 0 16) ≤ s.time.tick)) ∧
    (∃ (s : State), (s.rst.blk.busy = true) ∧ (s.rst.blk.heldAt = none)) ∧
    (∃ (k : Nat) (s : State), (s.rst.blk.busy = true) ∧ (s.rst.blk.heldAt = some k) ∧ (k + 16 ≤ s.time.tick)) ∧
    (∃ (w : BitVec 7) (key : BitVec 16) (s : State), (s.fuseRefused w.toNat key.toNat = false)) ∧
    (∃ (k : Nat) (rest : List Nat) (s : State), (s.fuse.inPulse = true) ∧ (s.fuse.toPulse = k :: rest)) ∧
    (∃ (n : Nat), (n < 16)) ∧
    (∃ (m : FaultMsg) (s : State), (nextMessage s.flt.inFlight = some m) ∧ (s.collectorSleeps = false)) ∧
    (∃ (kind : BitVec 8), ((kindInfo kind.toNat).isSome = true)) :=
  ⟨⟨(.chRunning 127), by decide +kernel⟩,
   ⟨(.chRunning 128), by decide +kernel⟩,
   ⟨false, { bringUp with host := { bringUp.host with atomicReq := true } }, by decide +kernel⟩,
   ⟨waiting, by decide +kernel⟩,
   ⟨epochs, by decide +kernel⟩,
   ⟨waiting, by decide +kernel⟩,
   ⟨1, ⟨0, 1, 0⟩, noHsq, by decide +kernel⟩,
   ⟨(.core 0), Reg.rstSelftestCfg, { base := Reg.rstSelftestCfg, rw := 1, kept := true }, up, by decide +kernel⟩,
   ⟨0x10000C, up, by decide +kernel⟩,
   ⟨65540, (up.modQueue 65540 fun _ => { valid := true, ty := .hsr, log2 := 4, msiDue := true }), by decide +kernel⟩,
   ⟨63, by decide +kernel⟩,
   ⟨511, up, by decide +kernel⟩,
   ⟨511, by decide +kernel⟩,
   ⟨3, 0, (up.modQueue 7 fun q => { q with valid := true, log2 := 4, tail := 1 }), by decide +kernel⟩,
   ⟨3, by decide +kernel⟩,
   ⟨511, by decide +kernel⟩,
   ⟨63, by decide +kernel⟩,
   ⟨{ up with cellWell := { up.cellWell with rebuild := true } }, by decide +kernel⟩,
   ⟨{ up with pageWell := { up.pageWell with rebuild := true } }, by decide +kernel⟩,
   ⟨(wellAs .page fun w => { w with cache := List.range 255 }), by decide +kernel⟩,
   ⟨(wellAs .page fun w => { w with cache := List.range 769 }), by decide +kernel⟩,
   ⟨63, 0, up, by decide +kernel⟩,
   ⟨128, up, by decide +kernel⟩,
   ⟨7, (sourcing 1), by decide +kernel⟩,
   ⟨slaved, by decide +kernel⟩,
   ⟨(atNs { up with time := { up.time with servo := .holdover, clock := { up.time.clock with holdoverS := 1 } } } 1000000000), by decide +kernel⟩,
   ⟨false, up, by decide +kernel⟩,
   ⟨(atNs up 5000000000), by decide +kernel⟩,
   ⟨0x083, up, by decide +kernel⟩,
   ⟨(atNs (blocked none) 100000), by decide +kernel⟩,
   ⟨(blocked none), by decide +kernel⟩,
   ⟨0, (atNs (blocked (some 0)) 640), by decide +kernel⟩,
   ⟨19, 0x4655, (up.setRegN Reg.fuseProgData 5), by decide +kernel⟩,
   ⟨0, [2], { up with fuse := { up.fuse with inPulse := true, progWord := 127, progCopy := 5, toPulse := [0, 2] } }, by decide +kernel⟩,
   ⟨15, by decide +kernel⟩,
   ⟨(aMsg 3), (told up (aMsg 3)), by decide +kernel⟩,
   ⟨3, by decide +kernel⟩⟩

/-- `CommandsLeaveTheQueue`: a state and operands that meet the hypotheses of each clause in turn. -/
theorem test_CommandsLeaveTheQueue :
    ∃ (c : Instr) (s : State) (t : State), (exec c s = .next t) :=
  ⟨(.nop hdr), State.reset, State.reset, next_of (by decide +kernel)⟩

/-- `StepKeepsInvariant`: a state and operands that meet the hypotheses of each clause in turn. -/
theorem test_StepKeepsInvariant :
    ∃ (s : State) (t : State), (s.Inv) ∧ (step s = .next t) :=
  ⟨{ State.reset with pending := [.chRunning 5] }, State.reset, by unfold State.Inv Tidy FuseSt.orderly; decide +kernel, next_of (by decide +kernel)⟩

/-- `WrittenFuseCopiesStay`: a state and operands that meet the hypotheses of each clause in turn. -/
theorem test_WrittenFuseCopiesStay :
    ∃ (s : State) (t : State), (s.Inv) ∧ (step s = .next t) :=
  ⟨State.reset, State.reset, by unfold State.Inv Tidy FuseSt.orderly; decide +kernel, next_of (by decide +kernel)⟩

/-- `UnreadyHostCommandsWait`: a state and operands that meet the hypotheses of each clause in turn. -/
theorem test_UnreadyHostCommandsWait :
    ∃ (c : Instr) (h : CmdHdr) (s : State), (hostHeader c = some h) ∧ (s.canTake c h = false) :=
  ⟨(.nop hdr), hdr, State.reset, by decide +kernel⟩

/-- `AdminCommandsNeedQueueZero`: a state and operands that meet the hypotheses of each clause in turn. -/
theorem test_AdminCommandsNeedQueueZero :
    ∃ (c : Instr) (h : CmdHdr) (s : State), (hostHeader c = some h) ∧ (adminOnly c = true) ∧ (s.ready c h) ∧ (h.sq ≠ 0) :=
  ⟨(.queueDestroy ⟨5, 1, 0⟩ 0), ⟨5, 1, 0⟩, (fetch (up.modQueue 5 fun _ => up.queue 0) (.queueDestroy ⟨5, 1, 0⟩ 0) (⟨5, 1, 0⟩)), by unfold State.ready; decide +kernel⟩

/-- `DiagnosticHoldRefuses`: a state and operands that meet the hypotheses of each clause in turn. -/
theorem test_DiagnosticHoldRefuses :
    ∃ (c : Instr) (h : CmdHdr) (s : State), (hostHeader c = some h) ∧ (s.canTake c h = true) ∧ (h.badCopies = 0) ∧ (s.rst.state = .diagHold) ∧ ((∀ sel obj a n, c ≠ .query h sel obj a n)) ∧ ((∀ l, c ≠ .reset h l)) :=
  ⟨(.nop hdr), hdr, (fetch ({ up with rst := { up.rst with state := .diagHold } }) (.nop hdr) (hdr)), by decide +kernel, by decide +kernel, by decide +kernel, by decide +kernel, by simp, by simp⟩

/-- `TwoBadCopiesEndTheCommand`: a state and operands that meet the hypotheses of each clause in turn. -/
theorem test_TwoBadCopiesEndTheCommand :
    ∃ (c : Instr) (h : CmdHdr) (s : State), (hostHeader c = some h) ∧ (s.canTake c h = true) ∧ (h.badCopies = 2) ∧ (s.rst.state ≠ .diagHold) ∧ ((adminOnly c = false ∨ h.sq = 0)) :=
  ⟨(.nop ⟨0, 1, 2⟩), ⟨0, 1, 2⟩, (fetch (up) (.nop ⟨0, 1, 2⟩) (⟨0, 1, 2⟩)), by decide +kernel⟩

/-- `CompletionEntry`: a state and operands that meet the hypotheses of each clause in turn. -/
theorem test_CompletionEntry :
    (∃ (s : State) (sq : Nat) (a : _),
    let cq := s.cqOf sq
    let u := s.queue cq
    (Tidy s) ∧ (u.valid = true) ∧ (u.ty = .hcq) ∧ (u.space = .host) ∧ (u.fill < 2 ^ u.log2) ∧ (s.host.held.any (fun x => x.cq = cq) = false) ∧ (s.host.busMaster = true) ∧ ((a < u.base + u.tail % 2 ^ u.log2 * 32 ∨ u.base + u.tail % 2 ^ u.log2 * 32 + 32 ≤ a))) ∧
    (∃ (s : State) (sq : Nat),
    let cq := s.cqOf sq
    let u := s.queue cq
    (Tidy s) ∧ (u.valid = true) ∧ (u.ty = .hcq) ∧ (u.space = .host) ∧ (u.fill < 2 ^ u.log2) ∧ (s.host.held.any (fun x => x.cq = cq) = false) ∧ (s.host.busMaster = true)) ∧
    (∃ (s : State) (sq : Nat),
    let cq := s.cqOf sq
    ((s.queue cq).valid = true) ∧ ((s.queue cq).fill < 2 ^ (s.queue cq).log2) ∧ (s.host.held.any (fun x => x.cq = cq) = true ∨ s.host.busMaster = false)) :=
  ⟨⟨up, 0, 0x2020, by unfold Tidy; decide +kernel⟩,
   ⟨up, 0, by unfold Tidy; decide +kernel⟩,
   ⟨{ up with host := { up.host with held := [⟨0, 1, 0⟩] } }, 0, by decide +kernel⟩⟩

/-- `TablesAndMemoriesReadBack`: a state and operands that meet the hypotheses of each clause in turn. -/
theorem test_TablesAndMemoriesReadBack :
    (∃ (s : State), (Tidy s)) ∧
    (∃ (s : State), (Tidy s)) ∧
    (∃ (s : State), (Tidy s)) ∧
    (∃ (d : Nat → Byte) (m : List Host.Cell) (a : Nat) (b : _), (Memory.wf d m = true) ∧ (b ≠ a)) ∧
    (∃ (d : Nat → Byte) (m : List Host.Cell), (Memory.wf d m = true)) :=
  ⟨⟨State.reset, by unfold Tidy; decide +kernel⟩,
   ⟨State.reset, by unfold Tidy; decide +kernel⟩,
   ⟨State.reset, by unfold Tidy; decide +kernel⟩,
   ⟨zeroDefault, ([(5, 1)]), 5, 4, by decide +kernel⟩,
   ⟨zeroDefault, ([(5, 1)]), by decide +kernel⟩⟩

/-- `QueuesAreCreatedAndDestroyed`: a state and operands that meet the hypotheses of each clause in turn. -/
theorem test_QueuesAreCreatedAndDestroyed :
    (∃ (h : CmdHdr) (s : State), (s.ready (.nop h) h)) ∧
    (∃ (h : CmdHdr) (q : QueueCreateArgs) (ty : QType) (n : Nat) (s : State), (s.ready (.queueCreate h q) h) ∧ (h.sq = 0) ∧ (hostType q.ty.toNat = some ty) ∧ (4 ≤ q.log2.toNat) ∧ (q.log2.toNat ≤ 16) ∧ (q.base.toNat ≠ 0) ∧ (q.base.toNat % 4096 = 0) ∧ ((if q.qid = 0 then s.freeHostQid = some n else q.qid.toNat = n ∧ 65536 ≤ n ∧ (s.queue n).valid = false)) ∧ ((ty = .hsq → (s.queue q.cqid.toNat).valid = true ∧ (s.queue q.cqid.toNat).ty = .hcq))) ∧
    (∃ (h : CmdHdr) (qid : BitVec 18) (s : State), (s.ready (.queueDestroy h qid) h) ∧ (h.sq = 0) ∧ (s.host.deferred = []) ∧ (65536 ≤ qid.toNat) ∧ ((s.queue qid.toNat).valid = true) ∧ (s.hcqBound qid.toNat = false) ∧ (s.hbrInUse qid.toNat = false) ∧ (s.heqInUse qid.toNat = false)) :=
  ⟨⟨hdr, (fetch (up) (.nop (hdr)) (hdr)), by unfold State.ready; decide +kernel⟩,
   ⟨hdr, ⟨65540, 0, 4, false, 1, 0x5000, 0, false, 0⟩, .hsq, 65540, (fetch (up) (.queueCreate (hdr) (⟨65540, 0, 4, false, 1, 0x5000, 0, false, 0⟩)) (hdr)), by unfold State.ready; decide +kernel⟩,
   ⟨hdr, 65536, (fetch (up.modQueue 65536 fun _ => { valid := true, ty := .hsr, log2 := 4 }) (.queueDestroy (hdr) (65536)) (hdr)), by unfold State.ready; decide +kernel⟩⟩

/-- `ChannelsAreCreatedAndConfigured`: a state and operands that meet the hypotheses of each clause in turn. -/
theorem test_ChannelsAreCreatedAndConfigured :
    (∃ (h : CmdHdr) (c : BitVec 8) (decode : Bool) (addr : Word64) (evq : BitVec 18) (a : Accepted) (s : State), (s.ready (.channelCreate h c decode addr evq) h) ∧ (c.toNat < 128) ∧ (s.chanWaits h.sq c.toNat = false) ∧ ((s.channel c.toNat).state = .idle) ∧ ((evq = 0 ∨ ((s.queue evq.toNat).valid = true ∧ (s.queue evq.toNat).ty = .heq))) ∧ ((s.taken h).checkCfg c.toNat decode addr.toNat none = .inr a)) ∧
    (∃ (h : CmdHdr) (c : BitVec 8) (addr : Word64) (a : Accepted) (s : State), (s.ready (.channelConfigure h c addr) h) ∧ (c.toNat < 128) ∧ (s.chanWaits h.sq c.toNat = false) ∧ (((s.channel c.toNat).state = .configured ∨ (s.channel c.toNat).state = .stopped)) ∧ ((s.taken h).checkCfg c.toNat (s.channel c.toNat).decode addr.toNat (some (s.channel c.toNat).tambour) = .inr a)) ∧
    (∃ (h : CmdHdr) (c : BitVec 8) (decode : Bool) (addr : Word64) (evq : BitVec 18) (s : State), (s.chanWaits h.sq c.toNat = false) ∧ (128 ≤ c.toNat) ∧ (s.ready (.channelCreate h c decode addr evq) h)) ∧
    (∃ (h : CmdHdr) (c : BitVec 8) (addr : Word64) (s : State), (s.chanWaits h.sq c.toNat = false) ∧ (128 ≤ c.toNat) ∧ (s.ready (.channelConfigure h c addr) h)) ∧
    (∃ (h : CmdHdr) (c : BitVec 8) (decode : Bool) (addr : Word64) (evq : BitVec 18) (s : State), (s.chanWaits h.sq c.toNat = false) ∧ (c.toNat < 128) ∧ (s.ready (.channelCreate h c decode addr evq) h) ∧ ((s.channel c.toNat).state ≠ .idle)) ∧
    (∃ (h : CmdHdr) (c : BitVec 8) (addr : Word64) (s : State), (s.chanWaits h.sq c.toNat = false) ∧ (c.toNat < 128) ∧ (s.ready (.channelConfigure h c addr) h) ∧ ((s.channel c.toNat).state ≠ .configured) ∧ ((s.channel c.toNat).state ≠ .stopped)) :=
  ⟨⟨hdr, 127, false, 0, 2, { cfg := {}, lists := [], tambour := 0 }, (fetch (up) (.channelCreate (hdr) (127) (false) (0) (2)) (hdr)), by unfold State.ready; decide +kernel⟩,
   ⟨hdr, 0, 0, { cfg := {}, lists := [], tambour := 0 }, (fetch (chan up 0 { state := .stopped }) (.channelConfigure (hdr) (0) (0)) (hdr)), by unfold State.ready; decide +kernel⟩,
   ⟨hdr, 128, false, 0, 0, (fetch (up) (.channelCreate (hdr) (128) (false) (0) (0)) (hdr)), by unfold State.ready; decide +kernel⟩,
   ⟨hdr, 128, 0, (fetch (up) (.channelConfigure (hdr) (128) (0)) (hdr)), by unfold State.ready; decide +kernel⟩,
   ⟨hdr, 3, false, 0, 0, (fetch (chan up 3 { state := .faulted }) (.channelCreate (hdr) (3) (false) (0) (0)) (hdr)), by unfold State.ready; decide +kernel⟩,
   ⟨hdr, 3, 0, (fetch (chan up 3 { state := .faulted }) (.channelConfigure (hdr) (3) (0)) (hdr)), by unfold State.ready; decide +kernel⟩⟩

/-- `ChannelsStartAndStop`: a state and operands that meet the hypotheses of each clause in turn. -/
theorem test_ChannelsStartAndStop :
    (∃ (h : CmdHdr) (c : BitVec 8) (sec : BitVec 48) (ns : BitVec 32) (s : State), (s.ready (.channelStart h c false sec ns) h) ∧ (c.toNat < 128) ∧ (s.chanWaits h.sq c.toNat = false) ∧ (s.twinChannel c.toNat = false) ∧ ((s.taken h).startRefusal c.toNat false sec.toNat ns.toNat (s.fetchTime h.sq) = none)) ∧
    (∃ (h : CmdHdr) (c : BitVec 8) (sec : BitVec 48) (ns : BitVec 32) (s : State), (s.ready (.channelStart h c false sec ns) h) ∧ (c.toNat < 128) ∧ (s.chanWaits h.sq c.toNat = false) ∧ (s.twinChannel c.toNat = true) ∧ ((s.findDeferred fun o => decide (o = .twinStart) || decide (o = .twinRejoin)) = none) ∧ (s.peerArm c.toNat = none) ∧ (s.host.deferred.length < 16) ∧ ((s.taken h).startRefusal c.toNat false sec.toNat ns.toNat (s.fetchTime h.sq) = none)) ∧
    (∃ (h : CmdHdr) (c : BitVec 8) (sec : BitVec 48) (ns : BitVec 32) (s : State), (s.ready (.channelStop h c sec ns) h) ∧ (c.toNat < 128) ∧ (s.chanWaits h.sq c.toNat = false) ∧ (ns.toNat < 1000000000) ∧ ((s.channel c.toNat).state = .running)) ∧
    (∃ (h : CmdHdr) (c : BitVec 8) (sec : BitVec 48) (ns : BitVec 32) (s : State), (s.ready (.channelStop h c sec ns) h) ∧ (c.toNat < 128) ∧ (s.chanWaits h.sq c.toNat = false) ∧ (ns.toNat < 1000000000) ∧ ((s.channel c.toNat).state = .faulted)) ∧
    (∃ (h : CmdHdr) (c : BitVec 8) (sec : BitVec 48) (ns : BitVec 32) (s : State), (s.ready (.channelStop h c sec ns) h) ∧ (c.toNat < 128) ∧ (s.chanWaits h.sq c.toNat = false) ∧ (ns.toNat < 1000000000) ∧ ((s.channel c.toNat).state = .armed) ∧ ((s.channel c.toNat).pics = [])) ∧
    (∃ (h : CmdHdr) (c : BitVec 8) (sec : BitVec 48) (ns : BitVec 32) (s : State), (s.ready (.channelStop h c sec ns) h) ∧ (c.toNat < 128) ∧ (s.chanWaits h.sq c.toNat = false) ∧ (ns.toNat < 1000000000) ∧ ((s.channel c.toNat).state ≠ .running) ∧ ((s.channel c.toNat).state ≠ .faulted) ∧ ((s.channel c.toNat).state ≠ .armed)) ∧
    (∃ (h : CmdHdr) (c : BitVec 8) (s : State), (s.ready (.channelDestroy h c) h) ∧ (c.toNat < 128) ∧ (s.chanWaits h.sq c.toNat = false) ∧ (((s.channel c.toNat).state = .configured ∨ (s.channel c.toNat).state = .stopped ∨ (s.channel c.toNat).state = .faulted)) ∧ (s.ingressOf c.toNat = []) ∧ (s.egressOf c.toNat = [])) ∧
    (∃ (h : CmdHdr) (c : BitVec 8) (s : State), (s.ready (.channelDestroy h c) h) ∧ (c.toNat < 128) ∧ (s.chanWaits h.sq c.toNat = false) ∧ (((s.channel c.toNat).state = .idle ∨ (s.channel c.toNat).state.live = true))) ∧
    (∃ (h : CmdHdr) (c : BitVec 8) (s : State), (s.ready (.forceIntra h c) h) ∧ (c.toNat < 128) ∧ (s.chanWaits h.sq c.toNat = false) ∧ ((s.channel c.toNat).decode = false) ∧ (((s.channel c.toNat).state = .armed ∨ (s.channel c.toNat).state = .running))) :=
  ⟨⟨hdr, 3, 10, 999999999, (fetch (chan { up with time := { up.time with valid := true } } 3 { state := .configured }) (.channelStart (hdr) (3) false (10) (999999999)) (hdr)), by unfold State.ready; decide +kernel⟩,
   ⟨hdr, 3, 10, 999999999, (fetch (chan twinned 3 { state := .configured }) (.channelStart (hdr) (3) false (10) (999999999)) (hdr)), by unfold State.ready; decide +kernel⟩,
   ⟨hdr, 3, 10, 999999999, (fetch (chan up 3 { state := .running }) (.channelStop (hdr) (3) (10) (999999999)) (hdr)), by unfold State.ready; decide +kernel⟩,
   ⟨hdr, 3, 10, 999999999, (fetch (chan up 3 { state := .faulted }) (.channelStop (hdr) (3) (10) (999999999)) (hdr)), by unfold State.ready; decide +kernel⟩,
   ⟨hdr, 3, 10, 999999999, (fetch (chan up 3 { state := .armed }) (.channelStop (hdr) (3) (10) (999999999)) (hdr)), by unfold State.ready; decide +kernel⟩,
   ⟨hdr, 3, 10, 999999999, (fetch (chan up 3 { state := .draining }) (.channelStop (hdr) (3) (10) (999999999)) (hdr)), by unfold State.ready; decide +kernel⟩,
   ⟨hdr, 3, (fetch (chan { up with codec := { up.codec with subs := [{ kind := 0, source := 3, qid := 9 }] } } 3 { state := .faulted }) (.channelDestroy (hdr) (3)) (hdr)), by unfold State.ready; decide +kernel⟩,
   ⟨hdr, 127, (fetch (chan up 127 { state := .draining }) (.channelDestroy (hdr) (127)) (hdr)), by unfold State.ready; decide +kernel⟩,
   ⟨hdr, 127, (fetch (chan up 127 { state := .running }) (.forceIntra (hdr) (127)) (hdr)), by unfold State.ready; decide +kernel⟩⟩

/-- `PlansAreEntered`: a state and operands that meet the hypotheses of each clause in turn. -/
theorem test_PlansAreEntered :
    (∃ (h : CmdHdr) (c : BitVec 8) (addr : Word64) (v : Nat) (s : State), (s.ready (.picturePlan h c addr) h) ∧ (c.toNat < 128) ∧ (s.chanWaits h.sq c.toNat = false) ∧ (s.hostRead addr.toNat 192 = some v) ∧
    let st := (s.channel c.toNat).planStatus c.toNat v (decide ((s.channel c.toNat).cfg.rcSource = 2) && !s.isFollower)
    (st = 0)) ∧
    (∃ (h : CmdHdr) (c : BitVec 8) (addr : Word64) (v : Nat) (s : State), (s.ready (.picturePlan h c addr) h) ∧ (c.toNat < 128) ∧ (s.chanWaits h.sq c.toNat = false) ∧ (s.hostRead addr.toNat 192 = some v) ∧
    let st := (s.channel c.toNat).planStatus c.toNat v (decide ((s.channel c.toNat).cfg.rcSource = 2) && !s.isFollower)
    (st ≠ 0)) ∧
    (∃ (c : Nat) (k : Nat) (s : State), (c < 128) ∧ (k < 4) ∧ (bitAt (s.shwRead (mailboxSlot c k + 0xC0) 4) 0 = true)) ∧
    (∃ (c : Nat) (k : Nat) (s : State), (c < 128) ∧ (k < 4) ∧ (bitAt (s.shwRead (mailboxSlot c k + 0xC0) 4) 0 = false)) ∧
    (∃ (c : Nat) (k : Nat), (c < 128) ∧ (k < 4)) ∧
    (∃ (c : Nat) (s : State), (c < 128) ∧ ((s.channel c).decode = false) ∧ ((s.channel c).cfg.rcSource = 0) ∧ ((s.channel c).rc.planned = false) ∧ (((s.channel c).state = .armed ∨ (s.channel c).state = .running)) ∧ (s.isFollower = false)) ∧
    (∃ (c : Nat) (s : State), (c < 128) ∧ (((s.channel c).decode = true ∨ (s.channel c).cfg.rcSource ≠ 0 ∨ (s.channel c).rc.planned = true))) :=
  ⟨⟨hdr, 3, 0x8000, (3 * 2 ^ 32), (fetch (chan (up.hostWrite 0x8004 1 3) 3 { state := .running, cfg := { rcSource := 2 } }) (.picturePlan (hdr) (3) (0x8000)) (hdr)), by unfold State.ready; decide +kernel⟩,
   ⟨hdr, 3, 0x8000, 0, (fetch (chan up 3 { state := .running, cfg := { rcSource := 2 } }) (.picturePlan (hdr) (3) (0x8000)) (hdr)), by unfold State.ready; decide +kernel⟩,
   ⟨127, 3, (chan (up.shwWrite (mailboxSlot 127 3 + 0xC0) 4 1) 127 { state := .running }), by decide +kernel⟩,
   ⟨0, 0, State.reset, by decide +kernel⟩,
   ⟨0, 0, by decide +kernel⟩,
   ⟨127, (chan up 127 { state := .armed, rc := { planned := false } }), by decide +kernel⟩,
   ⟨127, (chan up 127 { state := .armed, decode := true }), by decide +kernel⟩⟩

/-- `FlowsAreBoundAndUnbound`: a state and operands that meet the hypotheses of each clause in turn. -/
theorem test_FlowsAreBoundAndUnbound :
    (∃ (h : CmdHdr) (c : BitVec 8) (flow : BitVec 11) (port : BitVec 3) (addr : Word64) (v : Nat) (s : State), (s.ready (.flowBind h c flow false false port addr 128) h) ∧ (s.chanWaits h.sq c.toNat = false) ∧ (s.hostRead addr.toNat 128 = some v) ∧ ((s.iflow flow.toNat).bound = false) ∧ ((iflowOf v).badField = none) ∧ (s.channelFits c.toNat (iflowOf v).kind false = true) ∧ (s.channelFree c.toNat = true) ∧ (s.ingressFits c.toNat port.toNat (iflowOf v) = none)) ∧
    (∃ (h : CmdHdr) (c : BitVec 8) (flow : BitVec 11) (solo : Bool) (port : BitVec 3) (addr : Word64) (v : Nat) (s : State), (s.ready (.flowBind h c flow true solo port addr 128) h) ∧ (s.chanWaits h.sq c.toNat = false) ∧ (s.hostRead addr.toNat 128 = some v) ∧ (flow.toNat < 2032) ∧ ((s.eflow flow.toNat).bound = false) ∧ ((eflowOf v).badField = none) ∧ (s.channelFits c.toNat (eflowOf v).kind true = true) ∧ (s.channelFree c.toNat = true) ∧ ((c.toNat = 0xFF ∨ ((s.egressOf c.toNat).filter fun (e : Nat × EFlow) => e.2.solo == solo).length < 4)) ∧ ((c.toNat = 0xFF ∨ (eflowOf v).largest (s.channel c.toNat).cfg ≤ s.portFrame port.toNat)) ∧ ((solo = true → c.toNat ≠ 0xFF ∧ s.twinChannel c.toNat = true)) ∧ (((eflowOf v).kind = 0 → c.toNat ≠ 0xFF → ∀ e ∈ s.egressOf c.toNat, e.2.kind = 0 → e.2.ssrc = (eflowOf v).ssrc ∧ e.2.pt = (eflowOf v).pt))) ∧
    (∃ (h : CmdHdr) (c : BitVec 8) (flow : BitVec 11) (egress : Bool) (solo : Bool) (port : BitVec 3) (addr : Word64) (len : BitVec 24) (s : State), (s.ready (.flowBind h c flow egress solo port addr len) h) ∧ (s.chanWaits h.sq c.toNat = false) ∧ (len = 0)) ∧
    (∃ (h : CmdHdr) (c : BitVec 8) (flow : BitVec 11) (egress : Bool) (solo : Bool) (port : BitVec 3) (addr : Word64) (len : BitVec 24) (s : State), (s.ready (.flowBind h c flow egress solo port addr len) h) ∧ (s.chanWaits h.sq c.toNat = false) ∧ (len ≠ 0) ∧ (len ≠ 128)) ∧
    (∃ (h : CmdHdr) (flow : BitVec 11) (s : State), (s.ready (.unbind h flow false) h) ∧ ((s.iflow flow.toNat).bound = true) ∧ ((s.queue (8192 + flow.toNat)).isEmpty = true)) ∧
    (∃ (h : CmdHdr) (flow : BitVec 11) (s : State), (s.ready (.unbind h flow true) h) ∧ (flow.toNat < 2032) ∧ ((s.eflow flow.toNat).bound = true) ∧ ((s.queue (10240 + flow.toNat)).isEmpty = true)) ∧
    (∃ (h : CmdHdr) (flow : BitVec 11) (s : State), (s.ready (.unbind h flow false) h) ∧ ((s.iflow flow.toNat).bound = false)) ∧
    (∃ (h : CmdHdr) (flow : BitVec 11) (s : State), (s.ready (.unbind h flow true) h) ∧ ((s.eflow flow.toNat).bound = false)) ∧
    (∃ (flow : Nat) (m : Member) (rest : List Member) (s : State), (flow < 2048) ∧ (s.net.members = m :: rest) ∧ (m.flow = flow) ∧ (m.due ≠ none) ∧
    let r := s.fwSend (2040 + m.port) (s.reportFrame m)
    (r.2 = true) ∧ (m.due = some false)) ∧
    (∃ (flow : Nat) (m : Member) (rest : List Member) (s : State), (flow < 2048) ∧ (s.net.members = m :: rest) ∧ (m.flow = flow) ∧ (m.due ≠ none) ∧
    let r := s.fwSend (2040 + m.port) (s.reportFrame m)
    (r.2 = true) ∧ (m.due = some true) ∧ (m ∉ rest)) ∧
    (∃ (flow : Nat) (m : Member) (rest : List Member) (s : State), (flow < 2048) ∧ (s.net.members = m :: rest) ∧ (m.flow = flow) ∧ (m.due ≠ none) ∧
    let r := s.fwSend (2040 + m.port) (s.reportFrame m)
    (r.2 = false)) ∧
    (∃ (flow : Nat) (m : Member) (rest : List Member) (s : State), (flow < 2048) ∧ (s.net.members = m :: rest) ∧ (m.flow = flow) ∧ (m.due ≠ none)) :=
  ⟨⟨hdr, 3, 2047, 0, 0x8000, iRec, (fetch (chan (up.hostWrite 0x8000 128 iRec) 3 { state := .configured }) (.flowBind (hdr) (3) (2047) false false (0) (0x8000) 128) (hdr)), by unfold State.ready; decide +kernel⟩,
   ⟨hdr, 3, 2031, false, 7, 0x8000, eRec, (fetch (chan ((up.hostWrite 0x8000 128 eRec).setRegN (Reg.netPortCfg + 0x7000) 0x10) 3 { state := .configured, decode := true }) (.flowBind (hdr) (3) (2031) true (false) (7) (0x8000) 128) (hdr)), by unfold State.ready; decide +kernel⟩,
   ⟨hdr, 3, 0, false, false, 0, 0x8000, 0, (fetch (up) (.flowBind (hdr) (3) (0) (false) (false) (0) (0x8000) (0)) (hdr)), by unfold State.ready; decide +kernel⟩,
   ⟨hdr, 3, 0, false, false, 0, 0x8000, 127, (fetch (up) (.flowBind (hdr) (3) (0) (false) (false) (0) (0x8000) (127)) (hdr)), by unfold State.ready; decide +kernel⟩,
   ⟨hdr, 2047, (fetch (up.modIflow 2047 fun f => { f with bound := true }) (.unbind (hdr) (2047) false) (hdr)), by unfold State.ready; decide +kernel⟩,
   ⟨hdr, 2031, (fetch (up.modEflow 2031 fun f => { f with bound := true }) (.unbind (hdr) (2031) true) (hdr)), by unfold State.ready; decide +kernel⟩,
   ⟨hdr, 2047, (fetch (up) (.unbind (hdr) (2047) false) (hdr)), by unfold State.ready; decide +kernel⟩,
   ⟨hdr, 2047, (fetch (up) (.unbind (hdr) (2047) true) (hdr)), by unfold State.ready; decide +kernel⟩,
   ⟨2047, (member7 false), [], (reporting false), by decide +kernel⟩,
   ⟨2047, (member7 true), [], (reporting true), by decide +kernel⟩,
   ⟨2047, (member7 true), [], { reporting true with cellWell := { up.cellWell with rebuild := true } }, by decide +kernel⟩,
   ⟨2047, (member7 true), [], (reporting true), by decide +kernel⟩⟩

/-- `GatesAndShapersAreSet`: a state and operands that meet the hypotheses of each clause in turn. -/
theorem test_GatesAndShapersAreSet :
    (∃ (h : CmdHdr) (port : BitVec 3) (count : BitVec 10) (addr : Word64) (sec : BitVec 48) (ns : BitVec 32) (cycle : BitVec 32) (v : Nat) (s : State), (s.ready (.gateListLoad h port count addr sec ns cycle) h) ∧ (h.sq = 0) ∧ (s.hostRead addr.toNat (8 * (count.toNat + 1)) = some v) ∧
    let es := (List.range (count.toNat + 1)).map fun i => (bitsAt v (64 * i) 8, bitsAt v (64 * i + 32) 32)
    (gateListRefusal es ns.toNat cycle.toNat = none)) ∧
    (∃ (port : Nat) (l : GateList) (sw : Nat) (s : State), (port < 8) ∧ ((s.gate port).pending = some (l, sw)) ∧ (sw ≤ s.now)) ∧
    (∃ (port : Nat) (s : State), (port < 8) ∧ (((s.gate port).pending = none ∨ ∃ p, (s.gate port).pending = some p ∧ s.now < p.2))) ∧
    (∃ (port : Nat) (l : GateList) (s : State), (port < 8) ∧ ((s.gate port).oper = some l) ∧ (((s.gate port).entry ≠ (l.at_ s.now).1 ∨ (s.gate port).gates ≠ (l.at_ s.now).2.1))) ∧
    (∃ (h : CmdHdr) (flow : BitVec 11) (k : BitVec 4) (rate : BitVec 40) (burst : BitVec 24) (s : State), (s.ready (.shaperSet h flow k rate burst) h) ∧ ((s.eflow flow.toNat).bound = true) ∧ (burst ≠ 0) ∧ (s.largestFrame (s.eflow flow.toNat) + 20 ≤ burst.toNat) ∧ (rate.toNat ≤ 100000000000)) ∧
    (∃ (h : CmdHdr) (flow : BitVec 11) (k : BitVec 4) (rate : BitVec 40) (burst : BitVec 24) (s : State), (s.ready (.shaperSet h flow k rate burst) h) ∧ ((s.eflow flow.toNat).bound = false)) ∧
    (∃ (h : CmdHdr) (flow : BitVec 11) (k : BitVec 4) (rate : BitVec 40) (burst : BitVec 24) (s : State), (s.ready (.shaperSet h flow k rate burst) h) ∧ ((s.eflow flow.toNat).bound = true) ∧ (burst = 0)) ∧
    (∃ (flow : Nat) (n : Nat) (s : State), (flow < 2048) ∧ ((s.eflow flow).bound = true) ∧ ((s.eflow flow).pendSet = none) ∧ ((s.eflow flow).rate ≠ 0) ∧ ((s.eflow flow).lastRef ≤ s.ptpTicks) ∧ (n = s.ptpTicks / 2 ^ (s.eflow flow).k - (s.eflow flow).lastRef / 2 ^ (s.eflow flow).k) ∧ (n ≠ 0)) :=
  ⟨⟨hdr, 7, 0, 0x8000, 5, 0, 1000000, (0xFF + 1000000 * 2 ^ 32), (fetch (up.hostWrite 0x8000 8 (0xFF + 1000000 * 2 ^ 32)) (.gateListLoad (hdr) (7) (0) (0x8000) (5) (0) (1000000)) (hdr)), by unfold State.ready; decide +kernel⟩,
   ⟨7, { entries := [(1, 500000), (0xFE, 500000)], cycle := 1000000 }, 2000000, (atNs (up.modGate 7 fun g => { g with pending := some ({ entries := [(1, 500000), (0xFE, 500000)], cycle := 1000000 }, 2000000) }) 2000000), by decide +kernel⟩,
   ⟨7, up, by decide +kernel⟩,
   ⟨7, { entries := [(1, 500000), (0xFE, 500000)], cycle := 1000000 }, (atNs (up.modGate 7 fun g => { g with oper := some { entries := [(1, 500000), (0xFE, 500000)], cycle := 1000000 } }) 500000), by decide +kernel⟩,
   ⟨hdr, 2047, 4, 1000000000, 9236, (fetch (up.modEflow 2047 fun f => { f with bound := true }) (.shaperSet (hdr) (2047) (4) (1000000000) (9236)) (hdr)), by unfold State.ready; decide +kernel⟩,
   ⟨hdr, 2047, 4, 1000000000, 9236, (fetch (up) (.shaperSet (hdr) (2047) (4) (1000000000) (9236)) (hdr)), by unfold State.ready; decide +kernel⟩,
   ⟨hdr, 2047, 4, 1000000000, 0, (fetch (up.modEflow 2047 fun f => { f with bound := true }) (.shaperSet (hdr) (2047) (4) (1000000000) (0)) (hdr)), by unfold State.ready; decide +kernel⟩,
   ⟨2047, 1, ((atNs up 1000).modEflow 2047 fun f => { f with bound := true, rate := 1000000000, burst := 5000, k := (List.range 20).findIdx fun k => (atNs up 1000).ptpTicks / 2 ^ k = 1 }), by decide +kernel⟩⟩

/-- `SubscriptionsAndIntervals`: a state and operands that meet the hypotheses of each clause in turn. -/
theorem test_SubscriptionsAndIntervals :
    (∃ (h : CmdHdr) (qid : BitVec 18) (kind : BitVec 2) (source : BitVec 11) (classes : BitVec 3) (ms : BitVec 14) (us : BitVec 10) (s : State), (s.ready (.statsSubscribe h qid kind source classes ms us) h) ∧ ((kind = 0 → s.chanWaits h.sq source.toNat = false ∧ (s.channel source.toNat).state ≠ .idle ∧ classes ≠ 0 ∧ (bitAt classes.toNat 2 = true → bitAt classes.toNat 1 = true))) ∧ ((kind ≠ 0 → ms ≠ 0 ∧ ms.toNat ≤ 10000)) ∧ (s.subSourceCheck qid.toNat kind.toNat source.toNat = none) ∧
    let mine (v : Sub) : Bool := decide (v.kind = kind.toNat) && decide (v.source = source.toNat)
    ((s.codec.subs.any (fun v => mine v && decide (v.qid = qid.toNat)) = true ∨ ((s.codec.subs.filter mine).length < 4 ∧ s.codec.subs.length < 4096))) ∧ ((kind = 0 ∨ s.codec.subs.any (fun v => mine v && decide (v.qid = qid.toNat)) = false))) ∧
    (∃ (h : CmdHdr) (qid : BitVec 18) (kind : BitVec 2) (source : BitVec 11) (classes : BitVec 3) (ms : BitVec 14) (us : BitVec 10) (v : Sub) (s : State), (s.ready (.statsSubscribe h qid kind source classes ms us) h) ∧ (kind ≠ 0) ∧ (ms ≠ 0) ∧ (ms.toNat ≤ 10000) ∧ (s.subSourceCheck qid.toNat kind.toNat source.toNat = none) ∧ ((s.codec.subs.filter fun v => decide (v.kind = kind.toNat) && decide (v.source = source.toNat) && decide (v.qid = qid.toNat)) = [v])) ∧
    (∃ (h : CmdHdr) (qid : BitVec 18) (kind : BitVec 2) (source : BitVec 11) (s : State), (s.ready (.statsUnsubscribe h qid kind source) h) ∧ ((kind = 0 → s.chanWaits h.sq source.toNat = false)) ∧ (s.subSourceCheck qid.toNat kind.toNat source.toNat = none) ∧ ((kind = 0 → (s.channel source.toNat).state ≠ .idle))) ∧
    (∃ (kind : Nat) (source : Nat) (v : Sub) (s : State), (((kind = 1 ∧ source < 2048) ∨ (kind = 2 ∧ source < 8))) ∧ ((s.codec.subs.filter fun x => decide (x.kind = kind) && decide (x.source = source) && decide (x.ends ≤ s.now)) = [v]) ∧ ((s.codec.subs.filter fun x => decide (x.kind ≠ 0) && decide (x.ends ≤ s.now) && decide (x.qid = v.qid)) = [v]) ∧ (s.now < v.ends + v.span) ∧ (v.interval ≠ 0)) :=
  ⟨⟨hdr, 65540, 2, 7, 0, 10000, 5, (fetch (up.modQueue 65540 fun _ => { valid := true, ty := .hsr, log2 := 4 }) (.statsSubscribe (hdr) (65540) (2) (7) (0) (10000) (5)) (hdr)), by unfold State.ready; decide +kernel⟩,
   ⟨hdr, 65540, 2, 7, 0, 10000, 5, { kind := 2, source := 7, qid := 65540 }, (fetch ({ up.modQueue 65540 fun _ => { valid := true, ty := .hsr, log2 := 4 } with codec := { up.codec with subs := [{ kind := 2, source := 7, qid := 65540 }] } }) (.statsSubscribe (hdr) (65540) (2) (7) (0) (10000) (5)) (hdr)), by unfold State.ready; decide +kernel⟩,
   ⟨hdr, 65540, 2, 7, (fetch ({ up.modQueue 65540 fun _ => { valid := true, ty := .hsr, log2 := 4 } with codec := { up.codec with subs := [{ kind := 2, source := 7, qid := 65540 }] } }) (.statsUnsubscribe (hdr) (65540) (2) (7)) (hdr)), by unfold State.ready; decide +kernel⟩,
   ⟨2, 7, { kind := 2, source := 7, qid := 65540, interval := 1 }, (atNs { up.modQueue 65540 fun _ => { valid := true, ty := .hsr, log2 := 4 } with codec := { up.codec with subs := [{ kind := 2, source := 7, qid := 65540, interval := 1 }] } } 1000000), by decide +kernel⟩⟩

/-- `LoadsOfStoresAndFirmware`: a state and operands that meet the hypotheses of each clause in turn. -/
theorem test_LoadsOfStoresAndFirmware :
    (∃ (h : CmdHdr) (mask : BitVec 8) (addr : Word64) (len : BitVec 24) (l : List Nat) (s : State), (s.ready (.prickingLoad h mask addr len) h) ∧ (h.sq = 0) ∧ ((s.prkLoad.any fun l => decide (l.mask &&& mask.toNat ≠ 0)) = false) ∧ (mask ≠ 0) ∧ (s.host.deferred.length < 16) ∧ ((s.taken h).readContainer addr.toNat len.toNat = .inr l) ∧ ((s.taken h).prkRefusal mask.toNat l = none)) ∧
    (∃ (h : CmdHdr) (mask : BitVec 8) (addr : Word64) (len : BitVec 24) (s : State), (s.ready (.prickingLoad h mask addr len) h) ∧ (h.sq = 0) ∧ ((s.prkLoad.any fun l => decide (l.mask &&& mask.toNat ≠ 0)) = false) ∧ (mask ≠ 0) ∧ (16 ≤ s.host.deferred.length)) ∧
    (∃ (l : PrkLoad) (rest : List PrkLoad) (s : State), (s.prkLoad = l :: rest) ∧
    let u := ({ s with prkLoad := rest }.modStores l.mask fun p => p.write l).modStores l.mask fun p => { p with lastStatus := St.ok }
    ((u.findDeferred fun o => decide (o = .prickingLoad l.mask)) = none)) ∧
    (∃ (l : PrkLoad) (rest : List PrkLoad) (s : State) (d : _), (s.prkLoad = l :: rest) ∧
    let u := ({ s with prkLoad := rest }.modStores l.mask fun p => p.write l).modStores l.mask fun p => { p with lastStatus := St.ok }
    ((u.findDeferred fun o => decide (o = .prickingLoad l.mask)) = some d)) ∧
    (∃ (h : CmdHdr) (customer : Bool) (addr : Word64) (len : BitVec 24) (l : List Nat) (s : State), (s.ready (.firmwareLoad h customer addr len) h) ∧ (h.sq = 0) ∧ ((s.fw.load.any fun l => decide (l.1 = customer)) = false) ∧ (s.host.deferred.length < 16) ∧ ((s.taken h).readContainer addr.toNat len.toNat = .inr l) ∧ ((s.taken h).fwRefusal customer l = none)) ∧
    (∃ (h : CmdHdr) (customer : Bool) (addr : Word64) (len : BitVec 24) (s : State), (s.ready (.firmwareLoad h customer addr len) h) ∧ (h.sq = 0) ∧ ((s.fw.load.any fun l => decide (l.1 = customer)) = false) ∧ (16 ≤ s.host.deferred.length)) ∧
    (∃ (customer : Bool) (body : List Nat) (version : Nat) (rest : List (Bool × List Nat × Nat)) (s : State), (s.fw.load = (customer, body, version) :: rest) ∧
    let u := ({ s with fw := { s.fw with load := rest } } : State).placeFirmware customer body version
    let u := if customer then u else { u with time := u.time.fwRestart u.now }
    ((u.findDeferred fun o => decide (o = .firmwareLoad customer)) = none)) ∧
    (∃ (customer : Bool) (body : List Nat) (version : Nat) (rest : List (Bool × List Nat × Nat)) (s : State) (d : _), (s.fw.load = (customer, body, version) :: rest) ∧
    let u := ({ s with fw := { s.fw with load := rest } } : State).placeFirmware customer body version
    let u := if customer then u else { u with time := u.time.fwRestart u.now }
    ((u.findDeferred fun o => decide (o = .firmwareLoad customer)) = some d)) ∧
    (∃ (customer : Bool) (body : List Nat) (version : Nat) (rest : List (Bool × List Nat × Nat)) (s : State), (s.fw.load = (customer, body, version) :: rest) ∧ (customer = true)) ∧
    (∃ (customer : Bool) (body : List Nat) (version : Nat) (rest : List (Bool × List Nat × Nat)) (s : State), (s.fw.load = (customer, body, version) :: rest) ∧ (customer = false) ∧ (s.time.servo = .locked)) ∧
    (∃ (customer : Bool) (body : List Nat) (version : Nat) (rest : List (Bool × List Nat × Nat)) (s : State), (s.fw.load = (customer, body, version) :: rest) ∧ (customer = false)) ∧
    (∃ (customer : Bool) (body : List Nat) (version : Nat) (rest : List (Bool × List Nat × Nat)) (s : State), (s.fw.load = (customer, body, version) :: rest)) :=
  ⟨⟨hdr, 1, 0x8000, 216, openImage, (fetch (withBytes openImage) (.prickingLoad (hdr) (1) (0x8000) (216)) (hdr)), by unfold State.ready; decide +kernel⟩,
   ⟨hdr, 1, 0x8000, 512, (fetch (full16) (.prickingLoad (hdr) (1) (0x8000) (512)) (hdr)), by unfold State.ready; decide +kernel⟩,
   ⟨⟨1, false, false, [(0, 5)], 0, 0⟩, [], { up with prkLoad := [⟨1, false, false, [(0, 5)], 0, 0⟩] }, by decide +kernel⟩,
   ⟨⟨1, false, false, [(0, 5)], 0, 0⟩, [], { up with prkLoad := [⟨1, false, false, [(0, 5)], 0, 0⟩], host := { up.host with deferred := [⟨0, 1, 4, .prickingLoad 1, 0⟩] } }, ⟨0, 1, 4, .prickingLoad 1, 0⟩, by decide +kernel⟩,
   ⟨hdr, true, 0x8000, 200, (container 3 0 0 [0, 0, 0, 0, 0, 0, 0, 9]), (fetch (withBytes (container 3 0 0 [0, 0, 0, 0, 0, 0, 0, 9])) (.firmwareLoad (hdr) (true) (0x8000) (200)) (hdr)), by unfold State.ready; decide +kernel⟩,
   ⟨hdr, true, 0x8000, 512, (fetch (full16) (.firmwareLoad (hdr) (true) (0x8000) (512)) (hdr)), by unfold State.ready; decide +kernel⟩,
   ⟨true, ([1, 2]), 9, [], { up with fw := { up.fw with load := [(true, [1, 2], 9)] } }, by decide +kernel⟩,
   ⟨true, ([1, 2]), 9, [], { up with fw := { up.fw with load := [(true, [1, 2], 9)] }, host := { up.host with deferred := [⟨0, 1, 4, .firmwareLoad true, 0⟩] } }, ⟨0, 1, 4, .firmwareLoad true, 0⟩, by decide +kernel⟩,
   ⟨true, ([1, 2]), 9, [], { up with fw := { up.fw with load := [(true, [1, 2], 9)] } }, by decide +kernel⟩,
   ⟨false, ([1, 2]), 9, [], { up with time := { up.time with servo := .locked }, fw := { up.fw with load := [(false, [1, 2], 9)] } }, by decide +kernel⟩,
   ⟨false, ([1, 2]), 9, [], { up with time := { up.time with servo := .locked }, fw := { up.fw with load := [(false, [1, 2], 9)] } }, by decide +kernel⟩,
   ⟨true, ([1, 2]), 9, [], { up with fw := { up.fw with load := [(true, [1, 2], 9)] } }, by decide +kernel⟩⟩

/-- `TimeControlTakesItsSettings`: a state and operands that meet the hypotheses of each clause in turn. -/
theorem test_TimeControlTakesItsSettings :
    (∃ (h : CmdHdr) (p : ClockArgs) (s : State), (s.ready (.timeControlClock h p) h) ∧ (h.sq = 0) ∧ (p.domain.toNat ≤ 127) ∧ (p.role ≠ 3)) ∧
    (∃ (h : CmdHdr) (p : ClockArgs) (s : State), (s.ready (.timeControlClock h p) h) ∧ (h.sq = 0) ∧ ((127 < p.domain.toNat ∨ p.role = 3))) ∧
    (∃ (h : CmdHdr) (p : PtpPortArgs) (s : State), (s.ready (.timeControlPort h p) h) ∧ (h.sq = 0) ∧ (p.transport ≠ 3) ∧
    let an := signedByte p.logAnnounce
    let sy := signedByte p.logSync
    let dr := signedByte p.logDelayReq
    (an ≤ 1) ∧ (-3 ≤ an) ∧ (-7 ≤ sy) ∧ (sy ≤ -1) ∧ (sy ≤ dr) ∧ (dr ≤ sy + 5) ∧ (2 ≤ p.announceTimeout.toNat) ∧ (p.announceTimeout.toNat ≤ 10) ∧ ((p.enable = true → s.time.clock.role = 0 → ∀ e ∈ s.time.ports, e.2.enable = true → e.1 = p.port.toNat))) ∧
    (∃ (h : CmdHdr) (p : PtpPortArgs) (s : State), (s.ready (.timeControlPort h p) h) ∧ (h.sq = 0) ∧ (p.transport = 3)) ∧
    (∃ (h : CmdHdr) (p : ReferenceArgs) (s : State), (s.ready (.timeControlReference h p) h) ∧ (h.sq = 0) ∧ (p.lockNs ≠ 0) ∧ (p.lockNs.toNat < p.unlockNs.toNat) ∧ (1000 ≤ p.stepNs.toNat) ∧ (p.rateLimitPpm ≠ 0) ∧ (p.rateLimitPpm.toNat ≤ 1000)) ∧
    (∃ (h : CmdHdr) (p : ReferenceArgs) (s : State), (s.ready (.timeControlReference h p) h) ∧ (h.sq = 0) ∧ ((p.lockNs = 0 ∨ p.unlockNs.toNat ≤ p.lockNs.toNat))) ∧
    (∃ (h : CmdHdr) (relative : Bool) (force : Bool) (sec : BitVec 64) (ns : BitVec 32) (s : State), (s.ready (.setTime h relative force sec ns) h) ∧ (h.sq = 0) ∧ ((relative = true ∨ ns.toNat < 1000000000)) ∧ (s.time.follower = false) ∧ ((s.anyLive = false ∨ force = true))) ∧
    (∃ (h : CmdHdr) (relative : Bool) (force : Bool) (sec : BitVec 64) (ns : BitVec 32) (s : State), (s.ready (.setTime h relative force sec ns) h) ∧ (h.sq = 0) ∧ ((relative = true ∨ ns.toNat < 1000000000)) ∧ ((s.time.follower = true ∨ (s.anyLive = true ∧ force = false)))) ∧
    (∃ (h : CmdHdr) (p : TimecodeArgs) (s : State), (s.ready (.timecode h p) h) ∧ (h.sq = 0)) :=
  ⟨⟨hdr, (clockArgs 127), (fetch (up) (.timeControlClock (hdr) (clockArgs 127)) (hdr)), by unfold State.ready; decide +kernel⟩,
   ⟨hdr, (clockArgs 128), (fetch (up) (.timeControlClock (hdr) (clockArgs 128)) (hdr)), by unfold State.ready; decide +kernel⟩,
   ⟨hdr, (portArgs 0), (fetch ({ up with time := { up.time with ports := [(7, { enable := true })] } }) (.timeControlPort (hdr) (portArgs 0)) (hdr)), by unfold State.ready; decide +kernel⟩,
   ⟨hdr, (portArgs 3), (fetch (up) (.timeControlPort (hdr) (portArgs 3)) (hdr)), by unfold State.ready; decide +kernel⟩,
   ⟨hdr, ⟨0, false, false, 1000, 1001, 1000, 1000⟩, (fetch (up) (.timeControlReference (hdr) (⟨0, false, false, 1000, 1001, 1000, 1000⟩)) (hdr)), by unfold State.ready; decide +kernel⟩,
   ⟨hdr, ⟨0, false, false, 1000, 1000, 1000, 1000⟩, (fetch (up) (.timeControlReference (hdr) (⟨0, false, false, 1000, 1000, 1000, 1000⟩)) (hdr)), by unfold State.ready; decide +kernel⟩,
   ⟨hdr, true, true, (2 ^ 64 - 5), 999999999, (fetch (chan up 3 { state := .running }) (.setTime (hdr) (true) (true) (2 ^ 64 - 5) (999999999)) (hdr)), by unfold State.ready; decide +kernel⟩,
   ⟨hdr, false, false, 5, 999999999, (fetch (chan up 3 { state := .running }) (.setTime (hdr) (false) (false) (5) (999999999)) (hdr)), by unfold State.ready; decide +kernel⟩,
   ⟨hdr, ⟨0, 0, 0, 0, 0, false, false, true, 37⟩, (fetch (up) (.timecode (hdr) (⟨0, 0, 0, 0, 0, false, false, true, 37⟩)) (hdr)), by unfold State.ready; decide +kernel⟩⟩

/-- `QueriesAndResetsFromTheHost`: a state and operands that meet the hypotheses of each clause in turn. -/
theorem test_QueriesAndResetsFromTheHost :
    (∃ (h : CmdHdr) (obj : BitVec 18) (addr : Word64) (len : BitVec 24) (s : State), (h.badCopies = 0) ∧ (s.canTake (.query h 0 obj addr len) h = true) ∧ (64 ≤ len.toNat)) ∧
    (∃ (h : CmdHdr) (obj : BitVec 18) (addr : Word64) (len : BitVec 24) (s : State), (h.badCopies = 0) ∧ (s.canTake (.query h 2 obj addr len) h = true) ∧ (16 ≤ len.toNat)) ∧
    (∃ (h : CmdHdr) (obj : BitVec 18) (addr : Word64) (len : BitVec 24) (s : State), (h.badCopies = 0) ∧ (s.canTake (.query h 4 obj addr len) h = true) ∧ (16 * min s.flt.logTotal 256 ≤ len.toNat) ∧ (len ≠ 0)) ∧
    (∃ (h : CmdHdr) (obj : BitVec 18) (addr : Word64) (len : BitVec 24) (s : State), (h.badCopies = 0) ∧ (s.canTake (.query h 5 obj addr len) h = true) ∧ (64 ≤ len.toNat)) ∧
    (∃ (h : CmdHdr) (obj : BitVec 18) (addr : Word64) (len : BitVec 24) (s : State), (h.badCopies = 0) ∧ (s.chanWaits h.sq obj.toNat = false) ∧ (obj.toNat < 128) ∧ ((s.channel obj.toNat).state ≠ .idle) ∧ (s.canTake (.query h 1 obj addr len) h = true) ∧ (192 ≤ len.toNat)) ∧
    (∃ (h : CmdHdr) (obj : BitVec 18) (addr : Word64) (len : BitVec 24) (s : State), (h.badCopies = 0) ∧ (s.chanWaits h.sq obj.toNat = false) ∧ (obj.toNat < 128) ∧ ((s.channel obj.toNat).state ≠ .idle) ∧
    let u := s.taken h
    let g := u.gmBytes
    (s.canTake (.query h 3 obj addr len) h = true) ∧ ((s.channel obj.toNat).decode = false) ∧ ((g.2.sdpText obj.toNat g.1).length ≤ len.toNat) ∧ (len ≠ 0)) ∧
    (∃ (h : CmdHdr) (sel : BitVec 4) (obj : BitVec 18) (addr : Word64) (len : BitVec 24) (s : State), (s.canTake (.query h sel obj addr len) h = true) ∧ (h.badCopies = 0) ∧ ((sel = 1 ∨ sel = 3 → s.chanWaits h.sq obj.toNat = false)) ∧ (len = 0)) ∧
    (∃ (h : CmdHdr) (sel : BitVec 4) (obj : BitVec 18) (addr : Word64) (len : BitVec 24) (s : State), (s.canTake (.query h sel obj addr len) h = true) ∧ (h.badCopies = 0) ∧ ((sel = 1 ∨ sel = 3 → s.chanWaits h.sq obj.toNat = false)) ∧ (len ≠ 0) ∧ ((sel = 1 ∨ sel = 3)) ∧ (128 ≤ obj.toNat)) ∧
    (∃ (h : CmdHdr) (sel : BitVec 4) (obj : BitVec 18) (addr : Word64) (len : BitVec 24) (s : State), (s.canTake (.query h sel obj addr len) h = true) ∧ (h.badCopies = 0) ∧ ((sel = 1 ∨ sel = 3 → s.chanWaits h.sq obj.toNat = false)) ∧ (len ≠ 0) ∧ ((sel = 1 ∨ sel = 3)) ∧ (obj.toNat < 128) ∧ ((s.channel obj.toNat).state = .idle)) ∧
    (∃ (h : CmdHdr) (sel : BitVec 4) (obj : BitVec 18) (addr : Word64) (len : BitVec 24) (s : State), (s.canTake (.query h sel obj addr len) h = true) ∧ (h.badCopies = 0) ∧ ((sel = 1 ∨ sel = 3 → s.chanWaits h.sq obj.toNat = false)) ∧ (len ≠ 0) ∧ (6 ≤ sel.toNat)) ∧
    (∃ (h : CmdHdr) (sel : BitVec 4) (obj : BitVec 18) (addr : Word64) (len : BitVec 24) (s : State), (s.canTake (.query h sel obj addr len) h = true) ∧ (h.badCopies = 0) ∧ ((sel = 1 ∨ sel = 3 → s.chanWaits h.sq obj.toNat = false)) ∧ (len ≠ 0) ∧ (((sel = 0 ∨ sel = 5) ∧ len.toNat < 64 ∨ sel = 2 ∧ len.toNat < 16 ∨
        sel = 1 ∧ len.toNat < 192 ∧ obj.toNat < 128 ∧ (s.channel obj.toNat).state ≠ .idle ∨ sel = 4 ∧ len.toNat < 16 * min s.flt.logTotal 256))) ∧
    (∃ (h : CmdHdr) (level : BitVec 2) (s : State), (s.canTake (.reset h level) h = true) ∧ (s.noRoom 1 = false) ∧ (h.sq = 0) ∧ (h.badCopies = 0) ∧ ((level = 1 ∨ level = 2))) ∧
    (∃ (h : CmdHdr) (level : BitVec 2) (s : State), (s.canTake (.reset h level) h = true) ∧ (s.noRoom 1 = false) ∧ (h.sq = 0) ∧ (h.badCopies = 0) ∧ ((level = 0 ∨ level = 3))) ∧
    (∃ (level : BitVec 8) (key : BitVec 24), (key = 0x525354) ∧ ((level = 1 ∨ level = 2))) ∧
    (∃ (level : BitVec 8) (key : BitVec 24), ((key ≠ 0x525354 ∨ (level ≠ 1 ∧ level ≠ 2)))) :=
  ⟨⟨hdr, 0, 0x9000, 64, (fetch (up) (.query (hdr) 0 (0) (0x9000) (64)) (hdr)), by decide +kernel⟩,
   ⟨hdr, 0, 0x9000, 16, (fetch (up) (.query (hdr) 2 (0) (0x9000) (16)) (hdr)), by decide +kernel⟩,
   ⟨hdr, 0, 0x9000, 4096, (fetch (up) (.query (hdr) 4 (0) (0x9000) (4096)) (hdr)), by decide +kernel⟩,
   ⟨hdr, 0, 0x9000, 64, (fetch (up) (.query (hdr) 5 (0) (0x9000) (64)) (hdr)), by decide +kernel⟩,
   ⟨hdr, 127, 0x9000, 192, (fetch (chan up 127 { state := .running }) (.query (hdr) 1 (127) (0x9000) (192)) (hdr)), by decide +kernel⟩,
   ⟨hdr, 127, 0x9000, 0xFFFFFF, (fetch (chan up 127 { state := .configured }) (.query (hdr) 3 (127) (0x9000) (0xFFFFFF)) (hdr)), by decide +kernel⟩,
   ⟨hdr, 15, 0, 0x9000, 0, (fetch (up) (.query (hdr) (15) (0) (0x9000) (0)) (hdr)), by decide +kernel⟩,
   ⟨hdr, 3, 128, 0x9000, 1, (fetch (up) (.query (hdr) (3) (128) (0x9000) (1)) (hdr)), by decide +kernel⟩,
   ⟨hdr, 3, 127, 0x9000, 1, (fetch (up) (.query (hdr) (3) (127) (0x9000) (1)) (hdr)), by decide +kernel⟩,
   ⟨hdr, 6, 0, 0x9000, 1, (fetch (up) (.query (hdr) (6) (0) (0x9000) (1)) (hdr)), by decide +kernel⟩,
   ⟨hdr, 5, 0, 0x9000, 63, (fetch (up) (.query (hdr) (5) (0) (0x9000) (63)) (hdr)), by decide +kernel⟩,
   ⟨hdr, 2, (fetch (up) (.reset (hdr) (2)) (hdr)), by decide +kernel⟩,
   ⟨hdr, 3, (fetch (up) (.reset (hdr) (3)) (hdr)), by decide +kernel⟩,
   ⟨2, 0x525354, by decide +kernel⟩,
   ⟨3, 0x525354, by decide +kernel⟩⟩

/-- `TwinCommands`: a state and operands that meet the hypotheses of each clause in turn. -/
theorem test_TwinCommands :
    (∃ (h : CmdHdr) (s : State), (h.sq = 0) ∧ (s.twinOut = false) ∧ (s.host.deferred.length < 16) ∧ (s.twin.peerHello = none) ∧ (s.ready (.twinStart h) h) ∧ (s.twin.phase = .disabled) ∧ (s.encodeLive = false)) ∧
    (∃ (h : CmdHdr) (s : State), (h.sq = 0) ∧ (s.twinOut = false) ∧ (s.host.deferred.length < 16) ∧ (s.twin.peerHello = none) ∧ (s.ready (.rejoin h) h) ∧ (s.twin.phase = .survivor)) ∧
    (∃ (h : CmdHdr) (s : State), (h.sq = 0) ∧ (s.twinOut = false) ∧ (s.host.deferred.length < 16) ∧ (s.twin.peerHello = none) ∧ (s.ready (.rejoin h) h) ∧ (s.twin.phase = .disabled)) ∧
    (∃ (h : CmdHdr) (s : State), (s.ready (.twinStop h) h) ∧ (h.sq = 0) ∧ ((s.findDeferred fun o => decide (o = .twinYield)) = none) ∧ ((s.twin.phase = .disabled ∨ s.encodeLive = false)) ∧ (s.twinStartOut = none) ∧ (s.time.follower = false)) ∧
    (∃ (h : CmdHdr) (s : State), (s.ready (.twinStop h) h) ∧ (h.sq = 0) ∧ ((s.findDeferred fun o => decide (o = .twinYield)) = none) ∧ (s.twin.phase ≠ .disabled) ∧ (s.encodeLive = true)) ∧
    (∃ (h : CmdHdr) (c : Nat) (x : Channel) (s : State), (s.ready (.yield h) h) ∧ (h.sq = 0) ∧ (s.twinOut = false) ∧ (s.twin.phase = .twinned) ∧ (s.host.deferred.length < 16) ∧ (s.codec.channels = [(c, x)]) ∧ (x.decode = false) ∧ (x.state = .running)) ∧
    (∃ (h : CmdHdr) (s : State), (h.sq = 0) ∧ (s.twinOut = false) ∧ (s.ready (.resetPeer h) h) ∧ ((s.twin.phase = .twinned ∨ s.twin.phase = .survivor)) ∧ (s.twin.link.up = true)) ∧
    (∃ (h : CmdHdr) (s : State), (h.sq = 0) ∧ (s.twinOut = false) ∧ (s.ready (.resetPeer h) h) ∧ ((s.twin.link.up = false ∨ (s.twin.phase ≠ .twinned ∧ s.twin.phase ≠ .survivor)))) ∧
    (∃ (h : CmdHdr) (s : State), (h.sq = 0) ∧ (s.twinOut = false) ∧ (s.ready (.yield h) h) ∧ (s.twin.phase ≠ .twinned)) ∧
    (∃ (h : CmdHdr) (s : State), (h.sq = 0) ∧ (s.twinOut = false) ∧ (s.ready (.twinStart h) h) ∧ ((s.twin.phase ≠ .disabled ∨ s.encodeLive = true))) ∧
    (∃ (h : CmdHdr) (s : State), (h.sq = 0) ∧ (s.twinOut = false) ∧ (s.ready (.rejoin h) h) ∧ (s.twin.phase ≠ .disabled) ∧ (s.twin.phase ≠ .survivor)) :=
  ⟨⟨hdr, (fetch (up) (.twinStart (hdr)) (hdr)), by unfold State.ready; decide +kernel⟩,
   ⟨hdr, (fetch (inPhase .survivor) (.rejoin (hdr)) (hdr)), by unfold State.ready; decide +kernel⟩,
   ⟨hdr, (fetch (up) (.rejoin (hdr)) (hdr)), by unfold State.ready; decide +kernel⟩,
   ⟨hdr, (fetch (inPhase .twinned) (.twinStop (hdr)) (hdr)), by unfold State.ready; decide +kernel⟩,
   ⟨hdr, (fetch (chan twinned 3 { state := .running }) (.twinStop (hdr)) (hdr)), by unfold State.ready; decide +kernel⟩,
   ⟨hdr, 3, { state := .running }, (fetch (chan twinned 3 { state := .running }) (.yield (hdr)) (hdr)), by unfold State.ready; decide +kernel⟩,
   ⟨hdr, (fetch (inPhase .survivor) (.resetPeer (hdr)) (hdr)), by unfold State.ready; decide +kernel⟩,
   ⟨hdr, (fetch ({ inPhase .survivor with twin := { (inPhase .survivor).twin with link := {} } }) (.resetPeer (hdr)) (hdr)), by unfold State.ready; decide +kernel⟩,
   ⟨hdr, (fetch (up) (.yield (hdr)) (hdr)), by unfold State.ready; decide +kernel⟩,
   ⟨hdr, (fetch (chan up 3 { state := .running }) (.twinStart (hdr)) (hdr)), by unfold State.ready; decide +kernel⟩,
   ⟨hdr, (fetch (inPhase .yielded) (.rejoin (hdr)) (hdr)), by unfold State.ready; decide +kernel⟩⟩

/-- `TwilanLinkEvents`: a state and operands that meet the hypotheses of each clause in turn (clauses 1, 2, 3, 4, 5, 6, 8, 9, 10, 11, 12, 13). -/
theorem test_TwilanLinkEvents :
    (∃ (s : State), (s.twin.link.up = false)) ∧
    (∃ (s : State), (s.twin.link.up = true)) ∧
    (∃ (s : State), (s.twin.link.up = false)) ∧
    (∃ (s : State), (s.twin.link.up = true) ∧ (s.flt.safe = false) ∧ (s.twin.link.waiting = []) ∧ (s.twin.link.lastTx + 500 ≤ s.now)) ∧
    (∃ (o : TwFrame) (rest : List TwFrame) (s : State), (s.twin.link.up = true) ∧ (s.flt.safe = false) ∧ (s.twin.link.outstanding = o :: rest) ∧ (o.fseq < 65536) ∧ (o.sentAt + 4000 ≤ s.now) ∧ ((∀ p ∈ rest, p.fseq ≠ o.fseq))) ∧
    (∃ (msg : Option TwMsg), (msg.isSome = true)) ∧
    (∃ (f : RxTwilan) (s : State), (s.twin.link.up = true) ∧ (twHcrcOk f = false)) ∧
    (∃ (f : RxTwilan) (s : State), (s.twin.link.up = true) ∧ (twHcrcOk f = true) ∧ (twPcrcOk f = false) ∧ ((twHdrClass f.hdr = 0 ∨ s.twin.link.accepted (twHdrFseq f.hdr) = true))) ∧
    (∃ (f : RxTwilan) (s : State), (s.twin.link.up = true) ∧ (twHcrcOk f = true) ∧ (twPcrcOk f = true) ∧ (s.sessionOk f = false)) ∧
    (∃ (f : RxTwilan) (m : TwMsg) (cells : List Nat) (t : State) (s : State), (s.twin.link.up = true) ∧ (twHcrcOk f = true) ∧ (twPcrcOk f = true) ∧ (s.sessionOk f = true) ∧ (s.twin.link.outstanding = []) ∧ (s.twin.link.waiting = []) ∧ (s.twin.link.above = []) ∧ (twHdrNak f.hdr = false) ∧ (twHdrFseq f.hdr = s.twin.link.expect) ∧ (s.twin.link.expect < 65536) ∧ (twHdrVersion f.hdr = 1) ∧ (twHdrClass f.hdr ≠ 0) ∧ (twHdrClass f.hdr < 8) ∧ (twMessage f = some m) ∧ (State.allocCells (chainLen f.payload.length) s 18 [] = (t, some cells))) ∧
    (∃ (v : Nat) (f : RxTwilan), (v < 2 ^ 128) ∧ (twHdrClass f.hdr = 5) ∧ (f.payload = (recBytes v 16).map (BitVec.ofNat 8))) ∧
    (∃ (l : TwilanSt), (l.above = [])) :=
  ⟨⟨{ up with twin := { up.twin with phase := .linking } }, by decide +kernel⟩,
   ⟨twinned, by decide +kernel⟩,
   ⟨up, by decide +kernel⟩,
   ⟨(atNs twinned 500), by decide +kernel⟩,
   ⟨⟨65535, .bye, 0⟩, ([⟨5, .bye, 0⟩]), (atNs (twinned.modLink fun l => { l with outstanding := [⟨65535, .bye, 0⟩, ⟨5, .bye, 0⟩] }) 4000), by decide +kernel⟩,
   ⟨(some .bye), by decide +kernel⟩,
   ⟨⟨1, [], 0, none⟩, twinned, by decide +kernel⟩,
   ⟨⟨hdrOf 0 1, [], 1, none⟩, twinned, by decide +kernel⟩,
   ⟨⟨hdrOf 5 0, [], 0, none⟩, { twinned with twin := { twinned.twin with session := 5 } }, by decide +kernel⟩,
   ⟨⟨hdrOf 7 0, [], 0, some .bye⟩, .bye, ((State.allocCells 1 twinned 18 []).2.getD []), ((State.allocCells 1 twinned 18 []).1), twinned, by decide +kernel⟩,
   ⟨(2 ^ 128 - 1), ⟨0x15, (recBytes (2 ^ 128 - 1) 16).map (BitVec.ofNat 8), 0, none⟩, by decide +kernel⟩,
   ⟨{ expect := 65535 }, by decide +kernel⟩⟩

/-- `TwinStartSequence`: a state and operands that meet the hypotheses of each clause in turn. -/
theorem test_TwinStartSequence :
    (∃ (v : Nat) (session : Nat) (at_ : Nat) (ready : Bool) (leader : Bool) (cells : List Nat) (rest : List TwDelivered) (s : State),
    let d : TwDelivered := ⟨.hello v session ready leader, cells, at_⟩
    (s.twin.link.delivered = d :: rest)) ∧
    (∃ (version : Nat) (part : Nat) (firmware : Nat) (at_ : Nat) (vendor : List Nat) (opened : List Nat) (leader : Bool) (cells : List Nat) (rest : List TwDelivered) (s : State), (s.twin.phase = .checking) ∧
    let d : TwDelivered := ⟨.check version part leader vendor opened firmware, cells, at_⟩
    (s.twin.link.delivered = d :: rest) ∧
    let b := s.tookMsg d rest
    let cause := b.checkCause version part leader vendor opened firmware
    (cause ≠ 0)) ∧
    (∃ (version : Nat) (part : Nat) (firmware : Nat) (at_ : Nat) (vendor : List Nat) (opened : List Nat) (leader : Bool) (cells : List Nat) (rest : List TwDelivered) (s : State), (s.twin.phase = .checking) ∧
    let d : TwDelivered := ⟨.check version part leader vendor opened firmware, cells, at_⟩
    (s.twin.link.delivered = d :: rest) ∧
    let b := s.tookMsg d rest
    let cause := b.checkCause version part leader vendor opened firmware
    (cause = 0) ∧ (b.twin.follower = false)) ∧
    (∃ (version : Nat) (part : Nat) (firmware : Nat) (at_ : Nat) (vendor : List Nat) (opened : List Nat) (leader : Bool) (cells : List Nat) (rest : List TwDelivered) (s : State), (s.twin.phase = .checking) ∧
    let d : TwDelivered := ⟨.check version part leader vendor opened firmware, cells, at_⟩
    (s.twin.link.delivered = d :: rest) ∧
    let b := s.tookMsg d rest
    let cause := b.checkCause version part leader vendor opened firmware
    (cause = 0) ∧ (b.twin.follower = true)) ∧
    (∃ (s : State), (s.twin.follower = true) ∧ ((s.twin.phase = .locking ∨ s.twin.phase = .twinned)) ∧ ((∀ t, s.twin.timeSent = some t → t + 10000 ≤ s.now))) ∧
    (∃ (t : Nat) (s : State), ((s.twin.follower = false ∨ s.twin.timeSent = some t ∧ t ≤ s.now ∧ s.now < t + 10000))) ∧
    (∃ (t1 : Nat) (at_ : Nat) (cells : List Nat) (rest : List TwDelivered) (s : State),
    let d : TwDelivered := ⟨.timeRequest t1, cells, at_⟩
    (s.twin.link.delivered = d :: rest) ∧ ((s.tookMsg d rest).twin.follower = false)) ∧
    (∃ (t1 : Nat) (t2 : Nat) (t3 : Nat) (t4 : Nat) (cells : List Nat) (rest : List TwDelivered) (s : State),
    let d : TwDelivered := ⟨.timeResponse t1 t2 t3, cells, t4⟩
    (s.twin.link.delivered = d :: rest) ∧
    let b := s.tookMsg d rest
    let o : Int := Int.tdiv (((t4 : Int) - t3) - ((t2 : Int) - t1)) 2
    (b.twin.follower = true) ∧ (b.twin.phase = .twinned) ∧ (b.field Reg.timeCfg 0 1 = 1) ∧ (|o| ≤ 16)) ∧
    (∃ (t1 : Nat) (t2 : Nat) (t3 : Nat) (t4 : Nat) (cells : List Nat) (rest : List TwDelivered) (s : State),
    let d : TwDelivered := ⟨.timeResponse t1 t2 t3, cells, t4⟩
    (s.twin.link.delivered = d :: rest) ∧
    let b := s.tookMsg d rest
    let o : Int := Int.tdiv (((t4 : Int) - t3) - ((t2 : Int) - t1)) 2
    (b.twin.follower = true) ∧ (b.twin.phase = .twinned) ∧ (b.field Reg.timeCfg 0 1 = 0) ∧ (4000 < |o|) ∧ (b.twin.skewRun = 0)) ∧
    (∃ (at_ : Nat) (cells : List Nat) (rest : List TwDelivered) (s : State),
    let d : TwDelivered := ⟨.twinned, cells, at_⟩
    (s.twin.link.delivered = d :: rest) ∧
    let b := s.tookMsg d rest
    (b.twin.phase = .locking) ∧ (b.twin.follower = false)) ∧
    (∃ (c : Nat) (dg : Nat) (startNs : Nat) (at_ : Nat) (cells : List Nat) (rest : List TwDelivered) (s : State), (c < 128) ∧
    let d : TwDelivered := ⟨.arm c dg startNs, cells, at_⟩
    (s.twin.link.delivered = d :: rest) ∧
    let b := s.tookMsg d rest
    (b.startOf c = none) ∧ (b.twin.rejoin = false)) ∧
    (∃ (c : Nat) (dg : Nat) (startNs : Nat) (at_ : Nat) (cells : List Nat) (rest : List TwDelivered) (s : State) (k : Deferred) (join : Bool), (c < 128) ∧
    let d : TwDelivered := ⟨.arm c dg startNs, cells, at_⟩
    (s.twin.link.delivered = d :: rest) ∧
    let b := s.tookMsg d rest
    (b.startOf c = some k) ∧ (k.op = .channelStart c join) ∧ (b.ownArm c = some (dg, startNs))) ∧
    (∃ (c : Nat) (dg : Nat) (startNs : Nat) (at_ : Nat) (cells : List Nat) (rest : List TwDelivered) (s : State) (k : Deferred) (join : Bool) (own : _), (c < 128) ∧
    let d : TwDelivered := ⟨.arm c dg startNs, cells, at_⟩
    (s.twin.link.delivered = d :: rest) ∧
    let b := s.tookMsg d rest
    (b.startOf c = some k) ∧ (k.op = .channelStart c join) ∧ (b.ownArm c = some own) ∧ (own ≠ (dg, startNs))) ∧
    (∃ (c : Nat) (at_ : Nat) (cells : List Nat) (rest : List TwDelivered) (s : State), (c < 128) ∧
    let d : TwDelivered := ⟨.armWithdraw c, cells, at_⟩
    (s.twin.link.delivered = d :: rest)) ∧
    (∃ (k : Deferred) (c : Nat) (join : Bool) (s : State), (s.host.deferred = [k]) ∧ (k.op = .channelStart c join) ∧ (k.since + 10000000 * max 1 (s.field (Reg.twn + 8) 8 8) ≤ s.now)) ∧
    (∃ (k : Deferred) (s : State), (s.host.deferred = [k]) ∧ (k.op = .twinStart) ∧ (s.twin.phase = .linking) ∧ (s.twin.rejoin = false) ∧ (s.time.follower = false) ∧ (s.twin.startedAt + 10000000 * max 1 (s.field (Reg.twn + 8) 8 8) ≤ s.now)) :=
  ⟨⟨1, 9, 0, true, true, [], [], (withMsg { up with twin := { up.twin with phase := .linking, follower := true, link := { up.twin.link with up := true } } } ⟨.hello 1 9 true true, [], 0⟩), by decide +kernel⟩,
   ⟨9, 0, 0, 0, [], [], false, [], [], (withMsg (inPhase .checking) ⟨.check 9 0 false [] [] 0, [], 0⟩), by decide +kernel⟩,
   ⟨1, 0, up.fwDigest, 0, [], [], false, [], [], (withMsg (bare .checking false) ⟨.check 1 0 false [] [] up.fwDigest, [], 0⟩), rfl, rfl, by unfold State.checkCause; rw [if_neg (by decide +kernel), if_neg (by decide +kernel), if_neg (by decide +kernel), if_neg (by decide +kernel), if_neg (by decide +kernel), if_neg (fun h => h rfl)], rfl⟩,
   ⟨1, 0, up.fwDigest, 0, [], [], true, [], [], (withMsg (bare .checking true) ⟨.check 1 0 true [] [] up.fwDigest, [], 0⟩), rfl, rfl, by unfold State.checkCause; rw [if_neg (by decide +kernel), if_neg (by decide +kernel), if_neg (by decide +kernel), if_neg (by decide +kernel), if_neg (by decide +kernel), if_neg (fun h => h rfl)], rfl⟩,
   ⟨(followerIn .locking), by decide +kernel⟩,
   ⟨1, twinned, by decide +kernel⟩,
   ⟨5, 9, [], [], (withMsg twinned ⟨.timeRequest 5, [], 9⟩), by decide +kernel⟩,
   ⟨0, 116, 200, 300, [], [], (withMsg ((followerIn .twinned).setRegN Reg.timeCfg 1) ⟨.timeResponse 0 116 200, [], 300⟩), by decide +kernel⟩,
   ⟨0, 0, 0, 8002, [], [], (withMsg ((followerIn .twinned).setRegN Reg.timeCfg 0) ⟨.timeResponse 0 0 0, [], 8002⟩), by decide +kernel⟩,
   ⟨0, [], [], (withMsg (inPhase .locking) ⟨.twinned, [], 0⟩), by decide +kernel⟩,
   ⟨127, 7, 8, 0, [], [], (withMsg twinned ⟨.arm 127 7 8, [], 0⟩), by decide +kernel⟩,
   ⟨3, 7, 8, 0, [], [], (withMsg armed3 ⟨.arm 3 7 8, [], 0⟩), ⟨0, 1, 4, .channelStart 3 false, 0⟩, false, by decide +kernel⟩,
   ⟨3, 7, 9, 0, [], [], (withMsg armed3 ⟨.arm 3 7 9, [], 0⟩), ⟨0, 1, 4, .channelStart 3 false, 0⟩, false, ((7, 8)), by decide +kernel⟩,
   ⟨127, 0, [], [], (withMsg twinned ⟨.armWithdraw 127, [], 0⟩), by decide +kernel⟩,
   ⟨⟨0, 1, 4, .channelStart 3 false, 0⟩, 3, false, (atNs armed3 (10000000 * max 1 (armed3.field (Reg.twn + 8) 8 8))), by decide +kernel⟩,
   ⟨⟨0, 1, 4, .twinStart, 0⟩, (atNs (deferOne (inPhase .linking) ⟨0, 1, 4, .twinStart, 0⟩) (10000000 * max 1 (up.field (Reg.twn + 8) 8 8))), by decide +kernel⟩⟩

/-- `TwinIsWatchedAndLost`: a state and operands that meet the hypotheses of each clause in turn. -/
theorem test_TwinIsWatchedAndLost :
    (∃ (s : State),
    let at_ := s.now / 10000 * 10000
    (s.twin.link.up = true) ∧ (s.now % 10000 ≤ 40) ∧ (s.twin.hbSent ≠ some at_)) ∧
    (∃ (s : State), ((s.twin.link.up = false ∨ 40 < s.now % 10000 ∨ s.twin.hbSent = some (s.now / 10000 * 10000)))) ∧
    (∃ (v : Nat) (at_ : Nat) (cells : List Nat) (rest : List TwDelivered) (s : State),
    let d : TwDelivered := ⟨.heartbeat v, cells, at_⟩
    (s.twin.link.delivered = d :: rest) ∧
    let b := s.tookMsg d rest
    (SMap.get (fun _ => none) b.twin.link.aliveRx 256 = none) ∧ (bitAt v 11 = true)) ∧
    (∃ (s : State),
    let due := (s.twin.hbJudged / 10000 + 1) * 10000
    (s.twin.phase = .twinned) ∧ (due + 6000 ≤ s.now) ∧ (due ∈ s.twin.hbSeen)) ∧
    (∃ (s : State),
    let due := (s.twin.hbJudged / 10000 + 1) * 10000
    (s.twin.phase = .twinned) ∧ (due + 6000 ≤ s.now) ∧ (due ∉ s.twin.hbSeen) ∧ (s.twin.hbMissed < 2)) ∧
    (∃ (s : State),
    let due := (s.twin.hbJudged / 10000 + 1) * 10000
    (s.twin.phase = .twinned) ∧ (due + 6000 ≤ s.now) ∧ (due ∉ s.twin.hbSeen) ∧ (2 ≤ s.twin.hbMissed)) ∧
    (∃ (at_ : Nat) (cells : List Nat) (rest : List TwDelivered) (s : State),
    let d : TwDelivered := ⟨.bye, cells, at_⟩
    (s.twin.link.delivered = d :: rest) ∧
    let b : State := { s.tookMsg d rest with twin := { (s.tookMsg d rest).twin with peerHello := none } }
    (b.twin.phase = .twinned)) ∧
    (∃ (at_ : Nat) (cells : List Nat) (rest : List TwDelivered) (s : State),
    let d : TwDelivered := ⟨.bye, cells, at_⟩
    (s.twin.link.delivered = d :: rest) ∧
    let b : State := { s.tookMsg d rest with twin := { (s.tookMsg d rest).twin with peerHello := none } }
    (b.twin.phase ≠ .twinned) ∧ (b.twinStartOut = none)) ∧
    (∃ (s : State), (s.twin.phase = .twinned) ∧ (s.codec.channels = []) ∧ (s.time.follower = false)) ∧
    (∃ (at_ : Nat) (cells : List Nat) (rest : List TwDelivered) (s : State),
    let d : TwDelivered := ⟨.resetPeer, cells, at_⟩
    (s.twin.link.delivered = d :: rest) ∧
    let b := s.tookMsg d rest
    (b.field Reg.twn 3 1 = 1)) ∧
    (∃ (at_ : Nat) (cells : List Nat) (rest : List TwDelivered) (s : State),
    let d : TwDelivered := ⟨.resetPeer, cells, at_⟩
    (s.twin.link.delivered = d :: rest) ∧
    let b := s.tookMsg d rest
    (b.field Reg.twn 3 1 = 0)) ∧
    (∃ (a : Bool) (s : State), (s.twin.yieldIn ≠ a) ∧ ((a = false ∨ s.twin.phase ≠ .twinned))) ∧
    (∃ (a : Bool) (s : State), (s.twin.yieldIn = a) ∧ ((a = false ∨ s.twin.phase ≠ .twinned))) ∧
    (∃ (a : Bool) (s : State), (s.twin.yieldIn = false) ∧ (a = true) ∧ (s.twin.phase = .twinned)) ∧
    (∃ (s : State), (s.twin.yielding = true) ∧ (s.encodeLive = false) ∧ (s.twin.phase = .twinned) ∧ (s.time.follower = false) ∧ ((s.findDeferred fun o => decide (o = .twinYield)) = none)) ∧
    (∃ (s : State) (k : _), (s.twin.yielding = true) ∧ (s.encodeLive = false) ∧ (s.twin.phase = .twinned) ∧ (s.time.follower = false) ∧ ((s.findDeferred fun o => decide (o = .twinYield)) = some k)) ∧
    (∃ (s : State), ((s.twin.yielding = false ∨ s.encodeLive = true))) ∧
    (∃ (c : Nat) (x : Channel) (s : State), (s.twin.phase = .twinned) ∧ (s.codec.channels = [(c, x)]) ∧ (x.decode = false) ∧ (x.state = .running)) ∧
    (∃ (s : State), (s.twin.phase ≠ .twinned)) :=
  ⟨⟨twinned, by decide +kernel⟩,
   ⟨up, by decide +kernel⟩,
   ⟨(2 ^ 11 + 4 * 2 ^ 8 + 200 + 20000 * 2 ^ 64), 0, [], [], (withMsg twinned ⟨.heartbeat (2 ^ 11 + 4 * 2 ^ 8 + 200 + 20000 * 2 ^ 64), [], 0⟩), by decide +kernel⟩,
   ⟨(atNs { twinned with twin := { twinned.twin with hbSeen := [10000] } } 16000), by decide +kernel⟩,
   ⟨(atNs twinned 16000), by decide +kernel⟩,
   ⟨(atNs { twinned with twin := { twinned.twin with hbMissed := 2 } } 16000), by decide +kernel⟩,
   ⟨0, [], [], (withMsg twinned ⟨.bye, [], 0⟩), by decide +kernel⟩,
   ⟨0, [], [], (withMsg (inPhase .survivor) ⟨.bye, [], 0⟩), by decide +kernel⟩,
   ⟨twinned, by decide +kernel⟩,
   ⟨0, [], [], (withMsg (twinned.setRegN Reg.twn 8) ⟨.resetPeer, [], 0⟩), by decide +kernel⟩,
   ⟨0, [], [], (withMsg (twinned.setRegN Reg.twn 7) ⟨.resetPeer, [], 0⟩), by decide +kernel⟩,
   ⟨true, up, by decide +kernel⟩,
   ⟨false, twinned, by decide +kernel⟩,
   ⟨true, twinned, by decide +kernel⟩,
   ⟨{ twinned with twin := { twinned.twin with yielding := true } }, by decide +kernel⟩,
   ⟨(deferOne { twinned with twin := { twinned.twin with yielding := true } } ⟨0, 1, 4, .twinYield, 0⟩), ⟨0, 1, 4, .twinYield, 0⟩, by decide +kernel⟩,
   ⟨twinned, by decide +kernel⟩,
   ⟨3, { state := .running }, (chan twinned 3 { state := .running }), by decide +kernel⟩,
   ⟨up, by decide +kernel⟩⟩

/-- `TheTimeBaseTicks`: a state and operands that meet the hypotheses of each clause in turn (clauses 1, 2, 3, 4, 6, 7). -/
theorem test_TheTimeBaseTicks :
    (∃ (s : State), (s.time.step = none) ∧ (s.rst.pulses = []) ∧ (0 ≤ s.time.units + 40 * 2 ^ 32 + s.incAdj) ∧ (s.time.units + 40 * 2 ^ 32 + s.incAdj < 2 ^ 48 * secUnits)) ∧
    (∃ (s : State), (s.time.step = none) ∧ (s.rst.pulses = [])) ∧
    (∃ (r : StepReq) (s : State), (s.time.step = some r) ∧ (s.rst.pulses = []) ∧ (s.codec.subs = [])) ∧
    (∃ (s : State), (s.rst.state ≠ .running)) ∧
    (∃ (i : Nat) (n : Nat) (s : State), (s.time.step = none) ∧ (s.rst.pulses = [(i, n)])) ∧
    (∃ (i : Nat) (n : Nat) (s : State), (s.time.step = none) ∧ (s.rst.pulses = [(i, n)]) ∧ (n ≤ 1)) :=
  ⟨⟨up, by decide +kernel⟩,
   ⟨up, by decide +kernel⟩,
   ⟨(.by (-5)), { atNs up 1000 with time := { (atNs up 1000).time with step := some (.by (-5)), frac := 7 } }, by decide +kernel⟩,
   ⟨State.reset, by decide +kernel⟩,
   ⟨5, 2, { up with rst := { up.rst with asserted := 0x20, pulses := [(5, 2)] } }, by decide +kernel⟩,
   ⟨5, 1, { up with rst := { up.rst with asserted := 0x20, pulses := [(5, 1)] } }, by decide +kernel⟩⟩

/-- `SteeringRegisters`: a state and operands that meet the hypotheses of each clause in turn (clauses 1, 2, 3, 4, 5, 7, 8, 9). -/
theorem test_SteeringRegisters :
    (∃ (who : Requester) (s : State), (s.maySteer who = true)) ∧
    (∃ (who : Requester) (s : State), (s.maySteer who = true)) ∧
    (∃ (who : Requester) (s : State), (s.maySteer who = true) ∧ (s.time.oscBusy = none)) ∧
    (∃ (who : Requester) (s : State), (s.maySteer who = true) ∧ (s.time.oscBusy ≠ none)) ∧
    (∃ (who : Requester) (s : State), (s.maySteer who = false)) ∧
    (∃ (s : State), (Tidy s)) ∧
    (∃ (c : Nat) (s : State), (s.time.oscBusy = some c)) ∧
    (∃ (s : State), (s.time.oscBusy = none)) :=
  ⟨⟨.host, (up.setRegN Reg.timeCfg 1), by decide +kernel⟩,
   ⟨(.core 0), (up.setRegN Reg.timeCfg 0), by decide +kernel⟩,
   ⟨(.core 0), (up.setRegN Reg.timeCfg 0), by decide +kernel⟩,
   ⟨(.core 0), { up.setRegN Reg.timeCfg 0 with time := { up.time with oscBusy := some 1 } }, by decide +kernel⟩,
   ⟨.host, (up.setRegN Reg.timeCfg 0), by decide +kernel⟩,
   ⟨{ atNs up 5000000007 with time := { (atNs up 5000000007).time with frac := 9 } }, by unfold Tidy; decide +kernel⟩,
   ⟨1, { up with time := { up.time with oscBusy := some 1, oscHeld := some 2 } }, by decide +kernel⟩,
   ⟨State.reset, by decide +kernel⟩⟩

/-- `TheServoFollowsItsReference`: a state and operands that meet the hypotheses of each clause in turn (clauses 1, 2, 3, 4, 5, 6, 7, 8, 9, 10, 11, 12, 13, 14, 16, 17, 18, 19, 20, 21, 22, 23, 24, 25, 26, 27, 28, 29, 30, 31). -/
theorem test_TheServoFollowsItsReference :
    (∃ (v : Servo) (s : State), (s.time.servo = v)) ∧
    (∃ (v : Servo) (s : State), (s.time.servo ≠ v) ∧ (v ≠ .holdover)) ∧
    (∃ (q : Nat) (s : State), (s.time.follower = false) ∧ (s.field Reg.timeCfg 0 1 = 0) ∧ (s.time.ref.source = 1) ∧ ((s.time.servo = .locked ∨ s.time.servo = .following)) ∧ (s.time.slavePort = some q)) ∧
    (∃ (s : State), (s.time.slavePort = none)) ∧
    (∃ (s : State), (s.time.follower = true)) ∧
    (∃ (s : State), (s.time.follower = false) ∧ (s.field Reg.timeCfg 0 1 = 1) ∧ (s.time.servo ≠ .locked)) ∧
    (∃ (s : State), (s.time.follower = false) ∧ (s.field Reg.timeCfg 0 1 = 0) ∧ (s.time.ref.source = 0)) ∧
    (∃ (s : State), (s.time.follower = false) ∧ (s.field Reg.timeCfg 0 1 = 0) ∧ (s.sourceAvailable = true) ∧ ((s.time.servo = .freeRunning ∨ s.time.servo = .holdover))) ∧
    (∃ (s : State), (s.time.follower = false) ∧ (s.field Reg.timeCfg 0 1 = 0) ∧ (s.time.ref.source ≠ 0) ∧ (s.sourceAvailable = false) ∧ ((s.time.servo = .locked ∨ s.time.servo = .following))) ∧
    (∃ (port : Nat) (d : PtpDecision) (s : State), (port < 8) ∧ (s.net.fwRx.find? (fun e => decide (e.1 = port)) = none) ∧ ((s.ptpPort port).enable = true) ∧ (s.time.clock.role ≠ 2) ∧ (d.tlv = none)) ∧
    (∃ (port : Nat) (d : PtpDecision) (v : TimecodeArgs) (s : State), (port < 8) ∧ (s.net.fwRx.find? (fun e => decide (e.1 = port)) = none) ∧ ((s.ptpPort port).enable = true) ∧ (s.time.clock.role ≠ 2) ∧ (d.tlv = some v) ∧ (d.slave = some port) ∧ (s.time.ref.source = 1) ∧ (s.time.follower = false)) ∧
    (∃ (port : Nat) (d : PtpDecision) (v : TimecodeArgs) (s : State), (port < 8) ∧ (s.net.fwRx.find? (fun e => decide (e.1 = port)) = none) ∧ ((s.ptpPort port).enable = true) ∧ (s.time.clock.role ≠ 2) ∧ (d.tlv = some v) ∧ ((d.slave ≠ some port ∨ s.time.ref.source ≠ 1 ∨ s.time.follower = true))) ∧
    (∃ (port : Nat) (s : State), (port < 8) ∧ (s.net.fwRx.find? (fun e => decide (e.1 = port)) = none) ∧ ((s.ptpPort port).enable = false)) ∧
    (∃ (s : State), (s.time.follower = true)) ∧
    (∃ (offset : Int) (s : State), (s.time.follower = false) ∧ (s.time.ref.source = 1) ∧ (s.time.slavePort ≠ none) ∧ (s.time.servo = .acquiring) ∧ (s.field Reg.timeCfg 0 1 = 0) ∧ (s.time.lockRun < 15) ∧ (|offset| ≤ s.time.ref.lockNs) ∧ (|offset| ≤ s.time.ref.unlockNs) ∧ (|offset| ≤ s.time.ref.stepNs)) ∧
    (∃ (offset : Int) (s : State), (s.time.follower = false) ∧ (s.time.ref.source = 1) ∧ (s.time.slavePort ≠ none) ∧ (s.time.servo = .acquiring) ∧ (s.field Reg.timeCfg 0 1 = 0) ∧ ((s.anyLive = false ∨ s.time.ref.stepAny = true)) ∧ ((s.time.ref.lockNs : Int) < |offset|) ∧ ((s.time.ref.stepNs : Int) < |offset|)) ∧
    (∃ (offset : Int) (s : State), (s.time.follower = false) ∧ (s.time.ref.source = 1) ∧ (s.time.slavePort ≠ none) ∧ (s.time.servo = .acquiring) ∧ (s.field Reg.timeCfg 0 1 = 0) ∧ (s.anyLive = true) ∧ (s.time.ref.stepAny = false) ∧ ((s.time.ref.lockNs : Int) < |offset|) ∧ (|offset| ≤ s.time.ref.unlockNs) ∧ ((s.time.ref.stepNs : Int) < |offset|)) ∧
    (∃ (s : State), (s.time.servo = .holdover) ∧ (s.time.clock.holdoverS ≠ 0) ∧ (s.time.holdFrom + 1000000000 * s.time.clock.holdoverS ≤ s.now)) ∧
    (∃ (s : State), ((s.time.servo ≠ .holdover ∨ s.time.clock.holdoverS = 0))) ∧
    (∃ (falling : Bool) (s : State), ((falling = true ↔ s.field Reg.timePpsCfg 0 1 = 1))) ∧
    (∃ (falling : Bool) (s : State), (¬(falling = true ↔ s.field Reg.timePpsCfg 0 1 = 1))) ∧
    (∃ (s : State), (s.time.ref.source ≠ 2) ∧ (s.time.ref.source ≠ 3)) ∧
    (∃ (s : State), (s.time.ref.source = 3) ∧ (s.time.follower = false) ∧ (s.field Reg.timeCfg 0 1 = 0) ∧ ((s.time.servo = .locked ∨ s.time.servo = .following))) ∧
    (∃ (s : State), (s.time.ref.source = 2) ∧ (s.field Reg.timeCfg 0 1 = 1)) ∧
    (∃ (s : State), (s.time.ref.source = 2) ∧ (s.time.follower = false) ∧ (s.field Reg.timeCfg 0 1 = 0) ∧ ((s.time.servo = .locked ∨ s.time.servo = .following))) ∧
    (∃ (s : State), (5000000000 + s.time.tlvAt ≤ s.now)) ∧
    (∃ (s : State), (s.now < 5000000000 + s.time.tlvAt)) ∧
    (∃ (s : State), (s.time.ref.source ≠ 2) ∧ (s.time.ref.source ≠ 3)) ∧
    (∃ (s : State), ((s.time.ref.source = 2 ∨ s.time.ref.source = 3))) ∧
    (∃ (s : State), (s.time.ref.source = 3) ∧ (s.sourceAvailable = true) ∧ (s.time.follower = false) ∧ (s.field Reg.timeCfg 0 1 = 0) ∧ ((s.time.servo = .locked ∨ s.time.servo = .following))) :=
  ⟨⟨.freeRunning, up, by decide +kernel⟩,
   ⟨.acquiring, up, by decide +kernel⟩,
   ⟨7, { up.setRegN Reg.timeCfg 0 with time := { up.time with servo := .locked, slavePort := some 7, parent := 5, ref := { up.time.ref with source := 1 } } }, by decide +kernel⟩,
   ⟨{ up with time := { up.time with servo := .locked, ref := { up.time.ref with source := 1 } } }, by decide +kernel⟩,
   ⟨{ up with time := { up.time with follower := true } }, by decide +kernel⟩,
   ⟨(up.setRegN Reg.timeCfg 1), by decide +kernel⟩,
   ⟨{ up.setRegN Reg.timeCfg 0 with time := { up.time with servo := .locked, ref := { up.time.ref with source := 0 } } }, by decide +kernel⟩,
   ⟨{ slaved with time := { slaved.time with servo := .holdover } }, by decide +kernel⟩,
   ⟨{ up.setRegN Reg.timeCfg 0 with time := { up.time with servo := .locked, ref := { up.time.ref with source := 1 } } }, by decide +kernel⟩,
   ⟨7, { slave := some 7, parent := 5, tlv := none }, { up with time := { up.time with ports := [(7, { enable := true })] } }, by decide +kernel⟩,
   ⟨7, { slave := some 7, parent := 5, tlv := some (codeArgs 3600) }, (codeArgs 3600), (sourcing 1), by decide +kernel⟩,
   ⟨7, { slave := some 7, parent := 5, tlv := some (codeArgs 3600) }, (codeArgs 3600), (sourcing 2), by decide +kernel⟩,
   ⟨7, up, by decide +kernel⟩,
   ⟨{ up with time := { up.time with follower := true } }, by decide +kernel⟩,
   ⟨-100, slaved, by decide +kernel⟩,
   ⟨-2000000000, slaved, by decide +kernel⟩,
   ⟨2000000000, (chan { slaved with time := { slaved.time with ref := { slaved.time.ref with unlockNs := 2000000000 } } } 3 { state := .running }), by decide +kernel⟩,
   ⟨(atNs { up with time := { up.time with servo := .holdover, clock := { up.time.clock with holdoverS := 1 } } } 1000000000), by decide +kernel⟩,
   ⟨up, by decide +kernel⟩,
   ⟨true, (up.setRegN Reg.timePpsCfg (1 + 256 * 0xFFFFFF)), by decide +kernel⟩,
   ⟨false, (up.setRegN Reg.timePpsCfg 1), by decide +kernel⟩,
   ⟨{ up with time := { up.time with ref := { up.time.ref with source := 1 } } }, by decide +kernel⟩,
   ⟨{ up.setRegN Reg.timeCfg 0 with time := { up.time with servo := .locked, ref := { up.time.ref with source := 3 } } }, by decide +kernel⟩,
   ⟨{ up.setRegN Reg.timeCfg 1 with time := { up.time with servo := .acquiring, ref := { up.time.ref with source := 2 } } }, by decide +kernel⟩,
   ⟨{ up.setRegN Reg.timeCfg 0 with time := { up.time with servo := .locked, ref := { up.time.ref with source := 2 } } }, by decide +kernel⟩,
   ⟨(atNs up 5000000000), by decide +kernel⟩,
   ⟨(atNs up 4999999999), by decide +kernel⟩,
   ⟨{ up with time := { up.time with ref := { up.time.ref with source := 1 } } }, by decide +kernel⟩,
   ⟨{ up with time := { up.time with ref := { up.time.ref with source := 3 } } }, by decide +kernel⟩,
   ⟨{ up.setRegN Reg.timeCfg 0 with time := { up.time with servo := .locked, ppsAt := some up.now, ref := { up.time.ref with source := 3 } } }, by decide +kernel⟩⟩

/-- `TimingOutputsToggle`: a state and operands that meet the hypotheses of each clause in turn. -/
theorem test_TimingOutputsToggle :
    (∃ (n : Nat) (s : State), (n < 8) ∧ (s.regN Reg.timeToutEn = 0)) ∧
    (∃ (n : Nat) (s : State), (n < 8) ∧ (s.regN Reg.timeToutEn = 2 ^ n)) ∧
    (∃ (en : BitVec 8) (s : State), (s.regN Reg.timeToutEn = en.toNat)) ∧
    (∃ (n : Nat) (p : Nat × Nat) (s : State), (n < 8) ∧ ((s.tout n).period = some p) ∧ ((s.tout n).running = true) ∧ ((s.tout n).returnAt = none) ∧
    let k := (s.tout n).firstEdge p (s.tout n).notBefore
    ((s.tout n).edge p k ≤ s.nowQ)) ∧
    (∃ (n : Nat) (r : Nat) (p : Nat × Nat) (s : State), (n < 8) ∧ ((s.tout n).period = some p) ∧ ((s.tout n).running = false) ∧ ((s.tout n).returnAt = some r) ∧ (r ≤ s.nowQ)) ∧
    (∃ (n : Nat) (s : State), (n < 8) ∧ ((s.tout n).period = none)) :=
  ⟨⟨7, ((up.setRegN Reg.timeToutEn 0).setRegN (Reg.timeTout + 0xE0) 9), by decide +kernel⟩,
   ⟨7, { up.setRegN Reg.timeToutEn 128 with time := { up.time with touts := [(7, { running := true })] } }, by decide +kernel⟩,
   ⟨0x81, (up.setRegN Reg.timeToutEn 0x81), by decide +kernel⟩,
   ⟨7, ((400, 1)), (atNs { up with time := { up.time with touts := [(7, { running := true, cfg := 2 })] } } 200), by decide +kernel⟩,
   ⟨7, 800, ((400, 1)), (atNs { up with time := { up.time with touts := [(7, { cfg := 10, returnAt := some 800 })] } } 200), by decide +kernel⟩,
   ⟨7, { up with time := { up.time with touts := [(7, { running := true, cfg := 8, returnAt := some 800 })] } }, by decide +kernel⟩⟩

/-- `LedgerTokens`: a state and operands that meet the hypotheses of each clause in turn. -/
theorem test_LedgerTokens :
    (∃ (c : Nat) (p : Nat) (s : State), (c < 128) ∧ (s.twin.phase = .twinned) ∧ (s.twin.follower = false) ∧ (c ∉ s.twin.joinDue) ∧ (c ∉ s.twin.resyncDue) ∧
    let x := s.channel c
    (x.decode = false) ∧ ((x.state = .armed ∨ x.state = .running)) ∧ (x.twinState = .inStep) ∧ (SMap.get (fun _ => none) x.tokens p = none) ∧ ((x.pic p).named = false) ∧ (x.ledgerAt p ≤ s.nowT)) ∧
    (∃ (c : Nat) (s : State), (c < 128) ∧ ((s.twin.phase ≠ .twinned ∨ s.twin.follower = true ∨ (s.channel c).decode = true))) ∧
    (∃ (v : Nat) (at_ : Nat) (cells : List Nat) (rest : List TwDelivered) (s : State),
    let d : TwDelivered := ⟨.ledger v, cells, at_⟩
    (s.twin.link.delivered = d :: rest) ∧
    let b := s.tookMsg d rest
    let c := planChannel v
    let x := b.channel c
    let p := x.picOf32 (tokenOf v).plan.picture
    (b.twin.phase = .twinned) ∧ (b.twin.follower = true) ∧ (SMap.get (fun _ => none) b.twin.link.aliveRx (128 + c) = none) ∧ (x.decode = false) ∧ (x.state.live = true) ∧ (x.twinState ≠ .joining) ∧ (p ∉ x.tokenLate) ∧ (b.nowT ≤ x.tokenDueAt p)) ∧
    (∃ (c : Nat) (p : Nat) (s : State), (c < 128) ∧ (s.twin.phase = .twinned) ∧ (s.twin.follower = true) ∧
    let x := s.channel c
    (x.decode = false) ∧ ((x.state = .armed ∨ x.state = .running)) ∧ (x.twinState = .inStep) ∧ (x.joinPic ≤ p) ∧ (SMap.get (fun _ => none) x.tokens p = none) ∧ (p ∉ x.tokenLate) ∧ ((x.pic p).named = false) ∧ (x.tokenDueAt p ≤ s.nowT)) ∧
    (∃ (c : Nat) (s : State), (c < 128) ∧ ((s.twin.phase ≠ .twinned ∨ s.twin.follower = false))) ∧
    (∃ (c : Nat) (p : Nat) (peerT : Nat) (at_ : Nat) (cells : List Nat) (rest : List TwDelivered) (s : State), (c < 128) ∧
    let d : TwDelivered := ⟨.diverge c p peerT, cells, at_⟩
    (s.twin.link.delivered = d :: rest) ∧
    let b := s.tookMsg d rest
    (b.twin.phase = .twinned) ∧ (b.twin.follower = false) ∧ (b.resyncChosen ⟨c, p, 0⟩ = false)) ∧
    (∃ (c : Nat) (p : Nat) (peerT : Nat) (at_ : Nat) (cells : List Nat) (rest : List TwDelivered) (s : State), (c < 128) ∧
    let d : TwDelivered := ⟨.diverge c p peerT, cells, at_⟩
    (s.twin.link.delivered = d :: rest) ∧
    let b := s.tookMsg d rest
    (b.twin.phase = .twinned) ∧ (b.twin.follower = false) ∧ (b.resyncChosen ⟨c, p, 0⟩ = true)) ∧
    (∃ (c : Nat) (p : Nat) (peerT : Nat) (at_ : Nat) (cells : List Nat) (rest : List TwDelivered) (s : State), (c < 128) ∧
    let d : TwDelivered := ⟨.diverge c p peerT, cells, at_⟩
    (s.twin.link.delivered = d :: rest) ∧
    let b := s.tookMsg d rest
    (b.twin.phase ≠ .twinned)) :=
  ⟨⟨3, 0, leading, by decide +kernel⟩,
   ⟨127, up, by decide +kernel⟩,
   ⟨(3 * 2 ^ 32 + 200 * 2 ^ 64), 0, [], [], (withMsg following ⟨.ledger (3 * 2 ^ 32 + 200 * 2 ^ 64), [], 0⟩), by decide +kernel⟩,
   ⟨3, 0, following, by decide +kernel⟩,
   ⟨127, up, by decide +kernel⟩,
   ⟨3, 5, 2, 0, [], [], (withMsg leading ⟨.diverge 3 5 2, [], 0⟩), by decide +kernel⟩,
   ⟨3, 5, 2, 0, [], [], (withMsg { leading with twin := { leading.twin with resyncDue := [3] } } ⟨.diverge 3 5 2, [], 0⟩), by decide +kernel⟩,
   ⟨3, 5, 2, 0, [], [], (withMsg up ⟨.diverge 3 5 2, [], 0⟩), by decide +kernel⟩⟩

/-- `ReconcileAndMirror`: a state and operands that meet the hypotheses of each clause in turn. -/
theorem test_ReconcileAndMirror :
    (∃ (v : Nat) (at_ : Nat) (l : List Nat) (cells : List Nat) (rest : List TwDelivered) (s : State), (headOp v = 0) ∧
    let d : TwDelivered := ⟨.reconcile v l, cells, at_⟩
    (s.twin.link.delivered = d :: rest) ∧
    let b := s.tookMsg d rest
    let i := b.headBandId v
    (b.pairedBand i = false)) ∧
    (∃ (v : Nat) (at_ : Nat) (l : List Nat) (cells : List Nat) (rest : List TwDelivered) (s : State), (headOp v = 0) ∧
    let d : TwDelivered := ⟨.reconcile v l, cells, at_⟩
    (s.twin.link.delivered = d :: rest) ∧
    let b := s.tookMsg d rest
    let i := b.headBandId v
    (b.pairedBand i = true) ∧ (b.nowT < (b.channel i.ch).inputDeadline i.pic i.b)) ∧
    (∃ (v : Nat) (at_ : Nat) (l : List Nat) (cells : List Nat) (rest : List TwDelivered) (s : State), (headOp v = 0) ∧
    let d : TwDelivered := ⟨.reconcile v l, cells, at_⟩
    (s.twin.link.delivered = d :: rest) ∧
    let b := s.tookMsg d rest
    let i := b.headBandId v
    (b.pairedBand i = true) ∧ ((b.channel i.ch).inputDeadline i.pic i.b ≤ b.nowT) ∧
    let ks := ((List.range 64).filter (bitAt (reconMask v))).map (· + reconBase v)
    (ks ≠ []) ∧ ((∀ k ∈ ks, ((b.channel i.ch).pic i.pic).heldFor i.b k = false))) ∧
    (∃ (v : Nat) (at_ : Nat) (l : List Nat) (cells : List Nat) (rest : List TwDelivered) (s : State), (headOp v ≠ 0) ∧
    let d : TwDelivered := ⟨.reconcile v l, cells, at_⟩
    (s.twin.link.delivered = d :: rest) ∧
    let b := s.tookMsg d rest
    let i := b.headBandId v
    ((b.band i).reconOpen = false)) ∧
    (∃ (v : Nat) (at_ : Nat) (l : List Nat) (cells : List Nat) (rest : List TwDelivered) (s : State), (headOp v ≠ 0) ∧
    let d : TwDelivered := ⟨.reconcile v l, cells, at_⟩
    (s.twin.link.delivered = d :: rest) ∧
    let b := s.tookMsg d rest
    let i := b.headBandId v
    ((b.band i).reconOpen = true) ∧ ((b.band i).state = .arriving) ∧ (headOp v = 2) ∧
    let u := b.modBand i fun u => { u with asked := u.asked.filter fun k => !(decide (reconBase v ≤ k) && bitAt (reconMask v) (k - reconBase v)) }
    ((u.band i).asked ≠ [])) ∧
    (∃ (v : Nat) (at_ : Nat) (l : List Nat) (cells : List Nat) (rest : List TwDelivered) (s : State), (headOp v ≠ 0) ∧
    let d : TwDelivered := ⟨.reconcile v l, cells, at_⟩
    (s.twin.link.delivered = d :: rest) ∧
    let b := s.tookMsg d rest
    let i := b.headBandId v
    ((b.band i).reconOpen = true) ∧ ((b.band i).state = .arriving) ∧ (headOp v = 2) ∧
    let u := b.modBand i fun u => { u with asked := u.asked.filter fun k => !(decide (reconBase v ≤ k) && bitAt (reconMask v) (k - reconBase v)) }
    ((u.band i).asked = [])) ∧
    (∃ (v : Nat) (at_ : Nat) (l : List Nat) (cells : List Nat) (rest : List TwDelivered) (s : State), (headOp v ≠ 0) ∧
    let d : TwDelivered := ⟨.reconcile v l, cells, at_⟩
    (s.twin.link.delivered = d :: rest) ∧
    let b := s.tookMsg d rest
    let i := b.headBandId v
    ((b.band i).reconOpen = true) ∧ ((b.band i).state = .arriving) ∧ (headOp v ≠ 2) ∧ (reconBase v ∈ (b.band i).asked) ∧
    let u := b.modBand i fun u => { u with pieces := u.pieces ++ [(reconBase v, reconTotal v, reconOffset v, l)] }
    ((u.band i).wholePosition (reconBase v) (reconTotal v) = none) ∧ ((u.band i).asked ≠ [])) ∧
    (∃ (c : Nat) (p : Nat) (b : Nat) (s : State), (c < 128) ∧
    let i : BandId := ⟨c, p, b⟩
    ((s.band i).reconOpen = false)) ∧
    (∃ (c : Nat) (p : Nat) (b : Nat) (s : State), (c < 128) ∧
    let i : BandId := ⟨c, p, b⟩
    ((s.band i).reconOpen = true) ∧ ((s.band i).state = .arriving) ∧ ((s.band i).asked = [])) ∧
    (∃ (c : Nat) (p : Nat) (b : Nat) (s : State), (c < 128) ∧
    let i : BandId := ⟨c, p, b⟩
    ((s.band i).reconOpen = true) ∧ ((s.band i).state = .arriving) ∧ ((s.band i).asked ≠ []) ∧ ((s.channel c).inputDeadline p b + s.reconLimit ≤ s.nowT)) ∧
    (∃ (v : Nat) (at_ : Nat) (cells : List Nat) (rest : List TwDelivered) (s : State),
    let d : TwDelivered := ⟨.release [v], cells, at_⟩
    (s.twin.link.delivered = d :: rest) ∧
    let b := s.tookMsg d rest
    let c := recCh v
    let u := { b with twin := { b.twin with link := { b.twin.link with aliveRx := SMap.set (fun _ => none) b.twin.link.aliveRx c (some (recAlive v)) } } }
    let i : BandId := ⟨c, (b.channel c).picOf32 (recPic v), recBand v⟩
    (SMap.get (fun _ => none) b.twin.link.aliveRx c = none) ∧ (u.pairedBand i = true) ∧ ((b.channel c).state.live = true) ∧ (recBand v < (b.channel c).cfg.bandCount) ∧ ((b.band i).peerRec = none)) ∧
    (∃ (v : Nat) (at_ : Nat) (l : List Nat) (cells : List Nat) (rest : List TwDelivered) (s : State), (headOp v = 0) ∧
    let d : TwDelivered := ⟨.mirror v l, cells, at_⟩
    (s.twin.link.delivered = d :: rest) ∧
    let b := s.tookMsg d rest
    let held := b.twin.mirror.find? fun e => decide (e.ch = headCh v) && decide (e.band = headBand v) && decide (e.pic % 2 ^ 32 = headPic v)
    (held = none)) ∧
    (∃ (v : Nat) (at_ : Nat) (l : List Nat) (cells : List Nat) (rest : List TwDelivered) (s : State) (e : _), (headOp v = 0) ∧
    let d : TwDelivered := ⟨.mirror v l, cells, at_⟩
    (s.twin.link.delivered = d :: rest) ∧
    let b := s.tookMsg d rest
    let held := b.twin.mirror.find? fun e => decide (e.ch = headCh v) && decide (e.band = headBand v) && decide (e.pic % 2 ^ 32 = headPic v)
    (held = some e) ∧ (e.nal ≠ []) ∧ (e.nal.length ≤ 4076)) ∧
    (∃ (v : Nat) (at_ : Nat) (l : List Nat) (cells : List Nat) (rest : List TwDelivered) (g : MirrorGet) (s : State), (headOp v ≠ 0) ∧ (headOp v ≠ 2) ∧
    let d : TwDelivered := ⟨.mirror v l, cells, at_⟩
    (s.twin.link.delivered = d :: rest) ∧
    let b := s.tookMsg d rest
    let i := b.headBandId v
    ((b.band i).mirror = some g) ∧ (g.pieces = []) ∧ (l.length < mirrorTotal v)) ∧
    (∃ (v : Nat) (at_ : Nat) (l : List Nat) (cells : List Nat) (rest : List TwDelivered) (g : MirrorGet) (s : State), (headOp v ≠ 0) ∧ (headOp v ≠ 2) ∧
    let d : TwDelivered := ⟨.mirror v l, cells, at_⟩
    (s.twin.link.delivered = d :: rest) ∧
    let b := s.tookMsg d rest
    let i := b.headBandId v
    ((b.band i).mirror = some g) ∧ (g.pieces = []) ∧ (mirrorTotal v = g.len) ∧ (l.length = g.len) ∧ (crc32cOf l = g.crc)) :=
  ⟨⟨(reconHead 0 9 0 0 0 0 0 1), 0, [], [], [], (withMsg up ⟨.reconcile (reconHead 0 9 0 0 0 0 0 1) [], [], 0⟩), by decide +kernel⟩,
   ⟨(reconHead 0 3 0 200 0 0 0 1), 0, [], [], [], (withMsg leading ⟨.reconcile (reconHead 0 3 0 200 0 0 0 1) [], [], 0⟩), by decide +kernel⟩,
   ⟨(reconHead 0 3 0 0 64 0 0 (2 ^ 63)), 0, [], [], [], (withMsg leading ⟨.reconcile (reconHead 0 3 0 0 64 0 0 (2 ^ 63)) [], [], 0⟩), by decide +kernel⟩,
   ⟨(reconHead 2 3 0 0 64 0 0 1), 0, [], [], [], (withMsg leading ⟨.reconcile (reconHead 2 3 0 0 64 0 0 1) [], [], 0⟩), by decide +kernel⟩,
   ⟨(reconHead 2 3 0 0 64 0 0 1), 0, [], [], [], (withMsg (asking [64, 65]) ⟨.reconcile (reconHead 2 3 0 0 64 0 0 1) [], [], 0⟩), by decide +kernel⟩,
   ⟨(reconHead 2 3 0 0 64 0 0 1), 0, [], [], [], (withMsg (asking [64]) ⟨.reconcile (reconHead 2 3 0 0 64 0 0 1) [], [], 0⟩), by decide +kernel⟩,
   ⟨(reconHead 1 3 0 0 64 0 2 1), 0, [], [], [], (withMsg (asking [64]) ⟨.reconcile (reconHead 1 3 0 0 64 0 2 1) [], [], 0⟩), by decide +kernel⟩,
   ⟨127, 0, 0, up, by decide +kernel⟩,
   ⟨3, 0, 0, (asking []), by decide +kernel⟩,
   ⟨3, 0, 0, (asking [64]), by decide +kernel⟩,
   ⟨(3 * 2 ^ 96 + 7 * 2 ^ 88), 0, [], [], (withMsg leading ⟨.release [3 * 2 ^ 96 + 7 * 2 ^ 88], [], 0⟩), by decide +kernel⟩,
   ⟨(mirrorHead 0 3 0 5 0 0), 0, [], [], [], (withMsg leading ⟨.mirror (mirrorHead 0 3 0 5 0 0) [], [], 0⟩), by decide +kernel⟩,
   ⟨(mirrorHead 0 3 0 5 0 0), 0, [], [], [], (withMsg { leading with twin := { leading.twin with mirror := [⟨3, 5, 0, [1, 2], 0⟩] } } ⟨.mirror (mirrorHead 0 3 0 5 0 0) [], [], 0⟩), ⟨3, 5, 0, [1, 2], 0⟩, by decide +kernel⟩,
   ⟨(mirrorHead 1 3 0 0 0 2), 0, [7], [], [], ⟨crc32cOf [7, 8], 2, []⟩, (withMsg (getting ⟨crc32cOf [7, 8], 2, []⟩) ⟨.mirror (mirrorHead 1 3 0 0 0 2) [7], [], 0⟩), by decide +kernel⟩,
   ⟨(mirrorHead 1 3 0 0 0 2), 0, ([7, 8]), [], [], ⟨crc32cOf [7, 8], 2, []⟩, (withMsg (getting ⟨crc32cOf [7, 8], 2, []⟩) ⟨.mirror (mirrorHead 1 3 0 0 0 2) [7, 8], [], 0⟩), by decide +kernel⟩⟩

/-- `ReceivedFramesPassTheChecks`: a state and operands that meet the hypotheses of each clause in turn. -/
theorem test_ReceivedFramesPassTheChecks :
    (∃ (port : Nat) (s : State), (port < 8) ∧ ((s.port port).linkUp = false)) ∧
    (∃ (port : Nat) (f : RxFrame) (s : State), (port < 8) ∧ ((s.port port).linkUp = true) ∧ ((f.fcsOk = false ∨ f.fecUncorr ≠ 0))) ∧
    (∃ (port : Nat) (f : RxFrame) (s : State), (port < 8) ∧
    let c := ((s.wakeBlock (Src.port + port)).takeFec port f).rxCount Reg.netRxFrames port
    ((s.port port).linkUp = true) ∧ (f.fcsOk = true) ∧ (f.fecUncorr = 0) ∧ ((f.bytes.length + 4 < 64 ∨ c.portFrame port < f.bytes.length + 4))) ∧
    (∃ (port : Nat) (f : RxFrame) (s : State), (port < 8) ∧
    let c := ((s.wakeBlock (Src.port + port)).takeFec port f).rxCount Reg.netRxFrames port
    let i := parseFrame f.bytes
    ((s.port port).linkUp = true) ∧ (f.fcsOk = true) ∧ (f.fecUncorr = 0) ∧ (60 ≤ f.bytes.length) ∧ (f.bytes.length + 4 ≤ c.portFrame port) ∧ (i.pause = true)) ∧
    (∃ (port : Nat) (f : RxFrame) (s : State), (port < 8) ∧
    let c := ((s.wakeBlock (Src.port + port)).takeFec port f).rxCount Reg.netRxFrames port
    let i := parseFrame f.bytes
    ((s.port port).linkUp = true) ∧ (f.fcsOk = true) ∧ (f.fecUncorr = 0) ∧ (60 ≤ f.bytes.length) ∧ (f.bytes.length + 4 ≤ c.portFrame port) ∧ (i.pause = false) ∧ (i.csumOk = false)) ∧
    (∃ (port : Nat) (f : RxFrame) (s : State), (port < 8) ∧
    let c := ((s.wakeBlock (Src.port + port)).takeFec port f).rxCount Reg.netRxFrames port
    let i := parseFrame f.bytes
    ((s.port port).linkUp = true) ∧ (f.fcsOk = true) ∧ (f.fecUncorr = 0) ∧ (60 ≤ f.bytes.length) ∧ (f.bytes.length + 4 ≤ c.portFrame port) ∧ (i.pause = false) ∧ (i.csumOk = true) ∧ ((i.keys = none ∨ ∃ k, i.keys = some k ∧ c.classify port k = none)) ∧ (c.forFirmware port f i = false)) ∧
    (∃ (port : Nat) (f : RxFrame) (s : State) (t : _) (cells : _), (port < 8) ∧
    let c := ((s.wakeBlock (Src.port + port)).takeFec port f).rxCount Reg.netRxFrames port
    let i := parseFrame f.bytes
    ((s.port port).linkUp = true) ∧ (f.fcsOk = true) ∧ (f.fecUncorr = 0) ∧ (60 ≤ f.bytes.length) ∧ (f.bytes.length + 4 ≤ c.portFrame port) ∧ (i.pause = false) ∧ (i.csumOk = true) ∧ ((i.keys = none ∨ ∃ k, i.keys = some k ∧ c.classify port k = none)) ∧ (i.firmware = 1) ∧ (c.landFrame port 19 f.bytes = (t, some cells))) ∧
    (∃ (port : Nat) (f : RxFrame) (s : State) (k : _) (n : _), (port < 8) ∧
    let c := ((s.wakeBlock (Src.port + port)).takeFec port f).rxCount Reg.netRxFrames port
    let i := parseFrame f.bytes
    ((s.port port).linkUp = true) ∧ (f.fcsOk = true) ∧ (f.fecUncorr = 0) ∧ (60 ≤ f.bytes.length) ∧ (f.bytes.length + 4 ≤ c.portFrame port) ∧ (i.pause = false) ∧ (i.csumOk = true) ∧ (i.keys = some k) ∧ (c.classify port k = some n) ∧ ((c.iflow n).rate ≠ 0) ∧ ((c.iflow n).bucket < (f.bytes.length + 4) * bucketUnit)) ∧
    (∃ (port : Nat) (f : RxFrame) (s : State) (k : _) (n : _) (t : _) (cells : _), (port < 8) ∧
    let c := ((s.wakeBlock (Src.port + port)).takeFec port f).rxCount Reg.netRxFrames port
    let i := parseFrame f.bytes
    ((s.port port).linkUp = true) ∧ (f.fcsOk = true) ∧ (f.fecUncorr = 0) ∧ (60 ≤ f.bytes.length) ∧ (f.bytes.length + 4 ≤ c.portFrame port) ∧ (i.pause = false) ∧ (i.csumOk = true) ∧ (i.keys = some k) ∧ (c.classify port k = some n) ∧ ((c.iflow n).rate = 0) ∧
    let m := c.meterPacket port n f i
    ((m.iflow n).kind ≠ 2) ∧ (m.landFrame port port f.bytes = (t, some cells)) ∧ ((t.queue (ifqId n)).full = false)) :=
  ⟨⟨7, up, by decide +kernel⟩,
   ⟨7, { frame with fcsOk := false }, bound5, by decide +kernel⟩,
   ⟨7, { frame with bytes := frame.bytes.take 59 }, bound5, by decide +kernel⟩,
   ⟨7, pauseFrame, bound5, by decide +kernel⟩,
   ⟨7, { frame with bytes := frame.bytes.set 24 0 }, bound5, by decide +kernel⟩,
   ⟨7, { etherFrame 0 with bytes := (etherFrame 0).bytes.set 0 2 }, bound5, by decide +kernel⟩,
   ⟨7, (etherFrame 0x88F7), bound5, (((bound5.rxCount Reg.netRxFrames 7).landFrame 7 19 (etherFrame 0x88F7).bytes).1), (((bound5.rxCount Reg.netRxFrames 7).landFrame 7 19 (etherFrame 0x88F7).bytes).2.getD []), by decide +kernel⟩,
   ⟨7, frame, (bound5.modIflow 5 fun f => { f with rate := 1, bucket := 64 * bucketUnit - 1 }), ⟨0, 0, false, 9, 8, 0⟩, 5, by decide +kernel⟩,
   ⟨7, frame, bound5, ⟨0, 0, false, 9, 8, 0⟩, 5, ((((bound5.rxCount Reg.netRxFrames 7).meterPacket 7 5 frame (parseFrame frame.bytes)).landFrame 7 7 frame.bytes).1), (((((bound5.rxCount Reg.netRxFrames 7).meterPacket 7 5 frame (parseFrame frame.bytes)).landFrame 7 7 frame.bytes).2).getD []), by decide +kernel⟩⟩

/-- `IngressPacketsLand`: a state and operands that meet the hypotheses of each clause in turn. -/
theorem test_IngressPacketsLand :
    (∃ (flow : Nat) (s : State) (cell : _), (flow < 2048) ∧ (((s.queue (ifqId flow)).isEmpty = true ∨ cell ≠ s.headCell flow))) ∧
    (∃ (flow : Nat) (s : State), (flow < 2048) ∧ (s.asleep Src.ingress = true)) ∧
    (∃ (flow : Nat) (s : State) (t : _) (v : _), (flow < 2048) ∧ (s.asleep Src.ingress = false) ∧ (s.earlierCopy flow = none) ∧ (s.takeIfq flow = (t, some v)) ∧ ((t.iflow flow).channel = none)) ∧
    (∃ (flow : Nat) (s : State) (g : _), (flow < 2048) ∧ (s.asleep Src.ingress = false) ∧ ((s.queue (ifqId flow)).isEmpty = false) ∧ (s.earlierCopy flow = some g) ∧ ((s.ingressWrite g).earlierCopy flow = none)) ∧
    (∃ (flow : Nat) (s : State) (t : _) (v : _) (c : _) (p : _) (g : _), (flow < 2048) ∧ (s.asleep Src.ingress = false) ∧ (s.earlierCopy flow = none) ∧ (s.takeIfq flow = (t, some v)) ∧ ((t.iflow flow).channel = some c) ∧ ((t.iflow flow).kind = 0) ∧
    let x := t.channel c
    let pkt := x.cfg.videoPacket (s.loadFrame (s.chainCells (bitsAt v 14 3) (bitsAt v 0 14)).1 (bitsAt v 17 14)) (bitsAt v 48 7)
    (x.decode = false) ∧ (x.state.live = true) ∧ (x.state ≠ .draining) ∧ (x.picOfTs t.nowT pkt.timestamp = some p) ∧ (pkt.segments = [g]) ∧ (pkt.overrun = false) ∧ (x.cfg.segmentFits g = true) ∧ (x.cfg.deadlineAt (x.tPic p) 0 ≤ t.nowT + x.cfg.periodT) ∧
    let k := (g.row * x.cfg.width + g.offset) / t.pktPixels c
    let y := x.pic p
    (SMap.get (fun _ => none) y.arrived k = none) ∧ (y.segmentOpen x.cfg g = true)) :=
  ⟨⟨2047, up, 0, by decide +kernel⟩,
   ⟨5, (drowsy arrived5 Src.ingress), by decide +kernel⟩,
   ⟨5, lone5, ((lone5.takeIfq 5).1), ((lone5.takeIfq 5).2.getD 0), by decide +kernel⟩,
   ⟨5, (landing (landing bound5 6 4) 5 5), 6, by decide +kernel⟩,
   ⟨5, (landing bound5 5 5), (((landing bound5 5 5).takeIfq 5).1), (((landing bound5 5 5).takeIfq 5).2.getD 0), 3, 0, ((({} : ChannelCfg).videoPacket rtp5 0).segments.headD ⟨0, 0, [], [], []⟩), by decide +kernel⟩⟩

/-- `PacketsOfADecodeChannelAreMerged`: a state and operands that meet the hypotheses of each clause in turn. -/
theorem test_PacketsOfADecodeChannelAreMerged :
    (∃ (flow : Nat) (s : State), (flow < 2048) ∧ (((s.queue (ifqId flow)).isEmpty = true ∨ s.asleep Src.depacketizer = true))) ∧
    (∃ (flow : Nat) (s : State), (flow < 2048) ∧ (s.asleep Src.depacketizer = false) ∧ ((s.queue (ifqId flow)).isEmpty = false) ∧ ((s.iflow flow).channel = none)) ∧
    (∃ (flow : Nat) (s : State) (c : _) (first : _), (flow < 2048) ∧ (s.asleep Src.depacketizer = false) ∧ ((s.queue (ifqId flow)).isEmpty = false) ∧ ((s.iflow flow).channel = some c) ∧ ((s.iflow flow).kind = 1) ∧
    let x := s.channel c
    let v := s.headEntry (ifqId flow)
    let r := s.chainCells (bitsAt v 14 3) (bitsAt v 0 14)
    let pkt := s.mergePktOf v (s.loadFrame r.1 (bitsAt v 17 14))
    let k := ((x.merge.highest : Int) + x.merge.ahead pkt.seq).toNat
    (x.decode = true) ∧ (x.state.live = true) ∧ (x.cfg.injectQid = 0) ∧ (r.2 = true) ∧ (x.merge.ssrc = some pkt.ssrc) ∧ (x.merge.jumps pkt.ssrc pkt.seq = false) ∧ (x.unitOf k = none) ∧ (SMap.get (fun _ => none) x.merge.got k = some first) ∧ (first.1 = pkt.kept.1)) ∧
    (∃ (flow : Nat) (n : StreamNote) (s : State) (c : _) (t : _), (flow < 2048) ∧ (s.asleep Src.depacketizer = false) ∧ ((s.queue (ifqId flow)).isEmpty = false) ∧ ((s.iflow flow).channel = some c) ∧ ((s.iflow flow).kind = 1) ∧
    let x := s.channel c
    let v := s.headEntry (ifqId flow)
    let r := s.chainCells (bitsAt v 14 3) (bitsAt v 0 14)
    let pkt := s.mergePktOf v (s.loadFrame r.1 (bitsAt v 17 14))
    let k := ((x.merge.highest : Int) + x.merge.ahead pkt.seq).toNat
    (x.decode = true) ∧ (x.state.live = true) ∧ (x.cfg.injectQid = 0) ∧ (r.2 = true) ∧ (x.merge.ssrc = some pkt.ssrc) ∧ (x.merge.jumps pkt.ssrc pkt.seq = false) ∧ (x.unitOf k = none) ∧ (SMap.get (fun _ => none) x.merge.got k = none) ∧ (x.merge.isLost k = false) ∧ (x.overdue k (x.unitAt pkt.ts k) pkt.arrival = false) ∧ (s.placePacket c k pkt n = (t, true))) ∧
    (∃ (flow : Nat) (s : State) (c : _), (flow < 2048) ∧ (s.asleep Src.depacketizer = false) ∧ ((s.queue (ifqId flow)).isEmpty = false) ∧ ((s.iflow flow).channel = some c) ∧ ((s.iflow flow).kind = 1) ∧
    let x := s.channel c
    let v := s.headEntry (ifqId flow)
    let r := s.chainCells (bitsAt v 14 3) (bitsAt v 0 14)
    let pkt := s.mergePktOf v (s.loadFrame r.1 (bitsAt v 17 14))
    let k := ((x.merge.highest : Int) + x.merge.ahead pkt.seq).toNat
    (x.decode = true) ∧ (x.state.live = true) ∧ (x.cfg.injectQid = 0) ∧ (r.2 = true) ∧ (x.merge.ssrc = some pkt.ssrc) ∧ (x.merge.jumps pkt.ssrc pkt.seq = false) ∧ (x.unitOf k = none) ∧ (SMap.get (fun _ => none) x.merge.got k = none) ∧ (x.merge.isLost k = true)) ∧
    (∃ (c : Nat) (q : Nat) (s : State), (c < 128) ∧ ((s.channel c).decode = true) ∧ ((s.channel c).state.live = true) ∧ ((s.channel c).cfg.injectQid = 0) ∧ (s.lossDue c q = true)) ∧
    (∃ (c : Nat) (q : Nat) (s : State), (c < 128) ∧ (s.lossDue c q = false)) ∧
    (∃ (c : Nat) (s : State), (c < 128) ∧
    let x := s.channel c
    let q := x.cfg.injectQid
    (x.decode = true) ∧ (x.state.live = true) ∧ (q ≠ 0) ∧ ((s.queue q).valid = true) ∧ (s.nowT ≤ x.startNs * tauNs)) ∧
    (∃ (c : Nat) (s : State), (c < 128) ∧
    let x := s.channel c
    let q := x.cfg.injectQid
    (x.decode = true) ∧ (x.state.live = true) ∧ (q ≠ 0) ∧ ((s.queue q).valid = true) ∧ (s.ownedEntry q = none)) ∧
    (∃ (c : Nat) (s : State) (v : _), (c < 128) ∧
    let x := s.channel c
    let q := x.cfg.injectQid
    (x.decode = true) ∧ (x.state.live = true) ∧ (q ≠ 0) ∧ ((s.queue q).valid = true) ∧ (x.startNs * tauNs < s.nowT) ∧ (s.ownedEntry q = some v) ∧ (bitAt v 176 = false) ∧ (x.merge.highest ≠ 0) ∧ (bitsAt v 96 24 = 0)) ∧
    (∃ (c : Nat) (s : State) (v : _) (d : _) (p : _) (t : _), (c < 128) ∧
    let x := s.channel c
    let q := x.cfg.injectQid
    (x.decode = true) ∧ (x.state.live = true) ∧ (q ≠ 0) ∧ ((s.queue q).valid = true) ∧ (x.startNs * tauNs < s.nowT) ∧ (s.ownedEntry q = some v) ∧ (bitAt v 176 = false) ∧ (x.merge.highest ≠ 0) ∧ (bitsAt v 96 24 ≠ 0) ∧ (bitsAt v 96 24 ≤ bitsAt v 64 24) ∧ (s.hostRead (bitsAt v 0 64) (bitsAt v 96 24) = some d) ∧ (x.merge.openUnit = some p) ∧ ((x.pic p).lostAll = false) ∧ ((x.pic p).closed = false) ∧ (s.morePages (bitsAt v 96 24 / 65536 + 2) c p 21 (bitsAt v 96 24) = (t, true))) :=
  ⟨⟨2047, up, by decide +kernel⟩,
   ⟨5, (arrived5.modIflow 5 fun f => { f with channel := none }), by decide +kernel⟩,
   ⟨5, (merging [(0, some ((mergePkt0).kept.1, 0))]), 3, ((mergePkt0.kept.1, 0)), by decide +kernel⟩,
   ⟨5, {}, (merging []), 3, (((merging []).placePacket 3 0 mergePkt0 {}).1), by decide +kernel⟩,
   ⟨5, ((merging []).modChannel 3 fun x => { x with merge := { x.merge with lost := [(0, true)] } }), 3, by decide +kernel⟩,
   ⟨3, 1, (atNs (chan up 3 { state := .running, decode := true, merge := { highest := 5, got := [(2, some (0, 0))] } }) 1000000000), by decide +kernel⟩,
   ⟨3, 1, up, by decide +kernel⟩,
   ⟨3, (injecting []), by decide +kernel⟩,
   ⟨3, (atNs (injecting []) 1), by decide +kernel⟩,
   ⟨3, (atNs (injecting (bytesOf (2 ^ 480) 64)) 1), (2 ^ 480), by decide +kernel⟩,
   ⟨3, (atNs (injecting (bytesOf (2 ^ 480 + 2 ^ 96 + 2 ^ 64 + 0x9000) 64)) 1), (2 ^ 480 + 2 ^ 96 + 2 ^ 64 + 0x9000), 0, 0, (((atNs (injecting (bytesOf (2 ^ 480 + 2 ^ 96 + 2 ^ 64 + 0x9000) 64)) 1).morePages 2 3 0 21 1).1), by decide +kernel⟩⟩

/-- `DecodedPicturesAreSent`: a state and operands that meet the hypotheses of each clause in turn. -/
theorem test_DecodedPicturesAreSent :
    (∃ (c : Nat) (t : Nat) (s : State), (c < 128) ∧ ((s.channel c).decode = true) ∧ ((s.channel c).state.live = true) ∧ ((s.channel c).out.nextSlot = some t) ∧ (t ≤ s.nowT)) ∧
    (∃ (c : Nat) (t : Nat) (s : State), (c < 128) ∧ ((s.channel c).decode = true) ∧ ((s.channel c).state.live = true) ∧ ((s.channel c).out.nextSlot = some t) ∧ (s.nowT < t)) ∧
    (∃ (c : Nat) (s : State), (c < 128) ∧ ((s.flt.safe = true ∨ s.asleep Src.egress = true))) ∧
    (∃ (c : Nat) (t : Nat) (q : OutSlot) (rest : List OutSlot) (s : State), (c < 128) ∧ ((s.channel c).decode = true) ∧ ((s.channel c).state.live = true) ∧ (s.flt.safe = false) ∧ (s.asleep Src.egress = false) ∧ ((s.channel c).out.active = q :: rest) ∧ ((s.channel c).bandStart q q.nextBand = some t) ∧ (s.nowT < t)) ∧
    (∃ (c : Nat) (t : Nat) (q : OutSlot) (rest : List OutSlot) (s : State), (c < 128) ∧ ((s.channel c).decode = true) ∧ ((s.channel c).state.live = true) ∧ (s.flt.safe = false) ∧ (s.asleep Src.egress = false) ∧ ((s.channel c).out.active = q :: rest) ∧ ((s.channel c).bandStart q q.nextBand = some t) ∧ (t ≤ s.nowT) ∧ (q.chosen = true) ∧ (q.pic = none)) ∧
    (∃ (c : Nat) (t : Nat) (q : OutSlot) (rest : List OutSlot) (s : State) (p : _), (c < 128) ∧ ((s.channel c).decode = true) ∧ ((s.channel c).state.live = true) ∧ (s.flt.safe = false) ∧ (s.asleep Src.egress = false) ∧ ((s.channel c).out.active = q :: rest) ∧ ((s.channel c).bandStart q q.nextBand = some t) ∧ (t ≤ s.nowT) ∧ (q.chosen = true) ∧ (q.pic = some p) ∧ (s.egressOf c = [])) ∧
    (∃ (c : Nat) (t : Nat) (q : OutSlot) (rest : List OutSlot) (s : State) (p : _), (c < 128) ∧ ((s.channel c).decode = true) ∧ ((s.channel c).state.live = true) ∧ (s.flt.safe = false) ∧ (s.asleep Src.egress = false) ∧ ((s.channel c).out.active = q :: rest) ∧ ((s.channel c).bandStart q q.nextBand = some t) ∧ (t ≤ s.nowT) ∧ (q.chosen = true) ∧ (q.pic = some p)) :=
  ⟨⟨127, 27000000, (atNs (chan up 127 { state := .running, decode := true, out := { nextSlot := some 27000000 } }) 1000), by decide +kernel⟩,
   ⟨127, 27000001, (atNs (chan up 127 { state := .running, decode := true, out := { nextSlot := some 27000001 } }) 1000), by decide +kernel⟩,
   ⟨127, { up with flt := { up.flt with safe := true } }, by decide +kernel⟩,
   ⟨3, slotDue, { slotT := 0 }, [], (atNs (sending { slotT := 0 }) 0), by decide +kernel⟩,
   ⟨3, slotDue, { slotT := 0, chosen := true }, [], (sending { slotT := 0, chosen := true }), by decide +kernel⟩,
   ⟨3, slotDue, { slotT := 0, chosen := true, pic := some 0 }, [], (sending { slotT := 0, chosen := true, pic := some 0 }), 0, by decide +kernel⟩,
   ⟨3, slotDue, { slotT := 0, chosen := true, pic := some 0 }, [], (sending { slotT := 0, chosen := true, pic := some 0 }), 0, by decide +kernel⟩⟩

/-- `PortsSendAndTheirLinks`: a state and operands that meet the hypotheses of each clause in turn. -/
theorem test_PortsSendAndTheirLinks :
    (∃ (port : Nat) (s : State), (port < 8) ∧ ((s.flt.safe = true ∨ s.nowC < (s.gate port).freeAt ∨ s.asleep (Src.gate + port) = true))) ∧
    (∃ (port : Nat) (s : State), (port < 8) ∧ (s.flt.safe = false) ∧ (s.asleep (Src.gate + port) = false) ∧ ((s.gate port).freeAt ≤ s.nowC) ∧ (s.net.passWait = []) ∧ (s.portFlows port = [])) ∧
    (∃ (port : Nat) (s : State) (f : _), (port < 8) ∧ (s.flt.safe = false) ∧ (s.asleep (Src.gate + port) = false) ∧ ((s.gate port).freeAt ≤ s.nowC) ∧ (s.net.passWait = []) ∧ (s.portFlows port = [f]) ∧ ((s.gateFlow f).classOf < 8) ∧ (s.headDrop port f = none) ∧ (s.headEligible f = true) ∧ (s.gateOpen port (s.gateFlow f).classOf = true) ∧ (s.guardLets port f = true)) ∧
    (∃ (port : Nat) (s : State), (port < 8) ∧ (((s.ptpPort port).enable = false ∨ s.flt.safe = true))) ∧
    (∃ (port : Nat) (k : PtpKind) (s : State) (t : _), (port < 8) ∧ ((s.ptpPort port).enable = true) ∧ (s.flt.safe = false) ∧ ((k ≠ .delayReq ∨ s.time.slavePort ≠ some port)) ∧
    let seq := (s.time.ptpSent.filter fun e => decide (e = (port, ptpKindCode k))).length
    let r := State.ptpFrame { s with time := { s.time with ptpSent := (port, ptpKindCode k) :: s.time.ptpSent } } port k seq
    (State.allocCells (chainLen r.2.length) r.1 19 [] = (t, none))) ∧
    (∃ (port : Nat) (k : PtpKind) (s : State) (t : _) (cells : _), (port < 8) ∧ ((s.ptpPort port).enable = true) ∧ (s.flt.safe = false) ∧ ((k ≠ .delayReq ∨ s.time.slavePort ≠ some port)) ∧
    let seq := (s.time.ptpSent.filter fun e => decide (e = (port, ptpKindCode k))).length
    let r := State.ptpFrame { s with time := { s.time with ptpSent := (port, ptpKindCode k) :: s.time.ptpSent } } port k seq
    (State.allocCells (chainLen r.2.length) r.1 19 [] = (t, some cells)) ∧
    let u := t.storeFrame cells (r.2.map (BitVec.ofNat 8))
    ((u.queue (efqId (2032 + port))).valid = true)) ∧
    (∃ (port : Nat) (s : State), (port < 8) ∧ ((s.port port).linkUp = true)) ∧
    (∃ (port : Nat) (s : State), (port < 8) ∧ ((s.port port).linkUp = false)) ∧
    (∃ (port : Nat) (s : State), (port < 8) ∧
    let a := Reg.netPortCfg + 0x1000 * port
    (bitAt (s.regN a) 0 = true) ∧ ((s.port port).linkUp = false)) ∧
    (∃ (port : Nat) (s : State), (port < 8) ∧
    let a := Reg.netPortCfg + 0x1000 * port
    ((bitAt (s.regN a) 0 = false ∨ (s.port port).linkUp = true))) ∧
    (∃ (port : Nat), (port < 8)) :=
  ⟨⟨7, { up with flt := { up.flt with safe := true } }, by decide +kernel⟩,
   ⟨7, up, by decide +kernel⟩,
   ⟨7, queued2039, 2039, by decide +kernel⟩,
   ⟨7, up, by decide +kernel⟩,
   ⟨7, .announce, noCells, (((State.allocCells (chainLen (ptpSeq noCells).2.length) (ptpSeq noCells).1 19 [])).1), by decide +kernel⟩,
   ⟨7, .announce, ptpOn, ((State.allocCells (chainLen (ptpSeq ptpOn).2.length) (ptpSeq ptpOn).1 19 []).1), ((State.allocCells (chainLen (ptpSeq ptpOn).2.length) (ptpSeq ptpOn).1 19 []).2.getD []), by decide +kernel⟩,
   ⟨7, bound5, by decide +kernel⟩,
   ⟨7, up, by decide +kernel⟩,
   ⟨7, (up.setRegN (Reg.netPortCfg + 0x7000) 0x21), by decide +kernel⟩,
   ⟨7, bound5, by decide +kernel⟩,
   ⟨0, by decide +kernel⟩⟩

/-- `ChannelsReachTheirStates`: a state and operands that meet the hypotheses of each clause in turn. -/
theorem test_ChannelsReachTheirStates :
    (∃ (c : Nat) (s : State), (c < 128) ∧ ((s.channel c).state = .armed) ∧ ((s.channel c).startNs ≤ s.now)) ∧
    (∃ (c : Nat) (s : State), (c < 128) ∧ (((s.channel c).state ≠ .armed ∨ s.now < (s.channel c).startNs))) ∧
    (∃ (c : Nat) (s : State) (t : _), (c < 128) ∧ ((s.channel c).stopNs = some t) ∧ ((s.channel c).state = .running) ∧ (t ≤ s.now)) ∧
    (∃ (c : Nat) (s : State), (c < 128) ∧ ((s.channel c).stopNs = none)) ∧
    (∃ (c : Nat) (s : State) (t : _), (c < 128) ∧ ((s.channel c).stopNs = some t) ∧ (((s.channel c).state ≠ .running ∨ s.now < t))) ∧
    (∃ (c : Nat) (s : State), (c < 128) ∧ (s.flt.reaction = none)) ∧
    (∃ (c : Nat) (s : State) (r : _) (k : _), (c < 128) ∧ (s.flt.reaction = some r) ∧ (r.channels.find? (fun e => e.1 = c) = some (c, k))) :=
  ⟨⟨127, (atNs (chan up 127 { state := .armed, startNs := 1000 }) 1000), by decide +kernel⟩,
   ⟨127, (atNs (chan up 127 { state := .armed, startNs := 1000 }) 999), by decide +kernel⟩,
   ⟨127, (atNs (chan up 127 { state := .running, stopNs := some 1000 }) 1000), 1000, by decide +kernel⟩,
   ⟨127, up, by decide +kernel⟩,
   ⟨127, (atNs (chan up 127 { state := .running, stopNs := some 1000 }) 999), 1000, by decide +kernel⟩,
   ⟨127, up, by decide +kernel⟩,
   ⟨127, { chan up 127 { state := .running } with flt := { up.flt with reaction := some react } }, react, 0x20, by decide +kernel⟩⟩

/-- `BandsBecomeReady`: a state and operands that meet the hypotheses of each clause in turn. -/
theorem test_BandsBecomeReady :
    (∃ (c : Nat) (p : Nat) (b : Nat) (s : State), (c < 128) ∧
    let i : BandId := ⟨c, p, b⟩
    let u := s.band i
    (u.complete = none)) ∧
    (∃ (c : Nat) (p : Nat) (b : Nat) (s : State) (done : _), (c < 128) ∧
    let i : BandId := ⟨c, p, b⟩
    let x := s.channel c
    let u := s.band i
    (u.complete = some done) ∧ (s.bandRuns i = true) ∧ (u.state = .arriving) ∧ (x.windowOpen p b ≤ s.nowT)) ∧
    (∃ (c : Nat) (p : Nat) (b : Nat) (s : State) (done : _), (c < 128) ∧
    let i : BandId := ⟨c, p, b⟩
    let x := s.channel c
    let u := s.band i
    (u.complete = some done) ∧ (s.bandRuns i = true) ∧ (u.state = .arriving) ∧ (s.nowT < x.windowOpen p b)) ∧
    (∃ (c : Nat) (p : Nat) (b : Nat) (s : State), (c < 128) ∧
    let x := s.channel c
    let unseen := x.decode && decide (b = 0) && decide ((x.pic p).ptype = 0) && x.pics.any fun e => decide (e.1 = p)
    (unseen = true) ∧ (x.inputDeadline p b ≤ s.nowT)) ∧
    (∃ (c : Nat) (p : Nat) (b : Nat) (s : State), (c < 128) ∧
    let i : BandId := ⟨c, p, b⟩
    let x := s.channel c
    let unseen := x.decode && decide (b = 0) && decide ((x.pic p).ptype = 0) && x.pics.any fun e => decide (e.1 = p)
    ((s.nowT < x.inputDeadline p b ∨ unseen = false ∧ s.bandRuns i = false))) ∧
    (∃ (c : Nat) (p : Nat) (b : Nat) (s : State), (c < 128) ∧
    let i : BandId := ⟨c, p, b⟩
    let x := s.channel c
    let u := s.band i
    let unseen := x.decode && decide (b = 0) && decide ((x.pic p).ptype = 0) && x.pics.any fun e => decide (e.1 = p)
    (x.inputDeadline p b ≤ s.nowT) ∧ (unseen = false) ∧ (s.bandRuns i = true) ∧ (u.state = .arriving) ∧ (u.reconOpen = false) ∧ (x.decode = true)) ∧
    (∃ (c : Nat) (p : Nat) (b : Nat) (s : State), (c < 128) ∧
    let i : BandId := ⟨c, p, b⟩
    let x := s.channel c
    let u := s.band i
    let unseen := x.decode && decide (b = 0) && decide ((x.pic p).ptype = 0) && x.pics.any fun e => decide (e.1 = p)
    (x.inputDeadline p b ≤ s.nowT) ∧ (unseen = false) ∧ (s.bandRuns i = true) ∧ (u.state = .arriving) ∧ (u.reconOpen = false) ∧ (x.decode = false) ∧ ((s.pairedBand i = false ∨ u.complete ≠ none))) ∧
    (∃ (c : Nat) (p : Nat) (b : Nat) (s : State), (c < 128) ∧
    let i : BandId := ⟨c, p, b⟩
    let x := s.channel c
    let u := s.band i
    let unseen := x.decode && decide (b = 0) && decide ((x.pic p).ptype = 0) && x.pics.any fun e => decide (e.1 = p)
    (x.inputDeadline p b ≤ s.nowT) ∧ (unseen = false) ∧ (s.bandRuns i = true) ∧ (u.state = .arriving) ∧ (u.reconOpen = false) ∧ (x.decode = false) ∧ (s.pairedBand i = true) ∧ (u.complete = none)) ∧
    (∃ (c : Nat) (p : Nat) (b : Nat) (s : State), (c < 128) ∧
    let i : BandId := ⟨c, p, b⟩
    let x := s.channel c
    let u := s.band i
    (x.decode = false) ∧ ((u.state = .ready ∨ u.state = .named ∨ u.state = .coding)) ∧ (b < x.cfg.bandCount) ∧ (u.cplx = none)) ∧
    (∃ (c : Nat) (p : Nat) (b : Nat) (s : State) (v : _), (c < 128) ∧
    let i : BandId := ⟨c, p, b⟩
    let x := s.channel c
    let u := s.band i
    (x.decode = false) ∧ ((u.state = .ready ∨ u.state = .named ∨ u.state = .coding)) ∧ (b < x.cfg.bandCount) ∧ (u.cplx = some v)) :=
  ⟨⟨127, 0, 0, up, by decide +kernel⟩,
   ⟨3, 0, 0, (oneBand { complete := some 5 }), 5, by decide +kernel⟩,
   ⟨3, 200, 0, ((oneBand {}).modBand ⟨3, 200, 0⟩ fun u => { u with complete := some 5 }), 5, by decide +kernel⟩,
   ⟨3, 0, 0, (chan (oneBand {}) 3 { state := .running, decode := true, pics := [(0, {})] }), by decide +kernel⟩,
   ⟨127, 0, 0, up, by decide +kernel⟩,
   ⟨3, 0, 0, (chan (oneBand {}) 3 { state := .running, decode := true, pics := [(0, { startsDec := true, ptype := 1 })] }), by decide +kernel⟩,
   ⟨3, 0, 0, (oneBand {}), by decide +kernel⟩,
   ⟨3, 0, 0, leading, by decide +kernel⟩,
   ⟨3, 0, 0, (oneBand { state := .ready }), by decide +kernel⟩,
   ⟨3, 0, 0, (oneBand { state := .ready, cplx := some 7 }), 7, by decide +kernel⟩⟩

/-- `BanksAndSwitches`: a state and operands that meet the hypotheses of each clause in turn. -/
theorem test_BanksAndSwitches :
    (∃ (t : Nat) (s : State) (k : _) (rest : _) (i : _), (t < 8) ∧
    let x := s.tamb t
    (x.loads = k :: rest) ∧ ((x.bank k).phase = .loading) ∧ (x.coding = none) ∧ (s.firstBand x.namedBands = some i) ∧ ((x.bank k).band = some i)) ∧
    (∃ (t : Nat) (s : State) (k : _) (rest : _), (t < 8) ∧
    let x := s.tamb t
    (x.loads = k :: rest) ∧ ((x.bank k).phase = .loading) ∧ ((x.coding.isSome = true ∨ ∃ i j, (x.bank k).band = some i ∧ s.firstBand x.namedBands = some j ∧ i ≠ j))) ∧
    (∃ (t : Nat) (s : State), (t < 8) ∧
    let x := s.tamb t
    (x.loads = [])) ∧
    (∃ (t : Nat) (s : State) (w : _), (t < 8) ∧
    let x := s.tamb t
    (x.windows.find? (fun w => !w.ready) = some w)) ∧
    (∃ (t : Nat) (s : State), (t < 8) ∧
    let x := s.tamb t
    (x.windows.find? (fun w => !w.ready) = none)) ∧
    (∃ (t : Nat) (s : State), (t < 8) ∧
    let x := s.tamb t
    ((x.bankA.phase = .writing ∨ x.bankB.phase = .writing))) ∧
    (∃ (t : Nat) (s : State), (t < 8) ∧
    let x := s.tamb t
    (x.bankA.phase ≠ .writing) ∧ (x.bankB.phase ≠ .writing)) ∧
    (∃ (t : Nat) (s : State), (t < 8) ∧ (s.nextBand t = none)) ∧
    (∃ (t : Nat) (s : State) (i : _) (k : _), (t < 8) ∧
    let x := s.tamb t
    (s.nextBand t = some (i, k)) ∧ (x.coding = none) ∧ (x.repairs = []) ∧ (s.clocked t = true) ∧ (s.flt.safe = false) ∧ (x.freeAt + 96 * tauNs ≤ s.nowT)) ∧
    (∃ (t : Nat) (s : State) (i : _) (k : _), (t < 8) ∧
    let x := s.tamb t
    (s.nextBand t = some (i, k)) ∧ ((x.coding.isSome = true ∨ x.repairs ≠ [] ∨ s.clocked t = false ∨ s.flt.safe = true ∨ s.nowT < x.freeAt + 96 * tauNs))) ∧
    (∃ (t : Nat), (t < 8)) :=
  ⟨⟨7, ((oneBand { state := .named }).modTamb 7 fun x => { x with bankB := { phase := .loading, band := some ⟨3, 0, 0⟩ }, loads := [1] }), 1, [], ⟨3, 0, 0⟩, by decide +kernel⟩,
   ⟨7, ((codes {}).modTamb 7 fun x => { x with bankB := { phase := .loading }, loads := [1, 0] }), 1, [0], by decide, rfl, by decide +kernel, .inl rfl⟩,
   ⟨7, up, by decide +kernel⟩,
   ⟨7, (up.modTamb 7 fun x => { x with windows := [⟨0, ⟨3, 0, 1⟩, [], true⟩, ⟨1, ⟨3, 0, 0⟩, [], false⟩] }), ⟨1, ⟨3, 0, 0⟩, [], false⟩, by decide +kernel⟩,
   ⟨7, up, by decide +kernel⟩,
   ⟨7, (up.modTamb 7 fun x => { x with bankA := { phase := .writing } }), by decide +kernel⟩,
   ⟨7, up, by decide +kernel⟩,
   ⟨7, up, by decide +kernel⟩,
   ⟨0, (switching 0xFF), ⟨3, 0, 0⟩, 0, by decide +kernel⟩,
   ⟨0, (switching 0xFE), ⟨3, 0, 0⟩, 0, by decide +kernel⟩,
   ⟨0, by decide +kernel⟩⟩

/-- `TheSequencerRuns`: a state and operands that meet the hypotheses of each clause in turn. -/
theorem test_TheSequencerRuns :
    (∃ (t : Nat) (s : State), (t < 8) ∧ ((s.tamb t).coding = none)) ∧
    (∃ (t : Nat) (s : State) (i : _), (t < 8) ∧
    let q := (s.tamb t).seqr
    ((s.tamb t).coding = some i) ∧ ((q.running = false ∨ q.spent = true))) ∧
    (∃ (t : Nat) (s : State) (i : _), (t < 8) ∧
    let q := (s.tamb t).seqr
    ((s.tamb t).coding = some i) ∧ (q.running = true) ∧ (q.spent = false) ∧ ((mwMoveOp ((s.store t).word q.addr) ≠ 15 ∨ openBase ≤ q.addr))) ∧
    (∃ (t : Nat) (s : State) (i : _), (t < 8) ∧
    let q := (s.tamb t).seqr
    ((s.tamb t).coding = some i) ∧ (q.running = true) ∧ (q.spent = false) ∧ (mwMoveOp ((s.store t).word q.addr) = 15) ∧ (q.addr < openBase)) ∧
    (∃ (t : Nat) (s : State) (i : _), (t < 8) ∧
    let q := (s.tamb t).seqr
    ((s.tamb t).coding = some i) ∧ (q.hook = none)) ∧
    (∃ (t : Nat) (s : State) (i : _) (k : _), (t < 8) ∧
    let q := (s.tamb t).seqr
    ((s.tamb t).coding = some i) ∧ (q.hook = some k) ∧ (k.left ≠ 0)) ∧
    (∃ (t : Nat) (s : State) (i : _) (k : _), (t < 8) ∧
    let q := (s.tamb t).seqr
    ((s.tamb t).coding = some i) ∧ (q.hook = some k) ∧ (k.left = 0)) ∧
    (∃ (t : Nat) (s : State) (x : Tamb) (q : Sequencer) (k : _), (t < 8) ∧ (x = s.tamb t) ∧ (x.seqr.hook = some k) ∧ (k.hook = 3) ∧ (q.hook = none)) ∧
    (∃ (t : Nat) (s : State) (x : Tamb) (q : Sequencer) (k : _), (t < 8) ∧ (x = s.tamb t) ∧ (x.seqr.hook = some k) ∧ (k.hook = 2) ∧ (q.hook = none)) ∧
    (∃ (t : Nat) (s : State) (x : Tamb) (q : Sequencer), (t < 8) ∧ (x = s.tamb t) ∧ ((x.seqr.hook = none ∨ q.hook.isSome = true ∨ ∃ k, x.seqr.hook = some k ∧ k.hook ≠ 3 ∧ k.hook ≠ 2))) ∧
    (∃ (t : Nat) (s : State) (x : Tamb), (t < 8) ∧ (x = s.tamb t)) :=
  ⟨⟨7, up, by decide +kernel⟩,
   ⟨7, (codes {}), ⟨3, 0, 0⟩, by decide +kernel⟩,
   ⟨7, (codes { running := true }), ⟨3, 0, 0⟩, by decide +kernel⟩,
   ⟨7, { codes { running := true } with prk := [(7, ({} : Store).write ⟨128, false, false, [(0, transferWord)], 0, 0⟩)] }, ⟨3, 0, 0⟩, by decide +kernel⟩,
   ⟨7, (codes { running := true }), ⟨3, 0, 0⟩, by decide +kernel⟩,
   ⟨7, (codes { running := true, hook := some ⟨0, 1⟩ }), ⟨3, 0, 0⟩, ⟨0, 1⟩, by decide +kernel⟩,
   ⟨7, (codes { running := true, hook := some ⟨0, 0⟩ }), ⟨3, 0, 0⟩, ⟨0, 0⟩, by decide +kernel⟩,
   ⟨7, (codes { hook := some ⟨3, 0⟩ }), ((codes { hook := some ⟨3, 0⟩ }).tamb 7), {}, ⟨3, 0⟩, by decide +kernel⟩,
   ⟨7, (codes { hook := some ⟨2, 0⟩ }), ((codes { hook := some ⟨2, 0⟩ }).tamb 7), {}, ⟨2, 0⟩, by decide +kernel⟩,
   ⟨7, (codes { hook := some ⟨0, 0⟩ }), ((codes { hook := some ⟨0, 0⟩ }).tamb 7), {}, ⟨by decide +kernel, rfl, .inr (.inr ⟨⟨0, 0⟩, rfl, by decide, by decide⟩)⟩⟩,
   ⟨7, up, (up.tamb 7), by decide +kernel⟩⟩

/-- `BlocksPass`: a state and operands that meet the hypotheses of each clause in turn (clauses 1, 2, 3, 4, 5, 6, 7, 9, 10, 11, 12). -/
theorem test_BlocksPass :
    (∃ (t : Nat) (s : State), (t < 8) ∧ ((s.tamb t).coding = none)) ∧
    (∃ (t : Nat) (i : BandId) (w : BlockWork) (s : State), (t < 8) ∧ ((s.tamb t).coding = some i) ∧ ((s.channel i.ch).abandonAt i.pic i.b < s.nowT) ∧ ((w = .enc → (s.tamb t).coder.ended = false))) ∧
    (∃ (t : Nat) (i : BandId) (s : State), (t < 8) ∧ ((s.tamb t).coding = some i) ∧ ((s.channel i.ch).decode = false) ∧ ((s.nowT ≤ (s.channel i.ch).abandonAt i.pic i.b ∨ (s.tamb t).coder.ended = true)) ∧
    let u := s.pour t i
    let z := (u.tamb t).coder
    ((z.queue ≠ [] ∨ z.closes = true ∨ z.ended = true ∨ u.hooksDue t i = true))) ∧
    (∃ (t : Nat) (i : BandId) (s : State), (t < 8) ∧ ((s.tamb t).coding = some i) ∧ ((s.channel i.ch).decode = false) ∧ ((s.nowT ≤ (s.channel i.ch).abandonAt i.pic i.b ∨ (s.tamb t).coder.ended = true)) ∧
    let u := s.pour t i
    let z := (u.tamb t).coder
    (z.queue = []) ∧ (z.closes = false) ∧ (z.ended = false) ∧ (u.hooksDue t i = false)) ∧
    (∃ (t : Nat) (i : BandId) (d : DecBlock) (s : State), (t < 8) ∧ ((s.tamb t).coding = some i) ∧ ((s.channel i.ch).decode = true) ∧ (s.nowT ≤ (s.channel i.ch).abandonAt i.pic i.b) ∧
    let n := ((s.channel i.ch).cfgOf i.pic).bandBlocks i.b
    ((s.tamb t).blocks < n) ∧
    let u := s.decodeBlock t i d
    ((u.tamb t).blocks < n)) ∧
    (∃ (t : Nat) (i : BandId) (d : DecBlock) (s : State), (t < 8) ∧ ((s.tamb t).coding = some i) ∧ ((s.channel i.ch).decode = true) ∧ (s.nowT ≤ (s.channel i.ch).abandonAt i.pic i.b) ∧
    let n := ((s.channel i.ch).cfgOf i.pic).bandBlocks i.b
    ((s.tamb t).blocks < n) ∧
    let u := s.decodeBlock t i d
    (n ≤ (u.tamb t).blocks)) ∧
    (∃ (t : Nat) (i : BandId) (w : BlockWork) (s : State), (t < 8) ∧ ((s.tamb t).coding = some i) ∧ (s.nowT ≤ (s.channel i.ch).abandonAt i.pic i.b) ∧ ((w = .enc ↔ (s.channel i.ch).decode = true))) ∧
    (∃ (c : Nat) (p : Nat) (b : Nat) (s : State), (c < 128) ∧
    let i : BandId := ⟨c, p, b⟩
    (((s.band i).state = .ready ∨ (s.band i).state = .named ∨ (s.band i).state = .coding)) ∧
    let z := s.tamb (s.channel c).tambour
    ((s.channel c).abandonAt p b ≤ s.nowT) ∧ ((z.coding ≠ some i ∨ z.coder.ended = false))) ∧
    (∃ (c : Nat) (p : Nat) (b : Nat) (s : State), (c < 128) ∧
    let i : BandId := ⟨c, p, b⟩
    (((s.band i).state = .ready ∨ (s.band i).state = .named ∨ (s.band i).state = .coding)) ∧
    let z := s.tamb (s.channel c).tambour
    ((s.nowT < (s.channel c).abandonAt p b ∨ z.coding = some i ∧ z.coder.ended = true))) ∧
    (∃ (t : Nat) (s : State), (t < 8) ∧ ((s.tamb t).repairs = [])) ∧
    (∃ (t : Nat) (s : State) (i : _) (rest : _), (t < 8) ∧ ((s.tamb t).repairs = i :: rest)) :=
  ⟨⟨7, up, by decide +kernel⟩,
   ⟨7, ⟨3, 0, 0⟩, .enc, (codes {}), by decide +kernel⟩,
   ⟨7, ⟨3, 0, 0⟩, { coding0 { queue := [1] } with spouts := [(7, { closed := [0, 1] })] }, by decide +kernel⟩,
   ⟨7, ⟨3, 0, 0⟩, (coding0 {}), by decide +kernel⟩,
   ⟨7, ⟨3, 0, 0⟩, decBlock, decoding, by decide +kernel⟩,
   ⟨7, ⟨3, 0, 0⟩, decBlock, (decoding.modTamb 7 fun x => { x with blocks := blocks0 - 1 }), by decide +kernel⟩,
   ⟨7, ⟨3, 0, 0⟩, .enc, decoding, by decide +kernel⟩,
   ⟨3, 0, 0, (oneBand { state := .ready }), by decide +kernel⟩,
   ⟨3, 0, 0, (atNs (oneBand { state := .coding }) 0), by decide +kernel⟩,
   ⟨7, up, by decide +kernel⟩,
   ⟨7, ((chan up 3 { state := .running, decode := true, pics := [(0, { bands := [(0, { blocks := blocks0 - 1 })] })] }).modTamb 7 fun x => { x with repairs := [⟨3, 0, 0⟩] }), ⟨3, 0, 0⟩, [], by decide +kernel⟩⟩

/-- `BandsDrainReleaseAndRetire`: a state and operands that meet the hypotheses of each clause in turn. -/
theorem test_BandsDrainReleaseAndRetire :
    (∃ (n : Nat) (s : State), (n < 8) ∧ ((s.flt.safe = true ∨ s.asleep (Src.spout + n) = true ∨ s.asleep Src.packetizer = true ∨ (s.spout n).closed = []))) ∧
    (∃ (n : Nat) (k : Nat) (rest : List Nat) (e : Nat × SpoutWord) (s : State), (n < 8) ∧ (s.flt.safe = false) ∧ (s.asleep (Src.spout + n) = false) ∧ (s.asleep Src.packetizer = false) ∧ ((s.spout n).closed = k :: rest) ∧ ((s.spout n).words.find? (fun e => decide (e.1 = k)) = some e) ∧
    let i : BandId := ⟨e.2.ch, e.2.pic, e.2.band⟩
    (s.wordLives i e.2 = false)) ∧
    (∃ (n : Nat) (k : Nat) (bad : Bool) (rest : List Nat) (e : Nat × SpoutWord) (s : State), (n < 8) ∧ (s.flt.safe = false) ∧ (s.asleep (Src.spout + n) = false) ∧ (s.asleep Src.packetizer = false) ∧ ((s.spout n).closed = k :: rest) ∧ ((s.spout n).words.find? (fun e => decide (e.1 = k)) = some e) ∧
    let i : BandId := ⟨e.2.ch, e.2.pic, e.2.band⟩
    (s.wordLives i e.2 = true) ∧ (e.2.last = false) ∧ ((bad = true ∨ (s.band i).damaged = true ∨ (s.band i).corrupt = true))) ∧
    (∃ (n : Nat) (k : Nat) (bad : Bool) (rest : List Nat) (e : Nat × SpoutWord) (s : State), (n < 8) ∧ (s.flt.safe = false) ∧ (s.asleep (Src.spout + n) = false) ∧ (s.asleep Src.packetizer = false) ∧ ((s.spout n).closed = k :: rest) ∧ ((s.spout n).words.find? (fun e => decide (e.1 = k)) = some e) ∧
    let i : BandId := ⟨e.2.ch, e.2.pic, e.2.band⟩
    (s.wordLives i e.2 = true) ∧ (e.2.last = false) ∧ (bad = false) ∧ ((s.band i).damaged = false) ∧ ((s.band i).corrupt = false) ∧
    let f := s.cellsFor i ((s.band i).nal ++ spoutBytes e.2).length
    (f.2 = true)) ∧
    (∃ (n : Nat) (k : Nat) (bad : Bool) (rest : List Nat) (e : Nat × SpoutWord) (s : State), (n < 8) ∧ (s.flt.safe = false) ∧ (s.asleep (Src.spout + n) = false) ∧ (s.asleep Src.packetizer = false) ∧ ((s.spout n).closed = k :: rest) ∧ ((s.spout n).words.find? (fun e => decide (e.1 = k)) = some e) ∧
    let i : BandId := ⟨e.2.ch, e.2.pic, e.2.band⟩
    (s.wordLives i e.2 = true) ∧ (e.2.last = false) ∧ (bad = false) ∧ ((s.band i).damaged = false) ∧ ((s.band i).corrupt = false) ∧
    let f := s.cellsFor i ((s.band i).nal ++ spoutBytes e.2).length
    (f.2 = false)) ∧
    (∃ (n : Nat) (k : Nat) (bad : Bool) (rest : List Nat) (e : Nat × SpoutWord) (s : State), (n < 8) ∧ (s.flt.safe = false) ∧ (s.asleep (Src.spout + n) = false) ∧ (s.asleep Src.packetizer = false) ∧ ((s.spout n).closed = k :: rest) ∧ ((s.spout n).words.find? (fun e => decide (e.1 = k)) = some e) ∧
    let i : BandId := ⟨e.2.ch, e.2.pic, e.2.band⟩
    (s.wordLives i e.2 = true) ∧ (e.2.last = true) ∧ (bad = false) ∧ ((s.band i).damaged = false) ∧ ((s.band i).corrupt = false) ∧ (s.backedUp e.2.ch = true)) ∧
    (∃ (n : Nat) (k : Nat) (bad : Bool) (rest : List Nat) (e : Nat × SpoutWord) (s : State) (f : _), (n < 8) ∧ (s.flt.safe = false) ∧ (s.asleep (Src.spout + n) = false) ∧ (s.asleep Src.packetizer = false) ∧ ((s.spout n).closed = k :: rest) ∧ ((s.spout n).words.find? (fun e => decide (e.1 = k)) = some e) ∧
    let i : BandId := ⟨e.2.ch, e.2.pic, e.2.band⟩
    (s.wordLives i e.2 = true) ∧ (e.2.last = true) ∧ (bad = false) ∧ ((s.band i).damaged = false) ∧ ((s.band i).corrupt = false) ∧ (s.backedUp e.2.ch = false) ∧ ((s.giveCells i).formPackets i ((s.band i).nal ++ spoutBytes e.2) = (f, false))) ∧
    (∃ (n : Nat) (k : Nat) (bad : Bool) (rest : List Nat) (e : Nat × SpoutWord) (s : State) (f : _), (n < 8) ∧ (s.flt.safe = false) ∧ (s.asleep (Src.spout + n) = false) ∧ (s.asleep Src.packetizer = false) ∧ ((s.spout n).closed = k :: rest) ∧ ((s.spout n).words.find? (fun e => decide (e.1 = k)) = some e) ∧
    let i : BandId := ⟨e.2.ch, e.2.pic, e.2.band⟩
    (s.wordLives i e.2 = true) ∧ (e.2.last = true) ∧ (bad = false) ∧ ((s.band i).damaged = false) ∧ ((s.band i).corrupt = false) ∧ (s.backedUp e.2.ch = false) ∧ ((s.giveCells i).formPackets i ((s.band i).nal ++ spoutBytes e.2) = (f, true))) ∧
    (∃ (c : Nat) (p : Nat) (b : Nat) (s : State), (c < 128) ∧ ((s.nowT < (s.channel c).releaseAt p b ∨ (s.channel c).decode = true))) ∧
    (∃ (c : Nat) (p : Nat) (b : Nat) (s : State), (c < 128) ∧ ((s.channel c).decode = false) ∧ ((s.channel c).state.live = true) ∧ ((s.channel c).releaseAt p b ≤ s.nowT) ∧
    let i : BandId := ⟨c, p, b⟩
    (s.dueBands c = [i]) ∧ ((s.band i).released = false) ∧ (s.releaseStep i = .go) ∧ (((s.channel c).pic p).unsentFrom b = false) ∧ ((s.band i).packets ≠ [])) ∧
    (∃ (c : Nat) (p : Nat) (b : Nat) (s : State), (c < 128) ∧ ((s.channel c).decode = false) ∧ ((s.channel c).state.live = true) ∧ ((s.channel c).releaseAt p b ≤ s.nowT) ∧
    let i : BandId := ⟨c, p, b⟩
    (s.dueBands c = [i]) ∧ ((s.band i).released = false) ∧ (s.releaseStep i = .go) ∧ (((s.channel c).pic p).unsentFrom b = true)) ∧
    (∃ (c : Nat) (p : Nat) (b : Nat) (s : State), (c < 128) ∧ ((s.channel c).decode = false) ∧ ((s.channel c).state.live = true) ∧ ((s.channel c).releaseAt p b ≤ s.nowT) ∧
    let i : BandId := ⟨c, p, b⟩
    (s.dueBands c = [i]) ∧ ((s.band i).released = false) ∧ (s.releaseStep i = .wait)) ∧
    (∃ (c : Nat) (p : Nat) (b : Nat) (s : State) (v : _), (c < 128) ∧
    let i : BandId := ⟨c, p, b⟩
    ((s.band i).state = .coded) ∧ ((s.band i).sentAt = some v) ∧ (v ≤ s.nowT)) ∧
    (∃ (c : Nat) (p : Nat) (b : Nat) (s : State), (c < 128) ∧
    let i : BandId := ⟨c, p, b⟩
    let x := s.channel c
    ((s.band i).sentAt = none) ∧ ((s.outcomeSettled i = false ∨ x.earlierRetired i = false ∨ (x.cfgOf p).bandCount ≤ b))) ∧
    (∃ (c : Nat) (p : Nat) (b : Nat) (s : State), (c < 128) ∧
    let i : BandId := ⟨c, p, b⟩
    let x := s.channel c
    ((s.band i).sentAt = none) ∧ (s.outcomeSettled i = true) ∧ (x.earlierRetired i = true) ∧ (b + 1 < (x.cfgOf p).bandCount) ∧ ((x.state = .running ∨ x.state = .draining))) ∧
    (∃ (c : Nat) (p : Nat) (s : State), (c < 128) ∧ ((s.channel c).decode = false) ∧ ((s.channel c).state.live = true) ∧ ((s.channel c).tPic p ≤ s.nowT) ∧ (((s.channel c).pic p).tc = none)) ∧
    (∃ (c : Nat) (p : Nat) (s : State), (c < 128) ∧ ((s.channel c).decode = false) ∧ ((s.channel c).state.live = true) ∧ ((s.nowT < (s.channel c).tPic p ∨ ((s.channel c).pic p).tc.isSome = true))) :=
  ⟨⟨7, up, by decide +kernel⟩,
   ⟨7, 0, [], ((0, { ch := 3 })), { oneBand {} with spouts := [(7, { closed := [0], words := [(0, { ch := 3 })], fill := 1 })] }, by decide +kernel⟩,
   ⟨7, 0, true, [], ((0, midWord)), midway, by decide +kernel⟩,
   ⟨7, 0, false, [], ((0, midWord)), midway, by decide +kernel⟩,
   ⟨7, 0, false, [], ((0, midWord)), ((cellless midway).modBand ⟨3, 0, 0⟩ fun u => { u with nal := List.replicate 3000 0 }), by decide +kernel⟩,
   ⟨7, 0, false, [], ((0, lastWord)), { drains lastWord with net := { up.net with eflows := [(9, { bound := true, channel := some 3 })], efqWait := [(9, 0)] } }, by decide +kernel⟩,
   ⟨7, 0, false, [], ((0, lastWord)), (cellless (drains lastWord)), ((((cellless (drains lastWord)).giveCells ⟨3, 0, 1⟩).formPackets ⟨3, 0, 1⟩ (spoutBytes lastWord)).1), by decide +kernel⟩,
   ⟨7, 0, false, [], ((0, lastWord)), (drains lastWord), ((((drains lastWord).giveCells ⟨3, 0, 1⟩).formPackets ⟨3, 0, 1⟩ (spoutBytes lastWord)).1), by decide +kernel⟩,
   ⟨127, 0, 0, up, by decide +kernel⟩,
   ⟨3, 0, 0, (released { state := .coded, drained := true, packets := [{ cell := 5, cells := 1, len := 60, marker := true }] }), by decide +kernel⟩,
   ⟨3, 0, 1, afterMirror, by decide +kernel⟩,
   ⟨3, 0, 0, (released { state := .coding }), by decide +kernel⟩,
   ⟨3, 0, 0, (oneBand { state := .coded, sentAt := some 5 }), 5, by decide +kernel⟩,
   ⟨3, 0, 0, (oneBand {}), by decide +kernel⟩,
   ⟨3, 0, 0, (oneBand { state := .sent }), by decide +kernel⟩,
   ⟨3, 0, (oneBand {}), by decide +kernel⟩,
   ⟨3, 200, (oneBand {}), by decide +kernel⟩⟩

/-- `PowerStepsAreGranted`: a state and operands that meet the hypotheses of each clause in turn. -/
theorem test_PowerStepsAreGranted :
    (∃ (h : Nat) (s : State), (h < 4) ∧ (s.hoopOpening h = none)) ∧
    (∃ (h : Nat) (v : Nat) (s : State), (h < 4) ∧ (s.hoopOpening h = some v) ∧
    let lat := if bitAt s.pwr.hoopPll.toNat h then 500 else 20000
    (s.nowT + lat * tauNs < v)) ∧
    (∃ (h : Nat) (v : Nat) (s : State), (h < 4) ∧ (s.hoopOpening h = some v) ∧
    let lat := if bitAt s.pwr.hoopPll.toNat h then 500 else 20000
    (v ≤ s.nowT + lat * tauNs)) ∧
    (∃ (s : State), ((1000 * s.now < s.pwr.nextFree ∨ s.pwr.queue = []))) ∧
    (∃ (r : SlewReq) (s : State), (s.pwr.nextFree ≤ 1000 * s.now) ∧ (firstReq s.pwr.queue = some r) ∧ (r.wake = false)) ∧
    (∃ (r : SlewReq) (s : State), (s.pwr.nextFree ≤ 1000 * s.now) ∧ (firstReq s.pwr.queue = some r) ∧ (r.wake = true) ∧ ((∀ n, r.block ≠ .tambour n))) ∧
    (∃ (r : SlewReq) (s : State) (n : _), (s.pwr.nextFree ≤ 1000 * s.now) ∧ (firstReq s.pwr.queue = some r) ∧ (r.wake = true) ∧ (r.block = .tambour n)) ∧
    (∃ (h : Nat) (s : State), (h < 4) ∧ (bitAt s.pwr.hoopPll.toNat h = false)) ∧
    (∃ (h : Nat) (s : State), (h < 4) ∧ (bitAt s.pwr.hoopPll.toNat h = true)) ∧
    (∃ (t : Nat) (s : State), (t < 8) ∧ ((bitAt s.pwr.tambClk.toNat t = false ∨ bitAt s.pwr.clkGood.toNat (1 + t / 2) = false))) ∧
    (∃ (t : Nat) (s : State) (w : _), (t < 8) ∧ (bitAt s.pwr.tambClk.toNat t = true) ∧ (bitAt s.pwr.clkGood.toNat (1 + t / 2) = true) ∧ ((s.tamb t).wakeAt = some w) ∧ (max s.now (s.tamb t).clkFrom ≤ w)) ∧
    (∃ (t : Nat) (s : State) (w : _), (t < 8) ∧ (bitAt s.pwr.tambClk.toNat t = true) ∧ (bitAt s.pwr.clkGood.toNat (1 + t / 2) = true) ∧ ((s.tamb t).wakeAt = some w) ∧ (w < max s.now (s.tamb t).clkFrom)) :=
  ⟨⟨3, up, by decide +kernel⟩,
   ⟨1, opening, opened, by decide +kernel⟩,
   ⟨1, ((openedSoon.hoopOpening 1).getD 0), openedSoon, by decide +kernel⟩,
   ⟨up, by decide +kernel⟩,
   ⟨⟨.hoop 3, false, 0, 0⟩, (asked ⟨.hoop 3, false, 0, 0⟩), by decide +kernel⟩,
   ⟨⟨.hoop 3, true, 5, 0⟩, (asked ⟨.hoop 3, true, 5, 0⟩), by decide +kernel, by decide +kernel, rfl, by intro n h; cases h⟩,
   ⟨⟨.tambour 0, true, 1000000000, 0⟩, (asked ⟨.tambour 0, true, 1000000000, 0⟩), 0, by decide +kernel⟩,
   ⟨3, { up with pwr := { up.pwr with hoopPll := 7 } }, by decide +kernel⟩,
   ⟨3, { up with pwr := { up.pwr with hoopPll := 8 } }, by decide +kernel⟩,
   ⟨7, up, by decide +kernel⟩,
   ⟨7, { up with pwr := { up.pwr with tambClk := 0x80, clkGood := 0x10 } }.modTamb 7 fun x => { x with wakeAt := some 5, clkFrom := 5 }, 5, by decide +kernel⟩,
   ⟨7, { up with pwr := { up.pwr with tambClk := 0x80, clkGood := 0x10 } }.modTamb 7 fun x => { x with wakeAt := some 5, clkFrom := 6 }, 5, by decide +kernel⟩⟩

/-- `TheArbiterTakesTurns`: a state and operands that meet the hypotheses of each clause in turn. -/
theorem test_TheArbiterTakesTurns :
    (∃ (l : List Nat), ((∀ o ∈ l, o < 64))) ∧
    (∃ (l : List Nat) (last : Nat) (o : Nat), (nextOwner l last = some o)) :=
  ⟨⟨[63], by decide +kernel⟩,
   ⟨([63, 0]), 63, 0, by decide +kernel⟩⟩

/-- `WellsAllocate`: a state and operands that meet the hypotheses of each clause in turn. -/
theorem test_WellsAllocate :
    (∃ (w : WellSel) (s : State), ((s.well w).waiting = [])) ∧
    (∃ (w : WellSel) (l : List Nat) (o : Nat) (s : State), ((∀ k ∈ l, k < 64)) ∧ (nextOwner ((s.well w).waiting ++ l) (s.well w).lastTaken = some o) ∧
    let t := s.modWell w fun x => { x with waiting := (x.waiting ++ l).erase o, lastTaken := o }
    ((w = .page ∨ t.cellWell.rebuild = false)) ∧ (t.allocRule w o = .quotaExceeded)) ∧
    (∃ (w : WellSel) (l : List Nat) (o : Nat) (s : State), ((∀ k ∈ l, k < 64)) ∧ (nextOwner ((s.well w).waiting ++ l) (s.well w).lastTaken = some o) ∧
    let t := s.modWell w fun x => { x with waiting := (x.waiting ++ l).erase o, lastTaken := o }
    ((w = .page ∨ t.cellWell.rebuild = false)) ∧ (t.allocRule w o = .wellEmpty)) ∧
    (∃ (w : WellSel) (l : List Nat) (o : Nat) (s : State), ((∀ k ∈ l, k < 64)) ∧ (nextOwner ((s.well w).waiting ++ l) (s.well w).lastTaken = some o) ∧
    let t := s.modWell w fun x => { x with waiting := (x.waiting ++ l).erase o, lastTaken := o }
    (w = .cell) ∧ (t.cellWell.rebuild = true)) ∧
    (∃ (w : WellSel) (l : List Nat) (o : Nat) (s : State), ((∀ k ∈ l, k < 64)) ∧ (nextOwner ((s.well w).waiting ++ l) (s.well w).lastTaken = some o) ∧
    let t := s.modWell w fun x => { x with waiting := (x.waiting ++ l).erase o, lastTaken := o }
    (w = .page) ∧ (t.allocRule w o = .grant) ∧
    let c := if t.pageWell.cache = [] then t.refill 256 else t
    (c.pageWell.cache = []) ∧ (c.allocRule w o ≠ .quotaExceeded)) ∧
    (∃ (w : WellSel) (l : List Nat) (o : Nat) (s : State) (i : _) (rest : _), ((∀ k ∈ l, k < 64)) ∧ (nextOwner ((s.well w).waiting ++ l) (s.well w).lastTaken = some o) ∧
    let t := s.modWell w fun x => { x with waiting := (x.waiting ++ l).erase o, lastTaken := o }
    (w = .page) ∧ (t.allocRule w o = .grant) ∧
    let c := if t.pageWell.cache = [] then t.refill 256 else t
    (c.pageWell.cache = i :: rest)) ∧
    (∃ (w : WellSel) (l : List Nat) (o : Nat) (s : State), ((∀ k ∈ l, k < 64)) ∧ (nextOwner ((s.well w).waiting ++ l) (s.well w).lastTaken = some o) ∧
    let t := s.modWell w fun x => { x with waiting := (x.waiting ++ l).erase o, lastTaken := o }
    (w = .cell) ∧ (t.cellWell.rebuild = false) ∧ (t.allocRule w o = .grant) ∧
    let i := t.cellWell.head
    (i = 0xFFFF)) ∧
    (∃ (w : WellSel) (l : List Nat) (o : Nat) (s : State), ((∀ k ∈ l, k < 64)) ∧ (nextOwner ((s.well w).waiting ++ l) (s.well w).lastTaken = some o) ∧
    let t := s.modWell w fun x => { x with waiting := (x.waiting ++ l).erase o, lastTaken := o }
    (w = .cell) ∧ (t.cellWell.rebuild = false) ∧ (t.allocRule w o = .grant) ∧
    let i := t.cellWell.head
    (i ≠ 0xFFFF) ∧ (t.linkBad i = true)) ∧
    (∃ (w : WellSel) (l : List Nat) (o : Nat) (s : State), ((∀ k ∈ l, k < 64)) ∧ (nextOwner ((s.well w).waiting ++ l) (s.well w).lastTaken = some o) ∧
    let t := s.modWell w fun x => { x with waiting := (x.waiting ++ l).erase o, lastTaken := o }
    (w = .cell) ∧ (t.cellWell.rebuild = false) ∧ (t.allocRule w o = .grant) ∧
    let i := t.cellWell.head
    (i ≠ 0xFFFF) ∧ (t.linkBad i = false)) ∧
    (∃ (w : WellSel) (l : List Nat) (o : Nat) (s : State) (a : _) (p : _), ((∀ k ∈ l, k < 64)) ∧ (nextOwner ((s.well w).waiting ++ l) (s.well w).lastTaken = some o) ∧
    let t := s.modWell w fun x => { x with waiting := (x.waiting ++ l).erase o, lastTaken := o }
    (w = .cell) ∧ (t.cellWell.rebuild = false) ∧ (t.freeCheck .cell a p = none) ∧
    let u := t.modWell .cell fun x => { x with owners := SMap.set (fun _ => none) x.owners (a / 0x800) none }
    (u.allocRule .cell o = .grant)) :=
  ⟨⟨.page, up, by decide +kernel⟩,
   ⟨.cell, [22], 22, up, by decide +kernel⟩,
   ⟨.cell, [17], 17, reservedAway, by decide +kernel⟩,
   ⟨.cell, [63], 63, noCells, by decide +kernel⟩,
   ⟨.page, [17], 17, (wellAs .page fun w => { w with cache := [], ringCount := 0 }), by decide +kernel⟩,
   ⟨.page, [17], 17, up, 0, up.pageWell.cache.tail, by decide +kernel⟩,
   ⟨.cell, [0], 0, (wellAs .cell fun w => { w with head := 0xFFFF }), by decide +kernel⟩,
   ⟨.cell, [0], 0, (wellAs .cell fun w => { w with head := 5, owners := [(5, some 0)] }), by decide +kernel⟩,
   ⟨.cell, [19], 19, up, by decide +kernel⟩,
   ⟨.cell, [20], 20, (wellAs .cell (fun w => { w with owners := [(3, some 7)] })), 0x1800, 7, by decide +kernel⟩⟩

/-- `WellsTakeFreesAndQuotas`: a state and operands that meet the hypotheses of each clause in turn. -/
theorem test_WellsTakeFreesAndQuotas :
    (∃ (w : WellSel) (a : Nat) (o : Nat) (s : State) (k : _), (o < 64) ∧ (s.freeCheck w a o = some k)) ∧
    (∃ (w : WellSel) (a : Nat) (o : Nat) (s : State), (o < 64) ∧
    let i := bufferIndex w a
    (s.freeCheck w a o = none) ∧ (w = .cell) ∧ (s.cellWell.rebuild = true) ∧ (40 * s.time.tick - s.cellWell.scanFrom ≤ i)) ∧
    (∃ (w : WellSel) (a : Nat) (o : Nat) (s : State), (o < 64) ∧
    let i := bufferIndex w a
    (s.freeCheck w a o = none) ∧ (w = .cell) ∧ (s.cellWell.rebuild = true) ∧ (i < 40 * s.time.tick - s.cellWell.scanFrom)) ∧
    (∃ (w : WellSel) (a : Nat) (o : Nat) (s : State), (o < 64) ∧ (s.freeCheck w a o = none) ∧ (w = .cell) ∧ (s.cellWell.rebuild = false)) ∧
    (∃ (w : WellSel) (a : Nat) (o : Nat) (s : State), (o < 64) ∧
    let i := bufferIndex w a
    let t := s.modWell w fun x => { x with owners := SMap.set (fun _ => none) x.owners i none }
    (s.freeCheck w a o = none) ∧ (w = .page) ∧ (t.pageWell.cache.length < 1024)) ∧
    (∃ (w : WellSel) (a : Nat) (o : Nat) (s : State), (o < 64) ∧
    let i := bufferIndex w a
    let t := s.modWell w fun x => { x with owners := SMap.set (fun _ => none) x.owners i none }
    (s.freeCheck w a o = none) ∧ (w = .page) ∧ (1024 ≤ t.pageWell.cache.length)) ∧
    (∃ (s : State), (s.cellWell.rebuild = false)) ∧
    (∃ (s : State), (s.cellWell.rebuild = true)) ∧
    (∃ (s : State), (s.pageWell.rebuild = false)) ∧
    (∃ (s : State), (s.pageWell.rebuild = true)) ∧
    (∃ (s : State), ((256 ≤ s.pageWell.cache.length ∨ s.pageWell.rebuild = true ∨ s.pageWell.ringCount = 0))) ∧
    (∃ (s : State), (s.pageWell.cache.length < 256) ∧ (s.pageWell.rebuild = false)) ∧
    (∃ (s : State), ((s.pageWell.cache.length ≤ 768 ∨ s.pageWell.rebuild = true))) ∧
    (∃ (s : State), (768 < s.pageWell.cache.length) ∧ (s.pageWell.rebuild = false)) ∧
    (∃ (o : Nat) (v : Word) (s : State), (o < 64) ∧
    let cell := s.quotaOk .cell o (bitsAt v.toNat 0 14) (bitsAt v.toNat 16 14)
    (cell = true)) ∧
    (∃ (o : Nat) (v : Word) (s : State), (o < 64) ∧
    let cell := s.quotaOk .cell o (bitsAt v.toNat 0 14) (bitsAt v.toNat 16 14)
    (cell = false)) ∧
    (∃ (o : Nat) (v : Word) (s : State), (o < 64) ∧
    let res := s.quotaOk .page o (bitsAt v.toNat 0 18) (s.limit .page o)
    (res = true)) ∧
    (∃ (o : Nat) (v : Word) (s : State), (o < 64) ∧
    let res := s.quotaOk .page o (bitsAt v.toNat 0 18) (s.limit .page o)
    (res = false)) ∧
    (∃ (o : Nat) (v : Word) (s : State), (o < 64) ∧
    let lim := s.quotaOk .page o (s.reserve .page o) (bitsAt v.toNat 0 18)
    (lim = true)) ∧
    (∃ (o : Nat) (v : Word) (s : State), (o < 64) ∧
    let lim := s.quotaOk .page o (s.reserve .page o) (bitsAt v.toNat 0 18)
    (lim = false)) ∧
    (∃ (units : BitVec 8) (s : State),
    let n := 1024 * pageUnits units.toNat
    ((s.pageWell.owners ≠ [] ∨ n < s.reserveSum .page 64 0))) ∧
    (∃ (units : BitVec 8) (s : State),
    let n := 1024 * pageUnits units.toNat
    (s.pageWell.owners = []) ∧ (s.reserveSum .page 64 0 ≤ n)) :=
  ⟨⟨.cell, 1, 63, up, Kind.wellBadFree, by decide +kernel⟩,
   ⟨.cell, 0x1800, 7, (wellAs .cell fun w => { w with owners := [(3, some 7)], rebuild := true }), by decide +kernel⟩,
   ⟨.cell, 0x1800, 7, (atNs (wellAs .cell fun w => { w with owners := [(3, some 7)], rebuild := true }) 40), by decide +kernel⟩,
   ⟨.cell, 0x1800, 7, (wellAs .cell fun w => { w with owners := [(3, some 7)] }), by decide +kernel⟩,
   ⟨.page, 0x200020000, 17, (wellAs .page fun w => { w with owners := [(2, some 17)], cache := List.range 1023 }), by decide +kernel⟩,
   ⟨.page, 0x200020000, 17, (wellAs .page fun w => { w with owners := [(2, some 17)], cache := List.range 1024 }), by decide +kernel⟩,
   ⟨up, by decide +kernel⟩,
   ⟨noCells, by decide +kernel⟩,
   ⟨up, by decide +kernel⟩,
   ⟨((wellAs .page fun w => { w with rebuild := true }).setRegN Reg.welCfg 0x100), by decide +kernel⟩,
   ⟨(wellAs .page fun w => { w with cache := List.range 256 }), by decide +kernel⟩,
   ⟨(wellAs .page fun w => { w with cache := [] }), by decide +kernel⟩,
   ⟨(wellAs .page fun w => { w with cache := List.range 768 }), by decide +kernel⟩,
   ⟨(wellAs .page fun w => { w with cache := List.range 769 }), by decide +kernel⟩,
   ⟨63, 0, up, by decide +kernel⟩,
   ⟨63, 1, up, by decide +kernel⟩,
   ⟨63, 0, up, by decide +kernel⟩,
   ⟨63, 1, up, by decide +kernel⟩,
   ⟨63, 0, up, by decide +kernel⟩,
   ⟨17, 0, up, by decide +kernel⟩,
   ⟨39, up, by decide +kernel⟩,
   ⟨40, up, by decide +kernel⟩⟩

/-- `PumpsMoveDescriptors`: a state and operands that meet the hypotheses of each clause in turn. -/
theorem test_PumpsMoveDescriptors :
    (∃ (n : Nat) (s : State), (n < 16) ∧
    let q := s.queue (16 + n)
    ((8 ≤ n ∨ s.pwr.awake.contains (.pump n) = false ∨ (s.pump n).running.isSome = true ∨ q.valid = false ∨ q.isEmpty = true))) ∧
    (∃ (n : Nat) (s : State), (n < 16) ∧
    let q := s.queue (16 + n)
    (n < 8) ∧ (q.valid = true) ∧ (q.full = false)) ∧
    (∃ (n : Nat) (s : State), (n < 16) ∧
    let q := s.queue (16 + n)
    ((8 ≤ n ∨ q.valid = false ∨ q.full = true))) ∧
    (∃ (n : Nat) (s : State) (st : _), (n < 16) ∧
    let q := s.queue (16 + n)
    let d := pumpDescOf (s.headEntry (16 + n))
    (n < 8) ∧ (s.pwr.awake.contains (.pump n) = true) ∧ ((s.pump n).running = none) ∧ (q.valid = true) ∧ (q.isEmpty = false) ∧ (d.check n = .reject st) ∧ (st ≠ St.ok)) ∧
    (∃ (n : Nat) (s : State), (n < 16) ∧
    let q := s.queue (16 + n)
    let d := pumpDescOf (s.headEntry (16 + n))
    (n < 8) ∧ (s.pwr.awake.contains (.pump n) = true) ∧ ((s.pump n).running = none) ∧ (q.valid = true) ∧ (q.isEmpty = false) ∧ (d.check n = .noOp)) ∧
    (∃ (n : Nat) (s : State) (st : _), (n < 16) ∧
    let q := s.queue (16 + n)
    let d := pumpDescOf (s.headEntry (16 + n))
    (n < 8) ∧ (s.pwr.awake.contains (.pump n) = true) ∧ ((s.pump n).running = none) ∧ (q.valid = true) ∧ (q.isEmpty = false) ∧ (d.check n = .move st)) ∧
    (∃ (n : Nat) (s : State), (n < 16) ∧ ((s.pump n).running = none) ∧ ((n < 8 ∨ (s.tamb (n - 8)).moving = none))) ∧
    (∃ (n : Nat) (s : State) (i : _), (n < 16) ∧ ((s.pump n).running = none) ∧ (8 ≤ n) ∧ ((s.tamb (n - 8)).moving = some i)) ∧
    (∃ (n : Nat) (s : State), (n < 16) ∧ ((s.pump n).running = none)) ∧
    (∃ (n : Nat) (s : State) (r : _), (n < 16) ∧ ((s.pump n).running = some r) ∧ (s.badElement r = none)) ∧
    (∃ (n : Nat) (s : State) (r : _) (k : _) (a : _), (n < 16) ∧ ((s.pump n).running = some r) ∧ (s.badElement r = some (k, a))) ∧
    (∃ (n : Nat) (s : State) (r : _), (n < 16) ∧ ((s.pump n).running = some r)) ∧
    (∃ (n : Nat) (l : _), (n < 16) ∧ (l < 32)) :=
  ⟨⟨15, (pumping none), by decide +kernel⟩,
   ⟨7, (pumping none), by decide +kernel⟩,
   ⟨15, (pumping none), by decide +kernel⟩,
   ⟨7, (pumping (some (4 * 2 ^ 48))), St.badFormat, by decide +kernel⟩,
   ⟨7, (pumping (some 0)), by decide +kernel⟩,
   ⟨7, (pumping (some (0x1000 * 2 ^ 64))), false, by decide +kernel⟩,
   ⟨15, up, by decide +kernel⟩,
   ⟨15, ((codes {}).modTamb 7 (fun x => { x with bankA := { phase := .loading, band := some ⟨3, 0, 0⟩ }, loads := [0] })), ⟨3, 0, 0⟩, by decide +kernel⟩,
   ⟨15, up, by decide +kernel⟩,
   ⟨7, ((pumping (some 0)).modPump 7 (fun p => { p with running := some {} })), {}, by decide +kernel⟩,
   ⟨7, { (pumping (some 0)).modPump 7 (fun p => { p with running := some { srcSpace := 2 } }) with hostBad := [(0, 64)] }, { srcSpace := 2 }, 0, 0, by decide +kernel⟩,
   ⟨7, ((pumping (some 0)).modPump 7 (fun p => { p with running := some {} })), {}, by decide +kernel⟩,
   ⟨7, 31, by decide +kernel⟩⟩

/-- `TheMemoryController`: a state and operands that meet the hypotheses of each clause in turn. -/
theorem test_TheMemoryController :
    (∃ (pc : Nat) (r : HbmReqArgs) (s : State), (pc < 32) ∧ (s.hbm.trained = false) ∧ (r.port < 8) ∧ (r.port ≠ 2) ∧ (r.port ≠ 3) ∧ (r.addr < 0x400000000)) ∧
    (∃ (pc : Nat) (s : State), (pc < 32) ∧ ((s.hbm.trained = false ∨ s.hbm.training = true ∨ s.hbm.selfRefresh = true))) ∧
    (∃ (pc : Nat) (s : State) (b : _), (pc < 32) ∧ (s.hbm.trained = true) ∧ (s.hbm.training = false) ∧ (s.hbm.selfRefresh = false) ∧ (s.forcedBank pc = some b)) ∧
    (∃ (pc : Nat) (s : State), (pc < 32) ∧ (s.hbm.trained = true) ∧ (s.hbm.training = false) ∧ (s.hbm.selfRefresh = false) ∧ (s.forcedBank pc = none) ∧ (s.pickReq pc = none)) ∧
    (∃ (pc : Nat) (s : State) (r : _), (pc < 32) ∧ (s.hbm.trained = true) ∧ (s.hbm.training = false) ∧ (s.hbm.selfRefresh = false) ∧ (s.forcedBank pc = none) ∧ (s.pickReq pc = some r)) ∧
    (∃ (port : Nat) (sev : BitVec 2), (port < 8) ∧ (sev = 0)) ∧
    (∃ (port : Nat) (sev : BitVec 2), (port < 8) ∧ (sev ≠ 0) ∧ (sev ≠ 3)) ∧
    (∃ (port : Nat) (sev : BitVec 2), (port < 8) ∧ (sev = 3)) ∧
    (∃ (port : Nat) (addr : Nat) (lat : Nat) (sev : BitVec 2) (s : State) (n : _) (i : _), (port < 8) ∧
    let t := match s.hbm.reads.find? fun r => decide (r.port = port) && decide (r.addr = addr / 64 * 64) with
      | some r => { s with hbm := { s.hbm with reads := s.hbm.reads.erase r, idleSince := s.now } }.noteLatency port (s.now - r.at_)
      | none => s.noteLatency port lat
    let c := pcOf addr / 2
    (sev = 3) ∧
    let u := (t.count (Reg.hbmEccUncorr + 4 * c) 32 1).raise (Src.hbmChannel + c) Kind.eccUncorr addr 3
    ((u.tamb n).coding = some i) ∧ ((u.channel i.ch).decode = false)) ∧
    (∃ (port : Nat) (addr : Nat) (lat : Nat) (sev : BitVec 2) (s : State) (n : _) (i : _), (port < 8) ∧
    let t := match s.hbm.reads.find? fun r => decide (r.port = port) && decide (r.addr = addr / 64 * 64) with
      | some r => { s with hbm := { s.hbm with reads := s.hbm.reads.erase r, idleSince := s.now } }.noteLatency port (s.now - r.at_)
      | none => s.noteLatency port lat
    let c := pcOf addr / 2
    (sev = 3) ∧
    let u := (t.count (Reg.hbmEccUncorr + 4 * c) 32 1).raise (Src.hbmChannel + c) Kind.eccUncorr addr 3
    ((u.tamb n).coding = some i) ∧ ((u.channel i.ch).decode = true)) ∧
    (∃ (port : Nat) (addr : Nat) (lat : Nat) (sev : BitVec 2) (s : State) (ch : _), (port < 8) ∧
    let t := match s.hbm.reads.find? fun r => decide (r.port = port) && decide (r.addr = addr / 64 * 64) with
      | some r => { s with hbm := { s.hbm with reads := s.hbm.reads.erase r, idleSince := s.now } }.noteLatency port (s.now - r.at_)
      | none => s.noteLatency port lat
    let c := pcOf addr / 2
    (sev = 3) ∧
    let u := (t.count (Reg.hbmEccUncorr + 4 * c) 32 1).raise (Src.hbmChannel + c) Kind.eccUncorr addr 3
    ((u.channel ch).decode = true)) ∧
    (∃ (port : Nat) (addr : Nat) (lat : Nat) (sev : BitVec 2) (s : State) (ch : _) (k : _) (r : _) (value : _) (p : _), (port < 8) ∧
    let t := match s.hbm.reads.find? fun r => decide (r.port = port) && decide (r.addr = addr / 64 * 64) with
      | some r => { s with hbm := { s.hbm with reads := s.hbm.reads.erase r, idleSince := s.now } }.noteLatency port (s.now - r.at_)
      | none => s.noteLatency port lat
    (sev = 0) ∧ ((t.channel ch).inSlot k = some p) ∧ (32 * r < ((t.channel ch).cfgOf p).codedLines) ∧ ((t.channel ch).rowSealed p r = true) ∧ ((t.channel ch).decode = true) ∧ (SMap.get (fun _ => 0) t.hbm.ledger (ledgerKey ch k r) ≠ value % 2 ^ 32)) ∧
    (∃ (port : Nat) (addr : Nat) (lat : Nat) (sev : BitVec 2) (s : State) (ch : _) (k : _) (r : _) (value : _) (p : _), (port < 8) ∧
    let t := match s.hbm.reads.find? fun r => decide (r.port = port) && decide (r.addr = addr / 64 * 64) with
      | some r => { s with hbm := { s.hbm with reads := s.hbm.reads.erase r, idleSince := s.now } }.noteLatency port (s.now - r.at_)
      | none => s.noteLatency port lat
    (sev = 0) ∧ ((t.channel ch).inSlot k = some p) ∧ (SMap.get (fun _ => 0) t.hbm.ledger (ledgerKey ch k r) = value % 2 ^ 32)) ∧
    (∃ (pc : Nat) (b : Nat) (s : State), (pc < 32) ∧ (b < 16) ∧
    let k := s.hbmBank pc b
    ((s.now < k.refDue ∨ s.hbm.selfRefresh = true ∨ s.hbm.trained = false))) ∧
    (∃ (pc : Nat) (b : Nat) (s : State), (pc < 32) ∧ (b < 16) ∧
    let k := s.hbmBank pc b
    let urgent := s.hbm.reqs.any fun r => decide (pcOf r.addr = pc) && decide (bankOf r.addr = b) && decide (s.urgency r.port = 3)
    (k.refDue ≤ s.now) ∧ (s.hbm.selfRefresh = false) ∧ (s.hbm.trained = true) ∧ (urgent = true) ∧ (k.postponed < 4)) ∧
    (∃ (pc : Nat) (b : Nat) (s : State), (pc < 32) ∧ (b < 16) ∧
    let k := s.hbmBank pc b
    let urgent := s.hbm.reqs.any fun r => decide (pcOf r.addr = pc) && decide (bankOf r.addr = b) && decide (s.urgency r.port = 3)
    (k.refDue ≤ s.now) ∧ (s.hbm.selfRefresh = false) ∧ (s.hbm.trained = true) ∧ ((urgent = false ∨ 4 ≤ k.postponed))) ∧
    (∃ (pc : Nat) (b : Nat) (s : State), (pc < 32) ∧ (b < 16) ∧
    let k := s.hbmBank pc b
    (k.row.isSome = true) ∧ (k.lastUse + 8 * max 1 (s.field Reg.hbmCfg 8 8) ≤ s.now)) ∧
    (∃ (pc : Nat) (b : Nat) (s : State), (pc < 32) ∧ (b < 16) ∧
    let k := s.hbmBank pc b
    ((k.row = none ∨ s.now < k.lastUse + 8 * max 1 (s.field Reg.hbmCfg 8 8)))) ∧
    (∃ (t : Int), (t ≤ 95)) ∧
    (∃ (t : Int) (s : State), (95 < t) ∧ (s.hbm.tempRange = 2)) ∧
    (∃ (t : Int) (s : State), (95 < t) ∧ (s.hbm.tempRange ≠ 2)) ∧
    (∃ (s : State),
    let idle := s.field Reg.hbmCfg 0 8
    (s.hbm.trained = true) ∧ (s.hbm.training = false) ∧ (s.hbm.selfRefresh = false) ∧ (s.hbm.reqs = []) ∧ (s.hbm.reads = []) ∧ (idle ≠ 0) ∧ (s.hbm.idleSince + 1000 * idle ≤ s.now)) ∧
    (∃ (s : State),
    let idle := s.field Reg.hbmCfg 0 8
    ((s.hbm.trained = false ∨ s.hbm.training = true ∨ s.hbm.selfRefresh = true ∨ s.hbm.reqs ≠ [] ∨ s.hbm.reads ≠ [] ∨ idle = 0 ∨ s.now < s.hbm.idleSince + 1000 * idle))) ∧
    (∃ (s : State) (wake : _), (s.hbm.selfRefresh = true) ∧ ((wake = true ∨ s.hbm.exiting = true))) ∧
    (∃ (s : State) (wake : _), ((s.hbm.selfRefresh = false ∨ (wake = false ∧ s.hbm.exiting = false)))) ∧
    (∃ (s : State),
    let busy := (s.pumps.any fun e => e.2.running.isSome) || (List.range 8).any fun t => (s.tamb t).moving.isSome
    (s.anyLive = false) ∧ (busy = false) ∧ (s.hbm.training = false)) ∧
    (∃ (s : State),
    let busy := (s.pumps.any fun e => e.2.running.isSome) || (List.range 8).any fun t => (s.tamb t).moving.isSome
    ((s.anyLive = true ∨ busy = true ∨ s.hbm.training = true))) ∧
    (∃ (s : State), (s.hbm.training = false)) ∧
    (∃ (s : State), (s.hbm.training = true)) ∧
    (∃ (c : Nat) (s : State), (c < 16) ∧ (s.hbm.trained = true)) ∧
    (∃ (c : Nat) (s : State), (c < 16) ∧ (s.hbm.trained = false)) ∧
    (∃ (n : Nat) (v : Word) (s : State), (n < 8) ∧
    let rsv := bitsAt v.toNat 16 8
    let sum := ((List.range 8).map fun k => if k = n then rsv else s.portRsv k).sum
    (sum ≤ 208)) ∧
    (∃ (n : Nat) (v : Word) (s : State), (n < 8) ∧
    let rsv := bitsAt v.toNat 16 8
    let sum := ((List.range 8).map fun k => if k = n then rsv else s.portRsv k).sum
    (208 < sum)) :=
  ⟨⟨31, ⟨7, 0x3FFFFFFFF, true, false⟩, up, by decide +kernel⟩,
   ⟨31, up, by decide +kernel⟩,
   ⟨31, (stack (fun h => { h with banks := [(511, { postponed := 4 })] })), 15, by decide +kernel⟩,
   ⟨31, (stack id), by decide +kernel⟩,
   ⟨31, (stack (fun h => { h with reqs := [req7] })), req7, by decide +kernel⟩,
   ⟨7, 0, by decide +kernel⟩,
   ⟨7, 1, by decide +kernel⟩,
   ⟨7, 3, by decide +kernel⟩,
   ⟨7, 0, 1500, 3, (codes {}), 7, ⟨3, 0, 0⟩, by decide +kernel⟩,
   ⟨7, 0, 1500, 3, (chan (codes {}) 3 { state := .running, decode := true }), 7, ⟨3, 0, 0⟩, by decide +kernel⟩,
   ⟨7, 0, 1500, 3, (chan up 127 { decode := true }), 127, by decide +kernel⟩,
   ⟨7, 0, 0, 0, coded0, 3, 0, 0, 1, 0, by decide +kernel⟩,
   ⟨7, 0, 0, 0, coded0, 3, 0, 0, 0, 0, by decide +kernel⟩,
   ⟨31, 15, up, by decide +kernel⟩,
   ⟨31, 15, (stack fun h => { h with reqs := [req7], banks := [(511, { postponed := 3 })] }), by decide +kernel⟩,
   ⟨31, 15, (stack fun h => { h with reqs := [req7], banks := [(511, { postponed := 4, row := some 9 })] }), by decide +kernel⟩,
   ⟨31, 15, (stack fun h => { h with banks := [(511, { row := some 9, lastUse := 999999800 })] }), by decide +kernel⟩,
   ⟨31, 15, (stack fun h => { h with banks := [(511, { row := some 9, lastUse := 999999801 })] }), by decide +kernel⟩,
   ⟨95, by decide +kernel⟩,
   ⟨96, { up with hbm := { up.hbm with tempRange := 2 } }, by decide +kernel⟩,
   ⟨96, up, by decide +kernel⟩,
   ⟨(stack fun h => { h with idleSince := 999990000, banks := [(511, { row := some 9 }), (600, { row := some 9, lastUse := 4 })] }), by decide +kernel⟩,
   ⟨(stack fun h => { h with idleSince := 999990001 }), by decide +kernel⟩,
   ⟨(stack (fun h => { h with selfRefresh := true })), true, by decide +kernel⟩,
   ⟨(stack (fun h => { h with selfRefresh := true })), false, by decide +kernel⟩,
   ⟨up, by decide +kernel⟩,
   ⟨{ up with hbm := { up.hbm with training := true } }, by decide +kernel⟩,
   ⟨up, by decide +kernel⟩,
   ⟨{ up with hbm := { up.hbm with training := true } }, by decide +kernel⟩,
   ⟨15, (stack id), by decide +kernel⟩,
   ⟨15, up, by decide +kernel⟩,
   ⟨7, 0, up, by decide +kernel⟩,
   ⟨7, 0xFF0000, up, by decide +kernel⟩⟩

/-- `InterruptSourcesAndClaims`: a state and operands that meet the hypotheses of each clause in turn (clauses 1, 2, 3, 4, 5, 6, 7, 8, 10, 11, 12, 13, 14, 15, 16, 17). -/
theorem test_InterruptSourcesAndClaims :
    (∃ (c : Nat) (s : State), (c < 4) ∧ (Tidy s) ∧
    let can (n : Nat) : Prop := (s.src n).pending = true ∧ (s.src n).inService = false ∧ (s.src n).claimRoute c = true
    ((∀ n, 1 ≤ n → ¬ can n))) ∧
    (∃ (c : Nat) (s : State) (n : _), (c < 4) ∧ (Tidy s) ∧
    let can (n : Nat) : Prop := (s.src n).pending = true ∧ (s.src n).inService = false ∧ (s.src n).claimRoute c = true
    (1 ≤ n) ∧ (n ≤ 511) ∧ (can n) ∧ ((∀ m, n < m → ¬ can m))) ∧
    (∃ (n : Nat) (s : State), (assertable n = true) ∧ ((s.src n).line = true)) ∧
    (∃ (n : Nat) (s : State), (assertable n = true) ∧ ((s.src n).line = false)) ∧
    (∃ (n : Nat), (assertable n = true)) ∧
    (∃ (n : Nat), (assertable n = true)) ∧
    (∃ (n : Nat), (assertable n = true)) ∧
    (∃ (n : Nat), (1 ≤ n) ∧ (n ≤ 511)) ∧
    (∃ (c : Nat) (v : Word) (s : State), (c < 4) ∧
    let q := s.queue (fbQueue c)
    (q.fill < idxSub v.toNat q.head)) ∧
    (∃ (c : Nat) (v : Word) (s : State), (c < 4) ∧
    let q := s.queue (fbQueue c)
    let t := s.modQueue (fbQueue c) fun u => { u with head := v.toNat }
    (idxSub v.toNat q.head ≤ q.fill) ∧ ((t.queue (fbQueue c)).isEmpty = true)) ∧
    (∃ (c : Nat) (v : Word) (s : State), (c < 4) ∧
    let q := s.queue (fbQueue c)
    let t := s.modQueue (fbQueue c) fun u => { u with head := v.toNat }
    (idxSub v.toNat q.head ≤ q.fill) ∧ ((t.queue (fbQueue c)).isEmpty = false)) ∧
    (∃ (q : Nat) (s : State), (q < 262144) ∧
    let u := s.queue q
    ((u.valid = false ∨ u.msiDue = false ∨ s.now < u.lastMsi.getD 0 + 1000 * u.dueUs))) ∧
    (∃ (q : Nat) (s : State), (q < 262144) ∧
    let u := s.queue q
    (u.valid = true) ∧ (u.msiDue = true) ∧ (u.lastMsi.getD 0 + 1000 * u.dueUs ≤ s.now) ∧ (u.space = .host)) ∧
    (∃ (q : Nat) (s : State), (q < 262144) ∧
    let u := s.queue q
    (u.valid = true) ∧ (u.msiDue = true) ∧ (u.lastMsi.getD 0 + 1000 * u.dueUs ≤ s.now) ∧ (u.space ≠ .host)) ∧
    (∃ (v : Nat) (s : State), (v < 64) ∧
    let held := SMap.get (fun _ => false) s.host.vecPend v && s.host.msixEnable && !s.host.funcMask
    (held = false)) ∧
    (∃ (v : Nat) (s : State), (v < 64) ∧
    let held := SMap.get (fun _ => false) s.host.vecPend v && s.host.msixEnable && !s.host.funcMask
    (held = true)) :=
  ⟨⟨3, State.reset, by decide, by unfold Tidy; decide +kernel, fun n _ h => Bool.false_ne_true h.1⟩,
   ⟨0, irq511, 511, by decide, by unfold Tidy; decide +kernel, by decide, by decide, ⟨by decide, by decide, by decide⟩, fun m hm h => absurd h.1 (by have e : irq511.src m = irqReset m := (show (if 511 = m then _ else irqReset m) = _ from if_neg (by omega)); rw [e]; exact Bool.false_ne_true)⟩,
   ⟨511, (up.modSrc 511 fun i => { i with line := true }), by decide +kernel⟩,
   ⟨511, up, by decide +kernel⟩,
   ⟨511, by decide +kernel⟩,
   ⟨511, by decide +kernel⟩,
   ⟨511, by decide +kernel⟩,
   ⟨15, by decide +kernel⟩,
   ⟨3, 1, up, by decide +kernel⟩,
   ⟨3, 0, up, by decide +kernel⟩,
   ⟨3, 0, (up.modQueue 7 fun q => { q with valid := true, log2 := 4, tail := 1 }), by decide +kernel⟩,
   ⟨262143, up, by decide +kernel⟩,
   ⟨65540, (up.modQueue 65540 fun _ => { valid := true, ty := .hsr, log2 := 4, msiDue := true }), by decide +kernel⟩,
   ⟨65540, (up.modQueue 65540 fun _ => { valid := true, ty := .hsr, log2 := 4, space := .sram, msiDue := true }), by decide +kernel⟩,
   ⟨63, up, by decide +kernel⟩,
   ⟨63, { up with host := { up.host with msixEnable := true, vecPend := [(63, true)] } }, by decide +kernel⟩⟩

/-- `CompletesReleaseTheSource`: a state and operands that meet the hypotheses of each clause in turn. -/
theorem test_CompletesReleaseTheSource :
    (∃ (c : Nat) (v : Word) (s : State) (m : Nat), (c < 4) ∧ (Tidy s) ∧
    let n := v.toNat % 512
    (1 ≤ n) ∧ ((s.src n).inService = true) ∧ ((s.src n).owner = c) ∧ (m ≠ n)) ∧
    (∃ (c : Nat) (v : Word) (s : State), (c < 4) ∧ (Tidy s) ∧
    let n := v.toNat % 512
    (1 ≤ n) ∧ ((s.src n).inService = true) ∧ ((s.src n).owner = c)) ∧
    (∃ (c : Nat) (v : Word) (s : State), (c < 4) ∧ (Tidy s) ∧
    let n := v.toNat % 512
    ((n = 0 ∨ (s.src n).inService = false ∨ (s.src n).owner ≠ c))) :=
  ⟨⟨3, 511, (State.reset.modSrc 511 fun i => { i with inService := true, owner := 3 }), 0, by unfold Tidy; decide +kernel⟩,
   ⟨3, 511, (irq511.modSrc 511 fun i => { i with inService := true, owner := 3 }), by unfold Tidy; decide +kernel⟩,
   ⟨3, 511, State.reset, by unfold Tidy; decide +kernel⟩⟩

/-- `RingsRegistersAndTheWindlass`: a state and operands that meet the hypotheses of each clause in turn (clauses 1, 2, 3, 4, 5, 6, 7, 8, 9, 10, 11, 12, 13, 14, 15, 16, 17, 19, 20, 21, 22, 23, 24, 25, 26, 27, 28, 29, 30). -/
theorem test_RingsRegistersAndTheWindlass :
    (∃ (s : State), ((s.host.enabled = true ∨ s.host.ready = false))) ∧
    (∃ (epoch : Bool) (s : State), (s.host.enabled = false) ∧ (s.host.ready = true) ∧ (s.enableCause epoch ≠ 0)) ∧
    (∃ (epoch : Bool) (s : State), (s.host.enabled = false) ∧ (s.host.ready = true) ∧ (s.enableCause epoch = 0)) ∧
    (∃ (s : State), ((s.host.wsw ≠ .waiting ∨ 40 * s.time.tick < s.host.nextPoll))) ∧
    (∃ (stores : List HostStore) (bad : List (Nat × Nat)) (s : State),
    let t : State := { s with hostBad := bad, hostMem := stores.foldl (fun m w => Memory.writeBytes zeroDefault m w.addr w.bytes) s.hostMem }
    (s.host.wsw = .waiting) ∧ (s.host.nextPoll ≤ 40 * s.time.tick) ∧ (s.host.epochMode = false) ∧ (t.hostRead t.dbArea 8 = none)) ∧
    (∃ (stores : List HostStore) (bad : List (Nat × Nat)) (s : State),
    let t : State := { s with hostBad := bad, hostMem := stores.foldl (fun m w => Memory.writeBytes zeroDefault m w.addr w.bytes) s.hostMem }
    (s.host.wsw = .waiting) ∧ (s.host.nextPoll ≤ 40 * s.time.tick) ∧ (s.host.epochMode = false) ∧ (t.hostRead t.dbArea 8 = some 0)) ∧
    (∃ (stores : List HostStore) (bad : List (Nat × Nat)) (s : State) (v : _),
    let t : State := { s with hostBad := bad, hostMem := stores.foldl (fun m w => Memory.writeBytes zeroDefault m w.addr w.bytes) s.hostMem }
    (s.host.wsw = .waiting) ∧ (s.host.nextPoll ≤ 40 * s.time.tick) ∧ (s.host.epochMode = false) ∧ (t.hostRead t.dbArea 8 = some v) ∧ (v ≠ 0)) ∧
    (∃ (stores : List HostStore) (bad : List (Nat × Nat)) (s : State),
    let t : State := { s with hostBad := bad, hostMem := stores.foldl (fun m w => Memory.writeBytes zeroDefault m w.addr w.bytes) s.hostMem }
    (s.host.wsw = .waiting) ∧ (s.host.nextPoll ≤ 40 * s.time.tick) ∧ (s.host.epochMode = true) ∧ (t.hostRead (t.dbArea + 8) 8 = none)) ∧
    (∃ (stores : List HostStore) (bad : List (Nat × Nat)) (s : State),
    let t : State := { s with hostBad := bad, hostMem := stores.foldl (fun m w => Memory.writeBytes zeroDefault m w.addr w.bytes) s.hostMem }
    (s.host.wsw = .waiting) ∧ (s.host.nextPoll ≤ 40 * s.time.tick) ∧ (s.host.epochMode = true) ∧ (t.hostRead (t.dbArea + 8) 8 = some s.host.lastEpoch)) ∧
    (∃ (stores : List HostStore) (bad : List (Nat × Nat)) (s : State) (e : _),
    let t : State := { s with hostBad := bad, hostMem := stores.foldl (fun m w => Memory.writeBytes zeroDefault m w.addr w.bytes) s.hostMem }
    let p := { t with host := { t.host with nextPoll := t.dueTick + t.pollEvery } }
    let ran (u : State) : State := u.setRegN Reg.wswPasses (u.regN Reg.wswPasses + 1)
    (s.host.wsw = .waiting) ∧ (s.host.nextPoll ≤ 40 * s.time.tick) ∧ (s.host.epochMode = true) ∧ (t.hostRead (t.dbArea + 8) 8 = some e) ∧ (e ≠ s.host.lastEpoch) ∧ ((ran p).hostRead ((ran p).dbArea + 0x240) 512 = none)) ∧
    (∃ (stores : List HostStore) (bad : List (Nat × Nat)) (s : State) (e : _) (g : _),
    let t : State := { s with hostBad := bad, hostMem := stores.foldl (fun m w => Memory.writeBytes zeroDefault m w.addr w.bytes) s.hostMem }
    let p := { t with host := { t.host with nextPoll := t.dueTick + t.pollEvery } }
    let ran (u : State) : State := u.setRegN Reg.wswPasses (u.regN Reg.wswPasses + 1)
    (s.host.wsw = .waiting) ∧ (s.host.nextPoll ≤ 40 * s.time.tick) ∧ (s.host.epochMode = true) ∧ (t.hostRead (t.dbArea + 8) 8 = some e) ∧ (e ≠ s.host.lastEpoch) ∧ ((ran p).hostRead ((ran p).dbArea + 0x240) 512 = some g)) ∧
    (∃ (s : State), ((s.host.wsw ≠ .waiting ∨ 40 * s.time.tick < s.host.nextPoll))) ∧
    (∃ (s : State), (s.host.wsw = .waiting) ∧ (s.host.nextPoll ≤ 40 * s.time.tick)) ∧
    (∃ (cq : Nat) (s : State), (cq < 262144) ∧ (s.lastTick < SMap.get (fun _ => 0) s.host.heldTry cq)) ∧
    (∃ (cq : Nat) (s : State), (cq < 262144) ∧
    let t := ({ s with host := { s.host with heldTry := SMap.set (fun _ => 0) s.host.heldTry cq (s.lastTick + 1) } } : State).refreshRoom cq
    (SMap.get (fun _ => 0) s.host.heldTry cq ≤ s.lastTick) ∧ (t.host.held = [])) ∧
    (∃ (cq : Nat) (x : HeldCpl) (s : State), (cq < 262144) ∧
    let t := ({ s with host := { s.host with heldTry := SMap.set (fun _ => 0) s.host.heldTry cq (s.lastTick + 1) } } : State).refreshRoom cq
    (SMap.get (fun _ => 0) s.host.heldTry cq ≤ s.lastTick) ∧ (t.host.held = [x]) ∧ (x.cq = cq) ∧ (((t.queue cq).full = true ∨ (t.queue cq).valid = false ∨ t.host.busMaster = false))) ∧
    (∃ (cq : Nat) (x : HeldCpl) (s : State), (cq < 262144) ∧
    let t := ({ s with host := { s.host with heldTry := SMap.set (fun _ => 0) s.host.heldTry cq (s.lastTick + 1) } } : State).refreshRoom cq
    (SMap.get (fun _ => 0) s.host.heldTry cq ≤ s.lastTick) ∧ (t.host.held = [x]) ∧ (x.cq = cq) ∧ ((t.queue cq).full = false) ∧ ((t.queue cq).valid = true) ∧ (t.host.busMaster = true)) ∧
    (∃ (who : Requester) (a : Nat) (s : State), ((s.responds a = false ∨ s.writeLocked who a = true))) ∧
    (∃ (who : Requester) (a : Nat) (s : State), (s.responds a = true) ∧ (s.writeLocked who a = false) ∧ (0x100000 ≤ a)) ∧
    (∃ (who : Requester) (a : Nat) (s : State) (n : _), (s.responds a = true) ∧ (s.writeLocked who a = false) ∧ (a < 0x100000) ∧ (n < 8) ∧ (a = Reg.netPortCfg + 0x1000 * n)) ∧
    (∃ (who : Requester) (a : Nat) (s : State), (s.responds a = true) ∧ (s.writeLocked who a = false) ∧ (a < 0x100000) ∧ (¬ (0x4004 ≤ a ∧ a < 0x4800 ∧ a % 4 = 0)) ∧ (inRegs a Reg.netPortCfg 0x1000 8 = false) ∧ (a ≠ Reg.wswPoll) ∧ (regRow a = none)) ∧
    (∃ (who : Requester) (a : Nat) (s : State) (r : _), (s.responds a = true) ∧ (s.writeLocked who a = false) ∧ (a < 0x100000) ∧ (¬ (0x4004 ≤ a ∧ a < 0x4800 ∧ a % 4 = 0)) ∧ (inRegs a Reg.netPortCfg 0x1000 8 = false) ∧ (a ≠ Reg.wswPoll) ∧ (regRow a = some r) ∧ (r.lo = true)) ∧
    (∃ (who : Requester) (a : Nat) (s : State) (r : _), (s.responds a = true) ∧ (s.writeLocked who a = false) ∧ (a < 0x100000) ∧ (¬ (0x4004 ≤ a ∧ a < 0x4800 ∧ a % 4 = 0)) ∧ (inRegs a Reg.netPortCfg 0x1000 8 = false) ∧ (a ≠ Reg.wswPoll) ∧ (regRow a = some r) ∧ (r.lo = false) ∧ (r.hi = true) ∧ ((a < Reg.ck ∨ Reg.timeCfg ≤ a))) ∧
    (∃ (who : Requester) (a : Nat) (s : State) (r : _), (s.responds a = true) ∧ (s.writeLocked who a = false) ∧ (a < 0x100000) ∧ (¬ (0x4004 ≤ a ∧ a < 0x4800 ∧ a % 4 = 0)) ∧ (inRegs a Reg.netPortCfg 0x1000 8 = false) ∧ (a ≠ Reg.wswPoll) ∧ (regRow a = some r) ∧ (r.lo = false) ∧ (r.hi = false)) ∧
    (∃ (who : Requester) (a : Nat) (s : State) (n : _), (s.responds a = true) ∧ (s.writeLocked who a = false) ∧ (a < 0x100000) ∧ (a = 0x4000 + 4 * n) ∧ (1 ≤ n) ∧ (n ≤ 511)) ∧
    (∃ (who : Requester) (a : Nat) (s : State) (r : _), (s.responds a = true) ∧ (s.writeLocked who a = false) ∧ (a < 0x100000) ∧ (a = Reg.wswPoll) ∧ (regRow a = some r)) ∧
    (∃ (a : Nat) (s : State), (s.responds a = false)) ∧
    (∃ (a : Nat) (s : State) (r : _), (s.responds a = true) ∧ (a < 0x100000) ∧ (s.viewPair a = none) ∧ (s.viewPair (a - 4) = none) ∧ (s.view a = none) ∧ (regRow a = some r) ∧ (r.lo = false) ∧ (r.hi = false) ∧ (inRegs a (Reg.ck + 0x2C) 0x100 16 = false) ∧ (r.rc ≠ 0)) ∧
    (∃ (a : Nat) (s : State) (r : _), (s.responds a = true) ∧ (a < 0x100000) ∧ (s.viewPair a = none) ∧ (s.viewPair (a - 4) = none) ∧ (s.view a = none) ∧ (regRow a = some r) ∧ (r.lo = true)) :=
  ⟨⟨up, by decide +kernel⟩,
   ⟨true, { up with host := { up.host with enabled := false } }, by decide +kernel⟩,
   ⟨true, bringUp, by decide +kernel⟩,
   ⟨State.reset, by decide +kernel⟩,
   ⟨[], ([(0, 8)]), waiting, by decide +kernel⟩,
   ⟨[], [], waiting, by decide +kernel⟩,
   ⟨([⟨0, [1]⟩]), [], waiting, 1, by decide +kernel⟩,
   ⟨[], ([(8, 8)]), { waiting with host := { waiting.host with epochMode := true } }, by decide +kernel⟩,
   ⟨[], [], { waiting with host := { waiting.host with epochMode := true } }, by decide +kernel⟩,
   ⟨([⟨8, [1]⟩]), ([(0x240, 512)]), epochs, 1, by decide +kernel⟩,
   ⟨([⟨8, [1]⟩]), [], epochs, 1, 0, by decide +kernel⟩,
   ⟨up, by decide +kernel⟩,
   ⟨waiting, by decide +kernel⟩,
   ⟨1, { up with host := { up.host with heldTry := [(1, 1000)] } }, by decide +kernel⟩,
   ⟨1, up, by decide +kernel⟩,
   ⟨1, ⟨0, 1, 0⟩, { holding with host := { holding.host with busMaster := false } }, by decide +kernel⟩,
   ⟨1, ⟨0, 1, 0⟩, holding, by decide +kernel⟩,
   ⟨.host, 0x5000, State.reset, by decide +kernel⟩,
   ⟨.host, 0x200010, up, by decide +kernel⟩,
   ⟨.host, (Reg.netPortCfg + 0x7000), up, 7, by decide +kernel⟩,
   ⟨.host, 0x10, up, by decide +kernel⟩,
   ⟨.host, Reg.hstAsq, bringUp, { base := Reg.hstAsq, stride := 8, count := 3, rw := 0xFFFFF000, lo := true }, by decide +kernel⟩,
   ⟨.host, (Reg.hstAsq + 4), bringUp, { base := Reg.hstAsq + 4, stride := 8, count := 3, rw := allBits, hi := true }, by decide +kernel⟩,
   ⟨.host, Reg.pwrSlew, up, { base := Reg.pwrSlew, rw := 0xF }, by decide +kernel⟩,
   ⟨.host, (0x4000 + 4 * 511), up, 511, by decide +kernel⟩,
   ⟨.host, Reg.wswPoll, up, { base := Reg.wswPoll, rw := 0xFFFF }, by decide +kernel⟩,
   ⟨0x5000, State.reset, by decide +kernel⟩,
   ⟨Reg.pwrGrantMax, up, { base := Reg.pwrGrantMax, count := 2, rc := allBits }, by decide +kernel⟩,
   ⟨Reg.hstAsq, up, { base := Reg.hstAsq, stride := 8, count := 3, rw := 0xFFFFF000, lo := true }, by decide +kernel⟩⟩

/-- `FaultMessagesAreTaken`: a state and operands that meet the hypotheses of each clause in turn. -/
theorem test_FaultMessagesAreTaken :
    (∃ (s : State), ((s.flt.inFlight = [] ∨ s.collectorSleeps = true))) ∧
    (∃ (r : RaisedMsg), (kindInfo r.kind.toNat = none)) ∧
    (∃ (r : RaisedMsg) (s : State), ((kindInfo r.kind.toNat).isSome = true) ∧ (s.collectorSleeps = false)) ∧
    (∃ (r : RaisedMsg) (s : State), ((kindInfo r.kind.toNat).isSome = true) ∧ (s.collectorSleeps = true)) ∧
    (∃ (x : FaultMsg) (m : FaultMsg) (rest : List FaultMsg), (nextMessage (x :: rest) = some m)) ∧
    (∃ (m : FaultMsg) (s : State), (nextMessage s.flt.inFlight = some m) ∧ ((s.rst.state = .held ∨ s.rst.state = .releasing)) ∧
    let b : State := { s with flt := { s.flt with inFlight := s.flt.inFlight.erase m } }
    let cls := handledClass (b.kindClass m.kind) m
    ((cls < 2 ∨ s.flt.mergeRst = false))) ∧
    (∃ (m : FaultMsg) (s : State), (nextMessage s.flt.inFlight = some m) ∧ ((s.rst.state = .held ∨ s.rst.state = .releasing)) ∧
    let b : State := { s with flt := { s.flt with inFlight := s.flt.inFlight.erase m } }
    let cls := handledClass (b.kindClass m.kind) m
    (2 ≤ cls) ∧ (s.flt.mergeRst = true)) ∧
    (∃ (m : FaultMsg) (s : State), (nextMessage s.flt.inFlight = some m) ∧ (s.rst.state ≠ .held) ∧ (s.rst.state ≠ .releasing) ∧ (s.collectorSleeps = false) ∧
    let b : State := { s with flt := { s.flt with inFlight := s.flt.inFlight.erase m } }
    let cls := handledClass (b.kindClass m.kind) m
    (cls = 0)) ∧
    (∃ (m : FaultMsg) (s : State), (nextMessage s.flt.inFlight = some m) ∧ (s.rst.state ≠ .held) ∧ (s.rst.state ≠ .releasing) ∧ (s.collectorSleeps = false) ∧
    let b : State := { s with flt := { s.flt with inFlight := s.flt.inFlight.erase m } }
    let cls := handledClass (b.kindClass m.kind) m
    (cls = 1)) ∧
    (∃ (m : FaultMsg) (s : State), (nextMessage s.flt.inFlight = some m) ∧ (s.rst.state ≠ .held) ∧ (s.rst.state ≠ .releasing) ∧ (s.collectorSleeps = false) ∧
    let b : State := { s with flt := { s.flt with inFlight := s.flt.inFlight.erase m } }
    let cls := handledClass (b.kindClass m.kind) m
    (s.flt.reaction = none) ∧ (cls = 2)) ∧
    (∃ (m : FaultMsg) (s : State), (nextMessage s.flt.inFlight = some m) ∧ (s.rst.state ≠ .held) ∧ (s.rst.state ≠ .releasing) ∧ (s.collectorSleeps = false) ∧
    let b : State := { s with flt := { s.flt with inFlight := s.flt.inFlight.erase m } }
    let cls := handledClass (b.kindClass m.kind) m
    (s.flt.reaction = none) ∧ (cls = 3)) ∧
    (∃ (m : FaultMsg) (s : State) (r : _), (nextMessage s.flt.inFlight = some m) ∧ (s.rst.state ≠ .held) ∧ (s.rst.state ≠ .releasing) ∧ (s.collectorSleeps = false) ∧
    let b : State := { s with flt := { s.flt with inFlight := s.flt.inFlight.erase m } }
    let cls := handledClass (b.kindClass m.kind) m
    (s.flt.reaction = some r) ∧ (r.cls = 2) ∧ (cls = 3)) ∧
    (∃ (m : FaultMsg) (s : State) (r : _), (nextMessage s.flt.inFlight = some m) ∧ (s.rst.state ≠ .held) ∧ (s.rst.state ≠ .releasing) ∧ (s.collectorSleeps = false) ∧
    let b : State := { s with flt := { s.flt with inFlight := s.flt.inFlight.erase m } }
    let cls := handledClass (b.kindClass m.kind) m
    (s.flt.reaction = some r) ∧ (r.cls = 3) ∧ (cls = 3)) ∧
    (∃ (kind : BitVec 8) (key : BitVec 16), (key = 0x464C) ∧ ((kindInfo kind.toNat).isSome = true)) ∧
    (∃ (kind : BitVec 8) (key : BitVec 16), ((key ≠ 0x464C ∨ kindInfo kind.toNat = none))) :=
  ⟨⟨up, by decide +kernel⟩,
   ⟨⟨5, 0xFF, 0, 0⟩, by decide +kernel⟩,
   ⟨⟨1023, 3, 0, 7⟩, up, by decide +kernel⟩,
   ⟨⟨1023, 3, 0, 7⟩, (drowsy up Src.collector), by decide +kernel⟩,
   ⟨(aMsg 3), (aMsg 3), ([{ aMsg 3 with source := 6 }]), by decide +kernel⟩,
   ⟨(aMsg 3), (told State.reset (aMsg 3)), by decide +kernel⟩,
   ⟨(aMsg 3), { told State.reset (aMsg 3) with flt := { (told State.reset (aMsg 3)).flt with mergeRst := true } }, by decide +kernel⟩,
   ⟨(aMsg 16), (told up (aMsg 16)), by decide +kernel⟩,
   ⟨(aMsg 2), (told up (aMsg 2)), by decide +kernel⟩,
   ⟨(aMsg 39), (told up (aMsg 39)), by decide +kernel⟩,
   ⟨(aMsg 3), (told up (aMsg 3)), by decide +kernel⟩,
   ⟨(aMsg 3), { told up (aMsg 3) with flt := { (told up (aMsg 3)).flt with reaction := some react } }, react, by decide +kernel⟩,
   ⟨(aMsg 3), { told up (aMsg 3) with flt := { (told up (aMsg 3)).flt with reaction := some { react with cls := 3 } } }, { react with cls := 3 }, by decide +kernel⟩,
   ⟨3, 0x464C, by decide +kernel⟩,
   ⟨0xFF, 0x464C, by decide +kernel⟩⟩

/-- `ClassesStayAboveTheirFloor`: a state and operands that meet the hypotheses of each clause in turn. -/
theorem test_ClassesStayAboveTheirFloor :
    (∃ (kind : BitVec 8) (cls : BitVec 2) (i : KindInfo) (s : State), (kindInfo kind.toNat = some i) ∧
    let floor := if i.cls = 2 ∨ i.cls = 3 then i.cls else 0
    (floor ≤ cls.toNat) ∧ (SMap.wf kindDefault s.flt.classes = true)) ∧
    (∃ (kind : BitVec 8) (cls : BitVec 2) (i : KindInfo), (kindInfo kind.toNat = some i) ∧
    let floor := if i.cls = 2 ∨ i.cls = 3 then i.cls else 0
    (cls.toNat < floor)) :=
  ⟨⟨39, 2, ((kindInfo 39).getD ⟨0, .a, 0⟩), up, by decide +kernel⟩,
   ⟨3, 2, ((kindInfo 3).getD ⟨0, .a, 0⟩), by decide +kernel⟩⟩

/-- `LevelsOfResetSources`: a state and operands that meet the hypotheses of each clause in turn (clauses 1, 2, 3, 5, 7, 8). -/
theorem test_LevelsOfResetSources :
    (∃ (i : Nat), (1 ≤ i) ∧ (i < 16) ∧ (i ≠ 2) ∧ (i ≠ 3) ∧ (i ≠ 4) ∧ (i ≠ 5)) ∧
    (∃ (i : Nat), (1 ≤ i) ∧ (i < 16) ∧ (i = 2 ∨ i = 3 ∨ i = 4)) ∧
    (∃ (i : Nat), (1 ≤ i) ∧ (i < 16) ∧ (i = 5)) ∧
    (∃ (s : State), (Tidy s)) ∧
    (∃ (f : FuseSt), ((∀ k, k < 3 → f.copy 2 k = 0 ∧ f.copy 3 k = 0))) ∧
    (∃ (sh : SMap Nat) (n : Nat) (key : Bool) (s : State), (Tidy s) ∧ (s.rst.state = .held) ∧ (s.rst.asserted = 0) ∧ (s.fuse.inPulse = false) ∧ (s.rst.deepest = 0) ∧ (s.fuse.load 128 0 [] 0 false = .inr (sh, n, key))) :=
  ⟨⟨15, by decide +kernel⟩,
   ⟨4, by decide +kernel⟩,
   ⟨5, by decide +kernel⟩,
   ⟨State.reset, by unfold Tidy; decide +kernel⟩,
   ⟨{ State.reset.fuse with rows := [] }, fun k hk => by interval_cases k <;> decide +kernel⟩,
   ⟨factoryLoad.1, factoryLoad.2.1, factoryLoad.2.2, held0, by unfold Tidy; decide +kernel⟩⟩

/-- `ResetSourcesAreAsserted`: a state and operands that meet the hypotheses of each clause in turn (clauses 1, 2, 4, 5, 6, 7, 8, 9). -/
theorem test_ResetSourcesAreAsserted :
    (∃ (s : State), (s.rst.asserted &&& 0x000C = 0)) ∧
    (∃ (s : State), (s.rst.asserted &&& 0x000C ≠ 0)) ∧
    (∃ (c : Nat), (c < 4)) ∧
    (∃ (c : Nat) (s : State), (c < 4) ∧
    let d := s.wdog c
    let ran := s.time.tick - d.start
    ((d.period = 0 ∨ ran < 25 * d.period))) ∧
    (∃ (c : Nat) (s : State), (c < 4) ∧
    let d := s.wdog c
    let ran := s.time.tick - d.start
    ((d.period = 0 ∨ 2 * ran < 25 * d.period ∨ d.half = true))) ∧
    (∃ (c : Nat) (s : State), (c < 4) ∧
    let d := s.wdog c
    let ran := s.time.tick - d.start
    (d.period ≠ 0) ∧ (25 * d.period ≤ ran)) ∧
    (∃ (c : Nat) (s : State), (c < 4) ∧
    let d := s.wdog c
    let ran := s.time.tick - d.start
    (d.period ≠ 0) ∧ (25 * d.period ≤ 2 * ran) ∧ (d.half = false)) ∧
    (∃ (i : Nat) (s : State), (s.rst.state = .running) ∧ (i < 16)) :=
  ⟨⟨State.reset, by decide +kernel⟩,
   ⟨{ up with rst := { up.rst with asserted := 8 } }, by decide +kernel⟩,
   ⟨3, by decide +kernel⟩,
   ⟨3, up, by decide +kernel⟩,
   ⟨3, up, by decide +kernel⟩,
   ⟨3, (atNs (up.setWdog 3 { period := 1 }) 1000), by decide +kernel⟩,
   ⟨3, (atNs (up.setWdog 3 { period := 1 }) 520), by decide +kernel⟩,
   ⟨15, up, by decide +kernel⟩⟩

/-- `ReleaseClocksAndSelfTest`: a state and operands that meet the hypotheses of each clause in turn. -/
theorem test_ReleaseClocksAndSelfTest :
    (∃ (s : State), ((s.rst.state ≠ .held ∨ s.rst.asserted ≠ 0))) ∧
    (∃ (s : State), (s.rst.state = .held) ∧ (s.rst.asserted = 0) ∧ (s.fuse.inPulse = true)) ∧
    (∃ (s : State), (s.rst.state = .held) ∧ (s.rst.asserted = 0) ∧ (s.fuse.inPulse = false) ∧ (s.rst.deepest = 2)) ∧
    (∃ (s : State), (s.rst.state = .held) ∧ (s.rst.asserted = 0) ∧ (s.fuse.inPulse = false) ∧ (s.rst.deepest = 1)) ∧
    (∃ (cut : Bool) (s : State), (s.rst.state = .held) ∧ (s.rst.asserted = 0) ∧ (s.fuse.inPulse = false) ∧ (s.rst.deepest = 0) ∧ (cut = true)) ∧
    (∃ (cut : Bool) (role : Bool) (s : State), (s.rst.state = .held) ∧ (s.rst.asserted = 0) ∧ (s.fuse.inPulse = false) ∧ (s.rst.deepest = 0) ∧
    let u : State := { s with rst := { s.rst with wdogs := [], twinRole := role } }
    (cut = false) ∧ (u.optionLoad.fuse.loaded = true)) ∧
    (∃ (cut : Bool) (s : State) (i : _) (sh : _) (n : _) (key : _), (s.rst.state = .held) ∧ (s.rst.asserted = 0) ∧ (s.fuse.inPulse = false) ∧ (s.rst.deepest = 0) ∧ (cut = false) ∧ (s.fuse.load 128 0 [] 0 false = .inl (i, sh, n, key))) ∧
    (∃ (k : Nat) (s : State), (k < 12) ∧
    let good := s.pwr.clkGood ||| BitVec.ofNat 12 (2 ^ k)
    (s.rst.state = .releasing) ∧ (good &&& 0x021 = 0x021)) ∧
    (∃ (k : Nat) (s : State), (k < 12) ∧
    let good := s.pwr.clkGood ||| BitVec.ofNat 12 (2 ^ k)
    ((s.rst.state ≠ .releasing ∨ good &&& 0x021 ≠ 0x021))) ∧
    (∃ (k : Nat), (k < 12)) ∧
    (∃ (k : Nat) (s : State), (k < 12) ∧ (bitAt s.pwr.clkGood.toNat k = false)) ∧
    (∃ (k : Nat) (s : State), (k < 12) ∧ (bitAt s.pwr.clkGood.toNat k = true) ∧ ((s.rst.state = .held ∨ s.rst.state = .releasing))) ∧
    (∃ (k : Nat) (s : State), (k < 12) ∧ (bitAt s.pwr.clkGood.toNat k = true) ∧ (s.rst.state ≠ .held) ∧ (s.rst.state ≠ .releasing) ∧ (k = 0)) ∧
    (∃ (k : Nat) (s : State), (k < 12) ∧ (bitAt s.pwr.clkGood.toNat k = true) ∧ (s.rst.state ≠ .held) ∧ (s.rst.state ≠ .releasing) ∧ (k = 11)) ∧
    (∃ (k : Nat) (s : State), (k < 12) ∧ (bitAt s.pwr.clkGood.toNat k = true) ∧ (s.rst.state ≠ .held) ∧ (s.rst.state ≠ .releasing) ∧ (k ≠ 0) ∧ (k ≠ 11)) ∧
    (∃ (k : Nat) (s : State), (k < 12) ∧ (bitAt s.pwr.clkGood.toNat k = true) ∧ (k ≠ 0) ∧ (k ≠ 11)) ∧
    (∃ (k : Nat) (s : State), (k < 12) ∧ (bitAt s.pwr.clkGood.toNat k = true)) ∧
    (∃ (s : State), (s.rst.state ≠ .selfTest)) ∧
    (∃ (r : SelfTestResult) (s : State), (s.rst.state = .selfTest) ∧
    let f := s.flashRun r.flash
    (r.failStep = none) ∧ (f.2 = true)) ∧
    (∃ (r : SelfTestResult) (s : State), (s.rst.state = .selfTest) ∧
    let f := s.flashRun r.flash
    (r.failStep = none) ∧ (f.2 = false)) ∧
    (∃ (r : SelfTestResult) (s : State) (k : _), (s.rst.state = .selfTest) ∧ (r.failStep = some k) ∧ (k < 6) ∧ ((k ≠ 4 ∨ r.hbmTrainFail = none))) ∧
    (∃ (r : SelfTestResult) (s : State) (k : _) (c : _), (s.rst.state = .selfTest) ∧ (r.failStep = some k) ∧ (k < 6) ∧ (k = 4) ∧ (r.hbmTrainFail = some c)) :=
  ⟨⟨up, by decide +kernel⟩,
   ⟨{ held0 with fuse := { held0.fuse with inPulse := true } }, by decide +kernel⟩,
   ⟨{ held0 with rst := { held0.rst with deepest := 2 } }, by decide +kernel⟩,
   ⟨{ held0 with rst := { held0.rst with deepest := 1 } }, by decide +kernel⟩,
   ⟨true, held0, by decide +kernel⟩,
   ⟨false, true, held0, by decide +kernel⟩,
   ⟨false, blankFuses, blankFail.1, blankFail.2.1, blankFail.2.2.1, blankFail.2.2.2, by decide +kernel⟩,
   ⟨5, (clocks (inRst State.reset .releasing) 1), by decide +kernel⟩,
   ⟨11, (clocks (inRst State.reset .releasing) 1), by decide +kernel⟩,
   ⟨11, by decide +kernel⟩,
   ⟨11, (clocks up 0x7FF), by decide +kernel⟩,
   ⟨11, (clocks State.reset 0x800), by decide +kernel⟩,
   ⟨0, (clocks up 0xFFF), by decide +kernel⟩,
   ⟨11, (clocks up 0xFFF), by decide +kernel⟩,
   ⟨10, (clocks up 0xFFF), by decide +kernel⟩,
   ⟨10, (clocks up 0xFFF), by decide +kernel⟩,
   ⟨11, (clocks up 0xFFF), by decide +kernel⟩,
   ⟨up, by decide +kernel⟩,
   ⟨passed, (inRst State.reset .selfTest), by decide +kernel⟩,
   ⟨{ passed with flash := [{ target := 0, mask := 0, container := [] }] }, (inRst State.reset .selfTest), by decide +kernel⟩,
   ⟨{ passed with failStep := some 5 }, (inRst State.reset .selfTest), 5, by decide +kernel⟩,
   ⟨{ passed with failStep := some 4, hbmTrainFail := some 15 }, (inRst State.reset .selfTest), 4, 15, by decide +kernel⟩⟩

/-- `BlocksFusesAndSensors`: a state and operands that meet the hypotheses of each clause in turn (clauses 1, 2, 3, 5, 6, 7, 8, 9, 10, 11, 12, 13, 14, 15, 16, 17, 18, 19, 20, 21, 22, 23, 24, 25, 26, 27). -/
theorem test_BlocksFusesAndSensors :
    (∃ (b : BitVec 10) (s : State), ((resettable b.toNat = false ∨ s.rst.blk.busy = true ∨ s.rst.state ≠ .running))) ∧
    (∃ (b : BitVec 10) (s : State), (resettable b.toNat = true) ∧ (s.rst.blk.busy = false) ∧ (s.rst.state = .running) ∧ (s.gated b.toNat = false)) ∧
    (∃ (b : BitVec 10) (s : State), (resettable b.toNat = true) ∧ (s.rst.blk.busy = false) ∧ (s.rst.state = .running) ∧ (s.gated b.toNat = true)) ∧
    (∃ (s : State), ((s.rst.blk.busy = false ∨ s.rst.blk.heldAt.isSome = true))) ∧
    (∃ (s : State), (s.time.tick < s.rst.blk.askedAt + 25 * max 1 (s.field Reg.rstIdleTimeout 0 16))) ∧
    (∃ (s : State), (s.rst.blk.busy = true) ∧ (s.rst.blk.heldAt = none) ∧ (s.rst.blk.askedAt + 25 * max 1 (s.field Reg.rstIdleTimeout 0 16) ≤ s.time.tick)) ∧
    (∃ (s : State), (s.rst.blk.busy = true) ∧ (s.rst.blk.heldAt = none)) ∧
    (∃ (s : State), (s.rst.blk.heldAt = none)) ∧
    (∃ (s : State) (k : _), (s.rst.blk.heldAt = some k) ∧ (s.rst.blk.busy = true) ∧ (s.time.tick < k + 16)) ∧
    (∃ (s : State) (k : _), (s.rst.blk.heldAt = some k) ∧ (s.rst.blk.busy = true) ∧
    let free := bitAt s.pwr.clkGood.toNat (blockClock s.rst.blk.block) && !s.gated s.rst.blk.block
    (k + 16 ≤ s.time.tick) ∧ (free = true)) ∧
    (∃ (s : State) (k : _), (s.rst.blk.heldAt = some k) ∧ (s.rst.blk.busy = true) ∧
    let free := bitAt s.pwr.clkGood.toNat (blockClock s.rst.blk.block) && !s.gated s.rst.blk.block
    (k + 16 ≤ s.time.tick) ∧ (free = false)) ∧
    (∃ (w : BitVec 7) (key : BitVec 16) (s : State), (s.fuseRefused w.toNat key.toNat = true)) ∧
    (∃ (w : BitVec 7) (key : BitVec 16) (s : State), (s.fuseRefused w.toNat key.toNat = false)) ∧
    (∃ (s : State), (s.fuse.inPulse = false)) ∧
    (∃ (s : State) (k : _) (rest : _), (s.fuse.inPulse = true) ∧ (s.fuse.toPulse = k :: rest)) ∧
    (∃ (n : Nat) (temp : Int) (s : State), (n < 16) ∧
    let now (warn : Bool) : State := { s with sensors := SMap.set (fun _ => {}) s.sensors n { temp := temp, valid := true, read := true, warn := warn, failed := false } }
    let anyWarn (t : State) : Bool := (List.range 16).any fun k => (t.sensor k).warn
    let allRead (t : State) : Bool := (List.range 16).all fun k => (t.sensor k).read
    (temp < 388) ∧ (anyWarn (now false) = false) ∧ (allRead (now false) = false)) ∧
    (∃ (n : Nat) (temp : Int) (s : State), (n < 16) ∧
    let now (warn : Bool) : State := { s with sensors := SMap.set (fun _ => {}) s.sensors n { temp := temp, valid := true, read := true, warn := warn, failed := false } }
    let anyWarn (t : State) : Bool := (List.range 16).any fun k => (t.sensor k).warn
    let allRead (t : State) : Bool := (List.range 16).all fun k => (t.sensor k).read
    (temp < 388) ∧ (anyWarn (now false) = false) ∧ (allRead (now false) = true)) ∧
    (∃ (n : Nat) (temp : Int) (s : State), (n < 16) ∧
    let o := s.sensor n
    let now (warn : Bool) : State := { s with sensors := SMap.set (fun _ => {}) s.sensors n { temp := temp, valid := true, read := true, warn := warn, failed := false } }
    let anyWarn (t : State) : Bool := (List.range 16).any fun k => (t.sensor k).warn
    let allRead (t : State) : Bool := (List.range 16).all fun k => (t.sensor k).read
    (400 ≤ temp) ∧ (temp < 460) ∧ (o.warn = false) ∧ (anyWarn (now true) = true) ∧ (allRead (now true) = false)) ∧
    (∃ (n : Nat) (temp : Int) (s : State), (n < 16) ∧
    let o := s.sensor n
    let now (warn : Bool) : State := { s with sensors := SMap.set (fun _ => {}) s.sensors n { temp := temp, valid := true, read := true, warn := warn, failed := false } }
    let anyWarn (t : State) : Bool := (List.range 16).any fun k => (t.sensor k).warn
    let allRead (t : State) : Bool := (List.range 16).all fun k => (t.sensor k).read
    (460 ≤ temp) ∧ (o.warn = true) ∧ ((o.valid = false ∨ o.temp < 460)) ∧ (anyWarn (now true) = true) ∧ (allRead (now true) = false) ∧ (bitAt s.rst.asserted.toNat 11 = false)) ∧
    (∃ (s : State), (bitAt s.rst.asserted.toNat 0 = true)) ∧
    (∃ (k : Nat) (s : State), (bitAt s.rst.asserted.toNat 0 = false) ∧ (k < 16)) ∧
    (∃ (s : State), (bitAt s.rst.asserted.toNat 0 = false) ∧ (s.fuse.loaded = true)) ∧
    (∃ (k : Nat) (s : State), (bitAt s.rst.asserted.toNat 0 = false) ∧ (16 < k) ∧ (k ≠ 0x20) ∧ (k ≠ 0x21) ∧ (k ≠ 0x22)) ∧
    (∃ (s : State), (bitAt s.rst.asserted.toNat 0 = false)) ∧
    (∃ (s : State), ((∃ n, n < 16 ∧ (s.sensor n).warn = true))) ∧
    (∃ (s : State), ((∀ n, n < 16 → (s.sensor n).warn = false)) ∧ (s.rst.state = .running)) :=
  ⟨⟨8, State.reset, by decide +kernel⟩,
   ⟨8, (ungated up), by decide +kernel⟩,
   ⟨0x083, up, by decide +kernel⟩,
   ⟨up, by decide +kernel⟩,
   ⟨(atNs (blocked none) 40), by decide +kernel⟩,
   ⟨(atNs (blocked none) 100000), by decide +kernel⟩,
   ⟨(blocked none), by decide +kernel⟩,
   ⟨(blocked none), by decide +kernel⟩,
   ⟨(blocked (some 0)), 0, by decide +kernel⟩,
   ⟨(ungated (clocks (atNs (blocked (some 0)) 640) 0xFFF)), 0, by decide +kernel⟩,
   ⟨(clocks (atNs (blocked (some 0)) 640) 0), 0, by decide +kernel⟩,
   ⟨127, 0, up, by decide +kernel⟩,
   ⟨19, 0x4655, (up.setRegN Reg.fuseProgData 5), by decide +kernel⟩,
   ⟨up, by decide +kernel⟩,
   ⟨{ up with fuse := { up.fuse with inPulse := true, progWord := 127, progCopy := 5, toPulse := [0, 2] } }, 0, [2], by decide +kernel⟩,
   ⟨15, 387, (sensing [(15, { temp := 450, valid := true, read := true, warn := true })]), by decide +kernel⟩,
   ⟨15, 387, (sensing ((List.range 15).map fun n => (n, { temp := 300, valid := true, read := true }))), by decide +kernel⟩,
   ⟨15, 400, up, by decide +kernel⟩,
   ⟨15, 460, (sensing [(15, { temp := 459, valid := true, warn := true })]), by decide +kernel⟩,
   ⟨State.reset, by decide +kernel⟩,
   ⟨15, up, by decide +kernel⟩,
   ⟨{ up with fuse := { up.fuse with loaded := true } }, by decide +kernel⟩,
   ⟨0x23, up, by decide +kernel⟩,
   ⟨up, by decide +kernel⟩,
   ⟨(sensing [(15, { warn := true })]), 15, by decide, by decide⟩,
   ⟨up, fun n hn => by interval_cases n <;> decide, rfl⟩⟩

/-- `CheckUnitsComputeAndWatch`: a state and operands that meet the hypotheses of each clause in turn. -/
theorem test_CheckUnitsComputeAndWatch :
    (∃ (n : Nat) (v : Word) (m : _), (n < 16) ∧ (crcPreset (bitsAt v.toNat 8 3) = some m)) ∧
    (∃ (n : Nat) (v : Word), (n < 16) ∧ (crcPreset (bitsAt v.toNat 8 3) = none)) ∧
    (∃ (n : Nat), (n < 16)) ∧
    (∃ (n : Nat) (s : State) (u : State), (n < 16) ∧ (Tidy s) ∧ (Tidy u) ∧ (u.rst.state = .running) ∧ (s.ckValue n < 2 ^ s.ckWidth n) ∧ (u.regN (ckBase n) = s.regN (ckBase n)) ∧ (u.ckModel n = s.ckModel n)) ∧
    (∃ (n : Nat) (k : BitVec 5) (s : State), (n < 16) ∧
    let l := s.aliveSlot n k.toNat
    (l = none)) ∧
    (∃ (n : Nat) (k : BitVec 5) (v : BitVec 8) (s : State) (w : _), (n < 16) ∧
    let l := s.aliveSlot n k.toNat
    (l = some w) ∧ (v.toNat = (w + 1) % 256)) ∧
    (∃ (n : Nat) (k : BitVec 5) (v : BitVec 8) (s : State) (w : _), (n < 16) ∧
    let l := s.aliveSlot n k.toNat
    (l = some w) ∧ (w < 256) ∧ (v.toNat = w)) ∧
    (∃ (n : Nat) (k : BitVec 5) (v : BitVec 8) (s : State) (w : _) (g : _), (n < 16) ∧
    let l := s.aliveSlot n k.toNat
    (l = some w) ∧ (w < 256) ∧ (v.toNat ≠ w) ∧ (v.toNat ≠ (w + 1) % 256) ∧ (g < 256) ∧ ((w + 1 + g) % 256 = v.toNat)) ∧
    (∃ (n : Nat), (n < 16)) :=
  ⟨⟨15, 0x100, ((crcPreset 1).getD ⟨0, 0, 0, 0, false, false⟩), by decide +kernel⟩,
   ⟨15, 0, by decide +kernel⟩,
   ⟨0, by decide +kernel⟩,
   ⟨15, up, up, by unfold Tidy; decide +kernel⟩,
   ⟨15, 31, up, by decide +kernel⟩,
   ⟨15, 31, 0, (up.setAlive 15 31 (some 255)), 255, by decide +kernel⟩,
   ⟨15, 31, 255, (up.setAlive 15 31 (some 255)), 255, by decide +kernel⟩,
   ⟨15, 31, 2, (up.setAlive 15 31 (some 255)), 255, 2, by decide +kernel⟩,
   ⟨0, by decide +kernel⟩⟩

/-- `ResetLeaves`: a state and operands that meet the hypotheses of each clause in turn (clauses 4, 5, 6). -/
theorem test_ResetLeaves :
    (∃ (p : Nat), (p < 8)) ∧
    (∃ (t : Nat), (t < 8)) ∧
    (∃ (n : Nat), (n < 16)) :=
  ⟨⟨0, by decide +kernel⟩,
   ⟨0, by decide +kernel⟩,
   ⟨0, by decide +kernel⟩⟩

end Sys2Proof.Tests
end

section
/-!
What every command does, said once: it answers a next state within its frame, or the fault noSuchUnit (O1, O3).
-/
namespace Sys2Proof.Machine

/-- How every command answers: where `w`, a next state with `P`; else the fault noSuchUnit. -/
def Lands (w : Bool) (P : State → Prop) (o : Host.Outcome State Fault Refusal) : Prop :=
  (w = true → ∃ t, o = .next t ∧ P t) ∧ (w = false → o = .fault .noSuchUnit)

theorem Lands.next {P : State → Prop} {t : State} (h : P t) : Lands true P (.next t) := ⟨fun _ => ⟨t, rfl, h⟩, nofun⟩

theorem Lands.ite {w : Bool} {P : State → Prop} {c : Prop} [Decidable c] {a b : Host.Outcome State Fault Refusal}
    (ha : Lands w P a) (hb : Lands w P b) : Lands w P (if c then a else b) := by
  split <;> assumption

/-- A command that names a unit answers with the fault where the device has no such unit. -/
theorem Lands.unitBool {w : Bool} {P : State → Prop} {o : Host.Outcome State Fault Refusal} (h : Lands true P o) :
    Lands w P (if w then o else .fault .noSuchUnit) := by
  cases w with
  | true => exact h
  | false => exact ⟨nofun, fun _ => rfl⟩

theorem Lands.unit {P : State → Prop} {c : Prop} [Decidable c] {o : Host.Outcome State Fault Refusal} (h : Lands true P o) :
    Lands (decide c) P (if c then o else .fault .noSuchUnit) := by
  simpa using Lands.unitBool (w := decide c) h

theorem Lands.of_next {w : Bool} {P : State → Prop} {t : State} (h : Lands w P (.next t)) : P t := by
  cases w with
  | true => obtain ⟨u, hu, hP⟩ := h.1 rfl; cases hu; exact hP
  | false => cases h.2 rfl

/-! ## What the shared shapes keep -/

theorem Keeps.foldr {α : Type} {r s : State} {f : α → State → State} {l : List α} (h : Keeps r s) (hf : ∀ x t, Keeps r t → Keeps r (f x t)) :
    Keeps r (l.foldr f s) := by
  induction l with
  | nil => exact h
  | cons a l ih => exact hf _ _ ih

/-- The host's stores keep host memory canonical. -/
theorem Keeps.hostStores {r X : State} (h : Keeps r X) {l : List HostStore} :
    Keeps r { X with hostMem := l.foldl (fun m w => Memory.writeBytes zeroDefault m w.addr w.bytes) X.hostMem } := by
  induction l generalizing X with
  | nil => exact h
  | cons w l ih => exact ih (X := { X with hostMem := Memory.writeBytes zeroDefault X.hostMem w.addr w.bytes }) h.hostMem

/-- Dropping a range of HBM keeps it canonical. -/
theorem Keeps.hbmKeep {r X : State} (p : Nat → Bool) (h : Keeps r X) : Keeps r { X with hbmMem := SMap.keep p X.hbmMem } :=
  ⟨h.queue, h.fuse, fun hr => by
    obtain ⟨h1, h2, h3, h4, h5, h6, h7, h8⟩ := h.tidy hr
    exact ⟨h1, h2, h3, h4, SMap_keep_wf _ p _ h5, h6, h7, h8⟩⟩

theorem State.tellFirmware_keeps (s : State) (w : WellSel) (o granted : Nat) {r₀ : State} (hk₀ : Keeps r₀ s) : Keeps r₀ (s.tellFirmware w o granted) :=
  .ite (State.modWell_keeps _ _ _ hk₀) hk₀

theorem chanCmd_keeps (i : Instr) (h : CmdHdr) (c : Nat) (body : Nat → State → State × Option Reply) (s : State) {r : State} (hk : Keeps r s)
    (hb : ∀ i t, Keeps r t → Keeps r (body i t).1) : Keeps r (chanCmd i h c body s) :=
  hostCmd_keeps _ _ _ _ _ _ _ hk fun _ _ ht => .ite1 ht (hb _ _ ht)

/-! ## What each command lands in

A command that writes the fuse unit keeps the queue; every other one keeps the queue, the fuse unit and the canonical form. -/

/-! ### Host commands -/

theorem execNop_lands (h : CmdHdr) (s : State) : Lands true (Keeps s) (execNop h s) := .next (plainCmd_keeps _ _ _ _ _ (.refl s) fun _ ht => ht)

theorem execChannelCreate_lands (h : CmdHdr) (channel : BitVec 8) (decode : Bool) (ccrAddr : Word64) (evq : BitVec 18) (s : State) :
    Lands true (Keeps s) (execChannelCreate h channel decode ccrAddr evq s) :=
  .next (chanCmd_keeps _ _ _ _ _ (.refl s) fun _ _ ht => State.createChannel_keeps _ _ _ _ _ ht)

theorem execChannelConfigure_lands (h : CmdHdr) (channel : BitVec 8) (ccrAddr : Word64) (s : State) :
    Lands true (Keeps s) (execChannelConfigure h channel ccrAddr s) :=
  .next (hostCmd_keeps _ _ _ _ _ _ _ (.refl s) fun _ _ ht => Keeps.ite1 ht (State.configureChannel_keeps _ _ _ (State.withdrawStart_keeps _ _ _ ht)))

theorem execChannelStart_lands (h : CmdHdr) (channel : BitVec 8) (join : Bool) (sec : BitVec 48) (ns : BitVec 32) (s : State) :
    Lands true (Keeps s) (execChannelStart h channel join sec ns s) :=
  .next (hostCmd_keeps _ _ _ _ _ _ _ (.refl s) fun _ _ ht => Keeps.ite1 ht (State.startChannel_keeps _ _ _ _ _ _ _ _ ht))

theorem execChannelStop_lands (h : CmdHdr) (channel : BitVec 8) (sec : BitVec 48) (ns : BitVec 32) (s : State) :
    Lands true (Keeps s) (execChannelStop h channel sec ns s) :=
  .next (chanCmd_keeps _ _ _ _ _ (.refl s) fun _ _ ht => State.stopChannel_keeps _ _ _ _ _ ht)

theorem execChannelDestroy_lands (h : CmdHdr) (channel : BitVec 8) (s : State) :
    Lands true (Keeps s) (execChannelDestroy h channel s) := .next (chanCmd_keeps _ _ _ _ _ (.refl s) fun _ _ ht => State.destroyChannel_keeps _ _ ht)

theorem execForceIntra_lands (h : CmdHdr) (channel : BitVec 8) (s : State) :
    Lands true (Keeps s) (execForceIntra h channel s) := .next (chanCmd_keeps _ _ _ _ _ (.refl s) fun _ _ ht => State.forceIntra_keeps _ _ ht)

theorem execPicturePlan_lands (h : CmdHdr) (channel : BitVec 8) (planAddr : Word64) (s : State) :
    Lands true (Keeps s) (execPicturePlan h channel planAddr s) :=
  .next (chanCmd_keeps _ _ _ _ _ (.refl s) fun _ _ ht => State.picturePlan_keeps _ _ _ ht)

theorem execQueueCreate_lands (h : CmdHdr) (q : QueueCreateArgs) (s : State) : Lands true (Keeps s) (execQueueCreate h q s) := by
  refine .next (plainCmd_keeps _ _ _ _ _ (.refl s) fun t ht => ?_)
  cases t.checkQueueCreate q with
  | inl r => exact ht
  | inr v => exact State.modQueue_keeps _ _ _ ht

theorem execQueueDestroy_lands (h : CmdHdr) (qid : BitVec 18) (s : State) : Lands true (Keeps s) (execQueueDestroy h qid s) := by
  refine .next (hostCmd_keeps _ _ _ _ _ _ _ (.refl s) fun _ t ht => ?_)
  cases t.destroyRefusal qid.toNat with
  | none => exact State.destroyQueue_keeps _ _ ht
  | some r => exact ht

theorem execFlowBind_lands (h : CmdHdr) (channel : BitVec 8) (flow : BitVec 11) (egress : Bool) (solo : Bool) (port : BitVec 3) (recAddr : Word64) (recLen : BitVec 24) (s : State) :
    Lands true (Keeps s) (execFlowBind h channel flow egress solo port recAddr recLen s) := by
  refine .next (hostCmd_keeps _ _ _ _ _ _ _ (.refl s) fun _ t ht => ?_)
  cases t.bindRecord recAddr.toNat recLen.toNat with
  | inl r => exact ht
  | inr v => exact Keeps.ite1 (State.bindOut_keeps _ _ _ _ _ _ ht) (State.bindIn_keeps _ _ _ _ _ _ ht)

theorem execUnbind_lands (h : CmdHdr) (flow : BitVec 11) (egress : Bool) (s : State) :
    Lands true (Keeps s) (execUnbind h flow egress s) :=
  .next (plainCmd_keeps _ _ _ _ _ (.refl s) fun _ ht => Keeps.ite1 (Keeps.ite1 ht (State.unbindEgress_keeps _ _ ht))
    (Keeps.ite1 ht (State.unbindIngress_keeps _ _ ht)))

theorem execGateListLoad_lands (h : CmdHdr) (port : BitVec 3) (count : BitVec 10) (listAddr : Word64) (baseSec : BitVec 48) (baseNs : BitVec 32) (cycleNs : BitVec 32) (s : State) :
    Lands true (Keeps s) (execGateListLoad h port count listAddr baseSec baseNs cycleNs s) :=
  .next (plainCmd_keeps _ _ _ _ _ (.refl s) fun _ ht => State.loadGates_keeps _ _ _ _ _ _ _ ht)

theorem execShaperSet_lands (h : CmdHdr) (flow : BitVec 11) (k : BitVec 4) (rate : BitVec 40) (burst : BitVec 24) (s : State) :
    Lands true (Keeps s) (execShaperSet h flow k rate burst s) :=
  .next (plainCmd_keeps _ _ _ _ _ (.refl s) fun _ ht => State.setShaper_keeps _ _ _ _ _ ht)

theorem execStatsSubscribe_lands (h : CmdHdr) (qid : BitVec 18) (kind : BitVec 2) (source : BitVec 11) (classes : BitVec 3) (intervalMs : BitVec 14) (coalesceUs : BitVec 10) (s : State) :
    Lands true (Keeps s) (execStatsSubscribe h qid kind source classes intervalMs coalesceUs s) :=
  .next (hostCmd_keeps _ _ _ _ _ _ _ (.refl s) fun _ _ ht => State.subscribe_keeps _ _ _ _ _ _ _ ht)

theorem execStatsUnsubscribe_lands (h : CmdHdr) (qid : BitVec 18) (kind : BitVec 2) (source : BitVec 11) (s : State) :
    Lands true (Keeps s) (execStatsUnsubscribe h qid kind source s) := by
  refine .next (hostCmd_keeps _ _ _ _ _ _ _ (.refl s) fun _ t ht => ?_)
  cases t.subSourceCheck qid.toNat kind.toNat source.toNat with
  | some r => exact ht
  | none => exact Keeps.ite1 ht (.mk' ht)

theorem execPrickingLoad_lands (h : CmdHdr) (mask : BitVec 8) (addr : Word64) (len : BitVec 24) (s : State) :
    Lands true (Keeps s) (execPrickingLoad h mask addr len s) :=
  .next (hostCmd_keeps _ _ _ _ _ _ _ (.refl s) fun _ _ ht => State.prickingLoad_keeps _ _ _ _ _ _ ht)

theorem execFirmwareLoad_lands (h : CmdHdr) (customer : Bool) (addr : Word64) (len : BitVec 24) (s : State) :
    Lands true (Keeps s) (execFirmwareLoad h customer addr len s) :=
  .next (hostCmd_keeps _ _ _ _ _ _ _ (.refl s) fun _ _ ht => State.firmwareLoad_keeps _ _ _ _ _ _ ht)

theorem execTwinStart_lands (h : CmdHdr) (s : State) :
    Lands true (Keeps s) (execTwinStart h s) := .next (hostCmd_keeps _ _ _ _ _ _ _ (.refl s) fun _ _ ht => State.twinStart_keeps _ _ _ ht)

theorem execTwinStop_lands (h : CmdHdr) (s : State) :
    Lands true (Keeps s) (execTwinStop h s) := .next (hostCmd_keeps _ _ _ _ _ _ _ (.refl s) fun _ _ ht => Keeps.ite1 ht (State.stopTwin_keeps _ ht))

theorem execYield_lands (h : CmdHdr) (s : State) :
    Lands true (Keeps s) (execYield h s) :=
  .next (hostCmd_keeps _ _ _ _ _ _ _ (.refl s) fun _ _ ht => Keeps.ite1 ht (Keeps.ite1 ht (State.addDeferred_keeps _ _ (State.startYield_keeps _ ht))))

theorem execRejoin_lands (h : CmdHdr) (s : State) :
    Lands true (Keeps s) (execRejoin h s) := .next (hostCmd_keeps _ _ _ _ _ _ _ (.refl s) fun _ _ ht => State.twinRejoin_keeps _ _ _ ht)

theorem execResetPeer_lands (h : CmdHdr) (s : State) :
    Lands true (Keeps s) (execResetPeer h s) := .next (hostCmd_keeps _ _ _ _ _ _ _ (.refl s) fun _ _ ht => Keeps.ite1 (State.twSend_keeps _ _ ht) ht)

theorem execTimeControlClock_lands (h : CmdHdr) (p : ClockArgs) (s : State) :
    Lands true (Keeps s) (execTimeControlClock h p s) :=
  .next (plainCmd_keeps _ _ _ _ _ (.refl s) fun _ ht => Keeps.ite1 ht (State.servoReview_keeps _ (.mk' ht)))

theorem execTimeControlPort_lands (h : CmdHdr) (p : PtpPortArgs) (s : State) :
    Lands true (Keeps s) (execTimeControlPort h p s) := .next (plainCmd_keeps _ _ _ _ _ (.refl s) fun _ ht => Keeps.ite1 ht
    (Keeps.ite1 ht (Keeps.ite1 ht (State.servoReview_keeps _ (.mk' ht)))))

theorem execTimeControlReference_lands (h : CmdHdr) (p : ReferenceArgs) (s : State) :
    Lands true (Keeps s) (execTimeControlReference h p s) := .next (plainCmd_keeps _ _ _ _ _ (.refl s) fun _ ht => Keeps.ite1 ht
    (Keeps.ite1 ht (Keeps.ite1 ht (State.servoReview_keeps _ (.mk' ht)))))

theorem execSetTime_lands (h : CmdHdr) (relative force : Bool) (sec : BitVec 64) (ns : BitVec 32) (s : State) :
    Lands true (Keeps s) (execSetTime h relative force sec ns s) :=
  .next (plainCmd_keeps _ _ _ _ _ (.refl s) fun _ ht => Keeps.ite1 ht (Keeps.ite1 ht (.mk' ht)))

theorem execTimecode_lands (h : CmdHdr) (p : TimecodeArgs) (s : State) :
    Lands true (Keeps s) (execTimecode h p s) := .next (plainCmd_keeps _ _ _ _ _ (.refl s) fun _ ht => .mk' ht)

theorem execQuery_lands (h : CmdHdr) (selector : BitVec 4) (object : BitVec 18) (bufAddr : Word64) (bufLen : BitVec 24) (s : State) :
    Lands true (Keeps s) (execQuery h selector object bufAddr bufLen s) :=
  .next (hostCmd_keeps _ _ _ _ _ _ _ (.refl s) fun _ _ ht => State.answerQuery_keeps _ _ _ _ _ ht)

theorem execReset_lands (h : CmdHdr) (level : BitVec 2) (s : State) : Lands true (Keeps s) (execReset h level s) := by
  have h0 := hostCmd_keeps (.reset h level) h true true (s.noRoom 1)
    (fun _ t => (t, some (if decide (level = 1) || decide (level = 2) then { status := St.ok } else Reply.field St.badFormat 8)))
    s (.refl s) fun _ _ ht => ht
  exact .next (.ite (State.softReset_keeps _ _ h0) h0)

/-! ### Rate-control plans of the firmware -/

theorem execMailboxPlan_lands (channel slot : Nat) (customer : Bool) (put : Option Nat) (s : State) :
    Lands (decide (channel < 128 ∧ slot < 4)) (Keeps s) (execMailboxPlan channel slot customer put s) := by
  refine .unit (.next (State.mailboxTake_keeps _ _ _ _ ?_))
  cases put with
  | none => exact .refl s
  | some v => exact State.mailboxPut_keeps _ _ _ _ (.refl s)

theorem execRcPlan_lands (channel : Nat) (s : State) :
    Lands (decide (channel < 128)) (Keeps s) (execRcPlan channel s) := .unit (.next (State.rcPlan_keeps _ _ (.refl s)))

/-! ### The host interface and its registers -/

theorem execHostEnable_lands (epoch : Bool) (s : State) : Lands true (Keeps s) (execHostEnable epoch s) :=
  .ite (.next (.refl s)) (.ite (.next (.mk' (State.setRegN_keeps _ _ _ (.refl s))))
    (.next (.mk' (State.adminRings_keeps _ (State.setRegN_keeps _ _ _ (.refl s))))))

theorem execDevReset_lands (level : BitVec 8) (key : BitVec 24) (s : State) :
    Lands true (Keeps s) (execDevReset level key s) := .ite (.next (State.softReset_keeps _ _ (.refl s))) (.next (.refl s))

theorem execWindlassPass_lands (stores : List HostStore) (bad : List (Nat × Nat)) (s : State) :
    Lands true (Keeps s) (execWindlassPass stores bad s) := by
  have h0 : Keeps s { s with hostBad := bad, hostMem := stores.foldl (fun m w => Memory.writeBytes zeroDefault m w.addr w.bytes) s.hostMem } :=
    .mk' (Keeps.hostStores (.refl s))
  exact .ite (.next (.ite (State.epochPass_keeps _ (State.takeTick_keeps _ h0)) (State.swapPass_keeps _ (State.takeTick_keeps _ h0)))) (.next h0)

theorem execWindlassHalt_lands (atomic : Bool) (s : State) :
    Lands true (Keeps s) (execWindlassHalt atomic s) :=
  .ite (.next (State.haltWindlass_keeps _ _ (State.takeTick_keeps _ (.refl s)))) (.next (.refl s))

theorem execHeldCompletionWrite_lands (cq : Nat) (s : State) : Lands (decide (cq < 262144)) (Keeps s) (execHeldCompletionWrite cq s) :=
  .unit (.ite (.next (.refl s)) (.next (.foldl (State.writeHeld_keeps _ _ _ (State.refreshRoom_keeps _ _ (.mk' (.refl s))))
    fun _ _ ht => .ite (State.unlessHalted_keeps _ _ ht fun _ hu => State.fetchAll_keeps _ _ hu) ht)))

theorem execMsixMessage_lands (q : Nat) (s : State) : Lands (decide (q < 262144)) (Keeps s) (execMsixMessage q s) :=
  .unit (.ite (.next (.ite (State.msixSend_keeps _ _ (State.modQueue_keeps _ _ _ (.refl s)))
    (State.assertIrq_keeps _ _ (State.modQueue_keeps _ _ _ (.refl s))))) (.next (.refl s)))

theorem execMsixUnmask_lands (v : Nat) (s : State) :
    Lands (decide (v < 64)) (Keeps s) (execMsixUnmask v s) := .unit (.next (State.msixClearMask_keeps _ _ (.refl s)))

theorem execBarMisaligned_lands (addr : Nat) (s : State) :
    Lands true (Keeps s) (execBarMisaligned addr s) := .next (State.raise_keeps _ _ _ _ _ (.mk' (.refl s)))

theorem execRegisterWrite_lands (who : Requester) (addr : Nat) (v : Word) (s : State) : Lands true (Keeps s) (execRegisterWrite who addr v s) :=
  .ite (.next (.refl s)) (.ite (.next (State.writeOutside_keeps _ _ _ (.refl s)))
    (.ite (.next (State.writeIrqSrc_keeps _ _ _ (.refl s))) (.ite (.next (State.writePortCfg_keeps _ _ _ (.refl s)))
      (.ite (.next (State.writeFile_keeps _ _ _ _ (.mk' (.refl s)))) (.next (State.writeFile_keeps _ _ _ _ (.refl s)))))))

theorem execRcRead_lands (who : Requester) (addr : Nat) (s : State) :
    Lands true (Keeps s) (execRcRead who addr s) := .ite (.next (State.readWord_keeps _ _ _ (.refl s))) (.next (.mk' (.refl s)))

/-! ### Channels and their bands -/

theorem execChRunning_lands (channel : Nat) (s : State) :
    Lands (decide (channel < 128)) (Keeps s) (execChRunning channel s) := .unit (.next (State.channelRunning_keeps _ _ (.refl s)))

theorem execStopTimeReached_lands (channel : Nat) (s : State) :
    Lands (decide (channel < 128)) (Keeps s) (execStopTimeReached channel s) := .unit (.next (State.stopTime_keeps _ _ (.refl s)))

theorem execBandWindowOpen_lands (channel pic band : Nat) (s : State) :
    Lands (decide (channel < 128)) (Keeps s) (execBandWindowOpen channel pic band s) := .unit (.next (State.windowOpens_keeps _ _ (.refl s)))

theorem execBandInputDeadline_lands (channel pic band : Nat) (s : State) :
    Lands (decide (channel < 128)) (Keeps s) (execBandInputDeadline channel pic band s) := .unit (.next (State.inputDue_keeps _ _ (.refl s)))

theorem execInputComplexity_lands (channel pic band : Nat) (s : State) :
    Lands (decide (channel < 128)) (Keeps s) (execInputComplexity channel pic band s) := .unit (.next (State.measureInput_keeps _ _ (.refl s)))

/-! ### Tambours -/

theorem execContextPreloadDone_lands (e : PreloadEnd) (s : State) :
    Lands (decide (e.tambour < 8)) (Keeps s) (execContextPreloadDone e s) :=
  .unit (.next (Keeps.ite (State.prefetchDone_keeps _ _ (.refl s)) (State.preloadDone_keeps _ _ (.refl s))))

theorem execBankWritebackDone_lands (tambour : Nat) (s : State) :
    Lands (decide (tambour < 8)) (Keeps s) (execBankWritebackDone tambour s) := .unit (.next (State.writebackDone_keeps _ _ (.refl s)))

theorem execSwitchComplete_lands (tambour : Nat) (s : State) :
    Lands (decide (tambour < 8)) (Keeps s) (execSwitchComplete tambour s) := .unit (.next (State.switch_keeps _ _ (.refl s)))

theorem execMicrowordExecute_lands (tambour : Nat) (view : SeqView) (s : State) :
    Lands (decide (tambour < 8)) (Keeps s) (execMicrowordExecute tambour view s) := .unit (.next (State.microword_keeps _ _ _ (.refl s)))

theorem execBlockSlot_lands (tambour : Nat) (work : BlockWork) (s : State) :
    Lands (decide (tambour < 8)) (Keeps s) (execBlockSlot tambour work s) := .unit (.next (State.slot_keeps _ _ _ (.refl s)))

theorem execHookOverrun_lands (tambour : Nat) (s : State) :
    Lands (decide (tambour < 8)) (Keeps s) (execHookOverrun tambour s) := .unit (.next (State.overrun_keeps _ _ (.refl s)))

theorem execBandAbandon_lands (channel pic band : Nat) (s : State) :
    Lands (decide (channel < 128)) (Keeps s) (execBandAbandon channel pic band s) := .unit (.next (State.abandonDue_keeps _ _ (.refl s)))

theorem execRepairPassEnd_lands (tambour : Nat) (s : State) :
    Lands (decide (tambour < 8)) (Keeps s) (execRepairPassEnd tambour s) := .unit (.next (State.repairEnd_keeps _ _ (.refl s)))

theorem execPacketizerDrain_lands (tambour corrected : Nat) (uncorrectable : Bool) (s : State) :
    Lands (decide (tambour < 8)) (Keeps s) (execPacketizerDrain tambour corrected uncorrectable s) :=
  .unit (.next (Keeps.ite (.refl s) (State.drainWord_keeps _ _ _ _ (.refl s))))

theorem execBandRelease_lands (channel pic band : Nat) (s : State) :
    Lands (decide (channel < 128)) (Keeps s) (execBandRelease channel pic band s) :=
  .unit (.next (Keeps.ite (State.releaseDue_keeps _ _ (.refl s)) (.refl s)))

theorem execStatsBandRecord_lands (channel pic band : Nat) (s : State) :
    Lands (decide (channel < 128)) (Keeps s) (execStatsBandRecord channel pic band s) := .unit (.next (State.retire_keeps _ _ (.refl s)))

/-! ### Picture times -/

theorem execPictureTime_lands (channel pic : Nat) (s : State) :
    Lands (decide (channel < 128)) (Keeps s) (execPictureTime channel pic s) :=
  .unit (.ite (.next (State.modPic_keeps _ _ _ _ (.refl s))) (.next (.refl s)))

/-! ### Power -/

theorem execWakeStart_lands (hoop : Nat) (s : State) :
    Lands (decide (hoop < 4)) (Keeps s) (execWakeStart hoop s) := .unit (.next (State.wakeHoop_keeps _ _ (.refl s)))

theorem execSlewGrant_lands (s : State) : Lands true (Keeps s) (execSlewGrant s) := .next (State.grantSlew_keeps _ (.refl s))

theorem execHoopClockGood_lands (hoop : Nat) (s : State) :
    Lands (decide (hoop < 4)) (Keeps s) (execHoopClockGood hoop s) := .unit (.next (State.hoopGood_keeps _ _ (.refl s)))

/-! ### Wells -/

theorem execWellAllocate_lands (w : WellSel) (reqs : List Nat) (free : Option (Nat × Nat)) (s : State) :
    Lands (reqs.all (fun o => decide (o < 64))) (Keeps s) (execWellAllocate w reqs free s) := by
  refine .unitBool ?_
  have h0 : Keeps s (s.modWell w fun x => { x with waiting := x.waiting ++ reqs }) := State.modWell_keeps _ _ _ (.refl s)
  have h1 (o : Nat) := State.takeRequest_keeps _ w o h0
  cases free with
  | none =>
    dsimp only
    split
    · exact .next (State.tellFirmware_keeps _ _ _ _ (State.serveAlloc_keeps _ _ _ (h1 _)))
    · exact .next h0
  | some f =>
    dsimp only
    split
    · exact .next (State.tellFirmware_keeps _ _ _ _ (State.allocWithFree_keeps _ _ _ _ _ (h1 _)))
    · exact .next (State.freeBuffer_keeps _ _ _ _ h0)

theorem execWellFree_lands (w : WellSel) (addr : Nat) (owner : Nat) (s : State) :
    Lands (decide (owner < 64)) (Keeps s) (execWellFree w addr owner s) := .unit (.next (State.freeBuffer_keeps _ _ _ _ (.refl s)))

theorem execCellRebuildEnd_lands (s : State) : Lands true (Keeps s) (execCellRebuildEnd s) :=
  .ite (.next (.foldl (Keeps.foldr (.mk' (.refl s)) fun _ _ ht => .ite ht (State.pushCell_keeps _ _ ht))
    fun _ _ ht => State.pushCell_keeps _ _ ht)) (.next (.refl s))

theorem execPageCacheRefill_lands (s : State) :
    Lands true (Keeps s) (execPageCacheRefill s) := .ite (.next (State.refill_keeps _ _ (.refl s))) (.next (.refl s))

theorem execPageCacheSpill_lands (s : State) : Lands true (Keeps s) (execPageCacheSpill s) :=
  .ite (.next (State.drainFreeWait_keeps _ _ (.foldl (.mk' (.refl s)) fun _ _ ht => State.ringPush_keeps _ _ ht))) (.next (.refl s))

theorem execPageRebuildEnd_lands (s : State) : Lands true (Keeps s) (execPageRebuildEnd s) :=
  .ite (.next (.foldl (.mk' (.refl s)) fun _ _ ht => .ite ht (State.ringPush_keeps _ _ ht))) (.next (.refl s))

theorem execWelQuotaWrite_lands (reg : QuotaReg) (owner : Nat) (v : Word) (s : State) :
    Lands (decide (owner < 64)) (Keeps s) (execWelQuotaWrite reg owner v s) := by
  refine .unit ?_
  cases reg with
  | cellQuota => exact .ite (.next (State.setRegN_keeps _ _ _ (.refl s))) (.next (State.setBits_keeps _ _ _ (.refl s)))
  | pageReserve => exact .ite (.next (State.setRegN_keeps _ _ _ (.refl s))) (.next (State.setBits_keeps _ _ _ (.refl s)))
  | pageLimit => exact .ite (.next (State.setRegN_keeps _ _ _ (.refl s))) (.next (State.setBits_keeps _ _ _ (.refl s)))

theorem execPageUnitsWrite_lands (units : BitVec 8) (s : State) : Lands true (Keeps s) (execPageUnitsWrite units s) :=
  .ite (.next (.mk' (Keeps.hbmKeep (fun a => decide (a < pageRingBase) || decide (pageRingBase + 0x80000 ≤ a)) (State.setRegN_keeps _ _ _ (.refl s))))) (.next (State.setBits_keeps _ _ _ (.refl s)))

/-! ### Pumps -/

theorem execPumpDescriptorStart_lands (n : Nat) (put : Option Nat) (s : State) :
    Lands (decide (n < 16)) (Keeps s) (execPumpDescriptorStart n put s) :=
  .unit (.next (State.startDescriptor_keeps _ _ (State.putDescriptor_keeps _ _ _ (.refl s))))

theorem execPumpDone_lands (n : Nat) (s : State) : Lands (decide (n < 16)) (Keeps s) (execPumpDone n s) := by
  refine .unit ?_
  split
  · split
    · exact .next (State.failDescriptor_keeps _ _ _ _ _ _ (.refl s))
    · exact .next (State.endDescriptor_keeps _ _ _ _ (State.moveElements_keeps _ _ _ _ _ (State.noteAttrs_keeps _ _ (.refl s))))
  · exact .next (.refl s)

theorem execPumpError_lands (n : Nat) (written : Nat) (host : Bool) (addr : Nat) (s : State) :
    Lands (decide (n < 16)) (Keeps s) (execPumpError n written host addr s) := by
  refine .unit ?_
  split
  · exact .next (State.failDescriptor_keeps _ _ _ _ _ _ (.refl s))
  · exact .ite (.next (State.contextError_keeps _ _ (State.raise_keeps _ _ _ _ _ (State.count_keeps _ _ _ _ (State.contextEnd_keeps _ _ _ (.refl s))))))
      (.next (.refl s))

/-! ### Network ports and flows -/

theorem execFrameReceive_lands (port : Nat) (f : RxFrame) (s : State) :
    Lands (decide (port < 8)) (Keeps s) (execFrameReceive port f s) :=
  .unit (.next (Keeps.ite (State.receiveFrame_keeps _ _ _ (State.wakeBlock_keeps _ _ (.refl s))) (.refl s)))

theorem execIngressWrite_lands (flow cell : Nat) (s : State) :
    Lands (decide (flow < 2048)) (Keeps s) (execIngressWrite flow cell s) :=
  .unit (.next (Keeps.ite (State.ingressTo_keeps _ _ _ (.refl s)) (.refl s)))

theorem execDepacketize_lands (flow : Nat) (note : StreamNote) (s : State) :
    Lands (decide (flow < 2048)) (Keeps s) (execDepacketize flow note s) := .unit (.next (Keeps.ite (.refl s) (State.depack_keeps _ _ _ (.refl s))))

theorem execSequenceLost_lands (channel seq : Nat) (s : State) :
    Lands (decide (channel < 128)) (Keeps s) (execSequenceLost channel seq s) :=
  .unit (.next (Keeps.ite (State.recheckSeq_keeps _ _ _ (State.declareLost_keeps _ _ _ (.refl s))) (.refl s)))

theorem execInjectEntry_lands (channel : Nat) (note : StreamNote) (s : State) :
    Lands (decide (channel < 128)) (Keeps s) (execInjectEntry channel note s) := by
  refine .unit (.ite ?_ (.next (.refl s)))
  split
  · exact .next (State.takeInject_keeps _ _ _ _ (.refl s))
  · exact .next (.refl s)

theorem execOutputSlot_lands (channel : Nat) (s : State) :
    Lands (decide (channel < 128)) (Keeps s) (execOutputSlot channel s) := .unit (.next (State.outputSlot_keeps _ _ (.refl s)))

theorem execEgressBandStart_lands (channel : Nat) (s : State) :
    Lands (decide (channel < 128)) (Keeps s) (execEgressBandStart channel s) :=
  .unit (.next (Keeps.ite (State.egressStart_keeps _ _ (.refl s)) (.refl s)))

theorem execGatePick_lands (port : Nat) (s : State) :
    Lands (decide (port < 8)) (Keeps s) (execGatePick port s) := .unit (.next (Keeps.ite (.refl s) (State.gatePick_keeps _ _ (.refl s))))

theorem execGateEntryEnd_lands (port : Nat) (s : State) :
    Lands (decide (port < 8)) (Keeps s) (execGateEntryEnd port s) := .unit (.next (State.modGate_keeps _ _ _ (.refl s)))

theorem execGateSwitch_lands (port : Nat) (s : State) : Lands (decide (port < 8)) (Keeps s) (execGateSwitch port s) := by
  refine .unit ?_
  split
  · exact .ite (.next (State.raise_keeps _ _ _ _ _ (State.modGate_keeps _ _ _ (.refl s)))) (.next (.refl s))
  · exact .next (.refl s)

theorem execShaperRefill_lands (flow : Nat) (s : State) :
    Lands (decide (flow < 2048)) (Keeps s) (execShaperRefill flow s) := .unit (.next (Keeps.ite (State.modEflow_keeps _ _ _ (.refl s)) (.refl s)))

theorem execMembershipReport_lands (flow : Nat) (s : State) : Lands (decide (flow < 2048)) (Keeps s) (execMembershipReport flow s) := by
  refine .unit ?_
  split
  · split
    · rename_i h
      exact .next (.mk' (Keeps.of_fst h (State.fwSend_keeps _ _ _ (.refl s))))
    · rename_i h
      exact .next (Keeps.of_fst h (State.fwSend_keeps _ _ _ (.refl s)))
  · exact .next (.refl s)

theorem execNetPortEnable_lands (port : Nat) (on : Bool) (s : State) :
    Lands (decide (port < 8)) (Keeps s) (execNetPortEnable port on s) :=
  .unit (.next (Keeps.ite (State.setRegN_keeps _ _ _ (.refl s)) (State.linkFalls_keeps _ _ (State.setRegN_keeps _ _ _ (.refl s)))))

theorem execLinkUp_lands (port : Nat) (s : State) :
    Lands (decide (port < 8)) (Keeps s) (execLinkUp port s) :=
  .unit (.ite (.next (State.raise_keeps _ _ _ _ _ (State.assertIrq_keeps _ _ (State.linkPartial_keeps _ _ (State.modPort_keeps _ _ _ (.refl s)))))) (.next (.refl s)))

theorem execLinkDown_lands (port : Nat) (s : State) :
    Lands (decide (port < 8)) (Keeps s) (execLinkDown port s) := .unit (.next (State.linkFalls_keeps _ _ (.refl s)))

/-! ### The time base -/

theorem execAoTick_lands (s : State) :
    Lands true (Keeps s) (execAoTick s) := .next (State.powerSweep_keeps _ (State.pulseTick_keeps _ (.mk' (State.tickTime_keeps _ (.refl s)))))

theorem execTimeIncAdjWrite_lands (who : Requester) (v : Word) (s : State) :
    Lands true (Keeps s) (execTimeIncAdjWrite who v s) := .ite (.next (State.setRegN_keeps _ _ _ (.refl s))) (.next (.refl s))

theorem execTimeStepWrite_lands (who : Requester) (hi : Word) (s : State) :
    Lands true (Keeps s) (execTimeStepWrite who hi s) := .ite (.next (.mk' (State.commitPair_keeps _ _ _ _ (.refl s)))) (.next (.refl s))

theorem execTimeLatch_lands (s : State) :
    Lands true (Keeps s) (execTimeLatch s) :=
  .next (State.setRegN_keeps _ _ _ (State.setRegN_keeps _ _ _ (State.setRegN_keeps _ _ _ (State.setRegN_keeps _ _ _ (.refl s)))))

theorem execPtpMessageReceive_lands (port : Nat) (d : PtpDecision) (s : State) :
    Lands (decide (port < 8)) (Keeps s) (execPtpMessageReceive port d s) := by
  refine .unit (.ite (.next (State.takePtpFrame_keeps _ _ (.refl s))) (.next (State.servoReview_keeps _ ?_)))
  have h0 : Keeps s ((s.takePtpFrame port).meterPtp port d) := State.meterPtp_keeps _ _ _ (State.takePtpFrame_keeps _ _ (.refl s))
  have h1 := Keeps.ite (c := d.parent ≠ ((s.takePtpFrame port).meterPtp port d).time.parent) (State.raise_keeps _ Src.time Kind.ptpParentChange 0 port h0) h0
  split
  · exact .ite (.mk' h1) (.mk' h1)
  · exact .mk' h1

theorem execPtpMessageSend_lands (port : Nat) (kind : PtpKind) (s : State) :
    Lands (decide (port < 8)) (Keeps s) (execPtpMessageSend port kind s) := .unit (.next (State.ptpSend_keeps _ _ _ (.refl s)))

theorem execAnnounceReceiptTimeout_lands (s : State) : Lands true (Keeps s) (execAnnounceReceiptTimeout s) := by
  refine .next (State.servoReview_keeps _ (.mk' ?_))
  split
  · exact .ite (.refl s) (State.raise_keeps _ _ _ _ _ (.refl s))
  · exact .refl s

theorem execServoSample_lands (given : Int) (ask : ServoAsk) (s : State) : Lands true (Keeps s) (execServoSample given ask s) := by
  have h0 : Keeps s (match ask.ref10m with
      | some v => if s.time.ref10mOk = true ∧ (s.measureRef v).time.ref10mOk = false then (s.measureRef v).loseRef true else s.measureRef v
      | none => s) := by
    split
    · exact .ite (State.loseRef_keeps _ _ (State.measureRef_keeps _ _ (.refl s))) (State.measureRef_keeps _ _ (.refl s))
    · exact .refl s
  exact .ite (.next h0) (.ite (.next (State.steer_keeps _ _ _ (State.judgeOffset_keeps _ _ (State.servoReview_keeps _ h0))))
    (.next (State.servoReview_keeps _ h0)))

theorem execHoldoverExpire_lands (s : State) :
    Lands true (Keeps s) (execHoldoverExpire s) := .ite (.next (State.servoTo_keeps _ _ (.refl s))) (.next (.refl s))

theorem execPpsInEdge_lands (falling : Bool) (ts : Nat) (s : State) :
    Lands true (Keeps s) (execPpsInEdge falling ts s) :=
  .ite (.next (State.servoReview_keeps _ (State.assertIrq_keeps _ _ (.mk' (.refl s))))) (.next (.refl s))

theorem execRefLost_lands (ref10m : Bool) (s : State) :
    Lands true (Keeps s) (execRefLost ref10m s) := .next (State.loseRef_keeps _ _ (.ite (.mk' (.refl s)) (.mk' (.refl s))))

theorem execTlvTimeout_lands (s : State) : Lands true (Keeps s) (execTlvTimeout s) := .ite (.next (.mk' (.refl s))) (.next (.refl s))

theorem execTimeOscCode_lands (who : Requester) (code : Word) (s : State) : Lands true (Keeps s) (execTimeOscCode who code s) := by
  refine .ite ?_ (.next (.refl s))
  split
  · exact .next (.mk' (.refl s))
  · exact .next (.mk' (.refl s))

theorem execOscSpiFrameEnd_lands (s : State) : Lands true (Keeps s) (execOscSpiFrameEnd s) := .ite (.next (.mk' (.refl s))) (.next (.refl s))

theorem execTimeToutEnWrite_lands (en : BitVec 8) (s : State) : Lands true (Keeps s) (execTimeToutEnWrite en s) :=
  .next (State.setRegN_keeps _ _ _ (.foldl (.refl s) fun _ _ ht => .ite (.mk' ht) (.ite (.mk' ht) ht)))

theorem execTimingOutputEdge_lands (n : Nat) (s : State) :
    Lands (decide (n < 8)) (Keeps s) (execTimingOutputEdge n s) := .unit (.next (.mk' (.refl s)))

theorem execStatsIntervalEnd_lands (kind source : Nat) (s : State) :
    Lands (decide ((kind = 1 ∧ source < 2048) ∨ (kind = 2 ∧ source < 8))) (Keeps s) (execStatsIntervalEnd kind source s) :=
  .unit (.next (State.endIntervals_keeps _ _ _ (.refl s)))

/-! ### The twin -/

theorem execTwilanLinkUp_lands (s : State) : Lands true (Keeps s) (execTwilanLinkUp s) := by
  have h0 := State.assertIrq_keeps _ 48 (State.modLink_keeps s (fun l => { up := true, wire := l.wire, lastTx := s.now }) (.refl s))
  exact .ite (.next (.refl s)) (.next (.ite (State.twSend_keeps _ _ h0) h0))

theorem execTwilanFrameReceive_lands (f : RxTwilan) (s : State) :
    Lands true (Keeps s) (execTwilanFrameReceive f s) := .next (State.receiveTwilan_keeps _ _ (.refl s))

theorem execTwilanLinkFrame_lands (s : State) :
    Lands true (Keeps s) (execTwilanLinkFrame s) := .ite (.next (.refl s)) (.next (State.modLink_keeps _ _ (.refl s)))

theorem execTwilanRetransmit_lands (fseq : Nat) (s : State) :
    Lands (decide (fseq < 65536)) (Keeps s) (execTwilanRetransmit fseq s) := .unit (.next (Keeps.ite (State.twResend_keeps _ _ (.refl s)) (.refl s)))

theorem execHello_lands (s : State) : Lands true (Keeps s) (execHello s) := by
  refine .next (State.onMsg_keeps _ _ _ (.refl s) fun t d ht => ?_)
  split
  · exact State.onHello_keeps _ _ _ _ ht
  · exact ht

theorem execCheck_lands (s : State) : Lands true (Keeps s) (execCheck s) := by
  refine .next (.ite (.refl s) (State.onMsg_keeps _ _ _ (.refl s) fun t d ht => ?_))
  split
  · exact State.onCheck_keeps _ _ ht
  · exact ht

theorem execTimeExchange_lands (s : State) :
    Lands true (Keeps s) (execTimeExchange s) := .next (.ite (State.twSend_keeps _ _ (.mk' (.refl s))) (.refl s))

theorem execTime_lands (s : State) :
    Lands true (Keeps s) (execTime s) := .next (State.onMsg_keeps _ _ _ (.refl s) fun _ _ ht => State.onTime_keeps _ _ ht)

theorem execStartTimeout_lands (s : State) :
    Lands true (Keeps s) (execStartTimeout s) := .next (State.channelTimeouts_keeps _ (State.twinTimeout_keeps _ (.refl s)))

theorem execArm_lands (s : State) : Lands true (Keeps s) (execArm s) := by
  refine .next (State.onMsg_keeps _ _ _ (.refl s) fun t d ht => ?_)
  split
  · exact State.onArm_keeps _ _ _ ht
  · exact .ite (State.setPeerArm_keeps _ _ _ ht) ht
  · exact ht

theorem execLedgerPoint_lands (channel pic : Nat) (s : State) :
    Lands (decide (channel < 128)) (Keeps s) (execLedgerPoint channel pic s) := .unit (.next (State.ledgerPoint_keeps _ _ _ (.refl s)))

theorem execLedger_lands (s : State) : Lands true (Keeps s) (execLedger s) := by
  refine .next (State.onMsg_keeps _ _ _ (.refl s) fun t d ht => ?_)
  split
  · exact State.onLedger_keeps _ _ ht
  · exact ht

theorem execTokenDue_lands (channel pic : Nat) (s : State) :
    Lands (decide (channel < 128)) (Keeps s) (execTokenDue channel pic s) := .unit (.next (State.tokenMissing_keeps _ _ _ (.refl s)))

theorem execReconcileRequest_lands (s : State) : Lands true (Keeps s) (execReconcileRequest s) := by
  refine .next (State.onMsg_keeps _ _ _ (.refl s) fun t d ht => ?_)
  split
  · exact State.onReconRequest_keeps _ _ ht
  · exact ht

theorem execReconcileData_lands (s : State) : Lands true (Keeps s) (execReconcileData s) := by
  refine .next (State.onMsg_keeps _ _ _ (.refl s) fun t d ht => ?_)
  split
  · exact State.onReconAnswer_keeps _ _ _ ht
  · exact ht

theorem execReconcileClose_lands (channel pic band : Nat) (s : State) :
    Lands (decide (channel < 128)) (Keeps s) (execReconcileClose channel pic band s) := .unit (.next (State.reconTime_keeps _ _ (.refl s)))

theorem execRelease_lands (s : State) : Lands true (Keeps s) (execRelease s) := by
  refine .next (State.onMsg_keeps _ _ _ (.refl s) fun t d ht => ?_)
  split
  · exact .foldl ht fun _ _ hu => State.onRecord_keeps _ _ hu
  · exact ht

theorem execMirrorRequest_lands (s : State) : Lands true (Keeps s) (execMirrorRequest s) := by
  refine .next (State.onMsg_keeps _ _ _ (.refl s) fun t d ht => ?_)
  split
  · exact State.onMirrorRequest_keeps _ _ ht
  · exact ht

theorem execMirrorData_lands (s : State) : Lands true (Keeps s) (execMirrorData s) := by
  refine .next (State.onMsg_keeps _ _ _ (.refl s) fun t d ht => ?_)
  split
  · exact State.onMirrorData_keeps _ _ _ ht
  · exact ht

theorem execMirrorBufferExpire_lands (s : State) : Lands true (Keeps s) (execMirrorBufferExpire s) := .next (.mk' (.refl s))

theorem execDiverge_lands (s : State) : Lands true (Keeps s) (execDiverge s) := by
  refine .next (State.onMsg_keeps _ _ _ (.refl s) fun t d ht => ?_)
  split
  · exact State.onDiverge_keeps _ _ _ _ ht
  · exact ht

theorem execHeartbeatSend_lands (s : State) : Lands true (Keeps s) (execHeartbeatSend s) := .next (State.sendHeartbeat_keeps _ (.refl s))

theorem execHeartbeat_lands (s : State) : Lands true (Keeps s) (execHeartbeat s) := by
  refine .next (State.onMsg_keeps _ _ _ (.refl s) fun t d ht => ?_)
  split
  · exact State.onHeartbeat_keeps _ _ _ ht
  · exact ht

theorem execHeartbeatMiss_lands (s : State) : Lands true (Keeps s) (execHeartbeatMiss s) := .next (State.judgeHeartbeat_keeps _ (.refl s))

theorem execBye_lands (s : State) : Lands true (Keeps s) (execBye s) := .next (State.onMsg_keeps _ _ _ (.refl s) fun _ _ ht => State.onBye_keeps _ ht)

theorem execResetPeerRequest_lands (s : State) :
    Lands true (Keeps s) (execResetPeerRequest s) := .next (State.onMsg_keeps _ _ _ (.refl s) fun _ _ ht => .ite (State.assertSource_keeps _ _ ht) ht)

theorem execTwinYieldNInput_lands (asserted : Bool) (s : State) : Lands true (Keeps s) (execTwinYieldNInput asserted s) := by
  have h0 : Keeps s (if s.twin.yieldIn = asserted then { s with twin := { s.twin with yieldIn := asserted } }
      else State.assertIrq { s with twin := { s.twin with yieldIn := asserted } } 49) :=
    .ite (.mk' (.refl s)) (State.assertIrq_keeps _ _ (.mk' (.refl s)))
  exact .next (.ite (State.peerLost_keeps _ h0) h0)

theorem execYieldComplete_lands (s : State) : Lands true (Keeps s) (execYieldComplete s) := .next (State.completeYield_keeps _ (.refl s))

theorem execTwnCtrlYield_lands (s : State) :
    Lands true (Keeps s) (execTwnCtrlYield s) := .next (Keeps.ite (State.startYield_keeps _ (.refl s)) (.refl s))

/-! ### Interrupts -/

theorem execInterruptAssertion_lands (src : Nat) (s : State) :
    Lands (assertable src) (Keeps s) (execInterruptAssertion src s) := .unitBool (.next (State.lineRise_keeps _ _ (.refl s)))

theorem execIrqClaim_lands (core : Nat) (s : State) :
    Lands (decide (core < 4)) (Keeps s) (execIrqClaim core s) := .unit (.next (State.claim_keeps _ _ (.refl s)))

theorem execIrqComplete_lands (core : Nat) (v : Word) (s : State) :
    Lands (decide (core < 4)) (Keeps s) (execIrqComplete core v s) := .unit (.next (State.complete_keeps _ _ _ (.refl s)))

theorem execIrqPendingClear_lands (src : Nat) (s : State) :
    Lands (decide (1 ≤ src ∧ src ≤ 511)) (Keeps s) (execIrqPendingClear src s) := .unit (.next (State.modSrc_keeps _ _ _ (.refl s)))

theorem execIrqSwi_lands (mask : BitVec 4) (s : State) : Lands true (Keeps s) (execIrqSwi mask s) :=
  .next (.foldl (.refl s) fun _ _ ht => .ite (State.assertIrq_keeps _ _ ht) ht)

theorem execIrqEvqHead_lands (core : Nat) (head : Word) (s : State) :
    Lands (decide (core < 4)) (Keeps s) (execIrqEvqHead core head s) := .unit (.next (State.returnRecords_keeps _ _ _ (.refl s)))

/-! ### Faults -/

theorem execFaultMessage_lands (m : Option RaisedMsg) (s : State) : Lands true (Keeps s) (execFaultMessage m s) := by
  cases m with
  | some r =>
    refine .ite ?_ (.next (.refl s))
    have h0 := State.raise_keeps s r.source.toNat r.kind.toNat r.address.toNat r.detail.toNat (.refl s)
    generalize s.raise r.source.toNat r.kind.toNat r.address.toNat r.detail.toNat = t at h0
    dsimp only
    split
    · exact .next (State.accept_keeps _ _ (.mk' h0))
    · exact .next h0
  | none =>
    dsimp only [execFaultMessage]
    split
    · exact .next (State.accept_keeps _ _ (.mk' (.refl s)))
    · exact .next (.refl s)

theorem execChFaulted_lands (channel : Nat) (s : State) :
    Lands (decide (channel < 128)) (Keeps s) (execChFaulted channel s) := .unit (.next (State.channelFaulted_keeps _ _ (.refl s)))

theorem execFltInject_lands (who : Requester) (kind : BitVec 8) (cls : BitVec 2) (key : BitVec 16) (s : State) :
    Lands true (Keeps s) (execFltInject who kind cls key s) :=
  .ite (.next (State.raise_keeps _ _ _ _ _ (.refl s))) (.next (State.setBits_keeps _ _ _ (.refl s)))

theorem execFltLogClr_lands (clr : Bool) (s : State) : Lands true (Keeps s) (execFltLogClr clr s) := .ite (.next (.mk' (.refl s))) (.next (.refl s))

theorem execFltKindWrite_lands (kind : BitVec 8) (cls : BitVec 2) (s : State) : Lands true (Keeps s) (execFltKindWrite kind cls s) := by
  unfold execFltKindWrite
  split
  · exact .ite (.next (.mk' (.refl s))) (.next (State.setBits_keeps _ _ _ (.refl s)))
  · exact .next (.refl s)

/-! ### Resets and clocks -/

theorem execPor_lands (bad : Bool) (s : State) : Lands true (Keeps s) (execPor bad s) := .next (State.levelSource_keeps _ _ _ (.refl s))

theorem execRstN_lands (low : Bool) (s : State) : Lands true (Keeps s) (execRstN low s) := .next (State.levelSource_keeps _ _ _ (.refl s))

theorem execPerstN_lands (low : Bool) (s : State) : Lands true (Keeps s) (execPerstN low s) := .next (State.levelSource_keeps _ _ _ (.refl s))

theorem execPcieHotReset_lands (s : State) : Lands true (Keeps s) (execPcieHotReset s) := .next (State.assertSource_keeps _ _ (.refl s))

theorem execPcieLinkDown_lands (s : State) :
    Lands true (Keeps s) (execPcieLinkDown s) := .ite (.next (State.assertSource_keeps _ _ (.refl s))) (.next (.refl s))

theorem execWdogExpire_lands (core : Nat) (s : State) :
    Lands (decide (core < 4)) (Keeps s) (execWdogExpire core s) :=
  .unit (.ite (.next (State.assertSource_keeps _ _ (State.raise_keeps _ _ _ _ _ (State.setWdog_keeps _ _ _ (.refl s))))) (.next (.refl s)))

theorem execWatchdogHalf_lands (core : Nat) (s : State) :
    Lands (decide (core < 4)) (Keeps s) (execWatchdogHalf core s) :=
  .unit (.ite (.next (State.assertIrq_keeps _ _ (State.setWdog_keeps _ _ _ (.refl s)))) (.next (.refl s)))

theorem execRstWdogWrite_lands (core : Nat) (us : BitVec 24) (s : State) :
    Lands (decide (core < 4)) (Keeps s) (execRstWdogWrite core us s) :=
  .unit (.next (State.setWdog_keeps _ _ _ (State.setRegN_keeps _ _ _ (.refl s))))

theorem execResetRelease_lands (cut role : Bool) (s : State) :
    Lands true (Keeps s) (execResetRelease cut role s) := .next (State.beginRelease_keeps _ _ _ (.refl s))

theorem execClockGood_lands (clk : Nat) (s : State) :
    Lands (decide (clk < 12)) (Keeps s) (execClockGood clk s) := .unit (.next (State.clockIsGood_keeps _ _ (.refl s)))

theorem execClkLost_lands (clk : Nat) (s : State) :
    Lands (decide (clk < 12)) (Keeps s) (execClkLost clk s) := .unit (.next (State.clockIsLost_keeps _ _ (.refl s)))

theorem execSelfTestEnd_lands (r : SelfTestResult) (s : State) :
    Lands true (Keeps s) (execSelfTestEnd r s) := .next (State.selfTestEnds_keeps _ _ (.refl s))

theorem execRstBlock_lands (who : Requester) (block : BitVec 10) (s : State) : Lands true (Keeps s) (execRstBlock who block s) := by
  cases who with
  | host => exact .next (.refl s)
  | core c => exact .ite (.next (.mk' (.refl s))) (.ite (.next (State.holdBlock_keeps _ (.mk' (.refl s)))) (.next (.mk' (.refl s))))

theorem execBlockIdle_lands (s : State) : Lands true (Keeps s) (execBlockIdle s) := .ite (.next (State.holdBlock_keeps _ (.refl s))) (.next (.refl s))

theorem execIdleTimeout_lands (s : State) :
    Lands true (Keeps s) (execIdleTimeout s) :=
  .ite (.next (State.raise_keeps _ _ _ _ _ (State.holdBlock_keeps _ (.mk' (.refl s))))) (.next (.refl s))

theorem execBlockRelease_lands (s : State) : Lands true (Keeps s) (execBlockRelease s) := by
  unfold execBlockRelease
  split
  · exact .ite (.ite (.next (.mk' (.refl s))) (.next (.mk' (.refl s)))) (.next (.refl s))
  · exact .next (.refl s)

theorem execRstMapWrite_lands (hi : Bool) (v : Word) (s : State) :
    Lands true (Keeps s) (execRstMapWrite hi v s) := .next (State.setRegN_keeps _ _ _ (.refl s))

/-! ### Fuses and sensors -/

theorem execFuseProgCmd_lands (word : BitVec 7) (key : BitVec 16) (s : State) :
    Lands true (fun t => t.pending = s.pending) (execFuseProgCmd word key s) :=
  .ite (.next rfl) (.next rfl)

theorem execFusePulseEnd_lands (s : State) : Lands true (fun t => t.pending = s.pending) (execFusePulseEnd s) := by
  unfold execFusePulseEnd
  split
  · exact .next rfl
  · exact .next rfl

theorem execThermalSample_lands (n : Nat) (temp : Int) (valid : Bool) (s : State) :
    Lands (decide (n < 16)) (Keeps s) (execThermalSample n temp valid s) := .unit (.next (State.sampleSensor_keeps _ _ _ _ (.refl s)))

/-! ### HBM -/

theorem execHbmCommandIssue_lands (pc : Nat) (arrivals : List HbmReqArgs) (s : State) :
    Lands (decide (pc < 32)) (Keeps s) (execHbmCommandIssue pc arrivals s) :=
  .unit (.next (State.issueOn_keeps _ _ (State.acceptReqs_keeps _ _ (.refl s))))

theorem execHbmReadReturn_lands (port : Nat) (addr : Nat) (latencyNs : Nat) (severity : BitVec 2) (reader : HbmReader) (s : State) :
    Lands (decide (port < 8)) (Keeps s) (execHbmReadReturn port addr latencyNs severity reader s) := by
  refine .unit (.next ?_)
  have h0 := State.readSeverity_keeps _ addr severity.toNat (State.endRead_keeps s port addr latencyNs (.refl s))
  have h1 := Keeps.ite (c := severity = 3) (State.poisoned_keeps _ reader h0) h0
  split
  · exact State.verifyRow_keeps _ _ _ _ _ _ h1
  · exact h1

theorem execHbmRefresh_lands (pc : Nat) (bank : Nat) (s : State) :
    Lands (decide (pc < 32 ∧ bank < 16)) (Keeps s) (execHbmRefresh pc bank s) := .unit (.next (State.refreshDue_keeps _ _ _ (.refl s)))

theorem execHbmTempRead_lands (t : Int) (s : State) :
    Lands true (Keeps s) (execHbmTempRead t s) := .next (.ite (State.raise_keeps _ _ _ _ _ (.mk' (.refl s))) (.mk' (.refl s)))

theorem execSelfRefreshEntry_lands (s : State) : Lands true (Keeps s) (execSelfRefreshEntry s) := .next (.ite (.mk' (.refl s)) (.refl s))

theorem execSelfRefreshExit_lands (wake : Bool) (s : State) :
    Lands true (Keeps s) (execSelfRefreshExit wake s) := .next (.ite (.mk' (.refl s)) (.refl s))

theorem execWckRetrack_lands (channel : Nat) (s : State) :
    Lands (decide (channel < 16)) (Keeps s) (execWckRetrack channel s) := .unit (.next (.ite (.mk' (.refl s)) (.refl s)))

theorem execHbmTrain_lands (s : State) : Lands true (Keeps s) (execHbmTrain s) := .next (.ite (State.setBits_keeps _ _ _ (.refl s)) (.mk' (.refl s)))

theorem execHbmPortCfgWrite_lands (n : Nat) (v : Word) (s : State) :
    Lands (decide (n < 8)) (Keeps s) (execHbmPortCfgWrite n v s) :=
  .unit (.next (Keeps.ite (State.setRegN_keeps _ _ _ (.refl s)) (State.setBits_keeps _ _ _ (State.setRegN_keeps _ _ _ (.refl s)))))

/-! ### Check units -/

theorem execCkCfgWrite_lands (n : Nat) (v : Word) (s : State) :
    Lands (decide (n < 16)) (Keeps s) (execCkCfgWrite n v s) := .unit (.next (State.ckConfigure_keeps _ _ _ (.refl s)))

theorem execCkStart_lands (n : Nat) (s : State) :
    Lands (decide (n < 16)) (Keeps s) (execCkStart n s) := .unit (.next (State.setPair_keeps _ _ _ _ (.refl s)))

theorem execCkData_lands (n : Nat) (v : Word) (s : State) :
    Lands (decide (n < 16)) (Keeps s) (execCkData n v s) := .unit (.next (State.wakeBlock_keeps _ _ (State.setPair_keeps _ _ _ _ (.refl s))))

theorem execCkValueRestore_lands (who : Requester) (n : Nat) (hi : Word) (s : State) :
    Lands (decide (n < 16)) (Keeps s) (execCkValueRestore who n hi s) :=
  .unit (.next (State.setPair_keeps _ _ _ _ (State.commitPair_keeps _ _ _ _ (.refl s))))

theorem execCkAlive_lands (n : Nat) (slot : BitVec 5) (v : BitVec 8) (s : State) :
    Lands (decide (n < 16)) (Keeps s) (execCkAlive n slot v s) := .unit (.next (State.wakeBlock_keeps _ _ (State.alive_keeps _ _ _ _ (.refl s))))

theorem execCkAliveClr_lands (n : Nat) (mask : Word) (s : State) :
    Lands (decide (n < 16)) (Keeps s) (execCkAliveClr n mask s) :=
  .unit (.next (.foldl (.refl s) fun _ _ ht => .ite (State.setAlive_keeps _ _ _ _ ht) ht))

/-! ### Ends of what other commands began -/

theorem execTwilanLinkDown_lands (s : State) :
    Lands true (Keeps s) (execTwilanLinkDown s) :=
  .ite (.next (State.assertIrq_keeps _ _ (State.modLink_keeps _ _ (.mk' (.refl s))))) (.next (.refl s))

theorem execTwinnedNotice_lands (s : State) :
    Lands true (Keeps s) (execTwinnedNotice s) := .next (State.onMsg_keeps _ _ _ (.refl s) fun _ _ ht => .ite (State.enterTwinned_keeps _ ht) ht)

theorem execPrickingLoadWriteEnd_lands (s : State) : Lands true (Keeps s) (execPrickingLoadWriteEnd s) := by
  unfold execPrickingLoadWriteEnd
  split
  · exact .next (.refl s)
  · rename_i l rest _
    have h0 := State.showLoad_keeps _ l.mask St.ok (State.modStores_keeps { s with prkLoad := rest } l.mask (fun p => p.write l) (.mk' (.refl s)))
    refine .next ?_
    split
    · exact State.endDeferred_keeps _ _ _ h0
    · exact h0

theorem execFirmwareLoadEnd_lands (s : State) : Lands true (Keeps s) (execFirmwareLoadEnd s) := by
  unfold execFirmwareLoadEnd
  split
  · exact .next (.refl s)
  · rename_i customer body version rest _
    have h0 := State.placeFirmware_keeps { s with fw := { s.fw with load := rest } } customer body version (.mk' (.refl s))
    refine .next ?_
    split
    · exact State.endDeferred_keeps _ _ _ (.ite h0 (.mk' h0))
    · exact .ite h0 (.mk' h0)

theorem execHbmTrainingEnd_lands (failed : Option Nat) (lanes : BitVec 8) (s : State) : Lands true (Keeps s) (execHbmTrainingEnd failed lanes s) := by
  refine .ite (.next ?_) (.next (.refl s))
  split
  · exact State.raise_keeps _ _ _ _ _ (.mk' (.refl s))
  · exact .mk' (.refl s)

theorem execFilteredLineFall_lands (src : Nat) (s : State) :
    Lands (assertable src) (Keeps s) (execFilteredLineFall src s) := .unitBool (.next (State.dropLine_keeps _ _ (.refl s)))

theorem execOpenRowIdleClose_lands (pc : Nat) (bank : Nat) (s : State) :
    Lands (decide (pc < 32 ∧ bank < 16)) (Keeps s) (execOpenRowIdleClose pc bank s) := .unit (.next (State.closeIdle_keeps _ _ _ (.refl s)))

/-! ## Every command -/

/-- The two commands that write the fuse unit's programming (R512, R535). -/
def programsFuse (c : Instr) : Bool :=
  match c with
  | .fuseProgCmd _ _ => true
  | .fusePulseEnd => true
  | _ => false

/-- What a command leaves: the queue, and, but for the fuse unit's own two commands, its programming and the canonical form. -/
def Frame (c : Instr) (s t : State) : Prop :=
  match programsFuse c with
  | true => t.pending = s.pending
  | false => Keeps s t

theorem Frame.pending {c : Instr} {s t : State} (h : Frame c s t) : t.pending = s.pending := by
  unfold Frame at h
  split at h
  · exact h
  · exact h.queue

/-- Every command answers a next state within its frame where the units it names exist, and the fault noSuchUnit otherwise. -/
theorem exec_lands (c : Instr) (s : State) : Lands c.wellFormed (Frame c s) (exec c s) := by
  cases c with
  | nop h => exact execNop_lands h s
  | channelCreate h channel decode ccrAddr evq => exact execChannelCreate_lands h channel decode ccrAddr evq s
  | channelConfigure h channel ccrAddr => exact execChannelConfigure_lands h channel ccrAddr s
  | channelStart h channel join sec ns => exact execChannelStart_lands h channel join sec ns s
  | channelStop h channel sec ns => exact execChannelStop_lands h channel sec ns s
  | channelDestroy h channel => exact execChannelDestroy_lands h channel s
  | forceIntra h channel => exact execForceIntra_lands h channel s
  | picturePlan h channel planAddr => exact execPicturePlan_lands h channel planAddr s
  | queueCreate h q => exact execQueueCreate_lands h q s
  | queueDestroy h qid => exact execQueueDestroy_lands h qid s
  | flowBind h channel flow egress solo port recAddr recLen => exact execFlowBind_lands h channel flow egress solo port recAddr recLen s
  | unbind h flow egress => exact execUnbind_lands h flow egress s
  | gateListLoad h port count listAddr baseSec baseNs cycleNs => exact execGateListLoad_lands h port count listAddr baseSec baseNs cycleNs s
  | shaperSet h flow k rate burst => exact execShaperSet_lands h flow k rate burst s
  | statsSubscribe h qid kind source classes intervalMs coalesceUs => exact execStatsSubscribe_lands h qid kind source classes intervalMs coalesceUs s
  | statsUnsubscribe h qid kind source => exact execStatsUnsubscribe_lands h qid kind source s
  | prickingLoad h mask addr len => exact execPrickingLoad_lands h mask addr len s
  | firmwareLoad h customer addr len => exact execFirmwareLoad_lands h customer addr len s
  | twinStart h => exact execTwinStart_lands h s
  | twinStop h => exact execTwinStop_lands h s
  | yield h => exact execYield_lands h s
  | rejoin h => exact execRejoin_lands h s
  | resetPeer h => exact execResetPeer_lands h s
  | timeControlClock h p => exact execTimeControlClock_lands h p s
  | timeControlPort h p => exact execTimeControlPort_lands h p s
  | timeControlReference h p => exact execTimeControlReference_lands h p s
  | setTime h relative force sec ns => exact execSetTime_lands h relative force sec ns s
  | timecode h p => exact execTimecode_lands h p s
  | query h selector object bufAddr bufLen => exact execQuery_lands h selector object bufAddr bufLen s
  | reset h level => exact execReset_lands h level s
  | mailboxPlan channel slot customer put => exact execMailboxPlan_lands channel slot customer put s
  | rcPlan channel => exact execRcPlan_lands channel s
  | hostEnable epoch => exact execHostEnable_lands epoch s
  | devReset level key => exact execDevReset_lands level key s
  | windlassPass stores bad => exact execWindlassPass_lands stores bad s
  | windlassHalt atomic => exact execWindlassHalt_lands atomic s
  | heldCompletionWrite cq => exact execHeldCompletionWrite_lands cq s
  | msixMessage q => exact execMsixMessage_lands q s
  | msixUnmask v => exact execMsixUnmask_lands v s
  | barMisaligned addr => exact execBarMisaligned_lands addr s
  | registerWrite who addr v => exact execRegisterWrite_lands who addr v s
  | rcRead who addr => exact execRcRead_lands who addr s
  | chRunning channel => exact execChRunning_lands channel s
  | stopTimeReached channel => exact execStopTimeReached_lands channel s
  | bandWindowOpen channel pic band => exact execBandWindowOpen_lands channel pic band s
  | bandInputDeadline channel pic band => exact execBandInputDeadline_lands channel pic band s
  | inputComplexity channel pic band => exact execInputComplexity_lands channel pic band s
  | contextPreloadDone e => exact execContextPreloadDone_lands e s
  | bankWritebackDone tambour => exact execBankWritebackDone_lands tambour s
  | switchComplete tambour => exact execSwitchComplete_lands tambour s
  | microwordExecute tambour view => exact execMicrowordExecute_lands tambour view s
  | blockSlot tambour work => exact execBlockSlot_lands tambour work s
  | hookOverrun tambour => exact execHookOverrun_lands tambour s
  | bandAbandon channel pic band => exact execBandAbandon_lands channel pic band s
  | repairPassEnd tambour => exact execRepairPassEnd_lands tambour s
  | packetizerDrain tambour corrected uncorrectable => exact execPacketizerDrain_lands tambour corrected uncorrectable s
  | bandRelease channel pic band => exact execBandRelease_lands channel pic band s
  | statsBandRecord channel pic band => exact execStatsBandRecord_lands channel pic band s
  | pictureTime channel pic => exact execPictureTime_lands channel pic s
  | wakeStart hoop => exact execWakeStart_lands hoop s
  | slewGrant => exact execSlewGrant_lands s
  | hoopClockGood hoop => exact execHoopClockGood_lands hoop s
  | wellAllocate w reqs free => exact execWellAllocate_lands w reqs free s
  | wellFree w addr owner => exact execWellFree_lands w addr owner s
  | cellRebuildEnd => exact execCellRebuildEnd_lands s
  | pageCacheRefill => exact execPageCacheRefill_lands s
  | pageCacheSpill => exact execPageCacheSpill_lands s
  | pageRebuildEnd => exact execPageRebuildEnd_lands s
  | welQuotaWrite reg owner v => exact execWelQuotaWrite_lands reg owner v s
  | pageUnitsWrite units => exact execPageUnitsWrite_lands units s
  | pumpDescriptorStart n put => exact execPumpDescriptorStart_lands n put s
  | pumpDone n => exact execPumpDone_lands n s
  | pumpError n written host addr => exact execPumpError_lands n written host addr s
  | frameReceive port f => exact execFrameReceive_lands port f s
  | ingressWrite flow cell => exact execIngressWrite_lands flow cell s
  | depacketize flow note => exact execDepacketize_lands flow note s
  | sequenceLost channel seq => exact execSequenceLost_lands channel seq s
  | injectEntry channel note => exact execInjectEntry_lands channel note s
  | outputSlot channel => exact execOutputSlot_lands channel s
  | egressBandStart channel => exact execEgressBandStart_lands channel s
  | gatePick port => exact execGatePick_lands port s
  | gateEntryEnd port => exact execGateEntryEnd_lands port s
  | gateSwitch port => exact execGateSwitch_lands port s
  | shaperRefill flow => exact execShaperRefill_lands flow s
  | membershipReport flow => exact execMembershipReport_lands flow s
  | netPortEnable port on => exact execNetPortEnable_lands port on s
  | linkUp port => exact execLinkUp_lands port s
  | linkDown port => exact execLinkDown_lands port s
  | aoTick => exact execAoTick_lands s
  | timeIncAdjWrite who v => exact execTimeIncAdjWrite_lands who v s
  | timeStepWrite who hi => exact execTimeStepWrite_lands who hi s
  | timeLatch => exact execTimeLatch_lands s
  | ptpMessageReceive port d => exact execPtpMessageReceive_lands port d s
  | ptpMessageSend port kind => exact execPtpMessageSend_lands port kind s
  | announceReceiptTimeout => exact execAnnounceReceiptTimeout_lands s
  | servoSample given ask => exact execServoSample_lands given ask s
  | holdoverExpire => exact execHoldoverExpire_lands s
  | ppsInEdge falling ts => exact execPpsInEdge_lands falling ts s
  | refLost ref10m => exact execRefLost_lands ref10m s
  | tlvTimeout => exact execTlvTimeout_lands s
  | timeOscCode who code => exact execTimeOscCode_lands who code s
  | oscSpiFrameEnd => exact execOscSpiFrameEnd_lands s
  | timeToutEnWrite en => exact execTimeToutEnWrite_lands en s
  | timingOutputEdge n => exact execTimingOutputEdge_lands n s
  | statsIntervalEnd kind source => exact execStatsIntervalEnd_lands kind source s
  | twilanLinkUp => exact execTwilanLinkUp_lands s
  | twilanFrameReceive f => exact execTwilanFrameReceive_lands f s
  | twilanLinkFrame => exact execTwilanLinkFrame_lands s
  | twilanRetransmit fseq => exact execTwilanRetransmit_lands fseq s
  | hello => exact execHello_lands s
  | check => exact execCheck_lands s
  | timeExchange => exact execTimeExchange_lands s
  | time => exact execTime_lands s
  | startTimeout => exact execStartTimeout_lands s
  | arm => exact execArm_lands s
  | ledgerPoint channel pic => exact execLedgerPoint_lands channel pic s
  | ledger => exact execLedger_lands s
  | tokenDue channel pic => exact execTokenDue_lands channel pic s
  | reconcileRequest => exact execReconcileRequest_lands s
  | reconcileData => exact execReconcileData_lands s
  | reconcileClose channel pic band => exact execReconcileClose_lands channel pic band s
  | release => exact execRelease_lands s
  | mirrorRequest => exact execMirrorRequest_lands s
  | mirrorData => exact execMirrorData_lands s
  | mirrorBufferExpire => exact execMirrorBufferExpire_lands s
  | diverge => exact execDiverge_lands s
  | heartbeatSend => exact execHeartbeatSend_lands s
  | heartbeat => exact execHeartbeat_lands s
  | heartbeatMiss => exact execHeartbeatMiss_lands s
  | bye => exact execBye_lands s
  | resetPeerRequest => exact execResetPeerRequest_lands s
  | twinYieldNInput asserted => exact execTwinYieldNInput_lands asserted s
  | yieldComplete => exact execYieldComplete_lands s
  | twnCtrlYield => exact execTwnCtrlYield_lands s
  | interruptAssertion src => exact execInterruptAssertion_lands src s
  | irqClaim core => exact execIrqClaim_lands core s
  | irqComplete core v => exact execIrqComplete_lands core v s
  | irqPendingClear src => exact execIrqPendingClear_lands src s
  | irqSwi mask => exact execIrqSwi_lands mask s
  | irqEvqHead core head => exact execIrqEvqHead_lands core head s
  | faultMessage m => exact execFaultMessage_lands m s
  | chFaulted channel => exact execChFaulted_lands channel s
  | fltInject who kind cls key => exact execFltInject_lands who kind cls key s
  | fltLogClr clr => exact execFltLogClr_lands clr s
  | fltKindWrite kind cls => exact execFltKindWrite_lands kind cls s
  | por bad => exact execPor_lands bad s
  | rstN low => exact execRstN_lands low s
  | perstN low => exact execPerstN_lands low s
  | pcieHotReset => exact execPcieHotReset_lands s
  | pcieLinkDown => exact execPcieLinkDown_lands s
  | wdogExpire core => exact execWdogExpire_lands core s
  | watchdogHalf core => exact execWatchdogHalf_lands core s
  | rstWdogWrite core us => exact execRstWdogWrite_lands core us s
  | resetRelease cut role => exact execResetRelease_lands cut role s
  | clockGood clk => exact execClockGood_lands clk s
  | clkLost clk => exact execClkLost_lands clk s
  | selfTestEnd r => exact execSelfTestEnd_lands r s
  | rstBlock who block => exact execRstBlock_lands who block s
  | blockIdle => exact execBlockIdle_lands s
  | idleTimeout => exact execIdleTimeout_lands s
  | blockRelease => exact execBlockRelease_lands s
  | rstMapWrite hi v => exact execRstMapWrite_lands hi v s
  | fuseProgCmd word key => exact execFuseProgCmd_lands word key s
  | fusePulseEnd => exact execFusePulseEnd_lands s
  | thermalSample n temp valid => exact execThermalSample_lands n temp valid s
  | hbmCommandIssue pc arrivals => exact execHbmCommandIssue_lands pc arrivals s
  | hbmReadReturn port addr latencyNs severity reader => exact execHbmReadReturn_lands port addr latencyNs severity reader s
  | hbmRefresh pc bank => exact execHbmRefresh_lands pc bank s
  | hbmTempRead t => exact execHbmTempRead_lands t s
  | selfRefreshEntry => exact execSelfRefreshEntry_lands s
  | selfRefreshExit wake => exact execSelfRefreshExit_lands wake s
  | wckRetrack channel => exact execWckRetrack_lands channel s
  | hbmTrain => exact execHbmTrain_lands s
  | hbmPortCfgWrite n v => exact execHbmPortCfgWrite_lands n v s
  | ckCfgWrite n v => exact execCkCfgWrite_lands n v s
  | ckStart n => exact execCkStart_lands n s
  | ckData n v => exact execCkData_lands n v s
  | ckValueRestore who n hi => exact execCkValueRestore_lands who n hi s
  | ckAlive n slot v => exact execCkAlive_lands n slot v s
  | ckAliveClr n mask => exact execCkAliveClr_lands n mask s
  | twilanLinkDown => exact execTwilanLinkDown_lands s
  | twinnedNotice => exact execTwinnedNotice_lands s
  | prickingLoadWriteEnd => exact execPrickingLoadWriteEnd_lands s
  | firmwareLoadEnd => exact execFirmwareLoadEnd_lands s
  | hbmTrainingEnd failed lanes => exact execHbmTrainingEnd_lands failed lanes s
  | filteredLineFall src => exact execFilteredLineFall_lands src s
  | openRowIdleClose pc bank => exact execOpenRowIdleClose_lands pc bank s

/-- Settles O1: a step is the match on the queue. -/
theorem stepRunsTheFront : Obligations.StepRunsTheFront := by
  refine ⟨fun c rest s => rfl, fun s h => ?_⟩
  unfold step
  rw [h]

/-- Settles O3: the frame of every command holds the queue. -/
theorem commandsLeaveTheQueue : Obligations.CommandsLeaveTheQueue := by
  intro c s t h
  have hl := exec_lands c s
  rw [h] at hl
  exact hl.of_next.pending

end Sys2Proof.Machine
end

section
/-!
What a table or a memory reads after a write (O12).
-/
namespace Sys2Proof.Machine

/-! ## Reading a table or a memory after a write -/

theorem SMap_get_of_wfAbove {V : Type} [DecidableEq V] (d : Nat → V) (m : SMap V) (b k : Nat) (h : SMap.wfAbove d (some b) m = true) (hk : k ≤ b) :
    SMap.get d m k = d k := by
  induction m generalizing b with
  | nil => rfl
  | cons e m ih =>
    obtain ⟨j, w⟩ := e
    simp only [SMap.wfAbove, Bool.and_eq_true, decide_eq_true_eq] at h
    obtain ⟨⟨hbj, _⟩, hm⟩ := h
    have hjk : j ≠ k := by omega
    simp only [SMap.get, if_neg hjk]
    exact ih j hm (by omega)

/-- A key that is not written reads as before; this needs no canonical form. -/
theorem SMap_get_set_of_ne {V : Type} [DecidableEq V] (d : Nat → V) (m : SMap V) (k : Nat) (v : V) {n : Nat} (hn : n ≠ k) :
    SMap.get d (SMap.set d m k v) n = SMap.get d m n := by
  have hkn : k ≠ n := hn.symm
  induction m with
  | nil =>
    unfold SMap.set
    split
    · rfl
    · simp only [SMap.get, if_neg hkn]
  | cons e m ih =>
    obtain ⟨j, w⟩ := e
    unfold SMap.set
    split
    · split
      · rfl
      · simp only [SMap.get, if_neg hkn]
    · split
      · rename_i hkj
        subst hkj
        split
        · simp only [SMap.get, if_neg hkn]
        · simp only [SMap.get, if_neg hkn]
      · simp only [SMap.get, ih]

theorem SMap_get_set_same_above {V : Type} [DecidableEq V] (d : Nat → V) (m : SMap V) (k : Nat) (v : V) (b : Option Nat)
    (h : SMap.wfAbove d b m = true) : SMap.get d (SMap.set d m k v) k = v := by
  induction m generalizing b with
  | nil =>
    unfold SMap.set
    split
    · next hv => exact hv.symm
    · exact if_pos rfl
  | cons e m ih =>
    obtain ⟨j, w⟩ := e
    simp only [SMap.wfAbove, Bool.and_eq_true] at h
    obtain ⟨⟨_, hw⟩, hm⟩ := h
    unfold SMap.set
    split
    · next hkj =>
      split
      · next hv =>
        rw [hv, SMap.get, if_neg (Nat.ne_of_gt hkj)]
        exact SMap_get_of_wfAbove d m j k hm (Nat.le_of_lt hkj)
      · exact if_pos rfl
    · split
      · next hkj =>
        subst hkj
        split
        · next hv => rw [hv]; exact SMap_get_of_wfAbove d m k k hm (Nat.le_refl k)
        · exact if_pos rfl
      · next hkj =>
        rw [SMap.get, if_neg (Ne.symm hkj)]
        exact ih (some j) hm

/-- In the canonical form, what is written at a key reads back. -/
theorem SMap_get_set_same {V : Type} [DecidableEq V] (d : Nat → V) (m : SMap V) (k : Nat) (v : V) (h : SMap.wf d m = true) :
    SMap.get d (SMap.set d m k v) k = v := SMap_get_set_same_above d m k v none h

theorem State.reg_setReg_same (s : State) (a : Nat) (v : Word) (h : Tidy s) : (s.setReg a v).reg a = v := by
  obtain ⟨hregs, _⟩ := h
  exact SMap_get_set_same _ _ _ _ hregs

theorem State.reg_setReg_of_ne (s : State) (a : Nat) (v : Word) {b : Nat} (hb : b ≠ a) : (s.setReg a v).reg b = s.reg b := SMap_get_set_of_ne _ _ _ _ hb

theorem State.queue_modQueue_same (s : State) (q : Nat) (f : Queue → Queue) (h : Tidy s) : (s.modQueue q f).queue q = f (s.queue q) := by
  obtain ⟨_, _, hqueues, _⟩ := h
  exact SMap_get_set_same _ _ _ _ hqueues

theorem State.queue_modQueue_of_ne (s : State) (q : Nat) (f : Queue → Queue) {r : Nat} (hr : r ≠ q) : (s.modQueue q f).queue r = s.queue r :=
  SMap_get_set_of_ne _ _ _ _ hr

theorem State.src_modSrc_same (s : State) (n : Nat) (f : IrqSrc → IrqSrc) (h : Tidy s) : (s.modSrc n f).src n = f (s.src n) := by
  obtain ⟨_, hirq, _⟩ := h
  exact SMap_get_set_same _ _ _ _ hirq

theorem State.src_modSrc_of_ne (s : State) (n : Nat) (f : IrqSrc → IrqSrc) {m : Nat} (hm : m ≠ n) : (s.modSrc n f).src m = s.src m :=
  SMap_get_set_of_ne _ _ _ _ hm

/-- Settles O12: each of the tables is a canonical map, read after a write. -/
theorem tablesAndMemoriesReadBack : Obligations.TablesAndMemoriesReadBack := by
  refine ⟨fun s a v h => ⟨s.reg_setReg_same a v h, fun b => s.reg_setReg_of_ne a v⟩,
    fun s q f h => ⟨s.queue_modQueue_same q f h, fun r => s.queue_modQueue_of_ne q f⟩,
    fun s n f h => ⟨s.src_modSrc_same n f h, fun m => s.src_modSrc_of_ne n f⟩, fun d m a v h => ⟨?_, fun b hb => ?_, ?_⟩⟩
  · exact SMap_get_set_same d m a v h
  · exact SMap_get_set_of_ne d m a v hb
  · exact SMap_set_wf d m a v h

end Sys2Proof.Machine
end

section
/-!
The host interface: HOST_ENABLE, the windlass, held completions and register accesses (O52).
-/
namespace Sys2Proof.Machine

/-! ## HOST_ENABLE and the windlass (R266, R271–R283) -/

theorem execHostEnable_idle {epoch : Bool} {s : State} (h : s.host.enabled = true ∨ s.host.ready = false) : execHostEnable epoch s = .next s := if_pos h

/-- Before ENABLED and after READY, HOST_ENABLE is kept in HST_CTRL, and stores the cause of its failure, or sets the rings up. -/
theorem execHostEnable_ready {epoch : Bool} {s : State} (he : s.host.enabled = false) (hr : s.host.ready = true) :
    let c := s.setRegN Reg.hstCtrl (1 + 2 * b2n epoch)
    (s.enableCause epoch ≠ 0 → execHostEnable epoch s = .next { c with host := { c.host with errCause := s.enableCause epoch } }) ∧
    (s.enableCause epoch = 0 → let t := c.adminRings
      execHostEnable epoch s = .next { t with host := { t.host with enabled := true, errCause := 0, epochMode := epoch, wsw := .waiting, lastEpoch := 0, lastGe := [], nextPoll := t.pollTime } }) := by
  have h : ¬ (s.host.enabled = true ∨ s.host.ready = false) := by simp [he, hr]
  unfold execHostEnable
  rw [if_neg h]
  exact ⟨fun hc => if_pos hc, fun hc => if_neg (not_not.mpr hc)⟩

theorem State.pollDue_iff (s : State) : s.pollDue = true ↔ s.host.nextPoll ≤ 40 * s.time.tick := decide_eq_true_iff

theorem State.pollDue_eq_false_iff (s : State) : s.pollDue = false ↔ 40 * s.time.tick < s.host.nextPoll := decide_eq_false_iff_not.trans Nat.not_le

/-- The state on which a windlass pass runs: the host's stores are visible, and the ranges that fail are known. -/
def State.hostStored (s : State) (stores : List HostStore) (bad : List (Nat × Nat)) : State :=
  { s with hostBad := bad, hostMem := stores.foldl (fun m w => Memory.writeBytes zeroDefault m w.addr w.bytes) s.hostMem }

theorem execWindlassPass_due {stores : List HostStore} {bad : List (Nat × Nat)} {s : State} (hw : s.host.wsw = .waiting) (hd : s.pollDue = true) :
    execWindlassPass stores bad s = .next (if s.host.epochMode then (s.hostStored stores bad).takeTick.epochPass else (s.hostStored stores bad).takeTick.swapPass) :=
  if_pos ⟨hw, hd⟩

theorem execWindlassPass_early {stores : List HostStore} {bad : List (Nat × Nat)} {s : State} (h : s.host.wsw ≠ .waiting ∨ s.pollDue = false) :
    execWindlassPass stores bad s = .next (s.hostStored stores bad) :=
  if_neg fun hc => h.elim (fun hw => hw hc.1) fun hd => by rw [show s.pollDue = true from hc.2] at hd; cases hd

/-- A pass in swap mode by what the summary word's swap gives (R275). -/
theorem State.swapPass_eq (s : State) :
    (s.hostRead s.dbArea 8 = none → s.swapPass = s.haltWindlass 6) ∧
    (s.hostRead s.dbArea 8 = some 0 → s.swapPass = s.hostWrite s.dbArea 8 0) ∧
    (∀ v, s.hostRead s.dbArea 8 = some v → v ≠ 0 → let t := s.hostWrite s.dbArea 8 0
      s.swapPass = ((setBitsOf v).foldl (fun t j => t.unlessHalted fun t => t.swapGroup j)
        (t.setRegN Reg.wswPasses (t.regN Reg.wswPasses + 1))).passEnd) := by
  refine ⟨fun h => ?_, fun h => ?_, fun v h hv => ?_⟩ <;> (unfold State.swapPass State.swapZero; rw [h])
  · exact if_pos rfl
  · exact if_neg hv

/-- A pass in epoch mode by what the reads of the epoch and of the groups' epochs give (R276). -/
theorem State.epochPass_eq (s : State) :
    let r := s.setRegN Reg.wswPasses (s.regN Reg.wswPasses + 1)
    (s.hostRead (s.dbArea + 8) 8 = none → s.epochPass = s.haltWindlass 5) ∧
    (s.hostRead (s.dbArea + 8) 8 = some s.host.lastEpoch → s.epochPass = s) ∧
    (∀ e, s.hostRead (s.dbArea + 8) 8 = some e → e ≠ s.host.lastEpoch →
      (r.hostRead (r.dbArea + 0x240) 512 = none → s.epochPass = r.haltWindlass 5) ∧
      (∀ g, r.hostRead (r.dbArea + 0x240) 512 = some g →
        let u := (List.range 64).foldl (fun v j =>
          if bitsAt g (64 * j) 64 = SMap.get (fun _ => 0) s.host.lastGe j then v else v.unlessHalted fun v => v.epochGroup j) r
        let ge := (List.range 64).foldl (fun m j => SMap.set (fun _ => 0) m j (bitsAt g (64 * j) 64)) s.host.lastGe
        s.epochPass = { u with host := { u.host with lastEpoch := e, lastGe := ge } }.passEnd)) := by
  refine ⟨fun h => ?_, fun h => ?_, fun e h he => ⟨fun hg => ?_, fun g hg => ?_⟩⟩ <;> (unfold State.epochPass; rw [h])
  · exact if_pos rfl
  · refine (if_neg he).trans ?_
    dsimp only
    rw [hg]
  · refine (if_neg he).trans ?_
    dsimp only
    rw [hg]
    rfl

theorem execWindlassHalt_due {atomic : Bool} {s : State} (hw : s.host.wsw = .waiting) (hd : s.pollDue = true) :
    execWindlassHalt atomic s = .next (s.takeTick.haltWindlass (if atomic then 6 else 5)) := if_pos ⟨hw, hd⟩

theorem execWindlassHalt_early {atomic : Bool} {s : State} (h : s.host.wsw ≠ .waiting ∨ s.pollDue = false) : execWindlassHalt atomic s = .next s :=
  if_neg fun hc => h.elim (fun hw => hw hc.1) fun hd => by rw [hc.2] at hd; cases hd

/-! ## Held completions (R283, R288) -/

/-- The HSQs bound to HCQ `cq` are fetched again. -/
def State.refetch (s : State) (cq : Nat) : State :=
  ((s.queues.filter fun e => e.2.valid && decide (e.2.ty = .hsq)).map Prod.fst).foldl
    (fun v q => if v.cqOf q = cq then v.unlessHalted fun v => v.fetchAll q else v) s

/-- HCQ `cq` is not looked at again at this poll tick. -/
def State.triedHcq (s : State) (cq : Nat) : State :=
  { s with host := { s.host with heldTry := SMap.set (fun _ => 0) s.host.heldTry cq (s.lastTick + 1) } }

/-- HCQ `cq` is looked at: its record is read where its index shows no room. -/
def State.lookAtHcq (s : State) (cq : Nat) : State := (s.triedHcq cq).refreshRoom cq

theorem execHeldCompletionWrite_early {cq : Nat} {s : State} (hq : cq < 262144) (h : s.lastTick < SMap.get (fun _ => 0) s.host.heldTry cq) :
    execHeldCompletionWrite cq s = .next s := by
  unfold execHeldCompletionWrite
  rw [if_pos hq, if_pos h]

theorem execHeldCompletionWrite_due {cq : Nat} {s : State} (hq : cq < 262144) (h : SMap.get (fun _ => 0) s.host.heldTry cq ≤ s.lastTick) :
    execHeldCompletionWrite cq s =
      .next ((State.writeHeld (s.lookAtHcq cq).host.held.length (s.lookAtHcq cq) cq).refetch cq) := by
  unfold execHeldCompletionWrite
  rw [if_pos hq, if_neg (Nat.not_lt.mpr h)]
  rfl

/-- The one held completion of an HCQ is written where there is room and a write can be made. -/
theorem State.writeHeld_one {t : State} {cq : Nat} {x : HeldCpl} (ht : t.host.held = [x]) (hx : x.cq = cq) :
    (((t.queue cq).full = true ∨ (t.queue cq).valid = false ∨ t.host.busMaster = false) → State.writeHeld t.host.held.length t cq = t) ∧
    ((t.queue cq).full = false → (t.queue cq).valid = true → t.host.busMaster = true → State.writeHeld t.host.held.length t cq =
      { t with host := { t.host with held := [] } }.putEntry cq (x.bits + 2 ^ 24 * (t.queue cq).phase (t.queue cq).tail)) := by
  have hf : t.host.held.find? (fun y => decide (y.cq = cq)) = some x := by simp [ht, hx]
  have he : t.host.held.erase x = [] := by simp [ht]
  rw [show t.host.held.length = 0 + 1 from by rw [ht]; rfl]
  simp only [State.writeHeld, hf, he]
  refine ⟨fun h => if_pos ?_, fun hfull hv hb => if_neg ?_⟩
  · rcases h with h | h | h <;> simp [h]
  · simp [hfull, hv, hb]

/-! ## Register accesses (R9–R12) -/

theorem execRegisterWrite_dropped {who : Requester} {a : Nat} {v : Word} {s : State} (h : s.responds a = false ∨ s.writeLocked who a = true) :
    execRegisterWrite who a v s = .next s := if_pos h

section
variable {who : Requester} {a : Nat} {v : Word} {s : State} (hr : s.responds a = true) (hl : s.writeLocked who a = false)
include hr hl

theorem execRegisterWrite_outside (ha : 0x100000 ≤ a) : execRegisterWrite who a v s = .next (s.writeOutside a v.toNat) := by
  unfold execRegisterWrite
  rw [if_neg (by simp [hr, hl]), if_pos ha]

theorem execRegisterWrite_irqSrc (ha : 0x4004 ≤ a ∧ a < 0x4800 ∧ a % 4 = 0) :
    execRegisterWrite who a v s = .next (s.writeIrqSrc ((a - 0x4000) / 4) v.toNat) := by
  unfold execRegisterWrite
  rw [if_neg (by simp [hr, hl]), if_neg (by omega), if_pos ha]

theorem execRegisterWrite_portCfg (ha : a < 0x100000) (hi : ¬ (0x4004 ≤ a ∧ a < 0x4800 ∧ a % 4 = 0)) (hp : inRegs a Reg.netPortCfg 0x1000 8 = true) :
    execRegisterWrite who a v s = .next (s.writePortCfg ((a - Reg.netPortCfg) / 0x1000) v.toNat) := by
  unfold execRegisterWrite
  rw [if_neg (by simp [hr, hl]), if_neg (by omega), if_neg hi, if_pos hp]

theorem execRegisterWrite_file (ha : a < 0x100000) (hi : ¬ (0x4004 ≤ a ∧ a < 0x4800 ∧ a % 4 = 0)) (hp : inRegs a Reg.netPortCfg 0x1000 8 = false)
    (hw : a ≠ Reg.wswPoll) : execRegisterWrite who a v s = .next (s.writeFile who a v.toNat) := by
  unfold execRegisterWrite
  rw [if_neg (by simp [hr, hl]), if_neg (by omega), if_neg hi, if_neg (by simp [hp]), if_neg hw]

end

theorem execRegisterWrite_poll {who : Requester} {v : Word} {s : State} (hr : s.responds Reg.wswPoll = true) (hl : s.writeLocked who Reg.wswPoll = false) :
    execRegisterWrite who Reg.wswPoll v s = .next ({ s with host := { s.host with nextPoll := s.dueTick } }.writeFile who Reg.wswPoll v.toNat) := by
  unfold execRegisterWrite
  rw [if_neg (by simp [hr, hl]), if_neg (by decide), if_neg (by decide), if_neg (by decide), if_pos rfl]

section
variable {who : Requester} {a v : Nat} {s : State} {r : RegRow}

theorem State.writeFile_none (h : regRow a = none) : s.writeFile who a v = s := by simp only [State.writeFile, h]

theorem State.writeFile_low (h : regRow a = some r) (hlo : r.lo = true) : s.writeFile who a v = s.holdLow who a (BitVec.ofNat 32 (v &&& r.rw)) := by
  simp only [State.writeFile, h, hlo, if_true]

theorem State.writeFile_high (h : regRow a = some r) (hlo : r.lo = false) (hhi : r.hi = true) (ha : a < Reg.ck ∨ Reg.timeCfg ≤ a) :
    s.writeFile who a v = s.commitPair who (a - 4) (BitVec.ofNat 32 (v &&& r.rw)) := by
  have hck : ¬ (Reg.ck ≤ a ∧ a < Reg.timeCfg) := by omega
  simp only [State.writeFile, h, hlo, hhi, if_true, if_neg hck, Bool.false_eq_true, if_false]

theorem State.writeFile_plain (h : regRow a = some r) (hlo : r.lo = false) (hhi : r.hi = false) :
    s.writeFile who a v = s.setRegN a (plainWrite r (s.regN a) v) := by
  simp only [State.writeFile, h, hlo, hhi, Bool.false_eq_true, if_false]

end

theorem regRow_wswPoll {r : RegRow} (h : regRow Reg.wswPoll = some r) : r.lo = false ∧ r.hi = false := by
  have h0 : regRow Reg.wswPoll = some { base := Reg.wswPoll, rw := 0xFFFF } := by decide
  rw [h0] at h
  cases h
  exact ⟨rfl, rfl⟩

/-- The configuration register of network port `n` is one of the eight. -/
theorem inRegs_netPortCfg {n : Nat} (hn : n < 8) : inRegs (Reg.netPortCfg + 0x1000 * n) Reg.netPortCfg 0x1000 8 = true := by
  simp only [inRegs, Bool.and_eq_true, decide_eq_true_eq]
  omega

theorem execRcRead_unanswered {who : Requester} {a : Nat} {s : State} (h : s.responds a = false) : execRcRead who a s = .next { s with lastRead := 0 } :=
  if_neg (by simp [h])

theorem execRcRead_answered {who : Requester} {a : Nat} {s : State} (h : s.responds a = true) : execRcRead who a s = .next (s.readWord who a) := if_pos h

/-- A register that shows no other state is read from the file. -/
theorem State.readWord_file {who : Requester} {a : Nat} {s : State} (ha : a < 0x100000) (h1 : s.viewPair a = none) (h2 : s.viewPair (a - 4) = none)
    (h3 : s.view a = none) : s.readWord who a = s.readFile who a := by
  unfold State.readWord
  rw [if_neg (by omega), h1, h2, h3]

theorem State.readFile_low {who : Requester} {a : Nat} {s : State} {r : RegRow} (h : regRow a = some r) (hlo : r.lo = true) :
    s.readFile who a = s.readLow who a (s.reg a) (s.reg (a + 4)) := by
  simp only [State.readFile, h, hlo, if_true]

theorem State.readFile_rc {who : Requester} {a : Nat} {s : State} {r : RegRow} (h : regRow a = some r) (hlo : r.lo = false) (hhi : r.hi = false)
    (hck : inRegs a (Reg.ck + 0x2C) 0x100 16 = false) (hrc : r.rc ≠ 0) :
    s.readFile who a = { s.setRegN a (s.regN a &&& (allBits ^^^ r.rc)) with lastRead := s.reg a } := by
  simp only [State.readFile, h, hlo, hhi, hck, Bool.or_self, Bool.false_eq_true, if_false, if_neg hrc]

/-- A write to the register of source `n`, by the sense of its line (R452, R455, R464). -/
theorem State.writeIrqSrc_eq (s : State) (n v : Nat) : s.writeIrqSrc n v =
    let t := s.modSrc n fun i =>
      { i with route := bitsAt v 0 8, level := if 8 ≤ n ∧ n ≤ 11 ∨ 256 ≤ n then i.level else bitAt v 8, filter := bitsAt v 9 4, invert := bitAt v 13, pending := i.pending && !bitAt v 14 }.sample
    if (s.src n).invert = bitAt v 13 then t else if (s.src n).line = true then t.dropLine n else t.raiseLine n := by
  simp only [State.writeIrqSrc, Bool.or_eq_true, decide_eq_true_eq]

/-- Settles O52: the rules of HOST_ENABLE, the windlass, held completions and register accesses, clause by clause. -/
theorem ringsRegistersAndTheWindlass : Obligations.RingsRegistersAndTheWindlass := by
  refine ⟨fun epoch s => ⟨execHostEnable_idle, execHostEnable_ready⟩, fun stores bad s => ⟨fun h => ?_, fun hw hd hm => ?_, fun hw hd hm => ?_⟩,
    fun s => ⟨fun h => ?_, fun hw hd => ?_⟩, fun cq x s hq => ⟨execHeldCompletionWrite_early hq, fun hd => ?_⟩, fun a s => rfl,
    fun who a v s => ⟨execRegisterWrite_dropped, execRegisterWrite_outside, fun hr hl ha => ⟨fun n hn hp => ?_, fun hi hp hw => ?_, fun n hp h1 h2 => ?_, fun r hp hrow => ?_⟩⟩,
    fun who a s => ⟨execRcRead_unanswered, fun hr ha h1 h2 h3 => ⟨fun r hrow hlo hhi hck hrc => ?_, fun r hrow hlo => ?_⟩⟩⟩
  · exact execWindlassPass_early (h.imp_right s.pollDue_eq_false_iff.mpr)
  · have hx : exec (.windlassPass stores bad) s = .next (s.hostStored stores bad).takeTick.swapPass := by
      refine (execWindlassPass_due hw (s.pollDue_iff.mpr hd)).trans ?_
      rw [hm]; rfl
    obtain ⟨hnone, hzero, hsome⟩ := (s.hostStored stores bad).takeTick.swapPass_eq
    exact ⟨fun h => hx.trans (congrArg _ (hnone h)), fun h => hx.trans (congrArg _ (hzero h)), fun v h hv => hx.trans (congrArg _ (hsome v h hv))⟩
  · have hx : exec (.windlassPass stores bad) s = .next (s.hostStored stores bad).takeTick.epochPass := by
      refine (execWindlassPass_due hw (s.pollDue_iff.mpr hd)).trans ?_
      rw [hm]; rfl
    obtain ⟨hnone, hsame, hsome⟩ := (s.hostStored stores bad).takeTick.epochPass_eq
    exact ⟨fun h => hx.trans (congrArg _ (hnone h)), fun h => hx.trans (congrArg _ (hsame h)), fun e h he =>
      ⟨fun hg => hx.trans (congrArg _ ((hsome e h he).1 hg)), fun g hg => hx.trans (congrArg _ ((hsome e h he).2 g hg))⟩⟩
  · have he : s.host.wsw ≠ .waiting ∨ s.pollDue = false := h.imp_right s.pollDue_eq_false_iff.mpr
    exact ⟨execWindlassHalt_early he, execWindlassHalt_early he⟩
  · exact ⟨execWindlassHalt_due hw (s.pollDue_iff.mpr hd), execWindlassHalt_due hw (s.pollDue_iff.mpr hd)⟩
  · have hx := execHeldCompletionWrite_due hq hd
    refine ⟨fun ht => hx.trans ?_, fun ht hxq hfull => hx.trans ?_, fun ht hxq hfull hv hb => hx.trans ?_⟩
    · have ht' : (s.lookAtHcq cq).host.held = [] := ht
      rw [ht']; rfl
    · exact congrArg (fun t : State => Host.Outcome.next (t.refetch cq)) ((State.writeHeld_one ht hxq).1 hfull)
    · exact congrArg (fun t : State => Host.Outcome.next (t.refetch cq)) ((State.writeHeld_one ht hxq).2 hfull hv hb)
  · subst hp
    have hbase : Reg.netPortCfg = 0x30000 := rfl
    refine (execRegisterWrite_portCfg hr hl ha (by omega) (inRegs_netPortCfg hn)).trans ?_
    rw [show (Reg.netPortCfg + 0x1000 * n - Reg.netPortCfg) / 0x1000 = n from by omega]
  · have hx := execRegisterWrite_file (v := v) hr hl ha hi hp hw
    exact ⟨fun h => hx.trans (congrArg _ (State.writeFile_none h)), fun r h hlo => hx.trans (congrArg _ (State.writeFile_low h hlo)),
      fun r h hlo hhi hck => hx.trans (congrArg _ (State.writeFile_high h hlo hhi hck)), fun r h hlo hhi => hx.trans (congrArg _ (State.writeFile_plain h hlo hhi))⟩
  · subst hp
    refine (execRegisterWrite_irqSrc hr hl (by omega)).trans ?_
    rw [show (0x4000 + 4 * n - 0x4000) / 4 = n from by omega]
    exact congrArg _ (s.writeIrqSrc_eq n v.toNat)
  · subst hp
    obtain ⟨hlo, hhi⟩ := regRow_wswPoll hrow
    exact (execRegisterWrite_poll hr hl).trans (congrArg _ (State.writeFile_plain hrow hlo hhi))
  · exact (execRcRead_answered hr).trans (congrArg _ ((State.readWord_file ha h1 h2 h3).trans (State.readFile_rc hrow hlo hhi hck hrc)))
  · exact (execRcRead_answered hr).trans (congrArg _ ((State.readWord_file ha h1 h2 h3).trans (State.readFile_low hrow hlo)))

end Sys2Proof.Machine
end

section
/-!
Commands of the host interface, interrupts, wells, servo, block resets, fuses and the collector, and their effects (O2).
-/
namespace Sys2Proof.Machine

/-! ## What shared operations leave of the time base -/

theorem foldl_eq_of_step {α β : Type} {p : State → β} {f : State → α → State} (hf : ∀ t x, p (f t x) = p t) (l : List α) (s : State) :
    p (l.foldl f s) = p s := by
  induction l generalizing s with
  | nil => rfl
  | cons a l ih => exact (ih _).trans (hf _ _)

theorem foldr_eq_of_step {α β : Type} {p : State → β} {f : α → State → State} (hf : ∀ x t, p (f x t) = p t) (l : List α) (s : State) :
    p (l.foldr f s) = p s := by
  induction l with
  | nil => rfl
  | cons a l ih => exact (hf _ _).trans ih

theorem ite_eq {α β : Type} {p : α → β} {c : Prop} [Decidable c] {a b : α} {v : β} (ha : p a = v) (hb : p b = v) : p (if c then a else b) = v := by
  split <;> assumption

@[simp] theorem State.raise_time (s : State) (source kind address detail : Nat) : (s.raise source kind address detail).time = s.time := rfl

@[simp] theorem State.count_time (s : State) (a w n : Nat) : (s.count a w n).time = s.time := rfl

@[simp] theorem State.dropLine_time (s : State) (n : Nat) : (s.dropLine n).time = s.time := rfl

@[simp] theorem State.dbInvalid_time (s : State) (q : Nat) : (s.dbInvalid q).time = s.time := rfl

@[simp] theorem State.spaceWrite_time (s : State) (sp : Space) (a n v : Nat) : (s.spaceWrite sp a n v).time = s.time := by cases sp <;> rfl

@[simp] theorem State.msixSend_time (s : State) (v : Nat) : (s.msixSend v).time = s.time := by
  simp [State.msixSend, apply_ite State.time]

@[simp] theorem State.signalWith_time (s : State) (q us : Nat) : (s.signalWith q us).time = s.time := by
  unfold State.signalWith
  dsimp only
  split
  · rfl
  · split
    · split <;> simp
    · simp

@[simp] theorem State.putEntry_time (s : State) (q v : Nat) : (s.putEntry q v).time = s.time := by simp [State.putEntry, State.signal]

@[simp] theorem State.putFallback_time (fuel : Nat) (s : State) (c v : Nat) : (State.putFallback fuel s c v).time = s.time := by
  induction fuel generalizing s c v with
  | zero => rfl
  | succ k ih =>
    unfold State.putFallback
    dsimp only
    split
    · rfl
    split
    · rfl
    split
    · simp
    split
    · simp
    · refine (foldl_eq_of_step (p := State.time) (fun t d => ?_) _ _).trans (by simp)
      split
      · exact ih _ _ _
      · rfl

@[simp] theorem State.recordAssertion_time (s : State) (n : Nat) : (s.recordAssertion n).time = s.time := by
  refine foldl_eq_of_step (p := State.time) (fun t c => ?_) _ _
  split
  · exact State.putFallback_time _ _ _ _
  · rfl

@[simp] theorem State.assertIrq_time (s : State) (n : Nat) : (s.assertIrq n).time = s.time := by simp [State.assertIrq]

@[simp] theorem State.raiseLine_time (s : State) (n : Nat) : (s.raiseLine n).time = s.time := by
  simp [State.raiseLine, apply_ite State.time]

@[simp] theorem State.rawLine_time (s : State) (n : Nat) (high : Bool) : (s.rawLine n high).time = s.time := by
  simp [State.rawLine, apply_ite State.time]

@[simp] theorem State.haltWindlass_time (s : State) (cause : Nat) : (s.haltWindlass cause).time = s.time := by simp [State.haltWindlass]

theorem State.takeConsumer_time {s t : State} {q i : Nat} (h : s.takeConsumer q i = some t) : t.time = s.time := by
  unfold State.takeConsumer at h
  dsimp only at h
  split at h
  · cases h; rfl
  · cases h

@[simp] theorem State.refreshFor_time (s : State) (q need : Nat) : (s.refreshFor q need).time = s.time := by
  unfold State.refreshFor
  dsimp only
  split
  · split
    · split
      · next h => exact State.takeConsumer_time h
      · rfl
    · simp
  · rfl

@[simp] theorem State.signalRing_time (s : State) (q us : Nat) : (s.signalRing q us).time = s.time := by
  unfold State.signalRing
  dsimp only
  split
  · rfl
  split
  · simp
  split
  · split <;> simp
  · simp

@[simp] theorem State.putRecord_time (s : State) (q us ty slots body : Nat) : (s.putRecord q us ty slots body).time = s.time := by
  simp [State.putRecord, apply_ite State.time]

@[simp] theorem State.meter_time (s : State) (kind source : Nat) (f : Measure → Measure) : (s.meter kind source f).time = s.time := rfl

@[simp] theorem State.drainFlow_time (s : State) (n t : Nat) : (s.drainFlow n t).time = s.time := by
  simp [State.drainFlow, apply_ite State.time]

@[simp] theorem State.closeInterval_time (s : State) (u : Sub) (part : Bool) (next : Nat) : (s.closeInterval u part next).time = s.time := by
  simp [State.closeInterval, apply_ite State.time]

@[simp] theorem State.endDue_time (n : Nat) (s : State) (want : Sub → Bool) : (State.endDue n s want).time = s.time := by
  induction n generalizing s with
  | zero => rfl
  | succ k ih =>
    unfold State.endDue
    split
    · simp [ih]
    · rfl

@[simp] theorem State.endIntervals_time (s : State) (kind source : Nat) : (s.endIntervals kind source).time = s.time := by
  simp [State.endIntervals, apply_ite State.time]

@[simp] theorem State.freeBuffer_cell_time (s : State) (addr owner : Nat) : (s.freeBuffer .cell addr owner).time = s.time := by
  unfold State.freeBuffer
  split
  · rfl
  · dsimp only [State.modWell]
    split
    · rfl
    · split <;> rfl

@[simp] theorem State.freeCells_time (s : State) (l : List Nat) (o : Nat) : (s.freeCells l o).time = s.time :=
  foldl_eq_of_step (p := State.time) (fun t _ => t.freeBuffer_cell_time _ _) _ _

@[simp] theorem State.takePtpFrame_time (s : State) (n : Nat) : (s.takePtpFrame n).time = s.time := by
  unfold State.takePtpFrame
  split
  · rfl
  · simp

theorem State.meterPtp_clock (s : State) (port : Nat) (d : PtpDecision) : (s.meterPtp port d).time.clock = s.time.clock := by
  simp [State.meterPtp]

/-- What a move of the servo leaves of what the time base is given: the parent, the SLAVE port and the references. -/
structure SameInputs (s t : State) : Prop where
  parent : t.time.parent = s.time.parent
  slavePort : t.time.slavePort = s.time.slavePort
  ppsAt : t.time.ppsAt = s.time.ppsAt
  ref10mOk : t.time.ref10mOk = s.time.ref10mOk

theorem SameInputs.refl (s : State) : SameInputs s s := ⟨rfl, rfl, rfl, rfl⟩

theorem SameInputs.ite {r a b : State} {c : Prop} [Decidable c] (ha : SameInputs r a) (hb : SameInputs r b) : SameInputs r (if c then a else b) := by
  split <;> assumption

theorem State.servoTo_inputs (s : State) (v : Servo) : SameInputs s (s.servoTo v) := by
  unfold State.servoTo
  dsimp only
  split
  · exact .refl s
  · split <;> exact ⟨rfl, rfl, rfl, rfl⟩

theorem State.servoReview_inputs (s : State) : SameInputs s s.servoReview :=
  .ite (.refl s) (.ite (.ite (.refl s) (s.servoTo_inputs _)) (.ite (s.servoTo_inputs _) (.ite (s.servoTo_inputs _) (.ite (s.servoTo_inputs _) (.refl s)))))

theorem State.loseRef_inputs (s : State) (ref10m : Bool) : SameInputs s (s.loseRef ref10m) := by
  have h0 (d : Nat) : SameInputs s (s.raise Src.time Kind.refLost 0 d) := ⟨rfl, rfl, rfl, rfl⟩
  have h1 (d : Nat) := (s.raise Src.time Kind.refLost 0 d).servoTo_inputs .holdover
  exact .ite (.ite ⟨(h1 _).parent, (h1 _).slavePort, (h1 _).ppsAt, (h1 _).ref10mOk⟩ (h0 _)) (.refl s)

theorem State.servoTo_servo (s : State) (v : Servo) : (s.servoTo v).time.servo = v := by
  unfold State.servoTo
  dsimp only
  split
  · assumption
  · rfl

/-! ## Held completions where no HSQ is there to fetch (R288) -/

theorem State.refreshRoom_of_not_full {s : State} {q : Nat} (h : (s.queue q).full = false) : s.refreshRoom q = s := by
  simp [State.refreshRoom, h]

/-- No HSQ is valid among the listed queues. -/
def NoHsq (m : SMap Queue) : Prop := ∀ e ∈ m, e.2.ty = .hsq → e.2.valid = false

theorem SMap_get_eq_or_mem {V : Type} (d : Nat → V) (m : SMap V) (k : Nat) : SMap.get d m k = d k ∨ (k, SMap.get d m k) ∈ m := by
  induction m with
  | nil => exact .inl rfl
  | cons e m ih =>
    obtain ⟨j, w⟩ := e
    by_cases hj : j = k
    · subst hj
      simp [SMap.get]
    · simp only [SMap.get, if_neg hj]
      exact ih.imp_right (List.mem_cons_of_mem _)

theorem SMap_mem_of_mem_set {V : Type} [DecidableEq V] {d : Nat → V} {m : SMap V} {k : Nat} {v : V} {e : Nat × V} (h : e ∈ SMap.set d m k v) :
    e ∈ m ∨ e = (k, v) := by
  induction m with
  | nil =>
    unfold SMap.set at h
    split at h
    · exact .inl h
    · exact .inr (List.mem_singleton.mp h)
  | cons a m ih =>
    obtain ⟨j, w⟩ := a
    unfold SMap.set at h
    split at h
    · split at h
      · exact .inl h
      · exact (List.mem_cons.mp h).symm
    split at h
    · split at h
      · exact .inl (List.mem_cons_of_mem _ h)
      · exact (List.mem_cons.mp h).symm.imp_left (List.mem_cons_of_mem _)
    · rcases List.mem_cons.mp h with h | h
      · exact .inl (h ▸ List.mem_cons_self)
      · exact (ih h).imp_left (List.mem_cons_of_mem _)

theorem queueReset_hsq {q : Nat} (h : (queueReset q).ty = .hsq) : (queueReset q).valid = false := by
  unfold queueReset at h ⊢
  split at h
  · cases h
  · next hc => rw [if_neg hc]

theorem NoHsq.get {m : SMap Queue} (h : NoHsq m) {q : Nat} (hq : (SMap.get queueReset m q).ty = .hsq) : (SMap.get queueReset m q).valid = false := by
  rcases SMap_get_eq_or_mem queueReset m q with he | he
  · rw [he] at hq ⊢
    exact queueReset_hsq hq
  · exact h _ he hq

/-- A change that leaves a queue's type and validity makes no HSQ valid. -/
theorem NoHsq.modQueue {s : State} (h : NoHsq s.queues) (q : Nat) {f : Queue → Queue} (hf : ∀ u, (f u).ty = u.ty ∧ (f u).valid = u.valid) :
    NoHsq (s.modQueue q f).queues := by
  intro e he hty
  rcases SMap_mem_of_mem_set he with hm | rfl
  · exact h e hm hty
  · have hty' : (SMap.get queueReset s.queues q).ty = .hsq := (hf _).1.symm.trans hty
    exact (hf _).2.trans (h.get hty')

theorem State.msixSend_queues (s : State) (v : Nat) : (s.msixSend v).queues = s.queues := by
  simp [State.msixSend, apply_ite State.queues]

theorem NoHsq.signalWith {s : State} (h : NoHsq s.queues) (q us : Nat) : NoHsq (s.signalWith q us).queues := by
  unfold State.signalWith
  dsimp only
  split
  · exact h
  split
  · split
    · exact h.modQueue q fun _ => ⟨rfl, rfl⟩
    · rw [State.msixSend_queues]
      exact h.modQueue q fun _ => ⟨rfl, rfl⟩
  · rw [State.msixSend_queues]
    exact h.modQueue q fun _ => ⟨rfl, rfl⟩

theorem State.spaceWrite_queues (s : State) (sp : Space) (a n v : Nat) : (s.spaceWrite sp a n v).queues = s.queues := by cases sp <;> rfl

theorem NoHsq.putEntry {s : State} (h : NoHsq s.queues) (q v : Nat) : NoHsq (s.putEntry q v).queues := by
  have h0 : NoHsq (s.spaceWrite (s.queue q).space ((s.queue q).slot (s.queue q).tail) (s.queue q).ty.entryBytes v).queues := by
    rwa [State.spaceWrite_queues]
  exact (h0.modQueue q (f := fun u => { u with tail := (u.tail + 1) % 2 ^ 32 }) fun _ => ⟨rfl, rfl⟩).signalWith q _

theorem NoHsq.refetch {s : State} (h : NoHsq s.queues) (cq : Nat) : s.refetch cq = s := by
  have hnil : (s.queues.filter fun e => e.2.valid && decide (e.2.ty = .hsq)) = [] := by
    refine List.filter_eq_nil_iff.mpr fun e he => ?_
    by_cases hty : e.2.ty = .hsq
    · simp [h e he hty]
    · simp [hty]
  unfold State.refetch
  rw [hnil]
  rfl

/-! ## Wells -/

theorem State.pushCell_rebuild (s : State) (i : Nat) : (s.pushCell i).cellWell.rebuild = s.cellWell.rebuild := rfl

theorem State.ringPush_rebuild (s : State) (i : Nat) : (s.ringPush i).pageWell.rebuild = s.pageWell.rebuild := rfl

theorem State.foldl_ringPush_ringCount (l : List Nat) (s : State) : (l.foldl State.ringPush s).pageWell.ringCount = s.pageWell.ringCount + l.length := by
  induction l generalizing s with
  | nil => rfl
  | cons i l ih =>
    refine (ih (s.ringPush i)).trans ?_
    have h1 : (s.ringPush i).pageWell.ringCount = s.pageWell.ringCount + 1 := rfl
    rw [h1, List.length_cons]
    omega

theorem State.drainFreeWait_ringCount (n : Nat) (s : State) : (State.drainFreeWait n s).pageWell.ringCount = s.pageWell.ringCount := by
  induction n generalizing s with
  | zero => rfl
  | succ k ih =>
    cases hw : s.pageWell.freeWait with
    | nil =>
      unfold State.drainFreeWait
      rw [hw]
    | cons i rest =>
      unfold State.drainFreeWait
      rw [hw]
      dsimp only
      split
      · rfl
      · exact ih _

/-! ## Interrupts -/

/-- A source whose pending flag was cleared is pending again where its level holds its line (R455, R459). -/
theorem IrqSrc.sample_cleared (i : IrqSrc) : { i with pending := false }.sample = { i with pending := i.level && i.line && !i.inService } := by
  unfold IrqSrc.sample
  dsimp only
  split
  · next h => rw [h]
  · next h => rw [Bool.not_eq_true _ |>.mp h]

/-! ## The effect of each command -/

theorem State.triedHcq_queue (s : State) (cq q : Nat) : (s.triedHcq cq).queue q = s.queue q := rfl

/-- A held completion is written at its poll tick where the HCQ has room, and with no HSQ nothing is fetched. -/
theorem execHeldCompletionWrite_writes {cq : Nat} {x : HeldCpl} {s : State} (hq : cq < 262144) (hd : SMap.get (fun _ => 0) s.host.heldTry cq ≤ s.lastTick)
    (ht : s.host.held = [x]) (hx : x.cq = cq) (hfull : (s.queue cq).full = false) (hv : (s.queue cq).valid = true) (hb : s.host.busMaster = true)
    (hsq : NoHsq s.queues) : execHeldCompletionWrite cq s =
      .next ({ s with host := { s.host with heldTry := SMap.set (fun _ => 0) s.host.heldTry cq (s.lastTick + 1), held := [] } }.putEntry cq
        (x.bits + 2 ^ 24 * (s.queue cq).phase (s.queue cq).tail)) := by
  have hq' := s.triedHcq_queue cq cq
  have hlook : s.lookAtHcq cq = s.triedHcq cq := State.refreshRoom_of_not_full (hq' ▸ hfull)
  have hwrite := (State.writeHeld_one (t := s.triedHcq cq) ht hx).2 (hq' ▸ hfull) (hq' ▸ hv) hb
  rw [hq'] at hwrite
  rw [execHeldCompletionWrite_due hq hd, hlook, hwrite, NoHsq.refetch]
  · rfl
  · refine NoHsq.putEntry ?_ cq _
    exact hsq

theorem execMsixMessage_due {q : Nat} {s : State} (hq : q < 262144) (hv : (s.queue q).valid = true) (hd : (s.queue q).msiDue = true)
    (ht : (s.queue q).lastMsi.getD 0 + 1000 * (s.queue q).dueUs ≤ s.now) :
    let t := s.modQueue q fun u => { u with msiDue := false, lastMsi := some s.now }
    execMsixMessage q s = .next (if (s.queue q).space = .host then t.msixSend (s.queue q).vector else t.assertIrq (256 + (s.queue q).vector)) := by
  unfold execMsixMessage
  rw [if_pos hq]
  exact if_pos (by simp [hv, hd, ht])

theorem execInterruptAssertion_rises {n : Nat} {s : State} (hn : assertable n = true) (hl : (s.src n).line = false) :
    execInterruptAssertion n s = .next ((s.modSrc n fun i => { i with line := true }).assertIrq n) :=
  (if_pos hn).trans (congrArg _ (if_neg (by simp [hl])))

theorem execIrqEvqHead_returns {c : Nat} {v : Word} {s : State} (hc : c < 4)
    (hi : idxSub v.toNat (s.queue (fbQueue c)).head ≤ (s.queue (fbQueue c)).fill) :
    let t := s.modQueue (fbQueue c) fun u => { u with head := v.toNat }
    execIrqEvqHead c v s = .next (if (t.queue (fbQueue c)).isEmpty then t.rawLine (8 + c) false else t) := by
  have ht : s.takeConsumer (fbQueue c) v.toNat = some (s.modQueue (fbQueue c) fun u => { u with head := v.toNat }) := by
    unfold State.takeConsumer
    rw [Nat.mod_eq_of_lt v.isLt]
    exact if_pos hi
  unfold execIrqEvqHead State.returnRecords
  rw [if_pos hc, ht]

theorem execCellRebuildEnd_ends {s : State} (h : s.cellWell.rebuild = true) :
    ∃ t, execCellRebuildEnd s = .next t ∧ t.cellWell.rebuild = false := by
  refine ⟨_, if_pos h, (foldl_eq_of_step (p := fun t => t.cellWell.rebuild) State.pushCell_rebuild _ _).trans ?_⟩
  refine (foldr_eq_of_step (p := fun t => t.cellWell.rebuild) (fun i t => ?_) _ _).trans rfl
  split
  · rfl
  · exact t.pushCell_rebuild i

theorem execPageRebuildEnd_ends {s : State} (h : s.pageWell.rebuild = true) :
    ∃ t, execPageRebuildEnd s = .next t ∧ t.pageWell.rebuild = false := by
  refine ⟨_, if_pos h, (foldl_eq_of_step (p := fun t => t.pageWell.rebuild) (fun t i => ?_) _ _).trans rfl⟩
  split
  · rfl
  · exact t.ringPush_rebuild i

theorem execPageCacheSpill_moves {s : State} (hr : s.pageWell.rebuild = false) (hc : 768 < s.pageWell.cache.length) :
    ∃ t, execPageCacheSpill s = .next t ∧ t.pageWell.ringCount = s.pageWell.ringCount + 256 := by
  refine ⟨_, if_pos ⟨hc, hr⟩, (State.drainFreeWait_ringCount _ _).trans ((State.foldl_ringPush_ringCount _ _).trans ?_)⟩
  have hlen : (s.pageWell.cache.drop (s.pageWell.cache.length - 256)).length = 256 := by
    rw [List.length_drop]
    omega
  exact congrArg (s.pageWell.ringCount + ·) hlen

/-- A message of an enabled port gives the parent and the SLAVE port, which a master-only clock does not take (R400). -/
theorem execPtpMessageReceive_gives {port : Nat} {d : PtpDecision} {s : State} (hp : port < 8) (he : ((s.takePtpFrame port).ptpPort port).enable = true) :
    ∃ t, execPtpMessageReceive port d s = .next t ∧ t.time.parent = d.parent ∧ t.time.slavePort = if s.time.clock.role = 2 then none else d.slave := by
  unfold execPtpMessageReceive
  rw [if_pos hp, if_neg (by simp [he])]
  have hclock : ((s.takePtpFrame port).meterPtp port d).time.clock = s.time.clock := by rw [State.meterPtp_clock, State.takePtpFrame_time]
  refine ⟨_, rfl, (State.servoReview_inputs _).parent.trans ?_, (State.servoReview_inputs _).slavePort.trans ?_⟩
  · cases d.tlv with
    | none => rfl
    | some v => exact ite_eq (p := fun t : State => t.time.parent) rfl rfl
  · rw [hclock]
    cases d.tlv with
    | none => rfl
    | some v => exact ite_eq (p := fun t : State => t.time.slavePort) rfl rfl

theorem execServoSample_acquiring {offset rate : Int} {s : State} (hf : s.time.follower = false) (ha : s.servoReview.time.servo = .acquiring) :
    execServoSample offset ⟨rate, none⟩ s =
      .next ((s.servoReview.judgeOffset (s.servoReview.servoOffset offset)).steer (s.servoReview.servoOffset offset) rate) :=
  (if_neg (by simp [hf])).trans (if_pos (.inl ha))

theorem execPpsInEdge_active {falling : Bool} {ts : Nat} {s : State} (h : falling = true ↔ s.field Reg.timePpsCfg 0 1 = 1) :
    ∃ t, execPpsInEdge falling ts s = .next t ∧ t.time.ppsAt = some s.now := by
  have hc : decide (s.field Reg.timePpsCfg 0 1 = 1) = falling := by
    cases falling with
    | true => exact decide_eq_true (h.mp rfl)
    | false => exact decide_eq_false fun h1 => Bool.false_ne_true (h.mpr h1)
  exact ⟨_, if_pos hc, (State.servoReview_inputs _).ppsAt.trans (by rw [State.assertIrq_time])⟩

theorem execRstBlock_asks {c : Nat} {b : BitVec 10} {s : State} (hr : resettable b.toNat = true) (hb : s.rst.blk.busy = false) (hs : s.rst.state = .running) :
    ∃ t, execRstBlock (.core c) b s = .next t ∧ t.rst.blk.busy = true ∧ t.rst.blk.block = b.toNat := by
  unfold execRstBlock
  dsimp only
  rw [if_neg (by simp [hr, hb, hs])]
  split
  · exact ⟨_, rfl, rfl, rfl⟩
  · exact ⟨_, rfl, rfl, rfl⟩

theorem execBlockRelease_due {k : Nat} {s : State} (hb : s.rst.blk.busy = true) (hk : s.rst.blk.heldAt = some k) (ht : k + 16 ≤ s.time.tick) :
    ∃ t, execBlockRelease s = .next t ∧ (t.rst.blk.busy = false ∨ t.rst.blk.pendingClk = true) := by
  unfold execBlockRelease
  rw [hk]
  dsimp only
  rw [if_pos ⟨hb, ht⟩]
  split
  · exact ⟨_, rfl, .inl rfl⟩
  · exact ⟨_, rfl, .inr rfl⟩

theorem execFusePulseEnd_writes {k : Nat} {rest : List Nat} {s : State} (hp : s.fuse.inPulse = true) (hk : s.fuse.toPulse = k :: rest) :
    ∃ t, execFusePulseEnd s = .next t ∧ t.fuse.rows = SMap.set (fun _ => 0) s.fuse.rows (128 * k + s.fuse.progWord) s.fuse.progCopy ∧ t.fuse.toPulse = rest := by
  unfold execFusePulseEnd
  rw [hp, hk]
  exact ⟨_, rfl, rfl, rfl⟩

theorem execFaultMessage_takes {m : FaultMsg} {s : State} (hm : nextMessage s.flt.inFlight = some m) (hs : s.collectorSleeps = false) :
    execFaultMessage none s = .next ({ s with flt := { s.flt with inFlight := s.flt.inFlight.erase m } }.accept m) := by
  simp only [execFaultMessage, hs, Bool.false_eq_true, if_false, hm]

/-- Settles O2: every command lands where it is well-formed, and each named command has its effect. -/
theorem completesExactlyWhenWellFormed : Obligations.CompletesExactlyWhenWellFormed := by
  refine ⟨fun c s => ⟨fun hw => ((exec_lands c s).1 hw).imp fun _ ht => ht.1, (exec_lands c s).2⟩, ?_, ?_, ?_, ?_, ?_, ?_, ?_, ?_, ?_, ?_, ?_, ?_, ?_, ?_, ?_, ?_,
    ?_, ?_, ?_, ?_, ?_, ?_, ?_, ?_, ?_, ?_, ?_, ?_, ?_, ?_, ?_, ?_, ?_, ?_, ?_⟩
  · exact fun epoch s he hr hc => ⟨_, (execHostEnable_ready he hr).2 hc, rfl, rfl, rfl, rfl⟩
  · refine fun stores bad s hw hd => ⟨fun hm => ?_, fun hm => ?_⟩ <;>
    · refine (execWindlassPass_due hw hd).trans ?_
      rw [hm]
      rfl
  · exact fun s hw hd => ⟨execWindlassHalt_due hw hd, execWindlassHalt_due hw hd⟩
  · exact fun cq x s hq hd ht hx hfull hv hb hsq _ => execHeldCompletionWrite_writes hq hd ht hx hfull hv hb hsq
  · exact fun a s => ⟨_, rfl, rfl, rfl⟩
  · intro who a v r s hr hl ha hw hrow hlo hhi
    have hp : inRegs a Reg.netPortCfg 0x1000 8 = false := by simp [inRegs, show ¬ Reg.netPortCfg ≤ a from by have : Reg.netPortCfg = 0x30000 := rfl; omega]
    exact (execRegisterWrite_file hr hl (by omega) (by omega) hp hw).trans (congrArg _ (State.writeFile_plain hrow hlo hhi))
  · exact fun who a s hr => execRcRead_answered hr
  · exact fun q s hq hv hd ht => execMsixMessage_due hq hv hd ht
  · exact fun v s hv => if_pos hv
  · exact fun n s hn => ⟨execInterruptAssertion_rises hn, if_pos hn⟩
  · exact fun c v s hc => ⟨if_pos hc, fun hi => execIrqEvqHead_returns hc (Nat.le_of_lt hi)⟩
  · exact fun n s h1 h2 => (if_pos ⟨h1, h2⟩).trans (congrArg (fun f => Host.Outcome.next (s.modSrc n f)) (funext IrqSrc.sample_cleared))
  · exact fun m s => rfl
  · exact fun w a o s ho => if_pos ho
  · exact fun s => execCellRebuildEnd_ends
  · exact fun s => execPageRebuildEnd_ends
  · exact fun s hr => ⟨fun hc => if_pos ⟨hc, hr⟩, execPageCacheSpill_moves hr⟩
  · exact fun o v s ho hq => (if_pos ho).trans (if_pos hq)
  · exact fun u s ho hs => ⟨_, if_pos ⟨ho, hs⟩, rfl, rfl⟩
  · exact fun port d s hp he => execPtpMessageReceive_gives hp he
  · exact fun s => ⟨_, rfl, (State.servoReview_inputs _).slavePort⟩
  · exact fun offset rate s hf ha => execServoSample_acquiring hf ha
  · exact fun s hh h0 ht => ⟨_, if_pos ⟨hh, h0, ht⟩, State.servoTo_servo _ _⟩
  · exact fun falling ts s h => execPpsInEdge_active h
  · exact fun s => ⟨⟨_, rfl, (State.loseRef_inputs _ _).ppsAt⟩, ⟨_, rfl, (State.loseRef_inputs _ _).ref10mOk⟩⟩
  · exact fun s ht => if_pos ht
  · exact fun c _ _ hr hb hs => execRstBlock_asks (c := c) hr hb hs
  · exact fun s hb hh => ⟨⟨_, if_pos ⟨hb, hh⟩, rfl⟩, fun ht => ⟨_, if_pos ⟨hb, hh, decide_eq_true ht⟩, rfl, rfl⟩⟩
  · exact fun k s hb hk ht => execBlockRelease_due hb hk ht
  · exact fun w key s hr => ⟨_, if_neg (by simp [hr]), rfl, rfl⟩
  · exact fun k rest s hp hk => execFusePulseEnd_writes hp hk
  · exact fun n temp valid s hn => if_pos hn
  · exact fun m s hm hs => execFaultMessage_takes hm hs
  · exact fun kind cls s hk => if_pos ⟨rfl, hk⟩
  · exact fun s => ⟨_, rfl, rfl, rfl⟩

end Sys2Proof.Machine
end

section
/-!
Wakes, the slew governor's grants and the clocks that become good (O44).
-/
namespace Sys2Proof.Machine

/-! ## What a request to the governor leaves (R516) -/

/-- A request to the governor touches its queue alone. -/
theorem State.askPower_eq (s : State) (b : PwrBlock) (wake : Bool) (needed : Nat) :
    ∃ q, s.askPower b wake needed = { s with pwr := { s.pwr with queue := q } } := by
  unfold State.askPower
  split
  · exact ⟨s.pwr.queue, rfl⟩
  · exact ⟨_, rfl⟩

@[simp] theorem State.askPower_tambClk (s : State) (b : PwrBlock) (wake : Bool) (needed : Nat) :
    (s.askPower b wake needed).pwr.tambClk = s.pwr.tambClk := by
  obtain ⟨q, hq⟩ := s.askPower_eq b wake needed
  rw [hq]

@[simp] theorem State.askPower_clocked (s : State) (b : PwrBlock) (wake : Bool) (needed t : Nat) :
    (s.askPower b wake needed).clocked t = s.clocked t := by
  obtain ⟨q, hq⟩ := s.askPower_eq b wake needed
  rw [hq]
  rfl

@[simp] theorem State.keepAwake_tambClk (s : State) (b : PwrBlock) : (s.keepAwake b).pwr.tambClk = s.pwr.tambClk := rfl

@[simp] theorem State.keepAwake_clocked (s : State) (b : PwrBlock) (t : Nat) : (s.keepAwake b).clocked t = s.clocked t := rfl

/-! ## WAKE_START (R27, R56) -/

/-- A block is needed at `need`: a wake is asked for where it is off, and where it is on a sleep that waits is withdrawn. -/
def State.keepOrWake (s : State) (on : Bool) (b : PwrBlock) (need : Nat) : State :=
  if on then s.keepAwake b else s.askPower b true need

@[simp] theorem State.keepOrWake_tambClk (s : State) (on : Bool) (b : PwrBlock) (need : Nat) :
    (s.keepOrWake on b need).pwr.tambClk = s.pwr.tambClk :=
  ite_eq (p := fun u : State => u.pwr.tambClk) (s.keepAwake_tambClk b) (s.askPower_tambClk b true need)

@[simp] theorem State.keepOrWake_clocked (s : State) (on : Bool) (b : PwrBlock) (need t : Nat) :
    (s.keepOrWake on b need).clocked t = s.clocked t :=
  ite_eq (p := fun u : State => u.clocked t) (s.keepAwake_clocked b t) (s.askPower_clocked b true need t)

/-- The earliest time at which a tambour's clock is needed, with one more need at `need`. -/
def Tamb.needBy (x : Tamb) (need : Nat) : Tamb :=
  { x with wakeAt := some (match x.wakeAt with | some w => min w need | none => need) }

/-- Every test that a need of tambour `t` makes reads the state from before its requests. -/
theorem State.needTambour_eq (s : State) (t need : Nat) :
    s.needTambour t need =
      let u := (s.keepOrWake (bitAt s.pwr.hoopPll.toNat (t / 2)) (.hoop (t / 2)) need).keepOrWake (bitAt s.pwr.tambClk.toNat t) (.tambour t) need
      if s.clocked t then u.modTamb t fun x => { x with wakeAt := none } else u.modTamb t fun x => x.needBy need := by
  change (let v := s.keepOrWake (bitAt s.pwr.hoopPll.toNat (t / 2)) (.hoop (t / 2)) need
    let u := v.keepOrWake (bitAt v.pwr.tambClk.toNat t) (.tambour t) need
    if u.clocked t then u.modTamb t fun x => { x with wakeAt := none } else u.modTamb t fun x => x.needBy need) = _
  simp only [State.keepOrWake_tambClk, State.keepOrWake_clocked]

/-- The wake of tambour `t` of a waking hoop, where TAMB_EN enables it (R1, R5). -/
def State.wakeTambour (s : State) (t need : Nat) : State := if s.tambEnabled t then s.needTambour t need else s

theorem State.wakeTambour_eq {s : State} {t h need : Nat} (ht : t / 2 = h) :
    s.wakeTambour t need =
      if s.tambEnabled t = false then s
      else
        let u := (s.keepOrWake (bitAt s.pwr.hoopPll.toNat h) (.hoop h) need).keepOrWake (bitAt s.pwr.tambClk.toNat t) (.tambour t) need
        if s.clocked t then u.modTamb t fun x => { x with wakeAt := none } else u.modTamb t fun x => x.needBy need := by
  subst ht
  unfold State.wakeTambour
  cases s.tambEnabled t
  · rfl
  · exact s.needTambour_eq t need

/-- The latency of a hoop's wake in ns: that of its tambours' gates, and with its PLL off that of the PLL (R27). -/
def State.wakeLatency (s : State) (h : Nat) : Nat := if bitAt s.pwr.hoopPll.toNat h then 500 else 20000

theorem State.wakeHoop_none {s : State} {h : Nat} (ho : s.hoopOpening h = none) : s.wakeHoop h = s := by
  unfold State.wakeHoop
  rw [ho]

theorem State.wakeHoop_some {s : State} {h v : Nat} (ho : s.hoopOpening h = some v) :
    s.wakeHoop h = if s.nowT + s.wakeLatency h * tauNs < v then s else (s.wakeTambour (2 * h) (v / tauNs)).wakeTambour (2 * h + 1) (v / tauNs) := by
  unfold State.wakeHoop State.wakeLatency
  rw [ho]
  cases bitAt s.pwr.hoopPll.toNat h <;> rfl

/-! ## SLEW_GRANT (R516, R532) -/

theorem State.grantSlew_idle {s : State} (h : 1000 * s.now < s.pwr.nextFree ∨ s.pwr.queue = []) : s.grantSlew = s := by
  unfold State.grantSlew
  split
  · rfl
  · next hn =>
    rw [h.resolve_left hn]
    rfl

/-- The grant of request `r`: the block switches, the next grant's time is set, and the longest wait and a late wake are recorded. -/
def State.granted (s : State) (r : SlewReq) : State :=
  let p := { s.pwr.switch r.block r.wake with queue := s.pwr.queue.erase r, nextFree := 1000 * s.now + r.block.step.1 * 1000 / s.slewLimit }
  let u := { s with pwr := p }
  let u := u.setRegN Reg.pwrGrantMax (max (u.regN Reg.pwrGrantMax) (min (s.now - r.asked) (2 ^ 32 - 1)))
  if r.wake = true ∧ r.needed < s.now + r.block.step.2 then u.count Reg.pwrWakeLate 32 1 else u

@[simp] theorem State.granted_time (s : State) (r : SlewReq) : (s.granted r).time = s.time := ite_eq (p := State.time) rfl rfl

@[simp] theorem State.releasePending_time (s : State) : s.releasePending.time = s.time := ite_eq (p := State.time) rfl rfl

theorem State.now_eq_of_time {s t : State} (h : t.time = s.time) : t.now = s.now := by
  unfold State.now
  rw [h]

section
variable {s : State} {r : SlewReq} (hfree : s.pwr.nextFree ≤ 1000 * s.now) (hr : firstReq s.pwr.queue = some r)
include hfree hr

/-- What follows a grant: a wake may end a block's pending release, and the wake of a tambour starts its latency. -/
theorem State.grantSlew_takes :
    s.grantSlew =
      let u := if r.wake then (s.granted r).releasePending else s.granted r
      match r.block, r.wake with
      | .tambour n, true => (u.modTamb n fun x => { x with clkFrom := u.now + r.block.step.2 }).clockArrives n
      | _, _ => u := by
  unfold State.grantSlew State.granted
  rw [if_neg (by omega), hr]
  simp only [Bool.and_eq_true, decide_eq_true_eq]
  rfl

theorem State.grantSlew_sleep (hw : r.wake = false) : s.grantSlew = s.granted r := by
  rw [State.grantSlew_takes hfree hr, hw]
  cases r.block <;> rfl

theorem State.grantSlew_wake_other (hw : r.wake = true) (hb : ∀ n, r.block ≠ .tambour n) : s.grantSlew = (s.granted r).releasePending := by
  rw [State.grantSlew_takes hfree hr, hw]
  cases hblock : r.block with
  | tambour n => exact absurd hblock (hb n)
  | _ => rfl

theorem State.grantSlew_wake_tambour {n : Nat} (hw : r.wake = true) (hb : r.block = .tambour n) :
    s.grantSlew = ((s.granted r).releasePending.modTamb n fun x => { x with clkFrom := s.now + r.block.step.2 }).clockArrives n := by
  have hnow : (s.granted r).releasePending.now = s.now := State.now_eq_of_time (by simp)
  rw [State.grantSlew_takes hfree hr, hw, hb, ← hnow]
  rfl

end

/-! ## HOOP_CLOCK_GOOD and the clock that arrives (R27, R515) -/

theorem State.hoopGood_off {s : State} {h : Nat} (hp : bitAt s.pwr.hoopPll.toNat h = false) : s.hoopGood h = s := if_pos hp

theorem State.hoopGood_on {s : State} {h : Nat} (hp : bitAt s.pwr.hoopPll.toNat h = true) :
    s.hoopGood h = (({ s with pwr := { s.pwr with clkGood := s.pwr.clkGood ||| BitVec.ofNat 12 (2 ^ (1 + h)) } } : State).clockArrives (2 * h)).clockArrives
      (2 * h + 1) := if_neg (by simp [hp])

@[simp] theorem State.wakeLateFor_time (s : State) (t : Nat) (i : BandId) : (s.wakeLateFor t i).time = s.time := ite_eq (p := State.time) rfl rfl

theorem State.foldl_wakeLateFor_now (l : List BandId) (s : State) (t : Nat) : (l.foldl (fun s i => s.wakeLateFor t i) s).now = s.now :=
  State.now_eq_of_time (foldl_eq_of_step (p := State.time) (fun u i => u.wakeLateFor_time t i) l s)

theorem State.clockArrives_unsure {s : State} {t : Nat} (h : bitAt s.pwr.tambClk.toNat t = false ∨ bitAt s.pwr.clkGood.toNat (1 + t / 2) = false) :
    s.clockArrives t = s := by
  have hsure : s.clockSure t = false := Bool.and_eq_false_iff.mpr h
  simp [State.clockArrives, hsure]

/-- The wake of tambour `t` is over once its latency has passed. -/
def State.wakeOver (s : State) (t : Nat) : State := s.modTamb t fun x => { x with wakeAt := if x.clkFrom ≤ s.now then none else x.wakeAt }

section
variable {s : State} {t w : Nat} (hgate : bitAt s.pwr.tambClk.toNat t = true) (hgood : bitAt s.pwr.clkGood.toNat (1 + t / 2) = true)
  (hw : (s.tamb t).wakeAt = some w)
include hgate hgood hw

theorem State.tellWakeLate_sure :
    s.tellWakeLate t = if w < max s.now (s.tamb t).clkFrom then (s.readyBands t ++ (s.tamb t).namedBands).foldl (fun s i => s.wakeLateFor t i) s else s := by
  have hsure : s.clockSure t = true := Bool.and_eq_true_iff.mpr ⟨hgate, hgood⟩
  simp only [State.tellWakeLate, hw, hsure, Bool.true_and, decide_eq_true_eq]

theorem State.clockArrives_sure : s.clockArrives t = (s.tellWakeLate t).wakeOver t := by
  have hsure : s.clockSure t = true := Bool.and_eq_true_iff.mpr ⟨hgate, hgood⟩
  have hnow : (s.tellWakeLate t).now = s.now := by
    rw [State.tellWakeLate_sure hgate hgood hw]
    exact ite_eq (p := State.now) (State.foldl_wakeLateFor_now _ s t) rfl
  unfold State.wakeOver
  rw [hnow]
  exact if_pos hsure

theorem State.clockArrives_in_time (h : max s.now (s.tamb t).clkFrom ≤ w) : s.clockArrives t = s.wakeOver t := by
  rw [State.clockArrives_sure hgate hgood hw, State.tellWakeLate_sure hgate hgood hw, if_neg (Nat.not_lt.mpr h)]

theorem State.clockArrives_late (h : w < max s.now (s.tamb t).clkFrom) :
    s.clockArrives t = ((s.readyBands t ++ (s.tamb t).namedBands).foldl (fun s i => s.wakeLateFor t i) s).wakeOver t := by
  rw [State.clockArrives_sure hgate hgood hw, State.tellWakeLate_sure hgate hgood hw, if_pos h]

end

/-! ## The power steps -/

theorem execWakeStart_hoop {h : Nat} (hh : h < 4) (s : State) : execWakeStart h s = .next (s.wakeHoop h) := if_pos hh

theorem execHoopClockGood_hoop {h : Nat} (hh : h < 4) (s : State) : execHoopClockGood h s = .next (s.hoopGood h) := if_pos hh

theorem execSlewGrant_next {s t : State} (h : s.grantSlew = t) : execSlewGrant s = .next t := congrArg _ h

/-- Settles O44: wakes are asked for one latency ahead, granted in turn, and told to the bands that they keep waiting. -/
theorem powerStepsAreGranted : Obligations.PowerStepsAreGranted := by
  refine ⟨fun h s hh ho => ?_, fun h v s hh ho => ⟨fun hearly => ?_, fun hdue => ?_⟩, fun s hidle => execSlewGrant_next (State.grantSlew_idle hidle),
    fun r s hfree hr => ⟨fun hw => ?_, fun hw hb => ?_, fun n hw hb => ?_⟩, fun h s hh => ⟨fun hp => ?_, fun hp => ?_⟩,
    fun t s _ => ⟨State.clockArrives_unsure, fun w hgate hgood hw => ⟨State.clockArrives_in_time hgate hgood hw, State.clockArrives_late hgate hgood hw⟩⟩⟩
  · exact (execWakeStart_hoop hh s).trans (congrArg _ (State.wakeHoop_none ho))
  · exact (execWakeStart_hoop hh s).trans (congrArg _ ((State.wakeHoop_some ho).trans (if_pos hearly)))
  · have heven : 2 * h / 2 = h := by omega
    have hodd : (2 * h + 1) / 2 = h := by omega
    refine (execWakeStart_hoop hh s).trans (congrArg _ ?_)
    rw [State.wakeHoop_some ho, State.wakeTambour_eq hodd, State.wakeTambour_eq heven]
    exact if_neg (Nat.not_lt.mpr hdue)
  · exact execSlewGrant_next (State.grantSlew_sleep hfree hr hw)
  · exact execSlewGrant_next (State.grantSlew_wake_other hfree hr hw hb)
  · exact execSlewGrant_next (State.grantSlew_wake_tambour hfree hr hw hb)
  · exact (execHoopClockGood_hoop hh s).trans (congrArg _ (State.hoopGood_off hp))
  · exact (execHoopClockGood_hoop hh s).trans (congrArg _ (State.hoopGood_on hp))

end Sys2Proof.Machine
end

section
/-!
The input of a band at its window and its deadline, and its complexity (O39).
-/
namespace Sys2Proof.Machine

/-! ## BAND_WINDOW_OPEN (R36) -/

theorem execBandWindowOpen_channel {c p b : Nat} (hc : c < 128) (s : State) : execBandWindowOpen c p b s = .next (s.windowOpens ⟨c, p, b⟩) := if_pos hc

theorem State.windowOpens_incomplete {s : State} {i : BandId} (h : (s.band i).complete = none) : s.windowOpens i = s := by
  unfold State.windowOpens
  rw [h]

theorem State.windowOpens_complete {s : State} {i : BandId} {done : Nat} (h : (s.band i).complete = some done) (hr : s.bandRuns i = true)
    (ha : (s.band i).state = .arriving) :
    s.windowOpens i = if (s.channel i.ch).windowOpen i.pic i.b ≤ s.nowT then s.readyNow i done else s := by
  unfold State.windowOpens
  simp only [h, hr, ha, decide_true, Bool.true_and, decide_eq_true_eq]

/-! ## BAND_INPUT_DEADLINE (R36, R153, R166, R206) -/

theorem execBandInputDeadline_channel {c p b : Nat} (hc : c < 128) (s : State) : execBandInputDeadline c p b s = .next (s.inputDue ⟨c, p, b⟩) := if_pos hc

/-- Band `i` is the first of a decode unit of which no slice header has come. -/
def State.unseen (s : State) (i : BandId) : Bool :=
  let x := s.channel i.ch
  x.decode && decide (i.b = 0) && decide ((x.pic i.pic).ptype = 0) && x.pics.any fun e => decide (e.1 = i.pic)

/-- An ARRIVING band at its deadline becomes READY with what has come, unless it is paired and asks the peer first. -/
def State.takeInput (s : State) (i : BandId) : State :=
  if (s.channel i.ch).decode = false ∧ s.pairedBand i = true ∧ (s.band i).complete = none then s.openReconcile i
  else s.readyNow i ((s.band i).complete.getD ((s.channel i.ch).inputDeadline i.pic i.b))

section
variable {s : State} {i : BandId}

/-- The event by its two questions: has the deadline come, and has a slice header of the unit. -/
theorem State.inputDue_eq (s : State) (i : BandId) :
    s.inputDue i =
      if (s.channel i.ch).inputDeadline i.pic i.b ≤ s.nowT then
        if s.unseen i then s.loseWhole i.ch i.pic
        else if s.bandRuns i then
          let t := if (s.band i).state ≠ .arriving ∨ (s.band i).reconOpen = true then s else s.takeInput i
          if (s.channel i.ch).decode then t else t.answerWaiting i
        else s
      else s := by
  unfold State.inputDue
  dsimp only
  by_cases hdue : (s.channel i.ch).inputDeadline i.pic i.b ≤ s.nowT
  · rw [if_pos hdue, decide_eq_true hdue, Bool.and_true, decide_eq_false (Nat.not_lt.mpr hdue), Bool.false_or]
    cases s.bandRuns i <;> rfl
  · simp [hdue, Nat.not_le.mp hdue]

theorem State.inputDue_early (h : s.nowT < (s.channel i.ch).inputDeadline i.pic i.b) : s.inputDue i = s :=
  s.inputDue_eq i |>.trans (if_neg (Nat.not_le.mpr h))

theorem State.inputDue_not_running (hu : s.unseen i = false) (hr : s.bandRuns i = false) : s.inputDue i = s := by
  rw [State.inputDue_eq, hu, hr]
  exact ite_self s

section
variable (hdue : (s.channel i.ch).inputDeadline i.pic i.b ≤ s.nowT)
include hdue

theorem State.inputDue_unseen (hu : s.unseen i = true) : s.inputDue i = s.loseWhole i.ch i.pic := by
  rw [State.inputDue_eq, if_pos hdue, if_pos hu]

theorem State.inputDue_arriving (hu : s.unseen i = false) (hr : s.bandRuns i = true) (ha : (s.band i).state = .arriving)
    (ho : (s.band i).reconOpen = false) :
    s.inputDue i = if (s.channel i.ch).decode then s.takeInput i else (s.takeInput i).answerWaiting i := by
  have hopen : ¬ ((s.band i).state ≠ .arriving ∨ (s.band i).reconOpen = true) := by simp [ha, ho]
  rw [State.inputDue_eq, if_pos hdue, hu, hr]
  simp only [if_neg hopen, Bool.false_eq_true, if_false, if_true]

end

theorem State.takeInput_asks (hd : (s.channel i.ch).decode = false) (hp : s.pairedBand i = true) (hn : (s.band i).complete = none) :
    s.takeInput i = s.openReconcile i := if_pos ⟨hd, hp, hn⟩

theorem State.takeInput_ready (h : (s.channel i.ch).decode = true ∨ s.pairedBand i = false ∨ (s.band i).complete ≠ none) :
    s.takeInput i = s.readyNow i ((s.band i).complete.getD ((s.channel i.ch).inputDeadline i.pic i.b)) := by
  refine if_neg fun ⟨hd, hp, hn⟩ => ?_
  rcases h with h | h | h
  · simp [hd] at h
  · simp [hp] at h
  · exact h hn

/-! ## INPUT_COMPLEXITY (R68) -/

theorem State.measureBand_first (hd : (s.channel i.ch).decode = false) (hb : i.b < (s.channel i.ch).cfg.bandCount) (hn : (s.band i).cplx = none) :
    s.measureBand i =
      (s.modBand i fun u => { u with cplx := some (((s.channel i.ch).pic i.pic).complexity (s.channel i.ch).cfg i.b) }).rcvReady i :=
  if_pos (by simp [hd, hb, hn])

theorem State.measureBand_again {v : Nat} (hv : (s.band i).cplx = some v) : s.measureBand i = s := if_neg (by simp [hv])

theorem State.measureInput_live (h : (s.band i).state = .ready ∨ (s.band i).state = .named ∨ (s.band i).state = .coding) :
    s.measureInput i = s.measureBand i := by
  unfold State.measureInput
  rcases h with h | h | h <;> rw [h] <;> exact if_pos rfl

end

theorem execInputComplexity_channel {c p b : Nat} (hc : c < 128) (s : State) : execInputComplexity c p b s = .next (s.measureInput ⟨c, p, b⟩) := if_pos hc

/-- Settles O39: each event is its state operation, whose conditions the clauses go through. -/
theorem bandsBecomeReady : Obligations.BandsBecomeReady := by
  intro c p b s hc
  have hopen := execBandWindowOpen_channel (p := p) (b := b) hc s
  have hdeadline := execBandInputDeadline_channel (p := p) (b := b) hc s
  have hcplx := execInputComplexity_channel (p := p) (b := b) hc s
  refine ⟨fun hn => ?_, fun done hd hr ha => ⟨fun hw => ?_, fun hw => ?_⟩, fun hu hdue => ?_, fun h => ?_,
    fun hdue hu hr ha ho => ?_, fun hd hlive hb => ⟨fun hn => ?_, fun v hv => ?_⟩⟩
  · exact hopen.trans (congrArg _ (State.windowOpens_incomplete hn))
  · exact hopen.trans (congrArg _ ((State.windowOpens_complete hd hr ha).trans (if_pos hw)))
  · exact hopen.trans (congrArg _ ((State.windowOpens_complete hd hr ha).trans (if_neg (Nat.not_le.mpr hw))))
  · exact hdeadline.trans (congrArg _ (State.inputDue_unseen hdue hu))
  · rcases h with hearly | ⟨hu, hr⟩
    · exact hdeadline.trans (congrArg _ (State.inputDue_early hearly))
    · exact hdeadline.trans (congrArg _ (State.inputDue_not_running hu hr))
  · have harr := State.inputDue_arriving (i := ⟨c, p, b⟩) hdue hu hr ha ho
    refine ⟨fun hd => ?_, fun hd hfull => ?_, fun hd hp hn => ?_⟩
    · exact hdeadline.trans (congrArg _ (harr.trans ((if_pos hd).trans (State.takeInput_ready (.inl hd)))))
    · rw [if_neg (by simp [hd]), State.takeInput_ready (.inr hfull)] at harr
      exact hdeadline.trans (congrArg _ harr)
    · rw [if_neg (by simp [hd]), State.takeInput_asks hd hp hn] at harr
      exact hdeadline.trans (congrArg _ harr)
  · exact hcplx.trans (congrArg _ ((State.measureInput_live hlive).trans (State.measureBand_first hd hb hn)))
  · exact hcplx.trans (congrArg _ ((State.measureInput_live hlive).trans (State.measureBand_again hv)))

end Sys2Proof.Machine
end

section
/-!
The banks, the hoop window and the switch of a tambour (O40).
-/
namespace Sys2Proof.Machine

/-! ## The state of a tambour -/

theorem State.modTamb_congr {s : State} {t : Nat} {f g : Tamb → Tamb} (h : f (s.tamb t) = g (s.tamb t)) : s.modTamb t f = s.modTamb t g := by
  unfold State.modTamb SMap.modify
  rw [show f (SMap.get (fun _ => {}) s.codec.tambs t) = g (SMap.get (fun _ => {}) s.codec.tambs t) from h]

@[simp] theorem State.contextEnd_tamb (s : State) (t status u : Nat) : (s.contextEnd t status).tamb u = s.tamb u :=
  ite_eq (p := fun v : State => v.tamb u) rfl rfl

@[simp] theorem Tamb.setBank_freeAt (x : Tamb) (k : Nat) (b : Bank) : (x.setBank k b).freeAt = x.freeAt := ite_eq (p := Tamb.freeAt) rfl rfl

/-! ## CONTEXT_PRELOAD_DONE (R46, R47, R69, R96) -/

theorem execContextPreloadDone_bank {t : Nat} (ht : t < 8) (s : State) : execContextPreloadDone ⟨t, false⟩ s = .next (s.preloadDone t) := if_pos ht

theorem execContextPreloadDone_window {t : Nat} (ht : t < 8) (s : State) : execContextPreloadDone ⟨t, true⟩ s = .next (s.prefetchDone t) := if_pos ht

/-- An idle tambour's switch waits for the preload of bank `b`. -/
def State.switchAwaits (s : State) (t : Nat) (b : Bank) : Bool :=
  (s.tamb t).coding.isNone && (match s.firstBand (s.tamb t).namedBands, b.band with | some i, some j => decide (i = j) | _, _ => false)

section
variable {s : State} {t : Nat}

theorem State.switchAwaits_next {b : Bank} {i : BandId} (hc : (s.tamb t).coding = none) (hi : s.firstBand (s.tamb t).namedBands = some i)
    (hb : b.band = some i) : s.switchAwaits t b = true := by
  simp [State.switchAwaits, hc, hi, hb]

theorem State.switchAwaits_other {b : Bank} (h : (s.tamb t).coding.isSome = true ∨
    ∃ i j, b.band = some i ∧ s.firstBand (s.tamb t).namedBands = some j ∧ i ≠ j) : s.switchAwaits t b = false := by
  rcases h with h | ⟨i, j, hi, hj, hij⟩
  · simp [State.switchAwaits, Option.isSome_iff_ne_none.mp h]
  · simp [State.switchAwaits, hi, hj, hij.symm]

theorem State.preloadDone_idle (h : (s.tamb t).loads = []) : s.preloadDone t = s := by
  unfold State.preloadDone
  simp only [h]

theorem State.preloadDone_loading {k : Nat} {rest : List Nat} (h : (s.tamb t).loads = k :: rest) (hp : ((s.tamb t).bank k).phase = .loading) :
    s.preloadDone t = (s.contextEnd t St.ok).modTamb t fun _ =>
      { (s.tamb t).setBank k { (s.tamb t).bank k with phase := .loaded } with
        loads := rest, freeAt := if s.switchAwaits t ((s.tamb t).bank k) then s.nowT else (s.tamb t).freeAt } := by
  unfold State.preloadDone
  simp only [h, hp, if_true]
  refine State.modTamb_congr ?_
  rw [State.contextEnd_tamb]
  rfl

theorem State.prefetchDone_idle (h : (s.tamb t).windows.find? (fun w => !w.ready) = none) : s.prefetchDone t = s := by
  unfold State.prefetchDone
  simp only [h]

/-- The half `w` of tambour `t`'s hoop window is fetched; a switch that waits for its band counts from now. -/
theorem State.prefetchDone_fetched {w : HoopWindow} (h : (s.tamb t).windows.find? (fun w => !w.ready) = some w) :
    s.prefetchDone t = s.modTamb t fun _ =>
      { s.tamb t with
        windows := (s.tamb t).windows.map fun v => if v.band = w.band then { v with ready := true } else v
        freeAt := if (s.tamb t).coding = none ∧ s.firstBand (s.tamb t).namedBands = some w.band then s.nowT else (s.tamb t).freeAt } := by
  unfold State.prefetchDone
  simp only [h, Bool.and_eq_true, Option.isNone_iff_eq_none, decide_eq_true_eq]
  exact State.modTamb_congr rfl

end

/-! ## BANK_WRITEBACK_DONE (R46, R48, R56, R331) -/

theorem execBankWritebackDone_tambour {t : Nat} (ht : t < 8) (s : State) : execBankWritebackDone t s = .next (s.writebackDone t) := if_pos ht

/-! ## SWITCH_COMPLETE (R47, R55, R66) -/

theorem execSwitchComplete_tambour {t : Nat} (ht : t < 8) (s : State) : execSwitchComplete t s = .next (s.switch t) := if_pos ht

/-- Tambour `t` may switch: it is idle and clocked, outside the safe state, and the 96 ns have passed. -/
def State.maySwitch (s : State) (t : Nat) : Prop :=
  (s.tamb t).coding = none ∧ (s.tamb t).repairs = [] ∧ s.clocked t = true ∧ s.flt.safe = false ∧ (s.tamb t).freeAt + 96 * tauNs ≤ s.nowT

theorem State.not_maySwitch {s : State} {t : Nat} (h : (s.tamb t).coding.isSome = true ∨ (s.tamb t).repairs ≠ [] ∨ s.clocked t = false ∨
    s.flt.safe = true ∨ s.nowT < (s.tamb t).freeAt + 96 * tauNs) : ¬ s.maySwitch t := by
  rintro ⟨hcoding, hrepairs, hclock, hsafe, htime⟩
  rcases h with h | h | h | h | h
  · simp [hcoding] at h
  · exact h hrepairs
  · simp [hclock] at h
  · simp [hsafe] at h
  · exact Nat.not_lt.mpr htime h

section
variable {s : State} {t : Nat}

theorem State.switch_none (h : s.nextBand t = none) : s.switch t = s := by
  unfold State.switch
  simp only [h]

section
variable {i : BandId} {k : Nat} (h : s.nextBand t = some (i, k))
include h

theorem State.switch_takes (hm : s.maySwitch t) :
    s.switch t = if (s.channel i.ch).abandonAt i.pic i.b ≤ s.nowT then s.abandonNow i else ((s.enterCoding t k i).name t).settle i.ch := by
  obtain ⟨hcoding, hrepairs, hclock, hsafe, htime⟩ := hm
  unfold State.switch
  simp only [h]
  rw [if_pos (by simp [hcoding, hrepairs, hclock, hsafe, htime])]
  simp only [State.overAt, decide_eq_true_eq]

theorem State.switch_waits (hm : ¬ s.maySwitch t) : s.switch t = s := by
  unfold State.switch
  simp only [h]
  refine if_neg fun hc => hm ?_
  simpa [State.maySwitch, and_assoc] using hc

end

end

/-- Settles O40: each event is its state operation, by what its tambour loads, writes back or waits for. -/
theorem banksAndSwitches : Obligations.BanksAndSwitches := by
  intro t s ht
  have hbank := execContextPreloadDone_bank ht s
  have hwindow := execContextPreloadDone_window ht s
  have hback := execBankWritebackDone_tambour ht s
  have hswitch := execSwitchComplete_tambour ht s
  refine ⟨fun k rest hl hp => ?_, fun hl => ?_, fun w hw => ?_, fun hw => ?_, fun hw => ?_, fun ha hb => ?_, fun hn => ?_,
    fun i k hn => ⟨fun hcoding hrepairs hclock hsafe htime => ?_, fun hno => ?_⟩, fun st => rfl⟩
  · have hdone := State.preloadDone_loading hl hp
    refine ⟨fun i hc hi hb => hbank.trans (congrArg _ ?_), fun hother => hbank.trans (congrArg _ ?_)⟩
    · rw [hdone, State.switchAwaits_next hc hi hb, if_pos rfl]
    · rw [hdone, State.switchAwaits_other hother, if_neg Bool.false_ne_true, ← Tamb.setBank_freeAt]
  · exact hbank.trans (congrArg _ (State.preloadDone_idle hl))
  · refine hwindow.trans (congrArg _ ((State.prefetchDone_fetched hw).trans (State.modTamb_congr ?_)))
    dsimp only
    split <;> rfl
  · exact hwindow.trans (congrArg _ (State.prefetchDone_idle hw))
  · exact hback.trans (congrArg _ (if_pos hw))
  · exact hback.trans (congrArg _ (if_neg (not_or.mpr ⟨ha, hb⟩)))
  · exact hswitch.trans (congrArg _ (State.switch_none hn))
  · exact hswitch.trans (congrArg _ (State.switch_takes hn ⟨hcoding, hrepairs, hclock, hsafe, htime⟩))
  · exact hswitch.trans (congrArg _ (State.switch_waits hn (State.not_maySwitch hno)))

end Sys2Proof.Machine
end

section
/-!
The blocks of a tambour, the abandon point of a band and the end of a repair pass (O42).
-/
namespace Sys2Proof.Machine

/-! ## BLOCK_SLOT (R50, R55, R65, R240, R342) -/

theorem exec_blockSlot {t : Nat} {w : BlockWork} {s u : State} (ht : t < 8) (h : s.slot t w = u) : exec (.blockSlot t w) s = .next u :=
  (if_pos ht).trans (congrArg _ h)

/-- After a slot of an encode band: the band is CODED once its slice and its last hook are through (R55, R240). -/
def State.codedIfOver (s : State) (t : Nat) (i : BandId) : State := if s.bandOver t i then (s.encodeDone t i).settle i.ch else s

section
variable {s : State} {t : Nat} {i : BandId}

theorem State.slot_idle (h : (s.tamb t).coding = none) (w : BlockWork) : s.slot t w = s := by
  unfold State.slot
  rw [h]

theorem State.encodeSlot_stalls
    (h : ((s.pour t i).tamb t).coder.queue ≠ [] ∨ ((s.pour t i).tamb t).coder.closes = true ∨ ((s.pour t i).tamb t).coder.ended = true ∨
      (s.pour t i).hooksDue t i = true) : s.encodeSlot t i = s.pour t i := if_pos h

theorem State.encodeSlot_passes (hq : ((s.pour t i).tamb t).coder.queue = []) (hc : ((s.pour t i).tamb t).coder.closes = false)
    (he : ((s.pour t i).tamb t).coder.ended = false) (hh : (s.pour t i).hooksDue t i = false) :
    s.encodeSlot t i = ((s.pour t i).pipeline t i).pour t i := if_neg (by simp [hq, hc, he, hh])

section
variable (h : (s.tamb t).coding = some i)
include h

theorem State.slot_enc : s.slot t .enc =
    if (s.channel i.ch).abandonAt i.pic i.b < s.nowT ∧ (s.tamb t).coder.ended = false then s.abandonNow i
    else if (s.channel i.ch).decode then s else (s.encodeSlot t i).codedIfOver t i := by
  unfold State.slot
  rw [h]
  rfl

theorem State.slot_dec (d : DecBlock) : s.slot t (.dec d) =
    let n := ((s.channel i.ch).cfgOf i.pic).bandBlocks i.b
    let u := if (s.tamb t).blocks < n then s.decodeBlock t i d else s
    if (s.channel i.ch).abandonAt i.pic i.b < s.nowT then s.abandonNow i
    else if (s.channel i.ch).decode = false then s else if n ≤ (u.tamb t).blocks then u.decodeDone t i else u := by
  unfold State.slot
  rw [h]

theorem State.slot_late {w : BlockWork} (hlate : (s.channel i.ch).abandonAt i.pic i.b < s.nowT) (hw : w = .enc → (s.tamb t).coder.ended = false) :
    s.slot t w = s.abandonNow i := by
  cases w with
  | enc => exact (State.slot_enc h).trans (if_pos ⟨hlate, hw rfl⟩)
  | dec d => exact (State.slot_dec h d).trans (if_pos hlate)

theorem State.slot_encodes (hd : (s.channel i.ch).decode = false)
    (hin : s.nowT ≤ (s.channel i.ch).abandonAt i.pic i.b ∨ (s.tamb t).coder.ended = true) :
    s.slot t .enc = (s.encodeSlot t i).codedIfOver t i := by
  have hkept : ¬ ((s.channel i.ch).abandonAt i.pic i.b < s.nowT ∧ (s.tamb t).coder.ended = false) := by
    rintro ⟨hlate, hopen⟩
    rcases hin with hin | hended
    · exact Nat.not_lt.mpr hin hlate
    · simp [hended] at hopen
  rw [State.slot_enc h, if_neg hkept, hd, if_neg Bool.false_ne_true]

section
variable (hin : s.nowT ≤ (s.channel i.ch).abandonAt i.pic i.b)
include hin

theorem State.slot_decodes (hd : (s.channel i.ch).decode = true) (d : DecBlock)
    (hn : (s.tamb t).blocks < ((s.channel i.ch).cfgOf i.pic).bandBlocks i.b) :
    s.slot t (.dec d) =
      if ((s.channel i.ch).cfgOf i.pic).bandBlocks i.b ≤ ((s.decodeBlock t i d).tamb t).blocks then (s.decodeBlock t i d).decodeDone t i
      else s.decodeBlock t i d := by
  rw [State.slot_dec h]
  simp only [if_pos hn, if_neg (Nat.not_lt.mpr hin), hd, Bool.true_eq_false, if_false]

/-- The work of a slot must be of its band's direction. -/
theorem State.slot_otherDirection {w : BlockWork} (hw : w = .enc ↔ (s.channel i.ch).decode = true) : s.slot t w = s := by
  cases w with
  | enc =>
    rw [State.slot_enc h, if_neg fun hlate => Nat.not_lt.mpr hin hlate.1, hw.mp rfl]
    exact if_pos rfl
  | dec d =>
    have hd : (s.channel i.ch).decode = false := Bool.eq_false_iff.mpr fun hd => nomatch hw.mpr hd
    exact (State.slot_dec h d).trans ((if_neg (Nat.not_lt.mpr hin)).trans (if_pos hd))

end

end

/-! ## BAND_ABANDON (R27, R50, R56) -/

theorem exec_bandAbandon {c p b : Nat} {s u : State} (hc : c < 128) (h : s.abandonDue ⟨c, p, b⟩ = u) : exec (.bandAbandon c p b) s = .next u :=
  (if_pos hc).trans (congrArg _ h)

theorem State.tooLate_iff : s.tooLate i = true ↔ (s.channel i.ch).abandonAt i.pic i.b ≤ s.nowT ∧
    ((s.tamb (s.channel i.ch).tambour).coding ≠ some i ∨ (s.tamb (s.channel i.ch).tambour).coder.ended = false) := by
  simp [State.tooLate, State.overAt]

theorem State.abandonDue_open (h : (s.band i).state = .ready ∨ (s.band i).state = .named ∨ (s.band i).state = .coding) :
    s.abandonDue i = if s.tooLate i then s.abandonNow i else s := by
  unfold State.abandonDue
  rcases h with h | h | h <;> simp only [h, Bool.true_and]

/-! ## REPAIR_PASS_END (R164) -/

theorem exec_repairPassEnd {t : Nat} {s u : State} (ht : t < 8) (h : s.repairEnd t = u) : exec (.repairPassEnd t) s = .next u :=
  (if_pos ht).trans (congrArg _ h)

/-- The regions that the repaired band `i` has left are concealed, and the band has the finding of a repair. -/
def State.concealLeft (s : State) (i : BandId) : State :=
  let x := s.channel i.ch
  let left := x.repairOrder i (s.band i).blocks
  (s.concealAll i (fun r => x.regionDone i (s.band i).blocks r && !left.contains r) left).modBand i
    fun u => { u with findings := if bitAt u.findings 4 then u.findings else u.findings + 16 }

theorem State.repairEnd_none (h : (s.tamb t).repairs = []) : s.repairEnd t = s := by
  unfold State.repairEnd
  rw [h]

theorem State.repairEnd_first {rest : List BandId} (h : (s.tamb t).repairs = i :: rest) :
    s.repairEnd t = (((((s.concealLeft i).modTamb t fun y => { y with repairs := rest, freeAt := (s.concealLeft i).nowT }).pictureDecoded
      i.ch i.pic).name t).sleep t) := by
  unfold State.repairEnd
  rw [h]
  rfl

end

/-- Settles O42: each event is its state operation, by the direction of the band, its abandon point and what is left of it. -/
theorem blocksPass : Obligations.BlocksPass := by
  refine ⟨fun t w s ht hn => ?_, fun t i w s ht hi hlate hw => ?_, fun t i s ht hi hd hin => ⟨fun hstall => ?_, fun hq hc he hh => ?_⟩,
    fun t i d s ht hi hd hin hn => ⟨fun hmore => ?_, fun hlast => ?_⟩, fun t i w s ht hi hin hw => ?_, fun t i s => rfl,
    fun c p b s hc hopen => ⟨fun hdue hleft => ?_, fun hkept => ?_⟩, fun t s ht => ⟨fun hr => ?_, fun i rest hr => ?_⟩⟩
  · exact exec_blockSlot ht (State.slot_idle hn w)
  · exact exec_blockSlot ht (State.slot_late hi hlate hw)
  · exact exec_blockSlot ht ((State.slot_encodes hi hd hin).trans (congrArg (·.codedIfOver t i) (State.encodeSlot_stalls hstall)))
  · exact exec_blockSlot ht ((State.slot_encodes hi hd hin).trans (congrArg (·.codedIfOver t i) (State.encodeSlot_passes hq hc he hh)))
  · exact exec_blockSlot ht ((State.slot_decodes hi hin hd d hn).trans (if_neg (Nat.not_le.mpr hmore)))
  · exact exec_blockSlot ht ((State.slot_decodes hi hin hd d hn).trans (if_pos hlast))
  · exact exec_blockSlot ht (State.slot_otherDirection hi hin hw)
  · exact exec_bandAbandon hc ((State.abandonDue_open hopen).trans (if_pos (State.tooLate_iff.mpr ⟨hdue, hleft⟩)))
  · refine exec_bandAbandon hc ((State.abandonDue_open hopen).trans (if_neg fun hlate => ?_))
    obtain ⟨hdue, hleft⟩ := State.tooLate_iff.mp hlate
    rcases hkept with hearly | ⟨hcoding, hended⟩
    · exact Nat.not_lt.mpr hdue hearly
    · simp [hcoding, hended] at hleft
  · exact exec_repairPassEnd ht (State.repairEnd_none hr)
  · exact exec_repairPassEnd ht (State.repairEnd_first hr)

end Sys2Proof.Machine
end

section
/-!
The packets and the injected entries of a decode channel, and the numbers that it loses (O35).
-/
namespace Sys2Proof.Machine

/-! ## DEPACKETIZE (R26, R150–R154) -/

theorem exec_depacketize {flow : Nat} {n : StreamNote} {s t : State} (hf : flow < 2048) (hawake : s.asleep Src.depacketizer = false)
    (h : s.depack flow n = t) : exec (.depacketize flow n) s = .next t :=
  (if_pos hf).trans (congrArg _ ((if_neg (by simp [hawake])).trans h))

theorem exec_depacketize_asleep {flow : Nat} {s : State} (hf : flow < 2048) (hasleep : s.asleep Src.depacketizer = true) (n : StreamNote) :
    exec (.depacketize flow n) s = .next s := (if_pos hf).trans (congrArg _ (if_pos hasleep))

/-- The cells of the frame at the head of a flow's IFQ, and whether their chain words pass the check. -/
def State.headChain (s : State) (flow : Nat) : List Nat × Bool :=
  s.chainCells (bitsAt (s.headEntry (ifqId flow)) 14 3) (bitsAt (s.headEntry (ifqId flow)) 0 14)

/-- The packet in the frame at the head of a flow's IFQ. -/
def State.headPkt (s : State) (flow : Nat) : MergePkt :=
  s.mergePktOf (s.headEntry (ifqId flow)) (s.loadFrame (s.headChain flow).1 (bitsAt (s.headEntry (ifqId flow)) 17 14))

section
variable {s : State} {flow : Nat} {n : StreamNote}

theorem State.depack_empty (h : (s.queue (ifqId flow)).isEmpty = true) : s.depack flow n = s := if_pos h

section
variable (hq : (s.queue (ifqId flow)).isEmpty = false)
include hq

theorem State.depack_unbound (hc : (s.iflow flow).channel = none) : s.depack flow n = (s.takeIfq flow).1 := by
  unfold State.depack
  rw [hq, hc]
  exact if_neg Bool.false_ne_true

/-- A packet for a live decode channel with network input that is merged gives its frame back. -/
theorem State.depack_merged {c : Nat} {t : State} (hc : (s.iflow flow).channel = some c) (hkind : (s.iflow flow).kind = 1)
    (hd : (s.channel c).decode = true) (hlive : (s.channel c).state.live = true) (hnet : (s.channel c).cfg.injectQid = 0)
    (hchain : (s.headChain flow).2 = true) (hm : s.mergePacket c (s.headPkt flow) n = (t, true)) : s.depack flow n = (t.takeIfq flow).1 := by
  unfold State.headPkt State.headChain at hm
  unfold State.headChain at hchain
  unfold State.depack
  simp [hq, hc, hkind, hd, hlive, hnet, hchain, hm]

end

/-! ## The merge of a packet (R150–R152) -/

variable {c : Nat} {pkt : MergePkt}

theorem State.mergeSource_known (hssrc : (s.channel c).merge.ssrc = some pkt.ssrc) (hjump : (s.channel c).merge.jumps pkt.ssrc pkt.seq = false) :
    s.mergeSource c pkt = s := (if_neg (by simp [hssrc])).trans (if_neg (by simp [hjump]))

section
variable {k : Nat} (hsource : s.mergeSource c pkt = s) (hk : ((s.channel c).merge.highest + (s.channel c).merge.ahead pkt.seq).toNat = k)
  (hunit : (s.channel c).unitOf k = none)
include hsource hk hunit

theorem State.mergePacket_sameCopy {first : Nat × Nat} (hgot : SMap.get (fun _ => none) (s.channel c).merge.got k = some first)
    (hsame : first.1 = pkt.kept.1) : s.mergePacket c pkt n = (s, true) := by
  unfold State.mergePacket
  simp [hsource, hk, hunit, hgot, hsame]

section
variable (hgot : SMap.get (fun _ => none) (s.channel c).merge.got k = none)
include hgot

theorem State.mergePacket_lost (hlost : (s.channel c).merge.isLost k = true) : s.mergePacket c pkt n = (s.mergeLate c k, true) := by
  unfold State.mergePacket
  simp [hsource, hk, hunit, hgot, hlost]

/-- A first copy in time: its unit is found by its timestamp, since its number lies in none that is known. -/
theorem State.mergePacket_first (hlost : (s.channel c).merge.isLost k = false)
    (hdue : (s.channel c).overdue k ((s.channel c).unitAt pkt.ts k) pkt.arrival = false) :
    s.mergePacket c pkt n = s.placePacket c k pkt n := by
  unfold State.mergePacket
  cases hat : (s.channel c).unitAt pkt.ts k <;> rw [hat] at hdue <;> simp [hsource, hk, hunit, hgot, hlost, hat, hdue]

end

end

end

/-! ## SEQUENCE_LOST (R151) -/

theorem exec_sequenceLost_due {c q : Nat} {s : State} (hc : c < 128) (hd : (s.channel c).decode = true) (hlive : (s.channel c).state.live = true)
    (hnet : (s.channel c).cfg.injectQid = 0) (hdue : s.lossDue c q = true) : exec (.sequenceLost c q) s = .next ((s.declareLost c q).recheckSeq c q) :=
  (if_pos hc).trans (congrArg _ (if_pos (by simp [hd, hlive, hnet, hdue])))

theorem exec_sequenceLost_early {c q : Nat} {s : State} (hc : c < 128) (hdue : s.lossDue c q = false) : exec (.sequenceLost c q) s = .next s :=
  (if_pos hc).trans (congrArg _ (if_neg (by simp [hdue])))

/-! ## INJECT_ENTRY (R122) -/

section
variable {s : State} {c v : Nat} {n : StreamNote}

theorem exec_injectEntry_beforeStart (hc : c < 128) (h : s.nowT ≤ (s.channel c).startNs * tauNs) : exec (.injectEntry c n) s = .next s :=
  (if_pos hc).trans (if_neg (by simp [h]))

theorem exec_injectEntry_noEntry (hc : c < 128) (h : s.ownedEntry (s.channel c).cfg.injectQid = none) : exec (.injectEntry c n) s = .next s := by
  refine (if_pos hc).trans ?_
  rw [h]
  exact ite_self _

theorem exec_injectEntry_takes (hc : c < 128) (hd : (s.channel c).decode = true) (hlive : (s.channel c).state.live = true)
    (hq : (s.channel c).cfg.injectQid ≠ 0) (hvalid : (s.queue (s.channel c).cfg.injectQid).valid = true)
    (hstart : (s.channel c).startNs * tauNs < s.nowT) (hv : s.ownedEntry (s.channel c).cfg.injectQid = some v) :
    exec (.injectEntry c n) s = .next (s.takeInject c v n) := by
  refine (if_pos hc).trans ((if_pos (by simp [hd, hlive, hq, hvalid, hstart])).trans ?_)
  rw [hv]

theorem State.takeInject_empty (hk : (s.channel c).merge.highest ≠ 0) (hlen : bitsAt v 96 24 = 0) :
    s.takeInject c v n = s.refuseInject c (s.channel c).cfg.injectQid v ((s.channel c).merge.highest + 1) St.lenZero := by
  unfold State.takeInject
  simp [hk, hlen]

/-- An entry that goes on with the open unit, and is refused, leaves that unit open. -/
theorem State.refuseInject_goesOn (hgoes : bitAt v 176 = false) (q k status : Nat) : s.refuseInject c q v k status =
    (((s.modChannel c fun x => { x with merge := { x.merge with highest := max x.merge.highest k } }).declareLost c k).recheckSeq c k).returnEntry q
      (injectReturn v c status) := by
  unfold State.refuseInject
  simp [hgoes]

theorem State.takeInject_data {d p : Nat} {t : State} (hk : (s.channel c).merge.highest ≠ 0) (hgoes : bitAt v 176 = false)
    (hlen : bitsAt v 96 24 ≠ 0) (hbuf : bitsAt v 96 24 ≤ bitsAt v 64 24) (hread : s.hostRead (bitsAt v 0 64) (bitsAt v 96 24) = some d)
    (hopen : (s.channel c).merge.openUnit = some p) (hkept : ((s.channel c).pic p).lostAll = false) (hends : ((s.channel c).pic p).closed = false)
    (hpages : s.morePages (bitsAt v 96 24 / 65536 + 2) c p 21 (bitsAt v 96 24) = (t, true)) :
    let k := (s.channel c).merge.highest + 1
    s.takeInject c v n = ((t.receiveSeq c k (d, t.now)).placeBytes c p k (recBytes d (bitsAt v 96 24)) (bitAt v 177) n).returnEntry
      (s.channel c).cfg.injectQid (injectReturn v c St.ok) := by
  unfold State.takeInject
  simp [hk, hgoes, hlen, Nat.not_lt.mpr hbuf, hread, hopen, hkept, hends, hpages]

end

/-- Settles O35: each event is its state operation, by the packet's number, the loss that is due, or the entry at the head of the ring. -/
theorem packetsOfADecodeChannelAreMerged : Obligations.PacketsOfADecodeChannelAreMerged := by
  refine ⟨fun flow n s hf => ⟨fun h => ?_, fun ha hq hc => ?_, fun c ha hq hc hkind hd hlive hnet hchain hssrc hjump hunit => ?_⟩,
    fun c q s hc => ⟨exec_sequenceLost_due hc, exec_sequenceLost_early hc⟩,
    fun c n s hc hd hlive hq hvalid => ⟨exec_injectEntry_beforeStart hc, exec_injectEntry_noEntry hc, fun v hstart hv hgoes hk => ?_⟩⟩
  · cases ha : s.asleep Src.depacketizer with
    | true => exact exec_depacketize_asleep hf ha n
    | false => exact exec_depacketize hf ha (State.depack_empty (h.resolve_right (by simp [ha])))
  · exact exec_depacketize hf ha (State.depack_unbound hq hc)
  · have hsource := State.mergeSource_known hssrc hjump
    have hmerged {t : State} (hm : s.mergePacket c (s.headPkt flow) n = (t, true)) : exec (.depacketize flow n) s = .next (t.takeIfq flow).1 :=
      exec_depacketize hf ha (State.depack_merged hq hc hkind hd hlive hnet hchain hm)
    exact ⟨fun first hgot hsame => hmerged (State.mergePacket_sameCopy hsource rfl hunit hgot hsame),
      fun t hgot hlost hdue hplaced => hmerged ((State.mergePacket_first hsource rfl hunit hgot hlost hdue).trans hplaced),
      fun hgot hlost => hmerged (State.mergePacket_lost hsource rfl hunit hgot hlost)⟩
  · have htakes := exec_injectEntry_takes (n := n) hc hd hlive hq hvalid hstart hv
    refine ⟨fun hlen => ?_, fun d p t hlen hbuf hread hopen hkept hends hpages => ?_⟩
    · exact htakes.trans (congrArg _ ((State.takeInject_empty hk hlen).trans (State.refuseInject_goesOn hgoes ..)))
    · exact htakes.trans (congrArg _ (State.takeInject_data hk hgoes hlen hbuf hread hopen hkept hends hpages))

end Sys2Proof.Machine
end

section
/-!
Picture plans: received from the host, taken from a mailbox slot, and put there by firmware and by the vendor controller (O16).
-/
namespace Sys2Proof.Machine

/-! ## A command that names a channel (R290, R291) -/

/-- A command that names a channel of the device, is ready and waits for nothing runs its body and is answered. -/
theorem chanCmd_answered {i : Instr} {h : CmdHdr} {c : Nat} {body : State → State × Reply} {s u : State} {r : Reply} (hr : s.ready i h)
    (hc : c < 128) (hw : s.chanWaits h.sq c = false) (hu : body (s.taken h) = (u, r)) :
    chanCmd i h c (fun _ t => now_ (body t)) s = s.answered u h r :=
  hostCmd_answered i h false false _ _ s hr (.inl rfl) hw u r ((if_neg (Nat.not_le.mpr hc)).trans (congrArg now_ hu))

section
variable {c v : Nat} {s : State}

/-! ## A received plan (R129, R132) -/

theorem State.receivePlan_entered {source : Bool} (hst : (s.channel c).planStatus c v (source && !s.isFollower) = 0) :
    s.receivePlan c v source = (s.modChannel c fun x => x.enterPlan (planOf v), 0) := by
  simp [State.receivePlan, hst]

theorem State.receivePlan_refused {source : Bool} {st : Nat} (hst : (s.channel c).planStatus c v (source && !s.isFollower) = st) (hne : st ≠ 0) :
    s.receivePlan c v source = (s, st) := by
  simp [State.receivePlan, hst, hne]

/-! ## PICTURE_PLAN (R131) -/

section
variable {addr : Nat} (hread : s.hostRead addr 192 = some v)
include hread

theorem State.picturePlan_entered (hst : (s.channel c).planStatus c v (decide ((s.channel c).cfg.rcSource = 2) && !s.isFollower) = 0) :
    s.picturePlan c addr = (s.modChannel c fun x => x.enterPlan (planOf v), { status := St.ok }) := by
  simp only [State.picturePlan, hread, State.receivePlan_entered hst]
  rfl

/-- A refused plan changes nothing; which byte the detail names is left open. -/
theorem State.picturePlan_refused {st : Nat}
    (hst : (s.channel c).planStatus c v (decide ((s.channel c).cfg.rcSource = 2) && !s.isFollower) = st) (hne : st ≠ 0) :
    ∃ d, s.picturePlan c addr = (s, { status := st, detail := d }) := by
  simp only [State.picturePlan, hread, State.receivePlan_refused hst hne]
  exact ⟨_, rfl⟩

end

theorem exec_picturePlan {h : CmdHdr} {ch : BitVec 8} {addr : Word64} {u : State} {r : Reply} (hr : s.ready (.picturePlan h ch addr) h)
    (hc : ch.toNat < 128) (hw : s.chanWaits h.sq ch.toNat = false) (hu : (s.taken h).picturePlan ch.toNat addr.toNat = (u, r)) :
    exec (.picturePlan h ch addr) s = .next (s.answered u h r) :=
  congrArg _ (chanCmd_answered hr hc hw hu)

/-! ## MAILBOX_PLAN (R130) -/

section
variable {k : Nat} (hc : c < 128) (hk : k < 4)
include hc hk

theorem exec_mailboxPlan_none (customer : Bool) : exec (.mailboxPlan c k customer none) s = .next (s.mailboxTake c k customer) :=
  if_pos ⟨hc, hk⟩

theorem exec_mailboxPlan_put (customer : Bool) : exec (.mailboxPlan c k customer (some v)) s = .next ((s.mailboxPut c k v).mailboxTake c k customer) :=
  if_pos ⟨hc, hk⟩

end

/-- A slot with OWN = 1 is received, and its control word becomes STATUS with OWN = 0. -/
theorem State.mailboxTake_own {k st : Nat} {customer : Bool} {u : State} (hown : bitAt (s.shwRead (mailboxSlot c k + 0xC0) 4) 0 = true)
    (hreceived : s.receivePlan c (s.shwRead (mailboxSlot c k) 192) (decide ((s.channel c).cfg.rcSource = b2n customer)) = (u, st)) :
    s.mailboxTake c k customer = u.shwWrite (mailboxSlot c k + 0xC0) 4 (256 * st) := by
  simp [State.mailboxTake, hown, hreceived]

theorem State.mailboxTake_free {k : Nat} {customer : Bool} (hown : bitAt (s.shwRead (mailboxSlot c k + 0xC0) 4) 0 = false) :
    s.mailboxTake c k customer = s :=
  if_neg (by simp [hown])

/-! ## RC_PLAN (R135) -/

theorem exec_rcPlan (hc : c < 128) : exec (.rcPlan c) s = .next (s.rcPlan c) := if_pos hc

theorem State.rcPlan_plans (hencode : (s.channel c).decode = false) (hvendor : (s.channel c).cfg.rcSource = 0)
    (hunplanned : (s.channel c).rc.planned = false) (hlive : (s.channel c).state = .armed ∨ (s.channel c).state = .running)
    (hlead : s.isFollower = false) :
    s.rcPlan c = (s.modChannel c fun x => { x with rc := { x.rc with planned := true } }).mailboxPut c 0
      (((s.channel c).vendorPlan (s.channel c).planNext).record c) :=
  if_pos ⟨hencode, hvendor, hunplanned, hlive, hlead⟩

theorem State.rcPlan_idle (h : (s.channel c).decode = true ∨ (s.channel c).cfg.rcSource ≠ 0 ∨ (s.channel c).rc.planned = true) : s.rcPlan c = s := by
  refine if_neg fun ⟨hencode, hvendor, hunplanned, _⟩ => ?_
  rcases h with hdecode | hsource | hplanned
  · simp [hencode] at hdecode
  · exact hsource hvendor
  · simp [hunplanned] at hplanned

end

/-- Settles O16: the host's plan and the mailbox's are received alike, entered or refused; firmware and the vendor controller put theirs in a slot. -/
theorem plansAreEntered : Obligations.PlansAreEntered := by
  refine ⟨fun h c addr v s hr hc hw hread => ⟨fun hst => ?_, fun hst => ?_⟩, fun c k customer s hc hk hown => ?_,
    fun c k customer s hc hk hown => ?_, fun c k v customer s hc hk => ?_, fun c s hc hencode hvendor hunplanned hlive hlead => ?_, fun c s hc h => ?_⟩
  · exact exec_picturePlan hr hc hw (State.picturePlan_entered (s := s.taken h) hread hst)
  · obtain ⟨d, hd⟩ := State.picturePlan_refused (s := s.taken h) hread rfl hst
    exact ⟨d, exec_picturePlan hr hc hw hd⟩
  · exact (exec_mailboxPlan_none hc hk customer).trans (congrArg _ (State.mailboxTake_own hown rfl))
  · exact (exec_mailboxPlan_none hc hk customer).trans (congrArg _ (State.mailboxTake_free hown))
  · exact (exec_mailboxPlan_put hc hk customer).trans (exec_mailboxPlan_none hc hk customer).symm
  · exact (exec_rcPlan hc).trans (congrArg _ (State.rcPlan_plans hencode hvendor hunplanned hlive hlead))
  · exact (exec_rcPlan hc).trans (congrArg _ (State.rcPlan_idle h))

end Sys2Proof.Machine
end

section
/-!
The output slots of a decode channel and the starts of their bands (O36).
-/
namespace Sys2Proof.Machine

/-! ## OUTPUT_SLOT (R155) -/

section
variable {c t : Nat} {s : State}

theorem exec_outputSlot (hc : c < 128) : exec (.outputSlot c) s = .next (s.outputSlot c) := if_pos hc

theorem State.outputSlot_due (hd : (s.channel c).decode = true) (hlive : (s.channel c).state.live = true)
    (hslot : (s.channel c).out.nextSlot = some t) (ht : t ≤ s.nowT) :
    s.outputSlot c = s.modChannel c fun x =>
      { x with out := { x.out with nextSlot := some (t + x.cfg.periodT), active := x.out.active ++ [{ slotT := t }] } } := by
  unfold State.outputSlot
  simp only [hslot]
  exact if_pos (by simp [hd, hlive, ht])

theorem State.outputSlot_early (hslot : (s.channel c).out.nextSlot = some t) (ht : s.nowT < t) : s.outputSlot c = s := by
  unfold State.outputSlot
  simp only [hslot]
  exact if_neg (by simp [ht])

end

/-! ## EGRESS_BAND_START (R156, R157, R166) -/

section
variable {c : Nat} {s : State}

theorem exec_egressBandStart_held (hc : c < 128) (h : s.flt.safe = true ∨ s.asleep Src.egress = true) : exec (.egressBandStart c) s = .next s := by
  refine (if_pos hc).trans (congrArg _ (if_neg ?_))
  rintro ⟨-, -, hsafe, hawake⟩
  simp [hsafe, hawake] at h

theorem exec_egressBandStart {u : State} (hc : c < 128) (hd : (s.channel c).decode = true) (hlive : (s.channel c).state.live = true)
    (hsafe : s.flt.safe = false) (hawake : s.asleep Src.egress = false) (h : s.egressStart c = u) : exec (.egressBandStart c) s = .next u :=
  (if_pos hc).trans (congrArg _ ((if_pos ⟨hd, hlive, hsafe, hawake⟩).trans h))

/-- A channel without egress flows sends nothing: the band is over at once. -/
theorem State.sendOut_noFlows (h : s.egressOf c = []) (p b start : Nat) (q : OutSlot) :
    s.sendOut c p b start q = s.endOutBand c p b (q.isRepeat || q.second) 0 none := by
  unfold State.sendOut
  simp only [h, List.head?_nil]

section
variable {t : Nat} {q : OutSlot} {rest : List OutSlot} (hq : (s.channel c).out.active = q :: rest) (hstart : (s.channel c).bandStart q q.nextBand = some t)
include hq hstart

theorem State.egressStart_early (ht : s.nowT < t) : s.egressStart c = s := by
  unfold State.egressStart
  simp only [hq, hstart]
  exact if_pos ht

/-- The first active slot, settled already, at its band's time: its picture's band is sent, or the slot ends for want of one. -/
theorem State.egressStart_chosen (ht : t ≤ s.nowT) (hchosen : q.chosen = true) :
    s.egressStart c = q.pic.elim (s.modChannel c fun x => { x with out := { x.out with active := rest } }) fun p => s.sendOut c p q.nextBand t q := by
  unfold State.egressStart
  simp only [hq, hstart, hchosen, if_true]
  rw [if_neg (Nat.not_lt.mpr ht)]
  cases q.pic <;> rfl

end

end

/-- Settles O36: a slot that comes is sent, and a band of the first slot's settled picture starts at its time, outside the safe state and in clock. -/
theorem decodedPicturesAreSent : Obligations.DecodedPicturesAreSent := by
  refine ⟨fun c t s hc hd hlive hslot => ⟨fun ht => ?_, fun ht => ?_⟩, fun c s hc h => exec_egressBandStart_held hc h,
    fun c t q rest s hc hd hlive hsafe hawake hq hstart => ?_⟩
  · exact (exec_outputSlot hc).trans (congrArg _ (State.outputSlot_due hd hlive hslot ht))
  · exact (exec_outputSlot hc).trans (congrArg _ (State.outputSlot_early hslot ht))
  · have hstarts {u : State} : s.egressStart c = u → exec (.egressBandStart c) s = .next u := exec_egressBandStart hc hd hlive hsafe hawake
    refine ⟨fun ht => hstarts (State.egressStart_early hq hstart ht), fun ht hchosen hpic => hstarts ?_, fun p ht hchosen hpic => ?_⟩
    · rw [State.egressStart_chosen hq hstart ht hchosen, hpic, Option.elim_none]
    · have hsends : s.egressStart c = s.sendOut c p q.nextBand t q := by
        rw [State.egressStart_chosen hq hstart ht hchosen, hpic, Option.elim_some]
      exact ⟨hstarts hsends, fun hflows => hstarts (hsends.trans (State.sendOut_noFlows hflows p q.nextBand t q))⟩

end Sys2Proof.Machine
end

section
/-!
STATS_INTERVAL_END where one source has two subscriptions on one ring (O19).
-/
namespace Sys2Proof.Machine

theorem exec_statsIntervalEnd {kind source : Nat} {s : State} (hunit : (kind = 1 ∧ source < 2048) ∨ (kind = 2 ∧ source < 8)) :
    exec (.statsIntervalEnd kind source) s = .next (s.endIntervals kind source) := if_pos hunit

/-- Port 0 on ring 0 with intervals of 2 ms, the first of them in progress. -/
def twoMsSub : Sub := { kind := 2, source := 0, qid := 0, interval := 2 }

/-- Port 0 on ring 0 again, with intervals of 1 ms, the one from 3 ms on in progress. -/
def oneMsSub : Sub := { kind := 2, source := 0, qid := 0, interval := 1, since := 3000000 }

/-- Both subscriptions at 3 ms, a state that the statement takes in though STATS_SUBSCRIBE leaves none: it replaces its own earlier one (R186). -/
def subscribedTwice : State :=
  { State.reset with time := { State.reset.time with ns := 3000000 }, codec := { State.reset.codec with subs := [twoMsSub, oneMsSub] } }

/-- At 3 ms the interval of 2 ms alone is due, since 2 ms. A subscription is known by its source and ring, so its end takes both back to 2 ms; the interval
of 1 ms from there is due at 3 ms in its turn, and its end takes both to 3 ms. -/
theorem subscribedTwice_endIntervals : (subscribedTwice.endIntervals 2 0).codec.subs.map Sub.since = [3000000, 3000000] := by
  decide +kernel

/-- Refutes O19: where a state holds a second subscription of the same source on the same ring, not due yet, the end of the one that is due can bring
the second's interval back to an earlier one that is due as well, and the next intervals do not begin where the first one ended. -/
theorem not_subscriptionsAndIntervals : ¬ Obligations.SubscriptionsAndIntervals := by
  rintro ⟨-, -, -, hends⟩
  have hunit : (2 = 1 ∧ 0 < 2048) ∨ (2 = 2 ∧ 0 < 8) := by decide
  have hexec := hends 2 0 twoMsSub subscribedTwice hunit (by decide) (by decide) (by decide) (by decide)
  have honce := Host.Outcome.next.inj ((exec_statsIntervalEnd hunit).symm.trans hexec)
  have htwo : (subscribedTwice.endIntervals 2 0).codec.subs.map Sub.since = [2000000, 2000000] :=
    (congrArg (fun t : State => t.codec.subs.map Sub.since) honce).trans (by decide +kernel)
  exact absurd (subscribedTwice_endIntervals.symm.trans htwo) (by decide)

end Sys2Proof.Machine
end

section
/-!
What the twin's commands share: what an interrupt assertion and a completion leave as it was, taking a delivered message, sending one, alive counters.
-/
namespace Sys2Proof.Machine

/-! ## What entries on a ring, assertions and completions leave -/

/-- A part `p` of the state that neither a register, a queue, an interrupt source, a memory, a fault message nor the host interface's own bookkeeping
outside its deferred commands changes. -/
structure OffRings {β : Type} (p : State → β) : Prop where
  setReg (s : State) (a : Nat) (v : Word) : p (s.setReg a v) = p s
  modQueue (s : State) (q : Nat) (f : Queue → Queue) : p (s.modQueue q f) = p s
  modSrc (s : State) (n : Nat) (f : IrqSrc → IrqSrc) : p (s.modSrc n f) = p s
  spaceWrite (s : State) (sp : Space) (a n v : Nat) : p (s.spaceWrite sp a n v) = p s
  raise (s : State) (source kind address detail : Nat) : p (s.raise source kind address detail) = p s
  host (s : State) (h : HostSt) : h.deferred = s.host.deferred → p { s with host := h } = p s

theorem OffRings.twin : OffRings State.twin where
  setReg _ _ _ := rfl
  modQueue _ _ _ := rfl
  modSrc _ _ _ := rfl
  spaceWrite _ sp _ _ _ := by cases sp <;> rfl
  raise _ _ _ _ _ := rfl
  host _ _ _ := rfl

theorem OffRings.deferred : OffRings fun s => s.host.deferred where
  setReg _ _ _ := rfl
  modQueue _ _ _ := rfl
  modSrc _ _ _ := rfl
  spaceWrite _ sp _ _ _ := by cases sp <;> rfl
  raise _ _ _ _ _ := rfl
  host _ _ h := h

section
variable {β : Type} {p : State → β} (hp : OffRings p)
include hp

theorem OffRings.count (s : State) (a w n : Nat) : p (s.count a w n) = p s := hp.setReg _ _ _

theorem OffRings.msixSend (s : State) (v : Nat) : p (s.msixSend v) = p s :=
  ite_eq rfl (ite_eq (hp.host _ _ rfl) (hp.host _ _ rfl))

theorem OffRings.signalWith (s : State) (q us : Nat) : p (s.signalWith q us) = p s := by
  have hsends (t : State) (f : Queue → Queue) (v : Nat) : p ((t.modQueue q f).msixSend v) = p t := (hp.msixSend _ _).trans (hp.modQueue _ _ _)
  unfold State.signalWith
  refine ite_eq rfl ?_
  split
  · exact ite_eq (hp.modQueue _ _ _) (hsends _ _ _)
  · exact hsends _ _ _

theorem OffRings.putEntry (s : State) (q v : Nat) : p (s.putEntry q v) = p s :=
  (hp.signalWith _ _ _).trans ((hp.modQueue _ _ _).trans (hp.spaceWrite _ _ _ _ _))

theorem OffRings.putFallback (fuel : Nat) (s : State) (c v : Nat) : p (State.putFallback fuel s c v) = p s := by
  induction fuel generalizing s c v with
  | zero => rfl
  | succ k ih =>
    have hput (t : State) (q v : Nat) (f : Queue → Queue) : p ((t.putEntry q v).modQueue q f) = p t := (hp.modQueue _ _ _).trans (hp.putEntry _ _ _)
    unfold State.putFallback
    refine ite_eq rfl (ite_eq (hp.modQueue _ _ _) (ite_eq ((hp.modSrc _ _ _).trans (hput _ _ _ _)) (ite_eq (hput _ _ _ _) ?_)))
    refine (foldl_eq_of_step (fun t d => ite_eq (ih _ _ _) rfl) _ _).trans ?_
    exact (hp.modSrc _ _ _).trans ((hp.count _ _ _ _).trans (hput _ _ _ _))

theorem OffRings.assertIrq (s : State) (n : Nat) : p (s.assertIrq n) = p s := by
  refine (foldl_eq_of_step (fun t c => ite_eq (hp.putFallback _ _ _ _) rfl) _ _).trans ?_
  exact (hp.modSrc _ _ _).trans (hp.count _ _ _ _)

theorem OffRings.rawLine (s : State) (n : Nat) (high : Bool) : p (s.rawLine n high) = p s :=
  ite_eq (hp.modSrc _ _ _) (ite_eq rfl ((hp.assertIrq _ _).trans (hp.modSrc _ _ _)))

theorem OffRings.haltWindlass (s : State) (cause : Nat) : p (s.haltWindlass cause) = p s :=
  (hp.rawLine _ _ _).trans ((hp.raise _ _ _ _ _).trans (hp.host _ _ rfl))

theorem OffRings.takeConsumer {s t : State} {q i : Nat} (h : s.takeConsumer q i = some t) : p t = p s := by
  unfold State.takeConsumer at h
  dsimp only at h
  split at h
  · exact (congrArg p (Option.some.inj h)).symm.trans (hp.modQueue _ _ _)
  · cases h

theorem OffRings.refreshRoom (s : State) (q : Nat) : p (s.refreshRoom q) = p s := by
  refine ite_eq ?_ rfl
  split
  · split
    · next h => exact hp.takeConsumer h
    · exact (hp.raise _ _ _ _ _).trans (hp.count _ _ _ _)
  · exact hp.haltWindlass _ _

theorem OffRings.noteNoWrite (s : State) : p s.noteNoWrite = p s := ite_eq rfl (hp.host _ _ rfl)

theorem OffRings.postCompletion (s : State) (sq cid idx : Nat) (r : Reply) : p (s.postCompletion sq cid idx r) = p s := by
  have hroom (q : Nat) : p (s.refreshRoom q).noteNoWrite = p s := (hp.noteNoWrite _).trans (hp.refreshRoom _ _)
  refine ite_eq rfl (ite_eq ?_ ((hp.putEntry _ _ _).trans (hroom _)))
  refine Eq.trans ?_ (hroom (s.cqOf sq))
  exact hp.host _ _ rfl

end

@[simp] theorem State.assertIrq_twin (s : State) (n : Nat) : (s.assertIrq n).twin = s.twin := OffRings.twin.assertIrq s n

/-- A deferred command that ends is outstanding no longer (R290). -/
@[simp] theorem State.endDeferred_deferred (s : State) (d : Deferred) (r : Reply) : (s.endDeferred d r).host.deferred = s.host.deferred.erase d :=
  OffRings.deferred.postCompletion _ _ _ _ _

/-! ## A message that was delivered (R312) -/

/-- The first message that waits is taken when it is of the class that is asked for. -/
theorem State.onMsg_first {s : State} {d : TwDelivered} {rest : List TwDelivered} (hs : s.twin.link.delivered = d :: rest) {p : TwMsg → Bool}
    (hd : p d.msg = true) (f : State → TwDelivered → State) : s.onMsg p f = f (s.tookMsg d rest) d := by
  simp [State.onMsg, State.takeMsg, hs, hd, State.modLink, State.tookMsg]

/-- A command that acts on the first message that waits acts on it after its taking. -/
theorem exec_onMsg {c : Instr} {s : State} {d : TwDelivered} {rest : List TwDelivered} {p : TwMsg → Bool} {f : State → TwDelivered → State}
    (hc : exec c s = .next (s.onMsg p f)) (hs : s.twin.link.delivered = d :: rest) (hd : p d.msg = true) :
    exec c s = .next (f (s.tookMsg d rest) d) := hc.trans (congrArg _ (State.onMsg_first hs hd f))

/-- The twin with value `v` of alive counter `k` taken (R197). -/
def State.heardAlive (s : State) (k v : Nat) : State :=
  { s with twin := { s.twin with link := { s.twin.link with aliveRx := SMap.set (fun _ => none) s.twin.link.aliveRx k (some v) } } }

@[simp] theorem State.heardAlive_channel (s : State) (k v c : Nat) : (s.heardAlive k v).channel c = s.channel c := rfl
@[simp] theorem State.heardAlive_band (s : State) (k v : Nat) (i : BandId) : (s.heardAlive k v).band i = s.band i := rfl
@[simp] theorem State.heardAlive_nowT (s : State) (k v : Nat) : (s.heardAlive k v).nowT = s.nowT := rfl

/-- The first value of an alive counter that comes is taken as it is (R197). -/
theorem State.judgeAlive_first {s : State} {k : Nat} (h : SMap.get (fun _ => none) s.twin.link.aliveRx k = none) (v : Nat) :
    s.judgeAlive k v = (s.heardAlive k v, true) := by
  simp only [State.judgeAlive, h, judge]
  rfl

/-! ## What a sent message leaves -/

/-- A message that is sent, waits, or is dropped changes the link alone (R193–R196). -/
theorem State.twSend_cases (s : State) (m : TwMsg) : ∃ l, s.twSend m = { s with twin := { s.twin with link := l } } := by
  unfold State.twSend
  dsimp only
  split
  · exact ⟨s.twin.link, rfl⟩
  · split <;> exact ⟨_, rfl⟩

@[simp] theorem State.twSend_peerHello (s : State) (m : TwMsg) : (s.twSend m).twin.peerHello = s.twin.peerHello := by
  obtain ⟨l, hl⟩ := s.twSend_cases m
  rw [hl]

@[simp] theorem State.twSend_time (s : State) (m : TwMsg) : (s.twSend m).time = s.time := by
  obtain ⟨l, hl⟩ := s.twSend_cases m
  rw [hl]

@[simp] theorem State.twSend_host (s : State) (m : TwMsg) : (s.twSend m).host = s.host := by
  obtain ⟨l, hl⟩ := s.twSend_cases m
  rw [hl]

/-! ## The follower's time base (R409) -/

/-- A device that steers by no leader loses LOCKED alone. -/
theorem State.leaveTwinTime_own {s : State} (h : s.time.follower = false) (w : TwinSt) :
    { s with twin := w }.leaveTwinTime = { s with twin := { w with timeLocked := false } } := if_neg (by simp [h])

end Sys2Proof.Machine
end

section
/-!
TWIN_CONTROL's commands (O23).
-/
namespace Sys2Proof.Machine

/-! ## START and REJOIN (R198, R201, R221) -/

theorem State.tryCheck_noHello {s : State} (h : s.twin.peerHello = none) : s.tryCheck = s := by simp only [State.tryCheck, h]

/-- The twin as a start or a rejoin begins it; a leader's SESSION is the open value `chosen`. -/
def TwinSt.begun (w : TwinSt) (phase : TwinPhase) (follower rejoin : Bool) (now chosen : Nat) : TwinSt :=
  { w with phase := phase, follower := follower, rejoin := rejoin, startedAt := now, refuse := 0, timeLocked := false, lockRun := 0, skewRun := 0,
           session := if follower then w.session else chosen % 2 ^ 32, yielding := false, resyncDue := [], joinDue := [], ownArm := [], peerArm := [] }

/-- A start or a rejoin begins before the peer's HELLO has come: the command waits, and HELLO leaves where the link is up. -/
theorem State.beginTwin_noHello {s : State} (hn : s.twin.peerHello = none) (h : CmdHdr) (idx : Nat) (op : DeferredOp) (phase : TwinPhase)
    (follower rejoin : Bool) :
    s.beginTwin h idx op phase follower rejoin =
      let u := { s with freeCount := (if follower then s.freeCount else s.freeCount + 1),
                        twin := s.twin.begun phase follower rejoin s.now (Config.freeValue s.freeCount) }
      let u := u.addDeferred { sq := h.sq, cid := h.cid.toNat, idx := idx, op := op, since := s.now }
      if s.twin.link.up then u.twSend u.helloMsg else u := by
  have hhello (t : State) (ht : t.twin.peerHello = none) : (if t.twin.link.up then t.twSend t.helloMsg else t).tryCheck =
      if t.twin.link.up then t.twSend t.helloMsg else t :=
    State.tryCheck_noHello (ite_eq (p := fun t : State => t.twin.peerHello) ((t.twSend_peerHello _).trans ht) ht)
  cases follower
  · exact hhello _ hn
  · simp only [State.beginTwin, hn]
    exact hhello _ hn

section
variable {h : CmdHdr} {idx : Nat} {s : State}

theorem State.twinStart_refused (hs : s.twin.phase ≠ .disabled ∨ s.encodeLive = true) : s.twinStart h idx = (s, some { status := St.badState }) := if_pos hs

theorem State.twinStart_begins (hphase : s.twin.phase = .disabled) (hlive : s.encodeLive = false) (hroom : s.host.deferred.length < 16) :
    s.twinStart h idx = (s.beginTwin h idx .twinStart .linking s.roleFollower false, none) :=
  (if_neg (by simp [hphase, hlive])).trans (if_neg (Nat.not_le.mpr hroom))

theorem State.twinRejoin_refused (hd : s.twin.phase ≠ .disabled) (hs : s.twin.phase ≠ .survivor) :
    s.twinRejoin h idx = (s, some { status := St.badState }) := if_pos ⟨hs, hd⟩

theorem State.twinRejoin_survivor (hphase : s.twin.phase = .survivor) (hroom : s.host.deferred.length < 16) :
    s.twinRejoin h idx = (s.beginTwin h idx .twinRejoin .survivor false true, none) :=
  (if_neg (by simp [hphase])).trans ((if_neg (Nat.not_le.mpr hroom)).trans (if_pos hphase))

theorem State.twinRejoin_disabled (hphase : s.twin.phase = .disabled) (hroom : s.host.deferred.length < 16) :
    s.twinRejoin h idx = (s.beginTwin h idx .twinRejoin .linking true true, none) :=
  (if_neg (by simp [hphase])).trans ((if_neg (Nat.not_le.mpr hroom)).trans (if_neg (by simp [hphase])))

end

/-! ## STOP (R198, R201) -/

theorem State.endTwinStart_none {s : State} (h : s.twinStartOut = none) (status : Nat) : s.endTwinStart status = s := by
  simp only [State.endTwinStart, h]

theorem State.endTwinStart_some {s : State} {d : Deferred} (h : s.twinStartOut = some d) (w : TwinSt) (status : Nat) :
    { s with twin := w }.endTwinStart status = { s with twin := w }.endDeferred d { status := status } := by
  have hw : { s with twin := w }.twinStartOut = some d := h
  simp only [State.endTwinStart, hw]

/-- A stop with nothing outstanding, on a device that is no time follower. -/
theorem State.stopTwin_idle {s : State} (hout : s.twinStartOut = none) (htime : s.time.follower = false) :
    s.stopTwin =
      let u := s.twSend .bye
      { u with twin := { u.twin with phase := .disabled, follower := false, rejoin := false, peerHello := none, yielding := false, timeLocked := false } } := by
  unfold State.stopTwin
  rw [State.endTwinStart_none hout]
  exact State.leaveTwinTime_own ((congrArg TimeSt.follower (s.twSend_time .bye)).trans htime) _

/-! ## YIELD (R220) -/

/-- A yield stops the one running encode channel now. -/
theorem State.startYield_one {s : State} {c : Nat} {x : Channel} (hs : s.codec.channels = [(c, x)]) (hx : x.decode = false) (hrun : x.state = .running) :
    s.startYield = { s with twin := { s.twin with yielding := true } }.modChannel c fun x => { x with stopNs := some s.now } := by
  have hnow : ({ s with twin := { s.twin with yielding := true } }.channel c).state = .running := by simp [State.channel, hs, SMap.get, hrun]
  simp only [State.startYield, hs, List.foldl_cons, List.foldl_nil, hx, Bool.false_eq_true, if_false, hnow]
  rfl

/-- Settles O23: START, STOP, YIELD, REJOIN and RESET_PEER, each as a command of queue 0 that is ready runs its body. -/
theorem twinCommands : Obligations.TwinCommands := by
  refine ⟨fun h s hq hout hroom hn => ⟨fun hr hphase hlive => ?_, fun hr hphase => ?_, fun hr hphase => ?_⟩,
    fun h s hr hq hyield => ⟨fun hstop hstart htime => ?_, fun hphase hlive => ?_⟩,
    fun h c x s hr hq hout hphase hroom hone hx hrun => ?_,
    fun h s hq hout => ⟨fun hr hphase hup => ?_, fun hr hno => ?_, fun hr hphase => ?_, fun hr hno => ?_, fun hr hd hs => ?_⟩⟩
  · refine congrArg _ (hostCmd_left _ _ _ _ _ _ _ hr (.inr hq) hout _ ?_)
    rw [State.twinStart_begins (s := s.taken h) hphase hlive hroom, State.beginTwin_noHello (s := s.taken h) hn]
    rfl
  · refine congrArg _ (hostCmd_left _ _ _ _ _ _ _ hr (.inr hq) hout _ ?_)
    rw [State.twinRejoin_survivor (s := s.taken h) hphase hroom, State.beginTwin_noHello (s := s.taken h) hn]
    rfl
  · refine congrArg _ (hostCmd_left _ _ _ _ _ _ _ hr (.inr hq) hout _ ?_)
    rw [State.twinRejoin_disabled (s := s.taken h) hphase hroom, State.beginTwin_noHello (s := s.taken h) hn]
    rfl
  · refine congrArg _ (hostCmd_answered _ _ _ _ _ _ _ hr (.inr hq) (by simp [hyield]) _ _ ?_)
    refine (if_neg ?_).trans (by rw [State.stopTwin_idle (s := s.taken h) hstart htime])
    exact fun ⟨hphase, hlive⟩ => hstop.elim hphase fun hdead => absurd (hdead.symm.trans hlive) (by decide)
  · exact congrArg _ (hostCmd_answered _ _ _ _ _ _ _ hr (.inr hq) (by simp [hyield]) _ _ (if_pos ⟨hphase, hlive⟩))
  · refine congrArg _ (hostCmd_left _ _ _ _ _ _ _ hr (.inr hq) hout _ ?_)
    refine (if_neg (not_not_intro hphase)).trans ((if_neg (Nat.not_le.mpr hroom)).trans ?_)
    rw [State.startYield_one (s := s.taken h) hone hx hrun]
    rfl
  · exact congrArg _ (hostCmd_answered _ _ _ _ _ _ _ hr (.inr hq) hout _ _ (if_pos ⟨hphase, hup⟩))
  · refine congrArg _ (hostCmd_answered _ _ _ _ _ _ _ hr (.inr hq) hout _ _ (if_neg ?_))
    exact fun ⟨hphase, hup⟩ => hno.elim (fun hdown => absurd (hdown.symm.trans hup) (by decide)) fun ⟨htw, hsv⟩ => hphase.elim htw hsv
  · exact congrArg _ (hostCmd_answered _ _ _ _ _ _ _ hr (.inr hq) hout _ _ (if_pos hphase))
  · exact congrArg _ (hostCmd_answered _ _ _ _ _ _ _ hr (.inr hq) hout _ _ (State.twinStart_refused (s := s.taken h) hno))
  · exact congrArg _ (hostCmd_answered _ _ _ _ _ _ _ hr (.inr hq) hout _ _ (State.twinRejoin_refused (s := s.taken h) hd hs))

end Sys2Proof.Machine
end

section
/-!
The Twilan link's events and frames (O24).
-/
namespace Sys2Proof.Machine

/-! ## The link (R192, R223) -/

theorem exec_twilanLinkUp_up {s : State} (h : s.twin.link.up = true) : exec .twilanLinkUp s = .next s := if_pos h

theorem exec_twilanLinkDown_down {s : State} (h : s.twin.link.up = false) : exec .twilanLinkDown s = .next s := if_neg (by simp [h])

/-! ## LINK frames and retransmission (R195) -/

theorem exec_twilanLinkFrame_idle {s : State} (hup : s.twin.link.up = true) (hsafe : s.flt.safe = false) (hwait : s.twin.link.waiting = [])
    (hquiet : s.twin.link.lastTx + 500 ≤ s.now) :
    exec .twilanLinkFrame s = .next (s.modLink fun l =>
      { l with lastTx := s.now, wire := twSent l.nextFseq false false l.expect s.twin.session none :: l.wire }) :=
  if_neg (by simp [hup, hsafe, hwait, Nat.not_lt.mpr hquiet])

/-- The oldest outstanding frame is sent again: its time is renewed, and the others stay as they are. -/
theorem State.twResend_first {s : State} {o : TwFrame} {rest : List TwFrame} (ho : s.twin.link.outstanding = o :: rest)
    (hrest : ∀ p ∈ rest, p.fseq ≠ o.fseq) :
    s.twResend o.fseq = (s.modLink fun l =>
      { l with outstanding := { o with sentAt := s.now } :: rest, lastTx := s.now, wire := twSent o.fseq true false l.expect s.twin.session (some o.msg) :: l.wire }).count
        (Reg.twn + 0x28) 16 1 := by
  have hkept : rest.map (fun p => if p.fseq = o.fseq then { p with sentAt := s.now } else p) = rest :=
    (List.map_congr_left fun p hp => if_neg (hrest p hp)).trans (List.map_id' rest)
  simp [State.twResend, ho, State.modLink, hkept]

theorem exec_twilanRetransmit_due {s : State} {o : TwFrame} {rest : List TwFrame} (hup : s.twin.link.up = true) (hsafe : s.flt.safe = false)
    (ho : s.twin.link.outstanding = o :: rest) (hseq : o.fseq < 65536) (hdue : o.sentAt + 4000 ≤ s.now) :
    exec (.twilanRetransmit o.fseq) s = .next (s.twResend o.fseq) :=
  (if_pos hseq).trans (congrArg _ (if_pos (by simp [hup, hsafe, ho, hdue])))

/-! ## The bytes of a frame (R193) -/

@[simp] theorem recBytes_length (v n : Nat) : (recBytes v n).length = n := by simp [recBytes]

theorem twSent_frame_length (fseq : Nat) (retx nak : Bool) (ack session : Nat) (m : TwMsg) :
    (twSent fseq retx nak ack session (some m)).frame.length = 20 + (twPayload m).length := by
  simp [twSent]
  omega

theorem recBytes_succ (v n : Nat) : recBytes v (n + 1) = v % 256 :: recBytes (v / 256) n := by
  simp [recBytes, List.range_succ_eq_map, Function.comp_def, Nat.pow_succ', Nat.div_div_eq_div_mul]

/-- Bytes spell the record that they were cut from. -/
theorem wordData_recBytes (n v : Nat) : wordData (recBytes v n) = v % 256 ^ n := by
  induction n generalizing v with
  | zero => simp [recBytes, wordData, Nat.mod_one]
  | succ n ih =>
    rw [recBytes_succ, Nat.pow_succ', Nat.mod_mul, ← ih]
    rfl

theorem map_toNat_ofNat_recBytes (v n : Nat) : ((recBytes v n).map (BitVec.ofNat 8)).map BitVec.toNat = recBytes v n := by
  simp [recBytes]

theorem twMessage_heartbeat {v : Nat} {f : RxTwilan} (hv : v < 2 ^ 128) (hcls : twHdrClass f.hdr = 5)
    (hf : f.payload = (recBytes v 16).map (BitVec.ofNat 8)) : twMessage f = some (.heartbeat v) := by
  have hword : wordData (recBytes v 16) = v := (wordData_recBytes 16 v).trans (Nat.mod_eq_of_lt hv)
  simp only [twMessage, hcls, hf, map_toNat_ofNat_recBytes, recBytes_length, if_true, hword]

/-! ## Frame numbers (R195) -/

theorem TwilanSt.mark_expect {l : TwilanSt} (h : l.above = []) :
    l.mark l.expect = { l with expect := (l.expect + 1) % 65536, nakAt := SMap.set (fun _ => none) l.nakAt l.expect none } := by
  simp [TwilanSt.mark, TwilanSt.advance, h]

theorem TwilanSt.accepted_expect {l : TwilanSt} (he : l.expect < 65536) (h : l.above = []) : l.accepted l.expect = false := by
  simp [TwilanSt.accepted, fseqBefore, h, Nat.mod_eq_of_lt he]

theorem TwilanSt.missing_expect (l : TwilanSt) : l.missing l.expect = [] := by simp [TwilanSt.missing]

/-! ## Frames received (R194) -/

section
variable {s : State} {f : RxTwilan} (hup : s.twin.link.up = true)
include hup

theorem State.receiveTwilan_badHeader (hh : twHcrcOk f = false) :
    s.receiveTwilan f = (s.count (Reg.twn + 0x20) 16 1).raise Src.twilan Kind.hdrDamaged 0 (twHdrFseq f.hdr) := by
  simp [State.receiveTwilan, hup, hh]

theorem State.receiveTwilan_badPayload (hh : twHcrcOk f = true) (hp : twPcrcOk f = false)
    (hold : twHdrClass f.hdr = 0 ∨ s.twin.link.accepted (twHdrFseq f.hdr) = true) :
    s.receiveTwilan f = (s.count (Reg.twn + 0x24) 16 1).raise Src.twilan Kind.payloadDamaged 0 (twHdrFseq f.hdr) :=
  (if_neg (by simp [hup])).trans ((if_neg (by simp [hh])).trans ((if_pos hp).trans (if_pos hold.symm)))

theorem State.receiveTwilan_otherSession (hh : twHcrcOk f = true) (hp : twPcrcOk f = true) (hs : s.sessionOk f = false) : s.receiveTwilan f = s := by
  simp [State.receiveTwilan, hup, hh, hp, hs]

theorem State.receiveTwilan_good (hh : twHcrcOk f = true) (hp : twPcrcOk f = true) (hs : s.sessionOk f = true) : s.receiveTwilan f = s.takeFrame f := by
  simp [State.receiveTwilan, hup, hh, hp, hs]

end

/-- With nothing outstanding an acknowledgement does nothing. -/
theorem State.takeAck_idle {s : State} (ho : s.twin.link.outstanding = []) (hw : s.twin.link.waiting = []) (ack : Nat) : s.takeAck ack = s := by
  have hkept : (s.twin.link.outstanding.filter fun o => !fseqBefore o.fseq ack) = s.twin.link.outstanding := by simp [ho]
  have hsame : s.modLink (fun l => { l with outstanding := l.outstanding.filter fun o => !fseqBefore o.fseq ack }) = s := by
    simp only [State.modLink, hkept]
  simp [State.takeAck, hsame, hw, State.twPump]

/-- The next frame in order, of a class and version that the link knows, is accepted and its message delivered in the cells that it gets. -/
theorem State.takeFrame_next {s t : State} {f : RxTwilan} {m : TwMsg} {cells : List Nat} (ho : s.twin.link.outstanding = []) (hw : s.twin.link.waiting = [])
    (ha : s.twin.link.above = []) (hnak : twHdrNak f.hdr = false) (hq : twHdrFseq f.hdr = s.twin.link.expect) (he : s.twin.link.expect < 65536)
    (hv : twHdrVersion f.hdr = 1) (hc0 : twHdrClass f.hdr ≠ 0) (hc8 : twHdrClass f.hdr < 8) (hm : twMessage f = some m)
    (hcells : State.allocCells (chainLen f.payload.length) s 18 [] = (t, some cells)) :
    s.takeFrame f = (t.storeFrame cells f.payload).modLink fun l =>
      { l.mark (twHdrFseq f.hdr) with delivered := l.delivered ++ [{ msg := m, cells := cells, at_ := s.nowQ }] } := by
  have hnew : s.twin.link.accepted (twHdrFseq f.hdr) = false := by rw [hq, TwilanSt.accepted_expect he ha]
  have hnone : s.twin.link.missing (twHdrFseq f.hdr) = [] := by rw [hq, TwilanSt.missing_expect]
  have hknown : ¬ ((twHdrVersion f.hdr ≠ 1 ∧ twCheck f = false) ∨ 8 ≤ twHdrClass f.hdr) := by
    rintro (⟨hver, _⟩ | hcls)
    · exact hver hv
    · omega
  unfold State.takeFrame
  simp only [hnak, Bool.false_eq_true, if_false, State.takeAck_idle ho hw, hnew, hnone, hc0, decide_false, Bool.or_false, List.foldl_nil, if_neg hknown, hm, hcells]

/-- Settles O24: the link's events one by one, and the cases of a frame that comes. -/
theorem twilanLinkEvents : Obligations.TwilanLinkEvents := by
  refine ⟨fun s hdown => if_neg (by simp [hdown]), fun s hup => ⟨exec_twilanLinkUp_up hup, if_pos hup⟩, fun s => exec_twilanLinkDown_down,
    fun s => exec_twilanLinkFrame_idle, fun o rest s hup hsafe ho hseq hdue hrest => ?_, fun fseq ack session retx nak msg => ?_,
    fun f s hup => ⟨fun hh => ?_, fun hh hp hold => ?_, fun hh hp hs => ?_⟩,
    fun f m cells t s hup hh hp hs ho hw ha hnak hq he hv hc0 hc8 hm hcells => ?_, fun v f => twMessage_heartbeat, fun l => TwilanSt.mark_expect⟩
  · exact (exec_twilanRetransmit_due hup hsafe ho hseq hdue).trans (congrArg _ (State.twResend_first ho hrest))
  · cases msg with
    | none => exact ⟨rfl, nofun⟩
    | some m => exact ⟨rfl, fun _ => twSent_frame_length fseq retx nak ack session m⟩
  · exact congrArg _ (State.receiveTwilan_badHeader hup hh)
  · exact congrArg _ (State.receiveTwilan_badPayload hup hh hp hold)
  · exact congrArg _ (State.receiveTwilan_otherSession hup hh hp hs)
  · exact congrArg _ ((State.receiveTwilan_good hup hh hp hs).trans (State.takeFrame_next ho hw ha hnak hq he hv hc0 hc8 hm hcells))

end Sys2Proof.Machine
end

section
/-!
How a twin starts: HELLO, CHECK, the exchange of times, the TWINNED notice, ARM messages and START_TIMEOUT (O25).
-/
namespace Sys2Proof.Machine

/-! ## HELLO and CHECK (R199) -/

/-- A HELLO with READY takes a device that starts to CHECKING at once; the leader's SESSION comes with it. -/
theorem State.onHello_eq (s : State) (session : Nat) (ready leader : Bool) :
    s.onHello session ready leader =
      let u := { s with twin := { s.twin with peerHello := some (session, ready),
                                              session := if s.twin.follower && leader && s.awaitsHello then session else s.twin.session } }
      if ready && u.awaitsHello && u.twin.link.up then { u with twin := { u.twin with phase := .checking, peerHello := none } }.twSend u.checkMsg else u := by
  cases ready <;> rfl

theorem State.onCheck_fails {s : State} {cause : Nat} (h : cause ≠ 0) :
    s.onCheck cause = { s with twin := { s.twin with phase := .refused, refuse := cause } }.endTwinStart St.twinRefused := if_pos h

theorem State.onCheck_leader {s : State} (h : s.twin.follower = false) :
    s.onCheck 0 = { s with twin := { s.twin with phase := .locking, lockRun := 0, skewRun := 0 } } := by
  simp [State.onCheck, h]

theorem State.onCheck_follower {s : State} (h : s.twin.follower = true) :
    s.onCheck 0 = { s with twin := { s.twin with phase := .locking, lockRun := 0, skewRun := 0 } }.enterTwinTime := if_pos h

/-! ## The exchange of times (R200, R409) -/

theorem State.exchangeDue_of_due {s : State} (h : ∀ t, s.twin.timeSent = some t → t + 10000 ≤ s.now) : s.exchangeDue = true := by
  unfold State.exchangeDue
  split
  · next t ht => simp [h t ht]
  · rfl

theorem State.exchangeDue_early {s : State} {t : Nat} (ht : s.twin.timeSent = some t) (hle : t ≤ s.now) (hlt : s.now < t + 10000) :
    s.exchangeDue = false := by
  simp [State.exchangeDue, ht, hle, hlt]

section
variable {s : State} {o : Int} (hp : s.twin.phase = .twinned)
include hp

/-- In TWINNED a small offset ends a row of large ones. -/
theorem State.judgeTwinOffset_small (h : |o| ≤ 16) : s.judgeTwinOffset o = { s with twin := { s.twin with timeOfs := o, skewRun := 0 } } := by
  simp [State.judgeTwinOffset, hp, h]

/-- In TWINNED a large offset after a small one is the first of a row. -/
theorem State.judgeTwinOffset_large (h : 16 < |o|) (hrun : s.twin.skewRun = 0) :
    s.judgeTwinOffset o = { s with twin := { s.twin with timeOfs := o, skewRun := 1 } } := by
  simp [State.judgeTwinOffset, hp, not_le.mpr h, hrun]

end

theorem State.steerTwin_host {s : State} (h : s.field Reg.timeCfg 0 1 = 1) (w : TwinSt) (o : Int) :
    { s with twin := w }.steerTwin o = { s with twin := w } := if_pos h

theorem State.steerTwin_step {s : State} {o : Int} (h : s.field Reg.timeCfg 0 1 = 0) (ho : 4000 < |o|) (w : TwinSt) :
    { s with twin := w }.steerTwin o = { s with twin := w, time := { s.time with step := some (.by (-(Int.tdiv o 4))), valid := true } } :=
  (if_neg fun hhost => absurd (h.symm.trans hhost) (by decide)).trans (if_pos ho)

section
variable {s : State} {t1 t2 t3 at_ : Nat} {cells : List Nat}

theorem State.onTime_request (h : s.twin.follower = false) : s.onTime ⟨.timeRequest t1, cells, at_⟩ = s.twSend (.timeResponse t1 at_ s.nowQ) :=
  if_neg (by simp [h])

theorem State.onTime_response (hf : s.twin.follower = true) (hp : s.twin.phase = .twinned) :
    s.onTime ⟨.timeResponse t1 t2 t3, cells, at_⟩ =
      ({ s with twin := { s.twin with timeDelay := twinDelay t1 t2 t3 at_ } }.judgeTwinOffset (twinOffset t1 t2 t3 at_)).steerTwin
        (twinOffset t1 t2 t3 at_) :=
  if_pos (by simp [hf, hp])

/-- A small offset is noted; the rate is the host's. -/
theorem State.onTime_small (hf : s.twin.follower = true) (hp : s.twin.phase = .twinned) (hhost : s.field Reg.timeCfg 0 1 = 1)
    (hsmall : |twinOffset t1 t2 t3 at_| ≤ 16) :
    s.onTime ⟨.timeResponse t1 t2 t3, cells, at_⟩ =
      { s with twin := { s.twin with timeDelay := twinDelay t1 t2 t3 at_, timeOfs := twinOffset t1 t2 t3 at_, skewRun := 0 } } := by
  have hdelayed : { s with twin := { s.twin with timeDelay := twinDelay t1 t2 t3 at_ } }.twin.phase = .twinned := hp
  rw [State.onTime_response hf hp, State.judgeTwinOffset_small hdelayed hsmall]
  exact State.steerTwin_host hhost _ _

/-- A first offset above 1 µs steps the time base. -/
theorem State.onTime_large (hf : s.twin.follower = true) (hp : s.twin.phase = .twinned) (hown : s.field Reg.timeCfg 0 1 = 0)
    (hlarge : 4000 < |twinOffset t1 t2 t3 at_|) (hrun : s.twin.skewRun = 0) :
    s.onTime ⟨.timeResponse t1 t2 t3, cells, at_⟩ =
      { s with twin := { s.twin with timeDelay := twinDelay t1 t2 t3 at_, timeOfs := twinOffset t1 t2 t3 at_, skewRun := 1 },
               time := { s.time with step := some (.by (-(Int.tdiv (twinOffset t1 t2 t3 at_) 4))), valid := true } } := by
  have hdelayed : { s with twin := { s.twin with timeDelay := twinDelay t1 t2 t3 at_ } }.twin.phase = .twinned := hp
  rw [State.onTime_response hf hp, State.judgeTwinOffset_large hdelayed (by omega) hrun]
  exact State.steerTwin_step hown hlarge _

end


/-! ## ARM messages (R191) -/

section
variable {s : State} {c : Nat} {peer : Nat × Nat}

theorem State.onArm_waits (hc : c < 128) (hn : s.startOf c = none) (hr : s.twin.rejoin = false) : s.onArm c peer = s.setPeerArm c (some peer) := by
  simp [State.onArm, Nat.not_le.mpr hc, hn, hr]

/-- The peer's ARM meets this device's own: the start ends as their match says. -/
theorem State.onArm_meets {k : Deferred} {join : Bool} {own : Nat × Nat} (hc : c < 128) (hk : s.startOf c = some k) (hop : k.op = .channelStart c join)
    (hown : s.ownArm c = some own) : s.onArm c peer = (s.matchArms c own peer join).1.endDeferred k (s.matchArms c own peer join).2 := by
  simp only [State.onArm, if_neg (Nat.not_le.mpr hc), hk, hown, hop]

theorem State.matchArms_equal (join : Bool) : s.matchArms c peer peer join = ((s.setOwnArm c none).setPeerArm c none).armChannel c peer.2 join := if_pos rfl

theorem State.matchArms_different {own : Nat × Nat} (h : own ≠ peer) (join : Bool) :
    s.matchArms c own peer join = ((s.setOwnArm c none).setPeerArm c none, { status := St.twinRefused }) := if_neg h

end

/-! ## START_TIMEOUT (R191, R201, R224) -/

theorem exec_startTimeout (s : State) : exec .startTimeout s = .next s.twinTimeout.channelTimeouts := rfl

section
variable {s : State} {k : Deferred} (hk : s.host.deferred = [k])
include hk

theorem State.twinStartOut_one (hop : k.op = .twinStart) : s.twinStartOut = some k := by simp [State.twinStartOut, State.findDeferred, hk, hop]

theorem State.twinTimeout_channelStart {c : Nat} {join : Bool} (hop : k.op = .channelStart c join) : s.twinTimeout = s := by
  simp [State.twinTimeout, State.twinStartOut, State.findDeferred, hk, hop]

/-- A first start that has waited START_TIMEOUT in LINKING ends in DISABLED. -/
theorem State.twinTimeout_linking (hop : k.op = .twinStart) (hphase : s.twin.phase = .linking) (hrejoin : s.twin.rejoin = false)
    (htime : s.time.follower = false) (hdue : s.twin.startedAt + s.startLimit ≤ s.now) :
    s.twinTimeout =
      { s with twin := { s.twin with phase := .disabled, rejoin := false, refuse := 8, follower := false, timeLocked := false } }.endDeferred k
        { status := St.timeout } := by
  have hstart := State.twinStartOut_one hk hop
  refine (if_pos (by simp [hstart, hphase, hdue])).trans ?_
  rw [hrejoin]
  exact (congrArg (State.endTwinStart · St.timeout) (State.leaveTwinTime_own htime _)).trans (State.endTwinStart_some hstart _ _)

theorem State.channelTimeouts_one {c : Nat} {join : Bool} (hop : k.op = .channelStart c join) (hdue : k.since + s.startLimit ≤ s.now) :
    s.channelTimeouts = ((s.setOwnArm c none).twSend (.armWithdraw c)).endDeferred k { status := St.timeout } := by
  have hstart : s.startOf c = some k := by simp [State.startOf, State.findDeferred, hk, hop]
  simp only [State.channelTimeouts, hk, List.foldl_cons, List.foldl_nil, hop, if_pos hdue, State.withdrawStart, hstart]

end

theorem State.channelTimeouts_none {s : State} (h : s.host.deferred = []) : s.channelTimeouts = s := by
  simp only [State.channelTimeouts, h, List.foldl_nil]

/-- Settles O25: each message of a start acts on the state that its taking leaves, and START_TIMEOUT ends the one command that waits. -/
theorem twinStartSequence : Obligations.TwinStartSequence := by
  refine ⟨fun v session at_ ready leader cells rest s hs => ?_, fun version part firmware at_ vendor opened leader cells rest s hphase hs => ?_,
    fun s hf hphase hsent => ?_, fun t s h => ?_, fun t1 at_ cells rest s hs hf => ?_, fun t1 t2 t3 t4 cells rest s hs hf hphase => ?_,
    fun at_ cells rest s hs hphase hf => ?_, fun c dg startNs at_ cells rest s hc hs => ?_, fun c at_ cells rest s hc hs => ?_,
    fun k c join s hk hop hdue => ?_, fun k s hk hop hphase hrejoin htime hdue => ?_⟩
  · exact (exec_onMsg rfl hs rfl).trans (congrArg _ (State.onHello_eq _ session ready leader))
  · have hcheck := exec_onMsg (c := .check) (congrArg _ (if_neg (not_not_intro hphase))) hs rfl
    refine ⟨fun hc => hcheck.trans (congrArg _ (State.onCheck_fails hc)), fun hc hf => hcheck.trans (congrArg _ ?_),
      fun hc hf => hcheck.trans (congrArg _ ?_)⟩
    · exact (congrArg _ hc).trans (State.onCheck_leader hf)
    · exact (congrArg _ hc).trans (State.onCheck_follower hf)
  · refine congrArg _ (if_pos ?_)
    simp [hf, hphase, State.exchangeDue_of_due hsent]
  · refine congrArg _ (if_neg ?_)
    rcases h with hf | ⟨ht, hle, hlt⟩
    · simp [hf]
    · simp [State.exchangeDue_early ht hle hlt]
  · exact (exec_onMsg rfl hs rfl).trans (congrArg _ (State.onTime_request hf))
  · have htime := exec_onMsg (c := .time) rfl hs rfl
    exact ⟨fun hhost hsmall => htime.trans (congrArg _ (State.onTime_small hf hphase hhost hsmall)),
      fun hown hlarge hrun => htime.trans (congrArg _ (State.onTime_large hf hphase hown hlarge hrun))⟩
  · exact (exec_onMsg rfl hs rfl).trans (congrArg _ (if_pos ⟨hphase, hf⟩))
  · have harm := exec_onMsg (c := .arm) rfl hs rfl
    refine ⟨fun hn hr => harm.trans (congrArg _ (State.onArm_waits hc hn hr)), fun k join hk hop => ⟨fun hown => ?_, fun own hown hne => ?_⟩⟩
    · refine harm.trans (congrArg _ ((State.onArm_meets hc hk hop hown).trans ?_))
      rw [State.matchArms_equal]
      rfl
    · refine harm.trans (congrArg _ ((State.onArm_meets hc hk hop hown).trans ?_))
      rw [State.matchArms_different hne]
  · exact (exec_onMsg rfl hs rfl).trans (congrArg _ (if_pos hc))
  · rw [exec_startTimeout, State.twinTimeout_channelStart hk hop, State.channelTimeouts_one hk hop hdue]
  · rw [exec_startTimeout, State.twinTimeout_linking hk hop hphase hrejoin htime hdue, State.channelTimeouts_none (by simp [hk])]

end Sys2Proof.Machine
end

section
/-!
How a twin is watched and lost: heartbeats, BYE, the yield input, the peer's reset request (O26).
-/
namespace Sys2Proof.Machine

/-! ## The peer's loss (R217, R218) -/

theorem State.peerLost_notTwinned {s : State} (h : s.twin.phase ≠ .twinned) : s.peerLost = s := if_pos h

/-- Without channels the loss is told, and the device is SURVIVOR. -/
theorem State.peerLost_noChannels {s : State} (hp : s.twin.phase = .twinned) (hc : s.codec.channels = []) (ht : s.time.follower = false) :
    s.peerLost =
      { { s with freeCount := s.freeCount + 1 }.raise Src.twin Kind.twinLost 0 (Config.freeValue s.freeCount) with
        twin := { s.twin with phase := .survivor, follower := false, rejoin := false, lostAt := s.now, hbMissed := 0, resyncDue := [], joinDue := [],
                              peerHello := none, timeLocked := false } } := by
  let told := { s with freeCount := s.freeCount + 1 }.raise Src.twin Kind.twinLost 0 (Config.freeValue s.freeCount)
  have hnone : told.codec.channels = [] := hc
  refine (if_neg (not_not_intro hp)).trans ?_
  simp only [State.takeFree, hnone, told, List.filter_nil, List.map_nil, List.foldl_nil]
  exact State.leaveTwinTime_own (s := told) ht _

/-! ## Heartbeats (R197, R217) -/

theorem State.sendHeartbeat_due {s : State} (hup : s.twin.link.up = true) (ht : s.now % 10000 ≤ 40) (hn : s.twin.hbSent ≠ some (s.now / 10000 * 10000)) :
    s.sendHeartbeat =
      let a := { s with twin := { s.twin with hbSent := some (s.now / 10000 * 10000) } }.nextAlive 256
      a.1.twSend (.heartbeat (packFields [(8, a.2), (3, s.twin.phase.code), (1, b2n s.twinReady), (1, b2n s.twin.follower), (51, 0),
        (64, s.now / 10000 * 10000)])) := by
  refine if_neg ?_
  rintro (hdown | hlate | hsent)
  · exact absurd (hup.symm.trans hdown) (by decide)
  · omega
  · exact hn hsent

theorem State.sendHeartbeat_idle {s : State} (h : s.twin.link.up = false ∨ 40 < s.now % 10000 ∨ s.twin.hbSent = some (s.now / 10000 * 10000)) :
    s.sendHeartbeat = s := by
  have hlate : s.now - s.now / 10000 * 10000 = s.now % 10000 := by omega
  exact if_pos (by rwa [hlate])

theorem State.onHeartbeat_ready {s : State} {v : Nat} (ha : SMap.get (fun _ => none) s.twin.link.aliveRx 256 = none) (hv : bitAt v 11 = true) (at_ : Nat) :
    s.onHeartbeat v at_ =
      let t := s.heardAlive 256 (v % 256)
      { t with twin := { t.twin with peerReady := true, peerTwinned := decide (bitsAt v 8 3 = 4), hbSeen := s.twin.seen (bitsAt v 64 64) at_ } } := by
  simp only [State.onHeartbeat, State.judgeAlive_first ha, hv, if_true]
  rfl

/-- Heartbeat `due` is judged: it came, and the row of missed ones ends; or it is counted, and the third of a row loses the peer. -/
theorem State.judgeHeartbeat_due {s : State} (hp : s.twin.phase = .twinned) (ht : (s.twin.hbJudged / 10000 + 1) * 10000 + 6000 ≤ s.now) :
    s.judgeHeartbeat =
      let due := (s.twin.hbJudged / 10000 + 1) * 10000
      if due ∈ s.twin.hbSeen then { s with twin := { s.twin with hbJudged := due, hbMissed := 0 } }
      else
        let t := { s with twin := { s.twin with hbJudged := due, hbMissed := s.twin.hbMissed + 1 } }.count (Reg.twn + 0x34) 16 1
        if 2 ≤ s.twin.hbMissed then t.peerLost else t := by
  refine (if_neg (by simp [hp, Nat.not_lt.mpr ht])).trans ?_
  by_cases hseen : (s.twin.hbJudged / 10000 + 1) * 10000 ∈ s.twin.hbSeen
  · simp [hseen]
  · simp [hseen, State.count]

/-! ## BYE (R201, R217) -/

theorem State.onBye_twinned {s : State} (h : s.twin.phase = .twinned) : s.onBye = { s with twin := { s.twin with peerHello := none } }.peerLost := if_pos h

theorem State.onBye_idle {s : State} (h : s.twin.phase ≠ .twinned) (hn : s.twinStartOut = none) :
    s.onBye = { s with twin := { s.twin with peerHello := none } } := by
  refine (if_neg h).trans (if_neg ?_)
  rintro ⟨-, hout⟩
  exact absurd hn (Option.isSome_iff_ne_none.mp hout)

/-! ## The yield input (R217, R451) -/

theorem exec_twinYieldNInput_changed {s : State} {a : Bool} (h : s.twin.yieldIn ≠ a) :
    exec (.twinYieldNInput a) s =
      .next (if a then ({ s with twin := { s.twin with yieldIn := a } }.assertIrq 49).peerLost
        else { s with twin := { s.twin with yieldIn := a } }.assertIrq 49) := by
  simp only [exec, execTwinYieldNInput, if_neg h]

theorem exec_twinYieldNInput_same {s : State} {a : Bool} (h : s.twin.yieldIn = a) :
    exec (.twinYieldNInput a) s = .next (if a then s.peerLost else s) := by
  subst h
  simp only [exec, execTwinYieldNInput, if_true]

/-- The peer is lost at the input only where it is asserted in TWINNED. -/
theorem State.peerLost_ifYielded {s : State} {a : Bool} (h : a = false ∨ s.twin.phase ≠ .twinned) : (if a then s.peerLost else s) = s := by
  rcases h with rfl | hp
  · rfl
  · rw [State.peerLost_notTwinned hp, ite_self]

/-! ## Yield (R220, R222) -/

/-- A yield ends once no encode channel is live: TWIN_YIELD_N, BYE, YIELDED. -/
theorem State.completeYield_done {s : State} (hy : s.twin.yielding = true) (hl : s.encodeLive = false) (hp : s.twin.phase = .twinned)
    (ht : s.time.follower = false) :
    s.completeYield =
      let b := s.twSend .bye
      { b with yieldN := true, twin := { b.twin with phase := .yielded, yielding := false, timeLocked := false } }.endYield St.ok := by
  refine (if_neg (by simp [hy, hl])).trans ((if_pos hp).trans ?_)
  have htime : (s.twSend .bye).time.follower = false := (congrArg TimeSt.follower (s.twSend_time .bye)).trans ht
  exact congrArg (State.endYield · St.ok) (State.leaveTwinTime_own (s := { s.twSend .bye with yieldN := true }) htime _)

section
variable {s : State}

/-- Without a YIELD that waits nothing completes. -/
theorem State.endYield_none (h : (s.findDeferred fun o => decide (o = .twinYield)) = none) (status : Nat) : s.endYield status = s := by
  simp only [State.endYield, h]

theorem State.endYield_some {d : Deferred} (h : (s.findDeferred fun o => decide (o = .twinYield)) = some d) (status : Nat) :
    s.endYield status = s.endDeferred d { status := status } := by
  simp only [State.endYield, h]

end

/-- Settles O26: heartbeats out, in and missing; then BYE, the loss itself, the reset request, the yield input and an idle timing output. -/
theorem twinIsWatchedAndLost : Obligations.TwinIsWatchedAndLost := by
  refine ⟨fun s hup ht hn => congrArg _ (State.sendHeartbeat_due hup ht hn), fun s h => congrArg _ (State.sendHeartbeat_idle h),
    fun v at_ cells rest s hs ha hv => (exec_onMsg rfl hs rfl).trans (congrArg _ (State.onHeartbeat_ready ha hv at_)),
    fun s hp ht => ?_, fun at_ cells rest s hs => ?_, fun s => State.peerLost_noChannels, fun at_ cells rest s hs => ?_, fun a s => ?_,
    fun s hy hl hp ht => ?_, fun s h => congrArg _ (if_pos h), fun c x s hp hs hx hrun => ?_, fun s hp => congrArg _ (if_neg hp)⟩
  · have hjudged : exec .heartbeatMiss s = .next _ := congrArg Host.Outcome.next (State.judgeHeartbeat_due hp ht)
    exact ⟨fun hseen => hjudged.trans (congrArg _ (if_pos hseen)),
      fun hmissed hfew => hjudged.trans (congrArg _ ((if_neg hmissed).trans (if_neg (Nat.not_le.mpr hfew)))),
      fun hmissed hrow => hjudged.trans (congrArg _ ((if_neg hmissed).trans (if_pos hrow)))⟩
  · have hbye := exec_onMsg (c := .bye) rfl hs rfl
    exact ⟨fun hp => hbye.trans (congrArg _ (State.onBye_twinned hp)), fun hp hn => hbye.trans (congrArg _ (State.onBye_idle hp hn))⟩
  · have hreset := exec_onMsg (c := .resetPeerRequest) rfl hs rfl
    exact ⟨fun h => hreset.trans (congrArg _ (if_pos h)), fun h => hreset.trans (congrArg _ (if_neg (by simp [h])))⟩
  · refine ⟨fun hne hno => (exec_twinYieldNInput_changed hne).trans (congrArg _ (State.peerLost_ifYielded ?_)),
      fun heq hno => (exec_twinYieldNInput_same heq).trans (congrArg _ (State.peerLost_ifYielded hno)), fun hfalse ha hp => ?_⟩
    · rwa [State.assertIrq_twin]
    · subst ha
      exact (exec_twinYieldNInput_changed (by simp [hfalse])).trans rfl
  · have hdone : exec .yieldComplete s = .next _ := congrArg Host.Outcome.next (State.completeYield_done hy hl hp ht)
    have hhost : (s.twSend .bye).host.deferred = s.host.deferred := congrArg HostSt.deferred (s.twSend_host .bye)
    refine ⟨fun hn => hdone.trans (congrArg _ (State.endYield_none ?_ _)), fun k hk => hdone.trans (congrArg _ (State.endYield_some ?_ _))⟩
    · exact (congrArg (List.find? _) hhost).trans hn
    · exact (congrArg (List.find? _) hhost).trans hk
  · exact (congrArg _ (if_pos hp)).trans (congrArg _ (State.startYield_one hs hx hrun))

end Sys2Proof.Machine
end

section
/-!
The ledger: tokens made, taken and missing, and divergence told to the leader (O31).
-/
namespace Sys2Proof.Machine

/-! ## LEDGER_POINT (R203, R204) -/

theorem exec_ledgerPoint {c p : Nat} (hc : c < 128) (s : State) : exec (.ledgerPoint c p) s = .next (s.ledgerPoint c p) := if_pos hc

section
variable {c p : Nat} {s : State}

theorem State.ledgerPoint_closed (h : s.twin.phase ≠ .twinned ∨ s.twin.follower = true ∨ (s.channel c).decode = true) : s.ledgerPoint c p = s := by
  refine if_neg ?_
  rcases h with h | h | h <;> simp [h]

/-- The leader makes the token of a channel in step whose resync and join are not asked for. -/
theorem State.ledgerPoint_makes (hphase : s.twin.phase = .twinned) (hleads : s.twin.follower = false) (hjoin : c ∉ s.twin.joinDue)
    (hresync : c ∉ s.twin.resyncDue) (hd : (s.channel c).decode = false) (hst : (s.channel c).state = .armed ∨ (s.channel c).state = .running)
    (htw : (s.channel c).twinState = .inStep) (hnew : SMap.get (fun _ => none) (s.channel c).tokens p = none) (hn : ((s.channel c).pic p).named = false)
    (ht : (s.channel c).ledgerAt p ≤ s.nowT) :
    s.ledgerPoint c p =
      let x := s.channel c
      let r := x.makeToken c p x.sentPkts false false
      let u := s.modChannel c fun _ => r.1
      let u := if r.2.carried then u.raise (Src.tambour + x.tambour) Kind.planLate (addrP c p 0xFF) x.tambour else u
      let a := u.nextAlive (128 + c)
      a.1.twSend (.ledger (r.2.record c a.2)) := by
  refine (if_pos ?_).trans ?_
  · simp [hphase, hleads, hjoin, hd, hst, htw, hnew, hn, ht]
  · simp [hjoin, hresync]

end

/-! ## LEDGER (R204, R205) -/

/-- A token that comes in time to a channel that does not join is kept, and settles its group. -/
theorem State.onLedger_takes {v : Nat} {s : State} (hphase : s.twin.phase = .twinned) (hfol : s.twin.follower = true)
    (ha : SMap.get (fun _ => none) s.twin.link.aliveRx (128 + planChannel v) = none) (hd : (s.channel (planChannel v)).decode = false)
    (hlive : (s.channel (planChannel v)).state.live = true) (hj : (s.channel (planChannel v)).twinState ≠ .joining)
    (hlate : (s.channel (planChannel v)).picOf32 (tokenOf v).plan.picture ∉ (s.channel (planChannel v)).tokenLate)
    (ht : s.nowT ≤ (s.channel (planChannel v)).tokenDueAt ((s.channel (planChannel v)).picOf32 (tokenOf v).plan.picture)) :
    s.onLedger v =
      let c := planChannel v
      let p := (s.channel c).picOf32 (tokenOf v).plan.picture
      (s.heardAlive (128 + c) (bitsAt v 1536 8)).modChannel c fun x =>
        { x.settleToken p (tokenOf v) with tokens := SMap.set (fun _ => none) x.tokens p (some (tokenOf v)) } := by
  simp [State.onLedger, State.judgeAlive_first ha, hphase, hfol, hd, hlive, hj, hlate, ht]

/-! ## TOKEN_DUE (R205) -/

theorem exec_tokenDue {c p : Nat} (hc : c < 128) (s : State) : exec (.tokenDue c p) s = .next (s.tokenMissing c p) := if_pos hc

section
variable {c p : Nat} {s : State}

theorem State.tokenMissing_idle (h : s.twin.phase ≠ .twinned ∨ s.twin.follower = false) : s.tokenMissing c p = s := by
  refine if_neg ?_
  rcases h with h | h <;> simp [h]

/-- A token that is missing when it is due is marked late, and the channel diverges. -/
theorem State.tokenMissing_due (hphase : s.twin.phase = .twinned) (hfol : s.twin.follower = true) (hd : (s.channel c).decode = false)
    (hst : (s.channel c).state = .armed ∨ (s.channel c).state = .running) (htw : (s.channel c).twinState = .inStep) (hj : (s.channel c).joinPic ≤ p)
    (hnew : SMap.get (fun _ => none) (s.channel c).tokens p = none) (hlate : p ∉ (s.channel c).tokenLate) (hn : ((s.channel c).pic p).named = false)
    (ht : (s.channel c).tokenDueAt p ≤ s.nowT) :
    s.tokenMissing c p =
      let f := s.takeFree
      let u := f.2.modChannel c fun x => { x with tokenLate := x.tokenLate ++ [p] }
      ((u.enterDiverged c).reportDiverge c p 0xFF 4 (f.1 % 8)).twSend (.diverge c p (s.channel c).tambour) :=
  if_pos (by simp [hphase, hfol, hd, hst, htw, hj, hnew, hlate, hn, ht])

end

/-! ## DIVERGE (R216, R226) -/

@[simp] theorem State.reportDiverge_channel (s : State) (c p b cause peerT k : Nat) : (s.reportDiverge c p b cause peerT).channel k = s.channel k := rfl

@[simp] theorem State.reportDiverge_resyncDue (s : State) (c p b cause peerT : Nat) :
    (s.reportDiverge c p b cause peerT).twin.resyncDue = s.twin.resyncDue := rfl

/-- What is reported of a divergence changes no resync that is chosen already. -/
theorem State.reportDiverge_resyncChosen (s : State) (c p b cause peerT : Nat) (i : BandId) :
    (s.reportDiverge c p b cause peerT).resyncChosen i = s.resyncChosen i := by
  rw [State.resyncChosen, State.reportDiverge_channel, State.reportDiverge_resyncDue]
  rfl

section
variable {c p peerT : Nat} {s : State}

theorem State.onDiverge_leader (hc : c < 128) (hphase : s.twin.phase = .twinned) (hleads : s.twin.follower = false) :
    s.onDiverge c p peerT = if s.resyncChosen ⟨c, p, 0⟩ then s.reportDiverge c p 0xFF 4 (peerT % 8) else (s.reportDiverge c p 0xFF 4 (peerT % 8)).resync c := by
  rw [State.onDiverge, if_pos ⟨hc, hphase, hleads⟩, State.learnDiverged, State.reportDiverge_resyncChosen]

theorem State.onDiverge_notTwinned (hphase : s.twin.phase ≠ .twinned) : s.onDiverge c p peerT = s := if_neg fun ⟨_, h, _⟩ => hphase h

end

/-- Settles O31: the leader's token, the follower's, the one that is missing, and what the leader learns of it. -/
theorem ledgerTokens : Obligations.LedgerTokens := by
  refine ⟨fun c p s hc hphase hleads hjoin hresync hd hst htw hnew hn ht => ?_,
    fun c p s hc h => (exec_ledgerPoint hc s).trans (congrArg _ (State.ledgerPoint_closed h)),
    fun v at_ cells rest s hs hphase hfol ha hd hlive hj hlate ht => ?_, fun c p s hc hphase hfol hd hst htw hj hnew hlate hn ht => ?_,
    fun c p s hc h => (exec_tokenDue hc s).trans (congrArg _ (State.tokenMissing_idle h)), fun c p peerT at_ cells rest s hc hs => ?_⟩
  · exact (exec_ledgerPoint hc s).trans (congrArg _ (State.ledgerPoint_makes hphase hleads hjoin hresync hd hst htw hnew hn ht))
  · exact (exec_onMsg rfl hs rfl).trans (congrArg _ (State.onLedger_takes hphase hfol ha hd hlive hj hlate ht))
  · exact (exec_tokenDue hc s).trans (congrArg _ (State.tokenMissing_due hphase hfol hd hst htw hj hnew hlate hn ht))
  · have htold := exec_onMsg (c := .diverge) rfl hs rfl
    refine ⟨fun hphase hleads hno => htold.trans (congrArg _ ((State.onDiverge_leader hc hphase hleads).trans (if_neg (by simp [hno])))),
      fun hphase hleads hchosen => htold.trans (congrArg _ ((State.onDiverge_leader hc hphase hleads).trans (if_pos hchosen))),
      fun hphase => htold.trans (congrArg _ (State.onDiverge_notTwinned hphase))⟩

end Sys2Proof.Machine
end

section
/-!
Reconcile, release records and mirrored slices (O32).
-/
namespace Sys2Proof.Machine

/-! ## RECONCILE_REQUEST (R206) -/

section
variable {v : Nat} {s : State}

theorem State.onReconRequest_unpaired (h : s.pairedBand (s.headBandId v) = false) : s.onReconRequest v = s := if_pos h

/-- A request waits for this device's own input deadline. -/
theorem State.onReconRequest_early (hp : s.pairedBand (s.headBandId v) = true)
    (ht : s.nowT < (s.channel (s.headBandId v).ch).inputDeadline (s.headBandId v).pic (s.headBandId v).b) :
    s.onReconRequest v = { s with twin := { s.twin with reconWait := s.twin.reconWait ++ [v] } } :=
  (if_neg (by simp [hp])).trans (if_neg (Nat.not_le.mpr ht))

theorem State.onReconRequest_due (hp : s.pairedBand (s.headBandId v) = true)
    (ht : (s.channel (s.headBandId v).ch).inputDeadline (s.headBandId v).pic (s.headBandId v).b ≤ s.nowT) : s.onReconRequest v = s.answerRecon v :=
  (if_neg (by simp [hp])).trans (if_pos ht)

/-- The positions that a request asks for (R208). -/
def askedPositions (v : Nat) : List Nat := ((List.range 64).filter (bitAt (reconMask v))).map (· + reconBase v)

/-- A request for positions of which the snapshot holds none is answered ABSENT for all of them. -/
theorem State.answerRecon_absent (hne : askedPositions v ≠ [])
    (habsent : ∀ k ∈ askedPositions v, ((s.channel (s.headBandId v).ch).pic (s.headBandId v).pic).heldFor (s.headBandId v).b k = false) :
    s.answerRecon v =
      (s.modBand (s.headBandId v) fun u => { u with recon := satAdd 16 u.recon 0 }).twSend
        (.reconcile (reconHead 2 (s.headBandId v).ch (s.headBandId v).b (s.headBandId v).pic (reconBase v) 0 0
          (((askedPositions v).map fun k => 2 ^ (k - reconBase v)).sum)) []) := by
  have hheld : (askedPositions v).filter (fun k => ((s.channel (s.headBandId v).ch).pic (s.headBandId v).pic).heldFor (s.headBandId v).b k &&
      !(s.band (s.headBandId v)).fromPeer.contains k) = [] := List.filter_eq_nil_iff.mpr fun k hk => by simp [habsent k hk]
  have hgone : (askedPositions v).filter (fun k => !(((s.channel (s.headBandId v).ch).pic (s.headBandId v).pic).heldFor (s.headBandId v).b k &&
      !(s.band (s.headBandId v)).fromPeer.contains k)) = askedPositions v := List.filter_eq_self.mpr fun k hk => by simp [habsent k hk]
  have hasked : ((List.range 64).filter (bitAt (reconMask v))).map (· + reconBase v) = askedPositions v := rfl
  simp only [State.answerRecon, hasked, hheld, hgone, hne, if_false, List.filter_nil, List.flatMap_nil, List.foldl_nil, List.append_nil, List.length_nil]

end

/-! ## RECONCILE_DATA (R206–R208) -/

section
variable {v : Nat} {l : List Nat} {s : State}

theorem State.onReconAnswer_closed (h : (s.band (s.headBandId v)).reconOpen = false) : s.onReconAnswer v l = s := if_pos (.inl h)

/-- Positions counted down by an ABSENT. -/
def Band.absent (u : Band) (v : Nat) : Band :=
  { u with asked := u.asked.filter fun k => !(decide (reconBase v ≤ k) && bitAt (reconMask v) (k - reconBase v)) }

section
variable (hopen : (s.band (s.headBandId v)).reconOpen = true) (harr : (s.band (s.headBandId v)).state = .arriving)
include hopen harr

/-- ABSENT counts the positions down; with none left the reconcile closes. -/
theorem State.onReconAnswer_absent (hop : headOp v = 2) :
    s.onReconAnswer v l =
      let t := s.modBand (s.headBandId v) fun u => u.absent v
      if (t.band (s.headBandId v)).asked = [] then t.closeRecon (s.headBandId v) else t := by
  refine (if_neg (by simp [hopen, harr])).trans ?_
  simp only [hop, if_true]
  rfl

/-- A piece of a position that is asked for is kept until the position is whole. -/
theorem State.onReconAnswer_piece (hop : headOp v ≠ 2) (hask : reconBase v ∈ (s.band (s.headBandId v)).asked) {t : State}
    (hkept : (s.modBand (s.headBandId v) fun u => { u with pieces := u.pieces ++ [(reconBase v, reconTotal v, reconOffset v, l)] }) = t)
    (hpart : (t.band (s.headBandId v)).wholePosition (reconBase v) (reconTotal v) = none) (hmore : (t.band (s.headBandId v)).asked ≠ []) :
    s.onReconAnswer v l = t := by
  refine (if_neg (by simp [hopen, harr])).trans ?_
  simp only [hop, if_false, List.contains_iff_mem.mpr hask, Bool.true_eq_false, hkept, hpart, hmore]

end

end

/-! ## RECONCILE_CLOSE (R207) -/

theorem exec_reconcileClose {c p b : Nat} (hc : c < 128) (s : State) : exec (.reconcileClose c p b) s = .next (s.reconTime ⟨c, p, b⟩) := if_pos hc

section
variable {i : BandId} {s : State}

theorem State.reconTime_closed (h : (s.band i).reconOpen = false) : s.reconTime i = s := if_pos (.inl h)

section
variable (hopen : (s.band i).reconOpen = true) (harr : (s.band i).state = .arriving)
include hopen harr

theorem State.reconTime_answered (hask : (s.band i).asked = []) : s.reconTime i = s.closeRecon i :=
  (if_neg (by simp [hopen, harr])).trans (if_pos hask)

/-- At its time a reconcile closes with positions unanswered. -/
theorem State.reconTime_late (hask : (s.band i).asked ≠ []) (ht : (s.channel i.ch).inputDeadline i.pic i.b + s.reconLimit ≤ s.nowT) :
    s.reconTime i = (s.raise Src.twin Kind.twinReconLate (addrP i.ch i.pic i.b) 0).closeRecon i :=
  (if_neg (by simp [hopen, harr])).trans ((if_neg hask).trans (if_pos ht))

end

end

/-! ## RELEASE (R209–R212) -/

/-- The peer's first record of a paired band is kept and acted on. -/
theorem State.onRecord_kept {v : Nat} {u s : State} (hfirst : SMap.get (fun _ => none) s.twin.link.aliveRx (recCh v) = none)
    (hu : s.heardAlive (recCh v) (recAlive v) = u) (hpair : u.pairedBand ⟨recCh v, (s.channel (recCh v)).picOf32 (recPic v), recBand v⟩ = true)
    (hlive : (s.channel (recCh v)).state.live = true) (hb : recBand v < (s.channel (recCh v)).cfg.bandCount)
    (hnew : (s.band ⟨recCh v, (s.channel (recCh v)).picOf32 (recPic v), recBand v⟩).peerRec = none) :
    s.onRecord v = ((u.modBand ⟨recCh v, (s.channel (recCh v)).picOf32 (recPic v), recBand v⟩ fun x => { x with peerRec := some v }).settle
      (recCh v)).releaseDue (recCh v) := by
  subst hu
  simp [State.onRecord, State.judgeAlive_first hfirst, hpair, hlive, hb, hnew]

/-! ## MIRROR_REQUEST (R214) -/

/-- The slice that a mirror request asks for, where it is held. -/
def State.mirrorHeld (s : State) (v : Nat) : Option MirrorEntry :=
  s.twin.mirror.find? fun e => decide (e.ch = headCh v) && decide (e.band = headBand v) && decide (e.pic % 2 ^ 32 = headPic v)

section
variable {v : Nat} {s : State}

theorem State.onMirrorRequest_gone (h : s.mirrorHeld v = none) :
    s.onMirrorRequest v = s.twSend (.mirror (mirrorHead 2 (headCh v) (headBand v) (headPic v) 0 0) []) := by
  unfold State.mirrorHeld at h
  simp only [State.onMirrorRequest, h]

theorem piecesOf_one {n size ofs : Nat} {l : List Nat} (hn : n ≠ 0) (h : l.length ≤ size) : piecesOf n size ofs l = [(ofs, l)] := by
  obtain ⟨k, rfl⟩ := Nat.exists_eq_succ_of_ne_zero hn
  exact if_pos h

/-- A slice that fits one message leaves in one. -/
theorem State.onMirrorRequest_held {e : MirrorEntry} (h : s.mirrorHeld v = some e) (hne : e.nal ≠ []) (hlen : e.nal.length ≤ 4076) :
    s.onMirrorRequest v = s.twSend (.mirror (mirrorHead 1 e.ch e.band e.pic 0 e.nal.length) e.nal) := by
  unfold State.mirrorHeld at h
  simp only [State.onMirrorRequest, h, piecesOf_one (mt List.length_eq_zero_iff.mp hne) hlen, List.foldl_cons, List.foldl_nil]

end

/-! ## MIRROR_DATA (R214, R215) -/

section
variable {v : Nat} {l : List Nat} {g : MirrorGet} {s : State} (hg : (s.band (s.headBandId v)).mirror = some g) (hop : headOp v ≠ 2) (hp : g.pieces = [])
include hg hop hp

theorem State.onMirrorData_first :
    s.onMirrorData v l =
      if l.length < mirrorTotal v then s.modBand (s.headBandId v) fun u => { u with mirror := some { g with pieces := [(mirrorOffset v, l)] } }
      else if mirrorTotal v = g.len ∧ l.length = g.len ∧ crc32cOf l = g.crc then s.useMirror (s.headBandId v) g l
      else s.mirrorFail (s.headBandId v) g.len := by
  simp [State.onMirrorData, hg, hop, hp]

theorem State.onMirrorData_part (hlen : l.length < mirrorTotal v) :
    s.onMirrorData v l = s.modBand (s.headBandId v) fun u => { u with mirror := some { g with pieces := [(mirrorOffset v, l)] } } :=
  (State.onMirrorData_first hg hop hp).trans (if_pos hlen)

theorem State.onMirrorData_whole (ht : mirrorTotal v = g.len) (hlen : l.length = g.len) (hcrc : crc32cOf l = g.crc) :
    s.onMirrorData v l = s.useMirror (s.headBandId v) g l :=
  (State.onMirrorData_first hg hop hp).trans ((if_neg (by omega)).trans (if_pos ⟨ht, hlen, hcrc⟩))

end

/-- MIRROR_BUFFER_EXPIRE drops the slices whose time has come (R214). -/
theorem exec_mirrorBufferExpire (s : State) :
    exec .mirrorBufferExpire s = .next { s with twin := { s.twin with mirror := s.twin.mirror.filter fun e => decide (s.now < e.until_) } } := rfl

/-- Settles O32: the messages of a reconcile and its close, the peer's release record, the mirror's messages, and the mirror buffer. -/
theorem reconcileAndMirror : Obligations.ReconcileAndMirror := by
  refine ⟨fun v at_ l cells rest s hop hs => ?_, fun v at_ l cells rest s hop hs => ?_, fun c p b s hc => ?_,
    fun v at_ cells rest s hs hfirst hpair hlive hb hnew => ?_, fun v at_ l cells rest s hop hs => ?_, fun v at_ l cells rest g s hop hno hs hg hp => ?_,
    exec_mirrorBufferExpire⟩
  · have hasks := exec_onMsg (c := .reconcileRequest) rfl hs (decide_eq_true hop)
    exact ⟨fun hpair => hasks.trans (congrArg _ (State.onReconRequest_unpaired hpair)),
      fun hpair ht => hasks.trans (congrArg _ (State.onReconRequest_early hpair ht)),
      fun hpair ht hne habsent => hasks.trans (congrArg _ ((State.onReconRequest_due hpair ht).trans (State.answerRecon_absent hne habsent)))⟩
  · have hanswers := exec_onMsg (c := .reconcileData) rfl hs (decide_eq_true hop)
    refine ⟨fun hclosed => hanswers.trans (congrArg _ (State.onReconAnswer_closed hclosed)), fun hopen harr =>
      ⟨fun habs => ⟨fun hleft => ?_, fun hnone => ?_⟩, fun hdata hask hpart hmore => ?_⟩⟩
    · exact hanswers.trans (congrArg _ ((State.onReconAnswer_absent hopen harr habs).trans (if_neg hleft)))
    · exact hanswers.trans (congrArg _ ((State.onReconAnswer_absent hopen harr habs).trans (if_pos hnone)))
    · exact hanswers.trans (congrArg _ (State.onReconAnswer_piece hopen harr hdata hask rfl hpart hmore))
  · refine ⟨fun hclosed => (exec_reconcileClose hc s).trans (congrArg _ (State.reconTime_closed hclosed)),
      fun hopen harr hask => (exec_reconcileClose hc s).trans (congrArg _ (State.reconTime_answered hopen harr hask)),
      fun hopen harr hask ht => (exec_reconcileClose hc s).trans (congrArg _ (State.reconTime_late hopen harr hask ht))⟩
  · exact (exec_onMsg rfl hs rfl).trans (congrArg _ (State.onRecord_kept hfirst rfl hpair hlive hb hnew))
  · have hasks := exec_onMsg (c := .mirrorRequest) rfl hs (decide_eq_true hop)
    exact ⟨fun hnone => hasks.trans (congrArg _ (State.onMirrorRequest_gone hnone)),
      fun e he hne hlen => hasks.trans (congrArg _ (State.onMirrorRequest_held he hne hlen))⟩
  · have hanswers := exec_onMsg (c := .mirrorData) rfl hs (decide_eq_true hop)
    exact ⟨fun hlen => hanswers.trans (congrArg _ (State.onMirrorData_part hg hno hp hlen)),
      fun ht hlen hcrc => hanswers.trans (congrArg _ (State.onMirrorData_whole hg hno hp ht hlen hcrc))⟩

end Sys2Proof.Machine
end

section
/-!
The sequencer of a tambour: a word executes, and a hook call is returned (O41).
-/
namespace Sys2Proof.Machine

/-! ## What a step leaves of the coder (R232, R242) -/

section
variable {x : Tamb} {q : Sequencer} {k : HookCall}

theorem Tamb.stepTo_coder_statsReturned (hcall : x.seqr.hook = some k) (hk : k.hook = 3) (hover : q.hook = none) :
    (x.stepTo q).coder = { x.coder with statsN := x.coder.statsN + 1 } := by
  simp [Tamb.stepTo, hcall, hk, hover]

theorem Tamb.stepTo_coder_postReturned (hcall : x.seqr.hook = some k) (hk : k.hook = 2) (hover : q.hook = none) :
    (x.stepTo q).coder = { x.coder with postDone := true } := by
  simp [Tamb.stepTo, hcall, hk, hover]

/-- Without a call, with the call still running, or with one of another hook, the coder stays. -/
theorem Tamb.stepTo_coder_same
    (h : x.seqr.hook = none ∨ q.hook.isSome = true ∨ ∃ k, x.seqr.hook = some k ∧ k.hook ≠ 3 ∧ k.hook ≠ 2) : (x.stepTo q).coder = x.coder := by
  rcases h with hnone | hruns | ⟨k, hcall, h3, h2⟩
  · simp [Tamb.stepTo, hnone]
  · simp [Tamb.stepTo, Option.isNone_eq_false_iff.mpr hruns]
  · simp [Tamb.stepTo, hcall, h3, h2]

end

/-! ## MICROWORD_EXECUTE (R231) -/

theorem exec_microwordExecute {t : Nat} (ht : t < 8) (view : SeqView) (s : State) : exec (.microwordExecute t view) s = .next (s.microword t view) :=
  if_pos ht

section
variable {t : Nat} {view : SeqView} {s : State} {i : BandId}

theorem State.microword_noBand (h : (s.tamb t).coding = none) : s.microword t view = s := by simp only [State.microword, h]

section
variable (hcoding : (s.tamb t).coding = some i)
include hcoding

theorem State.microword_stays (h : (s.tamb t).seqr.running = false ∨ (s.tamb t).seqr.spent = true) : s.microword t view = s := by
  simp only [State.microword, hcoding, h, if_true]

section
variable (hrun : (s.tamb t).seqr.running = true) (hleft : (s.tamb t).seqr.spent = false)
include hrun hleft

theorem State.microword_word (hword : mwMoveOp ((s.store t).word (s.tamb t).seqr.addr) ≠ 15 ∨ openBase ≤ (s.tamb t).seqr.addr) :
    s.microword t view = s.modTamb t fun x => x.stepTo (s.runWord t i view 0) := by
  have hown : ¬(mwMoveOp ((s.store t).word (s.tamb t).seqr.addr) = 15 ∧ (s.tamb t).seqr.addr < openBase) := fun ⟨hop, hv⟩ =>
    hword.elim (fun hne => hne hop) (Nat.not_le.mpr hv)
  simp only [State.microword, hcoding, hrun, hleft, hown, Bool.true_eq_false, Bool.false_eq_true, or_self, if_false]

/-- A vendor transfer takes the next open value. -/
theorem State.microword_transfer (hop : mwMoveOp ((s.store t).word (s.tamb t).seqr.addr) = 15) (hvendor : (s.tamb t).seqr.addr < openBase) :
    s.microword t view =
      { s with freeCount := s.freeCount + 1 }.modTamb t fun x => x.stepTo (s.runWord t i view (Config.freeValue s.freeCount % 2 ^ 32)) := by
  simp only [State.microword, hcoding, hrun, hleft, hop, hvendor, Bool.true_eq_false, Bool.false_eq_true, or_self, if_false, and_self, if_true]
  rfl

end

end

/-! ## HOOK_OVERRUN (R243) -/

theorem exec_hookOverrun (ht : t < 8) : exec (.hookOverrun t) s = .next (s.overrun t) := if_pos ht

theorem State.overrun_noBand (h : (s.tamb t).coding = none) : s.overrun t = s := by simp only [State.overrun, h]

section
variable (hcoding : (s.tamb t).coding = some i)
include hcoding

theorem State.overrun_noCall (h : (s.tamb t).seqr.hook = none) : s.overrun t = s := by simp only [State.overrun, hcoding, h]

variable {k : HookCall} (hcall : (s.tamb t).seqr.hook = some k)
include hcall

theorem State.overrun_within (h : k.left ≠ 0) : s.overrun t = s := by simp only [State.overrun, hcoding, hcall, h, if_false]

theorem State.overrun_spent (h : k.left = 0) :
    s.overrun t =
      ((s.modTamb t fun x => x.stepTo ((s.tamb t).seqr.leave (x.currentBlock (s.channel i.ch).decode k.hook))).count
        (Reg.prk + 0x100 * t + 0x10) 16 1).raise (Src.tambour + t) Kind.hookOverrun (addrP i.ch i.pic i.b) t := by
  simp only [State.overrun, hcoding, hcall, h, if_true]

end

end

/-- Settles O41: a word or an overrun acts on its tambour alone, and only while a band is in CODING there. -/
theorem theSequencerRuns : Obligations.TheSequencerRuns := by
  intro t view s ht
  have hword := exec_microwordExecute ht view s
  have hover := exec_hookOverrun (s := s) ht
  refine ⟨fun hnone => ⟨hword.trans (congrArg _ (State.microword_noBand hnone)), hover.trans (congrArg _ (State.overrun_noBand hnone))⟩,
    fun i hi => ⟨fun hstays => ?_, fun hrun hleft hw => ?_, fun hrun hleft hop hvendor => ?_, fun hno => ?_, fun k hk => ⟨fun hleft => ?_, fun hspent => ?_⟩⟩,
    fun x _ q => ⟨rfl, rfl, fun _ => Tamb.stepTo_coder_statsReturned, fun _ => Tamb.stepTo_coder_postReturned, Tamb.stepTo_coder_same⟩⟩
  · exact hword.trans (congrArg _ (State.microword_stays hi hstays))
  · exact hword.trans (congrArg _ (State.microword_word hi hrun hleft hw))
  · exact hword.trans (congrArg _ (State.microword_transfer hi hrun hleft hop hvendor))
  · exact hover.trans (congrArg _ (State.overrun_noCall hi hno))
  · exact hover.trans (congrArg _ (State.overrun_within hi hk hleft))
  · exact hover.trans (congrArg _ (State.overrun_spent hi hk hspent))

end Sys2Proof.Machine
end

section
/-!
Loads of the pricking stores and of firmware, and their ends (O20).
-/
namespace Sys2Proof.Machine

/-! ## PRICKING_LOAD (R251, R255, R297) -/

/-- What a store shows of its regions from the start of a load's write step on (R255): a patch leaves an open region without an image as it is. -/
def Store.underLoad (p : Store) (ld : PrkLoad) : Store :=
  if ld.opened then { p with oState := if ld.patch = true ∧ p.oState ≠ 2 then p.oState else 1 } else { p with vState := 1 }

section
variable {h : CmdHdr} {idx mask addr len : Nat} {l : List Nat} {s : State} (hmask : mask ≠ 0)
include hmask

theorem State.prickingLoad_begins (hroom : s.host.deferred.length < 16) (hread : s.readContainer addr len = .inr l)
    (hgood : s.prkRefusal mask l = none) :
    s.prickingLoad h idx mask addr len =
      ({ s.modStores mask fun p => p.underLoad (prkLoadOf mask l) with prkLoad := s.prkLoad ++ [prkLoadOf mask l] }.addDeferred
        { sq := h.sq, cid := h.cid.toNat, idx := idx, op := .prickingLoad mask, since := s.now }, none) := by
  refine (if_neg hmask).trans ((if_neg (Nat.not_le.mpr hroom)).trans ?_)
  simp only [hread, hgood]
  rfl

theorem State.prickingLoad_busy (hfull : 16 ≤ s.host.deferred.length) :
    s.prickingLoad h idx mask addr len = (s.showLoad mask St.busy, some { status := St.busy }) :=
  (if_neg hmask).trans (if_pos hfull)

end

/-! ## FIRMWARE_LOAD (R297) -/

section
variable {h : CmdHdr} {idx addr len : Nat} {customer : Bool} {l : List Nat} {s : State}

theorem State.firmwareLoad_begins (hroom : s.host.deferred.length < 16) (hread : s.readContainer addr len = .inr l)
    (hgood : s.fwRefusal customer l = none) :
    s.firmwareLoad h idx customer addr len =
      ({ s with fw := { s.fw with load := s.fw.load ++ [(customer, conBody l, conVersion l)] } }.addDeferred
        { sq := h.sq, cid := h.cid.toNat, idx := idx, op := .firmwareLoad customer, since := s.now }, none) := by
  refine (if_neg (Nat.not_le.mpr hroom)).trans ?_
  simp only [hread, hgood]

theorem State.firmwareLoad_busy (hfull : 16 ≤ s.host.deferred.length) :
    s.firmwareLoad h idx customer addr len = (s, some { status := St.busy }) := if_pos hfull

end

/-! ## The end of a load (R251, R290, R415) -/

/-- The load's command completes with OK, where it is still outstanding. -/
def State.endLoad (s : State) (op : DeferredOp) : State :=
  match s.findDeferred fun o => decide (o = op) with
  | some d => s.endDeferred d { status := St.ok }
  | none => s

section
variable {s : State} {op : DeferredOp}

theorem State.endLoad_none (h : (s.findDeferred fun o => decide (o = op)) = none) : s.endLoad op = s := by simp only [State.endLoad, h]

theorem State.endLoad_some {d : Deferred} (h : (s.findDeferred fun o => decide (o = op)) = some d) :
    s.endLoad op = s.endDeferred d { status := St.ok } := by
  simp only [State.endLoad, h]

theorem State.endDeferred_at {n : Nat} (d : Deferred) (r : Reply) (h : s.indexAfter d.sq = n) :
    s.endDeferred d r = { s with host := { s.host with deferred := s.host.deferred.erase d } }.postCompletion d.sq d.cid n r := by
  subst h
  rfl

end

/-- The stores after the write step of `l`, the oldest load; `rest` are the loads still under way. -/
def State.written (s : State) (l : PrkLoad) (rest : List PrkLoad) : State :=
  ({ s with prkLoad := rest }.modStores l.mask fun p => p.write l).showLoad l.mask St.ok

theorem exec_prickingLoadWriteEnd {l : PrkLoad} {rest : List PrkLoad} {s : State} (h : s.prkLoad = l :: rest) :
    exec .prickingLoadWriteEnd s = .next ((s.written l rest).endLoad (.prickingLoad l.mask)) := by
  show execPrickingLoadWriteEnd s = _
  simp only [execPrickingLoadWriteEnd, h]
  rfl

/-- The device with an image in place and its cores restarted; the vendor's image restarts the clock servo (R415). -/
def State.restarted (s : State) (customer : Bool) (body : List Nat) (version : Nat) (rest : List (Bool × List Nat × Nat)) : State :=
  let u := { s with fw := { s.fw with load := rest } }.placeFirmware customer body version
  if customer then u else { u with time := u.time.fwRestart u.now }

theorem exec_firmwareLoadEnd {customer : Bool} {body : List Nat} {version : Nat} {rest : List (Bool × List Nat × Nat)} {s : State}
    (h : s.fw.load = (customer, body, version) :: rest) :
    exec .firmwareLoadEnd s = .next ((s.restarted customer body version rest).endLoad (.firmwareLoad customer)) := by
  show execFirmwareLoadEnd s = _
  simp only [execFirmwareLoadEnd, h]
  rfl

section
variable (s : State) (body : List Nat) (version : Nat) (rest : List (Bool × List Nat × Nat))

@[simp] theorem State.restarted_queues (customer : Bool) : (s.restarted customer body version rest).queues = s.queues := by cases customer <;> rfl

theorem State.restarted_indexAfter (customer : Bool) (sq : Nat) : (s.restarted customer body version rest).indexAfter sq = s.indexAfter sq := by
  simp [State.indexAfter, State.queue]

theorem State.restarted_shw (customer : Bool) :
    (s.restarted customer body version rest).shw =
      Memory.writeBytes zeroDefault s.shw (if customer then 0x600000 else 0) (body.map (BitVec.ofNat 8)) := by
  cases customer <;> rfl

end

theorem TimeSt.fwRestart_servo_locked {t : TimeSt} (h : t.servo = .locked) (now : Nat) : (t.fwRestart now).servo = .holdover := if_pos (.inl h)

/-- Settles O20: a load begins its step or is answered with BUSY, and the end of its step completes the command where it is still outstanding. -/
theorem loadsOfStoresAndFirmware : Obligations.LoadsOfStoresAndFirmware := by
  refine ⟨fun h mask addr len l s hr hq hout hmask hroom hread hgood => ?_, fun h mask addr len s hr hq hout hmask hfull => ?_,
    fun l rest s hl => ⟨fun hnone => ?_, fun d hd => ?_⟩, fun h customer addr len l s hr hq hout hroom hread hgood => ?_,
    fun h customer addr len s hr hq hout hfull => ?_,
    fun customer body version rest s hl => ⟨fun hnone => ?_, fun d hd => ?_, s.restarted_shw body version rest customer, ?_, ?_⟩⟩
  · have hmask : mask.toNat ≠ 0 := fun h0 => hmask (BitVec.eq_of_toNat_eq h0)
    exact congrArg _ (hostCmd_left _ _ _ _ _ _ _ hr (.inr hq) hout _ (State.prickingLoad_begins (s := s.taken h) hmask hroom hread hgood))
  · have hmask : mask.toNat ≠ 0 := fun h0 => hmask (BitVec.eq_of_toNat_eq h0)
    exact congrArg _ (hostCmd_answered _ _ _ _ _ _ _ hr (.inr hq) hout _ _ (State.prickingLoad_busy (s := s.taken h) hmask hfull))
  · exact (exec_prickingLoadWriteEnd hl).trans (congrArg _ (State.endLoad_none hnone))
  · exact (exec_prickingLoadWriteEnd hl).trans (congrArg _ (State.endLoad_some hd))
  · exact congrArg _ (hostCmd_left _ _ _ _ _ _ _ hr (.inr hq) hout _ (State.firmwareLoad_begins (s := s.taken h) hroom hread hgood))
  · exact congrArg _ (hostCmd_answered _ _ _ _ _ _ _ hr (.inr hq) hout _ _ (State.firmwareLoad_busy (s := s.taken h) hfull))
  · exact (exec_firmwareLoadEnd hl).trans (congrArg _ (State.endLoad_none hnone))
  · refine (exec_firmwareLoadEnd hl).trans (congrArg _ ((State.endLoad_some hd).trans ?_))
    exact State.endDeferred_at d _ (s.restarted_indexAfter body version rest customer d.sq)
  · rintro rfl
    exact ⟨rfl, rfl, rfl, rfl⟩
  · rintro rfl
    exact ⟨rfl, rfl, rfl, fun hlocked => TimeSt.fwRestart_servo_locked hlocked _⟩

end Sys2Proof.Machine
end

section
/-!
A host command that may not start (O7).
-/
namespace Sys2Proof.Machine

/-- Every host command is `hostCmd` around its body; RESET then asserts the reset source where it was taken. -/
theorem exec_hostCmd_or_reset {c : Instr} {h : CmdHdr} (hc : hostHeader c = some h) (s : State) :
    (∃ level, c = .reset h level) ∨ ∃ admin inHold waits body, exec c s = .next (hostCmd c h admin inHold waits body s) := by
  unfold hostHeader at hc
  split at hc
  case h_30 => cases hc; exact .inl ⟨_, rfl⟩
  case h_31 => cases hc
  all_goals cases hc; exact .inr ⟨_, _, _, _, rfl⟩

/-- A RESET that is not taken is `hostCmd` alone. -/
theorem execReset_untaken {h : CmdHdr} {level : BitVec 2} {s : State} (hr : s.canTake (.reset h level) h = false) : execReset h level s = .next s := by
  have hnot : State.resetTaken h level s = false := by simp [State.resetTaken, hr]
  unfold execReset
  simp only [hnot, Bool.and_false, Bool.false_eq_true, if_false]
  exact congrArg _ (hostCmd_unready _ _ _ _ _ _ _ hr)

/-- Settles O7: every host command is `hostCmd`, which a command that cannot be taken leaves at once. -/
theorem unreadyHostCommandsWait : Obligations.UnreadyHostCommandsWait := by
  intro c h s hc hr
  obtain ⟨level, rfl⟩ | ⟨admin, inHold, waits, body, hexec⟩ := exec_hostCmd_or_reset hc s
  · exact execReset_untaken hr
  · exact hexec.trans (congrArg _ (hostCmd_unready c h admin inHold waits body s hr))

end Sys2Proof.Machine
end

section
/-!
How a completion lands in its ring, or is held (O11).
-/
namespace Sys2Proof.Machine

/-! ## Bytes of a memory outside those written -/

@[simp] theorem bytesOf_length (v n : Nat) : (bytesOf v n).length = n := by simp [bytesOf]

/-- Bytes before and behind those that are written read as before; this needs no canonical form. -/
theorem Memory.read_writeBytes_outside (d : Nat → Byte) (m : List Host.Cell) {a b : Nat} {l : List Byte} (hb : b < a ∨ a + l.length ≤ b) :
    Memory.read d (Memory.writeBytes d m a l) b = Memory.read d m b := by
  induction l generalizing m a with
  | nil => rfl
  | cons v l ih =>
    rw [List.length_cons] at hb
    exact (ih (Memory.write d m a v) (by omega)).trans (SMap_get_set_of_ne d m a v (by omega))

/-! ## An entry on a host ring (R308) -/

theorem State.msixSend_hostMem (s : State) (v : Nat) : (s.msixSend v).hostMem = s.hostMem := by
  simp [State.msixSend, apply_ite State.hostMem]

/-- A part of the state that neither a queue's own fields nor a message of MSI-X change stays at a signal. -/
theorem State.signalWith_eq {β : Type} {p : State → β} (hqueue : ∀ (t : State) (q : Nat) (f : Queue → Queue), p (t.modQueue q f) = p t)
    (hmsix : ∀ (t : State) (v : Nat), p (t.msixSend v) = p t) (s : State) (q us : Nat) : p (s.signalWith q us) = p s := by
  have hsends (f : Queue → Queue) (v : Nat) : p ((s.modQueue q f).msixSend v) = p s := (hmsix _ _).trans (hqueue _ _ _)
  unfold State.signalWith
  refine ite_eq rfl ?_
  split
  · exact ite_eq (hqueue _ _ _) (hsends _ _)
  · exact hsends _ _

/-- A signal moves no index of its queue. -/
theorem State.signalWith_indices {s : State} (hs : Tidy s) (q us : Nat) :
    ((s.signalWith q us).queue q).tail = (s.queue q).tail ∧ ((s.signalWith q us).queue q).head = (s.queue q).head := by
  have hsends (t : State) (v : Nat) : (t.msixSend v).queue q = t.queue q := congrArg (SMap.get queueReset · q) (t.msixSend_queues v)
  unfold State.signalWith
  dsimp only
  split
  · exact ⟨rfl, rfl⟩
  · split
    · split
      · simp [State.queue_modQueue_same s q _ hs]
      · simp [hsends, State.queue_modQueue_same s q _ hs]
    · simp [hsends, State.queue_modQueue_same s q _ hs]

section
variable {s : State} {q : Nat}

theorem State.putEntry_host_hostMem (h : (s.queue q).space = .host) (v : Nat) :
    (s.putEntry q v).hostMem = Memory.writeBytes zeroDefault s.hostMem ((s.queue q).slot (s.queue q).tail) (bytesOf v (s.queue q).ty.entryBytes) := by
  simp only [State.putEntry, h]
  exact State.signalWith_eq (p := State.hostMem) (fun _ _ _ => rfl) State.msixSend_hostMem _ _ _

theorem State.signal_modQueue_indices (hs : Tidy s) (f : Queue → Queue) :
    (((s.modQueue q f).signal q).queue q).tail = (f (s.queue q)).tail ∧ (((s.modQueue q f).signal q).queue q).head = (f (s.queue q)).head := by
  have hq := State.queue_modQueue_same s q f hs
  obtain ⟨htail, hhead⟩ := State.signalWith_indices ((State.modQueue_keeps s q f (.refl s)).tidy hs) q ((s.modQueue q f).queue q).coalesceUs
  exact ⟨htail.trans (by rw [hq]), hhead.trans (by rw [hq])⟩

/-- An entry of a completion ring in host memory: 32 bytes at the slot of TAIL, which advances; no other byte changes. -/
theorem State.putEntry_hcq (hs : Tidy s) (hty : (s.queue q).ty = .hcq) (hsp : (s.queue q).space = .host) (v : Nat) :
    let u := s.queue q
    let t := s.putEntry q v
    let a := u.base + u.tail % 2 ^ u.log2 * 32
    t.hostMem = Memory.writeBytes zeroDefault s.hostMem a (bytesOf v 32) ∧ (t.queue q).tail = (u.tail + 1) % 2 ^ 32 ∧ (t.queue q).head = u.head ∧
    ∀ b, (b < a ∨ a + 32 ≤ b) → Memory.read zeroDefault t.hostMem b = Memory.read zeroDefault s.hostMem b := by
  intro u t a
  have hbytes : u.ty.entryBytes = 32 := by rw [hty]; rfl
  have hmem : t.hostMem = Memory.writeBytes zeroDefault s.hostMem a (bytesOf v 32) :=
    (State.putEntry_host_hostMem hsp v).trans (by rw [Queue.slot, hbytes])
  have hspace : Tidy (s.spaceWrite u.space (u.slot u.tail) u.ty.entryBytes v) := (State.spaceWrite_keeps _ _ _ _ _ (.refl s)).tidy hs
  have hq : (s.spaceWrite u.space (u.slot u.tail) u.ty.entryBytes v).queue q = u := congrArg (SMap.get queueReset · q) (s.spaceWrite_queues _ _ _ _)
  obtain ⟨htail, hhead⟩ := State.signal_modQueue_indices (q := q) hspace fun u => { u with tail := (u.tail + 1) % 2 ^ 32 }
  refine ⟨hmem, htail.trans (by rw [hq]), hhead.trans (by rw [hq]), fun b hb => ?_⟩
  rw [hmem]
  exact Memory.read_writeBytes_outside _ _ (by simpa using hb)

/-! ## A completion (R285, R288) -/

theorem Queue.full_eq_false {u : Queue} (h : u.fill < 2 ^ u.log2) : u.full = false := decide_eq_false (Nat.not_le.mpr h)

variable {sq : Nat} (hv : (s.queue (s.cqOf sq)).valid = true) (hroom : (s.queue (s.cqOf sq)).fill < 2 ^ (s.queue (s.cqOf sq)).log2)
include hv hroom

theorem State.postCompletion_written (hheld : s.host.held.any (fun x => x.cq = s.cqOf sq) = false) (hbus : s.host.busMaster = true)
    (cid idx : Nat) (r : Reply) :
    s.postCompletion sq cid idx r =
      s.putEntry (s.cqOf sq) (completionBits sq cid idx r + 2 ^ 24 * (s.queue (s.cqOf sq)).phase (s.queue (s.cqOf sq)).tail) := by
  have hfull := Queue.full_eq_false hroom
  have hnote : s.noteNoWrite = s := if_pos hbus
  unfold State.postCompletion
  rw [if_neg (by simp [hv]), State.refreshRoom_of_not_full hfull, hnote, if_neg (by simp [hfull, hheld, hbus])]

theorem State.postCompletion_held (h : s.host.held.any (fun x => x.cq = s.cqOf sq) = true ∨ s.host.busMaster = false) (cid idx : Nat) (r : Reply) :
    s.postCompletion sq cid idx r =
      { s with host := { s.host with errCause := (if s.host.busMaster then s.host.errCause else 7),
                                     held := s.host.held ++ [{ sq := sq, cq := s.cqOf sq, bits := completionBits sq cid idx r }] } } := by
  have hfull := Queue.full_eq_false hroom
  unfold State.postCompletion
  rw [if_neg (by simp [hv]), State.refreshRoom_of_not_full hfull]
  cases hbus : s.host.busMaster with
  | true =>
    have hheld := h.resolve_right (by simp [hbus])
    have hnote : s.noteNoWrite = s := if_pos hbus
    rw [hnote, if_pos (by simp [hheld])]
    simp
  | false =>
    have hnote : s.noteNoWrite = { s with host := { s.host with errCause := 7 } } := if_neg (by simp [hbus])
    rw [hnote]
    exact if_pos (by simp [hbus])

end

/-- Settles O11: a completion with room is an entry put on its ring, which writes one slot; otherwise it joins those that are held. -/
theorem completionEntry : Obligations.CompletionEntry := by
  refine ⟨fun s sq cid idx r => ?_, fun s sq cid idx r hv hroom h => State.postCompletion_held hv hroom h cid idx r⟩
  intro cq u hs hv hty hsp hroom hheld hbus t
  have ht : t = s.putEntry cq (completionBits sq cid idx r + 2 ^ 24 * u.phase u.tail) := State.postCompletion_written hv hroom hheld hbus cid idx r
  rw [ht]
  exact State.putEntry_hcq hs hty hsp _

end Sys2Proof.Machine
end

section
/-!
NOP, QUEUE_CREATE and QUEUE_DESTROY (O13).
-/
namespace Sys2Proof.Machine

/-! ## QUEUE_CREATE (R296, R309) -/

/-- The QID that a create asks for is free: the lowest free one where it asks for none (R309 check 5). -/
def State.freeFor (s : State) (qid : BitVec 18) (n : Nat) : Prop :=
  if qid = 0 then s.freeHostQid = some n else qid.toNat = n ∧ 65536 ≤ n ∧ (s.queue n).valid = false

theorem State.checkQueueCreate_accepts {s : State} {q : QueueCreateArgs} {ty : QType} {n : Nat} (hty : hostType q.ty.toNat = some ty)
    (hlow : 4 ≤ q.log2.toNat) (hhigh : q.log2.toNat ≤ 16) (hbase : q.base.toNat ≠ 0) (haligned : q.base.toNat % 4096 = 0) (hqid : s.freeFor q.qid n)
    (hcq : ty = .hsq → (s.queue q.cqid.toNat).valid = true ∧ (s.queue q.cqid.toNat).ty = .hcq) :
    s.checkQueueCreate q = .inr (ty, n) := by
  have hfree : ¬ (q.qid.toNat ≠ 0 ∧ (q.qid.toNat < 65536 ∨ (s.queue q.qid.toNat).valid = true)) ∧
      (if q.qid.toNat = 0 then s.freeHostQid else some q.qid.toNat) = some n := by
    unfold State.freeFor at hqid
    split at hqid
    · next h0 => simpa [h0] using hqid
    · next h0 =>
      have hne : q.qid.toNat ≠ 0 := BitVec.toNat_ne_iff_ne.mpr h0
      obtain ⟨rfl, hn, hvalid⟩ := hqid
      exact ⟨by simp [hvalid]; omega, if_neg hne⟩
  have hbound : ¬ (ty = .hsq ∧ ((s.queue q.cqid.toNat).valid = false ∨ (s.queue q.cqid.toNat).ty ≠ .hcq)) := by
    rintro ⟨hsq, hbad⟩
    simp [hcq hsq] at hbad
  obtain ⟨htaken, hn⟩ := hfree
  simp only [State.checkQueueCreate, hty, hn, if_neg hbound, if_neg htaken]
  rw [if_neg (by omega), if_neg (by omega)]

/-! ## QUEUE_DESTROY (R296, R310) -/

section
variable {s : State} {q : Nat}

theorem State.destroyRefusal_none (hq : 65536 ≤ q) (hv : (s.queue q).valid = true) (hhcq : s.hcqBound q = false) (hhbr : s.hbrInUse q = false)
    (hheq : s.heqInUse q = false) : s.destroyRefusal q = none := by
  unfold State.destroyRefusal
  rw [if_neg (by omega), if_neg (by simp [hv])]
  split <;> simp [hhcq, hhbr, hheq]

variable (hdef : s.host.deferred = [])
include hdef

theorem State.queueBusy_none : s.queueBusy q = false := by simp [State.queueBusy, hdef]

theorem State.abortsWait_none : s.abortsWait q = false := by simp [State.abortsWait, hdef]

/-- With nothing deferred, a destroy empties the entry, and what the queue held goes with it. -/
theorem State.destroyQueue_idle : s.destroyQueue q =
    { s with queues := SMap.set queueReset s.queues q {},
             codec := (if (s.queue q).ty = .hsr then { s.codec with subs := s.codec.subs.filter fun x => decide (x.qid ≠ q) } else s.codec),
             host := { s.host with fetched := s.host.fetched.filter (fun f => decide (f.sq ≠ q)), held := s.host.held.filter fun x => decide (x.cq ≠ q) } } := by
  have hends : (if (s.queue q).ty = .hsq then (s.host.deferred.filter fun d => decide (d.sq = q)).foldl (fun t d => t.endWithQueue d) s else s) = s := by
    rw [hdef]
    exact ite_self s
  unfold State.destroyQueue
  rw [hends]
  by_cases hty : (s.queue q).ty = .hsr
  · simp only [if_pos hty]
    rfl
  · simp only [if_neg hty]
    rfl

end

/-- Settles O13: NOP's body is empty, a create that every check accepts puts its queue in the table, and a destroy that none refuses empties the entry. -/
theorem queuesAreCreatedAndDestroyed : Obligations.QueuesAreCreatedAndDestroyed := by
  refine ⟨fun h s hr => ?_, fun h q ty n s hr hq hty hlow hhigh hbase haligned hqid hcq => ?_, fun h qid s hr hq hdef hqid hv hhcq hhbr hheq => ?_⟩
  · exact congrArg _ (plainCmd_answered _ _ _ _ _ hr (.inl rfl))
  · refine congrArg _ (hostCmd_answered _ _ _ _ _ _ _ hr (.inr hq) rfl _ _ ?_)
    have hcheck : (s.taken h).checkQueueCreate q = .inr (ty, n) := State.checkQueueCreate_accepts hty hlow hhigh hbase haligned hqid hcq
    simp only [hcheck]
    cases ty <;> rfl
  · have hwaits : (s.queueBusy qid.toNat || s.abortsWait qid.toNat) = false := by simp [State.queueBusy_none hdef, State.abortsWait_none hdef]
    refine congrArg _ (hostCmd_answered _ _ _ _ _ _ _ hr (.inr hq) hwaits _ _ ?_)
    have hnone : (s.taken h).destroyRefusal qid.toNat = none := State.destroyRefusal_none hqid hv hhcq hhbr hheq
    simp only [hnone, State.destroyQueue_idle (s := s.taken h) hdef]
    rfl

end Sys2Proof.Machine
end

section
/-!
CHANNEL_CREATE and CHANNEL_CONFIGURE (O14).
-/
namespace Sys2Proof.Machine

/-! ## A command that names a channel (R290, R291) -/

/-- A command that names a channel that the device does not have is answered with BAD_CHANNEL. -/
theorem chanCmd_badChannel {i : Instr} {h : CmdHdr} {c : Nat} {body : Nat → State → State × Option Reply} {s : State} (hr : s.ready i h)
    (hc : 128 ≤ c) (hw : s.chanWaits h.sq c = false) : chanCmd i h c body s = s.answered (s.taken h) h (Reply.field St.badChannel 4) :=
  hostCmd_answered i h false false _ _ s hr (.inl rfl) hw _ _ (if_pos hc)

section
variable {s : State} {c sq : Nat} (hw : s.chanWaits sq c = false)
include hw

theorem State.startOf_of_chanWaits : s.startOf c = none := by
  simp only [State.chanWaits, Bool.or_eq_false_iff] at hw
  simpa using hw.1

theorem State.fetchedBefore_of_chanWaits : s.fetchedBefore sq c = false := by
  simp only [State.chanWaits, Bool.or_eq_false_iff] at hw
  exact hw.2

end

theorem State.withdrawStart_none {s : State} {c : Nat} (h : s.startOf c = none) (r : Reply) : s.withdrawStart c r = s := by
  simp only [State.withdrawStart, h]

/-! ## CREATE (R291, R292, R294) -/

section
variable {s : State} {c addr evq : Nat} {decode : Bool}

theorem State.createChannel_made {a : Accepted} (hidle : (s.channel c).state = .idle)
    (hevq : evq = 0 ∨ ((s.queue evq).valid = true ∧ (s.queue evq).ty = .heq)) (hcfg : s.checkCfg c decode addr none = .inr a) :
    s.createChannel c decode addr evq = (s.modChannel c fun _ => createdChannel decode evq a, { status := St.ok, result := a.result }) := by
  unfold State.createChannel
  rw [if_neg (not_not_intro hidle), if_neg fun ⟨hne, hno⟩ => hno (hevq.resolve_left hne), hcfg]

theorem State.createChannel_badState (h : (s.channel c).state ≠ .idle) : s.createChannel c decode addr evq = (s, { status := St.badState }) := if_pos h

/-! ## CONFIGURE (R292, R294) -/

theorem State.configureChannel_made {a : Accepted} (hst : (s.channel c).state = .configured ∨ (s.channel c).state = .stopped)
    (hcfg : s.checkCfg c (s.channel c).decode addr (some (s.channel c).tambour) = .inr a) :
    s.configureChannel c addr = (s.modChannel c fun x => x.configure a, { status := St.ok, result := a.result }) := by
  unfold State.configureChannel
  rw [if_neg fun ⟨hconf, hstop⟩ => hst.elim hconf hstop, hcfg]

theorem State.configureChannel_badState (hconf : (s.channel c).state ≠ .configured) (hstop : (s.channel c).state ≠ .stopped) :
    s.configureChannel c addr = (s, { status := St.badState }) := if_pos ⟨hconf, hstop⟩

end

section
variable {h : CmdHdr} {ch : BitVec 8} {addr : Word64} {s : State} (hr : s.ready (.channelConfigure h ch addr) h) (hw : s.chanWaits h.sq ch.toNat = false)
include hr hw

/-- CONFIGURE of a channel without an outstanding start runs its body and is answered. -/
theorem exec_channelConfigure {u : State} {r : Reply} (hc : ch.toNat < 128) (hu : (s.taken h).configureChannel ch.toNat addr.toNat = (u, r)) :
    exec (.channelConfigure h ch addr) s = .next (s.answered u h r) := by
  refine congrArg _ (hostCmd_answered _ _ _ _ _ _ _ hr (.inl rfl) (State.fetchedBefore_of_chanWaits hw) _ _ ((if_neg (Nat.not_le.mpr hc)).trans ?_))
  have hstart : (s.taken h).startOf ch.toNat = none := State.startOf_of_chanWaits (s := s) hw
  rw [State.withdrawStart_none hstart, hu]
  rfl

theorem exec_channelConfigure_badChannel (hc : 128 ≤ ch.toNat) :
    exec (.channelConfigure h ch addr) s = .next (s.answered (s.taken h) h (Reply.field St.badChannel 4)) :=
  congrArg _ (hostCmd_answered _ _ _ _ _ _ _ hr (.inl rfl) (State.fetchedBefore_of_chanWaits hw) _ _ (if_pos hc))

end

/-- Settles O14: an accepted configuration is put in force; a channel that the device does not have, or in another state, is refused. -/
theorem channelsAreCreatedAndConfigured : Obligations.ChannelsAreCreatedAndConfigured := by
  refine ⟨fun h c decode addr evq a s hr hc hw hidle hevq hcfg => ?_, fun h c addr a s hr hc hw hst hcfg => ?_,
    fun h c decode addr evq s hw hc => ⟨fun hr => ?_, fun hr => ?_⟩, fun h c decode addr evq s hw hc => ⟨fun hr hidle => ?_, fun hr hconf hstop => ?_⟩⟩
  · have hzero : evq.toNat = 0 ↔ evq = 0 := BitVec.toNat_inj (y := 0)
    refine congrArg _ ((chanCmd_answered hr hc hw (State.createChannel_made (s := s.taken h) hidle (hevq.imp_left hzero.mpr) hcfg)).trans ?_)
    simp only [createdChannel, Channel.configure, Accepted.result, hzero]
  · exact exec_channelConfigure hr hw hc (State.configureChannel_made (s := s.taken h) hst hcfg)
  · exact congrArg _ (chanCmd_badChannel hr hc hw)
  · exact exec_channelConfigure_badChannel hr hw hc
  · exact congrArg _ (chanCmd_answered hr hc hw (State.createChannel_badState (s := s.taken h) hidle))
  · exact exec_channelConfigure hr hw hc (State.configureChannel_badState (s := s.taken h) hconf hstop)

end Sys2Proof.Machine
end

section
/-!
CHANNEL_START, CHANNEL_STOP, CHANNEL_DESTROY and FORCE_INTRA (O15).
-/
namespace Sys2Proof.Machine

/-! ## START (R191, R294, R295) -/

@[simp] theorem State.twSend_peerArm (s : State) (m : TwMsg) (c : Nat) : (s.twSend m).peerArm c = s.peerArm c := by
  obtain ⟨l, hl⟩ := s.twSend_cases m
  rw [hl]
  rfl

section
variable {h : CmdHdr} {idx c sec ns fetchedAt : Nat} {join : Bool} {s : State} (hgood : s.startRefusal c join sec ns fetchedAt = none)
include hgood

theorem State.startChannel_alone (htwin : s.twinChannel c = false) :
    s.startChannel h idx c join sec ns fetchedAt = now_ (s.armChannel c (1000000000 * sec + ns) false) := by
  simp only [State.startChannel, hgood, htwin, if_true]

/-- The start of a twin channel whose peer has sent no ARM: this device's ARM leaves, and the command waits. -/
theorem State.startChannel_waits (htwin : s.twinChannel c = true) (hpeer : s.peerArm c = none) (hroom : s.host.deferred.length < 16) :
    s.startChannel h idx c join sec ns fetchedAt =
      let t := 1000000000 * sec + ns
      let dg := (s.channel c).digestAt t
      let u := (s.setOwnArm c (some (dg, t))).twSend (.arm c dg t)
      (u.addDeferred { sq := h.sq, cid := h.cid.toNat, idx := idx, op := .channelStart c join, since := u.now }, none) := by
  have halone : ¬ s.twinChannel c = false := by simp [htwin]
  have hbusy : ¬ (s.peerArm c = none ∧ 16 ≤ s.host.deferred.length) := fun ⟨_, hfull⟩ => Nat.not_le.mpr hroom hfull
  have hsent (own : Nat × Nat) (m : TwMsg) : ((s.setOwnArm c (some own)).twSend m).peerArm c = none := (State.twSend_peerArm _ m c).trans hpeer
  simp only [State.startChannel, hgood, if_neg halone, if_neg hbusy, hsent]

end

section
variable {h : CmdHdr} {ch : BitVec 8} {join : Bool} {sec : BitVec 48} {ns : BitVec 32} {s u : State}
  (hr : s.ready (.channelStart h ch join sec ns) h) (hc : ch.toNat < 128) (hw : s.chanWaits h.sq ch.toNat = false)
  (hout : (s.twinChannel ch.toNat && (s.findDeferred fun o => decide (o = .twinStart) || decide (o = .twinRejoin)).isSome) = false)
include hr hc hw hout

theorem exec_channelStart_answered {r : Reply}
    (hu : (s.taken h).startChannel h (s.indexAfter h.sq) ch.toNat join sec.toNat ns.toNat (s.fetchTime h.sq) = (u, some r)) :
    exec (.channelStart h ch join sec ns) s = .next (s.answered u h r) :=
  congrArg _ (hostCmd_answered _ _ _ _ _ _ _ hr (.inl rfl) (by rw [hw, hout, Bool.or_false]) _ _ ((if_neg (Nat.not_le.mpr hc)).trans hu))

theorem exec_channelStart_left
    (hu : (s.taken h).startChannel h (s.indexAfter h.sq) ch.toNat join sec.toNat ns.toNat (s.fetchTime h.sq) = (u, none)) :
    exec (.channelStart h ch join sec ns) s = .next (s.left u h) :=
  congrArg _ (hostCmd_left _ _ _ _ _ _ _ hr (.inl rfl) (by rw [hw, hout, Bool.or_false]) _ ((if_neg (Nat.not_le.mpr hc)).trans hu))

end

/-! ## STOP (R294, R295) -/

section
variable {s : State} {c : Nat}

theorem State.flushAbandons_noPics (h : (s.channel c).pics = []) : s.flushAbandons c = s := by
  simp [State.flushAbandons, State.unreleased, h]

theorem State.freeUnits_noPics (h : (s.channel c).pics = []) (f : Pic → Bool) : s.freeUnits c f = s := by simp [State.freeUnits, h]

theorem State.channelStopped_noPics (h : (s.channel c).pics = []) :
    s.channelStopped c = (s.modChannel c fun x => { x with state := .stopped, stopNs := none, rc := { x.rc with pending := [] } }).raise
      (Src.tambour + (s.channel c).tambour) Kind.chStopped (addrC c) 0 := by
  rw [State.channelStopped, State.flushAbandons_noPics h, State.freeUnits_noPics h]

variable {sec ns fetchedAt : Nat} (hns : ns < 1000000000)
include hns

theorem State.stopChannel_running (h : (s.channel c).state = .running) :
    s.stopChannel c sec ns fetchedAt =
      (s.modChannel c fun x => { x with stopNs := some (max fetchedAt (1000000000 * sec + ns)) }, { status := St.ok }) :=
  (if_neg (Nat.not_le.mpr hns)).trans (by rw [h])

theorem State.stopChannel_faulted (h : (s.channel c).state = .faulted) :
    s.stopChannel c sec ns fetchedAt = (s.modChannel c fun x => { x with state := .stopped }, { status := St.ok }) :=
  (if_neg (Nat.not_le.mpr hns)).trans (by rw [h])

theorem State.stopChannel_armed (h : (s.channel c).state = .armed) : s.stopChannel c sec ns fetchedAt = (s.channelStopped c, { status := St.ok }) :=
  (if_neg (Nat.not_le.mpr hns)).trans (by rw [h])

theorem State.stopChannel_badState (hrun : (s.channel c).state ≠ .running) (hfault : (s.channel c).state ≠ .faulted) (harm : (s.channel c).state ≠ .armed) :
    s.stopChannel c sec ns fetchedAt = (s, { status := St.badState }) := by
  refine (if_neg (Nat.not_le.mpr hns)).trans ?_
  split
  · next h => exact absurd h harm
  · next h => exact absurd h hfault
  · next h => exact absurd h hrun
  · rfl

end

/-! ## DESTROY (R294, R310) -/

section
variable {s : State} {c : Nat}

theorem State.unbindChannel_noFlows (hin : s.ingressOf c = []) (hout : s.egressOf c = []) : s.unbindChannel c = s := by
  simp only [State.unbindChannel, hin, List.foldl_nil, hout]

theorem State.destroyChannel_noFlows (h : (s.channel c).state = .configured ∨ (s.channel c).state = .stopped ∨ (s.channel c).state = .faulted)
    (hin : s.ingressOf c = []) (hout : s.egressOf c = []) :
    s.destroyChannel c =
      ({ s with codec := { s.codec with channels := SMap.set (fun _ => {}) s.codec.channels c {},
                                        subs := s.codec.subs.filter fun v => !(decide (v.kind = 0) && decide (v.source = c)) } },
        { status := St.ok }) := by
  rcases h with h | h | h <;> (simp only [State.destroyChannel, h, State.unbindChannel_noFlows hin hout]; rfl)

theorem State.destroyChannel_badState (h : (s.channel c).state = .idle ∨ (s.channel c).state.live = true) :
    s.destroyChannel c = (s, { status := St.badState }) := by
  unfold State.destroyChannel
  cases hst : (s.channel c).state <;> simp [hst, ChState.live] at h ⊢

/-! ## FORCE_INTRA (R93) -/

theorem State.forceIntra_adds (hencode : (s.channel c).decode = false) (hst : (s.channel c).state = .armed ∨ (s.channel c).state = .running) :
    s.forceIntra c =
      let p := (s.channel c).forceTarget
      (s.modChannel c fun x => { x with rc := { x.rc with force := if p ∈ x.rc.force then x.rc.force else x.rc.force ++ [p] } },
        { status := St.ok, result := p % 2 ^ 32 }) := by
  have hdec : ¬ (s.channel c).decode = true := by simp [hencode]
  have hlive : ¬ ((s.channel c).state ≠ .armed ∧ (s.channel c).state ≠ .running) := fun ⟨harm, hrun⟩ => hst.elim harm hrun
  simp only [State.forceIntra, if_neg hdec, if_neg hlive, List.contains_iff_mem]

end

/-- Settles O15: each command runs its body on the channel, by the channel's state. -/
theorem channelsStartAndStop : Obligations.ChannelsStartAndStop := by
  refine ⟨fun h c sec ns s hr hc hw htwin hgood => ?_, fun h c sec ns s hr hc hw htwin hout hpeer hroom hgood => ?_,
    fun h c sec ns s hr hc hw hns => ⟨fun hst => ?_, fun hst => ?_, fun hst hpics => ?_, fun hrun hfault harm => ?_⟩,
    fun h c s hr hc hw => ⟨fun hst hin hout => ?_, fun hst => ?_⟩, fun h c s hr hc hw hencode hst => ?_⟩
  · exact exec_channelStart_answered hr hc hw (by simp [htwin]) (State.startChannel_alone (s := s.taken h) hgood htwin)
  · exact exec_channelStart_left hr hc hw (by simp [hout]) (State.startChannel_waits (s := s.taken h) hgood htwin hpeer hroom)
  · exact congrArg _ (chanCmd_answered hr hc hw (State.stopChannel_running (s := s.taken h) hns hst))
  · exact congrArg _ (chanCmd_answered hr hc hw (State.stopChannel_faulted (s := s.taken h) hns hst))
  · refine congrArg _ (chanCmd_answered hr hc hw ((State.stopChannel_armed (s := s.taken h) hns hst).trans ?_))
    rw [State.channelStopped_noPics (s := s.taken h) hpics]
    rfl
  · exact congrArg _ (chanCmd_answered hr hc hw (State.stopChannel_badState (s := s.taken h) hns hrun hfault harm))
  · exact congrArg _ (chanCmd_answered hr hc hw (State.destroyChannel_noFlows (s := s.taken h) hst hin hout))
  · exact congrArg _ (chanCmd_answered hr hc hw (State.destroyChannel_badState (s := s.taken h) hst))
  · exact congrArg _ (chanCmd_answered hr hc hw (State.forceIntra_adds (s := s.taken h) hencode hst))

end Sys2Proof.Machine
end

section
/-!
CH_RUNNING, STOP_TIME_REACHED and CH_FAULTED (O38).
-/
namespace Sys2Proof.Machine

section
variable {s : State} {c : Nat} (hc : c < 128)
include hc

/-! ## CH_RUNNING (R294) -/

theorem exec_chRunning_due (hst : (s.channel c).state = .armed) (ht : (s.channel c).startNs ≤ s.now) :
    exec (.chRunning c) s =
      .next ((s.modChannel c fun x => { x with state := .running }).raise (Src.tambour + (s.channel c).tambour) Kind.chRunning (addrC c) 0) :=
  (if_pos hc).trans (congrArg _ (if_pos ⟨hst, ht⟩))

theorem exec_chRunning_early (h : (s.channel c).state ≠ .armed ∨ s.now < (s.channel c).startNs) : exec (.chRunning c) s = .next s :=
  (if_pos hc).trans (congrArg _ (if_neg fun ⟨hst, ht⟩ => h.elim (fun hne => hne hst) (Nat.not_lt.mpr ht)))

/-! ## STOP_TIME_REACHED (R55, R132, R294) -/

theorem exec_stopTimeReached : exec (.stopTimeReached c) s = .next (s.stopTime c) := if_pos hc

/-! ## CH_FAULTED (R560) -/

theorem exec_chFaulted : exec (.chFaulted c) s = .next (s.channelFaulted c) := if_pos hc

end

section
variable {s : State} {c t : Nat}

theorem State.stopTime_due (hstop : (s.channel c).stopNs = some t) (hst : (s.channel c).state = .running) (ht : t ≤ s.now) :
    s.stopTime c = ((s.freeUnits c fun y => !(y.started || y.decoded)).modChannel c fun x =>
      { x with state := .draining, stopNs := none, rc := { x.rc with pending := [] }, pics := x.pics.filter fun e => e.2.started || e.2.decoded }).checkDrained c := by
  simp only [State.stopTime, hstop, if_pos (And.intro hst ht)]

theorem State.stopTime_none (hstop : (s.channel c).stopNs = none) : s.stopTime c = s := by simp only [State.stopTime, hstop]

theorem State.stopTime_early (hstop : (s.channel c).stopNs = some t) (h : (s.channel c).state ≠ .running ∨ s.now < t) : s.stopTime c = s := by
  have hnot : ¬ ((s.channel c).state = .running ∧ t ≤ s.now) := fun ⟨hst, ht⟩ => h.elim (fun hne => hne hst) (Nat.not_lt.mpr ht)
  simp only [State.stopTime, hstop, if_neg hnot]

theorem State.channelFaulted_noReaction (h : s.flt.reaction = none) : s.channelFaulted c = s := by simp only [State.channelFaulted, h]

theorem State.channelFaulted_takenIn {r : Reaction} {k : Nat} (hr : s.flt.reaction = some r) (hk : r.channels.find? (fun e => e.1 = c) = some (c, k)) :
    s.channelFaulted c =
      let u := (s.setReaction { r with channels := r.channels.filter (fun e => e.1 ≠ c) }).modChannel c fun x =>
        { x with state := .faulted, faultKind := k, stopNs := none }
      (u.raise (Src.tambour + (u.channel c).tambour) Kind.chFaulted (addrC c) k).endClass2 := by
  simp only [State.channelFaulted, hr, hk]

end

/-- Settles O38: each event is its state operation, which acts at its time, or for a channel that the reaction has taken in. -/
theorem channelsReachTheirStates : Obligations.ChannelsReachTheirStates := by
  refine fun c s hc => ⟨exec_chRunning_due hc, exec_chRunning_early hc, fun t hstop hst ht => ?_, fun hstop => ?_, fun t hstop h => ?_, fun hr => ?_,
    fun r k hr hk => ?_⟩
  · exact (exec_stopTimeReached hc).trans (congrArg _ (State.stopTime_due hstop hst ht))
  · exact (exec_stopTimeReached hc).trans (congrArg _ (State.stopTime_none hstop))
  · exact (exec_stopTimeReached hc).trans (congrArg _ (State.stopTime_early hstop h))
  · exact (exec_chFaulted hc).trans (congrArg _ (State.channelFaulted_noReaction hr))
  · exact (exec_chFaulted hc).trans (congrArg _ (State.channelFaulted_takenIn hr hk))

end Sys2Proof.Machine
end

section
/-!
FLOW_BIND, UNBIND and MEMBERSHIP_REPORT (O17).
-/
namespace Sys2Proof.Machine

/-! ## What the cell well leaves of the network's state (R314–R321) -/

section
variable (s : State) (o : Nat)

theorem State.modWell_net (w : WellSel) (f : WellSt → WellSt) : (s.modWell w f).net = s.net := by cases w <;> rfl

theorem State.refuseAlloc_net (g : Grant) : (s.refuseAlloc g).net = s.net := by cases g <;> rfl

theorem State.takeCell_net : (s.takeCell o).net = s.net := ite_eq (State.refuseAlloc_net _ _) (ite_eq (State.refuseAlloc_net _ _) rfl)

theorem State.serveAlloc_cell_net : (s.serveAlloc .cell o).net = s.net := by
  refine ite_eq (State.refuseAlloc_net _ _) ?_
  split
  · exact State.takeCell_net _ _
  · exact State.refuseAlloc_net _ _

theorem State.tellFirmware_net (w : WellSel) (granted : Nat) : (s.tellFirmware w o granted).net = s.net := ite_eq (State.modWell_net _ _ _) rfl

theorem State.freeBuffer_cell_net (addr : Nat) : (s.freeBuffer .cell addr o).net = s.net := by
  unfold State.freeBuffer
  split
  · rfl
  · exact ite_eq rfl (ite_eq rfl rfl)

theorem State.freeCells_net (l : List Nat) : (s.freeCells l o).net = s.net := foldl_eq_of_step (fun t _ => t.freeBuffer_cell_net o _) l s

theorem State.arbitrate_cell_net (n : Nat) : (State.arbitrate n s .cell o).1.net = s.net := by
  induction n generalizing s with
  | zero => rfl
  | succ k ih =>
    have hserve (q : Nat) : ((s.takeRequest .cell q).serveAlloc .cell q).net = s.net := State.serveAlloc_cell_net _ _
    unfold State.arbitrate
    split
    · next j q hk hq =>
      obtain rfl : k = j := Nat.succ.inj hk
      dsimp only
      split
      · exact (ih _).trans ((State.tellFirmware_net _ _ _ _).trans (hserve q))
      · split <;> exact hserve q
    · rfl

theorem State.alloc_cell_net : (s.alloc .cell o).1.net = s.net := State.arbitrate_cell_net _ _ _

theorem State.allocCells_net (n : Nat) (got : List Nat) : (State.allocCells n s o got).1.net = s.net := by
  induction n generalizing s got with
  | zero => rfl
  | succ k ih =>
    have halloc := s.alloc_cell_net o
    unfold State.allocCells
    split
    · next t i h => exact (ih _ _).trans ((congrArg (State.net ∘ Prod.fst) h).symm.trans halloc)
    · next t h => exact (State.freeCells_net _ _ _).trans ((congrArg (State.net ∘ Prod.fst) h).symm.trans halloc)

theorem State.storeFrame_net (cells : List Nat) (bytes : List Byte) : (s.storeFrame cells bytes).net = s.net := by
  induction cells generalizing s bytes with
  | nil => rfl
  | cons i rest ih =>
    cases rest with
    | nil => rfl
    | cons j rest => exact ih _ _

end

/-- The group memberships, which no ring, register or memory holds. -/
theorem OffRings.members : OffRings fun s => s.net.members where
  setReg _ _ _ := rfl
  modQueue _ _ _ := rfl
  modSrc _ _ _ := rfl
  spaceWrite _ sp _ _ _ := by cases sp <;> rfl
  raise _ _ _ _ _ := rfl
  host _ _ _ := rfl

theorem State.efqPut_members (s : State) (flow v : Nat) : (s.efqPut flow v).net.members = s.net.members :=
  ite_eq (p := fun t : State => t.net.members) rfl (OffRings.members.putEntry _ _ _)

/-- A frame that firmware sends changes no membership, whether it finds its cells or not. -/
theorem State.fwSend_members (s : State) (flow : Nat) (bs : List Nat) : (s.fwSend flow bs).1.net.members = s.net.members := by
  have hcells := s.allocCells_net 19 (chainLen bs.length) []
  unfold State.fwSend
  split
  · next t h => rw [h] at hcells; exact congrArg NetSt.members hcells
  · next t cells h =>
    rw [h] at hcells
    have hstored : (t.storeFrame cells (bs.map (BitVec.ofNat 8))).net.members = s.net.members :=
      congrArg NetSt.members ((State.storeFrame_net _ _ _).trans hcells)
    exact (State.efqPut_members _ _ _).trans (ite_eq (p := fun t : State => t.net.members) hstored hstored)

/-! ## FLOW_BIND (R296, R362) -/

section
variable {h : CmdHdr} {ch : BitVec 8} {flow : BitVec 11} {solo : Bool} {port : BitVec 3} {addr : Word64} {s : State}

/-- A record that its length refuses is answered so. -/
theorem exec_flowBind_refused {egress : Bool} {len : BitVec 24} {r : Reply} (hr : s.ready (.flowBind h ch flow egress solo port addr len) h)
    (hw : s.chanWaits h.sq ch.toNat = false) (hrec : (s.taken h).bindRecord addr.toNat len.toNat = .inl r) :
    exec (.flowBind h ch flow egress solo port addr len) s = .next (s.answered (s.taken h) h r) := by
  refine congrArg _ (hostCmd_answered _ _ _ _ _ _ _ hr (.inl rfl) hw _ _ ?_)
  simp only [hrec]

theorem State.bindRecord_read {v : Nat} (hread : s.hostRead addr.toNat 128 = some v) : s.bindRecord addr.toNat 128 = .inr v := by
  simp [State.bindRecord, hread]

section
variable {v : Nat} {u : State} {r : Reply} (hw : s.chanWaits h.sq ch.toNat = false) (hread : s.hostRead addr.toNat 128 = some v)
include hw hread

theorem exec_flowBind_ingress (hr : s.ready (.flowBind h ch flow false solo port addr 128) h)
    (hu : (s.taken h).bindIn flow.toNat ch.toNat port.toNat solo v = (u, r)) :
    exec (.flowBind h ch flow false solo port addr 128) s = .next (s.answered u h r) := by
  refine congrArg _ (hostCmd_answered _ _ _ _ _ _ _ hr (.inl rfl) hw _ _ ?_)
  have hrec : (s.taken h).bindRecord addr.toNat (128 : BitVec 24).toNat = .inr v := State.bindRecord_read (s := s.taken h) hread
  simp only [hrec, hu, Bool.false_eq_true, if_false]

theorem exec_flowBind_egress (hr : s.ready (.flowBind h ch flow true solo port addr 128) h)
    (hu : (s.taken h).bindOut flow.toNat ch.toNat port.toNat solo v = (u, r)) :
    exec (.flowBind h ch flow true solo port addr 128) s = .next (s.answered u h r) := by
  refine congrArg _ (hostCmd_answered _ _ _ _ _ _ _ hr (.inl rfl) hw _ _ ?_)
  have hrec : (s.taken h).bindRecord addr.toNat (128 : BitVec 24).toNat = .inr v := State.bindRecord_read (s := s.taken h) hread
  simp only [hrec, hu, if_true]

end

end

section
variable {s : State} {flow ch port v : Nat}

theorem State.bindIn_bound (hfree : (s.iflow flow).bound = false) (hfield : (iflowOf v).badField = none)
    (hfits : s.channelFits ch (iflowOf v).kind false = true) (hchan : s.channelFree ch = true) (hport : s.ingressFits ch port (iflowOf v) = none) :
    s.bindIn flow ch port false v = (s.bindIngress flow ch port (iflowOf v), { status := St.ok }) := by
  simp [State.bindIn, hfree, hfield, hfits, hchan, hport]

theorem State.bindOut_bound {solo : Bool} (hflow : flow < 2032) (hfree : (s.eflow flow).bound = false) (hfield : (eflowOf v).badField = none)
    (hfits : s.channelFits ch (eflowOf v).kind true = true) (hchan : s.channelFree ch = true)
    (hquota : ch = 0xFF ∨ ((s.egressOf ch).filter fun (e : Nat × EFlow) => e.2.solo == solo).length < 4)
    (hlen : ch = 0xFF ∨ (eflowOf v).largest (s.channel ch).cfg ≤ s.portFrame port)
    (hsolo : solo = true → ch ≠ 0xFF ∧ s.twinChannel ch = true)
    (hsame : (eflowOf v).kind = 0 → ch ≠ 0xFF → ∀ e ∈ s.egressOf ch, e.2.kind = 0 → e.2.ssrc = (eflowOf v).ssrc ∧ e.2.pt = (eflowOf v).pt) :
    s.bindOut flow ch port solo v = (s.bindEgress flow ch port solo (eflowOf v), { status := St.ok }) := by
  have hmost : ¬ (ch ≠ 0xFF ∧ decide (4 ≤ ((s.egressOf ch).filter fun (e : Nat × EFlow) => e.2.solo == solo).length) = true) :=
    fun ⟨hne, hfull⟩ => absurd (of_decide_eq_true hfull) (Nat.not_le.mpr (hquota.resolve_left hne))
  have hframe : ¬ (ch ≠ 0xFF ∧ s.portFrame port < (eflowOf v).largest (s.channel ch).cfg) :=
    fun ⟨hne, hlong⟩ => Nat.not_lt.mpr (hlen.resolve_left hne) hlong
  have htwin : ¬ (solo = true ∧ (ch = 0xFF ∨ s.twinChannel ch = false)) := by
    rintro ⟨hs, hbad⟩
    obtain ⟨hne, htw⟩ := hsolo hs
    simp [hne, htw] at hbad
  have hstream : ¬ ((eflowOf v).kind = 0 ∧ ch ≠ 0xFF ∧
      ((s.egressOf ch).any fun (e : Nat × EFlow) => decide (e.2.kind = 0) && (decide (e.2.ssrc ≠ (eflowOf v).ssrc) || decide (e.2.pt ≠ (eflowOf v).pt))) = true) := by
    rintro ⟨hkind, hne, hany⟩
    obtain ⟨e, he, hdiff⟩ := List.any_eq_true.mp hany
    simp only [Bool.and_eq_true, Bool.or_eq_true, decide_eq_true_eq] at hdiff
    obtain ⟨hssrc, hpt⟩ := hsame hkind hne e he hdiff.1
    exact hdiff.2.elim (fun hne => hne hssrc) fun hne => hne hpt
  have hbound : ¬ (s.eflow flow).bound = true := by simp [hfree]
  have hfit : ¬ s.channelFits ch (eflowOf v).kind true = false := by simp [hfits]
  have hch : ¬ s.channelFree ch = false := by simp [hchan]
  simp only [State.bindOut, if_neg (Nat.not_le.mpr hflow), if_neg hbound, hfield, if_neg hfit, if_neg hch, if_neg hmost, if_neg hframe, if_neg htwin,
    if_neg hstream]

/-! ## UNBIND (R362, R363) -/

theorem State.unbindIngress_empty (hempty : (s.queue (8192 + flow)).isEmpty = true) :
    s.unbindIngress flow =
      let u := (s.modIflow flow fun _ => {}).modQueue (8192 + flow) fun _ => {}
      { u with net := u.net.leaveGroup flow } := by
  have hdrain : s.drainIfq 2048 flow = s := if_pos hempty
  simp only [State.unbindIngress, hdrain, ifqId]

theorem State.unbindEgress_empty (hempty : (s.queue (10240 + flow)).isEmpty = true) :
    s.unbindEgress flow = (s.modEflow flow fun _ => {}).modQueue (10240 + flow) fun _ => {} := by
  have hdrain : s.drainEfq (2049 + s.net.efqWait.length) flow = s := by
    rw [show 2049 + s.net.efqWait.length = 2048 + s.net.efqWait.length + 1 by omega]
    exact if_pos hempty
  simp only [State.unbindEgress, hdrain, efqId]

end

section
variable {h : CmdHdr} {flow : BitVec 11} {s : State}

theorem exec_unbind_ingress (hr : s.ready (.unbind h flow false) h) :
    ((s.iflow flow.toNat).bound = true →
      exec (.unbind h flow false) s = .next (s.answered ((s.taken h).unbindIngress flow.toNat) h { status := St.ok })) ∧
    ((s.iflow flow.toNat).bound = false → exec (.unbind h flow false) s = .next (s.answered (s.taken h) h (Reply.field St.badState 8))) := by
  refine ⟨fun hb => ?_, fun hb => ?_⟩
  · exact congrArg _ ((plainCmd_answered _ _ _ _ _ hr (.inl rfl)).trans (by simp [hb]))
  · exact congrArg _ ((plainCmd_answered _ _ _ _ _ hr (.inl rfl)).trans (by simp [hb]))

theorem exec_unbind_egress (hr : s.ready (.unbind h flow true) h) :
    (flow.toNat < 2032 → (s.eflow flow.toNat).bound = true →
      exec (.unbind h flow true) s = .next (s.answered ((s.taken h).unbindEgress flow.toNat) h { status := St.ok })) ∧
    ((s.eflow flow.toNat).bound = false → exec (.unbind h flow true) s = .next (s.answered (s.taken h) h (Reply.field St.badState 8))) := by
  refine ⟨fun hflow hb => ?_, fun hb => ?_⟩
  · have hok : ¬ (2032 ≤ flow.toNat ∨ (s.eflow flow.toNat).bound = false) := by simp [hb, hflow]
    exact congrArg _ ((plainCmd_answered _ _ _ _ _ hr (.inl rfl)).trans (by simp [hok]))
  · exact congrArg _ ((plainCmd_answered _ _ _ _ _ hr (.inl rfl)).trans (by simp [hb]))

end

/-! ## MEMBERSHIP_REPORT (R363) -/

section
variable {flow : Nat} {m : Member} {rest : List Member} {s : State}

theorem NetSt.reported_leave {n : NetSt} (hn : n.members = m :: rest) (hdue : m.due = some false) :
    n.reported m = { n with reports := (m.port, m.group, false) :: n.reports, members := rest } := by
  simp [NetSt.reported, hn, hdue]

theorem NetSt.reported_join {n : NetSt} (hn : n.members = m :: rest) (hdue : m.due = some true) (hm : m ∉ rest) :
    n.reported m = { n with reports := (m.port, m.group, true) :: n.reports, members := { m with due := none, answer := false } :: rest } := by
  have hrest : (rest.map fun o => if o = m then { o with due := none, answer := false } else o) = rest := by
    refine (List.map_congr_left fun o ho => if_neg ?_).trans (List.map_id rest)
    rintro rfl
    exact hm ho
  simp [NetSt.reported, hn, hdue, hrest]

variable (hflow : flow < 2048) (hs : s.net.members = m :: rest) (hm : m.flow = flow) (hdue : m.due ≠ none)
include hflow hs hm hdue

theorem exec_membershipReport {t : State} {sent : Bool} (hsend : s.fwSend (2040 + m.port) (s.reportFrame m) = (t, sent)) :
    exec (.membershipReport flow) s = .next (if sent then { t with net := t.net.reported m } else t) := by
  have hfind : s.net.members.find? (fun m => decide (m.flow = flow) && m.due.isSome) = some m := by
    rw [hs]
    exact List.find?_cons_of_pos (by simpa [hm] using Option.ne_none_iff_isSome.mp hdue)
  refine (if_pos hflow).trans ?_
  simp only [hfind, hsend]
  cases sent <;> rfl

end

/-- Settles O17: a record that passes its checks is bound, an entry whose queue is empty unbound, and the first report due sent where it finds its cells. -/
theorem flowsAreBoundAndUnbound : Obligations.FlowsAreBoundAndUnbound := by
  refine ⟨fun h c flow port addr v s hr hw hread hfree hfield hfits hchan hport => ?_,
    fun h c flow solo port addr v s hr hw hread hflow hfree hfield hfits hchan hquota hlen hsolo hsame => ?_,
    fun h c flow egress solo port addr len s hr hw => ⟨fun hlen => ?_, fun hne hlen => ?_⟩,
    fun h flow s hr hb hempty => ?_, fun h flow s hr hflow hb hempty => ?_,
    fun h flow s => ⟨fun hr => (exec_unbind_ingress hr).2, fun hr => (exec_unbind_egress hr).2⟩,
    fun flow m rest s hflow hs hm hdue => ?_⟩
  · exact exec_flowBind_ingress hw hread hr (State.bindIn_bound (s := s.taken h) hfree hfield hfits hchan hport)
  · exact exec_flowBind_egress hw hread hr (State.bindOut_bound (s := s.taken h) hflow hfree hfield hfits hchan hquota hlen hsolo hsame)
  · exact exec_flowBind_refused hr hw (if_pos (by simp [hlen]))
  · exact exec_flowBind_refused hr hw ((if_neg (BitVec.toNat_ne_iff_ne.mpr hne)).trans (if_pos (BitVec.toNat_ne_iff_ne.mpr hlen)))
  · exact ((exec_unbind_ingress hr).1 hb).trans (by rw [State.unbindIngress_empty (s := s.taken h) hempty])
  · exact ((exec_unbind_egress hr).1 hflow hb).trans (by rw [State.unbindEgress_empty (s := s.taken h) hempty])
  · intro r
    have hmembers : r.1.net.members = m :: rest := (s.fwSend_members _ _).trans hs
    have hexec {sent : Bool} (hsent : r.2 = sent) := exec_membershipReport hflow hs hm hdue (sent := sent) (Prod.ext rfl hsent)
    refine ⟨s.fwSend_members _ _, fun hsent hleave => (hexec hsent).trans ?_, fun hsent hjoin hnew => (hexec hsent).trans ?_, fun hsent => hexec hsent⟩
    · rw [if_pos rfl, NetSt.reported_leave hmembers hleave]
    · rw [if_pos rfl, NetSt.reported_join hmembers hjoin hnew]

end Sys2Proof.Machine
end

section
/-!
GATE_LIST_LOAD, GATE_SWITCH, GATE_ENTRY_END, SHAPER_SET and SHAPER_REFILL (O18).
-/
namespace Sys2Proof.Machine

/-! ## Gate lists (R376, R379, R380) -/

section
variable {s : State} {port : Nat}

theorem State.loadGates_loaded {count addr sec ns cycle v : Nat} (hread : s.hostRead addr (8 * (count + 1)) = some v)
    (hgood : gateListRefusal ((List.range (count + 1)).map fun i => (bitsAt v (64 * i) 8, bitsAt v (64 * i + 32) 32)) ns cycle = none) :
    s.loadGates port count addr sec ns cycle =
      (s.modGate port fun g => g.load { entries := (List.range (count + 1)).map fun i => (bitsAt v (64 * i) 8, bitsAt v (64 * i + 32) 32),
                                        base := 1000000000 * sec + ns, cycle := cycle } s.now, { status := St.ok }) := by
  simp only [State.loadGates, hread, hgood]

/-- A loaded list by what is pending already (R380). -/
theorem Gate.load_eq (g : Gate) (l : GateList) (now : Nat) :
    g.load l now =
      let e := (l, firstCycle l.base l.cycle (now + 2000))
      match g.pending with
      | none => { g with pending := some e }
      | some p => if p.2 < now + 2000 then { g with next := some e } else { g with pending := some e, next := none } := by
  unfold Gate.load
  cases g.pending <;> rfl

/-- Following the list in force moves the entry that the port shows, and no list or window. -/
theorem Gate.follow_lists (g : Gate) (now : Nat) :
    (g.follow now).oper = g.oper ∧ (g.follow now).pending = g.pending ∧ (g.follow now).next = g.next ∧ (g.follow now).windows = g.windows := by
  unfold Gate.follow
  split
  · exact ⟨rfl, rfl, rfl, rfl⟩
  · dsimp only
    split <;> exact ⟨rfl, rfl, rfl, rfl⟩

theorem Gate.follow_moves {g : Gate} {l : GateList} {now : Nat} (hoper : g.oper = some l) (h : g.entry ≠ (l.at_ now).1 ∨ g.gates ≠ (l.at_ now).2.1) :
    g.follow now = { g with entry := (l.at_ now).1, gates := (l.at_ now).2.1, since := now } := by
  simp only [Gate.follow, hoper, if_neg (fun hsame : g.entry = (l.at_ now).1 ∧ g.gates = (l.at_ now).2.1 => h.elim (· hsame.1) (· hsame.2))]

theorem Gate.switch_lists (g : Gate) (l : GateList) (sw now : Nat) :
    (g.switch l sw now).oper = some { l with base := sw } ∧ (g.switch l sw now).pending = g.next ∧ (g.switch l sw now).next = none ∧
    (g.switch l sw now).windows = (List.range 8).map { l with base := sw : GateList }.window := Gate.follow_lists _ _

variable (hport : port < 8)
include hport

theorem exec_gateSwitch_due {l : GateList} {sw : Nat} (hpend : (s.gate port).pending = some (l, sw)) (ht : sw ≤ s.now) :
    exec (.gateSwitch port) s =
      .next ((s.modGate port fun g => g.switch l sw s.now).raise (Src.gate + port) Kind.gateSwitch 0 (flowDetail 0 port)) := by
  refine (if_pos hport).trans ?_
  simp only [hpend]
  exact if_pos ht

theorem exec_gateSwitch_early (h : (s.gate port).pending = none ∨ ∃ p, (s.gate port).pending = some p ∧ s.now < p.2) :
    exec (.gateSwitch port) s = .next s := by
  refine (if_pos hport).trans ?_
  obtain hnone | ⟨p, hpend, ht⟩ := h
  · simp only [hnone]
  · simp only [hpend]
    exact if_neg (Nat.not_le.mpr ht)

theorem exec_gateEntryEnd : exec (.gateEntryEnd port) s = .next (s.modGate port fun g => g.follow s.now) := if_pos hport

end

/-! ## Shapers (R372, R373) -/

section
variable {s : State} {flow k rate burst : Nat}

theorem State.setShaper_waits (hb : (s.eflow flow).bound = true) (hne : burst ≠ 0) (hburst : s.largestFrame (s.eflow flow) + 20 ≤ burst)
    (hrate : rate ≤ 100000000000) :
    s.setShaper flow k rate burst =
      (s.modEflow flow fun f =>
        let g := f.refill s.ptpTicks
        { g with pendSet := some ⟨k, rate, burst⟩, lastRef := if g.rate = 0 then s.ptpTicks else g.lastRef }, { status := St.ok }) := by
  unfold State.setShaper
  rw [if_neg (by simp [hb]), if_neg hne, if_neg (Nat.not_lt.mpr hburst), if_neg (Nat.not_lt.mpr hrate)]

theorem State.setShaper_unbound (hb : (s.eflow flow).bound = false) : s.setShaper flow k rate burst = (s, Reply.field St.badState 0x08) := if_pos hb

theorem State.setShaper_noBurst (hb : (s.eflow flow).bound = true) : s.setShaper flow k rate 0 = (s, Reply.field St.lenZero 0x18) :=
  (if_neg (by simp [hb])).trans (if_pos rfl)

end

/-- A refill with no setting pending adds the tokens of the boundaries that have passed. -/
theorem EFlow.refill_adds {f : EFlow} {t : Nat} (hset : f.pendSet = none) (hrate : f.rate ≠ 0) (hlast : f.lastRef ≤ t)
    (hn : t / 2 ^ f.k - f.lastRef / 2 ^ f.k ≠ 0) :
    f.refill t =
      let gain := (t / 2 ^ f.k - f.lastRef / 2 ^ f.k) * (f.rate * 2 ^ f.k * 40) + f.carry
      { f with tokens := min (8 * f.burst) (f.tokens + gain / 1000000000), carry := gain % 1000000000, lastRef := t / 2 ^ f.k * 2 ^ f.k } := by
  have hwaits : f.takeSet t = f := by simp only [EFlow.takeSet, hset]
  have hgains : ¬ (f.rate = 0 ∨ t / 2 ^ f.k - f.lastRef / 2 ^ f.k = 0) := fun h => h.elim hrate hn
  simp only [EFlow.refill, if_neg (Nat.not_lt.mpr hlast), hwaits, EFlow.refillTo, if_neg hgains]

/-- A change of an egress flow entry is read at the entry as it stands. -/
theorem State.modEflow_congr {s : State} {flow : Nat} {f g : EFlow → EFlow} (h : f (s.eflow flow) = g (s.eflow flow)) :
    s.modEflow flow f = s.modEflow flow g :=
  congrArg (fun e => { s with net := { s.net with eflows := SMap.set (fun _ => {}) s.net.eflows flow e } }) h

/-- A change of a gate scheduler is read at the scheduler as it stands. -/
theorem State.modGate_congr {s : State} {port : Nat} {f g : Gate → Gate} (h : f (s.gate port) = g (s.gate port)) : s.modGate port f = s.modGate port g :=
  congrArg (fun e => { s with net := { s.net with gates := SMap.set (fun _ => {}) s.net.gates port e } }) h

theorem exec_shaperRefill_bound {s : State} {flow : Nat} (hflow : flow < 2048) (hb : (s.eflow flow).bound = true) :
    exec (.shaperRefill flow) s = .next (s.modEflow flow fun f => f.refill s.ptpTicks) :=
  (if_pos hflow).trans (congrArg _ (if_pos hb))

/-- Settles O18: a list that is accepted is loaded, switched to and followed at its times; a shaper's setting waits, and its refill adds tokens. -/
theorem gatesAndShapersAreSet : Obligations.GatesAndShapersAreSet := by
  refine ⟨fun h port count addr sec ns cycle v s hr hq hread hgood => ?_, fun port l sw s hport hpend ht => ?_, fun port s => exec_gateSwitch_early,
    fun port l s hport hoper h => ?_, fun h flow k rate burst s hr hb hne hburst hrate => ?_,
    fun h flow k rate burst s hr => ⟨fun hb => ?_, fun hb hz => ?_⟩, fun flow n s hflow hb hset hrate hlast hn hne => ?_⟩
  · refine congrArg _ ((plainCmd_answered _ _ _ _ _ hr (.inr hq)).trans ?_)
    rw [State.loadGates_loaded (s := s.taken h) hread hgood]
    refine congrArg (s.answered · h _) (State.modGate_congr (s := s.taken h) ((Gate.load_eq _ _ _).trans ?_))
    rfl
  · exact ⟨_, exec_gateSwitch_due hport hpend ht, Gate.switch_lists (s.gate port) l sw s.now⟩
  · exact (exec_gateEntryEnd hport).trans (congrArg _ (State.modGate_congr (Gate.follow_moves hoper h)))
  · have hburst0 : burst.toNat ≠ 0 := BitVec.toNat_ne_iff_ne.mpr hne
    refine congrArg _ ((plainCmd_answered _ _ _ _ _ hr (.inl rfl)).trans ?_)
    rw [State.setShaper_waits (s := s.taken h) hb hburst0 hburst hrate]
    rfl
  · refine congrArg _ ((plainCmd_answered _ _ _ _ _ hr (.inl rfl)).trans ?_)
    rw [State.setShaper_unbound (s := s.taken h) hb]
  · subst hz
    refine congrArg _ ((plainCmd_answered _ _ _ _ _ hr (.inl rfl)).trans ?_)
    have hset := State.setShaper_noBurst (s := s.taken h) (k := k.toNat) (rate := rate.toNat) hb
    exact congrArg (fun p : State × Reply => s.answered p.1 h p.2) hset
  · subst hn
    exact (exec_shaperRefill_bound hflow hb).trans (congrArg _ (State.modEflow_congr (EFlow.refill_adds hset hrate hlast hne)))

end Sys2Proof.Machine
end

section
/-!
QUERY, RESET and DEV_RESET (O22).
-/
namespace Sys2Proof.Machine

/-! ## QUERY (R290, R299) -/

/-- A command that runs in diagnostic hold too, on a queue that takes it now, runs its body and is answered. -/
theorem hostCmd_inHold_answered {c : Instr} {h : CmdHdr} {admin waits : Bool} {body : Nat → State → State × Option Reply} {s u : State} {r : Reply}
    (hr : s.canTake c h = true) (hb : h.badCopies = 0) (ha : admin = false ∨ h.sq = 0) (hw : waits = false)
    (hu : body (s.indexAfter h.sq) (s.taken h) = (u, some r)) : hostCmd c h admin true waits body s = s.answered u h r := by
  have hadmin : ¬ (admin = true ∧ h.sq ≠ 0) := fun ⟨hadm, hq⟩ => ha.elim (fun hno => by simp [hno] at hadm) hq
  have hbody : body (s.indexAfter h.sq) (s.dropFetched h.sq) = (u, some r) := hu
  have n1 : ¬ 1 ≤ h.badCopies := by omega
  have n2 : ¬ 2 ≤ h.badCopies := by omega
  unfold hostCmd
  rw [if_neg (by simp [hr, hw])]
  simp only [n1, n2, if_false, Bool.true_eq_false, and_false, hadmin, hbody]
  rfl

section
variable {h : CmdHdr} {sel : BitVec 4} {obj : BitVec 18} {addr : Word64} {len : BitVec 24} {s u : State} {r : Reply}

theorem exec_query (hr : s.canTake (.query h sel obj addr len) h = true) (hb : h.badCopies = 0)
    (hw : sel = 1 ∨ sel = 3 → s.chanWaits h.sq obj.toNat = false)
    (hu : (s.taken h).answerQuery sel.toNat obj.toNat addr.toNat len.toNat = (u, r)) :
    exec (.query h sel obj addr len) s = .next (s.answered u h r) := by
  have hnamed : ((decide (sel = 1) || decide (sel = 3)) && s.chanWaits h.sq obj.toNat) = false := by
    rw [Bool.and_eq_false_imp, Bool.or_eq_true, decide_eq_true_eq, decide_eq_true_eq]
    exact hw
  exact congrArg _ (hostCmd_inHold_answered hr hb (.inl rfl) hnamed (congrArg now_ hu))

end

section
variable {s t : State} {sel obj addr len : Nat} {l : List Byte}

theorem State.answerQuery_noBuffer : s.answerQuery sel obj addr 0 = (s, Reply.field St.lenZero 0x18) := if_pos rfl

variable (hlen : len ≠ 0)
include hlen

theorem State.answerQuery_refused {r : Reply} (h : s.queryReply sel obj = .inl r) : s.answerQuery sel obj addr len = (s, r) := by
  simp only [State.answerQuery, if_neg hlen, h]

theorem State.answerQuery_short (h : s.queryReply sel obj = .inr (l, t)) (hl : len < l.length) :
    s.answerQuery sel obj addr len = (s, Reply.field St.lenOverBuffer 0x18) := by
  simp only [State.answerQuery, if_neg hlen, h, if_pos hl]

theorem State.answerQuery_written {n : Nat} (h : s.queryReply sel obj = .inr (l, t)) (hn : l.length = n) (hl : n ≤ len) :
    s.answerQuery sel obj addr len = ({ t with hostMem := Memory.writeBytes zeroDefault t.hostMem addr l }, { status := St.ok, result := n }) := by
  subst hn
  simp only [State.answerQuery, if_neg hlen, h, if_neg (Nat.not_lt.mpr hl)]

end

/-- The fault log's reply is 16 bytes for each entry (R299). -/
theorem State.logReply_length (s : State) : s.logReply.length = 16 * min s.flt.logTotal 256 := by
  simp [State.logReply, List.length_flatMap, Nat.mul_comm]

section
variable {s : State} {obj : Nat}

/-- The queries of a channel refuse a number that the device does not have, and an IDLE channel (R294). -/
theorem State.queryReply_badChannel (hobj : 128 ≤ obj) {sel : Nat} (hsel : sel = 1 ∨ sel = 3) :
    s.queryReply sel obj = .inl (Reply.field St.badChannel 0x0C) := by
  obtain rfl | rfl := hsel
  · exact if_pos hobj
  · exact if_pos hobj

theorem State.queryReply_idle (hobj : obj < 128) (hidle : (s.channel obj).state = .idle) {sel : Nat} (hsel : sel = 1 ∨ sel = 3) :
    s.queryReply sel obj = .inl { status := St.badState } := by
  obtain rfl | rfl := hsel
  · exact (if_neg (Nat.not_le.mpr hobj)).trans (if_pos hidle)
  · exact (if_neg (Nat.not_le.mpr hobj)).trans (if_pos hidle)

theorem State.queryReply_unknown {sel : Nat} (hsel : 6 ≤ sel) : s.queryReply sel obj = .inl (Reply.field St.badFormat 8) := by
  obtain ⟨k, rfl⟩ := Nat.exists_eq_add_of_le hsel
  rw [Nat.add_comm]
  rfl

variable (hobj : obj < 128) (hst : (s.channel obj).state ≠ .idle)
include hobj hst

theorem State.queryReply_channel : s.queryReply 1 obj = .inr (bytesOf (s.channelReply obj) 192, s) :=
  (if_neg (Nat.not_le.mpr hobj)).trans (if_neg hst)

theorem State.queryReply_sdp (hencode : (s.channel obj).decode = false) :
    s.queryReply 3 obj = .inr ((s.gmBytes.2.sdpText obj s.gmBytes.1).map (BitVec.ofNat 8), s.gmBytes.2) :=
  (if_neg (Nat.not_le.mpr hobj)).trans ((if_neg hst).trans (if_neg (by simp [hencode])))

end

theorem State.gmBytes_hostMem (s : State) : s.gmBytes.2.hostMem = s.hostMem := by
  unfold State.gmBytes
  split <;> rfl

/-! ## What completions leave of the reset controller and of the registers below the interrupt counters -/

theorem OffRings.rst : OffRings State.rst where
  setReg _ _ _ := rfl
  modQueue _ _ _ := rfl
  modSrc _ _ _ := rfl
  spaceWrite _ sp _ _ _ := by cases sp <;> rfl
  raise _ _ _ _ _ := rfl
  host _ _ _ := rfl

theorem OffRings.flushBadOpcodes {β : Type} {p : State → β} (hp : OffRings p) (n : Nat) (s : State) (sq : Nat) :
    p (State.flushBadOpcodes n s sq) = p s := by
  induction n generalizing s with
  | zero => rfl
  | succ k ih =>
    unfold State.flushBadOpcodes
    split
    · refine ite_eq rfl ?_
      split
      · exact (ih _).trans ((hp.postCompletion _ _ _ _ _).trans (hp.host _ _ rfl))
      · rfl
    · rfl

theorem State.answered_rst (s u : State) (h : CmdHdr) (r : Reply) : (s.answered u h r).rst = u.rst :=
  (OffRings.rst.flushBadOpcodes _ _ _).trans (OffRings.rst.postCompletion _ _ _ _ _)

theorem State.msixSend_regs (s : State) (v : Nat) : (s.msixSend v).regs = s.regs := by
  simp [State.msixSend, apply_ite State.regs]

theorem State.putEntry_regs (s : State) (q v : Nat) : (s.putEntry q v).regs = s.regs := by
  have hspace (sp : Space) (a n : Nat) : (s.spaceWrite sp a n v).regs = s.regs := by cases sp <;> rfl
  exact (State.signalWith_eq (p := State.regs) (fun _ _ _ => rfl) State.msixSend_regs _ _ _).trans (hspace _ _ _)

section
variable {a : Nat} (ha : a < Reg.irqCnt)
include ha

theorem State.count_reg_below (s : State) {b : Nat} (hb : Reg.irqCnt ≤ b) (w n : Nat) : (s.count b w n).reg a = s.reg a :=
  State.reg_setReg_of_ne _ _ _ (Nat.ne_of_lt (Nat.lt_of_lt_of_le ha hb))

theorem State.putFallback_reg_below (fuel : Nat) (s : State) (c v : Nat) : (State.putFallback fuel s c v).reg a = s.reg a := by
  induction fuel generalizing s c v with
  | zero => rfl
  | succ k ih =>
    have hput (q v : Nat) : (s.putEntry q v).reg a = s.reg a := congrArg (SMap.get regReset · a) (s.putEntry_regs q v)
    unfold State.putFallback
    refine ite_eq (p := (State.reg · a)) rfl (ite_eq (p := (State.reg · a)) rfl (ite_eq (p := (State.reg · a)) (hput _ _)
      (ite_eq (p := (State.reg · a)) (hput _ _) ?_)))
    refine (foldl_eq_of_step (p := (State.reg · a)) (fun t d => ite_eq (p := (State.reg · a)) (ih _ _ _) rfl) _ _).trans ?_
    exact (State.count_reg_below ha _ (Nat.le_add_right _ _) _ _).trans (hput _ _)

theorem State.assertIrq_reg_below (s : State) (n : Nat) : (s.assertIrq n).reg a = s.reg a := by
  refine (foldl_eq_of_step (p := (State.reg · a))
    (fun t c => ite_eq (p := (State.reg · a)) (State.putFallback_reg_below ha _ _ _ _) rfl) _ _).trans ?_
  exact State.count_reg_below ha s (Nat.le_add_right _ _) _ _

theorem State.haltWindlass_reg_below (s : State) (cause : Nat) : (s.haltWindlass cause).reg a = s.reg a :=
  ite_eq (p := (State.reg · a)) rfl (ite_eq (p := (State.reg · a)) rfl (State.assertIrq_reg_below ha _ _))

theorem State.refreshRoom_reg_below (s : State) (q : Nat) : (s.refreshRoom q).reg a = s.reg a := by
  refine ite_eq (p := (State.reg · a)) ?_ rfl
  split
  · split
    · next h =>
      unfold State.takeConsumer at h
      dsimp only at h
      split at h
      · exact (congrArg (fun t : State => t.reg a) (Option.some.inj h)).symm
      · cases h
    · exact State.count_reg_below ha s (by decide) _ _
  · exact State.haltWindlass_reg_below ha _ _

theorem State.postCompletion_reg_below (s : State) (sq cid idx : Nat) (r : Reply) : (s.postCompletion sq cid idx r).reg a = s.reg a := by
  have hnote (t : State) : t.noteNoWrite.reg a = t.reg a := ite_eq (p := (State.reg · a)) rfl rfl
  have hroom (q : Nat) : (s.refreshRoom q).noteNoWrite.reg a = s.reg a :=
    (hnote _).trans (State.refreshRoom_reg_below ha s q)
  have hput (q v : Nat) : ((s.refreshRoom (s.cqOf sq)).noteNoWrite.putEntry q v).reg a = s.reg a :=
    (congrArg (SMap.get regReset · a) (State.putEntry_regs _ q v)).trans (hroom _)
  exact ite_eq (p := (State.reg · a)) rfl (ite_eq (p := (State.reg · a)) (hroom _) (hput _ _))

theorem State.flushBadOpcodes_reg_below (n : Nat) (s : State) (sq : Nat) : (State.flushBadOpcodes n s sq).reg a = s.reg a := by
  induction n generalizing s with
  | zero => rfl
  | succ k ih =>
    unfold State.flushBadOpcodes
    split
    · refine ite_eq (p := (State.reg · a)) rfl ?_
      split
      · exact (ih _).trans (State.postCompletion_reg_below ha _ _ _ _ _)
      · rfl
    · rfl

theorem State.answered_reg_below (s u : State) (h : CmdHdr) (r : Reply) : (s.answered u h r).reg a = u.reg a :=
  (State.flushBadOpcodes_reg_below ha _ _ _).trans (State.postCompletion_reg_below ha _ _ _ _ _)

end

/-! ## RESET and DEV_RESET (R270, R300, R503–R507) -/

section
variable (s : State)

theorem State.loadMacs_rst : s.loadMacs.rst = s.rst := by
  refine foldl_eq_of_step (p := State.rst) (fun t n => ?_) _ _
  rw [State.setRegN_rst, State.setRegN_rst]

theorem State.loadMacs_hostMem : s.loadMacs.hostMem = s.hostMem := by
  refine foldl_eq_of_step (p := State.hostMem) (fun t n => ?_) _ _
  rw [State.setRegN_hostMem, State.setRegN_hostMem]

theorem State.enterReset_rst (level : Nat) : (s.enterReset level).rst = s.rst := by
  cases h : s.flt.reaction with
  | none => simp only [State.enterReset, h, apply_ite State.rst, State.loadMacs_rst, ite_self]
  | some r =>
    have hlog : (s.endReactionLog r).rst = s.rst := rfl
    simp only [State.enterReset, h, apply_ite State.rst, State.loadMacs_rst, hlog, ite_self]

theorem State.enterReset_hostMem (level : Nat) : (s.enterReset level).hostMem = s.hostMem := by
  cases h : s.flt.reaction with
  | none => simp only [State.enterReset, h, apply_ite State.hostMem, State.loadMacs_hostMem, ite_self]
  | some r =>
    have hlog : (s.endReactionLog r).hostMem = s.hostMem := rfl
    simp only [State.enterReset, h, apply_ite State.hostMem, State.loadMacs_hostMem, hlog, ite_self]

/-- The level of the software source is that of the map, or the one that the latest RESET named, and at most 2. -/
theorem State.sourceLevel_software_le : s.sourceLevel 5 ≤ 2 := by
  have hmap (f : Nat) : (if (if f ≤ 3 then f else 0) = 3 then 2 else if f ≤ 3 then f else 0) ≤ 2 := by split <;> (split <;> omega)
  exact (Nat.min_le_left _ _).trans (hmap _)

/-- An asserted source holds the device in the safe state, at most at the source's level (R503–R507); host memory is the host's. -/
theorem State.assertSource_holds (i : Nat) :
    let t := s.assertSource i
    t.rst.state = .held ∧ t.rst.asserted = s.rst.asserted ||| BitVec.ofNat 16 (2 ^ i) ∧ t.rst.swLevel = s.rst.swLevel ∧
    t.flt.safe = true ∧ t.faultN = true ∧ t.yieldN = true ∧
    t.rst.deepest = (if s.rst.state = .running ∨ s.rst.state = .selfTest ∨ s.rst.state = .diagHold then s.sourceLevel i
      else min (s.sourceLevel i) s.rst.deepest) ∧
    t.hostMem = s.hostMem := by
  have hor : (s.rst.state = .running ∨ s.rst.state = .selfTest ∨ s.rst.state = .diagHold) ↔
      (decide (s.rst.state = .running) || decide (s.rst.state = .selfTest) || decide (s.rst.state = .diagHold)) = true := by
    simp [or_assoc]
  simp only [State.assertSource, apply_ite State.rst, apply_ite State.hostMem, State.enterReset_rst, State.enterReset_hostMem, ite_self,
    apply_ite ResetSt.state, apply_ite ResetSt.asserted, apply_ite ResetSt.swLevel, apply_ite ResetSt.deepest, hor, and_self]

end

theorem State.sourceLevel_software_congr {s t : State} (hreg : t.reg Reg.rstMap0 = s.reg Reg.rstMap0) (hsw : t.rst.swLevel = s.rst.swLevel) :
    t.sourceLevel 5 = s.sourceLevel 5 := by
  have hfield : t.field Reg.rstMap0 (4 * 5) 4 = s.field Reg.rstMap0 (4 * 5) 4 := by rw [State.field, State.regN, hreg]; rfl
  simp [State.sourceLevel, hfield, hsw]

/-- DEV_RESET and RESET assert the software source (source 5) at the level that they name, on a state `u` with the reset controller and the map of `s`. -/
theorem State.softReset_holds {s u : State} (hrst : u.rst = s.rst) (hreg : u.reg Reg.rstMap0 = s.reg Reg.rstMap0) (level : Nat) :
    let t := u.softReset level
    t.rst.state = .held ∧ t.rst.asserted = s.rst.asserted ||| 0x20 ∧ t.rst.swLevel = level ∧ t.flt.safe = true ∧ t.faultN = true ∧ t.yieldN = true ∧
    t.rst.deepest = min ({ s with rst := { s.rst with swLevel := level } }.sourceLevel 5)
      (if s.rst.state = .running ∨ s.rst.state = .selfTest ∨ s.rst.state = .diagHold then 2 else s.rst.deepest) ∧
    t.hostMem = u.hostMem := by
  have hlevel : { u with rst := { u.rst with swLevel := level } }.sourceLevel 5 = { s with rst := { s.rst with swLevel := level } }.sourceLevel 5 :=
    State.sourceLevel_software_congr hreg rfl
  have hbits : u.rst.asserted ||| 0x20 = s.rst.asserted ||| 0x20 := by rw [hrst]
  obtain ⟨hheld, hasserted, hsw, hsafe, hfault, hyield, hdeep, hmem⟩ := State.assertSource_holds { u with rst := { u.rst with swLevel := level } } 5
  refine ⟨hheld, hasserted.trans hbits, hsw, hsafe, hfault, hyield, hdeep.trans ?_, hmem⟩
  rw [hlevel]
  dsimp only
  rw [hrst]
  split
  · exact (Nat.min_eq_left (State.sourceLevel_software_le _)).symm
  · rfl

section
variable {h : CmdHdr} {level : BitVec 2} {s : State} (hr : s.canTake (.reset h level) h = true) (hroom : s.noRoom 1 = false) (hq : h.sq = 0)
  (hb : h.badCopies = 0)
include hr hroom hq hb

/-- A RESET that names a level is answered first; then the software source is asserted. -/
theorem exec_reset_named (hlevel : level = 1 ∨ level = 2) :
    exec (.reset h level) s = .next ((s.answered (s.taken h) h { status := St.ok }).softReset level.toNat) := by
  have hok : (decide (level = 1) || decide (level = 2)) = true := by simpa using hlevel
  have htaken : State.resetTaken h level s = true := by simp [State.resetTaken, hr, hroom, hq, hb]
  have hanswer : hostCmd (.reset h level) h true true (s.noRoom 1) (fun _ t => (t, some { status := St.ok })) s =
      s.answered (s.taken h) h { status := St.ok } := hostCmd_inHold_answered hr hb (.inr hq) hroom rfl
  show execReset h level s = _
  simp only [execReset, hok, htaken, Bool.and_self, if_true, hanswer]

theorem exec_reset_unnamed (hlevel : level = 0 ∨ level = 3) :
    exec (.reset h level) s = .next (s.answered (s.taken h) h (Reply.field St.badFormat 8)) := by
  have hok : (decide (level = 1) || decide (level = 2)) = false := by obtain rfl | rfl := hlevel <;> decide
  have hanswer : hostCmd (.reset h level) h true true (s.noRoom 1) (fun _ t => (t, some (Reply.field St.badFormat 8))) s =
      s.answered (s.taken h) h (Reply.field St.badFormat 8) := hostCmd_inHold_answered hr hb (.inr hq) hroom rfl
  show execReset h level s = _
  simp only [execReset, hok, Bool.false_and, Bool.false_eq_true, if_false, hanswer]

end

/-- Settles O22: a query writes its reply where the buffer takes it, and a reset with a level asserts the software source. -/
theorem queriesAndResetsFromTheHost : Obligations.QueriesAndResetsFromTheHost := by
  refine ⟨fun h obj addr len s hb => ?_, fun h obj addr len s hb hw hobj hst => ?_, fun h sel obj addr len s hr hb hw => ?_,
    fun h level s hr hroom hq hb => ⟨fun hlevel => ?_, exec_reset_unnamed hr hroom hq hb⟩, fun level key s => ⟨fun hkey hlevel => ?_, fun hno => ?_⟩⟩
  · have hquery {sel : BitVec 4} {u : State} {r : Reply} (hr : s.canTake (.query h sel obj addr len) h = true) (hsel : ¬ (sel = 1 ∨ sel = 3))
        (hu : (s.taken h).answerQuery sel.toNat obj.toNat addr.toNat len.toNat = (u, r)) := exec_query hr hb (fun hs => absurd hs hsel) hu
    refine ⟨fun hr hlen => hquery hr (by decide) ?_, fun hr hlen => hquery hr (by decide) ?_, fun hr hlen hne => hquery hr (by decide) ?_,
      fun hr hlen => hquery hr (by decide) ?_⟩
    · exact State.answerQuery_written (s := s.taken h) (by omega) rfl (bytesOf_length _ _) hlen
    · exact State.answerQuery_written (s := s.taken h) (by omega) rfl (bytesOf_length _ _) hlen
    · have hlen0 : len.toNat ≠ 0 := BitVec.toNat_ne_iff_ne.mpr hne
      exact State.answerQuery_written (s := s.taken h) hlen0 rfl (s.taken h).logReply_length hlen
    · exact State.answerQuery_written (s := s.taken h) (by omega) rfl (bytesOf_length _ _) hlen
  · refine ⟨fun hr hlen => exec_query hr hb (fun _ => hw) ?_, fun hr hencode hlen hne => exec_query hr hb (fun _ => hw) ?_⟩
    · exact State.answerQuery_written (s := s.taken h) (by omega) (State.queryReply_channel (s := s.taken h) hobj hst) (bytesOf_length _ _) hlen
    · have hlen0 : len.toNat ≠ 0 := BitVec.toNat_ne_iff_ne.mpr hne
      refine (State.answerQuery_written (s := s.taken h) hlen0 (State.queryReply_sdp (s := s.taken h) hobj hst hencode) (List.length_map _) hlen).trans ?_
      rw [State.gmBytes_hostMem]
      rfl
  · have hlen0 (hne : len ≠ 0) : len.toNat ≠ 0 := BitVec.toNat_ne_iff_ne.mpr hne
    have hnat (hs : sel = 1 ∨ sel = 3) : sel.toNat = 1 ∨ sel.toNat = 3 := hs.imp (congrArg BitVec.toNat) (congrArg BitVec.toNat)
    refine ⟨fun hz => exec_query hr hb hw ?_, fun hne hs hobj => exec_query hr hb hw ?_, fun hne hs hobj hidle => exec_query hr hb hw ?_,
      fun hne hs => exec_query hr hb hw ?_, fun hne hshort => exec_query hr hb hw ?_⟩
    · subst hz
      exact State.answerQuery_noBuffer
    · exact State.answerQuery_refused (s := s.taken h) (hlen0 hne) (State.queryReply_badChannel hobj (hnat hs))
    · exact State.answerQuery_refused (s := s.taken h) (hlen0 hne) (State.queryReply_idle (s := s.taken h) hobj hidle (hnat hs))
    · exact State.answerQuery_refused (s := s.taken h) (hlen0 hne) (State.queryReply_unknown hs)
    · obtain ⟨rfl | rfl, hl⟩ | ⟨rfl, hl⟩ | ⟨rfl, hl, hobj, hst⟩ | ⟨rfl, hl⟩ := hshort
      · exact State.answerQuery_short (s := s.taken h) (hlen0 hne) rfl (by rwa [bytesOf_length])
      · exact State.answerQuery_short (s := s.taken h) (hlen0 hne) rfl (by rwa [bytesOf_length])
      · exact State.answerQuery_short (s := s.taken h) (hlen0 hne) rfl (by rwa [bytesOf_length])
      · exact State.answerQuery_short (s := s.taken h) (hlen0 hne) (State.queryReply_channel (s := s.taken h) hobj hst) (by rwa [bytesOf_length])
      · exact State.answerQuery_short (s := s.taken h) (hlen0 hne) rfl (by rwa [State.logReply_length])
  · exact ⟨_, exec_reset_named hr hroom hq hb hlevel,
      State.softReset_holds (State.answered_rst _ _ _ _) (State.answered_reg_below (by decide) _ _ _ _) level.toNat⟩
  · exact ⟨_, if_pos ⟨hkey, hlevel⟩, State.softReset_holds rfl rfl level.toNat⟩
  · exact if_neg fun ⟨hkey, hlevel⟩ => hno.elim (fun hne => hne hkey) fun ⟨h1, h2⟩ => hlevel.elim h1 h2

end Sys2Proof.Machine
end

section
/-!
What every step keeps: the canonical form and the fuse unit's order, and the fuse copies that have been programmed (O4, O5, O6).
-/
namespace Sys2Proof.Machine

/-! ## The fuse unit (R512, R535) -/

/-- A copy reads the row at its place in the array. -/
theorem FuseSt.copy_of_rows {f g : FuseSt} (h : g.rows = f.rows) (w k : Nat) : g.copy w k = f.copy w k := congrArg (fun m => SMap.get _ m _) h

theorem FuseSt.stays_of_rows {f g : FuseSt} (h : g.rows = f.rows) : f.stays g := fun _ _ _ _ _ => FuseSt.copy_of_rows h _ _

/-- What a reset may cut from the copies still to be written leaves them in order. -/
theorem FuseSt.orderly_of_cut {f g : FuseSt} (hc : Cut f g) (hf : f.orderly) : g.orderly := by
  obtain ⟨hrows, hpulse, hword, _, hto⟩ := hc
  obtain ⟨hin, hnodup, hblank⟩ := hf
  have hcopy (k : Nat) : g.copy g.progWord k = f.copy f.progWord k := hword ▸ FuseSt.copy_of_rows hrows _ _
  rcases hto with hto | hto
  · exact ⟨by rw [hpulse, hto, hin], hto ▸ hnodup, fun k hk => by rw [hcopy]; exact hblank k (hto ▸ hk)⟩
  · refine ⟨?_, hto ▸ hnodup.sublist (List.take_sublist _ _), fun k hk => by rw [hcopy]; exact hblank k (List.mem_of_mem_take (hto ▸ hk))⟩
    rw [hpulse, hto]
    cases hl : f.toPulse <;> simp [hin, hl]

/-- What a command leaves of the fuse unit: the order of its work, a canonical array, and the copies that are not blank. -/
structure FuseKept (f g : FuseSt) : Prop where
  order : f.orderly → g.orderly
  canonical : SMap.wf (fun _ => 0) f.rows = true → SMap.wf (fun _ => 0) g.rows = true
  copies : f.orderly → f.stays g

theorem FuseKept.refl (f : FuseSt) : FuseKept f f := ⟨id, id, fun _ => FuseSt.stays_of_rows rfl⟩

theorem FuseKept.of_cut {f g : FuseSt} (h : Cut f g) : FuseKept f g := ⟨FuseSt.orderly_of_cut h, fun hw => h.1 ▸ hw, fun _ => FuseSt.stays_of_rows h.1⟩

/-- The blank copies of a word are in order: three at most, each once. -/
theorem FuseKept.program (f : FuseSt) (w v : Nat) :
    let blank := [0, 1, 2].filter fun k => decide (f.copy w k = 0)
    FuseKept f { f with progWord := w, progCopy := v, toPulse := blank, inPulse := !blank.isEmpty } := by
  refine ⟨fun _ => ⟨rfl, List.Nodup.filter _ (by decide), fun k hk => ?_⟩, id, fun _ => FuseSt.stays_of_rows rfl⟩
  obtain ⟨hk, hblank⟩ := List.mem_filter.1 hk
  exact ⟨by simp at hk; omega, of_decide_eq_true hblank⟩

/-- A pulse writes one blank copy: every other one, and every one that is not blank, stays. -/
theorem FuseKept.pulse {f : FuseSt} {k : Nat} {rest : List Nat} (hk : f.toPulse = k :: rest) :
    FuseKept f { f with rows := SMap.set (fun _ => 0) f.rows (128 * k + f.progWord) f.progCopy, toPulse := rest, inPulse := !rest.isEmpty } := by
  refine ⟨fun ⟨_, hnodup, hblank⟩ => ?_, fun hw => SMap_set_wf _ _ _ _ hw, fun ⟨_, _, hblank⟩ w j hw hj hne => ?_⟩
  · rw [hk] at hnodup hblank
    obtain ⟨hnew, hnodup⟩ := List.nodup_cons.1 hnodup
    refine ⟨rfl, hnodup, fun j hj => ⟨(hblank j (List.mem_cons_of_mem _ hj)).1, ?_⟩⟩
    have hjk : j ≠ k := fun h => hnew (h ▸ hj)
    have hrow : 128 * j + f.progWord ≠ 128 * k + f.progWord := by omega
    exact (SMap_get_set_of_ne _ _ _ _ hrow).trans (hblank j (List.mem_cons_of_mem _ hj)).2
  · have hzero : SMap.get (fun _ => 0) f.rows (128 * k + f.progWord) = 0 := (hblank k (hk ▸ List.mem_cons_self)).2
    refine SMap_get_set_of_ne _ _ _ _ fun h => hne ?_
    rw [FuseSt.copy, h, hzero]

/-! ## Every command -/

/-- What a command leaves: the canonical form, and of the fuse unit what `FuseKept` says. -/
structure InvKept (s t : State) : Prop where
  tidy : Tidy s → Tidy t
  fuse : FuseKept s.fuse t.fuse

theorem Keeps.invKept {s t : State} (h : Keeps s t) : InvKept s t := ⟨h.tidy, .of_cut h.fuse⟩

theorem execFuseProgCmd_invKept (word : BitVec 7) (key : BitVec 16) (s : State) :
    ∃ t, execFuseProgCmd word key s = .next t ∧ InvKept s t := by
  unfold execFuseProgCmd
  dsimp only
  split
  · exact ⟨_, rfl, (State.setBits_keeps s _ _ (.refl s)).invKept⟩
  · exact ⟨_, rfl, id, .program _ _ _⟩

theorem execFusePulseEnd_invKept (s : State) : ∃ t, execFusePulseEnd s = .next t ∧ InvKept s t := by
  unfold execFusePulseEnd
  split
  · next hk => exact ⟨_, rfl, id, .pulse hk⟩
  · exact ⟨_, rfl, id, .refl _⟩

/-- Every command that answers a next state keeps the canonical form and the fuse unit's order. -/
theorem exec_invKept {c : Instr} {s t : State} (h : exec c s = .next t) : InvKept s t := by
  have hkeeps (hc : programsFuse c = false) : InvKept s t := by
    have hl := exec_lands c s
    rw [h] at hl
    have hf := hl.of_next
    rw [Frame, hc] at hf
    exact hf.invKept
  cases c with
  | fuseProgCmd word key =>
    obtain ⟨u, hu, hk⟩ := execFuseProgCmd_invKept word key s
    cases hu.symm.trans h
    exact hk
  | fusePulseEnd =>
    obtain ⟨u, hu, hk⟩ := execFusePulseEnd_invKept s
    cases hu.symm.trans h
    exact hk
  | _ => exact hkeeps rfl

theorem step_invKept {s t : State} (h : step s = .next t) : InvKept s t := by
  unfold step at h
  split at h
  · cases h
    exact (Keeps.refl s).invKept
  · exact exec_invKept (s := { s with pending := _ }) h |> fun ⟨ht, hf⟩ => ⟨ht, hf⟩

/-- Settles O4: every table at reset is empty but the fuse array, whose factory rows are canonical. -/
theorem resetHasInvariant : Obligations.ResetHasInvariant := by
  refine ⟨⟨rfl, rfl, rfl, rfl, rfl, rfl, rfl, rfl⟩, rfl, rfl, List.nodup_nil, fun k hk => ?_⟩
  exact absurd hk List.not_mem_nil

/-- Settles O5: every command keeps the canonical form, and the order of the fuse unit's work over a canonical array. -/
theorem stepKeepsInvariant : Obligations.StepKeepsInvariant := by
  intro s t ⟨htidy, hrows, horder⟩ h
  have hk := step_invKept h
  exact ⟨hk.tidy htidy, hk.fuse.canonical hrows, hk.fuse.order horder⟩

/-- Settles O6: a pulse writes a copy that the order holds to be blank, and nothing else writes the array. -/
theorem writtenFuseCopiesStay : Obligations.WrittenFuseCopiesStay := by
  intro s t ⟨_, _, horder⟩ h
  exact (step_invKept h).fuse.copies horder

end Sys2Proof.Machine
end

section
/-!
The buffer wells: the arbiter, allocations, frees, rebuilds, the page cache and the quota registers (O45, O46, O47).
-/
namespace Sys2Proof.Machine

/-! ## The arbiter (R318) -/

/-- The owner taken is the first of the IDs counted on from the last one taken. -/
theorem nextOwner_eq_some_iff {l : List Nat} {last o : Nat} :
    nextOwner l last = some o ↔ ∃ k, k < 64 ∧ (last + 1 + k) % 64 = o ∧ o ∈ l ∧ ∀ j, j < k → (last + 1 + j) % 64 ∉ l := by
  simp only [nextOwner, List.find?_map, Option.map_eq_some_iff, List.find?_range_eq_some, List.mem_range, Function.comp_apply, List.contains_iff_mem,
    Bool.not_eq_true', ← Bool.not_eq_true]
  constructor
  · rintro ⟨k, ⟨hmem, hk, hfirst⟩, rfl⟩
    exact ⟨k, hk, rfl, hmem, hfirst⟩
  · rintro ⟨k, hk, rfl, hmem, hfirst⟩
    exact ⟨k, ⟨hmem, hk, hfirst⟩, rfl⟩

/-- Every ID is reached within one turn. -/
theorem exists_turn (last : Nat) {o : Nat} (ho : o < 64) : ∃ k, k < 64 ∧ (last + 1 + k) % 64 = o :=
  ⟨(o + 64 - (last + 1) % 64) % 64, by omega, by omega⟩

theorem nextOwner_eq_none_iff {l : List Nat} {last : Nat} (hl : ∀ o ∈ l, o < 64) : nextOwner l last = none ↔ l = [] := by
  constructor
  · intro h
    refine List.eq_nil_iff_forall_not_mem.2 fun o ho => ?_
    obtain ⟨k, hk, hko⟩ := exists_turn last (hl o ho)
    have hnone := List.find?_eq_none.1 h o (List.mem_map.2 ⟨k, List.mem_range.2 hk, hko⟩)
    exact hnone (by simpa using ho)
  · rintro rfl
    exact List.find?_eq_none.2 fun _ _ => by simp

/-- Settles O45: the arbiter counts the IDs on from the last taken, and takes the first that waits. -/
theorem theArbiterTakesTurns : Obligations.TheArbiterTakesTurns := by
  refine ⟨fun l last hl => nextOwner_eq_none_iff hl, fun l last o h => ?_⟩
  obtain ⟨m, hm, hmo, hol, hfirst⟩ := nextOwner_eq_some_iff.1 h
  refine ⟨hol, by omega, fun p hp _ j k hj hk hjo hkp => ?_⟩
  have hjm : j = m := by omega
  by_contra hlt
  exact hfirst k (by omega) (hkp.symm ▸ hp)

end Sys2Proof.Machine
end

section
/-!
The interrupt controller: claims, completes, assertions, fallback heads and MSI-X messages; and the classes of fault kinds (O50, O51, O54).
-/
namespace Sys2Proof.Machine

/-! ## The entries of a canonical table -/

/-- The keys of a canonical table rise, all of them above its bound. -/
theorem SMap_pairwise_of_wfAbove {V : Type} [DecidableEq V] {d : Nat → V} {m : SMap V} {b : Option Nat} (h : SMap.wfAbove d b m = true) :
    m.Pairwise (fun e f => e.1 < f.1) ∧ ∀ x, b = some x → ∀ e ∈ m, x < e.1 := by
  induction m generalizing b with
  | nil => exact ⟨.nil, fun _ _ _ he => absurd he List.not_mem_nil⟩
  | cons e m ih =>
    obtain ⟨j, v⟩ := e
    simp only [SMap.wfAbove, Bool.and_eq_true] at h
    obtain ⟨⟨hb, _⟩, hm⟩ := h
    obtain ⟨hp, habove⟩ := ih hm
    refine ⟨List.pairwise_cons.2 ⟨habove j rfl, hp⟩, fun x hx e he => ?_⟩
    subst hx
    have hxj : x < j := of_decide_eq_true hb
    rcases List.mem_cons.1 he with rfl | he
    · exact hxj
    · exact hxj.trans (habove j rfl e he)

theorem SMap_get_of_mem {V : Type} [DecidableEq V] {d : Nat → V} {m : SMap V} (h : m.Pairwise fun e f => e.1 < f.1) {e : Nat × V} (he : e ∈ m) :
    SMap.get d m e.1 = e.2 := by
  induction m with
  | nil => exact absurd he List.not_mem_nil
  | cons f m ih =>
    obtain ⟨habove, hm⟩ := List.pairwise_cons.1 h
    rcases List.mem_cons.1 he with rfl | he
    · exact if_pos rfl
    · exact (if_neg (habove e he).ne).trans (ih hm he)

/-! ## Claims (R457) -/

section
variable {α : Type} {p : Nat × α → Bool} {l : List (Nat × α)}

/-- The last entry with a property is an entry with it, where the search does not end as it began. -/
theorem foldl_last_mem (best : Nat) :
    l.foldl (fun b e => if p e then e.1 else b) best = best ∨ ∃ e ∈ l, p e = true ∧ l.foldl (fun b e => if p e then e.1 else b) best = e.1 := by
  induction l generalizing best with
  | nil => exact .inl rfl
  | cons f l ih =>
    rw [List.foldl_cons]
    rcases ih (if p f then f.1 else best) with h | ⟨e, he, hp, h⟩
    · by_cases hf : p f = true
      · exact .inr ⟨f, List.mem_cons_self, hf, h.trans (if_pos hf)⟩
      · exact .inl (h.trans (if_neg hf))
    · exact .inr ⟨e, List.mem_cons_of_mem _ he, hp, h⟩

/-- Where the keys rise, no entry with the property has a higher key than the last one. -/
theorem le_foldl_last {best : Nat} (hl : l.Pairwise fun e f => e.1 < f.1) (hbest : ∀ e ∈ l, best ≤ e.1) :
    best ≤ l.foldl (fun b e => if p e then e.1 else b) best ∧
    ∀ e ∈ l, p e = true → e.1 ≤ l.foldl (fun b e => if p e then e.1 else b) best := by
  induction l generalizing best with
  | nil => exact ⟨le_rfl, fun e he => absurd he List.not_mem_nil⟩
  | cons f l ih =>
    obtain ⟨habove, hl⟩ := List.pairwise_cons.1 hl
    have hf := hbest f List.mem_cons_self
    obtain ⟨hle, hall⟩ := ih (best := if p f then f.1 else best) hl fun e he => by
      have := habove e he
      split <;> omega
    refine ⟨?_, fun e he hp => ?_⟩
    · refine le_trans ?_ hle
      split <;> omega
    · rcases List.mem_cons.1 he with rfl | he
      · exact le_trans (by rw [if_pos hp]) hle
      · exact hall e he hp

end

/-- Core `c` may claim a source now: it is pending, not in service and routed to the core. -/
def IrqSrc.canBeClaimed (i : IrqSrc) (c : Nat) : Bool := i.pending && !i.inService && i.claimRoute c

theorem irqReset_canBeClaimed (n c : Nat) : (irqReset n).canBeClaimed c = false := rfl

theorem State.claimable_eq (s : State) (c : Nat) :
    s.claimable c = s.irq.foldl (fun b e => if (fun e : Nat × IrqSrc => e.2.canBeClaimed c) e then e.1 else b) 0 := rfl

section
variable {s : State} {c n : Nat} (htidy : Tidy s)
include htidy

theorem State.irq_pairwise : s.irq.Pairwise fun e f => e.1 < f.1 := (SMap_pairwise_of_wfAbove htidy.2.1).1

/-- What a claim finds may be claimed. -/
theorem State.claimable_can (h : s.claimable c ≠ 0) : (s.src (s.claimable c)).canBeClaimed c = true := by
  rcases foldl_last_mem (l := s.irq) (p := fun e => e.2.canBeClaimed c) 0 with h0 | ⟨e, he, hp, h1⟩
  · exact absurd h0 h
  · have hget : s.src e.1 = e.2 := SMap_get_of_mem (State.irq_pairwise htidy) he
    rw [State.claimable_eq, h1, hget]
    exact hp

theorem State.le_claimable (h : (s.src n).canBeClaimed c = true) : n ≤ s.claimable c := by
  rcases SMap_get_eq_or_mem irqReset s.irq n with hn | hn
  · exact absurd h (by rw [State.src, hn, irqReset_canBeClaimed]; exact Bool.false_ne_true)
  · exact (le_foldl_last (State.irq_pairwise htidy) fun _ _ => Nat.zero_le _).2 _ hn h

/-- A claim finds the highest-numbered source that the core may claim. -/
theorem State.claimable_highest (h : (s.src n).canBeClaimed c = true) (hn : 1 ≤ n) (hmax : ∀ m, n < m → (s.src m).canBeClaimed c = false) :
    s.claimable c = n := by
  have hle := State.le_claimable htidy h
  have hcan := State.claimable_can (c := c) htidy (by omega)
  by_contra hne
  rw [hmax _ (by omega)] at hcan
  exact Bool.false_ne_true hcan

theorem State.claimable_none (h : ∀ n, 1 ≤ n → (s.src n).canBeClaimed c = false) : s.claimable c = 0 := by
  by_contra hne
  have hcan := State.claimable_can htidy hne
  rw [h _ (by omega)] at hcan
  exact Bool.false_ne_true hcan

end

theorem exec_irqClaim {c : Nat} (hc : c < 4) (s : State) : exec (.irqClaim c) s = .next (s.claim c) := if_pos hc

theorem State.claim_none {s : State} {c : Nat} (h : s.claimable c = 0) : s.claim c = { s with lastRead := 0 } := by
  unfold State.claim
  rw [h]
  exact if_pos rfl

theorem State.claim_some {s : State} {c n : Nat} (h : s.claimable c = n) (hn : n ≠ 0) :
    s.claim c = { s with lastRead := BitVec.ofNat 32 n }.modSrc n fun i => { i with pending := false, inService := true, owner := c } := by
  subst h
  exact if_neg hn

/-- A source in service is claimed by no core. -/
theorem State.claimable_ne_of_inService {s : State} (htidy : Tidy s) {n : Nat} (hn : n ≠ 0) (h : (s.src n).inService = true) (d : Nat) :
    s.claimable d ≠ n := by
  intro hd
  have hcan := State.claimable_can (c := d) htidy (hd ▸ hn)
  simp [hd, IrqSrc.canBeClaimed, h] at hcan

/-! ## Completes (R458) -/

theorem exec_irqComplete {c : Nat} (hc : c < 4) (v : Word) (s : State) : exec (.irqComplete c v) s = .next (s.complete c (v.toNat % 512)) :=
  (if_pos hc).trans (by rw [bitsAt, Nat.pow_zero, Nat.div_one]; rfl)

theorem State.complete_held {s : State} {c n : Nat} (h1 : 1 ≤ n) (h2 : n ≤ 511) (hs : (s.src n).inService = true) (ho : (s.src n).owner = c) :
    s.complete c n = s.modSrc n IrqSrc.complete := if_pos ⟨h1, h2, hs, ho⟩

theorem State.complete_bad {s : State} {c n : Nat} (h : n = 0 ∨ (s.src n).inService = false ∨ (s.src n).owner ≠ c) :
    s.complete c n = s.raise Src.irq Kind.irqBadComplete 0 n := by
  refine if_neg fun ⟨h1, _, hs, ho⟩ => ?_
  rcases h with h | h | h
  · omega
  · exact Bool.false_ne_true (h.symm.trans hs)
  · exact h ho

@[simp] theorem IrqSrc.complete_inService (i : IrqSrc) : i.complete.inService = false := by unfold IrqSrc.complete; split <;> rfl

@[simp] theorem IrqSrc.complete_pending (i : IrqSrc) : i.complete.pending = if i.level then i.line else i.pending := by
  unfold IrqSrc.complete; split <;> rfl

/-- A raised message waits with the others, and nothing else changes but its source's sequence number. -/
theorem State.raise_message (s : State) (source kind address detail : Nat) :
    s.raise source kind address detail = { s with flt := (s.raise source kind address detail).flt } ∧
    ∃ m, (s.raise source kind address detail).flt.inFlight = s.flt.inFlight ++ [m] ∧ m.source = source ∧ m.kind = kind ∧ m.detail = detail % 2 ^ 32 :=
  ⟨rfl, _, rfl, rfl, rfl, rfl⟩

/-- Settles O51: a complete by the core that holds the source releases it; every other one is raised. -/
theorem completesReleaseTheSource : Obligations.CompletesReleaseTheSource := by
  intro c v s hc htidy n
  have hn : n < 512 := Nat.mod_lt _ (by decide)
  refine ⟨fun h1 hs ho => ⟨_, exec_irqComplete hc v s, State.complete_held h1 (by omega) hs ho, ?_⟩, fun h => ?_⟩
  · rw [State.complete_held h1 (by omega) hs ho, s.src_modSrc_same n _ htidy]
    exact ⟨IrqSrc.complete_inService _, fun m hm => s.src_modSrc_of_ne n _ hm, IrqSrc.complete_pending _⟩
  · obtain ⟨hframe, m, hm, hsource, hkind, hdetail⟩ := s.raise_message Src.irq Kind.irqBadComplete 0 n
    refine ⟨_, (exec_irqComplete hc v s).trans (congrArg _ (State.complete_bad h)), hframe, m, hm, hsource, hkind, ?_⟩
    rw [hdetail, Nat.mod_eq_of_lt (by omega)]

/-! ## Lines and assertions (R452–R455, R461) -/

theorem exec_interruptAssertion_high {n : Nat} {s : State} (hn : assertable n = true) (hl : (s.src n).line = true) :
    exec (.interruptAssertion n) s = .next s := (if_pos hn).trans (congrArg _ (if_pos hl))

/-! ## Fallback heads and MSI-X messages (R287, R462, R463) -/

theorem exec_irqEvqHead_passes {c : Nat} {v : Word} {s : State} (hc : c < 4)
    (hi : (s.queue (fbQueue c)).fill < idxSub v.toNat (s.queue (fbQueue c)).head) :
    exec (.irqEvqHead c v) s = .next (s.raise Src.irq Kind.dbInvalid 0 (fbQueue c)) := by
  have hnone : s.takeConsumer (fbQueue c) v.toNat = none := if_neg (by omega)
  exact (if_pos hc).trans (by rw [State.returnRecords, hnone])

theorem exec_msixMessage_waits {q : Nat} {s : State} (hq : q < 262144)
    (h : (s.queue q).valid = false ∨ (s.queue q).msiDue = false ∨ s.now < (s.queue q).lastMsi.getD 0 + 1000 * (s.queue q).dueUs) :
    exec (.msixMessage q) s = .next s := by
  refine (if_pos hq).trans (if_neg ?_)
  rcases h with h | h | h
  · simp [h]
  · simp [h]
  · simp [Nat.not_le.2 h]

theorem exec_msixUnmask {v : Nat} (hv : v < 64) (s : State) : exec (.msixUnmask v) s = .next (s.msixClearMask v) := if_pos hv

/-- Settles O50: claims by the search over the canonical table, the other commands by their branches. -/
theorem interruptSourcesAndClaims : Obligations.InterruptSourcesAndClaims := by
  refine ⟨?claims, ?lines, ?clears, ?software, ?heads, ?messages, ?unmasks⟩
  case claims =>
    intro c s hc htidy can
    have hcan (n : Nat) : (s.src n).canBeClaimed c = true ↔ can n := by simp [IrqSrc.canBeClaimed, can, and_assoc]
    refine ⟨fun h => ?_, fun n h1 _ hn hmax => ?_⟩
    · have hnone := State.claimable_none (c := c) htidy fun n hn => Bool.eq_false_iff.2 fun hp => h n hn ((hcan n).1 hp)
      exact (exec_irqClaim hc s).trans (congrArg _ (State.claim_none hnone))
    · have hfound := State.claimable_highest htidy ((hcan n).2 hn) h1 fun m hm => Bool.eq_false_iff.2 fun hp => hmax m hm ((hcan m).1 hp)
      refine ⟨(exec_irqClaim hc s).trans (congrArg _ (State.claim_some hfound (by omega))), State.claimable_ne_of_inService ?_ (by omega) ?_⟩
      · exact (State.modSrc_keeps _ _ _ (.mk' (.refl s))).tidy htidy
      · exact congrArg IrqSrc.inService (State.src_modSrc_same _ _ _ htidy)
  case lines =>
    exact fun n s hn => ⟨exec_interruptAssertion_high hn, execInterruptAssertion_rises hn, fun u high => rfl, fun u => rfl, if_pos hn⟩
  case clears =>
    exact fun n s h1 h2 => (if_pos ⟨h1, h2⟩).trans (congrArg (fun f => Host.Outcome.next (s.modSrc n f)) (funext IrqSrc.sample_cleared))
  case software => exact fun m s => rfl
  case heads =>
    intro c v s hc q t
    have hret := fun hi => execIrqEvqHead_returns (v := v) (s := s) hc hi
    exact ⟨exec_irqEvqHead_passes hc, fun hi => ⟨fun he => (hret hi).trans (congrArg _ (if_pos he)),
      fun he => (hret hi).trans (congrArg _ (if_neg (Bool.eq_false_iff.1 he)))⟩⟩
  case messages =>
    intro q s hq u t
    have hdue := fun hv hd ht => execMsixMessage_due (s := s) hq hv hd ht
    exact ⟨exec_msixMessage_waits hq, fun hv hd ht => ⟨fun hs => (hdue hv hd ht).trans (congrArg _ (if_pos hs)),
      fun hs => (hdue hv hd ht).trans (congrArg _ (if_neg hs))⟩⟩
  case unmasks =>
    intro v s hv h held
    exact ⟨fun hh => (exec_msixUnmask hv s).trans (congrArg _ (if_neg (Bool.eq_false_iff.1 hh))),
      fun hh => (exec_msixUnmask hv s).trans (congrArg _ (if_pos hh))⟩

/-! ## Classes of fault kinds (R487) -/

theorem optionAll_ite {α : Type} {p : α → Bool} {c : Prop} [Decidable c] {a b : Option α} (ha : a.all p = true) (hb : b.all p = true) :
    (if c then a else b).all p = true := by
  split <;> assumption

/-- The default classes of the table of R485 are 0 to 3. -/
theorem kindInfo_cls_le {k : Nat} {i : KindInfo} (h : kindInfo k = some i) : i.cls ≤ 3 := by
  have hall : (kindInfo k).all (fun i => decide (i.cls ≤ 3)) = true := by
    unfold kindInfo
    repeat' apply optionAll_ite
    all_goals rfl
  rw [h] at hall
  exact of_decide_eq_true hall

theorem kindFloor_eq {k : Nat} {i : KindInfo} (hi : kindInfo k = some i) : kindFloor i = if i.cls = 2 ∨ i.cls = 3 then i.cls else 0 := by
  have hcls := kindInfo_cls_le hi
  unfold kindFloor
  split <;> split <;> omega

theorem exec_fltKindWrite {kind : BitVec 8} {i : KindInfo} (hi : kindInfo kind.toNat = some i) (cls : BitVec 2) (s : State) :
    exec (.fltKindWrite kind cls) s =
      if kindFloor i ≤ cls.toNat then .next { s with flt := { s.flt with classes := SMap.set kindDefault s.flt.classes kind.toNat cls.toNat } }
      else .next (s.setBits Reg.fltStatus 0x10) := by
  show execFltKindWrite kind cls s = _
  rw [execFltKindWrite, hi]

/-- Settles O54: the class is written where it is not below the floor, and read back from the canonical table. -/
theorem classesStayAboveTheirFloor : Obligations.ClassesStayAboveTheirFloor := by
  intro kind cls i s hi floor
  have hexec := exec_fltKindWrite hi cls s
  rw [kindFloor_eq hi] at hexec
  refine ⟨fun h hw => ⟨_, hexec.trans (if_pos h), rfl, SMap_get_set_same _ _ _ _ hw, fun k hk => SMap_get_set_of_ne _ _ _ _ hk⟩,
    fun h => hexec.trans (if_neg (Nat.not_le.2 h))⟩

end Sys2Proof.Machine
end

section
/-!
The time base: its tick, steps of it, and the power sequencer's sweep at a tick (O27).
-/
namespace Sys2Proof.Machine

/-! ## The power sequencer asks for steps, and does nothing else (R26, R515) -/

/-- A state that differs in the governor's queue alone. -/
def State.QueuesPower (s t : State) : Prop := ∃ q, t = { s with pwr := { s.pwr with queue := q } }

theorem State.QueuesPower.refl (s : State) : s.QueuesPower s := ⟨s.pwr.queue, rfl⟩

theorem State.QueuesPower.trans {s t u : State} (h : s.QueuesPower t) (h' : t.QueuesPower u) : s.QueuesPower u := by
  obtain ⟨q, rfl⟩ := h
  obtain ⟨q', rfl⟩ := h'
  exact ⟨q', rfl⟩

theorem State.QueuesPower.ite {s t u : State} {c : Prop} [Decidable c] (ht : s.QueuesPower t) (hu : s.QueuesPower u) : s.QueuesPower (if c then t else u) := by
  split <;> assumption

theorem State.QueuesPower.foldl {α : Type} {f : State → α → State} (hf : ∀ (s : State) (a : α), s.QueuesPower (f s a)) (l : List α) (s : State) :
    s.QueuesPower (l.foldl f s) := by
  induction l generalizing s with
  | nil => exact .refl s
  | cons a l ih => exact (hf s a).trans (ih _)

theorem State.askPower_queuesPower (s : State) (b : PwrBlock) (wake : Bool) (needed : Nat) : s.QueuesPower (s.askPower b wake needed) := s.askPower_eq b wake needed

theorem State.demandPower_queuesPower (s : State) (b : PwrBlock) : s.QueuesPower (s.demandPower b) := by
  unfold State.demandPower
  split
  · exact s.askPower_queuesPower _ _ _
  · exact ⟨_, rfl⟩
  · exact s.askPower_queuesPower _ _ _
  · exact .refl s

theorem State.sleep_queuesPower (s : State) (t : Nat) : s.QueuesPower (s.sleep t) := by
  have h : ∀ (c d : Prop) [Decidable c] [Decidable d] (b : PwrBlock) (w : Bool) (n : Nat) (u : State) (b' : PwrBlock) (w' : Bool) (n' : Nat),
      u = (if c then s.askPower b w n else s) → s.QueuesPower (if d then u.askPower b' w' n' else u) := by
    rintro c d _ _ b w n u b' w' n' rfl
    have hu : s.QueuesPower (if c then s.askPower b w n else s) := .ite (s.askPower_queuesPower _ _ _) (.refl s)
    exact .ite (hu.trans (State.askPower_queuesPower _ _ _ _)) hu
  exact h _ _ _ _ _ _ _ _ _ rfl

theorem State.powerSweep_queuesPower (s : State) : s.QueuesPower s.powerSweep :=
  .ite ((State.QueuesPower.foldl State.demandPower_queuesPower _ s).trans (.foldl State.sleep_queuesPower _ _)) (.refl s)

theorem State.powerSweep_rst (s : State) : s.powerSweep.rst = s.rst := by
  obtain ⟨q, h⟩ := s.powerSweep_queuesPower
  rw [h]

/-! ## The time in units of 2^-32 ns (R392) -/

theorem TimeSt.setUnits_bounds (t : TimeSt) (x : Int) :
    (t.setUnits x).ns < 1000000000 ∧ (t.setUnits x).frac < 2 ^ 32 ∧ (t.setUnits x).sec < 2 ^ 48 := by
  simp only [TimeSt.setUnits, ofSigned, secUnits]
  omega

/-- Within the range of the seconds, the time shows the units that it was set to. -/
theorem TimeSt.units_setUnits (t : TimeSt) {x : Int} (h0 : 0 ≤ x) (h1 : x < 2 ^ 48 * secUnits) : (t.setUnits x).units = x := by
  simp only [secUnits] at h1
  simp only [TimeSt.setUnits, TimeSt.units, ofSigned, secUnits]
  omega

/-! ## A tick (R392, R394) -/

/-- The policers' buckets gain a tick's tokens (R361). -/
def State.refilled (s : State) : State := { s with net := { s.net with iflows := s.net.iflows.map fun (e : Nat × IFlow) => (e.1, e.2.refill) } }

theorem exec_aoTick (s : State) : exec .aoTick s = .next s.tickTime.refilled.pulseTick.powerSweep := rfl

theorem State.pulseTick_none {s : State} (h : s.rst.pulses = []) : s.pulseTick = s := by unfold State.pulseTick; rw [h]; rfl

theorem State.pulseTick_last {s : State} {i n : Nat} (h : s.rst.pulses = [(i, n)]) (hn : n ≤ 1) : s.pulseTick = s.releaseSource i := by
  unfold State.pulseTick
  rw [h]
  exact if_pos hn

theorem State.pulseTick_counts {s : State} {i n : Nat} (h : s.rst.pulses = [(i, n)]) (hn : 2 ≤ n) :
    s.pulseTick = { s with rst := { s.rst with pulses := SMap.set (fun _ => 0) s.rst.pulses i (n - 1) } } :=
  (congrArg (fun l => List.foldl _ s l) h).trans (if_neg (Nat.not_le.2 hn))

/-- The time base a tick on, without a step. -/
def State.nextTime (s : State) : TimeSt :=
  { s.time with tick := s.time.tick + 1, step := none }.setUnits (s.time.units + 40 * 2 ^ 32 + s.incAdj)

theorem State.tickTime_plain {s : State} (h : s.time.step = none) : s.tickTime = { s with time := s.nextTime } := by
  unfold State.tickTime
  rw [h]
  rfl

theorem State.stepIntervals_none {s : State} (h : s.codec.subs = []) (now : Nat) : s.stepIntervals now = s := by
  unfold State.stepIntervals
  rw [h]
  rfl

/-- The end of every port's frame moves with a step of `ns` (R381). -/
def State.gatesStepped (s : State) (ns : Int) : State := (List.range 8).foldl (fun w p => w.modGate p fun g => g.stepped ns s.nowC) s

theorem State.gatesStepped_time (s : State) (ns : Int) : (s.gatesStepped ns).time = s.time := by
  refine foldl_eq_of_step (p := State.time) (fun t p => ?_) _ _
  rfl

theorem State.gatesStepped_rst (s : State) (ns : Int) : (s.gatesStepped ns).rst = s.rst := by
  refine foldl_eq_of_step (p := State.rst) (fun t p => ?_) _ _
  rfl

theorem State.stepped_eq (s : State) (ns : Int) :
    let u := s.gatesStepped ns
    s.stepped ns = (({ u with time := { s.time with touts := s.time.touts.map fun (e : Nat × Tout) => (e.1, e.2.stepped u.nowQ) } }.count Reg.timeSteps 16 1).raise
      Src.time Kind.timeStepped 0 (stepDetail ns)).assertIrq 53 := by
  show _ = _
  rw [← s.gatesStepped_time ns]
  rfl

theorem State.stepped_rst (s : State) (ns : Int) : (s.stepped ns).rst = s.rst := by
  have h := s.gatesStepped_rst ns
  rw [State.stepped_eq]
  generalize s.gatesStepped ns = u at h ⊢
  exact (OffRings.rst.assertIrq _ _).trans h

/-- The units that a pending step makes the time base take, and the step's size (R394). -/
def StepReq.target (r : StepReq) (x : Int) : Int := match r with | .by ns => x + ns * 2 ^ 32 | .to ns => (ns : Int) * 2 ^ 32

def StepReq.size (r : StepReq) (x : Int) : Int := match r with | .by ns => ns | .to ns => (ns : Int) - x / 2 ^ 32

theorem State.tickTime_step {s : State} {r : StepReq} (h : s.time.step = some r) (hsubs : s.codec.subs = []) :
    let x := s.time.units + 40 * 2 ^ 32 + s.incAdj
    s.tickTime = { s with time := { s.time with tick := s.time.tick + 1, step := none }.setUnits (r.target x) }.stepped (r.size x) := by
  unfold State.tickTime
  rw [h]
  cases r <;> simp only [State.stepIntervals_none hsubs] <;> rfl

/-- Settles O27: the tick sets the time, a pending step moves what hangs on it, the pulses count, and the sweep queues steps of power alone. -/
theorem theTimeBaseTicks : Obligations.TheTimeBaseTicks := by
  refine ⟨?plain, ?step, fun s => ⟨fun h => if_neg h, s.powerSweep_queuesPower⟩, ?pulse⟩
  case plain =>
    intro s hstep hpulses
    obtain ⟨hns, hfrac, hsec⟩ := TimeSt.setUnits_bounds { s.time with tick := s.time.tick + 1, step := none } (s.time.units + 40 * 2 ^ 32 + s.incAdj)
    refine ⟨s.nextTime, ?_, ?_, hns, hfrac, hsec, fun h0 h1 => TimeSt.units_setUnits _ h0 h1⟩
    · have hquiet := State.pulseTick_none (s := ({ s with time := s.nextTime } : State).refilled) hpulses
      rw [exec_aoTick, State.tickTime_plain hstep, hquiet]
      rfl
    · exact congrArg (fun r => TimeSt.setUnits { s.time with tick := s.time.tick + 1, step := r } _) hstep.symm
  case step =>
    intro r s hstep hpulses hsubs x y size v u u' u''
    have htick := State.tickTime_step hstep hsubs
    have hquiet : s.tickTime.refilled.rst.pulses = [] := by
      rw [htick]
      exact (congrArg ResetSt.pulses (State.stepped_rst _ _)).trans hpulses
    rw [exec_aoTick, State.pulseTick_none hquiet, htick, State.stepped_eq]
    rfl
  case pulse =>
    intro i n s hstep hpulses
    let t := ({ s with time := s.nextTime } : State).refilled
    have hexec : exec .aoTick s = .next t.pulseTick.powerSweep := (exec_aoTick s).trans (congrArg (fun u : State => Host.Outcome.next u.refilled.pulseTick.powerSweep)
      (State.tickTime_plain hstep))
    have hp : t.rst.pulses = [(i, n)] := hpulses
    exact ⟨_, hexec, fun hn => (State.powerSweep_rst _).trans (congrArg State.rst (State.pulseTick_counts hp hn)),
      fun hn => (State.powerSweep_rst _).trans (congrArg State.rst (State.pulseTick_last hp hn))⟩

end Sys2Proof.Machine
end

section
/-!
TIME_CONTROL, the steering registers and the timing outputs (O21, O28, O30).
-/
namespace Sys2Proof.Machine

/-! ## TIME_CONTROL (R402) -/

section
variable {h : CmdHdr} {s : State} {u : State} {r : Reply}

/-- A command of the admin queue that answers at once, by what its body does to the state that it runs on. -/
theorem plainCmd_replies {c : Instr} {body : State → State × Reply} (hr : s.ready c h) (hq : h.sq = 0) (hu : body (s.taken h) = (u, r)) :
    Host.Outcome.next (φ := Fault) (ρ := Refusal) (plainCmd c h true body s) = .next (s.answered u h r) := by
  rw [plainCmd_answered c h true body s hr (.inr hq), hu]

/-- The settings that CLOCK writes. -/
def clockSettings (p : ClockArgs) : ClockCfg :=
  { domain := p.domain.toNat, role := p.role.toNat, slaveOnly := p.slaveOnly, timeSource := p.timeSource.toNat, priority1 := p.priority1.toNat,
    priority2 := p.priority2.toNat, classLocked := p.classLocked.toNat, classHoldover := p.classHoldover.toNat, classFree := p.classFree.toNat,
    accuracy := p.accuracy.toNat, variance := p.variance.toNat, holdoverS := p.holdoverS.toNat }

theorem exec_timeControlClock_taken {p : ClockArgs} (hr : s.ready (.timeControlClock h p) h) (hq : h.sq = 0) (hd : p.domain.toNat ≤ 127) (hrole : p.role ≠ 3) :
    exec (.timeControlClock h p) s = .next (s.answered ({ s.taken h with time := { s.time with
      slavePort := (if p.role = 2 then none else s.time.slavePort), ptp := s.time.ptp.map fun (e : Nat × PtpLive) => (e.1, e.2.inRole p.role.toNat),
      clock := clockSettings p } }.servoReview) h { status := St.ok }) := by
  refine plainCmd_replies hr hq ((if_neg (not_or.2 ⟨Nat.not_lt.2 hd, hrole⟩)).trans ?_)
  have hmaster : p.role.toNat = 2 ↔ p.role = 2 := by rw [← BitVec.toNat_inj]; rfl
  simp only [hmaster]
  rfl

theorem exec_timeControlClock_refused {p : ClockArgs} (hr : s.ready (.timeControlClock h p) h) (hq : h.sq = 0) (hbad : 127 < p.domain.toNat ∨ p.role = 3) :
    exec (.timeControlClock h p) s = .next (s.answered (s.taken h) h (Reply.field St.badFormat 0x0C)) := plainCmd_replies hr hq (if_pos hbad)

theorem exec_timeControlPort_refused {p : PtpPortArgs} (hr : s.ready (.timeControlPort h p) h) (hq : h.sq = 0) (hbad : p.transport = 3) :
    exec (.timeControlPort h p) s = .next (s.answered (s.taken h) h (Reply.field St.badFormat 0x0C)) := plainCmd_replies hr hq (if_pos hbad)

end

/-- Settles O21: each command's checks pass or fail in turn, and its body writes its settings. -/
theorem timeControlTakesItsSettings : Obligations.TimeControlTakesItsSettings := by
  refine ⟨fun h p s hr hq => ⟨exec_timeControlClock_taken hr hq, exec_timeControlClock_refused hr hq⟩, ?port, fun h p s hr hq => exec_timeControlPort_refused hr hq,
    ?reference, ?setTime, fun h p s hr hq => plainCmd_replies hr hq rfl⟩
  case port =>
    intro h p s hr hq ht an sy dr h1 h2 h3 h4 h5 h6 h7 h8 hone
    refine plainCmd_replies hr hq ((if_neg ht).trans ((if_neg (by omega)).trans ((if_neg ?_).trans rfl)))
    rintro ⟨henable, hrole, hany⟩
    obtain ⟨e, he, hother⟩ := List.any_eq_true.1 hany
    rw [Bool.and_eq_true, decide_eq_true_eq] at hother
    exact hother.2 (hone henable hrole e he hother.1)
  case reference =>
    intro h p s hr hq
    refine ⟨fun h1 h2 h3 h4 h5 => plainCmd_replies hr hq ((if_neg ?_).trans ((if_neg ?_).trans ((if_neg ?_).trans rfl))),
      fun hbad => plainCmd_replies hr hq (if_pos hbad)⟩
    · rintro (h | h)
      · exact h1 h
      · omega
    · omega
    · rintro (h | h)
      · exact h4 h
      · omega
  case setTime =>
    intro h relative force sec ns s hr hq hns
    have hrange : ¬ (relative = false ∧ 1000000000 ≤ ns.toNat) := by
      rintro ⟨hrel, hle⟩
      rcases hns with h | h
      · exact Bool.false_ne_true (hrel.symm.trans h)
      · omega
    refine ⟨fun hf hlive => plainCmd_replies hr hq ((if_neg hrange).trans ((if_neg ?_).trans ?_)),
      fun hbad => plainCmd_replies hr hq ((if_neg hrange).trans (if_pos hbad.symm))⟩
    · rintro (⟨hany, hforce⟩ | hfol)
      · rcases hlive with h | h
        · exact Bool.false_ne_true (h.symm.trans hany)
        · exact Bool.false_ne_true (hforce.symm.trans h)
      · exact Bool.false_ne_true (hf.symm.trans hfol)
    · rw [Nat.mul_comm]
      rfl

/-! ## Steering, the latch and the oscillator (R393–R395, R407, R408) -/

/-- A field of one bit is 0 or 1. -/
theorem State.field_bit (s : State) (a lo : Nat) : s.field a lo 1 = 0 ∨ s.field a lo 1 = 1 := by
  have : s.field a lo 1 < 2 := Nat.mod_lt _ (by decide)
  omega

/-- Either the host steers, or firmware does (R408). -/
theorem State.maySteer_core (s : State) (c : Nat) : s.maySteer (.core c) = !s.maySteer .host := by
  rcases s.field_bit Reg.timeCfg 0 with h | h <;> simp [State.maySteer, h]

section
variable {who : Requester} {s : State}

theorem exec_timeIncAdjWrite_steers (h : s.maySteer who = true) (v : Word) :
    exec (.timeIncAdjWrite who v) s = .next (s.setRegN Reg.timeIncAdj (ofSigned 32 (clampAdj (toSigned 32 v.toNat)))) := if_pos h

theorem exec_timeStepWrite_steers (h : s.maySteer who = true) (hi : Word) :
    exec (.timeStepWrite who hi) s = .next { s.commitPair who Reg.timeStepLo hi with
      time := { s.time with step := some (.by (toSigned 64 ((s.lowToCommit who Reg.timeStepLo).toNat + 2 ^ 32 * hi.toNat))) } } := if_pos h

theorem exec_timeOscCode_free (h : s.maySteer who = true) (hb : s.time.oscBusy = none) (code : Word) :
    exec (.timeOscCode who code) s = .next { s with time := { s.time with oscBusy := some (s.oscCode code.toNat) } } := by
  refine (if_pos h).trans ?_
  rw [hb]

theorem exec_timeOscCode_busy (h : s.maySteer who = true) (hb : s.time.oscBusy ≠ none) (code : Word) :
    exec (.timeOscCode who code) s = .next { s with time := { s.time with oscHeld := some (s.oscCode code.toNat) } } := by
  obtain ⟨c, hc⟩ := Option.ne_none_iff_exists'.1 hb
  refine (if_pos h).trans ?_
  rw [hc]

/-- The other requester's writes have no effect. -/
theorem exec_steering_refused (h : s.maySteer who = false) (v : Word) :
    exec (.timeIncAdjWrite who v) s = .next s ∧ exec (.timeStepWrite who v) s = .next s ∧ exec (.timeOscCode who v) s = .next s :=
  have hn := Bool.eq_false_iff.1 h
  ⟨if_neg hn, if_neg hn, if_neg hn⟩

end

theorem State.regN_setRegN_same {s : State} (a v : Nat) (h : Tidy s) : (s.setRegN a v).regN a = v % 2 ^ 32 := by
  rw [State.regN, State.setRegN, State.reg_setReg_same _ _ _ h, BitVec.toNat_ofNat]

theorem State.regN_setRegN_of_ne (s : State) {a b : Nat} (v : Nat) (hb : b ≠ a) : (s.setRegN a v).regN b = s.regN b :=
  congrArg BitVec.toNat (s.reg_setReg_of_ne a _ hb)

theorem Tidy.setRegN {s : State} (h : Tidy s) (a v : Nat) : Tidy (s.setRegN a v) := (State.setRegN_keeps s a v (.refl s)).tidy h

/-- The latch shows the whole time base, and writes no other register (R395). -/
theorem exec_timeLatch {s : State} (h : Tidy s) : Does .timeLatch s fun t =>
    t.regN Reg.timeLFrac = s.time.frac % 2 ^ 32 ∧ t.regN Reg.timeLNs = s.time.ns % 2 ^ 32 ∧ t.regN Reg.timeLSecLo = s.time.sec % 2 ^ 32 ∧
    t.regN Reg.timeLSecHi = s.time.sec / 2 ^ 32 % 2 ^ 32 ∧ t = { s with regs := t.regs } ∧
    ∀ a, a ≠ Reg.timeLFrac → a ≠ Reg.timeLNs → a ≠ Reg.timeLSecLo → a ≠ Reg.timeLSecHi → t.reg a = s.reg a := by
  have h1 := h.setRegN Reg.timeLFrac s.time.frac
  have h2 := h1.setRegN Reg.timeLNs s.time.ns
  have h3 := h2.setRegN Reg.timeLSecLo (s.time.sec % 2 ^ 32)
  refine ⟨_, rfl, ?_, ?_, ?_, State.regN_setRegN_same _ _ h3, rfl, fun a ha hb hc hd => ?_⟩
  · rw [State.regN_setRegN_of_ne _ _ (by decide), State.regN_setRegN_of_ne _ _ (by decide), State.regN_setRegN_of_ne _ _ (by decide), State.regN_setRegN_same _ _ h]
  · rw [State.regN_setRegN_of_ne _ _ (by decide), State.regN_setRegN_of_ne _ _ (by decide), State.regN_setRegN_same _ _ h1]
  · rw [State.regN_setRegN_of_ne _ _ (by decide), State.regN_setRegN_same _ _ h2, Nat.mod_mod]
  · exact (State.reg_setReg_of_ne _ _ _ hd).trans ((State.reg_setReg_of_ne _ _ _ hc).trans ((State.reg_setReg_of_ne _ _ _ hb).trans (State.reg_setReg_of_ne _ _ _ ha)))

/-- Settles O28: who may steer decides each write, and the latch reads back from the register file. -/
theorem steeringRegisters : Obligations.SteeringRegisters := by
  refine ⟨fun who v s h => exec_timeIncAdjWrite_steers h v, fun who hi s h => exec_timeStepWrite_steers h hi,
    fun who code s h => ⟨fun hb => exec_timeOscCode_free h hb code, fun hb => exec_timeOscCode_busy h hb code⟩, fun who v s h => exec_steering_refused h v,
    State.maySteer_core, fun s h => exec_timeLatch h, fun c s hb => if_pos (by rw [hb]; rfl), fun s hb => if_neg (by rw [hb]; exact Bool.false_ne_true)⟩

/-! ## Timing outputs (R411–R413) -/

theorem bitAt_two_pow (n k : Nat) : bitAt (2 ^ n) k = decide (k = n) := by
  rw [bitAt, bitsAt, Nat.pow_one, ← Nat.testBit_eq_decide_div_mod_eq, Nat.testBit_two_pow]
  exact decide_eq_decide.2 eq_comm

@[simp] theorem bitAt_zero (k : Nat) : bitAt 0 k = false := by simp [bitAt, bitsAt]

theorem foldl_eq_of_fixed {f : State → Nat → State} {l : List Nat} {t : State} (h : ∀ k ∈ l, f t k = t) : l.foldl f t = t := by
  induction l with
  | nil => rfl
  | cons k l ih =>
    rw [List.foldl_cons, h k List.mem_cons_self]
    exact ih fun j hj => h j (List.mem_cons_of_mem _ hj)

/-- Where one index of a list without repeats changes the state, the list changes it so once. -/
theorem foldl_eq_of_index {f : State → Nat → State} {n : Nat} {l : List Nat} (hl : l.Nodup) (hn : n ∈ l) (s : State)
    (hf : ∀ u, ∀ k ∈ l, k ≠ n → f u k = u) : l.foldl f s = f s n := by
  induction l with
  | nil => exact absurd hn List.not_mem_nil
  | cons k l ih =>
    obtain ⟨hk, hl⟩ := List.nodup_cons.1 hl
    rw [List.foldl_cons]
    by_cases hkn : k = n
    · subst hkn
      exact foldl_eq_of_fixed fun j hj => hf _ j (List.mem_cons_of_mem _ hj) fun h => hk (h ▸ hj)
    · rw [hf s k List.mem_cons_self hkn]
      exact ih hl ((List.mem_cons.1 hn).resolve_left (Ne.symm hkn)) fun u j hj => hf u j (List.mem_cons_of_mem _ hj)

/-- What a write of TIME_TOUT_EN does to generator `n`, where its bit was `was` and becomes `is` (R413). -/
def State.switchTout (was is : Bool) (t : State) (n : Nat) : State :=
  if is && !was then { t with time := { t.time with touts := SMap.set (fun _ => {}) t.time.touts n (t.loadTout n) } }
  else if !is && was then { t with time := { t.time with touts := SMap.modify (fun _ => {}) t.time.touts n fun o => { o with running := false } } }
  else t

theorem State.switchTout_same (b : Bool) (t : State) (n : Nat) : t.switchTout b b n = t := by cases b <;> rfl

theorem exec_timeToutEnWrite (en : BitVec 8) (s : State) : exec (.timeToutEnWrite en) s =
    .next (((List.range 8).foldl (fun t n => t.switchTout (bitAt (s.regN Reg.timeToutEn) n) (bitAt en.toNat n) n) s).setRegN Reg.timeToutEn en.toNat) := rfl

/-- A write that changes the bit of output `n` alone switches its generator. -/
theorem exec_timeToutEnWrite_one {n : Nat} (hn : n < 8) {en : BitVec 8} {s : State}
    (hsame : ∀ k, k ≠ n → bitAt (s.regN Reg.timeToutEn) k = bitAt en.toNat k) : exec (.timeToutEnWrite en) s =
    .next ((s.switchTout (bitAt (s.regN Reg.timeToutEn) n) (bitAt en.toNat n) n).setRegN Reg.timeToutEn en.toNat) := by
  rw [exec_timeToutEnWrite, foldl_eq_of_index List.nodup_range (List.mem_range.2 hn) s fun u k _ hk => ?_]
  rw [hsame k hk]
  exact u.switchTout_same _ _

theorem exec_timeToutEnWrite_same {en : BitVec 8} {s : State} (h : s.regN Reg.timeToutEn = en.toNat) :
    exec (.timeToutEnWrite en) s = .next (s.setRegN Reg.timeToutEn en.toNat) := by
  have hf (k : Nat) (_ : k ∈ List.range 8) := s.switchTout_same (bitAt en.toNat k) k
  rw [exec_timeToutEnWrite, h, foldl_eq_of_fixed hf]

/-- The edge of output `n` that is due, by what the output takes. -/
theorem exec_timingOutputEdge {n : Nat} (hn : n < 8) {s : State} {f : Tout → Tout} (hf : (s.tout n).step s.nowQ = f (s.tout n)) :
    exec (.timingOutputEdge n) s = .next { s with time := { s.time with touts := SMap.modify (fun _ => {}) s.time.touts n f } } :=
  (if_pos hn).trans (congrArg (fun o => Host.Outcome.next { s with time := { s.time with touts := SMap.set (fun _ => {}) s.time.touts n o } }) hf)

section
variable {o : Tout} {p : Nat × Nat} {q : Nat}

theorem Tout.step_noEdges (h : o.period = none) : o.step q = { o with level := bitAt o.cfg 3, returnAt := none } := by unfold Tout.step; rw [h]

theorem Tout.step_active (hp : o.period = some p) (hr : o.running = true) (hn : o.returnAt = none) (hdue : o.edge p (o.firstEdge p o.notBefore) ≤ q) :
    o.step q = { o with
      level := !bitAt o.cfg 3, returnAt := some (o.returnEdge p (o.firstEdge p o.notBefore)).toNat,
      nextK := o.firstEdge p o.notBefore + 1, notBefore := (o.edge p (o.firstEdge p o.notBefore)).toNat + 1 } := by
  unfold Tout.step
  rw [hp, hn]
  exact if_pos (by rw [hr, decide_eq_true hdue]; rfl)

theorem Tout.step_return {r : Nat} (hp : o.period = some p) (hr : o.running = false) (hn : o.returnAt = some r) (hdue : r ≤ q) :
    o.step q = { o with level := bitAt o.cfg 3, returnAt := none } := by
  unfold Tout.step
  rw [hp, hn]
  exact if_pos ⟨hdue, .inl (by rw [hr]; rfl)⟩

end

/-- Settles O30: one bit switches one generator, and a due edge moves its output alone. -/
theorem timingOutputsToggle : Obligations.TimingOutputsToggle := by
  refine ⟨?loads, ?stops, fun en s h => exec_timeToutEnWrite_same h, ?active,
    fun n r p s hn hp hr hret hdue => exec_timingOutputEdge hn (Tout.step_return hp hr hret hdue),
    fun n s hn hp => exec_timingOutputEdge hn (Tout.step_noEdges hp)⟩
  case active =>
    intro n p s hn hp hr hret k hdue
    exact exec_timingOutputEdge hn (Tout.step_active hp hr hret hdue)
  case loads =>
    intro n s hn h0 b g
    have hen : (BitVec.ofNat 8 (2 ^ n)).toNat = 2 ^ n := by
      rw [BitVec.toNat_ofNat]
      exact Nat.mod_eq_of_lt (Nat.pow_lt_pow_right (by decide) hn)
    rw [exec_timeToutEnWrite_one hn fun k hk => by rw [h0, hen, bitAt_two_pow, bitAt_zero, decide_eq_false hk], hen, h0, bitAt_two_pow, bitAt_zero, decide_eq_true rfl]
    rfl
  case stops =>
    intro n s hn h
    have hzero : (0 : BitVec 8).toNat = 0 := rfl
    rw [exec_timeToutEnWrite_one hn fun k hk => by rw [h, hzero, bitAt_two_pow, bitAt_zero, decide_eq_false hk], h, hzero, bitAt_two_pow, bitAt_zero, decide_eq_true rfl]
    rfl

end Sys2Proof.Machine
end

section
/-!
The servo: its states, its reference, PTP messages and samples (O29).
-/
namespace Sys2Proof.Machine

/-! ## The servo's state (R404) -/

theorem State.servoTo_same {s : State} {v : Servo} (h : s.time.servo = v) : s.servoTo v = s := if_pos h

theorem State.servoTo_other {s : State} {v : Servo} (h : s.time.servo ≠ v) (hv : v ≠ .holdover) :
    s.servoTo v = { s.raise Src.time Kind.servoChange 0 (s.time.servo.code + 8 * v.code) with time := { s.time with
      servo := v, lockRun := 0, unlockRun := 0, entryRate := (if v = .acquiring then s.incAdj else s.time.entryRate),
      rateLog := (if v = .locked ∨ v = .following then [(s.time.tick, s.incAdj)] else []) } } := by
  unfold State.servoTo
  simp only [if_neg h, hv, false_and, if_false]
  rfl

theorem State.sourceAvailable_source {s : State} (h : s.sourceAvailable = true) : s.time.ref.source ≠ 0 := by
  intro h0
  simp [State.sourceAvailable, h0] at h

/-- The servo is locked to a reference, the device's own or a partner's. -/
def Servo.isLocked (v : Servo) : Prop := v = .locked ∨ v = .following

theorem Servo.isLocked.ne {v w : Servo} (h : v.isLocked) (hl : w ≠ .locked) (hf : w ≠ .following) : v ≠ w := by
  rcases h with rfl | rfl
  · exact hl.symm
  · exact hf.symm

section
variable {s : State}

theorem State.servoReview_follower (h : s.time.follower = true) : s.servoReview = s := if_pos h

section
variable (hf : s.time.follower = false)
include hf

theorem State.servoReview_own : s.servoReview =
    if s.field Reg.timeCfg 0 1 = 1 then (if s.time.servo = .locked then s else s.servoTo .acquiring)
    else if s.time.ref.source = 0 then s.servoTo .freeRunning
    else if s.sourceAvailable ∧ (s.time.servo = .freeRunning ∨ s.time.servo = .holdover) then s.servoTo .acquiring
    else if !s.sourceAvailable ∧ (s.time.servo = .locked ∨ s.time.servo = .following) then s.servoTo .holdover else s := if_neg (Bool.eq_false_iff.1 hf)

theorem State.servoReview_host (hh : s.field Reg.timeCfg 0 1 = 1) (hl : s.time.servo ≠ .locked) : s.servoReview = s.servoTo .acquiring := by
  rw [State.servoReview_own hf, if_pos hh, if_neg hl]

section
variable (hh : s.field Reg.timeCfg 0 1 = 0)
include hh

theorem State.servoReview_device : s.servoReview =
    if s.time.ref.source = 0 then s.servoTo .freeRunning
    else if s.sourceAvailable ∧ (s.time.servo = .freeRunning ∨ s.time.servo = .holdover) then s.servoTo .acquiring
    else if !s.sourceAvailable ∧ (s.time.servo = .locked ∨ s.time.servo = .following) then s.servoTo .holdover else s := by
  rw [State.servoReview_own hf, if_neg (by omega)]

theorem State.servoReview_noSource (h0 : s.time.ref.source = 0) : s.servoReview = s.servoTo .freeRunning := by
  rw [State.servoReview_device hf hh, if_pos h0]

theorem State.servoReview_regained (ha : s.sourceAvailable = true) (hv : s.time.servo = .freeRunning ∨ s.time.servo = .holdover) :
    s.servoReview = s.servoTo .acquiring := by
  rw [State.servoReview_device hf hh, if_neg (State.sourceAvailable_source ha), if_pos ⟨ha, hv⟩]

theorem State.servoReview_lost (h0 : s.time.ref.source ≠ 0) (ha : s.sourceAvailable = false) (hv : s.time.servo.isLocked) :
    s.servoReview = s.servoTo .holdover := by
  rw [State.servoReview_device hf hh, if_neg h0, if_neg (by simp [ha]), if_pos ⟨by simp [ha], hv⟩]

/-- With its source there, a servo that acquires or is locked stays as it is. -/
theorem State.servoReview_stays (ha : s.sourceAvailable = true) (hv : s.time.servo ≠ .freeRunning) (hv' : s.time.servo ≠ .holdover) : s.servoReview = s := by
  rw [State.servoReview_device hf hh, if_neg (State.sourceAvailable_source ha), if_neg (by simp [hv, hv']), if_neg (by simp [ha])]

end

end

end

/-! ## The SLAVE port is lost (R404, R410) -/

theorem exec_announceReceiptTimeout_lost {s : State} {q : Nat} (hf : s.time.follower = false) (hh : s.field Reg.timeCfg 0 1 = 0)
    (hsource : s.time.ref.source = 1) (hv : s.time.servo.isLocked) (hq : s.time.slavePort = some q) :
    let u := if s.time.parent = 0 then s else s.raise Src.time Kind.ptpParentChange 0 q
    exec .announceReceiptTimeout s = .next ({ u with time := { s.time with slavePort := none, parent := 0, ptp := SMap.modify (fun _ => {}) s.time.ptp q fun v =>
      { v with portState := if s.time.clock.role = 0 ∧ s.time.clock.slaveOnly = true then 4 else 6 } } }.servoTo .holdover) := by
  intro u
  have hu : u.time = s.time ∧ u.regs = s.regs := by
    simp only [u]
    split <;> exact ⟨rfl, rfl⟩
  obtain ⟨htime, hregs⟩ := hu
  show execAnnounceReceiptTimeout s = _
  unfold execAnnounceReceiptTimeout
  rw [hq]
  show Host.Outcome.next (State.servoReview { u with time := { u.time with slavePort := none, ptp := _, parent := _ } }) = _
  rw [htime, State.servoReview_lost (s := { u with time := _ })]
  · rfl
  · exact hf
  · exact (congrArg (fun m => bitsAt (SMap.get regReset m Reg.timeCfg).toNat 0 1) hregs).trans hh
  · exact hsource ▸ Nat.one_ne_zero
  · exact if_pos hsource
  · exact hv

theorem exec_announceReceiptTimeout_none {s : State} (h : s.time.slavePort = none) : exec .announceReceiptTimeout s = .next s.servoReview := by
  show execAnnounceReceiptTimeout s = _
  unfold execAnnounceReceiptTimeout
  have hs : ({ s with time := { s.time with slavePort := none } } : State) = s := by rw [← h]
  rw [h]
  exact congrArg (fun t : State => Host.Outcome.next t.servoReview) hs

/-! ## PTP messages (R399, R400, R403) -/

theorem State.takePtpFrame_none {s : State} {port : Nat} (h : s.net.fwRx.find? (fun e => decide (e.1 = port)) = none) : s.takePtpFrame port = s := by
  unfold State.takePtpFrame
  rw [h]

/-- The figures of a message enter its port's alone: what the servo reads of the time base stays. -/
theorem State.meterPtp_time (s : State) (port : Nat) (d : PtpDecision) : ∃ l, (s.meterPtp port d).time = { s.time with ptp := l } := by
  unfold State.meterPtp
  dsimp only
  rw [State.meter_time, State.endIntervals_time]
  exact ⟨_, rfl⟩

/-- The state once a message of `port` has been metered and its decision about the SLAVE port and the parent taken. -/
def State.heardPtp (s : State) (port : Nat) (d : PtpDecision) : State :=
  let u := s.meterPtp port d
  let u := if d.parent ≠ s.time.parent then u.raise Src.time Kind.ptpParentChange 0 port else u
  { u with time := { u.time with slavePort := d.slave, parent := d.parent } }

theorem State.heardPtp_time (s : State) (port : Nat) (d : PtpDecision) :
    ∃ l, (s.heardPtp port d).time = { s.time with ptp := l, slavePort := d.slave, parent := d.parent } := by
  obtain ⟨l, hl⟩ := s.meterPtp_time port d
  refine ⟨l, ?_⟩
  unfold State.heardPtp
  dsimp only
  split
  · rw [State.raise_time, hl]
  · rw [hl]

/-- The parent's time-code values, when a message brings them on the port that the servo follows (R403). -/
def State.heardTlv (s : State) (port : Nat) (d : PtpDecision) (v : TimecodeArgs) : State :=
  if d.slave = some port ∧ s.time.ref.source = 1 ∧ s.time.follower = false then
    { s with time := { s.time with tlvTc := some (timecodeCfg v), tlvAt := s.now } }
  else s

theorem execPtpMessageReceive_disabled {port : Nat} {d : PtpDecision} {s : State} (hport : port < 8)
    (hframe : s.net.fwRx.find? (fun e => decide (e.1 = port)) = none) (he : (s.ptpPort port).enable = false) : execPtpMessageReceive port d s = .next s := by
  unfold execPtpMessageReceive
  rw [if_pos hport, State.takePtpFrame_none hframe]
  exact if_pos he

theorem execPtpMessageReceive_heard {port : Nat} {d : PtpDecision} {s : State} (hport : port < 8)
    (hframe : s.net.fwRx.find? (fun e => decide (e.1 = port)) = none) (he : (s.ptpPort port).enable = true) (hrole : s.time.clock.role ≠ 2) :
    execPtpMessageReceive port d s = .next (d.tlv.elim (s.heardPtp port d) ((s.heardPtp port d).heardTlv port d)).servoReview := by
  obtain ⟨l, hl⟩ := s.meterPtp_time port d
  have hclock : ¬(s.meterPtp port d).time.clock.role = 2 := by rwa [hl]
  have hparent : (s.meterPtp port d).time.parent = s.time.parent := by rw [hl]
  unfold execPtpMessageReceive State.heardPtp
  rw [if_pos hport, State.takePtpFrame_none hframe, if_neg (by simp [he])]
  dsimp only
  rw [if_neg hclock, hparent]
  cases d.tlv with
  | none => rfl
  | some v => rfl

/-! ## The servo's judgement and its steering (R404, R405, R408) -/

theorem State.sourceAvailable_slave {s : State} (hsource : s.time.ref.source = 1) (hq : s.time.slavePort ≠ none) : s.sourceAvailable = true := by
  unfold State.sourceAvailable
  rw [if_pos hsource]
  exact Option.isSome_iff_ne_none.2 hq

theorem State.servoOffset_given {s : State} {offset : Int} (h2 : s.time.ref.source ≠ 2) (h3 : s.time.ref.source ≠ 3) : s.servoOffset offset = offset :=
  if_neg (not_or.2 ⟨h2, h3⟩)

/-- `roundFrac` of a number of quarters is within half a whole of it. -/
theorem abs_roundFrac_four (d : Int) : |4 * roundFrac d 4 - d| ≤ 2 := by
  unfold roundFrac
  exact abs_le.2 (by omega)

theorem State.servoOffset_pps {s : State} (offset : Int) (h : s.time.ref.source = 2 ∨ s.time.ref.source = 3) :
    ∃ k d : Int, (s.time.ppsTs : Int) = 4000000000 * k + d ∧ -2000000000 ≤ d ∧ d < 2000000000 ∧ |4 * s.servoOffset offset - d| ≤ 2 := by
  have ho : s.servoOffset offset = roundFrac (((s.time.ppsTs : Int) + 2000000000) % 4000000000 - 2000000000) 4 := if_pos h
  refine ⟨((s.time.ppsTs : Int) + 2000000000) / 4000000000, _, ?_, ?_, ?_, ho ▸ abs_roundFrac_four _⟩ <;> omega

/-- An offset that leaves an acquiring servo where it is enters its two runs alone. -/
theorem State.judgeOffset_acquiring {s : State} {offset : Int} (hv : s.time.servo = .acquiring)
    (hrun : (if |offset| ≤ (s.time.ref.lockNs : Int) then s.time.lockRun + 1 else 0) < 16) :
    s.judgeOffset offset = { s with time := { s.time with
      lockRun := (if |offset| ≤ (s.time.ref.lockNs : Int) then s.time.lockRun + 1 else 0),
      unlockRun := (if (s.time.ref.unlockNs : Int) < |offset| then s.time.unlockRun + 1 else 0) } } := by
  unfold State.judgeOffset
  simp only [decide_eq_true_eq]
  rw [if_neg fun h => absurd h.2 (Nat.not_le.2 hrun), if_neg fun h => ?_]
  obtain ⟨hl | hl, -⟩ := h <;> exact absurd (hv.symm.trans hl) (by decide)

section
variable {s : State} {offset : Int} (rate : Int) (hh : s.field Reg.timeCfg 0 1 = 0)
include hh

theorem State.steer_steps (hbig : (s.time.ref.stepNs : Int) < |offset|) (hmay : s.anyLive = false ∨ s.time.ref.stepAny = true) :
    s.steer offset rate = { s with time := { s.time with step := some (.by (-offset)), valid := true } } :=
  (if_neg (by omega)).trans (if_pos ⟨hbig, hmay⟩)

/-- Where no step is made the rate adjustment takes the rate that is wanted, within the limit of the entry rate. -/
theorem State.steer_rate (hstep : ¬((s.time.ref.stepNs : Int) < |offset| ∧ (s.anyLive = false ∨ s.time.ref.stepAny = true)))
    (hv : s.time.servo = .acquiring) :
    let want := if (s.time.ref.stepNs : Int) < |offset| then (if 0 < offset then s.time.entryRate - s.rateSpan else s.time.entryRate + s.rateSpan) else rate
    let r := max (s.time.entryRate - s.rateSpan) (min (s.time.entryRate + s.rateSpan) want)
    s.steer offset rate = { s.setRegN Reg.timeIncAdj (if s.time.ref.steer then 0 else ofSigned 32 (clampAdj r)) with
      time := { s.time with valid := true } } := by
  intro want r
  refine ((if_neg (by omega)).trans (if_neg hstep)).trans (if_neg ?_)
  rintro (hl | hl)
  · exact absurd (hv.symm.trans hl) (by decide)
  · exact absurd (hv.symm.trans hl) (by decide)

end

theorem execServoSample_follower {offset rate : Int} {s : State} (hf : s.time.follower = true) : execServoSample offset ⟨rate, none⟩ s = .next s := if_pos hf

theorem execServoSample_measures (offset rate ppb : Int) (s : State) :
    execServoSample offset ⟨rate, some ppb⟩ s = execServoSample offset ⟨rate, none⟩
      (if s.time.ref10mOk = true ∧ 10000 < |ppb| then (s.measureRef ppb).loseRef true else s.measureRef ppb) := by
  have hok : (s.measureRef ppb).time.ref10mOk = false ↔ 10000 < |ppb| := decide_eq_false_iff_not.trans Int.not_le
  simp only [execServoSample, hok]

/-- A servo of the device's own that is at work judges the offset and steers by it. -/
theorem execServoSample_judges {offset rate : Int} {s : State} (hf : s.time.follower = false) (hh : s.field Reg.timeCfg 0 1 = 0)
    (ha : s.sourceAvailable = true) (hv : s.time.servo = .acquiring ∨ s.time.servo.isLocked) :
    execServoSample offset ⟨rate, none⟩ s = .next ((s.judgeOffset (s.servoOffset offset)).steer (s.servoOffset offset) rate) := by
  have hne : ∀ w : Servo, w ≠ .acquiring → w ≠ .locked → w ≠ .following → s.time.servo ≠ w := by
    intro w h1 h2 h3
    rcases hv with hv | hv
    · exact hv ▸ h1.symm
    · exact hv.ne h2 h3
  have hstay : s.servoReview = s := State.servoReview_stays hf hh ha (hne _ (by decide) (by decide) (by decide)) (hne _ (by decide) (by decide) (by decide))
  unfold execServoSample
  dsimp only
  rw [if_neg (by simp [hf]), hstay]
  exact if_pos hv

section
variable {offset : Int} (rate : Int) {s : State} (hf : s.time.follower = false) (hsource : s.time.ref.source = 1) (hq : s.time.slavePort ≠ none)
  (hv : s.time.servo = .acquiring) (hh : s.field Reg.timeCfg 0 1 = 0)
include hf hsource hq hv hh

theorem execServoSample_master : execServoSample offset ⟨rate, none⟩ s = .next ((s.judgeOffset offset).steer offset rate) := by
  rw [execServoSample_judges hf hh (State.sourceAvailable_slave hsource hq) (.inl hv), State.servoOffset_given (by omega) (by omega)]

theorem execServoSample_small (hrun : s.time.lockRun < 15) (hlock : |offset| ≤ s.time.ref.lockNs) (hunlock : |offset| ≤ s.time.ref.unlockNs)
    (hstep : |offset| ≤ s.time.ref.stepNs) :
    let r := max (s.time.entryRate - s.rateSpan) (min (s.time.entryRate + s.rateSpan) rate)
    execServoSample offset ⟨rate, none⟩ s = .next { s.setRegN Reg.timeIncAdj (if s.time.ref.steer then 0 else ofSigned 32 (clampAdj r)) with
      time := { s.time with lockRun := s.time.lockRun + 1, unlockRun := 0, valid := true } } := by
  intro r
  rw [execServoSample_master rate hf hsource hq hv hh, State.judgeOffset_acquiring hv (by rw [if_pos hlock]; omega), if_pos hlock,
    if_neg (Int.not_lt.2 hunlock), State.steer_rate rate]
  · dsimp only
    rw [if_neg (Int.not_lt.2 hstep)]
    rfl
  · exact hh
  · exact fun h => absurd h.1 (Int.not_lt.2 hstep)
  · exact hv

theorem execServoSample_steps (hmay : s.anyLive = false ∨ s.time.ref.stepAny = true) (hlock : (s.time.ref.lockNs : Int) < |offset|)
    (hstep : (s.time.ref.stepNs : Int) < |offset|) :
    execServoSample offset ⟨rate, none⟩ s = .next { s with time := { s.time with
      lockRun := 0, unlockRun := (if (s.time.ref.unlockNs : Int) < |offset| then s.time.unlockRun + 1 else 0), step := some (.by (-offset)), valid := true } } := by
  have hnot := Int.not_le.2 hlock
  rw [execServoSample_master rate hf hsource hq hv hh, State.judgeOffset_acquiring hv (by rw [if_neg hnot]; decide), if_neg hnot, State.steer_steps rate]
  · exact hh
  · exact hstep
  · exact hmay

theorem execServoSample_slews (hlive : s.anyLive = true) (hany : s.time.ref.stepAny = false) (hlock : (s.time.ref.lockNs : Int) < |offset|)
    (hunlock : |offset| ≤ s.time.ref.unlockNs) (hstep : (s.time.ref.stepNs : Int) < |offset|) :
    let r := if 0 < offset then s.time.entryRate - s.rateSpan else s.time.entryRate + s.rateSpan
    let r := max (s.time.entryRate - s.rateSpan) (min (s.time.entryRate + s.rateSpan) r)
    execServoSample offset ⟨rate, none⟩ s = .next { s.setRegN Reg.timeIncAdj (if s.time.ref.steer then 0 else ofSigned 32 (clampAdj r)) with
      time := { s.time with lockRun := 0, unlockRun := 0, valid := true } } := by
  intro r₀ r
  have hnot := Int.not_le.2 hlock
  rw [execServoSample_master rate hf hsource hq hv hh, State.judgeOffset_acquiring hv (by rw [if_neg hnot]; decide), if_neg hnot,
    if_neg (Int.not_lt.2 hunlock), State.steer_rate rate]
  · dsimp only
    rw [if_pos hstep]
    rfl
  · exact hh
  · rintro ⟨-, hmay⟩
    rcases hmay with hno | hyes
    · exact absurd (hlive.symm.trans hno) (by decide)
    · exact absurd (hany.symm.trans hyes) (by decide)
  · exact hv

end

/-! ## The references (R404, R406, R410) -/

/-- The reference that REF10M_IN (`true`) or PPS_IN serves is selected. -/
def State.refSelected (s : State) (ref10m : Bool) : Prop := s.time.ref.source = 2 ∨ (ref10m = false ∧ s.time.ref.source = 3)

section
variable {s : State} {ref10m : Bool}

theorem State.loseRef_unselected (h : ¬s.refSelected ref10m) : s.loseRef ref10m = s := by
  refine if_neg ?_
  cases ref10m <;> simpa [State.refSelected] using h

section
variable (h : s.refSelected ref10m)
include h

theorem State.loseRef_selected : s.loseRef ref10m =
    let t := s.raise Src.time Kind.refLost 0 (if ref10m then 3 else 2)
    if t.time.follower = false ∧ (t.time.servo = .locked ∨ t.time.servo = .following) ∧ t.field Reg.timeCfg 0 1 = 0 then t.servoTo .holdover else t := by
  refine if_pos ?_
  cases ref10m <;> simpa [State.refSelected] using h

theorem State.loseRef_locked (hf : s.time.follower = false) (hh : s.field Reg.timeCfg 0 1 = 0) (hv : s.time.servo.isLocked) :
    s.loseRef ref10m = (s.raise Src.time Kind.refLost 0 (if ref10m then 3 else 2)).servoTo .holdover :=
  (State.loseRef_selected h).trans (if_pos ⟨hf, hv, hh⟩)

theorem State.loseRef_host (hh : s.field Reg.timeCfg 0 1 = 1) : s.loseRef ref10m = s.raise Src.time Kind.refLost 0 (if ref10m then 3 else 2) :=
  (State.loseRef_selected h).trans (if_neg fun hc => absurd (hh.symm.trans hc.2.2) (by decide))

end

end

theorem execPpsInEdge_edge {falling : Bool} {ts : Nat} {s : State} :
    execPpsInEdge falling ts s = if falling = true ↔ s.field Reg.timePpsCfg 0 1 = 1 then
      .next (({ s with time := { s.time with ppsAt := some s.now, ppsTs := ofSigned 64 ((ts : Int) + toSigned 24 (s.field Reg.timePpsCfg 8 24)) } }.assertIrq
        50).servoReview)
    else .next s := by
  unfold execPpsInEdge
  refine if_congr ?_ rfl rfl
  cases falling <;> simp

/-- Settles O29: the servo's states, the PTP messages and timeouts, the samples by their offset, and the references. -/
theorem theServoFollowsItsReference : Obligations.TheServoFollowsItsReference := by
  refine ⟨fun v s => State.servoTo_same, fun v s => State.servoTo_other, fun q s => exec_announceReceiptTimeout_lost, fun s => exec_announceReceiptTimeout_none,
    ?review, ?message, ?tlv, fun port d s => execPtpMessageReceive_disabled, fun o r s => execServoSample_follower,
    fun o r ppb s => execServoSample_measures o r ppb s, ?small, ?steps, ?slews, ?holdover, fun falling ts s h => execPpsInEdge_edge.trans (if_pos h),
    fun falling ts s h => execPpsInEdge_edge.trans (if_neg h), ?refOther, ?ref3, ?refHost, ?ref2, ?tlvTimeout, fun o s => State.servoOffset_given,
    fun o s => State.servoOffset_pps o, ?source3⟩
  case review =>
    exact fun s => ⟨State.servoReview_follower, State.servoReview_host, State.servoReview_noSource, State.servoReview_regained, State.servoReview_lost⟩
  case message =>
    intro port d s hport hframe he hrole htlv
    refine (execPtpMessageReceive_heard hport hframe he hrole).trans ?_
    rw [htlv]
    rfl
  case tlv =>
    intro port d v s hport hframe he hrole htlv
    obtain ⟨l, hl⟩ := s.heardPtp_time port d
    have hheard : execPtpMessageReceive port d s = .next ((s.heardPtp port d).heardTlv port d v).servoReview := by
      rw [execPtpMessageReceive_heard hport hframe he hrole, htlv]
      rfl
    have hif : (d.slave = some port ∧ (s.heardPtp port d).time.ref.source = 1 ∧ (s.heardPtp port d).time.follower = false) ↔
        d.slave = some port ∧ s.time.ref.source = 1 ∧ s.time.follower = false := by rw [hl]
    have hnow : (s.heardPtp port d).now = s.now := by
      unfold State.now
      rw [hl]
    refine ⟨fun hslave hsource hf => hheard.trans ?_, fun hno => hheard.trans ?_⟩
    · unfold State.heardTlv
      rw [if_pos (hif.2 ⟨hslave, hsource, hf⟩), hnow]
      rfl
    · unfold State.heardTlv
      rw [if_neg]
      · rfl
      · rw [hif]
        rintro ⟨hslave, hsource, hf⟩
        rcases hno with h | h | h
        · exact h hslave
        · exact h hsource
        · exact absurd (hf.symm.trans h) (by decide)
  case small => exact fun o r s hf hsource hq hv hh => execServoSample_small r hf hsource hq hv hh
  case steps => exact fun o r s hf hsource hq hv hh => execServoSample_steps r hf hsource hq hv hh
  case slews => exact fun o r s hf hsource hq hv hh => execServoSample_slews r hf hsource hq hv hh
  case holdover =>
    refine fun s => ⟨fun hv h0 ht => if_pos ⟨hv, h0, ht⟩, fun h => if_neg ?_⟩
    rintro ⟨hv, h0, -⟩
    exact h.elim (fun hn => hn hv) h0
  case refOther =>
    refine fun s h2 h3 => ⟨congrArg Host.Outcome.next (State.loseRef_unselected ?_), congrArg Host.Outcome.next (State.loseRef_unselected ?_)⟩
    · exact fun h => h.elim h2 fun h => h3 h.2
    · exact fun h => h.elim h2 fun h => h3 h.2
  case ref3 =>
    refine fun s hsource hf hh hv => ⟨congrArg Host.Outcome.next (State.loseRef_locked (ref10m := false) (.inr ⟨rfl, hsource⟩) hf hh hv),
      congrArg Host.Outcome.next (State.loseRef_unselected ?_)⟩
    rintro (h | h)
    · exact absurd (hsource.symm.trans h) (by decide)
    · exact absurd h.1 (by decide)
  case refHost => exact fun s hsource hh => congrArg Host.Outcome.next (State.loseRef_host (ref10m := false) (.inl hsource) hh)
  case ref2 =>
    exact fun s hsource hf hh hv => ⟨congrArg Host.Outcome.next (State.loseRef_locked (ref10m := false) (.inl hsource) hf hh hv),
      congrArg Host.Outcome.next (State.loseRef_locked (ref10m := true) (.inl hsource) hf hh hv)⟩
  case tlvTimeout => exact fun s => ⟨fun h => if_pos h, fun h => if_neg (Nat.not_le.2 h)⟩
  case source3 =>
    exact fun o r s _ ha hf hh hv => execServoSample_judges hf hh ha (.inr hv)

end Sys2Proof.Machine
end

section
/-!
The check units: the pairs of a unit, what is fed into it and what is restored, and the alive counters (O59).
-/
namespace Sys2Proof.Machine

/-! ## Pairs of the register file (R11) -/

/-- A value other than the default reads back where it is written, in any form of the map. -/
theorem SMap_get_set_of_ne_default {V : Type} [DecidableEq V] (d : Nat → V) (m : SMap V) {k : Nat} {v : V} (hv : v ≠ d k) :
    SMap.get d (SMap.set d m k v) k = v := by
  induction m with
  | nil =>
    unfold SMap.set
    rw [if_neg hv]
    exact if_pos rfl
  | cons e m ih =>
    obtain ⟨j, w⟩ := e
    unfold SMap.set
    rw [if_neg hv]
    split
    · exact if_pos rfl
    · split
      · next h => subst h; exact if_pos rfl
      · next h => exact (if_neg (Ne.symm h)).trans ih

theorem State.lowToCommit_holdLow (s : State) (who : Requester) (a : Nat) (v : Word) : (s.holdLow who a v).lowToCommit who a = v := by
  unfold State.lowToCommit State.holdLow
  dsimp only
  rw [SMap_get_set_of_ne_default]
  exact Option.some_ne_none v

theorem State.regN_setPair_of_ne (s : State) {a b : Nat} (w v : Nat) (hlo : b ≠ a) (hhi : b ≠ a + 4) : (s.setPair a w v).regN b = s.regN b :=
  (State.regN_setRegN_of_ne _ _ hhi).trans (State.regN_setRegN_of_ne _ _ hlo)

theorem Tidy.setPair {s : State} (h : Tidy s) (a w v : Nat) : Tidy (s.setPair a w v) := (h.setRegN _ _).setRegN _ _

theorem State.pair_setPair_same {s : State} (h : Tidy s) (a v : Nat) {w : Nat} (hw : w ≤ 64) : (s.setPair a w v).pair a = v % 2 ^ w := by
  have hlt : v % 2 ^ w < 2 ^ 64 := Nat.lt_of_lt_of_le (Nat.mod_lt _ (Nat.two_pow_pos w)) (Nat.pow_le_pow_right (by decide) hw)
  unfold State.pair State.setPair
  rw [State.regN_setRegN_of_ne _ _ (by omega), State.regN_setRegN_same _ _ h, State.regN_setRegN_same _ _ (h.setRegN _ _), Nat.mod_mod]
  generalize v % 2 ^ w = x at hlt
  omega

/-- The pair that a requester commits is its held low word and the high word. -/
theorem State.pair_commitPair {s : State} (h : Tidy s) (who : Requester) (a : Nat) (lo hi : Word) :
    ((s.holdLow who a lo).commitPair who a hi).pair a = lo.toNat + 2 ^ 32 * hi.toNat := by
  have h' : Tidy (s.setReg a lo) := (State.setReg_keeps s a lo (.refl s)).tidy h
  unfold State.pair State.regN State.commitPair
  rw [State.lowToCommit_holdLow, State.reg_setReg_of_ne _ _ _ (by omega)]
  have hlo : (s.setReg a lo).reg a = lo := State.reg_setReg_same s a lo h
  have hhi : ((s.setReg a lo).setReg (a + 4) hi).reg (a + 4) = hi := State.reg_setReg_same _ _ _ h'
  exact congrArg₂ (fun x y : Word => x.toNat + 2 ^ 32 * y.toNat) hlo hhi

/-! ## A unit's registers (R474, R475, R478) -/

theorem State.ckWidth_le (s : State) (n : Nat) : s.ckWidth n ≤ 64 := by
  have : s.field (ckBase n) 0 6 < 64 := Nat.mod_lt _ (by decide)
  exact this

/-- What a unit computes with is read from its registers below the running value. -/
theorem ckModel_congr {s t : State} {n : Nat} (h : ∀ b, ckBase n ≤ b → b < ckBase n + 0x28 → t.regN b = s.regN b) :
    t.ckModel n = s.ckModel n ∧ t.ckBytes n = s.ckBytes n := by
  have hcfg := h (ckBase n) (Nat.le_refl _) (by omega)
  have hpair : ∀ o, o + 4 < 0x28 → t.pair (ckBase n + o) = s.pair (ckBase n + o) := by
    intro o ho
    unfold State.pair
    rw [h (ckBase n + o) (by omega) (by omega), h (ckBase n + o + 4) (by omega) (by omega)]
  refine ⟨?_, ?_⟩
  · unfold State.ckModel State.ckWidth State.field
    rw [hcfg, hpair _ (by decide), hpair _ (by decide), hpair _ (by decide)]
  · unfold State.ckBytes State.field
    rw [hcfg]

theorem State.ckModel_setPair_value (s : State) (n w v : Nat) :
    (s.setPair (ckBase n + 0x28) w v).ckModel n = s.ckModel n ∧ (s.setPair (ckBase n + 0x28) w v).ckBytes n = s.ckBytes n :=
  ckModel_congr fun b _ hlt => s.regN_setPair_of_ne w v (by omega) (by omega)

theorem State.ckModel_commitPair (s : State) (who : Requester) (n : Nat) (lo hi : Word) :
    let t := (s.holdLow who (ckBase n + 0x28) lo).commitPair who (ckBase n + 0x28) hi
    t.ckModel n = s.ckModel n ∧ t.ckBytes n = s.ckBytes n :=
  ckModel_congr fun b _ hlt => congrArg BitVec.toNat ((State.reg_setReg_of_ne _ _ _ (by omega)).trans (State.reg_setReg_of_ne _ _ _ (by omega)))

@[simp] theorem State.wakeBlock_regs (s : State) (id : Nat) : (s.wakeBlock id).regs = s.regs := by
  unfold State.wakeBlock
  split
  · obtain ⟨q, hq⟩ := s.askPower_eq (.fclkBlock id) true (s.now + 100)
    rw [hq]
  · rfl

@[simp] theorem State.wakeBlock_regN (s : State) (id a : Nat) : (s.wakeBlock id).regN a = s.regN a := by
  unfold State.regN State.reg
  rw [State.wakeBlock_regs]

/-- The running value of a unit after its bytes, and what stays (R470, R473). -/
theorem execCkData_value {n : Nat} (d : Word) {s : State} (hn : n < 16) (h : Tidy s) : ∃ t, execCkData n d s = .next t ∧
    t.ckValue n = crcFeed (s.ckModel n) (s.ckValue n) (recBytes d.toNat (s.ckBytes n)) % 2 ^ s.ckWidth n ∧ t.ckModel n = s.ckModel n := by
  let fed := s.setPair (ckBase n + 0x28) (s.ckWidth n) (crcFeed (s.ckModel n) (s.ckValue n) (recBytes d.toNat (s.ckBytes n)))
  refine ⟨fed.wakeBlock (Src.checkUnit + n), if_pos hn, ?_, ?_⟩
  · refine Eq.trans ?_ (State.pair_setPair_same h (ckBase n + 0x28) _ (s.ckWidth_le n))
    show (fed.wakeBlock (Src.checkUnit + n)).pair (ckBase n + 0x28) = fed.pair (ckBase n + 0x28)
    unfold State.pair
    rw [State.wakeBlock_regN, State.wakeBlock_regN]
  · exact ((ckModel_congr fun b _ _ => fed.wakeBlock_regN _ b).1).trans (s.ckModel_setPair_value n _ _).1

/-! ## Save and restore (R11, R475) -/

theorem regRow_ckValue {n : Nat} (hn : n < 16) :
    regRow (ckBase n + 0x28) = some { base := Reg.ck + 0x28, stride := 0x100, count := 16, rw := allBits, lo := true } := by
  have hall : ∀ k < 16, regRow (ckBase k + 0x28) = some { base := Reg.ck + 0x28, stride := 0x100, count := 16, rw := allBits, lo := true } := by decide
  exact hall n hn

/-- A register below the windows of the tambours and outside the host interface's responds and is unlocked while the device runs. -/
theorem State.responds_of_running {s : State} {a : Nat} (hrun : s.rst.state = .running) (ha : a < 0x6000) : s.responds a = true := by
  have htmb : ¬(Reg.tmb ≤ a ∧ a < 0x60000) := by have : Reg.tmb = 0x50000 := rfl; omega
  have hprk : ¬(Reg.prk ≤ a ∧ a < Reg.prk + 0x800) := by have : Reg.prk = 0x60000 := rfl; omega
  have hspt : ¬(0x28000 ≤ a ∧ a < 0x28080) := by omega
  unfold State.responds
  simp only [hrun, decide_true, Bool.or_true, Bool.true_and, decide_eq_false htmb, decide_eq_false hprk, decide_eq_false hspt, Bool.false_and, Bool.or_self,
    Bool.not_false]

theorem State.writeLocked_low {s : State} (who : Requester) {a : Nat} (ha : a < 0x6000) : s.writeLocked who a = false := by
  have h1 : ¬(Reg.hstAsq ≤ a ∧ a < 0x8030) := by have : Reg.hstAsq = 0x8008 := rfl; omega
  have h2 : ¬(0x8000 ≤ a ∧ a < 0x8100) := by omega
  have h3 : ¬a = Reg.timeStepLo := by have : Reg.timeStepLo = 0x6020 := rfl; omega
  have h4 : ¬(0x8000 ≤ a ∧ a < 0x8200) := by omega
  unfold State.writeLocked
  simp only [decide_eq_false h1, decide_eq_false h2, decide_eq_false h3, decide_eq_false h4, Bool.and_false, Bool.false_and, Bool.or_self]

/-- The low word of a unit's running value is held for the pair. -/
theorem execRegisterWrite_ckValue {n : Nat} (who : Requester) (v : Word) {s : State} (hn : n < 16) (hrun : s.rst.state = .running) :
    execRegisterWrite who (ckBase n + 0x28) v s = .next (s.holdLow who (ckBase n + 0x28) v) := by
  have haddr : ckBase n = 0x5000 + 0x100 * n := rfl
  have hport : inRegs (ckBase n + 0x28) Reg.netPortCfg 0x1000 8 = false := by
    have hlt : ¬Reg.netPortCfg ≤ ckBase n + 0x28 := by have : Reg.netPortCfg = 0x30000 := rfl; omega
    simp [inRegs, hlt]
  rw [execRegisterWrite_file (State.responds_of_running hrun (by omega)) (State.writeLocked_low who (by omega)) (by omega) (by omega) hport
    (by have : Reg.wswPoll = 0x8100 := rfl; omega), State.writeFile_low (regRow_ckValue hn) rfl]
  have hmask : v.toNat &&& allBits = v.toNat := (Nat.and_two_pow_sub_one_eq_mod v.toNat 32).trans (Nat.mod_eq_of_lt v.isLt)
  exact congrArg (fun x => Host.Outcome.next (s.holdLow who (ckBase n + 0x28) x)) ((congrArg (BitVec.ofNat 32) hmask).trans (by simp))

/-- A saved value that is written back, low word first, is the unit's running value again. -/
theorem exec_ckValue_restored {n : Nat} (who : Requester) {v : Nat} {u : State} (hn : n < 16) (hu : Tidy u) (hrun : u.rst.state = .running)
    (hv : v < 2 ^ u.ckWidth n) : ∃ u1 t, execRegisterWrite who (ckBase n + 0x28) (BitVec.ofNat 32 v) u = .next u1 ∧
      execCkValueRestore who n (BitVec.ofNat 32 (v / 2 ^ 32)) u1 = .next t ∧ Tidy t ∧ t.ckValue n = v ∧ t.ckModel n = u.ckModel n ∧
      t.ckBytes n = u.ckBytes n := by
  let lo : Word := BitVec.ofNat 32 v
  let hi : Word := BitVec.ofNat 32 (v / 2 ^ 32)
  let w := (u.holdLow who (ckBase n + 0x28) lo).commitPair who (ckBase n + 0x28) hi
  have hwTidy : Tidy w := (State.commitPair_keeps _ who _ hi (State.holdLow_keeps u who _ lo (.refl u))).tidy hu
  obtain ⟨hmodel, hbytes⟩ := u.ckModel_commitPair who n lo hi
  have hwidth : w.ckWidth n = u.ckWidth n := congrArg CrcModel.width hmodel
  have hlt : v < 2 ^ 64 := Nat.lt_of_lt_of_le hv (Nat.pow_le_pow_right (by decide) (u.ckWidth_le n))
  have hpair : w.pair (ckBase n + 0x28) = v := by
    refine (State.pair_commitPair hu who (ckBase n + 0x28) lo hi).trans ?_
    simp only [lo, hi, BitVec.toNat_ofNat]
    omega
  refine ⟨_, w.setPair (ckBase n + 0x28) (w.ckWidth n) (w.pair (ckBase n + 0x28)), execRegisterWrite_ckValue who lo hn hrun, if_pos hn,
    hwTidy.setPair _ _ _, ?_, ?_, ?_⟩
  · rw [State.ckValue, State.pair_setPair_same hwTidy _ _ (w.ckWidth_le n), hpair, hwidth, Nat.mod_eq_of_lt hv]
  · exact (w.ckModel_setPair_value n _ _).1.trans hmodel
  · exact (w.ckModel_setPair_value n _ _).2.trans hbytes

/-! ## The alive counters (R476) -/

theorem judge_next {w v : Nat} (h : v = (w + 1) % 256) : judge (some w) v = .ok := if_pos h

theorem judge_same {w v : Nat} (h : v = w) : judge (some w) v = .repeated := by
  have hne : ¬v = (w + 1) % 256 := by omega
  exact (if_neg hne).trans (if_pos h)

theorem judge_gap {w v g : Nat} (hw : w < 256) (hne : v ≠ w) (hnext : v ≠ (w + 1) % 256) (hg : g < 256) (h : (w + 1 + g) % 256 = v) :
    judge (some w) v = .gap g := by
  have hmissing : (v + 511 - w) % 256 = g := by omega
  exact ((if_neg hnext).trans (if_neg hne)).trans (congrArg Judgement.gap hmissing)

/-- What a judgement of slot `k`'s value `v` does to a unit. -/
def State.aliveJudged (s : State) (n k v : Nat) (j : Judgement) : State :=
  let t := s.setRegN (ckBase n + 0x44) (packFields [(2, j.code.1), (5, k), (1, 0), (8, j.code.2)])
  match j with
  | .first => t.setAlive n k (some v)
  | .ok => t.setAlive n k (some v)
  | .repeated => (t.count (ckBase n + 0x4C) 16 1).raise (Src.checkUnit + n) Kind.repeat_ 0 k
  | .gap m => ((t.setAlive n k (some v)).count (ckBase n + 0x50) 16 1).raise (Src.checkUnit + n) Kind.gap 0 m

theorem execCkAlive_judged {n : Nat} (k : BitVec 5) (v : BitVec 8) (s : State) (hn : n < 16) {j : Judgement}
    (hj : judge (s.aliveSlot n k.toNat) v.toNat = j) :
    execCkAlive n k v s = .next ((s.aliveJudged n k.toNat v.toNat j).wakeBlock (Src.checkUnit + n)) := by
  have halive : s.alive n k.toNat v.toNat = s.aliveJudged n k.toNat v.toNat j := by
    subst hj
    rfl
  exact (if_pos hn).trans (congrArg (fun t : State => Host.Outcome.next (t.wakeBlock (Src.checkUnit + n))) halive)

/-- Settles O59: CFG, START and DATA by their definitions, a restored unit by what it computes with, and each alive value by its judgement. -/
theorem checkUnitsComputeAndWatch : Obligations.CheckUnitsComputeAndWatch := by
  refine ⟨?registers, ?restore, ?alive, ?clear⟩
  case registers =>
    intro n v s hn
    have hcfg : execCkCfgWrite n v s = .next (s.ckConfigure n v.toNat) := if_pos hn
    refine ⟨fun m hm => hcfg.trans ?_, fun hm => hcfg.trans ?_, if_pos hn, if_pos hn⟩
    · unfold State.ckConfigure
      rw [hm]
    · unfold State.ckConfigure
      rw [hm]
  case restore =>
    intro n who s u hn hs hu hrun hv hcfg hmodel
    have hwidth : u.ckWidth n = s.ckWidth n := congrArg CrcModel.width hmodel
    have hbytes : u.ckBytes n = s.ckBytes n := by
      unfold State.ckBytes State.field
      rw [hcfg]
    obtain ⟨u1, t, hlow, hhigh, htTidy, hvalue, htModel, htBytes⟩ := exec_ckValue_restored who hn hu hrun (hwidth ▸ hv)
    have hresult : ∀ {a b : State}, a.ckValue n = b.ckValue n → a.ckModel n = b.ckModel n → a.ckResult n = b.ckResult n := by
      intro a b hval hmod
      rw [State.ckResult, State.ckResult, hval, hmod]
    refine ⟨u1, t, hlow, hhigh, hvalue, hresult hvalue (htModel.trans hmodel), fun d => ?_⟩
    obtain ⟨s2, hs2, hsValue, hsModel⟩ := execCkData_value d hn hs
    obtain ⟨t2, ht2, htValue, ht2Model⟩ := execCkData_value d hn htTidy
    have htWidth : t.ckWidth n = s.ckWidth n := (congrArg CrcModel.width htModel).trans hwidth
    have hsame : t2.ckValue n = s2.ckValue n := by
      rw [htValue, hsValue, htWidth, hvalue, htModel.trans hmodel, htBytes.trans hbytes]
    exact ⟨s2, t2, hs2, ht2, hsame, hresult hsame ((ht2Model.trans (htModel.trans hmodel)).trans hsModel.symm)⟩
  case alive =>
    intro n k v s hn l stat
    refine ⟨fun hl => ?_, fun w hl hnext => ?_, fun w hl _ hsame => ?_, fun w g hl hw hne hnext hg h => ?_⟩
    · exact execCkAlive_judged k v s hn (j := .first) (congrArg (fun x => judge x v.toNat) hl)
    · exact execCkAlive_judged k v s hn ((congrArg (fun x => judge x v.toNat) hl).trans (judge_next hnext))
    · exact execCkAlive_judged k v s hn ((congrArg (fun x => judge x v.toNat) hl).trans (judge_same hsame))
    · exact execCkAlive_judged k v s hn ((congrArg (fun x => judge x v.toNat) hl).trans (judge_gap hw hne hnext hg h))
  case clear =>
    intro n m s hn
    rw [List.foldl_filter]
    exact if_pos hn

end Sys2Proof.Machine
end

section
/-!
The levels of the reset sources, the reset map and the watchdogs (O55, O56).
-/
namespace Sys2Proof.Machine

/-! ## Fields of a packed word -/

/-- A word packed of fields of one width is read back field by field. -/
theorem bitsAt_packFields_map {α : Type} (w : Nat) (g : α → Nat) (l : List α) {k : Nat} (hk : k < l.length) :
    bitsAt (packFields (l.map fun x => (w, g x))) (w * k) w = g l[k] % 2 ^ w := by
  induction l generalizing k with
  | nil => exact absurd hk (Nat.not_lt_zero k)
  | cons a l ih =>
    have hpack : packFields ((a :: l).map fun x => (w, g x)) = g a % 2 ^ w + 2 ^ w * packFields (l.map fun x => (w, g x)) := rfl
    have hlow : g a % 2 ^ w < 2 ^ w := Nat.mod_lt _ (Nat.two_pow_pos w)
    rw [hpack]
    cases k with
    | zero =>
      unfold bitsAt
      rw [Nat.mul_zero, Nat.pow_zero, Nat.div_one, Nat.add_mul_mod_self_left, Nat.mod_mod, List.getElem_cons_zero]
    | succ k =>
      rw [List.getElem_cons_succ, ← ih (Nat.lt_of_succ_lt_succ hk)]
      unfold bitsAt
      rw [Nat.mul_succ, Nat.add_comm (w * k) w, Nat.pow_add, ← Nat.div_div_eq_div_mul, Nat.add_mul_div_left _ _ (Nat.two_pow_pos w),
        Nat.div_eq_of_lt hlow, Nat.zero_add]

/-! ## The map of levels (R505) -/

section
variable (s : State) {i : Nat}

/-- The level that a field of the map gives to a source that is neither a link source nor software's. -/
theorem State.sourceLevel_eq (h0 : i ≠ 0) :
    let f := if i < 8 then s.field Reg.rstMap0 (4 * i) 4 else s.field Reg.rstMap1 (4 * (i - 8)) 4
    let v := if f = 0 ∨ 4 ≤ f then 0 else if f = 3 then 2 else f
    s.sourceLevel i = if i = 2 ∨ i = 3 ∨ i = 4 then (if f = 2 ∨ f = 3 then 1 else v) else if i = 5 then min v s.rst.swLevel else v := by
  intro f v
  have hv : (if (if f ≤ 3 then f else 0) = 3 then 2 else (if f ≤ 3 then f else 0)) = v := by
    simp only [v]
    split_ifs <;> omega
  have hlink : (if v = 2 then 1 else v) = if f = 2 ∨ f = 3 then 1 else v := by
    simp only [v]
    split_ifs <;> omega
  unfold State.sourceLevel
  rw [if_neg h0]
  exact (congrArg (fun x => if i = 2 ∨ i = 3 ∨ i = 4 then (if x = 2 then 1 else x) else if i = 5 then min x s.rst.swLevel else x) hv).trans
    (congrArg (fun x => if i = 2 ∨ i = 3 ∨ i = 4 then x else if i = 5 then min v s.rst.swLevel else v) hlink)

end

theorem mapField_lt {old new : Nat} (ho : old < 16) (hn : new < 16) : mapField old new < 16 := by
  unfold mapField
  split <;> assumption

theorem State.field_lt (s : State) (a lo w : Nat) : s.field a lo w < 2 ^ w := Nat.mod_lt _ (Nat.two_pow_pos w)

/-- A nibble of a word is not changed when the word is cut to 32 bits. -/
theorem bitsAt_mod_word (v : Nat) {k : Nat} (hk : k < 8) : bitsAt (v % 2 ^ 32) (4 * k) 4 = bitsAt v (4 * k) 4 := by
  have hpow : 2 ^ 32 = 2 ^ (4 * k) * (2 ^ 4 * 2 ^ (28 - 4 * k)) := by
    rw [← Nat.pow_add, ← Nat.pow_add]
    congr 1
    omega
  unfold bitsAt
  rw [hpow, Nat.mod_mul_right_div_self, Nat.mod_mul_right_mod]

theorem exec_rstMapWrite_field {s : State} (hs : Tidy s) (hi : Bool) (v : Word) : let a := if hi then Reg.rstMap1 else Reg.rstMap0
    ∃ t, exec (.rstMapWrite hi v) s = .next t ∧ (∃ w, t = s.setReg a w) ∧ ∀ k, k < 8 → t.field a (4 * k) 4 =
      if bitsAt v.toNat (4 * k) 4 < s.field a (4 * k) 4 then bitsAt v.toNat (4 * k) 4 else s.field a (4 * k) 4 := by
  intro a
  have hread (n k : Nat) (hk : k < 8) : (s.setRegN a n).field a (4 * k) 4 = bitsAt n (4 * k) 4 := by
    unfold State.field
    rw [State.regN_setRegN_same a _ hs, bitsAt_mod_word _ hk]
  refine ⟨_, rfl, ⟨_, rfl⟩, fun k hk => (hread _ k hk).trans ?_⟩
  refine (bitsAt_packFields_map 4 (fun i => mapField (s.field a (4 * i) 4) (bitsAt v.toNat (4 * i) 4)) (List.range 8) (by simpa using hk)).trans ?_
  rw [List.getElem_range]
  exact Nat.mod_eq_of_lt (mapField_lt (s.field_lt a (4 * k) 4) (Nat.mod_lt _ (by decide)))

/-! ## The option words (R513, R514) -/

theorem FuseSt.optWord_blank {f : FuseSt} {i : Nat} (h : ∀ k, k < 3 → f.copy i k = 0) : f.optWord i = (optDefault i).map fun v => (v, false) :=
  if_pos ⟨h 0 (by decide), h 1 (by decide), h 2 (by decide)⟩

theorem State.loadMacs_regN (s : State) {a : Nat} (ha : a < Reg.netMac) : s.loadMacs.regN a = s.regN a := by
  unfold State.loadMacs
  refine foldl_eq_of_step (p := fun t => t.regN a) (fun t n => ?_) _ _
  rw [State.regN_setRegN_of_ne _ _ (by omega), State.regN_setRegN_of_ne _ _ (by omega)]

theorem State.loadMacs_fuse (s : State) : s.loadMacs.fuse = s.fuse := by
  refine foldl_eq_of_step (p := State.fuse) (fun t n => ?_) _ _
  rw [State.setRegN_fuse, State.setRegN_fuse]

/-- The state once every option word has been read. -/
def State.optionsRead (s : State) (sh : SMap Nat) (n : Nat) (key : Bool) : State :=
  { s with fuse := { s.fuse with shadow := sh, openKey := key, loaded := true, single := n, failWord := 0 } }

section
variable {s : State} {sh : SMap Nat} {n : Nat} {key : Bool} (h : s.fuse.load 128 0 [] 0 false = .inr (sh, n, key))
include h

theorem State.optionLoad_read : s.optionLoad = (((s.optionsRead sh n key).setRegN Reg.rstMap0 (mapWord false (SMap.get (fun _ => 0) sh 2))).setRegN Reg.rstMap1
    (mapWord true (SMap.get (fun _ => 0) sh 3))).loadMacs := by
  unfold State.optionLoad
  rw [h]
  rfl

theorem State.optionLoad_loaded : s.optionLoad.fuse.loaded = true := by
  rw [State.optionLoad_read h, State.loadMacs_fuse]
  rfl

/-- A load that succeeds gives the map its two words. -/
theorem State.optionLoad_map (hs : Tidy s) : s.optionLoad.regN Reg.rstMap0 = SMap.get (fun _ => 0) sh 2 % 2 ^ 32 / 16 * 16 ∧
    s.optionLoad.regN Reg.rstMap1 = SMap.get (fun _ => 0) sh 3 % 2 ^ 20 := by
  have hs' : Tidy (s.optionsRead sh n key) := hs
  rw [State.optionLoad_read h, State.loadMacs_regN _ (by decide), State.loadMacs_regN _ (by decide), State.regN_setRegN_same _ _ (hs'.setRegN _ _),
    State.regN_setRegN_of_ne _ _ (by decide), State.regN_setRegN_same _ _ hs']
  refine ⟨?_, ?_⟩
  · show SMap.get (fun _ => 0) sh 2 / 16 * 16 % 2 ^ 32 = _
    omega
  · show SMap.get (fun _ => 0) sh 3 % 2 ^ 20 % 2 ^ 32 = _
    omega

end

/-! ## Release (R507, R508, R514) -/

/-- Where the option load ends: RELEASING, or diagnostic hold when it has failed. -/
def State.loadEnds (s : State) : State :=
  if s.fuse.loaded then { s with rst := { s.rst with state := .releasing }, pwr := { s.pwr with pllOn := true } }
  else { s with rst := { s.rst with state := .diagHold, selfTest := optionFailRecord s.fuse.failWord s.fuse.single }, host := { s.host with ready := true } }

section
variable {s : State} (cut role : Bool)

theorem State.beginRelease_waits (h : s.rst.state ≠ .held ∨ s.rst.asserted ≠ 0) : s.beginRelease cut role = s := if_pos h

section
variable (hheld : s.rst.state = .held) (hassert : s.rst.asserted = 0)
include hheld hassert

theorem State.beginRelease_pulse (hpulse : s.fuse.inPulse = true) : s.beginRelease cut role = { s with rst := { s.rst with fuseWait := true } } := by
  unfold State.beginRelease
  rw [if_neg (by simp [hheld, hassert]), if_pos hpulse]

section
variable (hpulse : s.fuse.inPulse = false)
include hpulse

theorem State.beginRelease_level2 (hdeep : s.rst.deepest = 2) : s.beginRelease cut role =
    { s with rst := { s.rst with state := .releasing, wdogs := [] }, pwr := { s.pwr with pllOn := true } } := by
  unfold State.beginRelease
  rw [if_neg (by simp [hheld, hassert]), if_neg (by simp [hpulse])]
  simp only [hdeep]
  rfl

theorem State.beginRelease_level1 (hdeep : s.rst.deepest = 1) : s.beginRelease cut role =
    { s with rst := { s.rst with state := .releasing, wdogs := [], twinRole := role }, pwr := { s.pwr with pllOn := true } } := by
  unfold State.beginRelease
  rw [if_neg (by simp [hheld, hassert]), if_neg (by simp [hpulse])]
  simp only [hdeep]
  rfl

theorem State.beginRelease_level0 (hdeep : s.rst.deepest = 0) : s.beginRelease cut role =
    let u := { s with rst := { s.rst with wdogs := [], twinRole := role } }
    if cut = true then { u with rst := { u.rst with optRestart := true } } else u.optionLoad.loadEnds := by
  unfold State.beginRelease
  rw [if_neg (by simp [hheld, hassert]), if_neg (by simp [hpulse])]
  simp only [hdeep]
  rfl

end

end

end

/-- Settles O55: each source's level by the cases of its map field, and the map after a write and after a level 0 release. -/
theorem levelsOfResetSources : Obligations.LevelsOfResetSources := by
  refine ⟨fun i s h1 _ => ?level, fun _ => rfl, fun hi v s hs => exec_rstMapWrite_field hs hi v, ⟨by decide, by decide⟩,
    fun f h => ⟨?_, ?_⟩, ?release⟩
  case level =>
    intro f v
    have heq := s.sourceLevel_eq (i := i) (Nat.ne_of_gt h1)
    refine ⟨fun h2 h3 h4 h5 => heq.trans ((if_neg ?_).trans (if_neg h5)), fun h => heq.trans (if_pos h), fun h => heq.trans ((if_neg ?_).trans (if_pos h))⟩
    · exact not_or.2 ⟨h2, not_or.2 ⟨h3, h4⟩⟩
    · omega
  · exact FuseSt.optWord_blank fun k hk => (h k hk).1
  · exact FuseSt.optWord_blank fun k hk => (h k hk).2
  case release =>
    intro role sh n key s hs hheld hassert hpulse hdeep hload
    let u : State := { s with rst := { s.rst with wdogs := [], twinRole := role } }
    have hbegin : exec (.resetRelease false role) s = .next u.optionLoad.loadEnds :=
      congrArg Host.Outcome.next ((State.beginRelease_level0 false role hheld hassert hpulse hdeep).trans (if_neg Bool.false_ne_true))
    have hends : u.optionLoad.loadEnds =
        { u.optionLoad with rst := { u.optionLoad.rst with state := .releasing }, pwr := { u.optionLoad.pwr with pllOn := true } } :=
      if_pos (State.optionLoad_loaded (s := u) hload)
    obtain ⟨hmap0, hmap1⟩ := State.optionLoad_map (s := u) hload hs
    exact ⟨_, hbegin.trans (congrArg Host.Outcome.next hends), hmap0, hmap1⟩

/-! ## Watchdogs (R531) -/

/-- A state whose table of watchdogs lists core 0 twice. -/
def doubledWdogs : State := { State.reset with rst := { State.reset.rst with wdogs := [(0, { period := 5 }), (0, { period := 7 })] } }

theorem doubledWdogs_write : exec (.rstWdogWrite 0 0) doubledWdogs = .next ((doubledWdogs.setRegN Reg.rstWdog 0).setWdog 0 {}) := rfl

/-- Refutes O56: the clause on a watchdog's write supposes no canonical table. In `doubledWdogs` a write of period 0 at tick 0 takes the first entry of
core 0 out, and the second one, of period 7, is read then. -/
theorem not_resetSourcesAreAsserted : ¬ Obligations.ResetSourcesAreAsserted := by
  intro h
  obtain ⟨-, hwdog, -⟩ := h
  obtain ⟨⟨t, ht, -, hread, -⟩, -⟩ := hwdog 0 0 doubledWdogs (by decide)
  obtain rfl := Host.Outcome.next.inj (doubledWdogs_write.symm.trans ht)
  have hperiod : (((doubledWdogs.setRegN Reg.rstWdog 0).setWdog 0 {}).wdog 0).period = 7 := by decide
  exact absurd ((congrArg Wdog.period hread).symm.trans hperiod) (by decide)

end Sys2Proof.Machine
end

section
/-!
Release, the clocks that become good and are lost, and the end of self-test (O57).
-/
namespace Sys2Proof.Machine

/-! ## What a wake that ends leaves of the reset controller and the clocks (R27) -/

theorem State.wakeLateFor_rst_pwr (s : State) (t : Nat) (i : BandId) : ((s.wakeLateFor t i).rst, (s.wakeLateFor t i).pwr) = (s.rst, s.pwr) :=
  ite_eq (p := fun u : State => (u.rst, u.pwr)) rfl rfl

theorem State.tellWakeLate_rst_pwr (s : State) (t : Nat) : ((s.tellWakeLate t).rst, (s.tellWakeLate t).pwr) = (s.rst, s.pwr) := by
  unfold State.tellWakeLate
  dsimp only
  split
  · exact ite_eq (p := fun u : State => (u.rst, u.pwr))
      (foldl_eq_of_step (p := fun u : State => (u.rst, u.pwr)) (fun u i => u.wakeLateFor_rst_pwr t i) _ _) rfl
  · rfl

theorem State.clockArrives_rst_pwr (s : State) (t : Nat) : ((s.clockArrives t).rst, (s.clockArrives t).pwr) = (s.rst, s.pwr) :=
  ite_eq (p := fun u : State => (u.rst, u.pwr)) (s.tellWakeLate_rst_pwr t) rfl

/-! ## A clock becomes good (R508, R509) -/

/-- The state once clock `k` is good: its blocks are held no longer, a block release that waits for it goes on, and a hoop's tambours wake. -/
def State.clockRises (s : State) (k : Nat) : State :=
  let u := { s with pwr := { s.pwr with clkGood := s.pwr.clkGood ||| BitVec.ofNat 12 (2 ^ k) }, rst := { s.rst with clkHeld := s.rst.clkHeld.filter fun id => blockClock id ≠ k } }
  let u := u.releasePending
  if 1 ≤ k ∧ k ≤ 4 then (u.clockArrives (2 * k - 2)).clockArrives (2 * k - 1) else u

theorem State.releasePending_keeps_clocks (s : State) :
    s.releasePending.pwr = s.pwr ∧ s.releasePending.rst.state = s.rst.state ∧ s.releasePending.rst.clkHeld = s.rst.clkHeld := by
  unfold State.releasePending
  split
  · exact ⟨rfl, rfl, rfl⟩
  · exact ⟨rfl, rfl, rfl⟩

theorem State.clockRises_keeps (s : State) (k : Nat) : (s.clockRises k).pwr.clkGood = s.pwr.clkGood ||| BitVec.ofNat 12 (2 ^ k) ∧
    (s.clockRises k).rst.state = s.rst.state ∧ (s.clockRises k).rst.clkHeld = s.rst.clkHeld.filter fun id => blockClock id ≠ k := by
  let u := { s with pwr := { s.pwr with clkGood := s.pwr.clkGood ||| BitVec.ofNat 12 (2 ^ k) }, rst := { s.rst with clkHeld := s.rst.clkHeld.filter fun id => blockClock id ≠ k } }
  obtain ⟨hpwr, hstate, hheld⟩ := u.releasePending_keeps_clocks
  have harrive : ((s.clockRises k).rst, (s.clockRises k).pwr) = (u.releasePending.rst, u.releasePending.pwr) := by
    refine ite_eq (p := fun u : State => (u.rst, u.pwr)) ?_ rfl
    rw [State.clockArrives_rst_pwr, State.clockArrives_rst_pwr]
  obtain ⟨hrst, hpwr'⟩ := Prod.mk.injEq .. ▸ harrive
  refine ⟨?_, ?_, ?_⟩
  · rw [hpwr', hpwr]
  · rw [hrst, hstate]
  · rw [hrst, hheld]

section
variable {s : State} {k : Nat}

theorem State.clockIsGood_begins (h : s.rst.state = .releasing) (hgood : (s.pwr.clkGood ||| BitVec.ofNat 12 (2 ^ k)) &&& 0x021 = 0x021) :
    s.clockIsGood k = { s.clockRises k with
      rst := { (s.clockRises k).rst with state := .selfTest }
      pwr := { (s.clockRises k).pwr with coreClk := 0xF, awake := .corePll :: (s.clockRises k).pwr.awake.filter (· ≠ .corePll) } } := by
  obtain ⟨hpwr, hstate, -⟩ := s.clockRises_keeps k
  exact if_pos (c := (s.clockRises k).rst.state = .releasing ∧ (s.clockRises k).pwr.clkGood &&& 0x021 = 0x021) ⟨hstate.trans h, hpwr ▸ hgood⟩

theorem State.clockIsGood_rises (h : s.rst.state ≠ .releasing ∨ (s.pwr.clkGood ||| BitVec.ofNat 12 (2 ^ k)) &&& 0x021 ≠ 0x021) :
    s.clockIsGood k = s.clockRises k := by
  obtain ⟨hpwr, hstate, -⟩ := s.clockRises_keeps k
  refine if_neg (c := (s.clockRises k).rst.state = .releasing ∧ (s.clockRises k).pwr.clkGood &&& 0x021 = 0x021) ?_
  rw [hpwr, hstate]
  exact fun hboth => h.elim (fun hn => hn hboth.1) (fun hn => hn hboth.2)

end

theorem State.clockIsGood_clocks (s : State) (k : Nat) : let good := s.pwr.clkGood ||| BitVec.ofNat 12 (2 ^ k)
    (s.clockIsGood k).pwr.clkGood = good ∧ (s.clockIsGood k).rst.clkHeld = s.rst.clkHeld.filter (fun id => blockClock id ≠ k) ∧
      (s.clockIsGood k).rst.state = if s.rst.state = .releasing ∧ good &&& 0x021 = 0x021 then .selfTest else s.rst.state := by
  intro good
  obtain ⟨hpwr, hstate, hheld⟩ := s.clockRises_keeps k
  by_cases h : s.rst.state = .releasing ∧ good &&& 0x021 = 0x021
  · rw [State.clockIsGood_begins h.1 h.2, if_pos h]
    exact ⟨hpwr, hheld, rfl⟩
  · rw [State.clockIsGood_rises (not_and_or.1 h), if_neg h]
    exact ⟨hpwr, hheld, hstate⟩

/-! ## A clock is lost (R509) -/

/-- The loss of clock `k` as it is counted. -/
def State.clockFalls (s : State) (k : Nat) : State :=
  { s with pwr := { s.pwr with clkGood := s.pwr.clkGood &&& ~~~(BitVec.ofNat 12 (2 ^ k)) } }.count Reg.clkLostCnt 16 1

/-- Block `id` is held again for want of its clock. -/
def State.holdForClock (s : State) (id : Nat) : State :=
  { s with rst := { s.rst with clkHeld := s.rst.clkHeld ++ [id] } }.raise Src.reset Kind.clkLost 0 id

theorem State.foldl_holdForClock_clkHeld (l : List Nat) (s : State) : (l.foldl State.holdForClock s).rst.clkHeld = s.rst.clkHeld ++ l := by
  induction l generalizing s with
  | nil => exact (List.append_nil _).symm
  | cons id l ih =>
    refine (ih (s.holdForClock id)).trans ?_
    show s.rst.clkHeld ++ [id] ++ l = _
    rw [List.append_assoc, List.singleton_append]

section
variable {s : State} {k : Nat}

theorem State.clockIsLost_absent (h : bitAt s.pwr.clkGood.toNat k = false) : s.clockIsLost k = s := if_pos h

theorem State.clockIsLost_eq (h : bitAt s.pwr.clkGood.toNat k = true) : s.clockIsLost k =
    if s.rst.state = .held ∨ s.rst.state = .releasing then s.clockFalls k
    else if k = 0 then (s.clockFalls k).enterSafe.assertSource 10
    else if k = 11 then (s.clockFalls k).assertSource 0
    else (clockBlocks k).foldl State.holdForClock (s.clockFalls k) := if_neg (by simp [h])

theorem State.clockIsLost_clkHeld (h : bitAt s.pwr.clkGood.toNat k = true) (h0 : k ≠ 0) (h11 : k ≠ 11) :
    (s.clockIsLost k).rst.clkHeld = s.rst.clkHeld ++ if s.rst.state = .held ∨ s.rst.state = .releasing then [] else clockBlocks k := by
  rw [State.clockIsLost_eq h, if_neg h0, if_neg h11]
  split
  · exact (List.append_nil _).symm
  · exact State.foldl_holdForClock_clkHeld _ _

end

/-! ## Self-test ends (R508, R519, R521) -/

/-- The record of a self-test whose failing step is `k` (R521). -/
def State.testRecord (s : State) (r : SelfTestResult) (k : Option Nat) : Nat :=
  selfTestRecord { r with failStep := k } s.rst.level (s.field Reg.rstSelftestCfg 0 1) s.fuse.single 0xFF

/-- The record `v` of a self-test is written. -/
def State.tested (s : State) (v : Nat) : State := { s with rst := { s.rst with selfTest := v } }

/-- A self-test that failed leaves the device in diagnostic hold. -/
def State.testHeld (s : State) (v : Nat) : State :=
  { s.tested v with rst := { (s.tested v).rst with state := .diagHold }, host := { s.host with ready := true } }

/-- The message of failing step `k` (R485, R519). -/
def State.testRaise (s : State) (r : SelfTestResult) (k : Nat) : State :=
  match r.hbmTrainFail with
  | some c => if k = 4 then s.raise Src.hbm Kind.hbmTrainFail 0 c else s.raise Src.reset Kind.selftestFail 0 k
  | none => s.raise Src.reset Kind.selftestFail 0 k

section
variable {s : State} {r : SelfTestResult} {k : Nat}

theorem State.testRaise_none (h : r.hbmTrainFail = none) : s.testRaise r k = s.raise Src.reset Kind.selftestFail 0 k := by
  unfold State.testRaise
  rw [h]

theorem State.testRaise_some {c : Nat} (h : r.hbmTrainFail = some c) : s.testRaise r k =
    if k = 4 then s.raise Src.hbm Kind.hbmTrainFail 0 c else s.raise Src.reset Kind.selftestFail 0 k := by
  unfold State.testRaise
  rw [h]

theorem State.testRaise_other (h : k ≠ 4 ∨ r.hbmTrainFail = none) : s.testRaise r k = s.raise Src.reset Kind.selftestFail 0 k := by
  cases hc : r.hbmTrainFail with
  | none => exact State.testRaise_none hc
  | some c =>
    rcases h with h4 | hnone
    · exact (State.testRaise_some hc).trans (if_neg h4)
    · exact absurd (hc.symm.trans hnone) (Option.some_ne_none c)

end

/-- What the boot flash gives self-test: it is read when no step before the sixth fails. -/
def State.testFlash (s : State) (r : SelfTestResult) : State × Bool :=
  if r.failStep.isNone || decide (6 ≤ r.failStep.getD 0) then s.flashRun r.flash else (s, true)

theorem State.testFlash_read {s : State} {r : SelfTestResult} (hr : r.failStep = none) : s.testFlash r = s.flashRun r.flash := by
  unfold State.testFlash
  rw [hr]
  rfl

theorem State.testFlash_unread {s : State} {r : SelfTestResult} {k : Nat} (hr : r.failStep = some k) (hk : k < 6) : s.testFlash r = (s, true) := by
  unfold State.testFlash
  rw [hr]
  exact if_neg (by simpa using hk)

/-- How self-test ends with record `v` and first failing step `failStep`. -/
def State.testEnds (s : State) (r : SelfTestResult) (v : Nat) (failStep : Option Nat) : State :=
  match failStep with
  | none => (s.tested v).becomeReady r.lanesRepaired.toNat
  | some k => (s.testHeld v).testRaise r k

theorem State.selfTestEnds_eq {s : State} {r : SelfTestResult} (h : s.rst.state = .selfTest) :
    let failStep := if (s.testFlash r).2 = true then r.failStep else some 6
    s.selfTestEnds r = (s.testFlash r).1.testEnds r (s.testRecord r failStep) failStep := by
  unfold State.selfTestEnds
  intro failStep
  refine (if_neg (not_not.2 h)).trans ?_
  extract_lets run step rec_ u
  have hrun : run = s.testFlash r := rfl
  have hstep : step = failStep := rfl
  have hrec : rec_ = s.testRecord r step := rfl
  clear_value rec_ step run failStep
  subst hstep hrun
  rw [← hrec]
  cases step with
  | none => rfl
  | some k =>
    dsimp only
    split
    · next c hc => exact (State.testRaise_some hc).symm
    · next hc => exact (State.testRaise_none hc).symm

/-- Settles O57: release by its level, each clock by its place, self-test by its first failing step. -/
theorem releaseClocksAndSelfTest : Obligations.ReleaseClocksAndSelfTest := by
  refine ⟨?release, ?good, ?lost, ?test, fun n s => ⟨rfl, rfl, rfl, rfl, rfl, rfl, rfl⟩⟩
  case release =>
    intro cut role s
    refine ⟨fun h => congrArg _ (State.beginRelease_waits cut role h), fun hheld hassert => ⟨fun hp => congrArg _ (State.beginRelease_pulse cut role hheld hassert hp),
      fun hp hd => congrArg _ (State.beginRelease_level2 cut role hheld hassert hp hd), fun hp hd => congrArg _ (State.beginRelease_level1 cut role hheld hassert hp hd),
      fun hp hd => ?_⟩⟩
    intro u
    have hzero := State.beginRelease_level0 cut role hheld hassert hp hd
    refine ⟨fun hcut => congrArg _ (hzero.trans (if_pos hcut)), fun hcut hload => congrArg _ (hzero.trans ((if_neg (by simp [hcut])).trans (if_pos hload))), ?_⟩
    intro i sh n key hcut hload v
    have hfail : u.optionLoad = v := by
      unfold State.optionLoad
      rw [show u.fuse.load 128 0 [] 0 false = .inl (i, sh, n, key) from hload]
    refine congrArg _ (hzero.trans ((if_neg (by simp [hcut])).trans ?_))
    show u.optionLoad.loadEnds = _
    rw [hfail]
    rfl
  case good =>
    intro k s hk good u₀ u₁ u
    have hexec : exec (.clockGood k) s = .next (s.clockIsGood k) := if_pos hk
    exact ⟨fun h hg => hexec.trans (congrArg _ (State.clockIsGood_begins h hg)), fun h => hexec.trans (congrArg _ (State.clockIsGood_rises h)),
      _, hexec, s.clockIsGood_clocks k⟩
  case lost =>
    intro k s hk
    have hexec : exec (.clkLost k) s = .next (s.clockIsLost k) := if_pos hk
    refine ⟨fun h => hexec.trans (congrArg _ (State.clockIsLost_absent h)), fun h => ?_⟩
    intro u
    have heq := hexec.trans (congrArg _ (State.clockIsLost_eq h))
    refine ⟨fun hst => heq.trans (congrArg _ (if_pos hst)), fun hheld hrel => ?_, _, hexec, State.clockIsLost_clkHeld h⟩
    have heq := heq.trans (congrArg _ (if_neg (not_or.2 ⟨hheld, hrel⟩)))
    exact ⟨fun h0 => heq.trans (congrArg _ (if_pos h0)), fun h11 => heq.trans (congrArg _ ((if_neg (by omega)).trans (if_pos h11))),
      fun h0 h11 => heq.trans (congrArg _ ((if_neg h0).trans (if_neg h11)))⟩
  case test =>
    intro r s
    refine ⟨fun h => congrArg _ (if_pos h), fun h => ?_⟩
    intro rec_ ends held f
    have hrec (k : Option Nat) : rec_ k = s.testRecord r k := rfl
    have hends (u : State) (k : Option Nat) : ends u k = u.tested (s.testRecord r k) := rfl
    have hheld (u : State) (k : Nat) : held u k = u.testHeld (s.testRecord r (some k)) := by
      simp only [held, hends]
      rfl
    have hexec : exec (.selfTestEnd r) s = .next (s.selfTestEnds r) := rfl
    clear_value rec_ ends held
    rw [hexec]
    refine ⟨fun hr hf => ?_, fun hr hf => ?_, fun k hr hk => ?_⟩
    · rw [State.selfTestEnds_eq h, State.testFlash_read hr, if_pos hf, hr, hends]
      rfl
    · rw [State.selfTestEnds_eq h, State.testFlash_read hr, if_neg (by simp [f, hf]), hheld]
      exact congrArg _ (State.testRaise_other (k := 6) (.inl (by decide)))
    · have heq : s.selfTestEnds r = (held s k).testRaise r k := by
        rw [State.selfTestEnds_eq h, State.testFlash_unread hr hk, if_pos rfl, hr, hheld]
        rfl
      refine ⟨fun hother => congrArg _ (heq.trans (State.testRaise_other hother)), fun c h4 hc => ?_⟩
      subst h4
      exact congrArg _ (heq.trans ((State.testRaise_some hc).trans (if_pos rfl)))

end Sys2Proof.Machine
end

section
/-!
Block resets, fuse programming, the sensors and the SMBus target (O58).
-/
namespace Sys2Proof.Machine

/-! ## Block resets (R510) -/

section
variable {s : State}

theorem execRstBlock_refused {c : Nat} {b : BitVec 10} (h : resettable b.toNat = false ∨ s.rst.blk.busy = true ∨ s.rst.state ≠ .running) :
    execRstBlock (.core c) b s = .next { s with rst := { s.rst with blk := { s.rst.blk with rej := true } } } := if_pos h

theorem execRstBlock_taken {c : Nat} {b : BitVec 10} (hr : resettable b.toNat = true) (hb : s.rst.blk.busy = false) (hrun : s.rst.state = .running) :
    let t := { s with rst := { s.rst with blk := { block := b.toNat, busy := true, askedAt := s.time.tick } } }
    execRstBlock (.core c) b s = if t.gated b.toNat then .next t.holdBlock else .next t := if_neg (by simp [hr, hb, hrun])

theorem State.idleOver_iff : s.idleOver = true ↔ s.rst.blk.askedAt + 25 * max 1 (s.field Reg.rstIdleTimeout 0 16) ≤ s.time.tick := decide_eq_true_iff

theorem not_busy_unheld (h : s.rst.blk.busy = false ∨ s.rst.blk.heldAt.isSome = true) : ¬(s.rst.blk.busy = true ∧ s.rst.blk.heldAt = none) := by
  rintro ⟨hbusy, hheld⟩
  rcases h with h | h
  · exact Bool.false_ne_true (h.symm.trans hbusy)
  · simp [hheld] at h

theorem execBlockIdle_unasked (h : s.rst.blk.busy = false ∨ s.rst.blk.heldAt.isSome = true) : execBlockIdle s = .next s := if_neg (not_busy_unheld h)

theorem execIdleTimeout_unasked (h : s.rst.blk.busy = false ∨ s.rst.blk.heldAt.isSome = true) : execIdleTimeout s = .next s :=
  if_neg fun hc => not_busy_unheld h ⟨hc.1, hc.2.1⟩

theorem execIdleTimeout_early (h : s.time.tick < s.rst.blk.askedAt + 25 * max 1 (s.field Reg.rstIdleTimeout 0 16)) : execIdleTimeout s = .next s :=
  if_neg fun hc => absurd (State.idleOver_iff.1 hc.2.2) (Nat.not_le.2 h)

theorem execBlockRelease_unheld (h : s.rst.blk.heldAt = none) : execBlockRelease s = .next s := by
  unfold execBlockRelease
  rw [h]

theorem execBlockRelease_held {k : Nat} (h : s.rst.blk.heldAt = some k) (hb : s.rst.blk.busy = true) : execBlockRelease s =
    if k + 16 ≤ s.time.tick then
      if bitAt s.pwr.clkGood.toNat (blockClock s.rst.blk.block) && !s.gated s.rst.blk.block then
        .next { s with rst := { s.rst with blk := { s.rst.blk with busy := false, pendingClk := false, heldAt := none } } }
      else .next { s with rst := { s.rst with blk := { s.rst.blk with pendingClk := true } } }
    else .next s := by
  unfold execBlockRelease
  rw [h]
  exact if_congr (and_iff_right hb) rfl rfl

end

/-! ## Fuse pulses (R512) -/

theorem execFusePulseEnd_idle {s : State} (h : s.fuse.inPulse = false) : execFusePulseEnd s = .next s := by
  unfold execFusePulseEnd
  rw [h]

theorem execFusePulseEnd_copy {s : State} {k : Nat} {rest : List Nat} (hp : s.fuse.inPulse = true) (hk : s.fuse.toPulse = k :: rest) :
    execFusePulseEnd s = .next { s with fuse := { s.fuse with
      rows := SMap.set (fun _ => 0) s.fuse.rows (128 * k + s.fuse.progWord) s.fuse.progCopy, toPulse := rest, inPulse := !rest.isEmpty } } := by
  unfold execFusePulseEnd
  rw [hp, hk]

/-! ## A sensor's reading (R555–R557) -/

theorem OffRings.sensors : OffRings State.sensors where
  setReg _ _ _ := rfl
  modQueue _ _ _ := rfl
  modSrc _ _ _ := rfl
  spaceWrite _ sp _ _ _ := by cases sp <;> rfl
  raise _ _ _ _ _ := rfl
  host _ _ _ := rfl

/-- Sensor `n` with a valid reading and its warning. -/
def State.readSensor (s : State) (n : Nat) (temp : Int) (warn : Bool) : State :=
  { s with sensors := SMap.set (fun _ => {}) s.sensors n { temp := temp, valid := true, read := true, warn := warn, failed := false } }

/-- The highest reading takes `temp` when it is above it. -/
def State.topTemp (s : State) (n : Nat) (temp : Int) : State :=
  if toSigned 11 (s.field Reg.pwrTempMax 0 11) < temp then s.setRegN Reg.pwrTempMax (ofSigned 11 temp + 65536 * n) else s

/-- Some sensor warns. -/
def State.anyWarn (s : State) : Bool := (List.range 16).any fun k => (s.sensor k).warn

/-- Every sensor has been read. -/
def State.allRead (s : State) : Bool := (List.range 16).all fun k => (s.sensor k).read

section
variable {s t : State} (h : t.sensors = s.sensors)
include h

theorem State.anyWarn_congr : t.anyWarn = s.anyWarn := by
  unfold State.anyWarn State.sensor
  rw [h]

theorem State.allRead_congr : t.allRead = s.allRead := by
  unfold State.allRead State.sensor
  rw [h]

end

theorem State.topTemp_sensors (s : State) (n : Nat) (temp : Int) : (s.topTemp n temp).sensors = s.sensors := ite_eq (p := State.sensors) rfl rfl

theorem State.topTemp_rst (s : State) (n : Nat) (temp : Int) : (s.topTemp n temp).rst = s.rst := ite_eq (p := State.rst) rfl rfl

section
variable {s : State} {n : Nat} {temp : Int} {warn : Bool}

/-- A valid reading: the notice of a new warning `u`, the highest reading, the line of source 51, and what a trip adds. -/
theorem State.sampleSensor_valid (hwarn : (if 400 ≤ temp then true else if temp < 388 then false else (s.sensor n).warn) = warn) :
    let u := if warn && !(s.sensor n).warn then (s.readSensor n temp warn).raise (Src.sensor + n) Kind.thermWarn 0 (thermDetail n temp) else s.readSensor n temp warn
    let u := (u.topTemp n temp).rawLine 51 (s.readSensor n temp warn).anyWarn
    let u := if decide (460 ≤ temp) && !((s.sensor n).valid && decide (460 ≤ (s.sensor n).temp)) then
      u.raise (Src.sensor + n) Kind.thermTrip 0 (thermDetail n temp) else u
    s.sampleSensor n temp true = if (s.readSensor n temp warn).allRead then u.tripState
      else if decide (460 ≤ temp) && !bitAt s.rst.asserted.toNat 11 then u.assertSource 11 else u := by
  intro u₀ u₁ u₂
  have hs₀ : u₀.sensors = (s.readSensor n temp warn).sensors := ite_eq (p := State.sensors) rfl rfl
  have hr₀ : u₀.rst = s.rst := ite_eq (p := State.rst) rfl rfl
  have hs₁ : u₁.sensors = (s.readSensor n temp warn).sensors := (OffRings.sensors.rawLine _ _ _).trans ((State.topTemp_sensors _ _ _).trans hs₀)
  have hr₁ : u₁.rst = s.rst := (OffRings.rst.rawLine _ _ _).trans ((State.topTemp_rst _ _ _).trans hr₀)
  have hs₂ : u₂.sensors = (s.readSensor n temp warn).sensors := ite_eq (p := State.sensors) hs₁ hs₁
  have hr₂ : u₂.rst = s.rst := ite_eq (p := State.rst) hr₁ hr₁
  have hany : (u₀.topTemp n temp).anyWarn = (s.readSensor n temp warn).anyWarn := State.anyWarn_congr ((State.topTemp_sensors _ _ _).trans hs₀)
  have hall : u₂.allRead = (s.readSensor n temp warn).allRead := State.allRead_congr hs₂
  rw [← hall, ← hr₂]
  simp only [u₂, u₁, ← hany]
  unfold State.sampleSensor
  subst hwarn
  simp only [Bool.true_and, if_true, Bool.not_true, Bool.false_and, Bool.false_eq_true, if_false, decide_eq_true_eq]
  rfl

end

/-! ## The SMBus target (R550) -/

section
variable {s : State}

theorem State.smbAnswer_up (h : bitAt s.rst.asserted.toNat 0 = false) (k : Nat) : s.smbAnswer k =
    if k < 0x10 then some (bytesOf ((s.viewRst (0x140 + 4 * k)).getD 0) 2)
    else if k = 0x10 then some (bytesOf (s.regN Reg.pwrTempMax) 2)
    else if k = 0x20 then some (if s.fuse.loaded then bytesOf (s.devIdent + 2 ^ 32 * s.devCaps) 8 else List.replicate 8 0)
    else if k = 0x21 then some (bytesOf ((s.viewRst 0).getD 0 + 2 ^ 32 * (s.viewRst 4).getD 0) 8)
    else if k = 0x22 then some (bytesOf ((s.viewRst 0x180).getD 0) 4)
    else none := if_neg (by simp [State.smbUp, h])

theorem State.smb_down (h : bitAt s.rst.asserted.toNat 0 = true) (k : Nat) : s.smbAnswer k = none ∧ s.smbAra = none := by
  have hup : s.smbUp = false := by simp [State.smbUp, h]
  exact ⟨if_pos hup, if_neg (by simp [hup])⟩

theorem State.smbAlert_warns {n : Nat} (hn : n < 16) (hw : (s.sensor n).warn = true) : s.smbAlert = true :=
  Bool.or_eq_true_iff.2 (.inl (List.any_eq_true.2 ⟨n, List.mem_range.2 hn, hw⟩))

theorem State.smbAlert_quiet (h : ∀ n, n < 16 → (s.sensor n).warn = false) (hrun : s.rst.state = .running) : s.smbAlert = bitAt s.rst.asserted.toNat 11 := by
  have hany : (List.range 16).any (fun n => (s.sensor n).warn) = false := List.any_eq_false.2 fun n hn => by simp [h n (List.mem_range.1 hn)]
  have hepisode : s.thermalEpisode = bitAt s.rst.asserted.toNat 11 := by
    unfold State.thermalEpisode
    rw [hrun, Bool.and_false, Bool.or_false]
  rw [State.smbAlert, hany, hepisode, Bool.false_or]

end

/-- Settles O58: each command by its guards, a reading by its temperature, and the target's answers by their code. -/
theorem blocksFusesAndSensors : Obligations.BlocksFusesAndSensors := by
  refine ⟨fun c b s => ⟨rfl, execRstBlock_refused (c := c), fun hr hb hrun => ?request⟩, fun s => ⟨fun h => ⟨execBlockIdle_unasked h, execIdleTimeout_unasked h⟩,
    execIdleTimeout_early, fun hb hh => ⟨if_pos ⟨hb, hh⟩, fun ht => if_pos ⟨hb, hh, State.idleOver_iff.2 ht⟩⟩, execBlockRelease_unheld, fun k hk hb => ?release⟩,
    fun w key s => ⟨fun h => if_pos h, fun h => if_neg (Bool.eq_false_iff.1 h)⟩, fun s => ⟨execFusePulseEnd_idle, fun k rest => execFusePulseEnd_copy⟩, ?sample, ?smb⟩
  case request =>
    intro t
    have hx := execRstBlock_taken (c := c) hr hb hrun
    exact ⟨fun hg => hx.trans (if_neg (Bool.eq_false_iff.1 hg)), fun hg => hx.trans (if_pos hg)⟩
  case release =>
    intro free
    have hx := execBlockRelease_held hk hb
    exact ⟨fun h => hx.trans (if_neg (Nat.not_le.2 h)), fun h hf => hx.trans ((if_pos h).trans (if_pos hf)),
      fun h hf => hx.trans ((if_pos h).trans (if_neg (Bool.eq_false_iff.1 hf)))⟩
  case sample =>
    intro n temp s hn o now top anyWarn allRead
    have hexec : exec (.thermalSample n temp true) s = .next (s.sampleSensor n temp true) := if_pos hn
    rw [hexec]
    have hcool (h : temp < 388) : (if 400 ≤ temp then true else if temp < 388 then false else (s.sensor n).warn) = false := by
      rw [if_neg (by omega), if_pos h]
    refine ⟨fun h ha hr => congrArg _ ?_, fun h ha hr => congrArg _ ?_, fun h400 h460 hw ha hr => congrArg _ ?_, fun h460 hw hold ha hr hasserted => congrArg _ ?_⟩
    · have htrip : decide (460 ≤ temp) = false := decide_eq_false (by omega)
      have hany : (s.readSensor n temp false).anyWarn = false := ha
      have hall : (s.readSensor n temp false).allRead = false := hr
      rw [State.sampleSensor_valid (hcool h)]
      simp only [htrip, hany, hall, Bool.false_and, Bool.false_eq_true, if_false]
      rfl
    · have htrip : decide (460 ≤ temp) = false := decide_eq_false (by omega)
      have hany : (s.readSensor n temp false).anyWarn = false := ha
      have hall : (s.readSensor n temp false).allRead = true := hr
      rw [State.sampleSensor_valid (hcool h)]
      simp only [htrip, hany, hall, Bool.false_and, Bool.false_eq_true, if_false, if_true]
      rfl
    · have htrip : decide (460 ≤ temp) = false := decide_eq_false (by omega)
      have hnotice : (true && !(s.sensor n).warn) = true := by rw [hw]; rfl
      have hany : (s.readSensor n temp true).anyWarn = true := ha
      have hall : (s.readSensor n temp true).allRead = false := hr
      rw [State.sampleSensor_valid (if_pos h400)]
      simp only [htrip, hnotice, hany, hall, Bool.false_and, Bool.false_eq_true, if_false, if_true]
      rfl
    · have htrip : decide (460 ≤ temp) = true := decide_eq_true h460
      have hnotice : (true && !(s.sensor n).warn) = false := by rw [hw]; rfl
      have hnew : ((s.sensor n).valid && decide (460 ≤ (s.sensor n).temp)) = false := by
        rcases hold with h | h
        · rw [h, Bool.false_and]
        · rw [decide_eq_false (Int.not_le.2 h), Bool.and_false]
      have hany : (s.readSensor n temp true).anyWarn = true := ha
      have hall : (s.readSensor n temp true).allRead = false := hr
      rw [State.sampleSensor_valid (if_pos (by omega))]
      simp only [htrip, hnotice, hnew, hasserted, hany, hall, Bool.true_and, Bool.not_false, Bool.false_eq_true, if_false, if_true]
      rfl
  case smb =>
    intro k s
    refine ⟨fun h => State.smb_down h k, fun h => ⟨fun hk => ?_, ?_, fun hl => ?_, ?_, ?_, fun h16 h20 h21 h22 => ?_, ?_⟩,
      fun ⟨n, hn, hw⟩ => State.smbAlert_warns hn hw, State.smbAlert_quiet⟩
    · rw [State.smbAnswer_up h, if_pos hk]
    · rw [State.smbAnswer_up h, if_neg (by decide), if_pos rfl]
    · rw [State.smbAnswer_up h, if_neg (by decide), if_neg (by decide), if_pos rfl, if_pos hl]
    · rw [State.smbAnswer_up h, if_neg (by decide), if_neg (by decide), if_neg (by decide), if_pos rfl]
    · rw [State.smbAnswer_up h, if_neg (by decide), if_neg (by decide), if_neg (by decide), if_neg (by decide), if_pos rfl]
    · rw [State.smbAnswer_up h, if_neg (by omega), if_neg (by omega), if_neg h20, if_neg h21, if_neg h22]
    · have hup : s.smbUp = true := by simp [State.smbUp, h]
      rw [State.smbAra, hup, Bool.true_and]

end Sys2Proof.Machine
end

section
/-!
The fault collector: the message that is taken, and what each class does (O53).
-/
namespace Sys2Proof.Machine

/-! ## The next message (R483) -/

/-- The fold of `nextMessage` keeps a message of time `t` and takes the lowest source of those of that time. -/
theorem foldl_nextMessage {t : Nat} (l : List FaultMsg) (b : FaultMsg) (hb : b.timeNs = t) :
    let m := l.foldl (fun b m => if m.timeNs = t ∧ m.source < b.source then m else b) b
    m ∈ b :: l ∧ m.timeNs = t ∧ ∀ y ∈ b :: l, y.timeNs = t → m.source ≤ y.source := by
  induction l generalizing b with
  | nil =>
    refine ⟨List.mem_singleton_self b, hb, fun y hy _ => ?_⟩
    rw [List.mem_singleton.1 hy]
    exact Nat.le_refl _
  | cons x l ih =>
    intro m
    by_cases hx : x.timeNs = t ∧ x.source < b.source
    · have hm : m = l.foldl (fun b m => if m.timeNs = t ∧ m.source < b.source then m else b) x := congrArg (l.foldl _) (if_pos hx)
      obtain ⟨hmem, htime, hmin⟩ := ih x hx.1
      rw [← hm] at hmem htime hmin
      refine ⟨List.mem_cons_of_mem b hmem, htime, fun y hy hyt => ?_⟩
      rcases List.mem_cons.1 hy with rfl | hy
      · exact (hmin x List.mem_cons_self hx.1).trans (Nat.le_of_lt hx.2)
      · exact hmin y hy hyt
    · have hm : m = l.foldl (fun b m => if m.timeNs = t ∧ m.source < b.source then m else b) b := congrArg (l.foldl _) (if_neg hx)
      obtain ⟨hmem, htime, hmin⟩ := ih b hb
      rw [← hm] at hmem htime hmin
      refine ⟨?_, htime, fun y hy hyt => ?_⟩
      · rcases List.mem_cons.1 hmem with h | h
        · exact List.mem_cons.2 (.inl h)
        · exact List.mem_cons_of_mem b (List.mem_cons_of_mem x h)
      · rcases List.mem_cons.1 hy with rfl | hy
        · exact hmin y List.mem_cons_self hyt
        · rcases List.mem_cons.1 hy with rfl | hy
          · exact (hmin b List.mem_cons_self hb).trans (Nat.le_of_not_lt fun h => hx ⟨hyt, h⟩)
          · exact hmin y (List.mem_cons_of_mem b hy) hyt

/-! ## Acceptance (R486, R488, R489) -/

/-- The state in which message `m` has been counted. -/
def State.counted (s : State) (m : FaultMsg) : State := s.count (Reg.fltCnt + 4 * m.kind) 16 1

section
variable {s : State} {m : FaultMsg}

section
variable (h : s.rst.state = .held ∨ s.rst.state = .releasing)
include h

theorem State.accept_held : s.accept m = let cls := handledClass (s.kindClass m.kind) m
    if 2 ≤ cls ∧ s.flt.mergeRst = true then
      { s.counted m with flt := { (s.counted m).flt with lastMrg := min (s.flt.lastMrg + 1) 255, lastSec := if s.flt.lastSec = 0 then m.kind else s.flt.lastSec } }
    else (s.counted m).logMessage m cls := if_pos h

end

section
variable (h1 : s.rst.state ≠ .held) (h2 : s.rst.state ≠ .releasing)
include h1 h2

theorem State.accept_logs (hc : handledClass (s.kindClass m.kind) m = 0) : s.accept m = (s.counted m).logMessage m 0 :=
  (if_neg (not_or.2 ⟨h1, h2⟩)).trans (if_pos hc)

theorem State.accept_notifies (hc : handledClass (s.kindClass m.kind) m = 1) : s.accept m = ((s.counted m).logMessage m 1).notify m 1 :=
  (if_neg (not_or.2 ⟨h1, h2⟩)).trans ((if_neg (by omega)).trans (if_pos hc))

theorem State.accept_first (hr : s.flt.reaction = none) (h : 2 ≤ handledClass (s.kindClass m.kind) m) : s.accept m =
    let cls := handledClass (s.kindClass m.kind) m
    let t := ((s.counted m).logMessage m cls).notify m cls
    if cls = 2 then (t.takeIn { first := m, cls := 2 } m).endClass2 else ((t.setReaction { first := m, cls := 3 }).enterSafe).requestReset := by
  refine (if_neg (not_or.2 ⟨h1, h2⟩)).trans ((if_neg (by omega)).trans ((if_neg (by omega)).trans ?_))
  have hr' : (s.counted m).flt.reaction = none := hr
  show (match (s.counted m).flt.reaction with | none => _ | some r => _) = _
  rw [hr']
  rfl

theorem State.accept_later {r : Reaction} (hr : s.flt.reaction = some r) (h : 2 ≤ handledClass (s.kindClass m.kind) m) : s.accept m =
    let cls := handledClass (s.kindClass m.kind) m
    if r.cls < cls then
      ((({ s.counted m with flt := (s.counted m).flt.logWrite (m.entry cls) }.notify m cls).setReaction { r with cls := 3 }).enterSafe).requestReset
    else
      let r' := { r with merged := r.merged + 1, secondary := (if r.secondary = 0 then m.kind else r.secondary) }
      if cls = 2 then (s.counted m).takeIn r' m else (s.counted m).setReaction r' := by
  refine (if_neg (not_or.2 ⟨h1, h2⟩)).trans ((if_neg (by omega)).trans ((if_neg (by omega)).trans ?_))
  have hr' : (s.counted m).flt.reaction = some r := hr
  show (match (s.counted m).flt.reaction with | none => _ | some r => _) = _
  rw [hr']
  rfl

end

end

/-! ## FAULT_MESSAGE (R483) -/

theorem State.collectorSleeps_reset {s : State} (h : s.rst.state = .held ∨ s.rst.state = .releasing) : s.collectorSleeps = false := by
  unfold State.collectorSleeps
  rcases h with h | h
  · rw [h]; rfl
  · rw [h]; rfl

theorem execFaultMessage_idle {s : State} (h : s.flt.inFlight = [] ∨ s.collectorSleeps = true) : execFaultMessage none s = .next s := by
  have hnone : (if s.collectorSleeps then none else nextMessage s.flt.inFlight) = none := by
    rcases h with h | h
    · rw [h]
      exact ite_self _
    · exact if_pos h
  unfold execFaultMessage
  dsimp only
  rw [hnone]

theorem execFaultMessage_unlisted {s : State} {r : RaisedMsg} (h : kindInfo r.kind.toNat = none) : execFaultMessage (some r) s = .next s := if_neg (by simp [h])

theorem execFaultMessage_detected {s : State} {r : RaisedMsg} (h : (kindInfo r.kind.toNat).isSome = true) :
    let n := SMap.get (fun _ => 0) s.flt.seqs r.source.toNat
    let m : FaultMsg := { source := r.source.toNat, kind := r.kind.toNat, cls := kindDefault r.kind.toNat, address := r.address.toNat % 2 ^ 48,
                          detail := r.detail.toNat % 2 ^ 32, tick := s.time.tick % 2 ^ 24, seq := n, timeNs := s.now }
    let t : State := { s with flt := { s.flt with seqs := SMap.set (fun _ => 0) s.flt.seqs r.source.toNat ((n + 1) % 16) } }
    (s.collectorSleeps = false → execFaultMessage (some r) s = .next (t.accept m)) ∧
    (s.collectorSleeps = true → execFaultMessage (some r) s = .next { t with flt := { t.flt with inFlight := t.flt.inFlight ++ [m] } }) := by
  intro n m t
  let u := s.raise r.source.toNat r.kind.toNat r.address.toNat r.detail.toNat
  have hlast : u.flt.inFlight.getLast? = some m := List.getLast?_concat
  have hrest : u.flt.inFlight.dropLast = s.flt.inFlight := List.dropLast_concat
  refine ⟨fun hs => ?_, fun hs => ?_⟩
  · refine (if_pos h).trans ?_
    show (match (if s.collectorSleeps then none else u.flt.inFlight.getLast?) with
      | some x => Host.Outcome.next ({ u with flt := { u.flt with inFlight := u.flt.inFlight.dropLast } }.accept x) | none => .next u) = _
    rw [hs, hlast, hrest]
    rfl
  · refine (if_pos h).trans ?_
    dsimp only
    rw [hs]
    rfl

/-- Settles O53: the message that is taken, its class, and the reaction that it meets. -/
theorem faultMessagesAreTaken : Obligations.FaultMessagesAreTaken := by
  refine ⟨fun s => execFaultMessage_idle, fun r s => ⟨execFaultMessage_unlisted, execFaultMessage_detected⟩, ?next, ?reset, ?running,
    fun who kind cls key s => ⟨fun hk hi => ?inject, fun h => if_neg fun hc => ?_⟩, fun s => ⟨rfl, rfl⟩⟩
  case next =>
    intro x m rest h
    obtain rfl := Option.some.inj h
    exact foldl_nextMessage rest x rfl
  case reset =>
    intro m s hm hst b cls c
    have hx : exec (.faultMessage none) s = .next (b.accept m) := execFaultMessage_takes hm (State.collectorSleeps_reset hst)
    have hx := hx.trans (congrArg _ (State.accept_held (s := b) hst))
    refine ⟨fun h => hx.trans (congrArg _ (if_neg ?_)), fun h2 hmerge => hx.trans (congrArg _ (if_pos ⟨h2, hmerge⟩))⟩
    rintro ⟨h2, hmerge⟩
    rcases h with h | h
    · exact absurd h2 (Nat.not_le.2 h)
    · exact Bool.false_ne_true (h.symm.trans hmerge)
  case running =>
    intro m s hm h1 h2 hs b cls c
    have hx : exec (.faultMessage none) s = .next (b.accept m) := execFaultMessage_takes hm hs
    refine ⟨fun hc => hx.trans (congrArg _ (State.accept_logs (s := b) h1 h2 hc)), fun hc => hx.trans (congrArg _ (State.accept_notifies (s := b) h1 h2 hc)),
      fun hr hc => ?_, fun hr hc => ?_, fun r hr hr2 hc => ?_, fun r hr hr3 hc => ?_⟩
    · have hc' : handledClass (b.kindClass m.kind) m = 2 := hc
      refine hx.trans (congrArg _ ((State.accept_first (s := b) h1 h2 hr (by omega)).trans ?_))
      rw [hc']
      exact if_pos rfl
    · have hc' : handledClass (b.kindClass m.kind) m = 3 := hc
      refine hx.trans (congrArg _ ((State.accept_first (s := b) h1 h2 hr (by omega)).trans ?_))
      rw [hc']
      exact if_neg (by decide)
    · have hc' : handledClass (b.kindClass m.kind) m = 3 := hc
      refine hx.trans (congrArg _ ((State.accept_later (s := b) h1 h2 hr (by omega)).trans ?_))
      rw [hc']
      exact if_pos (by omega)
    · have hc' : handledClass (b.kindClass m.kind) m = 3 := hc
      refine hx.trans (congrArg _ ((State.accept_later (s := b) h1 h2 hr (by omega)).trans ?_))
      rw [hc']
      exact (if_neg (by omega)).trans (if_neg (by decide))
  case inject =>
    refine (if_pos ⟨hk, hi⟩).trans ?_
    cases who with
    | host => rfl
    | core c => rfl
  rcases h with h | h
  · exact h hc.1
  · rw [h] at hc
    exact Bool.false_ne_true hc.2

end Sys2Proof.Machine
end

section
/-!
The buffer wells: allocations, frees, rebuilds, the page cache and the quota registers (O46, O47).
-/
namespace Sys2Proof.Machine

/-! ## The wells and their quotas (R311, R317) -/

@[simp] theorem State.well_modWell (s : State) (w : WellSel) (f : WellSt → WellSt) : (s.modWell w f).well w = f (s.well w) := by cases w <;> rfl

theorem State.modWell_modWell (s : State) (w : WellSel) (f g : WellSt → WellSt) : (s.modWell w f).modWell w g = s.modWell w fun x => g (f x) := by cases w <;> rfl

/-- A change that leaves a well as it is changes nothing. -/
theorem State.modWell_self {s : State} {w : WellSel} {f : WellSt → WellSt} (h : f (s.well w) = s.well w) : s.modWell w f = s := by
  cases w with
  | cell => exact congrArg (fun x => { s with cellWell := x }) h
  | page => exact congrArg (fun x => { s with pageWell := x }) h

section
variable {s t : State} {w : WellSel} (hwell : t.well w = s.well w) (hregs : ∀ a, a = Reg.welCfg ∨ Reg.welCquota ≤ a → t.regN a = s.regN a)
include hwell hregs

/-- The allocation rule reads a well, its size and the quotas. -/
theorem allocRule_congr (o : Nat) : t.allocRule w o = s.allocRule w o := by
  have hquota {b : Nat} (k : Nat) (hb : Reg.welCquota ≤ b) : t.regN (b + 4 * k) = s.regN (b + 4 * k) := hregs _ (.inr (Nat.le_trans hb (Nat.le_add_right _ _)))
  have hres : t.reserve w = s.reserve w := by
    funext k
    cases w with
    | cell => exact congrArg (bitsAt · 0 14) (hquota k (by decide))
    | page => exact congrArg (bitsAt · 0 18) (hquota k (by decide))
  have hlim : t.limit w o = s.limit w o := by
    cases w with
    | cell => exact congrArg (bitsAt · 16 14) (hquota o (by decide))
    | page => exact congrArg (bitsAt · 0 18) (hquota o (by decide))
  have hsize : t.wellSize w = s.wellSize w := by
    cases w with
    | cell => rfl
    | page => exact congrArg (fun x => 1024 * pageUnits (bitsAt x 8 8)) (hregs _ (.inl rfl))
  unfold State.allocRule State.unmet State.wellFree
  rw [hres, hlim, hsize, hwell]

end

/-- A refusal that is counted leaves the wells and what the allocation rule answers. -/
theorem State.refuseAlloc_eq (s : State) (g : Grant) : ∃ a, a < Reg.welCquota ∧ a ≠ Reg.welCfg ∧ s.refuseAlloc g = s.count a 32 1 := by
  cases g with
  | quotaExceeded => exact ⟨_, by decide, by decide, rfl⟩
  | grant => exact ⟨_, by decide, by decide, rfl⟩
  | wellEmpty => exact ⟨_, by decide, by decide, rfl⟩

theorem State.refuseAlloc_well (s : State) (g : Grant) (w : WellSel) : (s.refuseAlloc g).well w = s.well w := by
  obtain ⟨a, -, -, h⟩ := s.refuseAlloc_eq g
  rw [h]
  cases w <;> rfl

theorem State.refuseAlloc_allocRule (s : State) (g : Grant) (w : WellSel) (o : Nat) : (s.refuseAlloc g).allocRule w o = s.allocRule w o := by
  refine allocRule_congr (s.refuseAlloc_well g w) (fun b hb => ?_) o
  obtain ⟨a, hlt, hne, h⟩ := s.refuseAlloc_eq g
  rw [h]
  refine State.regN_setRegN_of_ne s _ ?_
  rcases hb with rfl | hb
  · exact hne.symm
  · omega

/-! ## What firmware is told (R318, R319) -/

/-- Firmware receives status `st` of a request of its own. -/
def State.told (s : State) (w : WellSel) (o st : Nat) : State :=
  if o = 19 ∨ 32 ≤ o then s.modWell w fun x => { x with answers := x.answers ++ [(o, st)] } else s

section
variable {s : State} {w : WellSel} {o n : Nat}

theorem State.tellFirmware_refused (h : (s.well w).granted.length = n) : s.tellFirmware w o n = s.told w o (s.refusalStatus w o) :=
  if_congr (and_iff_left h) rfl rfl

theorem State.tellFirmware_granted (h : (s.well w).granted.length ≠ n) : s.tellFirmware w o n = s := if_neg fun hc => h hc.2

theorem State.refusalStatus_quota (hw : w = .page ∨ s.cellWell.rebuild = false) (h : s.allocRule w o = .quotaExceeded) :
    s.refusalStatus w o = St.quotaExceeded := if_pos ⟨hw, h⟩

theorem State.refusalStatus_empty (h : s.allocRule w o ≠ .quotaExceeded) : s.refusalStatus w o = St.wellEmpty := if_neg fun hc => h hc.2

theorem State.refusalStatus_rebuild (h : s.cellWell.rebuild = true) : s.refusalStatus .cell o = St.wellEmpty := by
  refine if_neg ?_
  rintro ⟨hw | hw, -⟩
  · cases hw
  · exact Bool.false_ne_true (hw.symm.trans h)

/-- A granted buffer is one more among those granted. -/
theorem State.giveBuffer_granted (i : Nat) : ((s.giveBuffer w i o).well w).granted.length = (s.well w).granted.length + 1 := by
  rw [State.giveBuffer, State.well_modWell]
  exact List.length_append

theorem State.tellFirmware_giveBuffer {i : Nat} (h : (s.well w).granted.length = n) : (s.giveBuffer w i o).tellFirmware w o n = s.giveBuffer w i o :=
  State.tellFirmware_granted (by rw [State.giveBuffer_granted]; omega)

/-- A request that is refused is told by the allocation rule in the state before the refusal was counted. -/
theorem State.tellFirmware_refuseAlloc (g : Grant) (h : (s.well w).granted.length = n) :
    (s.refuseAlloc g).tellFirmware w o n = (s.refuseAlloc g).told w o (s.refusalStatus w o) := by
  have hrebuild : (s.refuseAlloc g).cellWell.rebuild = s.cellWell.rebuild := congrArg WellSt.rebuild (s.refuseAlloc_well g .cell)
  rw [State.tellFirmware_refused ((congrArg (fun x => x.granted.length) (s.refuseAlloc_well g w)).trans h)]
  unfold State.refusalStatus
  rw [hrebuild, State.refuseAlloc_allocRule]

end

/-! ## A taken request is served (R316, R317, R322) -/

theorem State.refillOne_granted (s : State) : s.refillOne.pageWell.granted = s.pageWell.granted :=
  ite_eq (p := fun t : State => t.pageWell.granted) rfl rfl

theorem State.refill_granted (n : Nat) (s : State) : (State.refill n s).pageWell.granted = s.pageWell.granted := by
  induction n generalizing s with
  | zero => rfl
  | succ k ih => exact ite_eq (p := fun t : State => t.pageWell.granted) rfl ((ih _).trans s.refillOne_granted)

section
variable {s : State} {w : WellSel} {o : Nat}

theorem State.serveAlloc_rebuild (h : s.cellWell.rebuild = true) : s.serveAlloc .cell o = s.refuseAlloc .wellEmpty := if_pos ⟨rfl, h⟩

/-- Owner `o` takes a buffer of a well. -/
def State.takeBuffer (s : State) (w : WellSel) (o : Nat) : State := match w with | .cell => s.takeCell o | .page => s.takePage o

section
variable (hw : w = .page ∨ s.cellWell.rebuild = false)
include hw

theorem State.serveAlloc_open : s.serveAlloc w o =
    match s.allocRule w o with
    | .grant => s.takeBuffer w o
    | g => s.refuseAlloc g := by
  refine if_neg ?_
  rintro ⟨rfl, h⟩
  rcases hw with hw | hw
  · cases hw
  · exact Bool.false_ne_true (hw.symm.trans h)

theorem State.serveAlloc_refused {g : Grant} (h : s.allocRule w o = g) (hg : g ≠ .grant) : s.serveAlloc w o = s.refuseAlloc g := by
  rw [State.serveAlloc_open hw, h]
  cases g with
  | grant => exact absurd rfl hg
  | quotaExceeded => rfl
  | wellEmpty => rfl

end

theorem State.serveAlloc_page (h : s.allocRule .page o = .grant) : s.serveAlloc .page o = s.takePage o := by
  rw [State.serveAlloc_open (.inl rfl), h]
  rfl

theorem State.serveAlloc_cell (hr : s.cellWell.rebuild = false) (h : s.allocRule .cell o = .grant) : s.serveAlloc .cell o = s.takeCell o := by
  rw [State.serveAlloc_open (.inr hr), h]
  rfl

/-- The page well with a cache that was filled first when it was empty. -/
def State.filledCache (s : State) : State := if s.pageWell.cache = [] then s.refill 256 else s

theorem State.filledCache_granted : s.filledCache.pageWell.granted = s.pageWell.granted :=
  ite_eq (p := fun t : State => t.pageWell.granted) (State.refill_granted _ _) rfl

theorem State.takePage_empty (h : s.filledCache.pageWell.cache = []) : s.takePage o = s.filledCache.refuseAlloc .wellEmpty := by
  unfold State.filledCache at h ⊢
  unfold State.takePage
  dsimp only
  rw [h]

theorem State.takePage_first {i : Nat} {rest : List Nat} (h : s.filledCache.pageWell.cache = i :: rest) :
    s.takePage o = { s.filledCache with pageWell := { s.filledCache.pageWell with cache := rest } }.giveBuffer .page i o := by
  unfold State.filledCache at h ⊢
  unfold State.takePage
  dsimp only
  rw [h]

end

/-- The request of `o` has been taken from those that wait, `l` among them (R318). -/
def State.takenRequest (s : State) (w : WellSel) (l : List Nat) (o : Nat) : State :=
  s.modWell w fun x => { x with waiting := (x.waiting ++ l).erase o, lastTaken := o }

section
variable {s : State} {w : WellSel} {l : List Nat} {o : Nat} (hl : ∀ k ∈ l, k < 64) (ho : nextOwner ((s.well w).waiting ++ l) (s.well w).lastTaken = some o)
include hl ho

/-- The owner that is next is served, and told when it was refused. -/
theorem execWellAllocate_serves (free : Option (Nat × Nat)) : let t := s.takenRequest w l o
    execWellAllocate w l free s = .next ((match free with | some f => t.allocWithFree w o f.1 f.2 | none => t.serveAlloc w o).tellFirmware w o (t.well w).granted.length) := by
  intro t
  have hall : l.all (fun o => decide (o < 64)) = true := List.all_eq_true.2 fun k hk => decide_eq_true (hl k hk)
  refine (if_pos hall).trans ?_
  dsimp only
  have hwell : (s.modWell w fun x => { x with waiting := x.waiting ++ l }).well w = { s.well w with waiting := (s.well w).waiting ++ l } :=
    s.well_modWell w _
  rw [hwell, ho]
  have ht : (s.modWell w fun x => { x with waiting := x.waiting ++ l }).takeRequest w o = t := s.modWell_modWell w _ _
  dsimp only
  rw [ht] <;> rfl

end

/-- A freed cell goes straight to the owner that is next (R314). -/
theorem State.allocWithFree_straight {s : State} {o a p : Nat} (hr : s.cellWell.rebuild = false) (hf : s.freeCheck .cell a p = none)
    (hrule : (s.modWell .cell fun x => { x with owners := SMap.set (fun _ => none) x.owners (a / 0x800) none }).allocRule .cell o = .grant) :
    s.allocWithFree .cell o a p =
      (s.modWell .cell fun x => { x with owners := SMap.set (fun _ => none) x.owners (a / 0x800) none }).giveBuffer .cell (a / 0x800) o := by
  unfold State.allocWithFree
  dsimp only
  rw [hf]
  dsimp only
  rw [if_neg (by simp [hr]), hrule]

/-- Settles O46: the owner that is next is served by the allocation rule and the free store, and a refusal is told. -/
theorem wellsAllocate : Obligations.WellsAllocate := by
  refine ⟨fun w s h => ?_, fun w l o s hl ho => ?_⟩
  · have hself : (s.modWell w fun x => { x with waiting := x.waiting ++ [] }) = s := State.modWell_self (by rw [List.append_nil])
    show execWellAllocate w [] none s = _
    unfold execWellAllocate
    rw [if_pos (by rfl), hself]
    dsimp only
    rw [h, (nextOwner_eq_none_iff (last := (s.well w).lastTaken) (l := []) (by simp)).2 rfl]
  intro t told
  have htold (st : Nat) (u : State) : told st u = u.told w o st := rfl
  clear_value told
  have hx := execWellAllocate_serves hl ho
  have hserve {u v : State} (hs : t.serveAlloc w o = u) (hv : u.tellFirmware w o (t.well w).granted.length = v) : exec (.wellAllocate w l none) s = .next v := by
    refine (hx none).trans ?_
    show Host.Outcome.next ((t.serveAlloc w o).tellFirmware w o (t.well w).granted.length) = _
    rw [hs, hv]
  have hrefuse {g : Grant} {u : State} (hg : (u.well w).granted.length = (t.well w).granted.length) (st : Nat) (hst : u.refusalStatus w o = st) :
      (u.refuseAlloc g).tellFirmware w o (t.well w).granted.length = told st (u.refuseAlloc g) := by
    rw [State.tellFirmware_refuseAlloc g hg, hst, htold]
  refine ⟨fun hw hr => ?quota, fun hw hr => ?empty, fun hw hr => ?rebuild, fun hw hr => ?page, fun hw hr hg => ?cell, fun a p hw hr hf => ?free⟩
  case quota => exact hserve (State.serveAlloc_refused hw hr (by decide)) (hrefuse rfl _ (State.refusalStatus_quota hw hr))
  case empty => exact hserve (State.serveAlloc_refused hw hr (by decide)) (hrefuse rfl _ (State.refusalStatus_empty (by rw [hr]; decide)))
  case rebuild =>
    subst hw
    exact hserve (State.serveAlloc_rebuild hr) (hrefuse rfl _ (State.refusalStatus_rebuild hr))
  case page =>
    subst hw
    intro c
    refine ⟨fun hc hq => hserve ((State.serveAlloc_page hr).trans (State.takePage_empty hc)) (hrefuse ?_ _ (State.refusalStatus_empty hq)),
      fun i rest hc => hserve ((State.serveAlloc_page hr).trans (State.takePage_first hc)) (State.tellFirmware_giveBuffer ?_)⟩
    · exact congrArg List.length (State.filledCache_granted (s := t))
    · exact congrArg List.length (State.filledCache_granted (s := t))
  case cell =>
    subst hw
    intro i
    have htake := State.serveAlloc_cell hr hg
    refine ⟨fun hi => hserve (htake.trans (if_pos hi)) (hrefuse rfl _ (State.refusalStatus_empty (by rw [hg]; decide))),
      fun hi hbad => hserve (htake.trans ((if_neg hi).trans (if_pos hbad)))
        (hrefuse (u := t.startScan.raise Src.cellWell Kind.wellLinkBad (0x800 * i) o) rfl _ (State.refusalStatus_rebuild rfl)),
      fun hi hgood => hserve (htake.trans ((if_neg hi).trans (if_neg (Bool.eq_false_iff.1 hgood)))) (State.tellFirmware_giveBuffer rfl)⟩
  case free =>
    intro u hg
    subst hw
    refine (hx (some (a, p))).trans ?_
    show Host.Outcome.next ((t.allocWithFree .cell o a p).tellFirmware .cell o (t.well .cell).granted.length) = _
    rw [State.allocWithFree_straight hr hf hg]
    exact congrArg _ (State.tellFirmware_giveBuffer rfl)

/-! ## Frees (R314, R316, R321, R322) -/

/-- The source of a well's messages (R482). -/
def wellSource (w : WellSel) : Nat := match w with | .cell => Src.cellWell | .page => Src.pageWell

section
variable {s : State} {w : WellSel} {a o : Nat}

theorem State.freeBuffer_rejected {k : Nat} (h : s.freeCheck w a o = some k) :
    s.freeBuffer w a o = (s.count Reg.welFreeRej 32 1).raise (wellSource w) k a o := by
  unfold State.freeBuffer
  rw [h]
  cases w with
  | cell => rfl
  | page => rfl

/-- Buffer `i` of a well has no owner. -/
def State.unowned (s : State) (w : WellSel) (i : Nat) : State := s.modWell w fun x => { x with owners := SMap.set (fun _ => none) x.owners i none }

theorem State.freeBuffer_cell (h : s.freeCheck .cell a o = none) : s.freeBuffer .cell a o =
    let t := s.unowned .cell (a / 0x800)
    if s.cellWell.rebuild = false then t.pushCell (a / 0x800)
    else if a / 0x800 < 40 * s.time.tick - s.cellWell.scanFrom then { t with cellWell := { t.cellWell with late := t.cellWell.late ++ [a / 0x800] } }
    else t := by
  unfold State.freeBuffer
  rw [h]
  rfl

theorem State.freeBuffer_page (h : s.freeCheck .page a o = none) :
    s.freeBuffer .page a o = (s.unowned .page ((a - 0x200000000) / 0x10000)).pushPage ((a - 0x200000000) / 0x10000) := by
  unfold State.freeBuffer
  rw [h]
  rfl

end

/-! ## The page cache and the rebuilds (R316, R322) -/

theorem State.refill_emptyRing {s : State} (n : Nat) (h : s.pageWell.ringCount = 0) : State.refill n s = s := by
  cases n with
  | zero => rfl
  | succ k => exact if_pos (.inl h)

theorem execPageCacheRefill_none {s : State} (h : 256 ≤ s.pageWell.cache.length ∨ s.pageWell.rebuild = true ∨ s.pageWell.ringCount = 0) :
    execPageCacheRefill s = .next s := by
  unfold execPageCacheRefill
  split
  · next hc =>
    obtain ⟨hlen, hr⟩ := hc
    rcases h with h | h | h
    · omega
    · exact absurd (hr.symm.trans h) (by decide)
    · rw [State.refill_emptyRing 256 h]
  · rfl

theorem execPageRebuildEnd_rewrites {s : State} (h : s.pageWell.rebuild = true) : execPageRebuildEnd s =
    .next (((List.range (s.wellSize .page)).filter fun i =>
      !((s.pageWell.owner i).isSome || s.pageWell.cache.contains i || s.pageWell.freeWait.contains i)).foldl State.ringPush
      { s with pageWell := { s.pageWell with ringHead := 0, ringCount := 0, rebuild := false } }) := by
  rw [List.foldl_filter]
  refine (if_pos h).trans (congrArg Host.Outcome.next ?_)
  refine congrArg (fun f => List.foldl f _ _) (funext fun t => funext fun i => ?_)
  cases ((s.pageWell.owner i).isSome || s.pageWell.cache.contains i || s.pageWell.freeWait.contains i) with
  | false => rfl
  | true => rfl

/-- Settles O47: each free, rebuild, move of the cache and write of a quota by the branch that it takes. -/
theorem wellsTakeFreesAndQuotas : Obligations.WellsTakeFreesAndQuotas := by
  refine ⟨fun w a o s ho => ?free, fun s => ⟨fun h => if_neg (by simp [h]), fun h => if_pos h, fun h => if_neg (by simp [h]), execPageRebuildEnd_rewrites,
    execPageCacheRefill_none, fun hlen hr => if_pos ⟨hlen, hr⟩, fun h => if_neg fun hc => ?_, fun hlen hr => if_pos ⟨hlen, hr⟩⟩, fun o v s ho => ?quota,
    fun units s => ?units⟩
  case free =>
    intro i t
    have hx : exec (.wellFree w a o) s = .next (s.freeBuffer w a o) := if_pos ho
    refine ⟨fun k hk => hx.trans (congrArg _ (State.freeBuffer_rejected hk)), fun hk => ⟨fun hw hr hlate => ?_, fun hw hr hlate => ?_, fun hw hr => ?_,
      fun hw hlen => ?_, fun hw hlen => ?_⟩⟩
    · subst hw
      exact hx.trans (congrArg _ ((State.freeBuffer_cell hk).trans ((if_neg (by simp [hr])).trans (if_neg (Nat.not_lt.2 hlate)))))
    · subst hw
      exact hx.trans (congrArg _ ((State.freeBuffer_cell hk).trans ((if_neg (by simp [hr])).trans (if_pos hlate))))
    · subst hw
      exact hx.trans (congrArg _ ((State.freeBuffer_cell hk).trans (if_pos hr)))
    · subst hw
      exact hx.trans (congrArg _ ((State.freeBuffer_page hk).trans (if_neg (Nat.not_le.2 hlen))))
    · subst hw
      exact hx.trans (congrArg _ ((State.freeBuffer_page hk).trans (if_pos hlen)))
  case quota =>
    intro cell res lim
    exact ⟨fun h => (if_pos ho).trans (if_pos h), fun h => (if_pos ho).trans (if_neg (Bool.eq_false_iff.1 h)), fun h => (if_pos ho).trans (if_pos h),
      fun h => (if_pos ho).trans (if_neg (Bool.eq_false_iff.1 h)), fun h => (if_pos ho).trans (if_pos h), fun h => (if_pos ho).trans (if_neg (Bool.eq_false_iff.1 h))⟩
  case units =>
    intro n
    refine ⟨fun h => if_neg fun hc => ?_, fun h0 hsum => if_pos ⟨h0, hsum⟩⟩
    rcases h with h | h
    · exact h hc.1
    · exact absurd hc.2 (Nat.not_le.2 h)
  obtain ⟨hlen, hr⟩ := hc
  rcases h with h | h
  · omega
  · exact absurd (hr.symm.trans h) (by decide)

end Sys2Proof.Machine
end

section
/-!
The pumps: descriptors that start, end and fail (O48).
-/
namespace Sys2Proof.Machine

section
variable {s : State} {n : Nat}

/-! ## A descriptor that firmware puts (R331) -/

theorem State.putDescriptor_taken {v : Nat} (hn : n < 8) (hv : (s.queue (16 + n)).valid = true) (hf : (s.queue (16 + n)).full = false) :
    s.putDescriptor n (some v) = s.putEntry (16 + n) v := if_pos ⟨hn, hv, hf⟩

theorem State.putDescriptor_refused {v : Nat} (h : 8 ≤ n ∨ (s.queue (16 + n)).valid = false ∨ (s.queue (16 + n)).full = true) :
    s.putDescriptor n (some v) = s := by
  refine if_neg ?_
  rintro ⟨hn, hv, hf⟩
  rcases h with h | h | h
  · omega
  · exact Bool.false_ne_true (h.symm.trans hv)
  · exact Bool.false_ne_true (hf.symm.trans h)

/-! ## The end of a descriptor (R339) -/

/-- How a descriptor ends with a status: HEAD, the pump, the count of those rejected, the pulse and its listener. -/
def State.ended (s : State) (n : Nat) (d : PumpDesc) (st : Nat) : State :=
  let v := s.modQueue (16 + n) fun w => { w with head := (w.head + 1) % 2 ^ 32 }
  let v := v.modPump n fun p => { p with running := none, staging := false, lastStatus := st, done := if st = St.ok then (p.done + 1) % 2 ^ 32 else p.done }
  let v := if st = St.ok then v else v.count (Reg.pmpRejects + 0x10 * n) 32 1
  let v := { v with pulses := { line := d.evtLine, tag := d.tag, err := decide (st ≠ St.ok) } :: v.pulses }
  if st = St.ok then v.pulseDone d.evtLine d else v.pulseError d.evtLine d

theorem State.endDescriptor_eq (s : State) (n : Nat) (d : PumpDesc) (st : Nat) : s.endDescriptor n d st = s.ended n d st := by
  unfold State.endDescriptor State.ended
  by_cases h : st = St.ok
  · simp only [h, ne_eq, not_true, decide_false, Bool.false_eq_true, if_false, if_true]
    rfl
  · simp only [h, ne_eq, not_false_eq_true, decide_true, if_false, if_true]
    rfl

/-! ## A descriptor that starts (R331, R336) -/

theorem State.startDescriptor_none (h : 8 ≤ n ∨ s.pwr.awake.contains (.pump n) = false ∨ (s.pump n).running.isSome = true ∨ (s.queue (16 + n)).valid = false ∨
    (s.queue (16 + n)).isEmpty = true) : s.startDescriptor n = s := if_pos h

section
variable (hn : n < 8) (ha : s.pwr.awake.contains (.pump n) = true) (hr : (s.pump n).running = none) (hv : (s.queue (16 + n)).valid = true)
  (he : (s.queue (16 + n)).isEmpty = false)
include hn ha hr hv he

/-- An idle pump takes the descriptor at the head of its queue. -/
theorem State.startDescriptor_checks : s.startDescriptor n =
    let d := pumpDescOf (s.headEntry (16 + n))
    match d.check n with
    | .reject st => (s.endDescriptor n d st).raise (Src.pump + n) Kind.pumpReject ((s.queue (16 + n)).slot (s.queue (16 + n)).head) st
    | .noOp => s.endDescriptor n d St.ok
    | .move staging => s.modPump n fun p =>
        { p with running := some d, staging := staging, readTill := if staging then s.now + d.elements.length * ((d.elem + 64) / 64 + 1) else p.readTill } := by
  refine if_neg ?_
  rintro (h | h | h | h | h)
  · omega
  · exact Bool.false_ne_true (h.symm.trans ha)
  · simp [hr] at h
  · exact Bool.false_ne_true (h.symm.trans hv)
  · exact Bool.false_ne_true (he.symm.trans h)

end

/-! ## A running descriptor ends or fails (R339, R340) -/

theorem execPumpDone_idle (hn : n < 16) (hr : (s.pump n).running = none) : execPumpDone n s = .next s := by
  refine (if_pos hn).trans ?_
  rw [hr]

theorem execPumpError_idle (hn : n < 16) (hr : (s.pump n).running = none) (hm : n < 8 ∨ (s.tamb (n - 8)).moving = none) (w : Nat) (h : Bool) (a : Nat) :
    execPumpError n w h a s = .next s := by
  refine (if_pos hn).trans ?_
  rw [hr]
  refine if_neg ?_
  rintro ⟨h8, hsome⟩
  rcases hm with hm | hm
  · omega
  · simp [hm] at hsome

/-- An error of a context pump ends its tambour's preload or writeback, and its bank's channel fails. -/
theorem execPumpError_context (hn : n < 16) (hr : (s.pump n).running = none) (h8 : 8 ≤ n) {i : BandId} (hm : (s.tamb (n - 8)).moving = some i) (w : Nat) (h : Bool)
    (a : Nat) : execPumpError n w h a s = .next
      ((((s.contextEnd (n - 8) St.dmaError).count (Reg.pmpRejects + 0x10 * n) 32 1).raise (Src.pump + n) (if h then Kind.hostDmaErr else Kind.eccUncorr) a 0).raise
        (Src.tambour + (n - 8)) Kind.ctxFail (addrC i.ch) (n - 8)) := by
  refine (if_pos hn).trans ?_
  rw [hr]
  refine (if_pos ⟨h8, by rw [hm]; rfl⟩).trans (congrArg Host.Outcome.next ?_)
  let u := ((s.contextEnd (n - 8) St.dmaError).count (Reg.pmpRejects + 0x10 * n) 32 1).raise (Src.pump + n) (if h then Kind.hostDmaErr else Kind.eccUncorr) a 0
  have hu : (u.tamb (n - 8)).moving = some i := (congrArg Tamb.moving (s.contextEnd_tamb (n - 8) St.dmaError (n - 8))).trans hm
  show u.contextError (n - 8) = _
  unfold State.contextError
  rw [hu]

section
variable {d : PumpDesc} (hr : (s.pump n).running = some d)
include hr

theorem execPumpDone_ends (hn : n < 16) (hb : s.badElement d = none) :
    execPumpDone n s = .next (((s.noteAttrs d).moveElements n d (s.pump n).staging d.elements.length).endDescriptor n d St.ok) := by
  refine (if_pos hn).trans ?_
  rw [hr]
  dsimp only
  rw [hb]

theorem execPumpDone_fails (hn : n < 16) {k a : Nat} (hb : s.badElement d = some (k, a)) :
    execPumpDone n s = .next (s.failDescriptor n d (if (s.pump n).staging then 0 else k) true a) := by
  refine (if_pos hn).trans ?_
  rw [hr]
  dsimp only
  rw [hb]

theorem execPumpError_fails (hn : n < 16) (w : Nat) (h : Bool) (a : Nat) : execPumpError n w h a s = .next (s.failDescriptor n d w h a) := by
  refine (if_pos hn).trans ?_
  rw [hr]

end

theorem State.pulseDone_low {l : Nat} (hl : l < 32) (d : PumpDesc) : s.pulseDone l d = s :=
  (if_neg (by omega)).trans ((if_neg (by omega)).trans (if_neg (by omega)))

theorem State.pulseError_low {l : Nat} (hl : l < 32) (d : PumpDesc) : s.pulseError l d = s :=
  (if_neg (by omega)).trans ((if_neg (by omega)).trans ((if_neg (by omega)).trans (if_neg (by omega))))

end

/-- Settles O48: a pump's queue by its head's check, a running descriptor by the first of its reads that fails. -/
theorem pumpsMoveDescriptors : Obligations.PumpsMoveDescriptors := by
  intro n s hn q d ended moved
  have hended (u : State) (d : PumpDesc) (st : Nat) : u.endDescriptor n d st = ended u d st := u.endDescriptor_eq n d st
  have hmoved (u : State) (d : PumpDesc) (staging : Bool) (k : Nat) : u.moveElements n d staging k = moved u d staging k := rfl
  clear_value ended moved
  have hput (put : Option Nat) : exec (.pumpDescriptorStart n put) s = .next ((s.putDescriptor n put).startDescriptor n) := if_pos hn
  have hstart (u : State) : exec (.pumpDescriptorStart n none) u = .next (u.startDescriptor n) := if_pos hn
  refine ⟨fun h => (hstart s).trans (congrArg _ (State.startDescriptor_none h)), fun v h8 hv hf => ?_, fun v h => ?_, fun h8 ha hr hv he => ?start,
    fun hr => ⟨execPumpDone_idle hn hr, fun w h a => ⟨fun hm => execPumpError_idle hn hr hm w h a, fun i h8 hm => execPumpError_context hn hr h8 hm w h a⟩⟩,
    fun r hr => ?running, fun l r hl => ⟨State.pulseDone_low hl r, State.pulseError_low hl r⟩⟩
  · rw [hput, hstart, State.putDescriptor_taken h8 hv hf]
  · rw [hput, hstart, State.putDescriptor_refused h]
  case start =>
    have hx := (hstart s).trans (congrArg _ (State.startDescriptor_checks h8 ha hr hv he))
    refine ⟨fun st hc _ => hx.trans (congrArg _ ?_), fun hc => hx.trans (congrArg _ ?_), fun st hc => hx.trans (congrArg _ ?_)⟩
    · show (match d.check n with | .reject st => _ | .noOp => _ | .move staging => _) = _
      rw [hc, ← hended]
    · show (match d.check n with | .reject st => _ | .noOp => _ | .move staging => _) = _
      rw [hc, ← hended]
    · show (match d.check n with | .reject st => _ | .noOp => _ | .move staging => _) = _
      rw [hc]
  case running =>
    intro u part sev
    have hfail (w : Nat) (h : Bool) (a : Nat) : s.failDescriptor n r w h a =
        (ended (part w) r St.dmaError).raise (Src.pump + n) (if h then Kind.hostDmaErr else Kind.eccUncorr) a (if h then 0 else sev w) := by
      rw [← hended]
      simp only [part, ← hmoved]
      rfl
    refine ⟨fun hb => ?_, fun k a hb => ?_, fun w a => ⟨?_, ?_⟩⟩
    · rw [← hended, ← hmoved]
      exact execPumpDone_ends hr hn hb
    · exact (execPumpDone_fails hr hn hb).trans (congrArg _ (hfail _ true a))
    · exact (execPumpError_fails hr hn w true a).trans (congrArg _ (hfail w true a))
    · exact (execPumpError_fails hr hn w false a).trans (congrArg _ (hfail w false a))

end Sys2Proof.Machine
end

section
/-!
The HBM controller: requests, refresh, self-refresh, training and reads (O49).
-/
namespace Sys2Proof.Machine

section
variable {s : State}

/-! ## Requests (R429, R431, R433) -/

/-- A whole block that a port of the device asks for joins the requests that wait. -/
theorem State.acceptReqs_one {r : HbmReqArgs} (hport : r.port < 8) (h2 : r.port ≠ 2) (h3 : r.port ≠ 3) (ha : r.addr < 0x400000000) :
    s.acceptReqs [r] = { s with hbm := { s.hbm with
      reqs := s.hbm.reqs ++ [{ port := r.port, addr := r.addr / 64 * 64, write := r.write, open_ := r.open_ || decide (4 ≤ r.port), at_ := s.now }]
      idleSince := s.now, exiting := s.hbm.exiting || s.hbm.selfRefresh } } := by
  simp [State.acceptReqs, hport, h2, h3, ha]

theorem State.issueOn_idle {pc : Nat} (h : s.hbm.trained = false ∨ s.hbm.training = true ∨ s.hbm.selfRefresh = true) : s.issueOn pc = s := if_pos h

section
variable {pc : Nat} (h1 : s.hbm.trained = true) (h2 : s.hbm.training = false) (h3 : s.hbm.selfRefresh = false)
include h1 h2 h3

theorem State.issueOn_runs : s.issueOn pc = match s.forcedBank pc with
    | some b => s.refreshBank pc b
    | none => match s.pickReq pc with
      | some r => s.issueReq pc r
      | none => s := if_neg (by simp [h1, h2, h3])

theorem State.issueOn_forced {b : Nat} (h : s.forcedBank pc = some b) : s.issueOn pc = s.refreshBank pc b := by
  rw [State.issueOn_runs h1 h2 h3, h]

theorem State.issueOn_none (h : s.forcedBank pc = none) (hp : s.pickReq pc = none) : s.issueOn pc = s := by
  rw [State.issueOn_runs h1 h2 h3, h, hp]

theorem State.issueOn_picked {r : HbmReq} (h : s.forcedBank pc = none) (hp : s.pickReq pc = some r) : s.issueOn pc = s.issueReq pc r := by
  rw [State.issueOn_runs h1 h2 h3, h, hp]

end

/-! ## Reads (R438–R441) -/

/-- A read returns: its latency and its severity, a poisoned block at its reader, and the row that a verifying read has accumulated. -/
theorem execHbmReadReturn_eq {port : Nat} (hport : port < 8) (addr lat : Nat) (sev : BitVec 2) (reader : HbmReader) :
    execHbmReadReturn port addr lat sev reader s =
      let t := (s.endRead port addr lat).readSeverity addr sev.toNat
      let t := if sev = 3 then t.poisoned reader else t
      .next (match reader with | .verify c k r first value => t.verifyRow c k r first value | _ => t) := if_pos hport

theorem State.readSeverity_clean {addr sev : Nat} (h : sev = 0) : s.readSeverity addr sev = s := if_pos h

theorem State.readSeverity_corrected {addr sev : Nat} (h0 : sev ≠ 0) (h3 : sev ≠ 3) : s.readSeverity addr sev =
    (s.count (Reg.hbmEccCorr + 4 * (pcOf addr / 2)) 32 1).raise (Src.hbmChannel + pcOf addr / 2) Kind.eccCorr addr sev := (if_neg h0).trans (if_neg h3)

/-- The state in which an uncorrected block of address `addr` has been counted and raised. -/
def State.uncorrected (s : State) (addr : Nat) : State :=
  (s.count (Reg.hbmEccUncorr + 4 * (pcOf addr / 2)) 32 1).raise (Src.hbmChannel + pcOf addr / 2) Kind.eccUncorr addr 3

theorem State.readSeverity_uncorrected (addr : Nat) : s.readSeverity addr 3 = s.uncorrected addr := by
  unfold State.readSeverity
  exact (if_neg (by decide)).trans (if_pos rfl)

theorem State.poisoned_encode {t : Nat} {i : BandId} (h : (s.tamb t).coding = some i) (hd : (s.channel i.ch).decode = false) :
    s.poisoned (.encode t none) = ((s.abandon i).name t).settle i.ch := by
  unfold State.poisoned
  dsimp only
  rw [h]
  exact if_neg (by simp [hd])

theorem State.poisoned_decode {t : Nat} {i : BandId} {rs : List Nat} (h : (s.tamb t).coding = some i) (hd : (s.channel i.ch).decode = true) :
    s.poisoned (.decode t rs) = s.modBand i fun u => { u with poisoned := u.poisoned ++ rs } := by
  unfold State.poisoned
  dsimp only
  rw [h]
  exact if_pos hd

section
variable {c k r first value p : Nat} (hp : (s.channel c).inSlot k = some p)
include hp

theorem State.verifyRow_agrees (h : SMap.get (fun _ => 0) s.hbm.ledger (ledgerKey c k r) = value % 2 ^ 32) : s.verifyRow c k r first value = s := by
  unfold State.verifyRow
  dsimp only
  rw [hp]
  exact if_pos (.inr (.inr h))

theorem State.verifyRow_differs (hr : 32 * r < ((s.channel c).cfgOf p).codedLines) (hs : (s.channel c).rowSealed p r = true) (hd : (s.channel c).decode = true)
    (h : SMap.get (fun _ => 0) s.hbm.ledger (ledgerKey c k r) ≠ value % 2 ^ 32) :
    s.verifyRow c k r first value = ((({ s with hbm := { s.hbm with lastBad := some (c, k, r) } }.count Reg.hbmLedgerBad 32 1).raise Src.hbm Kind.rowCheckBad first
      (packFields [(7, c), (1, 1), (5, k), (7, r), (12, 0)])).modPic c p fun y => y.taintRow ((s.channel c).cfgOf p) r) := by
  unfold State.verifyRow
  dsimp only
  rw [hp]
  refine (if_neg ?_).trans (if_pos hd)
  rintro (hl | hl | hl)
  · omega
  · exact Bool.false_ne_true (hl.symm.trans hs)
  · exact h hl

end

/-! ## Refresh, rows and self-refresh (R433, R435, R436) -/

/-- A request at urgency 3 waits for bank `b`. -/
def State.urgentBank (s : State) (pc b : Nat) : Bool :=
  s.hbm.reqs.any fun r => decide (pcOf r.addr = pc) && decide (bankOf r.addr = b) && decide (s.urgency r.port = 3)

theorem State.refreshDue_early {pc b : Nat} (h : s.now < (s.hbmBank pc b).refDue ∨ s.hbm.selfRefresh = true ∨ s.hbm.trained = false) :
    s.refreshDue pc b = s := if_pos h

theorem State.refreshDue_now {pc b : Nat} (hd : (s.hbmBank pc b).refDue ≤ s.now) (hr : s.hbm.selfRefresh = false) (ht : s.hbm.trained = true) :
    s.refreshDue pc b = if s.urgentBank pc b = true ∧ (s.hbmBank pc b).postponed < 4 then
      s.modBank pc b fun k => { k with postponed := k.postponed + 1, refDue := s.now + s.refreshNs } else s.refreshBank pc b := by
  refine if_neg ?_
  rintro (h | h | h)
  · exact absurd hd (Nat.not_le.2 h)
  · exact Bool.false_ne_true (hr.symm.trans h)
  · exact Bool.false_ne_true (h.symm.trans ht)

theorem execSelfRefreshEntry_stays (h : s.hbm.trained = false ∨ s.hbm.training = true ∨ s.hbm.selfRefresh = true ∨ s.hbm.reqs ≠ [] ∨ s.hbm.reads ≠ [] ∨
    s.field Reg.hbmCfg 0 8 = 0 ∨ s.now < s.hbm.idleSince + 1000 * s.field Reg.hbmCfg 0 8) : execSelfRefreshEntry s = .next s := by
  refine congrArg Host.Outcome.next (if_neg ?_)
  rintro ⟨h1, h2, h3, h4, h5, h6, h7⟩
  rcases h with h | h | h | h | h | h | h
  · exact Bool.false_ne_true (h.symm.trans h1)
  · exact Bool.false_ne_true (h2.symm.trans h)
  · exact Bool.false_ne_true (h3.symm.trans h)
  · exact h h4
  · exact h h5
  · exact h6 h
  · exact absurd h7 (Nat.not_le.2 h)

theorem execSelfRefreshExit_stays {wake : Bool} (h : s.hbm.selfRefresh = false ∨ (wake = false ∧ s.hbm.exiting = false)) :
    execSelfRefreshExit wake s = .next s := by
  refine congrArg Host.Outcome.next (if_neg ?_)
  rintro ⟨h1, h2⟩
  rcases h with h | ⟨hw, he⟩
  · exact Bool.false_ne_true (h.symm.trans h1)
  · simp [hw, he] at h2

end

/-- Settles O49: each command of the controller by the condition that it meets. -/
theorem theMemoryController : Obligations.TheMemoryController := by
  refine ⟨?request, ?issue, ?readReturn, ?refresh, ?temp, ?selfRefresh, ?train, ?trainEnd, ?retrack, ?portCfg⟩
  case request =>
    intro pc r s hpc ht hport h2 h3 ha
    refine (if_pos hpc).trans (congrArg _ ?_)
    rw [State.acceptReqs_one hport h2 h3 ha]
    exact State.issueOn_idle (.inl ht)
  case issue =>
    intro pc s hpc
    have hx : exec (.hbmCommandIssue pc []) s = .next (s.issueOn pc) := if_pos hpc
    exact ⟨fun h => hx.trans (congrArg _ (State.issueOn_idle h)), fun h1 h2 h3 => ⟨fun b h => hx.trans (congrArg _ (State.issueOn_forced h1 h2 h3 h)),
      fun h hp => hx.trans (congrArg _ (State.issueOn_none h1 h2 h3 h hp)), fun r h hp => hx.trans (congrArg _ (State.issueOn_picked h1 h2 h3 h hp))⟩⟩
  case readReturn =>
    intro port addr lat sev s hport t c
    have ht : s.endRead port addr lat = t := rfl
    have hx (reader : HbmReader) := execHbmReadReturn_eq (s := s) hport addr lat sev reader
    rw [ht] at hx
    clear_value t
    have hclean (h : sev = 0) : t.readSeverity addr sev.toNat = t := State.readSeverity_clean (by rw [h]; rfl)
    have hpoison (h : sev = 3) (reader : HbmReader) :
        (if sev = 3 then (t.readSeverity addr sev.toNat).poisoned reader else t.readSeverity addr sev.toNat) = (t.uncorrected addr).poisoned reader := by
      subst h
      exact (if_pos rfl).trans (congrArg (fun u : State => u.poisoned reader) (State.readSeverity_uncorrected addr))
    refine ⟨fun h => ?_, fun h0 h3 => ?_, fun h => ?_, fun h => ?_, fun ch k r first value p h hp hl hs hd hv => ?_, fun ch k r first value p h hp hv => ?_⟩
    · exact (hx .plain).trans (congrArg _ ((if_neg (by rw [h]; decide)).trans (hclean h)))
    · have hne : sev.toNat ≠ 0 ∧ sev.toNat ≠ 3 := ⟨fun h => h0 (BitVec.eq_of_toNat_eq h), fun h => h3 (BitVec.eq_of_toNat_eq h)⟩
      exact (hx .plain).trans (congrArg _ ((if_neg h3).trans (State.readSeverity_corrected hne.1 hne.2)))
    · exact (hx .plain).trans (congrArg _ (hpoison h .plain))
    · intro u
      refine ⟨fun n i hi hd => (hx (.encode n none)).trans (congrArg _ ((hpoison h _).trans (State.poisoned_encode hi hd))),
        fun n i rs hi hd => (hx (.decode n rs)).trans (congrArg _ ((hpoison h _).trans (State.poisoned_decode hi hd))),
        fun ch px hd => (hx (.egress ch px)).trans (congrArg _ ((hpoison h _).trans (if_pos hd)))⟩
    · intro u₀ u
      refine (hx (.verify ch k r first value)).trans (congrArg _ ?_)
      rw [if_neg (by rw [h]; decide), hclean h]
      exact State.verifyRow_differs hp hl hs hd hv
    · refine (hx (.verify ch k r first value)).trans (congrArg _ ?_)
      rw [if_neg (by rw [h]; decide), hclean h]
      exact State.verifyRow_agrees hp hv
  case refresh =>
    intro pc b s hpc hb k urgent
    have hx : exec (.hbmRefresh pc b) s = .next (s.refreshDue pc b) := if_pos ⟨hpc, hb⟩
    have hclose : exec (.openRowIdleClose pc b) s = .next (s.closeIdle pc b) := if_pos ⟨hpc, hb⟩
    refine ⟨fun h => hx.trans (congrArg _ (State.refreshDue_early h)), fun hd hr ht => ?_, fun hrow hidle => hclose.trans (congrArg _ (if_pos ⟨hrow, hidle⟩)),
      fun h => hclose.trans (congrArg _ (if_neg fun hc => ?_))⟩
    · have hnow := hx.trans (congrArg _ (State.refreshDue_now hd hr ht))
      refine ⟨fun hu hp => hnow.trans (congrArg _ (if_pos ⟨hu, hp⟩)), fun h => hnow.trans (congrArg _ (if_neg fun hc => ?_))⟩
      rcases h with h | h
      · exact Bool.false_ne_true (h.symm.trans hc.1)
      · exact absurd hc.2 (Nat.not_lt.2 h)
    · rcases h with h | h
      · have hsome : k.row.isSome = true := hc.1
        rw [h] at hsome
        exact Bool.false_ne_true hsome
      · exact absurd hc.2 (Nat.not_le.2 h)
  case temp =>
    intro t s
    refine ⟨fun h => ?_, fun h => ?_⟩
    · have hrange : tempRangeOf t = if 85 < t then 1 else 0 := if_neg (Int.not_lt.2 h)
      have hne : ¬tempRangeOf t = 2 := by rw [hrange]; split <;> decide
      refine congrArg Host.Outcome.next ((if_neg fun hc => hne hc.1).trans ?_)
      rw [hrange]
    · intro u
      have hrange : tempRangeOf t = 2 := if_pos h
      refine ⟨fun h2 => congrArg Host.Outcome.next ((if_neg fun hc => hc.2 h2).trans ?_), fun h2 => congrArg Host.Outcome.next ((if_pos ⟨hrange, h2⟩).trans ?_)⟩
      · rw [hrange]
      · rw [hrange]
  case selfRefresh =>
    intro s idle
    exact ⟨fun h1 h2 h3 h4 h5 h6 h7 => congrArg Host.Outcome.next (if_pos ⟨h1, h2, h3, h4, h5, h6, h7⟩), execSelfRefreshEntry_stays,
      fun wake h1 h2 => congrArg Host.Outcome.next (if_pos ⟨h1, h2⟩), fun wake => execSelfRefreshExit_stays⟩
  case train =>
    intro s busy
    refine ⟨fun h1 h2 h3 => congrArg Host.Outcome.next (if_neg ?_), fun h => congrArg Host.Outcome.next (if_pos ?_)⟩
    · rw [Bool.or_assoc s.anyLive]
      show ¬((s.anyLive || busy || s.hbm.training) = true)
      simp [h1, h2, h3]
    · rw [Bool.or_assoc s.anyLive]
      show (s.anyLive || busy || s.hbm.training) = true
      rcases h with h | h | h <;> simp [h]
  case trainEnd =>
    exact fun lanes c s => ⟨fun h => ⟨if_neg (by simp [h]), if_neg (by simp [h])⟩, fun h => ⟨if_pos h, if_pos h⟩⟩
  case retrack =>
    exact fun c s hc => ⟨fun h => (if_pos hc).trans (congrArg Host.Outcome.next (if_pos h)), fun h => (if_pos hc).trans (congrArg Host.Outcome.next (if_neg (by simp [h])))⟩
  case portCfg =>
    intro n v s hn rsv sum a
    exact ⟨fun h => (if_pos hn).trans (congrArg Host.Outcome.next (if_pos h)), fun h => (if_pos hn).trans (congrArg Host.Outcome.next (if_neg (Nat.not_le.2 h)))⟩

end Sys2Proof.Machine
end

section
/-!
Received frames (R357–R367): the checks of a frame in their order, what an admitted frame leaves, and the ingress writer's landing of a packet.
-/
namespace Sys2Proof.Machine

/-! ## The checks of a frame (R357, R358, R361) -/

section
variable {s : State} {port : Nat} {f : RxFrame}

/-- A frame as the checks see it: the FEC decoder's counts and the port's RX_FRAMES are already there (R386). -/
def State.countedFrame (s : State) (port : Nat) (f : RxFrame) : State := (s.takeFec port f).rxCount Reg.netRxFrames port

/-- The flow that takes a frame, by what its bytes say (R358). -/
def State.flowOf (s : State) (port : Nat) (i : RxInfo) : Option Nat :=
  match i.keys with
  | some k => s.classify port k
  | none => none

theorem State.flowOf_keys {i : RxInfo} {k : RxKeys} (hk : i.keys = some k) : s.flowOf port i = s.classify port k := by
  rw [State.flowOf, hk]

theorem State.flowOf_none {i : RxInfo} (h : i.keys = none ∨ ∃ k, i.keys = some k ∧ s.classify port k = none) : s.flowOf port i = none := by
  rcases h with h | ⟨k, hk, hn⟩
  · rw [State.flowOf, h]
  · exact (State.flowOf_keys hk).trans hn

theorem State.receiveFrame_badFcs (h : f.fcsOk = false ∨ f.fecUncorr ≠ 0) :
    s.receiveFrame port f = (s.countedFrame port f).rxCount Reg.netRxFcsErr port := if_pos h

theorem RxFrame.fcs_passes (hfcs : f.fcsOk = true) (hfec : f.fecUncorr = 0) : ¬(f.fcsOk = false ∨ f.fecUncorr ≠ 0) := by simp [hfcs, hfec]

theorem State.size_passes (hmin : 60 ≤ f.bytes.length) (hmax : f.bytes.length + 4 ≤ s.portFrame port) : ¬(rxLen f < 64 ∨ s.portFrame port < rxLen f) := by
  unfold rxLen
  omega

section
variable (hfcs : f.fcsOk = true) (hfec : f.fecUncorr = 0)
include hfcs hfec

theorem State.receiveFrame_badSize (h : f.bytes.length + 4 < 64 ∨ (s.countedFrame port f).portFrame port < f.bytes.length + 4) :
    s.receiveFrame port f = (s.countedFrame port f).rxCount Reg.netRxSizeErr port :=
  (if_neg (RxFrame.fcs_passes hfcs hfec)).trans (if_pos h)

section
variable (hmin : 60 ≤ f.bytes.length) (hmax : f.bytes.length + 4 ≤ (s.countedFrame port f).portFrame port)
include hmin hmax

theorem State.receiveFrame_pause (h : (parseFrame f.bytes).pause = true) :
    s.receiveFrame port f = (s.countedFrame port f).rxCount Reg.netRxPause port :=
  (if_neg (RxFrame.fcs_passes hfcs hfec)).trans ((if_neg (State.size_passes hmin hmax)).trans (if_pos h))

section
variable (hpause : (parseFrame f.bytes).pause = false)
include hpause

theorem State.receiveFrame_badSum (h : (parseFrame f.bytes).csumOk = false) :
    s.receiveFrame port f = (s.countedFrame port f).rxCount Reg.netRxCsumErr port :=
  (if_neg (RxFrame.fcs_passes hfcs hfec)).trans ((if_neg (State.size_passes hmin hmax)).trans
    ((if_neg (by simp [hpause])).trans (if_pos h)))

section
variable (hsum : (parseFrame f.bytes).csumOk = true)
include hsum

/-- A frame that passes checks 1 to 4 is classified. -/
theorem State.receiveFrame_classified : s.receiveFrame port f =
    match (s.countedFrame port f).flowOf port (parseFrame f.bytes) with
    | some n => (s.countedFrame port f).policeFrame port n f (parseFrame f.bytes)
    | none => if (s.countedFrame port f).forFirmware port f (parseFrame f.bytes) then (s.countedFrame port f).firmwareFrame port f (parseFrame f.bytes)
      else (s.countedFrame port f).rxCount Reg.netRxNoFlow port :=
  (if_neg (RxFrame.fcs_passes hfcs hfec)).trans ((if_neg (State.size_passes hmin hmax)).trans
    ((if_neg (by simp [hpause])).trans (if_neg (by simp [hsum]))))

theorem State.receiveFrame_ofFlow {n : Nat} (h : (s.countedFrame port f).flowOf port (parseFrame f.bytes) = some n) :
    s.receiveFrame port f = (s.countedFrame port f).policeFrame port n f (parseFrame f.bytes) := by
  rw [State.receiveFrame_classified hfcs hfec hmin hmax hpause hsum, h]

theorem State.receiveFrame_noFlow (h : (s.countedFrame port f).flowOf port (parseFrame f.bytes) = none)
    (hfw : (s.countedFrame port f).forFirmware port f (parseFrame f.bytes) = false) :
    s.receiveFrame port f = (s.countedFrame port f).rxCount Reg.netRxNoFlow port := by
  rw [State.receiveFrame_classified hfcs hfec hmin hmax hpause hsum, h]
  exact if_neg (by rw [hfw]; exact Bool.false_ne_true)

theorem State.receiveFrame_firmware (h : (s.countedFrame port f).flowOf port (parseFrame f.bytes) = none)
    (hfw : (s.countedFrame port f).forFirmware port f (parseFrame f.bytes) = true) :
    s.receiveFrame port f = (s.countedFrame port f).firmwareFrame port f (parseFrame f.bytes) := by
  rw [State.receiveFrame_classified hfcs hfec hmin hmax hpause hsum, h]
  exact if_pos hfw

end
end
end
end
end

/-! ## Checks 6 and 7 (R361, R364) -/

section
variable {s t : State} {port n : Nat} {f : RxFrame} {i : RxInfo} {cells : List Nat}

theorem State.forFirmware_ptp (h : i.firmware = 1) : s.forFirmware port f i = true := by
  simp [State.forFirmware, h]

/-- A PTP message waits for firmware in cells of owner 19 (R359, R397). -/
theorem State.firmwareFrame_ptp (h : i.firmware = 1) (hl : s.landFrame port 19 f.bytes = (t, some cells)) : s.firmwareFrame port f i =
    { t with net := { t.net with fwRx := t.net.fwRx ++ [(port, ifqEntry (cells.headD 0) cells.length f.bytes.length 0 port i.rtpOfs (s.rxStamp port f.rxTs))] } } := by
  rw [State.firmwareFrame, hl]
  exact if_pos h

theorem State.policeFrame_aboveBucket (hr : (s.iflow n).rate ≠ 0) (hb : (s.iflow n).bucket < (f.bytes.length + 4) * bucketUnit) : s.policeFrame port n f i =
    (((s.endIntervals 1 n).modIflow n fun w => { w with drops := w.drops + 1 }).meter 1 n fun m => { m with drops := satInc 32 m.drops }).raise Src.ingress
      Kind.policerDrop 0 (flowDetail n port) := if_pos ⟨hr, hb⟩

theorem State.policeFrame_unpoliced (hr : (s.iflow n).rate = 0) : s.policeFrame port n f i = (s.meterPacket port n f i).admitFrame port n f i := by
  refine (if_neg fun h => h.1 hr).trans ?_
  rw [if_pos hr]

/-- An admitted frame that no pass-through takes joins the queue of its flow. -/
theorem State.admitFrame_queued (hk : (s.iflow n).kind ≠ 2) (hl : s.landFrame port port f.bytes = (t, some cells)) (hq : (t.queue (ifqId n)).full = false) :
    s.admitFrame port n f i =
      t.putEntry (ifqId n) (ifqEntry (cells.headD 0) cells.length f.bytes.length n port i.rtpOfs (s.rxStamp port f.rxTs)) := by
  rw [State.admitFrame, hl]
  exact (if_neg fun h => hk h.1).trans (if_neg (by rw [hq]; exact Bool.false_ne_true))

end

/-- Settles O33: the checks of a frame in their order. -/
theorem receivedFramesPassTheChecks : Obligations.ReceivedFramesPassTheChecks := by
  unfold Obligations.ReceivedFramesPassTheChecks
  intro port f s hp c
  have hx : exec (.frameReceive port f) s = .next (if (s.port port).linkUp then (s.wakeBlock (Src.port + port)).receiveFrame port f else s) := if_pos hp
  have hup (h : (s.port port).linkUp = true) {u : State} (hu : (s.wakeBlock (Src.port + port)).receiveFrame port f = u) :
      exec (.frameReceive port f) s = .next u := hx.trans (congrArg _ ((if_pos h).trans hu))
  refine ⟨fun h => hx.trans (congrArg _ (if_neg (by simp [h]))), fun hl h => hup hl (State.receiveFrame_badFcs h), ?_⟩
  intro i
  refine ⟨fun hl hfcs hfec h => hup hl (State.receiveFrame_badSize hfcs hfec h), fun hl hfcs hfec hmin hmax => ?_⟩
  refine ⟨fun h => hup hl (State.receiveFrame_pause hfcs hfec hmin hmax h), fun hpause h => hup hl (State.receiveFrame_badSum hfcs hfec hmin hmax hpause h),
    fun hpause hsum hnone => ?_, fun k n hpause hsum hk hcl => ?_⟩
  · have hflow : c.flowOf port i = none := State.flowOf_none hnone
    exact ⟨fun h => hup hl (State.receiveFrame_noFlow hfcs hfec hmin hmax hpause hsum hflow h), fun h t cells hland =>
      hup hl ((State.receiveFrame_firmware hfcs hfec hmin hmax hpause hsum hflow (State.forFirmware_ptp h)).trans (State.firmwareFrame_ptp h hland))⟩
  · have hflow : c.flowOf port i = some n := (State.flowOf_keys hk).trans hcl
    have htaken := State.receiveFrame_ofFlow hfcs hfec hmin hmax hpause hsum hflow
    refine ⟨fun hr hb => hup hl (htaken.trans (State.policeFrame_aboveBucket hr hb)), ?_⟩
    intro hr m hkind t cells hland hq
    exact hup hl (htaken.trans ((State.policeFrame_unpoliced hr).trans (State.admitFrame_queued hkind hland hq)))

/-! ## The ingress writer (R366, R367) -/

section
variable {s t : State} {flow : Nat}

theorem State.takeIfq_empty (h : (s.queue (ifqId flow)).isEmpty = true) : s.takeIfq flow = (s, none) := if_pos h

theorem State.ingressWrite_empty (h : (s.queue (ifqId flow)).isEmpty = true) : s.ingressWrite flow = s := by
  rw [State.ingressWrite, State.takeIfq_empty h]

theorem State.ingressWrite_unbound {v : Nat} (ht : s.takeIfq flow = (t, some v)) (hc : (t.iflow flow).channel = none) : s.ingressWrite flow = t := by
  simp only [State.ingressWrite, ht, hc]

/-- The word that a frame taken from an IFQ leaves is the one that stood at its head. -/
theorem State.takeIfq_head {v : Nat} (ht : s.takeIfq flow = (t, some v)) : v = s.headEntry (ifqId flow) := by
  unfold State.takeIfq at ht
  split at ht
  · exact absurd (congrArg Prod.snd ht) (by simp)
  · extract_lets w r u at ht
    split at ht
    · exact (Option.some.inj (congrArg Prod.snd ht)).symm
    · exact absurd (congrArg Prod.snd ht) (by simp)

/-- A flow without an earlier copy takes the frame at its own head. -/
theorem State.ingressTo_own (k : Nat) (h : s.earlierCopy flow = none) : State.ingressTo (k + 1) s flow = s.ingressWrite flow := by
  simp [State.ingressTo, h]

theorem State.ingressTo_empty (k : Nat) (h : (s.queue (ifqId flow)).isEmpty = true) : State.ingressTo (k + 1) s flow = s := by
  simp [State.ingressTo, h, State.ingressWrite_empty]

theorem State.ingressTo_copy (k : Nat) {g : Nat} (hq : (s.queue (ifqId flow)).isEmpty = false) (h : s.earlierCopy flow = some g) :
    State.ingressTo (k + 1) s flow = State.ingressTo k (s.ingressWrite g) flow := by
  simp [State.ingressTo, h, hq]

section
variable {c p : Nat} {g : RowSegment} {pkt : VideoPacket}

/-- A packet of one segment of an open band, in time and at a new position, is written into its picture. -/
theorem State.landPacket_written (hs : pkt.segments = [g]) (ho : pkt.overrun = false) (hfit : (s.channel c).cfg.segmentFits g = true)
    (hearly : (s.channel c).cfg.deadlineAt ((s.channel c).tPic p) 0 ≤ s.nowT + (s.channel c).cfg.periodT)
    (hnew : SMap.get (fun _ => none) ((s.channel c).pic p).arrived ((g.row * (s.channel c).cfg.width + g.offset) / s.pktPixels c) = none)
    (hopen : ((s.channel c).pic p).segmentOpen (s.channel c).cfg g = true) :
    s.landPacket flow c p pkt = s.modPic c p fun _ =>
      ({ ((s.channel c).pic p).writeSegment (s.channel c).cfg g with
          arrived := SMap.set (fun _ => none) (((s.channel c).pic p).writeSegment (s.channel c).cfg g).arrived
            ((g.row * (s.channel c).cfg.width + g.offset) / s.pktPixels c) (some pkt) }.decimateLanded (s.channel c).cfg (s.pktPixels c)
              ((g.row * (s.channel c).cfg.width + g.offset) / s.pktPixels c)).markComplete (s.channel c).cfg (s.pktPixels c) s.nowT
        ((s.channel c).cfg.bandsOfPos (s.pktPixels c) ((g.row * (s.channel c).cfg.width + g.offset) / s.pktPixels c)) := by
  have hbad : ¬(pkt.overrun = true ∨ 3 < [g].length ∨ [g].any (fun g => !(s.channel c).cfg.segmentFits g) = true) := by simp [ho, hfit]
  have hopens : (pkt.segments.filter fun g => ((s.channel c).pic p).segmentOpen (s.channel c).cfg g) = [g] := by simp [hs, hopen]
  unfold State.landPacket
  extract_lets x cf pp pic opens written
  simp only [hs]
  rw [if_neg hbad, if_neg (Nat.not_lt.2 hearly), hnew]
  have hwritten : written = ((s.channel c).pic p).writeSegment (s.channel c).cfg g := congrArg (List.foldl (fun q g => q.writeSegment cf g) pic) hopens
  clear_value written
  subst hwritten
  exact if_neg (by rw [show opens = [g] from hopens]; exact List.cons_ne_nil _ _)

end

/-- A packet for a source picture of an encode channel that takes input is given to the landing. -/
theorem State.ingressWrite_landed {v c p : Nat} (ht : s.takeIfq flow = (t, some v)) (hc : (t.iflow flow).channel = some c) (hkind : (t.iflow flow).kind = 0)
    (hd : (t.channel c).decode = false) (hlive : (t.channel c).state.live = true) (hdrain : (t.channel c).state ≠ .draining)
    (hp : (t.channel c).picOfTs t.nowT ((t.channel c).cfg.videoPacket (s.loadFrame (s.chainCells (bitsAt v 14 3) (bitsAt v 0 14)).1 (bitsAt v 17 14))
      (bitsAt v 48 7)).timestamp = some p) :
    s.ingressWrite flow = t.landPacket flow c p ((t.channel c).cfg.videoPacket
      (s.loadFrame (s.chainCells (bitsAt v 14 3) (bitsAt v 0 14)).1 (bitsAt v 17 14)) (bitsAt v 48 7)) := by
  have htakes : ¬((t.iflow flow).kind ≠ 0 ∨ (t.channel c).decode = true ∨ (t.channel c).state.live = false) := by simp [hkind, hd, hlive]
  have hv := State.takeIfq_head ht
  subst hv
  unfold State.ingressWrite
  simp only [ht, hc]
  rw [if_neg htakes, hp]
  exact if_neg fun h => hdrain h.1

end

/-- Settles O34: the frames of a channel's copies in the order of their receipt, and the packet that lands. -/
theorem ingressPacketsLand : Obligations.IngressPacketsLand := by
  unfold Obligations.IngressPacketsLand
  intro flow s hf
  have hx (cell : Nat) : exec (.ingressWrite flow cell) s = .next (if cell = s.headCell flow ∧ s.asleep Src.ingress = false then State.ingressTo 2049 s flow else s) :=
    if_pos hf
  have hhead (ha : s.asleep Src.ingress = false) {u : State} (hu : State.ingressTo 2049 s flow = u) : exec (.ingressWrite flow (s.headCell flow)) s = .next u :=
    (hx _).trans (congrArg _ ((if_pos ⟨rfl, ha⟩).trans hu))
  refine ⟨fun cell h => (hx cell).trans (congrArg _ ?_), fun ha cell => (hx cell).trans (congrArg _ (if_neg (by simp [ha]))),
    fun t v ha hcopy ht hc => hhead ha ((State.ingressTo_own _ hcopy).trans (State.ingressWrite_unbound ht hc)), fun g ha hq hcopy hown =>
      hhead ha ((State.ingressTo_copy _ hq hcopy).trans (State.ingressTo_own _ hown)), ?_⟩
  · rcases h with h | h
    · rw [State.ingressTo_empty _ h, ite_self]
    · exact if_neg fun hc => h hc.1
  · intro t v c p g ha hcopy ht hc hkind x pkt hd hlive hdrain hp hs ho hfit hearly k y hnew hopen
    exact hhead ha ((State.ingressTo_own _ hcopy).trans ((State.ingressWrite_landed ht hc hkind hd hlive hdrain hp).trans
      (State.landPacket_written hs ho hfit hearly hnew hopen)))

end Sys2Proof.Machine
end

section
/-!
A band's way out of the device (R36, R55, R111, R115, R187, R342–R348): the words of its slice, its release, its retirement, and the time code of its picture.
-/
namespace Sys2Proof.Machine

/-! ## A band after a write of it -/

theorem Pic.band_modBand_of_ne_default {y : Pic} {b : Nat} {f : Band → Band} (h : f (y.band b) ≠ {}) : (y.modBand b f).band b = f (y.band b) :=
  SMap_get_set_of_ne_default _ _ h

/-- A band with a value other than the default reads back what was written. -/
theorem State.band_modBand_of_ne_default {s : State} {i : BandId} {f : Band → Band} (h : f (s.band i) ≠ {}) : (s.modBand i f).band i = f (s.band i) := by
  have hband := Pic.band_modBand_of_ne_default h
  have hpic : ((s.channel i.ch).pic i.pic).modBand i.b f ≠ {} := fun he => h (hband.symm.trans (congrArg (Pic.band · i.b) he))
  have hgot : SMap.get (fun _ => {}) (SMap.modify (fun _ => {}) (s.channel i.ch).pics i.pic fun y => y.modBand i.b f) i.pic = ((s.channel i.ch).pic i.pic).modBand i.b f :=
    SMap_get_set_of_ne_default _ _ hpic
  have hchannel : ({ s.channel i.ch with
      pics := SMap.modify (fun _ => {}) (s.channel i.ch).pics i.pic fun y => y.modBand i.b f } : Channel) ≠ {} :=
    fun he => hpic (hgot.symm.trans (congrArg (Channel.pic · i.pic) he))
  have hwritten : (s.modBand i f).channel i.ch = { s.channel i.ch with
      pics := SMap.modify (fun _ => {}) (s.channel i.ch).pics i.pic fun y => y.modBand i.b f } := SMap_get_set_of_ne_default _ _ hchannel
  calc (s.modBand i f).band i
      = (SMap.get (fun _ => {}) (SMap.modify (fun _ => {}) (s.channel i.ch).pics i.pic fun y => y.modBand i.b f) i.pic).band i.b :=
        congrArg (fun x => (Channel.pic x i.pic).band i.b) hwritten
    _ = (((s.channel i.ch).pic i.pic).modBand i.b f).band i.b := congrArg (Pic.band · i.b) hgot
    _ = f (s.band i) := hband

/-! ## Draining a word (R342–R348) -/

section
variable {s : State} {n corrected : Nat} {bad : Bool}

theorem State.drainWord_noBank (h : (s.spout n).closed = []) : s.drainWord n corrected bad = s := by
  rw [State.drainWord, h]
  rfl

/-- The band that a word belongs to. -/
def SpoutWord.bandId (w : SpoutWord) : BandId := ⟨w.ch, w.pic, w.band⟩

/-- The bytes of a slice with those of a word. -/
def State.nalWith (s : State) (w : SpoutWord) : List Nat := (s.band w.bandId).nal ++ spoutBytes w

/-- A word of bank `k` leaves the spout, with the checks of it, and the pumps fill what that empties. -/
def State.wordTaken (s : State) (n k : Nat) (i : BandId) (corrected : Nat) (bad : Bool) : State :=
  ((s.wordChecks n k i corrected bad).modSpout n fun p => p.take k).pumpMirrors 2 n

/-- What the packetizer needs before it takes a word: the packets of a whole slice, or the cells that the slice so far fills; whether it has them. -/
def State.wordNeeds (s : State) (w : SpoutWord) (bad : Bool) : State × Bool :=
  if s.wordLives w.bandId w && w.last && !bad && !(s.band w.bandId).damaged && !(s.band w.bandId).corrupt then
    (if s.backedUp w.ch then (s, false) else (s.giveCells w.bandId).formPackets w.bandId (s.nalWith w))
  else if s.wordLives w.bandId w && !w.last && !bad && !(s.band w.bandId).damaged && !(s.band w.bandId).corrupt then s.cellsFor w.bandId (s.nalWith w).length
  else (s, true)

section
variable {k : Nat} {rest : List Nat} {e : Nat × SpoutWord} (hk : (s.spout n).closed = k :: rest)
  (he : (s.spout n).words.find? (fun e => decide (e.1 = k)) = some e)
include hk he

theorem State.drainWord_eq : s.drainWord n corrected bad =
    if (s.wordNeeds e.2 bad).2 = false then (s.wordNeeds e.2 bad).1
    else if s.wordLives e.2.bandId e.2 = false then (s.wordNeeds e.2 bad).1.wordTaken n k e.2.bandId corrected bad
    else if e.2.last then
      (((s.wordNeeds e.2 bad).1.wordTaken n k e.2.bandId corrected bad).modBand e.2.bandId fun u => { u with nal := s.nalWith e.2 }).sliceDrained e.2.bandId
    else ((s.wordNeeds e.2 bad).1.wordTaken n k e.2.bandId corrected bad).modBand e.2.bandId fun u => { u with nal := s.nalWith e.2 } := by
  unfold State.drainWord
  rw [hk]
  simp only [List.head?_cons, he]
  rfl

theorem State.drainWord_stays {t : State} (h : s.wordNeeds e.2 bad = (t, false)) : s.drainWord n corrected bad = t := by
  rw [State.drainWord_eq hk he, h]
  exact if_pos rfl

theorem State.drainWord_dead (h : s.wordLives e.2.bandId e.2 = false) : s.drainWord n corrected bad = s.wordTaken n k e.2.bandId corrected bad := by
  have hneeds : s.wordNeeds e.2 bad = (s, true) := by simp [State.wordNeeds, h]
  rw [State.drainWord_eq hk he, hneeds]
  exact (if_neg nofun).trans (if_pos h)

section
variable {t : State} (hlives : s.wordLives e.2.bandId e.2 = true) (hneeds : s.wordNeeds e.2 bad = (t, true))
include hlives hneeds

theorem State.drainWord_joins (hlast : e.2.last = false) :
    s.drainWord n corrected bad = (t.wordTaken n k e.2.bandId corrected bad).modBand e.2.bandId fun u => { u with nal := s.nalWith e.2 } := by
  rw [State.drainWord_eq hk he, hneeds]
  exact (if_neg nofun).trans ((if_neg (by simp [hlives])).trans (if_neg (by simp [hlast])))

theorem State.drainWord_ends (hlast : e.2.last = true) : s.drainWord n corrected bad =
    ((t.wordTaken n k e.2.bandId corrected bad).modBand e.2.bandId fun u => { u with nal := s.nalWith e.2 }).sliceDrained e.2.bandId := by
  rw [State.drainWord_eq hk he, hneeds]
  exact (if_neg nofun).trans ((if_neg (by simp [hlives])).trans (if_pos hlast))

end
end

section
variable {w : SpoutWord}

/-- A word in the middle of a slice that will not be sent needs nothing. -/
theorem State.wordNeeds_spoilt (hlast : w.last = false) (h : bad = true ∨ (s.band w.bandId).damaged = true ∨ (s.band w.bandId).corrupt = true) :
    s.wordNeeds w bad = (s, true) := by
  rcases h with h | h | h <;> simp [State.wordNeeds, hlast, h]

section
variable (hlives : s.wordLives w.bandId w = true) (hbad : bad = false) (hdamaged : (s.band w.bandId).damaged = false) (hcorrupt : (s.band w.bandId).corrupt = false)
include hlives hbad hdamaged hcorrupt

theorem State.wordNeeds_cells (hlast : w.last = false) : s.wordNeeds w bad = s.cellsFor w.bandId (s.nalWith w).length := by
  simp [State.wordNeeds, hlives, hlast, hbad, hdamaged, hcorrupt]

theorem State.wordNeeds_packets (hlast : w.last = true) : s.wordNeeds w bad =
    if s.backedUp w.ch then (s, false) else (s.giveCells w.bandId).formPackets w.bandId (s.nalWith w) :=
  if_pos (by simp [hlives, hlast, hbad, hdamaged, hcorrupt])

end
end
end

/-! ## Release (R115, R212, R214) -/

section
variable {s : State} {i : BandId}

/-- The one due band of a channel is the one that the release takes. -/
theorem State.releaseDue_one {c : Nat} (hdue : s.dueBands c = [i]) (hr : (s.band i).released = false) : s.releaseDue c = (s.releaseOne i).1 := by
  simp [State.releaseDue, hdue, hr]

theorem State.releaseOne_go (hstep : s.releaseStep i = .go) (hu : ((s.channel i.ch).pic i.pic).unsentFrom i.b = false) (hp : (s.band i).packets ≠ []) :
    s.releaseOne i = (s.releaseBand i, true) := by
  simp only [State.releaseOne, hstep]
  exact (if_neg (by simp [hu])).trans (if_neg hp)

theorem State.releaseOne_unsent (hstep : s.releaseStep i = .go) (hu : ((s.channel i.ch).pic i.pic).unsentFrom i.b = true) :
    s.releaseOne i = (s.keepUnsent i, true) := by
  simp only [State.releaseOne, hstep]
  exact if_pos hu

theorem State.releaseOne_wait (hstep : s.releaseStep i = .wait) : s.releaseOne i = (s, false) := by
  simp only [State.releaseOne, hstep]

/-! ## Retirement (R55, R187) -/

/-- A band that the moment of its last packet has sent. -/
def Band.sentNow (u : Band) : Band := { u with state := .sent, released := true }

theorem State.sentByTime_due {v : Nat} (hs : (s.band i).state = .coded) (hv : (s.band i).sentAt = some v) (hnow : v ≤ s.nowT) :
    s.sentByTime i = s.modBand i Band.sentNow := by
  rw [State.sentByTime, hs, hv]
  exact if_pos hnow

theorem State.sentByTime_none (hv : (s.band i).sentAt = none) : s.sentByTime i = s := by
  rw [State.sentByTime, hv]
  cases (s.band i).state <;> rfl

theorem State.sentByTime_sent (hs : (s.band i).state = .sent) : s.sentByTime i = s := by
  rw [State.sentByTime, hs]

theorem State.state_sentNow (s : State) (i : BandId) : ((s.modBand i Band.sentNow).band i).state = .sent := by
  have hne : Band.sentNow (s.band i) ≠ {} := fun he => by
    have hstate : BandState.sent = ({} : Band).state := congrArg Band.state he
    exact absurd hstate (by decide)
  rw [State.band_modBand_of_ne_default hne]
  rfl

/-- What a band's time has done to it is done once, before it retires. -/
theorem State.retire_due {v : Nat} (hs : (s.band i).state = .coded) (hv : (s.band i).sentAt = some v) (hnow : v ≤ s.nowT) :
    s.retire i = (s.modBand i Band.sentNow).retire i := by
  unfold State.retire
  rw [State.sentByTime_due hs hv hnow, State.sentByTime_sent (State.state_sentNow s i)]

section
variable (hv : (s.band i).sentAt = none)
include hv

theorem State.retire_waits (h : s.outcomeSettled i = false ∨ (s.channel i.ch).earlierRetired i = false ∨ ((s.channel i.ch).cfgOf i.pic).bandCount ≤ i.b) :
    s.retire i = s := by
  rw [State.retire, State.sentByTime_none hv]
  exact if_pos h

/-- A band that is not the picture's last retires with its records. -/
theorem State.retire_recorded (ho : s.outcomeSettled i = true) (he : (s.channel i.ch).earlierRetired i = true)
    (hb : i.b + 1 < ((s.channel i.ch).cfgOf i.pic).bandCount) (hx : (s.channel i.ch).state = .running ∨ (s.channel i.ch).state = .draining) :
    s.retire i = (((((s.putHookStats i).channelSubs i.ch 0).foldl
      (fun t u => t.putRecord u.qid u.coalesce 1 1 ((s.channel i.ch).bandRecord i.ch i.pic i.b)) (s.putHookStats i)).modBand i
        fun u => { u with state := .retired }).checkDrained i.ch) := by
  have hready : ¬(s.outcomeSettled i = false ∨ (s.channel i.ch).earlierRetired i = false ∨ ((s.channel i.ch).cfgOf i.pic).bandCount ≤ i.b) := by
    simp only [ho, he, Bool.true_eq_false, false_or]
    omega
  have hnotLast : ¬(i.b + 1 = ((s.channel i.ch).cfgOf i.pic).bandCount) := by omega
  rw [State.retire, State.sentByTime_none hv]
  refine (if_neg hready).trans ?_
  simp only [if_pos hx, if_neg hnotLast]

end
end

/-! ## The steps -/

/-- Settles O43: the words of a slice, the release, the retirement and the picture's time code. -/
theorem bandsDrainReleaseAndRetire : Obligations.BandsDrainReleaseAndRetire := by
  unfold Obligations.BandsDrainReleaseAndRetire
  refine ⟨?still, ?drain, ?early, ?release, ?retire, ?time⟩
  case still =>
    intro n corrected bad s hn h
    refine (if_pos hn).trans (congrArg Host.Outcome.next ?_)
    rcases h with h | h | h | h
    · exact if_pos (.inl h)
    · exact if_pos (.inr (.inl h))
    · exact if_pos (.inr (.inr h))
    · rw [State.drainWord_noBank h, ite_self]
  case drain =>
    intro n corrected k bad rest e s hn hsafe hspout hpack hk he i taken
    have hx {t : State} (ht : s.drainWord n corrected bad = t) : exec (.packetizerDrain n corrected bad) s = .next t :=
      (if_pos hn).trans (congrArg Host.Outcome.next ((if_neg (by simp [hsafe, hspout, hpack])).trans ht))
    refine ⟨fun hl => hx (State.drainWord_dead hk he hl),
      fun hl hlast h => hx (State.drainWord_joins hk he hl (State.wordNeeds_spoilt hlast h) hlast), ?cells, ?packets⟩
    case cells =>
      intro hl hlast hb hd hc f
      have hneeds : s.wordNeeds e.2 bad = f := State.wordNeeds_cells hl hb hd hc hlast
      exact ⟨fun hf => hx (State.drainWord_joins hk he hl (hneeds.trans (Prod.ext rfl hf)) hlast),
        fun hf => hx (State.drainWord_stays hk he (hneeds.trans (Prod.ext rfl hf)))⟩
    case packets =>
      intro hl hlast hb hd hc
      have hneeds := State.wordNeeds_packets hl hb hd hc hlast
      have hroom (h : s.backedUp e.2.ch = false) : s.wordNeeds e.2 bad = (s.giveCells i).formPackets i (s.nalWith e.2) := hneeds.trans (if_neg (by simp [h]))
      exact ⟨fun h => hx (State.drainWord_stays hk he (hneeds.trans (if_pos h))),
        fun f h hf => hx (State.drainWord_stays hk he ((hroom h).trans hf)),
        fun f h hf => hx (State.drainWord_ends hk he hl ((hroom h).trans hf) hlast)⟩
  case early =>
    intro c p b s hc h
    refine (if_pos hc).trans (congrArg Host.Outcome.next (if_neg fun hr => ?_))
    obtain ⟨hd, -, hnow⟩ := hr
    rcases h with h | h
    · exact absurd hnow (Nat.not_le.2 h)
    · exact Bool.false_ne_true (hd.symm.trans h)
  case release =>
    intro c p b s hc hd hlive hnow i hdue hr
    have hx {r : State × Bool} (h : s.releaseOne i = r) : exec (.bandRelease c p b) s = .next r.1 :=
      (if_pos hc).trans (congrArg Host.Outcome.next ((if_pos ⟨hd, hlive, hnow⟩).trans ((State.releaseDue_one hdue hr).trans (congrArg Prod.fst h))))
    exact ⟨fun hg hu hp => hx (State.releaseOne_go hg hu hp), fun hg hu => hx (State.releaseOne_unsent hg hu), fun hw => hx (State.releaseOne_wait hw)⟩
  case retire =>
    intro c p b s hc i x
    have hx (t : State) : exec (.statsBandRecord c p b) t = .next (t.retire i) := if_pos hc
    refine ⟨fun v hs hv hnow => (hx s).trans ((congrArg _ (State.retire_due hs hv hnow)).trans (hx _).symm), fun hv h => (hx s).trans (congrArg _ (State.retire_waits hv h)), ?_⟩
    intro hv ho he hb hrun h r
    exact (hx s).trans (congrArg _ (State.retire_recorded hv ho he hb hrun))
  case time =>
    intro c p s hc hd hlive
    refine ⟨fun hnow htc => (if_pos hc).trans (if_pos (by simp [hd, hlive, hnow, htc])), fun h => (if_pos hc).trans (if_neg ?_)⟩
    rcases h with h | h
    · simp [Nat.not_le.2 h]
    · simp [Option.isSome_iff_ne_none.1 h]

end Sys2Proof.Machine
end

section
/-!
A port's sending side (R370, R371, R378, R382, R383, R391, R399): the gate scheduler's pick, the PTP messages of firmware, and the port's link.
-/
namespace Sys2Proof.Machine

/-! ## The pick (R378) -/

section
variable {s : State} {port : Nat}

theorem State.gatePick_still (h : s.flt.safe = true ∨ s.nowC < (s.gate port).freeAt) : s.gatePick port = s := if_pos h

theorem State.choose_noFlow (s : State) (port n : Nat) : State.choose n s port [] = (s, none) := by
  induction n with
  | zero => rfl
  | succ k ih =>
    have hoffer : s.offer [] k = none := rfl
    rw [State.choose, hoffer, ite_self]
    exact ih

section
variable {f : Nat}

/-- A class without the one waiting head offers nothing. -/
theorem State.offer_otherClass {k : Nat} (hk : (s.gateFlow f).classOf ≠ k) : s.offer [f] k = none := by
  simp [State.offer, hk]

theorem State.offer_own (he : s.headEligible f = true) : s.offer [f] (s.gateFlow f).classOf = some f := by
  simp [State.offer, he]

/-- The classes are gone through from the top down to that of the one waiting head. -/
theorem State.choose_oneHead (he : s.headEligible f = true) (ho : s.gateOpen port (s.gateFlow f).classOf = true) (hg : s.guardLets port f = true) {n : Nat}
    (hn : (s.gateFlow f).classOf < n) : State.choose n s port [f] = (s, some f) := by
  induction n with
  | zero => exact absurd hn (Nat.not_lt_zero _)
  | succ k ih =>
    by_cases hk : (s.gateFlow f).classOf = k
    · subst hk
      rw [State.choose, if_pos ho, State.offer_own he]
      exact if_pos hg
    · rw [State.choose, State.offer_otherClass hk, ite_self]
      exact ih (by omega)

theorem State.purgeFlow_sound (h : s.headDrop port f = none) (n : Nat) : State.purgeFlow n s port f = s := by
  cases n with
  | zero => rfl
  | succ k =>
    rw [State.purgeFlow, h]
    exact ite_self _

/-- What the pick has chosen is sent. -/
def State.sendPicked (port : Nat) (r : State × Option Nat) : State :=
  match r.2 with
  | some f => r.1.sendHead port f
  | none => r.1

section
variable (hsafe : s.flt.safe = false) (hfree : (s.gate port).freeAt ≤ s.nowC) (hwait : s.net.passWait = [])
include hsafe hfree hwait

/-- A free port outside the safe state, where no pass-through frame waits, picks among the queues whose heads it leaves. -/
theorem State.gatePick_free
    (hpurge : (s.portFlows port).foldl (fun t f => State.purgeFlow ((t.queue (efqId f)).fill + t.net.efqWait.length) t port f) s = s) :
    s.gatePick port = State.sendPicked port (State.choose 8 s port (s.portFlows port)) := by
  have hretry : State.retryPass s.net.passWait.length s = s := by
    rw [hwait]
    rfl
  have hruns : ¬(s.flt.safe = true ∨ s.nowC < (s.gate port).freeAt) := by
    rw [hsafe]
    simp only [Bool.false_eq_true, false_or]
    omega
  unfold State.gatePick
  rw [if_neg hruns, hretry]
  dsimp only
  rw [hpurge]
  rfl

theorem State.gatePick_noFlow (h : s.portFlows port = []) : s.gatePick port = s := by
  rw [State.gatePick_free hsafe hfree hwait (by rw [h]; rfl), h, State.choose_noFlow]
  rfl

theorem State.gatePick_oneHead (h : s.portFlows port = [f]) (hc : (s.gateFlow f).classOf < 8) (hd : s.headDrop port f = none) (he : s.headEligible f = true)
    (ho : s.gateOpen port (s.gateFlow f).classOf = true) (hg : s.guardLets port f = true) : s.gatePick port = s.sendHead port f := by
  have hpurge : (s.portFlows port).foldl (fun t f => State.purgeFlow ((t.queue (efqId f)).fill + t.net.efqWait.length) t port f) s = s := by
    rw [h]
    exact State.purgeFlow_sound hd _
  rw [State.gatePick_free hsafe hfree hwait hpurge, h, State.choose_oneHead he ho hg hc]
  rfl

end
end
end

/-! ## PTP messages of firmware (R370, R399) -/

section
variable {s t : State} {port : Nat} {k : PtpKind}

theorem State.fwSend_refused {flow : Nat} {bs : List Nat} (h : State.allocCells (chainLen bs.length) s 19 [] = (t, none)) : s.fwSend flow bs = (t, false) := by
  rw [State.fwSend, h]

/-- A frame of firmware's joins a flow whose queue is there. -/
theorem State.fwSend_joins {flow : Nat} {bs cells : List Nat} (h : State.allocCells (chainLen bs.length) s 19 [] = (t, some cells))
    (hq : ((t.storeFrame cells (bs.map (BitVec.ofNat 8))).queue (efqId flow)).valid = true) : s.fwSend flow bs =
      ((t.storeFrame cells (bs.map (BitVec.ofNat 8))).efqPut flow (efqEntry (cells.headD 0) cells.length bs.length false 19 0 0 false), true) := by
  simp only [State.fwSend, h, if_pos hq]

/-- The PTP messages of its kind that a port has sent. -/
def State.ptpSeq (s : State) (port : Nat) (k : PtpKind) : Nat := (s.time.ptpSent.filter fun e => decide (e = (port, ptpKindCode k))).length

/-- The frame of a port's next PTP message of a kind, which is noted as sent. -/
def State.nextPtp (s : State) (port : Nat) (k : PtpKind) : State × List Nat :=
  State.ptpFrame { s with time := { s.time with ptpSent := (port, ptpKindCode k) :: s.time.ptpSent } } port k (s.ptpSeq port k)

theorem State.ptpSend_none (h : (s.ptpPort port).enable = false ∨ s.flt.safe = true) : s.ptpSend port k = s := if_pos h

/-- A message that is not the SLAVE port's Delay_Req leaves the port's measures. -/
theorem State.ptpSend_frame (he : (s.ptpPort port).enable = true) (hsafe : s.flt.safe = false) (hk : k ≠ .delayReq ∨ s.time.slavePort ≠ some port) :
    s.ptpSend port k = ((s.nextPtp port k).1.fwSend (2032 + port) (s.nextPtp port k).2).1 := by
  have hmeasure : ¬(k = .delayReq ∧ s.time.slavePort = some port) := by tauto
  refine (if_neg (by simp [he, hsafe])).trans ?_
  rw [if_neg hmeasure]
  rfl

end

/-! ## Links (R382, R383, R391) -/

section
variable {s : State} {port : Nat}

/-- LINK_DOWN's effect on a link that is up. -/
def State.linkLost (s : State) (port : Nat) : State :=
  (((s.modPort port fun p => { p with linkUp := false, anDone := false, hiSer := false }).linkPartial port).assertIrq (32 + port)).raise (Src.port + port) Kind.linkDown 0 port

theorem State.linkFalls_up (h : (s.port port).linkUp = true) : s.linkFalls port = s.linkLost port := if_pos h

theorem State.linkFalls_down (h : (s.port port).linkUp = false) : s.linkFalls port = s := if_neg (by simp [h])

end

/-- Settles O37: the pick of a port, its PTP messages and its link. -/
theorem portsSendAndTheirLinks : Obligations.PortsSendAndTheirLinks := by
  unfold Obligations.PortsSendAndTheirLinks
  refine ⟨?pick, ?ptp, ?link⟩
  case pick =>
    intro port s hp
    have hawake (h : s.asleep (Src.gate + port) = false) {t : State} (ht : s.gatePick port = t) : exec (.gatePick port) s = .next t :=
      (if_pos hp).trans (congrArg Host.Outcome.next ((if_neg (by simp [h])).trans ht))
    refine ⟨fun h => (if_pos hp).trans (congrArg Host.Outcome.next ?_), fun hsafe ha hfree hwait =>
      ⟨fun h => hawake ha (State.gatePick_noFlow hsafe hfree hwait h),
        fun f h hc hd he ho hg => hawake ha (State.gatePick_oneHead hsafe hfree hwait h hc hd he ho hg)⟩⟩
    rcases h with h | h | h
    · rw [State.gatePick_still (.inl h), ite_self]
    · rw [State.gatePick_still (.inr h), ite_self]
    · exact if_pos h
  case ptp =>
    intro port k s hp
    have hx {t : State} (ht : s.ptpSend port k = t) : exec (.ptpMessageSend port k) s = .next t := (if_pos hp).trans (congrArg Host.Outcome.next ht)
    refine ⟨fun h => hx (State.ptpSend_none h), ?_⟩
    intro he hsafe hk seq r
    have hframe := State.ptpSend_frame he hsafe hk
    refine ⟨fun t h => hx (hframe.trans (congrArg Prod.fst (State.fwSend_refused h))), ?_⟩
    intro t cells h u hq
    exact hx (hframe.trans (congrArg Prod.fst (State.fwSend_joins h hq)))
  case link =>
    intro port s hp a t down
    have henable (on : Bool) : exec (.netPortEnable port on) s = .next (if on then t on else (t on).linkFalls port) := if_pos hp
    have hdown : exec (.linkDown port) s = .next (s.linkFalls port) := if_pos hp
    refine ⟨henable true, fun h => ⟨(henable false).trans (congrArg _ (State.linkFalls_up h)), hdown.trans (congrArg _ (State.linkFalls_up h))⟩,
      fun h => ⟨(henable false).trans (congrArg _ (State.linkFalls_down h)), hdown.trans (congrArg _ (State.linkFalls_down h))⟩,
      fun hen h => (if_pos hp).trans (if_pos ?_), fun h => (if_pos hp).trans (if_neg ?_)⟩
    · rw [hen, h]
      rfl
    · rcases h with h | h <;> simp [h, a]

end Sys2Proof.Machine
end
